-- ==== Sys2Proof/Word.lean ====
section
/-! DEFINITION. The words of the device: bytes, the fixed-size packets that cross its edges, and the sorted maps that
hold sparse state (registers, HBM, slabs). Little-endian throughout (R6). -/

namespace Sys2Proof

/-- One byte. -/
abbrev Byte := BitVec 8

/-- A command descriptor or a window ring entry: 64 bytes, byte k in bits [8k+7:8k] (R6, R50). -/
abbrev Line := BitVec 512

/-- A billet: 88 bytes, 24 of header then 64 of payload, byte k in bits [8k+7:8k] (R250). -/
abbrev Billet := BitVec 704

/-- A sparse map: pairs of key and value with keys rising, and no pair whose value is the key's default. -/
abbrev SMap (α : Type) := List (Nat × α)

/-- The value of a key: the listed one, or the default. -/
def SMap.get {α : Type} (dflt : α) : SMap α → Nat → α
  | [], _ => dflt
  | (a, v) :: m, k => if a = k then v else SMap.get dflt m k

/-- The map without a key. -/
def SMap.erase {α : Type} (m : SMap α) (k : Nat) : SMap α := m.filter (fun e => e.1 ≠ k)

/-- The map with a key listed at a value, in key order. -/
def SMap.insert {α : Type} : SMap α → Nat → α → SMap α
  | [], k, v => [(k, v)]
  | (a, w) :: m, k, v =>
    if a = k then (k, v) :: m
    else if a < k then (a, w) :: SMap.insert m k v
    else (k, v) :: (a, w) :: m

/-- Give a key a value; the default removes the entry, so equal maps are equal data. -/
def SMap.set {α : Type} [DecidableEq α] (dflt : α) (m : SMap α) (k : Nat) (v : α) : SMap α :=
  if v = dflt then m.erase k else m.insert k v

/-- The canonical form: keys strictly rising, no entry equal to its key's default. -/
def SMap.wf {α : Type} [DecidableEq α] (dflt : Nat → α) : SMap α → Bool
  | [] => true
  | [(a, v)] => v ≠ dflt a
  | (a, v) :: (b, w) :: m => (v ≠ dflt a) && (a < b) && SMap.wf dflt ((b, w) :: m)

end Sys2Proof
end

