-- ==== Sys2Proof/Syntax.lean ====
section
/-! DEFINITION. The commands the device takes, one constructor for each row of spec/opcode_table.json, with its operands:
what the sender gives, or which waiting item, port or unit the event concerns. A command whose conditions do not hold
changes nothing (log 9). -/

namespace Sys2Proof

/-- The aperture a host transport message carries (R41). -/
inductive Aperture where
  | owner | supervisor | user
  deriving DecidableEq, Repr

/-- The waits that stall reports time (R34). -/
inductive Wait where
  /-- TIER_VER_WAIT of a command (R206). -/
  | version (id : Nat)
  /-- TIER_FETCH_WAIT of a LAYER (R227). -/
  | fetch (id : Nat)
  /-- SV_GRANT_WAIT of a partition (R97). -/
  | grant (p : Nat)
  /-- XE_WAIT of an EXCHANGE or COMBINE (R120). -/
  | receive (id : Nat)
  /-- XE_EARLY_WAIT of an early receive context, by its serial number (R120). -/
  | early (ctx : Nat)
  /-- SWAP_BUILD_WAIT of a SWAP (R239). -/
  | build (id : Nat)
  /-- WIN_WAIT of a window ring (R282). -/
  | window (ring : Nat)
  /-- COLL_WAIT of a COLLECTIVE (R300). -/
  | collective (id : Nat)
  /-- COLL_EARLY_WAIT of an early collective context, by its serial number (R300). -/
  | collEarly (ctx : Nat)
  /-- COLL_ADD_WAIT of an ADD_MSG (R305). -/
  | addAck (id : Nat)
  deriving DecidableEq, Repr

/-- What a scrub read of a line finds (R219). -/
inductive ScrubFinding where
  | clean | corrected | uncorrectable
  deriving DecidableEq, Repr

/-- How a warm reset is started (R363). -/
inductive WarmSource where
  | pin
  | ctrl (ap : Aperture)
  deriving DecidableEq, Repr

/-- A request at a lottery arbiter (R308): its input, the active inputs of the arbiter beneath it for an upper level
(R312), and the command on whose behalf it is made, if any. -/
structure ArbReq where
  input : Nat
  lower : List Nat
  cmd : Option Nat
  deriving DecidableEq, Repr

/-- A Scaler region as the Scaler reads it from the flash (R351): its signed bytes with the key and signature beside
them, and the settings it holds. The spec gives no layout inside the region (log 8). -/
structure ScalerRegion where
  span : List Byte
  modulus : Nat
  exponent : Nat
  signature : Nat
  version : BitVec 24
  rule : BitVec 8
  period : BitVec 64
  gain : List Nat
  offset : List Int
  perGrant : List Nat
  deriving DecidableEq, Repr

/-- What a faulty cell of an array does: a number err * 2^ex added to its product, or bits of its partial sum turned over
(R161, R162). -/
inductive CellErr where
  | product (err ex : Int)
  | sum (turned : BitVec 32)
  deriving DecidableEq, Repr

/-- A fault of one cell while a tile runs: its physical row (32 is the checksum row) and column, the one output column it
strikes or every one, and what the cell does. Whether a check finds it follows from the numbers (R161 to R164). -/
structure ArrayFault where
  row : Fin 33
  column : BitVec 8
  outCol : Option (BitVec 24)
  err : CellErr
  deriving DecidableEq, Repr

/-- Where a fault strikes a CE adder: a number added to the sum of the aligned significands (or to an INT32 sum), one added to
the exponent, the bits turned over by normalisation and rounding, or by the selection of MAX and MIN (R298). -/
inductive AdderSite where
  | sum (err : Int)
  | exponent (err : Int)
  | rounding (turned : BitVec 32)
  | select (turned : BitVec 32)
  deriving DecidableEq, Repr

/-- A fault of a CE adder: the element and, for a chain of contributions, which operation on it (R298). -/
structure AdderFault where
  elem : Nat
  oper : Nat
  site : AdderSite
  deriving DecidableEq, Repr

/-- A turn of a Switch Core output: its port, and the cycles since the latest edge of the count (R266, R27). -/
structure OutputTurn where
  port : Fin 44
  since : BitVec 16
  deriving DecidableEq, Repr

/-- A turn of a collective engine at an ADD: the engine, and a fault of its adder, if one strikes (R306, R298). -/
structure AddTurn where
  ce : Fin 4
  fault : Option AdderFault
  deriving DecidableEq, Repr

/-- A watchdog's limit reached: the arbiter, and the requests among which it then draws (R315). -/
structure Bite where
  arb : BitVec 16
  active : List ArbReq
  deriving DecidableEq, Repr

/-- Which samples of a rail's pair lie outside the range of their converter (R342). -/
structure OutOfRange where
  current : Bool
  voltage : Bool
  deriving DecidableEq, Repr

/-- The commands, in the order of the opcode table. -/
inductive Instr where
  /-- CS_WRITE (R13). A control-space write to a register with no row of its own is checked against its aperture, then
  acts field by field, or is discarded and reported with FAULT_PROT. -/
  | csWrite (ap : Aperture) (addr : BitVec 28) (wide : Bool) (v : BitVec 64)
  /-- CMD_SQ_TAIL (R46). A doorbell write advances a submission queue's tail, modulo the ring size, making new
  descriptors available to fetch. -/
  | cmdSqTail (ap : Aperture) (q : Fin 64) (v : BitVec 32)
  /-- CMD_SQ_CFG (R68). A write binds a submission queue to a partition, job, completion queue and privilege, and
  clears its accounting counters. -/
  | cmdSqCfg (ap : Aperture) (q : Fin 64) (v : BitVec 64)
  /-- SQ_ENABLE (R49). Setting CMD_SQ_CTRL.ENABLE sets HEAD and TAIL to 0, or is refused when the size is invalid or
  the named completion queue is disabled; writing 0 stops fetching. -/
  | sqEnable (ap : Aperture) (q : Fin 64) (on : Bool)
  /-- SQ_RESUME (R45). Writing 1 to CMD_SQ_CTRL.HALTED clears the halt and resumes fetching. -/
  | sqResume (ap : Aperture) (q : Fin 64) (enable : Bool)
  /-- CQ_ENABLE (R49). Setting or clearing CMD_CQ_CFG.ENABLE resets head, tail and phase, or holds records while the
  queue is disabled. -/
  | cqEnable (ap : Aperture) (c : Fin 16) (v : BitVec 32)
  /-- CMD_CQ_HEAD (R48). The host advances a completion ring's head past the records it has consumed, freeing slots.
  -/
  | cmdCqHead (ap : Aperture) (c : Fin 16) (v : BitVec 32)
  /-- DESCRIPTOR_FETCH (R51). The device fetches a descriptor once the in-flight limits allow it, checks it, and
  completes it with BAD_DESCRIPTOR if it fails. -/
  | descriptorFetch (q : Fin 64) (desc : Line)
  /-- COMMAND_LAUNCH (R47). Once its launch conditions all hold, a command launches, resolves its input versions and
  claims its output buffers. -/
  | commandLaunch (q : Fin 64)
  /-- COMMIT (R58). In one cycle, the command processor updates the object table for all of a finished command's
  outputs. -/
  | commit (id : Nat)
  /-- KILL (R60). A command is killed with nothing committed: its versions and deltas are discarded and its buffers
  are returned. -/
  | kill (id : Nat)
  /-- COMPLETION_RECORD_WRITE (R48). When the ring has room, the device writes a held completion record into the next
  completion ring slot. -/
  | completionRecordWrite (c : Fin 16)
  /-- VERSION_RELEASE (R59). A superseded version is released and its buffer freed once no launched command still
  reads it. -/
  | versionRelease (p : Fin 16) (obj : BitVec 24) (buf : Fin 4)
  /-- HOST_LINK_DOWN (R43). The UCIe link goes down: descriptor fetch stops and records bound for host memory are
  held. -/
  | hostLinkDown
  /-- HOST_LINK_UP (R43). The UCIe link comes up again, and held records are written in order. -/
  | hostLinkUp
  /-- LAYER (R152). A LAYER command runs a dense, router, expert or training product on the partition's arrays. -/
  | layer (id : Nat)
  /-- SIEVE (R71). A SIEVE command turns router score tiles into a grain table, a sort index and a Step Report. -/
  | sieve (id : Nat)
  /-- EXCHANGE (R106). An EXCHANGE command dispatches segment headers and token vectors to every member. -/
  | exchange (id : Nat)
  /-- COMBINE (R111). A COMBINE command returns expert outputs to their origins and sums them into the residual. -/
  | combine (id : Nat)
  /-- COLLECTIVE (R283). A COLLECTIVE command runs a hierarchical all-reduce, reduce-scatter, all-gather or broadcast.
  -/
  | collective (id : Nat)
  /-- ADD_MSG (R304). An ADD_MSG command sends a remote add message to the owner rank and waits for its ACK. -/
  | addMsg (id : Nat)
  /-- COPY (R211). A COPY command copies a whole object version between objects or to and from host memory. -/
  | copy (id : Nat) (data : List Byte)
  /-- COPY_STREAM (R234). A COPY of mode 3 or 4 multicasts a range of a weight stream over TC5. -/
  | copyStream (id : Nat) (data : List Byte)
  /-- PLACE (R208). A PLACE command places, moves or unplaces a run of objects in HBM or slabs. -/
  | place (id : Nat)
  /-- SWAP (R236). A SWAP command builds slot B of a model from a load list and switches to it at a boundary. -/
  | swap (id : Nat)
  /-- LOAD_PROGRAM (R367). A LOAD_PROGRAM command copies the objects of a program image from host memory into new
  versions. -/
  | loadProgram (id : Nat) (data : List Byte)
  /-- FENCE (R61). A FENCE command commits once every earlier command of its queue has completed; with PROTECT it
  makes table changes take effect and empties the caches. -/
  | fence (id : Nat)
  /-- PREEMPT (R62). A PREEMPT command kills the in-flight commands of a partition or queue, and may halt the target
  queues. -/
  | preempt (id : Nat)
  /-- DISABLE (R63). A DISABLE command takes an array, link, lane or HBM frame out of service and kills the commands
  that use it. -/
  | disable (id : Nat)
  /-- ENABLE_SPARE (R64). An ENABLE_SPARE command puts a spare array into service in place of a retired array. -/
  | enableSpare (id : Nat)
  /-- STEP_GRANT (R96). A STEP_GRANT command releases, stores or discards a grant for a gate sequence number. -/
  | stepGrant (id : Nat)
  /-- PART_CTRL_VALID (R65). A write of PART_CTRL with VALID 1 gives a partition its job after the checks, or is
  refused. -/
  | partCtrlValid (ap : Aperture) (p : Fin 16) (v : BitVec 32)
  /-- PARTITION_RELEASE (R66). A write of VALID 0 releases the job: it kills the partition's commands, disables its
  queues and quarantines the job ID. -/
  | partitionRelease (ap : Aperture) (p : Fin 16) (v : BitVec 32)
  /-- QUARANTINE_EXPIRY (R66). A job ID's quarantine of 2^20 counts ends and frees its entry. -/
  | quarantineExpiry (job : BitVec 16)
  /-- RING_NEXT_WRITE (R32). A host write of RING_NEXT arms or disarms the partition's step schedule and sets
  RING_ORIG. -/
  | ringNextWrite (ap : Aperture) (p : Fin 16) (v : BitVec 64)
  /-- BOUNDARY_TAKEN (R32). The count reaches RING_NEXT: RING_STEP increments, the next boundary is set, and the
  boundary's consumers act. -/
  | boundaryTaken (p : Fin 16)
  /-- BOUNDARY_IN (R35). A rising edge of BOUNDARY_IN requests a boundary move for the masked partitions, which is
  accepted or refused. -/
  | boundaryIn
  /-- BOUNDARY_BILLET (R35). A received boundary billet requests a move of its job's next boundary, which is accepted
  or refused. -/
  | boundaryBillet
  /-- STALL_REPORT (R34). A wait reaches a multiple of its stall threshold T and posts a report with status
  STEP_STALL. -/
  | stallReport (w : Wait)
  /-- FETCH_DEADLINE (R227). At S + D, entries that have not met the fetch deadline are served by their Coppice copy
  or wait, and TIER_FETCH_LATE is posted. -/
  | fetchDeadline (id : Nat)
  /-- ALIGNMENT_BILLET (R28). A received alignment billet is checked against the local count and may adopt the count,
  slip or be refused. -/
  | alignmentBillet
  /-- ALIGNMENT_SEND (R27). At every count whose bits [19:0] are zero, a device that is not UNALIGNED sends alignment
  billets on its links that are up. -/
  | alignmentSend
  /-- HOLDOVER_TIMEOUT (R25). After 2^22 counts with no billet from the parent, the device enters HOLDOVER. -/
  | holdoverTimeout
  /-- RING_ALIGN (R29). A RING_ALIGN edge at the root sets the count at acquisition, or checks it in service. -/
  | ringAlign
  /-- ROOT_ACQUIRE_TIMEOUT (R29). The root's 2^21-count wait for a neighbour's billet ends without one, and the root
  takes the next RING_ALIGN edge. -/
  | rootAcquireTimeout
  /-- REACQUIRE (R28). A write of RING_CTRL.REACQUIRE marks re-acquire as pending. -/
  | reacquire (ap : Aperture)
  /-- CLEAR_MAX (R28). A write of RING_CTRL.CLEAR_MAX clears RING_ERR.MAX_ERR. -/
  | clearMax (ap : Aperture)
  /-- RING_REF_LOST (R39). With no RING_REF edge for 40 ns, the count stops and RING_REF_LOST is reported. -/
  | ringRefLost
  /-- RING_REF_RETURN (R39). RING_REF returns: the device enters UNALIGNED and counts on from the stopped value. -/
  | ringRefReturn
  /-- SCORE_TILE (R78). The Sieve accepts a score tile over the score path and assembles it into token rows. -/
  | scoreTile (ctx : Fin 2)
  /-- TOKEN_SELECT (R85). A completed token row is normalised, selected, exit-tested, capacity-filled and mapped, and
  its grain records are queued. -/
  | tokenSelect (ctx : Fin 2)
  /-- SIEVE_TAIL (R91). After the last tile, the Sieve writes the last records and the sort index. -/
  | sieveTail (ctx : Fin 2)
  /-- STEP_REPORT (R93). The SIEVE writes its Step Report when a slot is free, commits and closes the grant gate. -/
  | stepReport (ctx : Fin 2)
  /-- SV_RPT_CFG (R93). Enabling or disabling a partition's Step Report ring resets its head and tail. -/
  | svRptCfg (ap : Aperture) (p : Fin 16) (v : BitVec 32)
  /-- SV_RPT_HEAD (R389). The host advances the Step Report ring's head and frees slots. -/
  | svRptHead (ap : Aperture) (p : Fin 16) (v : BitVec 32)
  /-- XE_BILLET (R115). A TC0 billet arrives at the Exchange Engine and is staged into its context, opens an early
  context, or is discarded as late. -/
  | xeBillet
  /-- SEGMENT_HEADER (R109). A complete segment header is checked, and the local expert counts are recorded once all
  headers have arrived. -/
  | segmentHeader (ctx : Nat) (src : Nat)
  /-- VECTOR_WRITE (R108). A received vector is written into the receive object once its bytes and its source's header
  are held. -/
  | vectorWrite (ctx : Nat) (src : Nat) (idx : Nat)
  /-- XE_XID_CTRL (R118). A write of XE_XID_CTRL.CLEAR clears the closed bit of a (DIR, XID). -/
  | xeXidCtrl (ap : Aperture) (p : Fin 16) (v : BitVec 32)
  /-- ARRAY_TILE (R146). An array runs one tile: it loads the activations, streams the weight columns and writes the
  results. -/
  | arrayTile (id : Nat) (arr : Fin 152) (unit : Nat) (fault : Option ArrayFault)
  /-- COMPACTION (R178). The Skidder reads a stored tile's header and bitmap, chooses the run path and builds the
  position list. -/
  | compaction (id : Nat) (unit : Nat)
  /-- TRANSPOSE_BLOCK (R184). A transposing-buffer half fills and then drains one block transposed. -/
  | transposeBlock (id : Nat) (unit : Nat)
  /-- WEIGHT_CHUNK_STAGE (R224). A Skidder fetches a weight chunk into the free staging half of an array. -/
  | weightChunkStage (id : Nat) (arr : Fin 152) (unit : Nat)
  /-- BORER_SAMPLE (R137). A narrowed value is sampled into the Borer slot's histogram, or discarded as late. -/
  | borerSample (slot : Fin 64)
  /-- MA_BR_CFG_ENABLE (R141). Enabling a Borer slot clears its window and histograms; disabling it leaves feeding
  commands unsampled. -/
  | maBrCfgEnable (ap : Aperture) (slot : Fin 64) (v : BitVec 64)
  /-- MA_BR_HDATA (R137). A read of MA_BR_HDATA returns the selected bin's count and advances BIN. -/
  | maBrHdata (ap : Aperture)
  /-- NMA_FOLD (R222). Once the previous fold of the target is done, the near-memory adders fold a command's delta
  into its claimed buffer. -/
  | nmaFold (id : Nat) (obj : Nat)
  /-- XU_FAULT (R215). An untranslatable access fails its part with FAULT_XLAT and latches XU_FAULT. -/
  | xuFault (id : Nat) (part : Nat) (va : BitVec 48) (write : Bool)
  /-- TIER_HBM_UE (R217). An uncorrectable HBM read kills the reader with FAULT_DATA and posts TIER_HBM_UE. -/
  | tierHbmUe (id : Option Nat) (part : Nat) (addr : BitVec 40)
  /-- TIER_SLAB_UE (R218). A double error in a slab word kills the reader with FAULT_DATA and posts TIER_SLAB_UE. -/
  | tierSlabUe (id : Option Nat) (part : Nat) (arr : Fin 152) (off : BitVec 22)
  /-- TIER_PHYS_RANGE (R390). An access to a physical address beyond HBM reaches no memory and fails as an
  uncorrectable read. -/
  | tierPhysRange (id : Option Nat) (part : Nat) (addr : BitVec 40)
  /-- SCRUB (R219). The scrub reads HBM lines in the background, counts and reports what it finds, and rewrites
  corrected lines if WRITEBACK is set. -/
  | scrub (stack : Fin 8) (found : ScrubFinding)
  /-- LANDING_ALLOC (R231). An allocation request to a Landing pool is granted or refused at once. -/
  | landingAlloc (p : Fin 16) (k : Fin 8) (id : Nat)
  /-- LANDING_RETURN (R232). A buffer returns to its pool, or is retired if its frame has been retired. -/
  | landingReturn (k : Fin 8) (idx : Nat)
  /-- TIER_LND_POOL (R232). A write of TIER_LND_POOL places a pool anew and retires its buffers that overlap retired
  frames. -/
  | tierLndPool (ap : Aperture) (k : Fin 8) (v : BitVec 64)
  /-- TIER_LND_PART (R231). A write of a partition's pool reservation and quota takes effect, or is refused if the
  reservations would exceed the pool. -/
  | tierLndPart (ap : Aperture) (p : Fin 16) (k : Fin 8) (v : BitVec 32)
  /-- TIER_OBJTAB_CLEAR (R204). A write of TIER_OBJTAB.CLEAR starts zeroing the object table and stops charging its
  placements. -/
  | tierObjtabClear (ap : Aperture) (p : Fin 16) (v : BitVec 64)
  /-- OBJTAB_CLEAR_DONE (R204). The clear of the object table completes, and BUSY clears. -/
  | objtabClearDone (p : Fin 16)
  /-- WEIGHT_BILLET (R238). A TC5 weight billet is written into a swap context's claimed buffer, or discarded as a
  duplicate or orphan. -/
  | weightBillet
  /-- SWAP_VERIFY (R239). A SHA-512 unit finishes hashing an object and verifies it, or fails its part. -/
  | swapVerify (ctx : Fin 4) (entry : Nat)
  /-- LINK_TRAINED (R245). A link finishes training, enters DISCOVERY and sends DISCOVERY billets. -/
  | linkTrained (l : Fin 36) (lanes : BitVec 4) (t : BitVec 64)
  /-- DISCOVERY (R245). A received DISCOVERY billet is echoed or measured, and the link becomes UP or MISWIRED. -/
  | discovery (t : BitVec 64)
  /-- LINK_DOWN (R248). A link goes down: its billets are flushed, shared credits withdrawn and FAB_LINK_DOWN posted.
  -/
  | linkDown (l : Fin 36) (cause : Fin 8)
  /-- BILLET_RECEIVE (R251). A billet arrives on a link port, has its CRC checked and takes a buffer slot. -/
  | billetReceive (l : Fin 36) (b : Billet) (stamp : BitVec 64) (sinceEdge : BitVec 16)
  /-- SWITCH_OUTPUT_GRANT (R266). An output takes its billets by the priority rule, with static matching and lottery,
  and sends them on. -/
  | switchOutputGrant (turn : OutputTurn)
  /-- LINK_CONTROL_WORD (R247). A received link control word returns credits or grants shared credits. -/
  | linkControlWord (l : Fin 36) (w : BitVec 64)
  /-- INTERNAL_DELIVERY (R267). A billet delivered to an internal port is accepted or rejected by its job ID. -/
  | internalDelivery (port : Fin 44)
  /-- WIN_RING_TAIL (R272). A doorbell write advances a window ring's tail. -/
  | winRingTail (ap : Aperture) (r : Fin 16) (v : BitVec 32)
  /-- WIN_ENTRY_FETCH (R272). The device fetches a window ring entry, checks it and issues its line requests when line
  slots are free. -/
  | winEntryFetch (r : Fin 16) (entry : Line) (data : List Byte) (bad : List (Fin 64))
  /-- WIN_REQUEST (R275). The owner checks a window line request, translates it, accesses HBM and responds. -/
  | winRequest
  /-- WIN_RESPONSE (R277). A response completes a line slot, or is discarded as late. -/
  | winResponse
  /-- WIN_ENTRY_COMPLETE (R271). When every line is done or has failed, the device writes the entry's result with
  COMPLETE set. -/
  | winEntryComplete (r : Fin 16)
  /-- WIN_RING_ENABLE (R271). Setting WIN_RING_CTRL.ENABLE resets the ring's head and tail; writing 0 stops fetching.
  -/
  | winRingEnable (ap : Aperture) (r : Fin 16) (v : BitVec 32)
  /-- ABORT (R282). A write of WIN_RING_CTRL.ABORT fails every outstanding line of the ring and increments the slots'
  GEN. -/
  | abort (ap : Aperture) (r : Fin 16) (v : BitVec 32)
  /-- COLL_BILLET (R292). A TC1 collective data billet arrives at its CE and is staged, or opens an early context. -/
  | collBillet (ce : Fin 4)
  /-- COLL_STAGE_CHUNK (R289). A stage finishes reducing or assembling a chunk and sends it on when it holds credit.
  -/
  | collStageChunk (id : Nat) (step : Fin 7) (chunk : Fin 2048) (fault : Option AdderFault)
  /-- CREDIT (R293). A received CREDIT billet lets a stage send its next chunk to that peer. -/
  | credit (ce : Fin 4)
  /-- CLOSE (R296). A close round's CLOSE billets are received and the suspect flags are ORed. -/
  | close (ce : Fin 4)
  /-- SUSPECT_NOTICE (R299). A received SUSPECT notice sets the suspect flag and is forwarded with the chunk. -/
  | suspectNotice (ce : Fin 4)
  /-- COLL_CID_CTRL (R301). A write of COLL_CID_CTRL.CLEAR clears a closed CID. -/
  | collCidCtrl (ap : Aperture) (p : Fin 16) (v : BitVec 32)
  /-- ADD (R306). The owner's CE checks, de-duplicates and applies an arriving ADD message, then sends an ACK. -/
  | add (turn : AddTurn)
  /-- ACK (R305). A received ACK completes the ADD_MSG, or is discarded as late. -/
  | ack (ce : Fin 4)
  /-- LOTTERY_DRAW (R310). An arbiter advances its LFSR and grants one active input by ticket weight. -/
  | lotteryDraw (arb : BitVec 16) (active : List ArbReq)
  /-- EMERGENCY_GRANT (R313). An emergency requester, such as HBM refresh, takes the resource and suspends the owner.
  -/
  | emergencyGrant (arb : BitVec 16) (trst : Bool)
  /-- WATCHDOG_BITE (R315). A grant held for the watchdog limit is revoked and its command killed with
  KILLED_WATCHDOG. -/
  | watchdogBite (bite : Bite)
  /-- SLAB_ACCESS (R314). A debug test-port instruction reads or writes one line of a slab. -/
  | slabAccess (trst : Bool) (arr : Fin 152) (off : BitVec 22) (write : Bool) (line : Line)
  /-- SWITCH_CAPTURE (R314). A debug test-port instruction copies the next billet that leaves a switch output. -/
  | switchCapture (trst : Bool) (port : Fin 44)
  /-- SEC_DBG_OPEN (R314). Setting SEC_DBG_CFG.OPEN opens the debug port and posts SEC_DEBUG_OPEN. -/
  | secDbgOpen (ap : Aperture) (v : BitVec 64)
  /-- MESH_CRC (R19). A mesh flit CRC mismatch posts a report and kills the owning command or zeroes the read. -/
  | meshCrc (stop : Fin 256) (id : Option Nat) (read : Option (Fin 9))
  /-- ERROR_REPORT_WRITE (R328). When the ring has room, a held error report is written into the report ring in SEQ
  order. -/
  | errorReportWrite
  /-- ERR_Q_CFG (R328). Enabling the report ring resets its head, tail and phase and starts writing the held records.
  -/
  | errQCfg (ap : Aperture) (v : BitVec 32)
  /-- ERR_Q_HEAD (R329). The host advances the report ring's head, which may release ALERT_N. -/
  | errQHead (ap : Aperture) (v : BitVec 32)
  /-- ERR_REPLACE_CLEAR (R335). A write of 1 clears a replacement reason bit; a condition that still holds sets it
  again. -/
  | errReplaceClear (ap : Aperture) (v : BitVec 32)
  /-- CONSERVATION_CHECK (R331). At a boundary or every 2^20 counts, the conserved quantities are snapshotted and
  checked. -/
  | conservationCheck
  /-- ERR_RATE (R334). An item's event count reaches its threshold within the rate window and posts ERR_RATE. -/
  | errRate (kind : Fin 8) (item : Nat) (n : Nat)
  /-- RATE_WINDOW_END (R334). A rate window ends and the per-item counts restart. -/
  | rateWindowEnd
  /-- REPLACE_REQ (R335). REPLACE_REQ_N goes from released to asserted and a REPLACE_REQ report is posted. -/
  | replaceReq
  /-- DROOP_STRETCH (R340). The droop response stretches a domain's clock, counting OVER events beyond one in 16. -/
  | droopStretch (dom : Fin 231) (excess : Bool)
  /-- TEMP_HIGH (R341). The hottest sensor reaches the WARN threshold and TEMP_HIGH is posted. -/
  | tempHigh (t : Nat)
  /-- THERM_TRIP (R341). A sensor reaches 115 °C: THERM_TRIP is posted and THERMTRIP_N asserted. -/
  | thermTrip (t : Nat)
  /-- VDD_CORE_TARGET_STEP (R371). The device steps its published VDD_CORE target by 5 mV on a 10 °C crossing. -/
  | vddCoreTargetStep (t : Nat) (up : Bool)
  /-- SCALER_SAMPLE (R342). The Scaler samples each rail's current and voltage at 1 MHz and integrates energy. -/
  | scalerSample (rail : Fin 8) (current : BitVec 16) (voltage : BitVec 16) (outOfRange : OutOfRange)
  /-- TALLY_PERIOD_END (R346). A tally period closes, is apportioned under rule version 1, and is queued for signing.
  -/
  | tallyPeriodEnd
  /-- TALLY_SIGNED (R347). The Scaler finishes signing a tally record. -/
  | tallySigned
  /-- TALLY_RECORD_WRITE (R349). When the ring has room, a signed tally record is written into the tally ring. -/
  | tallyRecordWrite
  /-- SEC_TALLY_CFG (R349). Enabling the tally ring resets its head and tail. -/
  | secTallyCfg (ap : Aperture) (v : BitVec 32)
  /-- SEC_TALLY_HEAD (R389). The host advances the tally ring's head and frees slots. -/
  | secTallyHead (ap : Aperture) (v : BitVec 32)
  /-- SEC_MET_CMD (R352). A write of SEC_MET_CMD starts the fetch and check of a metrology command. -/
  | secMetCmd (ap : Aperture) (v : BitVec 64)
  /-- METROLOGY_COMMAND_DONE (R352). A metrology command is accepted, rewriting the Scaler region and counting a seal
  event, or is refused. -/
  | metrologyCommandDone (bytes : List Byte) (region : Option ScalerRegion)
  /-- SEC_QUOTE_CTRL_GO (R354). A write of GO starts an attestation quote, or is refused while BUSY is 1. -/
  | secQuoteCtrlGo (ap : Aperture) (v : BitVec 64)
  /-- QUOTE_DONE (R354). The SC writes the signed quote and sets DONE. -/
  | quoteDone (nonce : Line)
  /-- SEC_CERT (R354). A read of SEC_CERT returns a word of the certificate chain and advances WORD. -/
  | secCert (ap : Aperture)
  /-- SEC_FLASH_GO (R351). A write of SEC_FLASH_CTRL.GO starts erasing and writing a flash range, or is refused. -/
  | secFlashGo (ap : Aperture) (v : BitVec 64)
  /-- FLASH_WRITE_DONE (R355). The flash write completes and DONE is set. -/
  | flashWriteDone (data : List Byte)
  /-- COLD_RESET_RELEASE (R359). COLD_RESET_N is released: SLOT_ID is sampled and cold start begins with verification.
  -/
  | coldResetRelease (slot : Fin 8)
  /-- COLD_RESET_ASSERT (R365). COLD_RESET_N is asserted, which ends everything in progress. -/
  | coldResetAssert
  /-- VERIFY (R353). The SC finishes verifying the configuration image and the device passes to the fuses stage, or
  halts. -/
  | verify (image : List Byte) (region : Option ScalerRegion)
  /-- FUSES (R358). The fuses are read and the configuration image is applied, or start-up halts. -/
  | fuses (ok : Bool)
  /-- CLOCKS (R359). The PLLs lock and the clock domains are released, or start-up halts. -/
  | clocks (ok : Bool)
  /-- HBM (R359). HBM training of the eight stacks completes, or start-up halts. -/
  | hbm (failed : Option (Fin 8))
  /-- LINKS (R361). The links stage ends when every link is settled or its time runs out. -/
  | links
  /-- RING (R361). The ring stage ends on alignment or on its timeout, which sets UNALIGNED_START. -/
  | ring
  /-- HOST (R359). The UCIe link comes up and the device enters READY. -/
  | host (up : Bool) (micros : BitVec 32)
  /-- WARM_RESET (R363). WARM_RESET_N or DEV_CTRL.WARM_RESET starts a warm reset: commands are killed, partitions
  released and links taken down. -/
  | warmReset (src : WarmSource)
  /-- WARM_RESET_DONE (R363). HBM leaves self-refresh, the LFSRs are reseeded, WARM_BUSY clears and the device is
  READY. -/
  | warmResetDone
  /-- POWER_LOSS (R376). An unsequenced loss of every rail loses memory and the open Scaler energy. -/
  | powerLoss
  /-- CS_READ (R42). A host control-space read is checked against its aperture, returns the register's value or zero,
  and may latch a 64-bit high half or post FAULT_PROT. -/
  | csRead (ap : Aperture) (addr : BitVec 28) (wide : Bool)
  /-- RING_REF_EDGE (R23). A rising edge of RING_REF_P/N advances the ring count by one, and the per-count accruals of
  the Scaler and the occupancy and accounting counters take place. -/
  | ringRefEdge
  /-- LINK_TRAINING_START (R245). Signal appears on a DOWN link's lanes, or the far end starts retraining a MISWIRED
  link, and the link enters TRAINING. -/
  | linkTrainingStart (l : Fin 36)
  /-- WARM_RESET_N_RELEASE (R363). WARM_RESET_N returns high, ending the hold of the warm reset and starting the 2,000
  counts to READY. -/
  | warmResetNRelease
  /-- TEMP_BELOW_WARN (R341). The hottest sensor falls 5 °C below ERR_THERM.WARN, which re-arms TEMP_HIGH. -/
  | tempBelowWarn (t : Nat)
  /-- EMERGENCY_RELEASE (R313). An emergency requester, such as HBM refresh, releases the resource, and the suspended
  owner's unit restarts from its beginning without a draw. -/
  | emergencyRelease (arb : BitVec 16)
  deriving DecidableEq, Repr

end Sys2Proof
end

