-- ==== Sys2Proof/Decode.lean ====
section
/-! DEFINITION. The words of the opcode table. The table gives no row any bits: commands are host accesses, events and engine
work, not encoded words, so no word spells one. What the device does decode (descriptors, billets, records) is read field by
field in Machine/. -/

namespace Sys2Proof

/-- The command that a word of the opcode table spells: none, for every word. -/
def decodeTableWord (_nbits _w : Nat) : Option Instr := none

end Sys2Proof
end

