-- ==== Sys2Proof/Machine/Bits.lean ====
section
/-! DEFINITION. Bit fields, byte order and small list helpers. All words are little-endian (R6). -/

namespace Sys2Proof.Machine

/-- Bits [lo+w-1:lo] of a number. -/
def bits (n lo w : Nat) : Nat := n / 2 ^ lo % 2 ^ w

/-- One bit of a number. -/
def bit (n i : Nat) : Bool := n / 2 ^ i % 2 = 1

/-- Bits [lo+w-1:lo] counted from byte `byte` of a little-endian record. -/
def field (n byte lo w : Nat) : Nat := bits n (8 * byte + lo) w

/-- The number a list of bytes holds, low byte first (R6). -/
def leNat : List Byte → Nat
  | [] => 0
  | b :: bs => b.toNat + 256 * leNat bs

/-- The k low bytes of a number, low byte first (R6). -/
def leBytes : Nat → Nat → List Byte
  | 0, _ => []
  | k + 1, n => BitVec.ofNat 8 n :: leBytes k (n / 256)

/-- n bytes of a list from an offset; bytes beyond its end are absent. -/
def slice (bs : List Byte) (off n : Nat) : List Byte := (bs.drop off).take n

/-- The number in n bytes of a list from an offset. -/
def leAt (bs : List Byte) (off n : Nat) : Nat := leNat (slice bs off n)

/-- Replace the bytes of a list from an offset on. -/
def patch (bs : List Byte) (off : Nat) (new : List Byte) : List Byte :=
  bs.take off ++ new ++ bs.drop (off + new.length)

/-- Fill a list with zero bytes to a length. -/
def padTo (n : Nat) (bs : List Byte) : List Byte := bs ++ List.replicate (n - bs.length) 0

/-- The signed reading of the low w bits. -/
def toSigned (w n : Nat) : Int :=
  let m := n % 2 ^ w
  if m < 2 ^ (w - 1) then (m : Int) else (m : Int) - 2 ^ w

/-- The low w bits of a signed number, two's complement. -/
def ofSigned (w : Nat) (i : Int) : Nat := (i % (2 ^ w : Int)).toNat

/-- Division rounded up. -/
def ceilDiv (a b : Nat) : Nat := (a + b - 1) / b

/-- A number rounded up to a multiple. -/
def roundUp (a b : Nat) : Nat := ceilDiv a b * b

/-- How many of the low n bits are 1. -/
def popCount (n w : Nat) : Nat := ((List.range w).filter (bit n)).length

/-- The positions of the 1 bits among the low w bits, lowest first. -/
def bitList (n w : Nat) : List Nat := (List.range w).filter (bit n)

/-- The number with exactly the listed bits set. -/
def ofBitList (l : List Nat) : Nat := l.dedup.foldl (fun a i => a + 2 ^ i) 0

/-- The number with one bit set to a value. -/
def setBit (n i : Nat) (v : Bool) : Nat :=
  let low := n - (if bit n i then 2 ^ i else 0)
  if v then low + 2 ^ i else low

/-- 1 for true. -/
def b2n (b : Bool) : Nat := if b then 1 else 0

/-- The first element that meets a test, with its place. -/
def findIdx? {α : Type} (p : α → Bool) (l : List α) : Option Nat :=
  (l.zipIdx.find? (fun e => p e.1)).map (·.2)

/-- Change the elements that meet a test. -/
def mapIf {α : Type} (p : α → Bool) (f : α → α) (l : List α) : List α := l.map (fun x => if p x then f x else x)

/-- The sum of a list of numbers. -/
def sumNat (l : List Nat) : Nat := l.foldl (· + ·) 0

/-- An insertion into a list kept in ascending order of a key, after equal keys. -/
def insertBy {α : Type} (key : α → Nat) (x : α) : List α → List α
  | [] => [x]
  | y :: ys => if key x < key y then x :: y :: ys else y :: insertBy key x ys

/-- A stable sort by a key. -/
def sortBy {α : Type} (key : α → Nat) (l : List α) : List α := l.foldl (fun acc x => insertBy key x acc) []

end Sys2Proof.Machine
end

