-- ==== Sys2Proof/Machine/Crypto.lean ====
section
/-! DEFINITION. The algorithms the spec names by their standards: SHA-512 (FIPS 180-4), RSASSA-PKCS1-v1_5 with SHA-512
(RFC 8017; R347, R353, R354), CRC-32 (R251), CRC-8 (R247) and CRC-16 (Table 8.2). -/

namespace Sys2Proof.Machine

/-- The n bits of a root below x, found from the highest: the greatest r + s, s < 2^n, whose k-th power does not exceed x. -/
def rootBits (k x : Nat) : Nat → Nat → Nat
  | 0, r => r
  | n + 1, r => rootBits k x n (if (r + 2 ^ n) ^ k ≤ x then r + 2 ^ n else r)

/-- The first 64 bits of the fraction of the k-th root of a small number: FIPS 180-4 makes its constants so. -/
def rootFraction (k p : Nat) : Nat := rootBits k (p * 2 ^ (64 * k)) 69 0 % 2 ^ 64

/-- A number has no divisor among earlier primes. -/
def sieved (ps : List Nat) (n : Nat) : Bool := ps.all (fun p => n % p != 0)

/-- The primes below a limit. -/
def primesTo (limit : Nat) : List Nat :=
  (List.range limit).foldl (fun ps n => if 2 ≤ n ∧ sieved ps n = true then ps ++ [n] else ps) []

/-- The primes that SHA-512 draws its constants from: the first 80. -/
def shaPrimes : List Nat := primesTo 410

/-- The initial hash value: of the square roots of the first 8 primes (FIPS 180-4). -/
def shaInit : List Nat := (shaPrimes.take 8).map (rootFraction 2)

/-- The round constants: of the cube roots of the first 80 primes (FIPS 180-4). -/
def shaK : List Nat := shaPrimes.map (rootFraction 3)

/-- A 64-bit word rotated right. -/
def rotr64 (x n : Nat) : Nat := x / 2 ^ n + x % 2 ^ n * 2 ^ (64 - n)

/-- The message schedule: from the last 16 words, newest first, the next word. -/
def shaNext (w : List Nat) : Nat :=
  let s0 := fun x => Nat.xor (Nat.xor (rotr64 x 1) (rotr64 x 8)) (x / 2 ^ 7)
  let s1 := fun x => Nat.xor (Nat.xor (rotr64 x 19) (rotr64 x 61)) (x / 2 ^ 6)
  (s1 (w.getD 1 0) + w.getD 6 0 + s0 (w.getD 14 0) + w.getD 15 0) % 2 ^ 64

/-- Extend a schedule, newest first, by n words. -/
def shaExtend : Nat → List Nat → List Nat
  | 0, w => w
  | n + 1, w => shaExtend n (shaNext w :: w)

/-- One round of the compression. -/
def shaRound (h : List Nat) (kw : Nat × Nat) : List Nat :=
  match h with
  | [a, b, c, d, e, f, g, hh] =>
    let s1 := Nat.xor (Nat.xor (rotr64 e 14) (rotr64 e 18)) (rotr64 e 41)
    let ch := Nat.xor (Nat.land e f) (Nat.land (2 ^ 64 - 1 - e) g)
    let t1 := hh + s1 + ch + kw.1 + kw.2
    let s0 := Nat.xor (Nat.xor (rotr64 a 28) (rotr64 a 34)) (rotr64 a 39)
    let maj := Nat.xor (Nat.xor (Nat.land a b) (Nat.land a c)) (Nat.land b c)
    [(t1 + s0 + maj) % 2 ^ 64, a, b, c, (d + t1) % 2 ^ 64, e, f, g]
  | _ => h

/-- The compression of one 128-byte block. -/
def shaBlock (h : List Nat) (block : List Byte) : List Nat :=
  let w := (List.range 16).map (fun i => leNat (slice block (8 * i) 8).reverse)
  let ws := (shaExtend 64 w.reverse).reverse
  let h' := (shaK.zip ws).foldl shaRound h
  List.zipWith (fun a b => (a + b) % 2 ^ 64) h h'

/-- Compress whole blocks in order. -/
def shaBlocks : Nat → List Nat → List Byte → List Nat
  | 0, h, _ => h
  | n + 1, h, bs => shaBlocks n (shaBlock h (bs.take 128)) (bs.drop 128)

/-- SHA-512 of a byte string, 64 bytes. -/
def sha512 (msg : List Byte) : List Byte :=
  let n := msg.length
  let zeros := (256 - (n + 17) % 128) % 128
  let padded := msg ++ [0x80] ++ List.replicate zeros 0 ++ (leBytes 16 (8 * n)).reverse
  (shaBlocks (padded.length / 128) shaInit padded).flatMap (fun h => (leBytes 8 h).reverse)

/-- Modular exponentiation, by the bits of the exponent from the lowest. -/
def powMod (n : Nat) : Nat → Nat → Nat → Nat → Nat
  | 0, _, _, acc => acc % n
  | fuel + 1, b, e, acc =>
    if e = 0 then acc % n else powMod n fuel (b * b % n) (e / 2) (if e % 2 = 1 then acc * b % n else acc)

/-- The number a big-endian byte string holds. -/
def beNat (bs : List Byte) : Nat := leNat bs.reverse

/-- The DigestInfo prefix of SHA-512 (RFC 8017, 9.2). -/
def sha512Prefix : List Byte :=
  [0x30, 0x51, 0x30, 0x0d, 0x06, 0x09, 0x60, 0x86, 0x48, 0x01, 0x65, 0x03, 0x04, 0x02, 0x03, 0x05, 0x00, 0x04, 0x40]

/-- EMSA-PKCS1-v1_5 of a message for a modulus of 512 bytes (RFC 8017, 9.2). -/
def emsa (msg : List Byte) : Nat :=
  let t := sha512Prefix ++ sha512 msg
  beNat ([0x00, 0x01] ++ List.replicate (512 - t.length - 3) 0xFF ++ [0x00] ++ t)

/-- An RSASSA-PKCS1-v1_5 signature is valid (RFC 8017, 8.2.2). -/
def rsaVerify (n e sig : Nat) (msg : List Byte) : Bool := sig < n && powMod n 4096 sig e 1 == emsa msg

/-- An RSASSA-PKCS1-v1_5 signature, 512 bytes, most significant first (RFC 8017, 8.2.1). -/
def rsaSign (n d : Nat) (msg : List Byte) : List Byte := (leBytes 512 (powMod n 4096 (emsa msg) d 1)).reverse

/-- One bit of a reflected CRC-32 (R251). -/
def crc32Bit (c : Nat) : Nat := if c % 2 = 1 then Nat.xor (c / 2) 0xEDB88320 else c / 2

/-- The CRC-32 of a byte string: reflected, initial value and final inversion of all ones (R251). -/
def crc32 (bs : List Byte) : Nat :=
  Nat.xor (bs.foldl (fun c b => (List.range 8).foldl (fun c _ => crc32Bit c) (Nat.xor c b.toNat)) 0xFFFFFFFF) 0xFFFFFFFF

/-- An unreflected CRC of width w fed bits, most significant first. -/
def crcBits (w poly : Nat) (c : Nat) (bit : Bool) : Nat :=
  let top := c / 2 ^ (w - 1) % 2
  let c' := c * 2 % 2 ^ w
  if (top = 1) ≠ (bit = true) then Nat.xor c' poly else c'

/-- The CRC-8 of a link control word: bits 55 down to 0, polynomial 0x07, initial value 0 (R247). -/
def crc8 (word : Nat) : Nat := ((List.range 56).reverse.map (bit word)).foldl (crcBits 8 0x07) 0

/-- The CRC-16 of a tile record: polynomial 0x1021, initial value 0xFFFF (Table 8.2). -/
def crc16 (bs : List Byte) : Nat :=
  (bs.flatMap (fun b => (List.range 8).reverse.map (bit b.toNat))).foldl (crcBits 16 0x1021) 0xFFFF

end Sys2Proof.Machine
end

