-- ==== Sys2Proof/Config.lean ====
section
/-! DEFINITION. What the spec leaves open: constants with no body, so that no proof can lean on a value of theirs.
Each is marked in the assumption log. -/

namespace Sys2Proof.Config

/-- How far, in units in the last place and offset by 2, the device's exp may lie from the rounded exact one, by step: each
rounded value has five (R80 states two units at most; free value, log 6). -/
opaque expUlp : Nat → Fin 5

/-- The operands at which exp goes on to the next step of a rounded value (R80; free value, log 6). -/
opaque expStep : BitVec 32 → Fin 4 → BitVec 32

/-- The rank that a device gives itself, by partition and node, where its own rank table names none (R82, R305; free value,
log 136). -/
opaque ownRank : Nat → Nat → BitVec 16

/-- N_EXPERTS in the directory of a group grain table, by the map's header: Table 4.8 gives none for groups (free value,
log 136). -/
opaque groupExperts : BitVec 512 → BitVec 16

/-- ROWS of the matrix that a BROADCAST member without an input writes, by its ELEMENTS (R283 gives none; free value,
log 136). -/
opaque broadcastRows : Nat → Nat

/-- An element of a grouped router's FP32 copy for a row that did not choose its group, by row and column: R157 discards the
result and states no other value (free value, log 145). -/
opaque noScore : Nat → Nat → BitVec 32

/-- Random 64-bit draws: the Scaler's SESSION and the four words of SCL_NONCE (R347, R352; free value, log 7). -/
opaque random64 : Nat → BitVec 64

/-- Random 256-bit draws: the metrology nonce (R352; free value, log 7). -/
opaque random256 : Nat → BitVec 256

/-- What the far end's link delay measurement and similar analogue readings leave open is an operand of the command
that brings it; this value stands for any other unstated value a command produces, by a fresh number (log 5). -/
opaque freeWord : Nat → BitVec 64

/-- The energy, in units of 2^-32 uJ, that one sample pair adds, from the rail's gain and offset constants and the product
of the two ADC codes (R342 does not say how the constants apply; free value, log 15). -/
opaque sampleEnergy : Nat → Int → Nat → Nat

end Sys2Proof.Config
end

