-- ==== Sys2Proof/Machine/Codes.lean ====
section
/-! DEFINITION. The report codes of Table 17.2 and Table 18.10 with their severities (R330), and the status codes of
Table 3.6 with their order of precedence (R53, R54). -/

namespace Sys2Proof.Machine

/-- The report codes (R330). -/
inductive Code where
  | FAULT_PROT | MESH_CRC | HOST_LINK_DOWN | CONS_VIOLATION | ERR_RATE | REPLACE_REQ | DROOP_EXCESS 
  | TEMP_HIGH | THERM_TRIP | RING_SLIP | RING_BACKSTEP | RING_REF_LOST | BOUNDARY_LATE | BOUNDARY_REFUSED 
  | SV_MAP_INVALID | SV_SCORE_GAP | SV_LIMIT | SV_NAN_SCORE | SV_MAP_MISS | SV_TABLE_FULL | SV_BOUNDS 
  | SV_GRANT_STALE | SV_GRANT_WAIT | XE_TABLE_INVALID | XE_RANK_RANGE | XE_MAP_DUP | XE_HDR_MISMATCH 
  | XE_RECORD_CRC | XE_NO_EXIT_OBJ | XE_RESV_SHORT | XE_LATE | XE_WAIT | XE_EARLY_WAIT | MA_OPERAND 
  | MA_CHECKSUM | MA_SHADOW | BORER_LATE | SK_TILE_CRC | SK_TILE_GEOM | SK_OBJ_FULL | TIER_HANDLE 
  | TIER_NO_VERSION | TIER_VER_WAIT | TIER_PLACE | TIER_QUOTA | TIER_STRIPE | TIER_SIZE | TIER_ROW_TARGET 
  | TIER_STAGE | TIER_HBM_UE | TIER_SLAB_UE | TIER_FETCH_LATE | TIER_FETCH_WAIT | TIER_NO_COPPICE 
  | LND_EMPTY | LND_QUOTA | SWAP_LIST | SWAP_ORPHAN | SWAP_DIGEST | SWAP_BUILD_WAIT | SWAP_NOT_READY 
  | TIER_PHYS_RANGE | XU_FAULT | FAB_NODE_INVALID | FAB_MISWIRE | FAB_LINK_DOWN | FAB_LINK_UP 
  | FAB_MALFORMED | FAB_RANK | FAB_UNROUTABLE | FAB_JOB_REJECT | WIN_REFUSED | WIN_CACHE_UE | WIN_WAIT 
  | COLL_PLAN | COLL_MISMATCH | COLL_RESIDUE | COLL_LATE | COLL_WAIT | COLL_EARLY_WAIT | COLL_ADD_WAIT 
  | ARB_WATCHDOG | SCL_REGION_BAD | SCL_SEAL_EVENT | SCL_MET_REFUSED | SEC_QUOTE_REFUSED | SEC_DEBUG_OPEN
  deriving DecidableEq, Repr

/-- The severities of Table 17.1. -/
inductive Severity where
  | note | degraded | fault
  deriving DecidableEq, Repr

/-- The SEVERITY field (Table 17.1). -/
def Severity.num : Severity → Nat
  | .note => 0
  | .degraded => 1
  | .fault => 2

/-- The CODE field of a report (Table 17.2, Table 18.10). -/
def Code.num : Code → Nat
  | .FAULT_PROT => 0x0001
  | .MESH_CRC => 0x0002
  | .HOST_LINK_DOWN => 0x0003
  | .CONS_VIOLATION => 0x0004
  | .ERR_RATE => 0x0005
  | .REPLACE_REQ => 0x0006
  | .DROOP_EXCESS => 0x0007
  | .TEMP_HIGH => 0x0008
  | .THERM_TRIP => 0x0009
  | .RING_SLIP => 0x0301
  | .RING_BACKSTEP => 0x0302
  | .RING_REF_LOST => 0x0303
  | .BOUNDARY_LATE => 0x0304
  | .BOUNDARY_REFUSED => 0x0305
  | .SV_MAP_INVALID => 0x0401
  | .SV_SCORE_GAP => 0x0402
  | .SV_LIMIT => 0x0403
  | .SV_NAN_SCORE => 0x0404
  | .SV_MAP_MISS => 0x0405
  | .SV_TABLE_FULL => 0x0406
  | .SV_BOUNDS => 0x0407
  | .SV_GRANT_STALE => 0x0408
  | .SV_GRANT_WAIT => 0x0409
  | .XE_TABLE_INVALID => 0x0501
  | .XE_RANK_RANGE => 0x0502
  | .XE_MAP_DUP => 0x0503
  | .XE_HDR_MISMATCH => 0x0504
  | .XE_RECORD_CRC => 0x0505
  | .XE_NO_EXIT_OBJ => 0x0506
  | .XE_RESV_SHORT => 0x0507
  | .XE_LATE => 0x0508
  | .XE_WAIT => 0x0509
  | .XE_EARLY_WAIT => 0x050A
  | .MA_OPERAND => 0x0601
  | .MA_CHECKSUM => 0x0602
  | .MA_SHADOW => 0x0603
  | .BORER_LATE => 0x0604
  | .SK_TILE_CRC => 0x0701
  | .SK_TILE_GEOM => 0x0702
  | .SK_OBJ_FULL => 0x0703
  | .TIER_HANDLE => 0x0801
  | .TIER_NO_VERSION => 0x0802
  | .TIER_VER_WAIT => 0x0803
  | .TIER_PLACE => 0x0804
  | .TIER_QUOTA => 0x0805
  | .TIER_STRIPE => 0x0806
  | .TIER_SIZE => 0x0807
  | .TIER_ROW_TARGET => 0x0808
  | .TIER_STAGE => 0x0809
  | .TIER_HBM_UE => 0x080A
  | .TIER_SLAB_UE => 0x080B
  | .TIER_FETCH_LATE => 0x080C
  | .TIER_FETCH_WAIT => 0x080D
  | .TIER_NO_COPPICE => 0x080E
  | .LND_EMPTY => 0x080F
  | .LND_QUOTA => 0x0810
  | .SWAP_LIST => 0x0811
  | .SWAP_ORPHAN => 0x0812
  | .SWAP_DIGEST => 0x0813
  | .SWAP_BUILD_WAIT => 0x0814
  | .SWAP_NOT_READY => 0x0815
  | .TIER_PHYS_RANGE => 0x0816
  | .XU_FAULT => 0x0901
  | .FAB_NODE_INVALID => 0x0A01
  | .FAB_MISWIRE => 0x0A02
  | .FAB_LINK_DOWN => 0x0A03
  | .FAB_LINK_UP => 0x0A04
  | .FAB_MALFORMED => 0x0A05
  | .FAB_RANK => 0x0A06
  | .FAB_UNROUTABLE => 0x0A07
  | .FAB_JOB_REJECT => 0x0A08
  | .WIN_REFUSED => 0x0B01
  | .WIN_CACHE_UE => 0x0B02
  | .WIN_WAIT => 0x0B03
  | .COLL_PLAN => 0x0C01
  | .COLL_MISMATCH => 0x0C02
  | .COLL_RESIDUE => 0x0C03
  | .COLL_LATE => 0x0C04
  | .COLL_WAIT => 0x0C05
  | .COLL_EARLY_WAIT => 0x0C06
  | .COLL_ADD_WAIT => 0x0C07
  | .ARB_WATCHDOG => 0x0D01
  | .SCL_REGION_BAD => 0x0F01
  | .SCL_SEAL_EVENT => 0x0F02
  | .SCL_MET_REFUSED => 0x0F03
  | .SEC_QUOTE_REFUSED => 0x1F01
  | .SEC_DEBUG_OPEN => 0x1F02

/-- The severity a code always has (R330). -/
def Code.severity : Code → Severity
  | .FAULT_PROT => .note
  | .MESH_CRC => .degraded
  | .HOST_LINK_DOWN => .degraded
  | .CONS_VIOLATION => .fault
  | .ERR_RATE => .degraded
  | .REPLACE_REQ => .degraded
  | .DROOP_EXCESS => .degraded
  | .TEMP_HIGH => .note
  | .THERM_TRIP => .fault
  | .RING_SLIP => .degraded
  | .RING_BACKSTEP => .degraded
  | .RING_REF_LOST => .fault
  | .BOUNDARY_LATE => .note
  | .BOUNDARY_REFUSED => .note
  | .SV_MAP_INVALID => .note
  | .SV_SCORE_GAP => .note
  | .SV_LIMIT => .note
  | .SV_NAN_SCORE => .note
  | .SV_MAP_MISS => .note
  | .SV_TABLE_FULL => .note
  | .SV_BOUNDS => .note
  | .SV_GRANT_STALE => .note
  | .SV_GRANT_WAIT => .note
  | .XE_TABLE_INVALID => .note
  | .XE_RANK_RANGE => .note
  | .XE_MAP_DUP => .note
  | .XE_HDR_MISMATCH => .note
  | .XE_RECORD_CRC => .degraded
  | .XE_NO_EXIT_OBJ => .note
  | .XE_RESV_SHORT => .note
  | .XE_LATE => .note
  | .XE_WAIT => .note
  | .XE_EARLY_WAIT => .note
  | .MA_OPERAND => .note
  | .MA_CHECKSUM => .degraded
  | .MA_SHADOW => .degraded
  | .BORER_LATE => .note
  | .SK_TILE_CRC => .degraded
  | .SK_TILE_GEOM => .note
  | .SK_OBJ_FULL => .note
  | .TIER_HANDLE => .note
  | .TIER_NO_VERSION => .note
  | .TIER_VER_WAIT => .note
  | .TIER_PLACE => .note
  | .TIER_QUOTA => .note
  | .TIER_STRIPE => .note
  | .TIER_SIZE => .note
  | .TIER_ROW_TARGET => .note
  | .TIER_STAGE => .note
  | .TIER_HBM_UE => .degraded
  | .TIER_SLAB_UE => .degraded
  | .TIER_FETCH_LATE => .note
  | .TIER_FETCH_WAIT => .note
  | .TIER_NO_COPPICE => .note
  | .LND_EMPTY => .note
  | .LND_QUOTA => .note
  | .SWAP_LIST => .note
  | .SWAP_ORPHAN => .note
  | .SWAP_DIGEST => .note
  | .SWAP_BUILD_WAIT => .note
  | .SWAP_NOT_READY => .note
  | .TIER_PHYS_RANGE => .note
  | .XU_FAULT => .note
  | .FAB_NODE_INVALID => .degraded
  | .FAB_MISWIRE => .degraded
  | .FAB_LINK_DOWN => .degraded
  | .FAB_LINK_UP => .note
  | .FAB_MALFORMED => .note
  | .FAB_RANK => .note
  | .FAB_UNROUTABLE => .degraded
  | .FAB_JOB_REJECT => .note
  | .WIN_REFUSED => .note
  | .WIN_CACHE_UE => .degraded
  | .WIN_WAIT => .note
  | .COLL_PLAN => .note
  | .COLL_MISMATCH => .note
  | .COLL_RESIDUE => .degraded
  | .COLL_LATE => .note
  | .COLL_WAIT => .note
  | .COLL_EARLY_WAIT => .note
  | .COLL_ADD_WAIT => .note
  | .ARB_WATCHDOG => .degraded
  | .SCL_REGION_BAD => .fault
  | .SCL_SEAL_EVENT => .note
  | .SCL_MET_REFUSED => .note
  | .SEC_QUOTE_REFUSED => .note
  | .SEC_DEBUG_OPEN => .note

/-- The status codes of a completion record (Table 3.6). -/
inductive Status where
  | ok | suspect | killedPreempt | killedDisable | killedWatchdog | faultXlat | faultData | faultProt | poolEmpty
  | quota | partFailed | swapNotReady | stepStall | badDescriptor
  deriving DecidableEq, Repr

/-- The STATUS byte (Table 3.6). -/
def Status.num : Status → Nat
  | .ok => 0x00
  | .suspect => 0x01
  | .killedPreempt => 0x10
  | .killedDisable => 0x11
  | .killedWatchdog => 0x12
  | .faultXlat => 0x20
  | .faultData => 0x21
  | .faultProt => 0x22
  | .poolEmpty => 0x30
  | .quota => 0x31
  | .partFailed => 0x40
  | .swapNotReady => 0x41
  | .stepStall => 0x42
  | .badDescriptor => 0x50

/-- The place of a cause in the order of R54, 1 first; causes that R54 does not order come last. -/
def Status.rank : Status → Nat
  | .killedDisable => 1
  | .killedPreempt => 2
  | .killedWatchdog => 3
  | .partFailed => 4
  | .faultData => 5
  | .faultXlat => 6
  | .faultProt => 7
  | .quota => 8
  | .poolEmpty => 9
  | .swapNotReady => 10
  | .badDescriptor => 11
  | .stepStall => 12
  | .suspect => 13
  | .ok => 14

/-- Whether a cause ends the whole command (R54 rows 1 to 3), whatever its parts did (R55). -/
def Status.whole : Status → Bool
  | .killedDisable | .killedPreempt | .killedWatchdog => true
  | _ => false

/-- The first of two causes in the order of R54. -/
def Status.first (a b : Status) : Status := if b.rank < a.rank then b else a

end Sys2Proof.Machine
end

