-- ==== Sys2Proof/Machine/RegMap.lean ====
section
/-! DEFINITION. The registers of control space, as the Registers sections of spec/ give them: one name per register,
its offset, how many instances it has, its width and, bit by bit, its fields' access types (R8, R10, R11) and its
reset value (R9). A register with two indices (a partition and a number, say) has two instance ranges. -/

namespace Sys2Proof.Machine

/-- The registers of control space, by the name the spec gives each (R8). -/
inductive Reg where
  | RING_COUNT | RING_STATUS | RING_CFG | RING_CTRL | RING_DELAY_SEL | RING_DELAY | RING_ERR | RING_MISMATCH
  | RING_BIN_CFG | RING_BFWD_MASK_LO | RING_BFWD_MASK_HI | RING_NEXT | RING_PERIOD | RING_STEP | RING_ORIG
  | RING_MOVES | CMD_SQ_BASE | CMD_SQ_CFG | CMD_SQ_TAIL | CMD_SQ_HEAD | CMD_SQ_CTRL | CMD_CQ_BASE
  | CMD_CQ_CFG | CMD_CQ_NOTIFY | CMD_CQ_HEAD | CMD_CQ_TAIL | PART_CTRL | PART_ARRAYS | PART_SHARE
  | PART_STATUS | CMD_ACCT_WAIT | CMD_ACCT_ENGINE | CMD_ACCT_CMDS | SV_STATUS | SV_TILES | SV_SORTED
  | SV_CTRL | SV_GRANT_STALL | SV_MODEL | SV_RPT_BASE | SV_RPT_CFG | SV_RPT_HEAD | SV_RPT_TAIL | SV_GATE
  | SV_SEQ | SV_REL_SEQ | SV_EMITTED | SV_DROPPED | SV_EXITED | SV_PASS | SV_NAN | SV_MAPMISS | SV_GRANTS
  | XE_STATUS | XE_BILLETS_TX | XE_BILLETS_RX | XE_LATE | XE_HELD | XE_STALL | XE_XID_CTRL | XE_RESV
  | XE_DELIVERED | XE_KILLED | XE_FLUSHED | XE_OUTSTANDING | XE_LOCAL | XE_COMBINED | XE_XID_CLOSED
  | MA_FMT_PART | MA_FMT_SEED | MA_FMT_EVENTS | MA_BR_CFG | MA_BR_PROP | MA_BR_STAT | MA_BR_HSEL
  | MA_BR_HDATA | MA_TESTED | MA_ENABLED | MA_RETIRED | MA_ARRAY_SUM | MA_PART_MODE | MA_ARR_STATE
  | MA_ARR_TAG | MA_ARR_BUSY | MA_ARR_CHECKS | MA_ARR_FAULT | MA_ARR_TILES | SK_ERR | SK_STORE_SPARSE
  | SK_STORE_DENSE | SK_PART_CFG | SK_STATUS | SK_DENSE | SK_COMPACT | SK_POS_IN | SK_POS_OUT | SK_TRANSPOSE
  | SK_BYTES_IN | TIER_HBM_ERR | TIER_SLAB_ERR | TIER_UE_ADDR | TIER_SCRUB | TIER_RETIRED | TIER_OBJTAB
  | TIER_QUOTA | TIER_USE | TIER_PART_CFG | TIER_DEADLINE | TIER_STALL | TIER_FETCH_STAT | TIER_LND_POOL
  | TIER_LND_FREE | TIER_LND_PART | TIER_LND_USE | XU_WALKS | XU_ROOT | XU_FAULT | XU_FAULT_TAG
  | XU_FAULT_CNT | TIER_SWAP_CTX | TIER_SWAP_TAG | TIER_SWAP_BYTES | TIER_SWAP_DUP | TIER_SWAP_ORPHAN
  | FAB_NODE | FAB_SW_CFG | FAB_BUF_MIN | FAB_ROUTE_CFG | FAB_TRAY_VIA | FAB_SHARED | FAB_DROP | FAB_PUSHOUT
  | FAB_RANKTAB | FAB_LINK_STATUS | FAB_LINK_TX | FAB_LINK_RX | FAB_LINK_ERR | FAB_LINK_FEC | FAB_LINK_FLUSH
  | FAB_LINK_OCC | WIN_TAB | WIN_CACHE_STAT | WIN_SERVED | WIN_REFUSED | WIN_STALL | WIN_RING_BASE
  | WIN_RING_CFG | WIN_RING_CTRL | WIN_RING_TAIL | WIN_RING_HEAD | COLL_STATUS | COLL_LATE | COLL_HELD
  | COLL_SUSP_LAST | COLL_SUSP_MASK | COLL_STALL | COLL_CID_CTRL | COLL_DEDUP | COLL_EVENTS | COLL_ADD_STAT
  | COLL_OCC | COLL_CID_CLOSED | ARB_CFG | ARB_SEED | ARB_TICKETS | ARB_FIXED | ARB_WDOG_MEM | ARB_WDOG_ENG
  | ARB_BITES | ARB_BITE_LAST | ARB_EMERG | SEC_DBG_CFG | DEV_FINGERPRINT | PART_DET_EVENTS | ERR_Q_BASE
  | ERR_Q_CFG | ERR_Q_HEAD | ERR_Q_TAIL | ERR_STATUS | ERR_REPLACE | ERR_REPLACE_CFG | ERR_RATE_WIN
  | ERR_THRESH0 | ERR_THRESH1 | ERR_CONS_STAT | ERR_CONS_FAIL | ERR_DROOP | ERR_DROOP_SEL | ERR_DROOP_DOM
  | ERR_THERM | ERR_MESH | ERR_LND_RETIRED | SCL_STATUS | SCL_VERSION | SCL_SEAL | SCL_PERIOD | SCL_ENERGY
  | SCL_RAIL | SCL_NONCE | SEC_ID | SEC_TALLY_BASE | SEC_TALLY_CFG | SEC_TALLY_HEAD | SEC_TALLY_TAIL
  | SEC_MET_CMD | SEC_QUOTE_CTRL | SEC_CERT_SEL | SEC_CERT | DEV_STATUS | DEV_CTRL | DEV_IMAGE | DEV_BOOT
  | SEC_FLASH_SRC | SEC_FLASH_CTRL
  deriving DecidableEq, Repr

/-- A register's place and shape: the control-space address of its first instance, its two instance ranges
(count and stride), whether it is 64 bits wide, the masks of its RW, W1C, WO and "image" fields, and its reset value. -/
structure RegSpec where
  addr : Nat
  n1 : Nat
  s1 : Nat
  n2 : Nat
  s2 : Nat
  wide : Bool
  rw : Nat
  w1c : Nat
  wo : Nat
  img : Nat
  reset : Nat
  deriving DecidableEq, Repr

/-- The register map: block bases of Table 3.2 plus the offsets of each chapter's Registers section. -/
def Reg.spec : Reg → RegSpec
  | .RING_COUNT => ⟨0x300000, 1, 0, 1, 0, true, 0, 0, 0, 0, 0⟩
  | .RING_STATUS => ⟨0x300008, 1, 0, 1, 0, true, 0, 0xc00000000, 0, 0, 0x3f000000⟩
  | .RING_CFG => ⟨0x300010, 1, 0, 1, 0, true, 0x7f1fffffff, 0, 0, 0x1fffffff, 0⟩
  | .RING_CTRL => ⟨0x300020, 1, 0, 1, 0, false, 0, 0, 3, 0, 0⟩
  | .RING_DELAY_SEL => ⟨0x300024, 1, 0, 1, 0, false, 0x3f, 0, 0, 0, 0⟩
  | .RING_DELAY => ⟨0x300028, 1, 0, 1, 0, false, 0, 0, 0, 0, 0⟩
  | .RING_ERR => ⟨0x300030, 1, 0, 1, 0, false, 0, 0, 0, 0, 0⟩
  | .RING_MISMATCH => ⟨0x300034, 1, 0, 1, 0, false, 0, 0, 0, 0, 0⟩
  | .RING_BIN_CFG => ⟨0x300038, 1, 0, 1, 0, false, 0xffff1fff, 0, 0, 0xffff1fff, 0⟩
  | .RING_BFWD_MASK_LO => ⟨0x300040, 1, 0, 1, 0, true, 0xffffffffffffffff, 0, 0, 0xffffffffffffffff, 0⟩
  | .RING_BFWD_MASK_HI => ⟨0x300048, 1, 0, 1, 0, false, 0xff, 0, 0, 0xff, 0⟩
  | .RING_NEXT => ⟨0x300100, 16, 0x20, 1, 0, true, 0xffffffffffffffff, 0, 0, 0, 0⟩
  | .RING_PERIOD => ⟨0x300108, 16, 0x20, 1, 0, false, 0xffffffff, 0, 0, 0, 0⟩
  | .RING_STEP => ⟨0x30010c, 16, 0x20, 1, 0, false, 0, 0, 0, 0, 0⟩
  | .RING_ORIG => ⟨0x300110, 16, 0x20, 1, 0, true, 0, 0, 0, 0, 0⟩
  | .RING_MOVES => ⟨0x300118, 16, 0x20, 1, 0, false, 0, 0, 0, 0, 0⟩
  | .CMD_SQ_BASE => ⟨0x101000, 64, 0x40, 1, 0, true, 0xffffffffffffffc0, 0, 0, 0, 0⟩
  | .CMD_SQ_CFG => ⟨0x101008, 64, 0x40, 1, 0, true, 0x1ffffff3fff, 0, 0, 0, 0⟩
  | .CMD_SQ_TAIL => ⟨0x101010, 64, 0x40, 1, 0, false, 0xffff, 0, 0, 0, 0⟩
  | .CMD_SQ_HEAD => ⟨0x101014, 64, 0x40, 1, 0, false, 0, 0, 0, 0, 0⟩
  | .CMD_SQ_CTRL => ⟨0x101018, 64, 0x40, 1, 0, false, 1, 2, 0, 0, 0⟩
  | .CMD_CQ_BASE => ⟨0x103000, 16, 0x20, 1, 0, true, 0xffffffffffffffe0, 0, 0, 0, 0⟩
  | .CMD_CQ_CFG => ⟨0x103008, 16, 0x20, 1, 0, false, 0x3f, 0, 0, 0, 0⟩
  | .CMD_CQ_NOTIFY => ⟨0x103010, 16, 0x20, 1, 0, true, 0xfffffffffffffff8, 0, 0, 0, 0⟩
  | .CMD_CQ_HEAD => ⟨0x103018, 16, 0x20, 1, 0, false, 0xffff, 0, 0, 0, 0⟩
  | .CMD_CQ_TAIL => ⟨0x10301c, 16, 0x20, 1, 0, false, 0, 0, 0, 0, 0x10000⟩
  | .PART_CTRL => ⟨0x200100, 16, 0x40, 1, 0, false, 0x3ffff, 0, 0, 0, 0⟩
  | .PART_ARRAYS => ⟨0x200108, 16, 0x40, 5, 4, false, 0xffffffff, 0, 0, 0, 0⟩
  | .PART_SHARE => ⟨0x200120, 16, 0x40, 1, 0, false, 0xffffff, 0, 0, 0, 0x10101⟩
  | .PART_STATUS => ⟨0x200124, 16, 0x40, 1, 0, false, 0, 0x10000, 0, 0, 0⟩
  | .CMD_ACCT_WAIT => ⟨0x104000, 64, 0x20, 1, 0, true, 0, 0, 0, 0, 0⟩
  | .CMD_ACCT_ENGINE => ⟨0x104008, 64, 0x20, 1, 0, true, 0, 0, 0, 0, 0⟩
  | .CMD_ACCT_CMDS => ⟨0x104010, 64, 0x20, 1, 0, true, 0, 0, 0, 0, 0⟩
  | .SV_STATUS => ⟨0x400000, 1, 0, 1, 0, false, 0, 0, 0, 0, 0⟩
  | .SV_TILES => ⟨0x400008, 1, 0, 1, 0, true, 0, 0, 0, 0, 0⟩
  | .SV_SORTED => ⟨0x400010, 1, 0, 1, 0, true, 0, 0, 0, 0, 0⟩
  | .SV_CTRL => ⟨0x401000, 16, 0x80, 1, 0, false, 1, 0, 0, 0, 0⟩
  | .SV_GRANT_STALL => ⟨0x401004, 16, 0x80, 1, 0, false, 0xffffffff, 0, 0, 0xffffffff, 0⟩
  | .SV_MODEL => ⟨0x401008, 16, 0x80, 1, 0, false, 0xffffff, 0, 0, 0, 0⟩
  | .SV_RPT_BASE => ⟨0x401010, 16, 0x80, 1, 0, true, 0xfffffffffffff000, 0, 0, 0, 0⟩
  | .SV_RPT_CFG => ⟨0x401018, 16, 0x80, 1, 0, false, 0x3ff, 0, 0, 0, 0⟩
  | .SV_RPT_HEAD => ⟨0x40101c, 16, 0x80, 1, 0, false, 0xffff, 0, 0, 0, 0⟩
  | .SV_RPT_TAIL => ⟨0x401020, 16, 0x80, 1, 0, false, 0, 0, 0, 0, 0⟩
  | .SV_GATE => ⟨0x401024, 16, 0x80, 1, 0, false, 0, 0, 0, 0, 0⟩
  | .SV_SEQ => ⟨0x401028, 16, 0x80, 1, 0, false, 0, 0, 0, 0, 0⟩
  | .SV_REL_SEQ => ⟨0x40102c, 16, 0x80, 1, 0, false, 0, 0, 0, 0, 0⟩
  | .SV_EMITTED => ⟨0x401030, 16, 0x80, 1, 0, true, 0, 0, 0, 0, 0⟩
  | .SV_DROPPED => ⟨0x401038, 16, 0x80, 1, 0, true, 0, 0, 0, 0, 0⟩
  | .SV_EXITED => ⟨0x401040, 16, 0x80, 1, 0, false, 0, 0, 0, 0, 0⟩
  | .SV_PASS => ⟨0x401044, 16, 0x80, 1, 0, false, 0, 0, 0, 0, 0⟩
  | .SV_NAN => ⟨0x401048, 16, 0x80, 1, 0, false, 0, 0, 0, 0, 0⟩
  | .SV_MAPMISS => ⟨0x40104c, 16, 0x80, 1, 0, false, 0, 0, 0, 0, 0⟩
  | .SV_GRANTS => ⟨0x401050, 16, 0x80, 1, 0, false, 0, 0, 0, 0, 0⟩
  | .XE_STATUS => ⟨0x500000, 1, 0, 1, 0, false, 0, 0, 0, 0, 0⟩
  | .XE_BILLETS_TX => ⟨0x500008, 1, 0, 1, 0, true, 0, 0, 0, 0, 0⟩
  | .XE_BILLETS_RX => ⟨0x500010, 1, 0, 1, 0, true, 0, 0, 0, 0, 0⟩
  | .XE_LATE => ⟨0x500018, 1, 0, 1, 0, true, 0, 0, 0, 0, 0⟩
  | .XE_HELD => ⟨0x500020, 1, 0, 1, 0, false, 0, 0, 0, 0, 0⟩
  | .XE_STALL => ⟨0x501000, 16, 0x100, 1, 0, false, 0xffffffff, 0, 0, 0xffffffff, 0⟩
  | .XE_XID_CTRL => ⟨0x501004, 16, 0x100, 1, 0, false, 0, 0, 0x7ff, 0, 0⟩
  | .XE_RESV => ⟨0x501008, 16, 0x100, 1, 0, true, 0, 0, 0, 0, 0⟩
  | .XE_DELIVERED => ⟨0x501010, 16, 0x100, 1, 0, true, 0, 0, 0, 0, 0⟩
  | .XE_KILLED => ⟨0x501018, 16, 0x100, 1, 0, true, 0, 0, 0, 0, 0⟩
  | .XE_FLUSHED => ⟨0x501020, 16, 0x100, 1, 0, true, 0, 0, 0, 0, 0⟩
  | .XE_OUTSTANDING => ⟨0x501028, 16, 0x100, 1, 0, true, 0, 0, 0, 0, 0⟩
  | .XE_LOCAL => ⟨0x501030, 16, 0x100, 1, 0, false, 0, 0, 0, 0, 0⟩
  | .XE_COMBINED => ⟨0x501038, 16, 0x100, 1, 0, true, 0, 0, 0, 0, 0⟩
  | .XE_XID_CLOSED => ⟨0x501080, 16, 0x100, 16, 8, true, 0, 0, 0, 0, 0⟩
  | .MA_FMT_PART => ⟨0x60c000, 16, 0x20, 1, 0, false, 1, 0, 0, 1, 0⟩
  | .MA_FMT_SEED => ⟨0x60c008, 16, 0x20, 1, 0, true, 0xffffffffffffffff, 0, 0, 0, 0⟩
  | .MA_FMT_EVENTS => ⟨0x60c010, 16, 0x20, 1, 0, true, 0, 0, 0, 0, 0⟩
  | .MA_BR_CFG => ⟨0x60d000, 64, 0x20, 1, 0, false, 0x1ffffff, 0, 0, 0, 0x3000⟩
  | .MA_BR_PROP => ⟨0x60d008, 64, 0x20, 1, 0, true, 0, 0, 0, 0, 0⟩
  | .MA_BR_STAT => ⟨0x60d010, 64, 0x20, 1, 0, false, 0, 0, 0, 0, 0⟩
  | .MA_BR_HSEL => ⟨0x60cf00, 1, 0, 1, 0, false, 0x1ff3f3f, 0, 0, 0, 0⟩
  | .MA_BR_HDATA => ⟨0x60cf04, 1, 0, 1, 0, false, 0, 0, 0, 0, 0⟩
  | .MA_TESTED => ⟨0x600000, 5, 4, 1, 0, false, 0, 0, 0, 0, 0⟩
  | .MA_ENABLED => ⟨0x600020, 5, 4, 1, 0, false, 0, 0, 0, 0, 0⟩
  | .MA_RETIRED => ⟨0x600040, 5, 4, 1, 0, false, 0, 0, 0, 0, 0⟩
  | .MA_ARRAY_SUM => ⟨0x600060, 1, 0, 1, 0, false, 0, 0, 0, 0, 0⟩
  | .MA_PART_MODE => ⟨0x60b000, 16, 0x10, 1, 0, false, 7, 0, 0, 7, 0⟩
  | .MA_ARR_STATE => ⟨0x1000000, 152, 0x10000, 1, 0, false, 0, 0, 0, 0, 0⟩
  | .MA_ARR_TAG => ⟨0x1000004, 152, 0x10000, 1, 0, false, 0, 0, 0, 0, 0⟩
  | .MA_ARR_BUSY => ⟨0x1000008, 152, 0x10000, 1, 0, true, 0, 0, 0, 0, 0⟩
  | .MA_ARR_CHECKS => ⟨0x1000010, 152, 0x10000, 1, 0, true, 0, 0, 0, 0, 0⟩
  | .MA_ARR_FAULT => ⟨0x1000018, 152, 0x10000, 1, 0, true, 0, 0x8000, 0, 0, 0⟩
  | .MA_ARR_TILES => ⟨0x1000020, 152, 0x10000, 1, 0, true, 0, 0, 0, 0, 0⟩
  | .SK_ERR => ⟨0x700000, 1, 0, 1, 0, false, 0, 0, 0, 0, 0⟩
  | .SK_STORE_SPARSE => ⟨0x700008, 1, 0, 1, 0, true, 0, 0, 0, 0, 0⟩
  | .SK_STORE_DENSE => ⟨0x700010, 1, 0, 1, 0, true, 0, 0, 0, 0, 0⟩
  | .SK_PART_CFG => ⟨0x700100, 16, 0x10, 1, 0, false, 0xfff, 0, 0, 0xfff, 0⟩
  | .SK_STATUS => ⟨0x701000, 19, 0x40, 1, 0, false, 0, 0, 0, 0, 0⟩
  | .SK_DENSE => ⟨0x701008, 19, 0x40, 1, 0, true, 0, 0, 0, 0, 0⟩
  | .SK_COMPACT => ⟨0x701010, 19, 0x40, 1, 0, true, 0, 0, 0, 0, 0⟩
  | .SK_POS_IN => ⟨0x701018, 19, 0x40, 1, 0, true, 0, 0, 0, 0, 0⟩
  | .SK_POS_OUT => ⟨0x701020, 19, 0x40, 1, 0, true, 0, 0, 0, 0, 0⟩
  | .SK_TRANSPOSE => ⟨0x701028, 19, 0x40, 1, 0, true, 0, 0, 0, 0, 0⟩
  | .SK_BYTES_IN => ⟨0x701030, 19, 0x40, 1, 0, true, 0, 0, 0, 0, 0⟩
  | .TIER_HBM_ERR => ⟨0x800000, 8, 8, 1, 0, true, 0, 0, 0, 0, 0⟩
  | .TIER_SLAB_ERR => ⟨0x800040, 1, 0, 1, 0, false, 0, 0, 0, 0, 0⟩
  | .TIER_UE_ADDR => ⟨0x800048, 1, 0, 1, 0, true, 0, 0, 0, 0, 0⟩
  | .TIER_SCRUB => ⟨0x800050, 1, 0, 1, 0, false, 0x3ffff, 0, 0, 0x3ffff, 0⟩
  | .TIER_RETIRED => ⟨0x800058, 1, 0, 1, 0, false, 0, 0, 0, 0, 0⟩
  | .TIER_OBJTAB => ⟨0x801000, 16, 0x40, 1, 0, true, 0x1ffffffff000, 0, 0x200000000000, 0, 0⟩
  | .TIER_QUOTA => ⟨0x801008, 16, 0x40, 1, 0, true, 0xfffffffffffff, 0, 0, 0, 0⟩
  | .TIER_USE => ⟨0x801010, 16, 0x40, 1, 0, true, 0, 0, 0, 0, 0⟩
  | .TIER_PART_CFG => ⟨0x801018, 16, 0x40, 1, 0, false, 0x13f, 0, 0, 0x13f, 0⟩
  | .TIER_DEADLINE => ⟨0x80101c, 16, 0x40, 1, 0, false, 0xffffffff, 0, 0, 0xffffffff, 0⟩
  | .TIER_STALL => ⟨0x801020, 16, 0x40, 1, 0, false, 0xffffffff, 0, 0, 0xffffffff, 0⟩
  | .TIER_FETCH_STAT => ⟨0x801028, 16, 0x40, 1, 0, true, 0, 0, 0, 0, 0⟩
  | .TIER_LND_POOL => ⟨0x802000, 8, 0x10, 1, 0, true, 0xffffffffffff00, 0, 0, 0xffffffffffff00, 0⟩
  | .TIER_LND_FREE => ⟨0x802008, 8, 0x10, 1, 0, true, 0, 0, 0, 0, 0⟩
  | .TIER_LND_PART => ⟨0x803000, 16, 0x40, 8, 4, false, 0xffffffff, 0, 0, 0, 0⟩
  | .TIER_LND_USE => ⟨0x803020, 16, 0x40, 8, 4, false, 0, 0, 0, 0, 0⟩
  | .XU_WALKS => ⟨0x900000, 1, 0, 1, 0, true, 0, 0, 0, 0, 0⟩
  | .XU_ROOT => ⟨0x901000, 16, 0x20, 1, 0, true, 0xfffffe0001, 0, 0, 0, 0⟩
  | .XU_FAULT => ⟨0x901008, 16, 0x20, 1, 0, true, 0, 0x8000000000000000, 0, 0, 0⟩
  | .XU_FAULT_TAG => ⟨0x901010, 16, 0x20, 1, 0, false, 0, 0, 0, 0, 0⟩
  | .XU_FAULT_CNT => ⟨0x901014, 16, 0x20, 1, 0, false, 0, 0, 0, 0, 0⟩
  | .TIER_SWAP_CTX => ⟨0x804000, 4, 0x20, 1, 0, true, 0, 0, 0, 0, 0⟩
  | .TIER_SWAP_TAG => ⟨0x804008, 4, 0x20, 1, 0, false, 0, 0, 0, 0, 0⟩
  | .TIER_SWAP_BYTES => ⟨0x804010, 4, 0x20, 1, 0, true, 0, 0, 0, 0, 0⟩
  | .TIER_SWAP_DUP => ⟨0x804018, 4, 0x20, 1, 0, false, 0, 0, 0, 0, 0⟩
  | .TIER_SWAP_ORPHAN => ⟨0x804080, 1, 0, 1, 0, true, 0, 0, 0, 0, 0⟩
  | .FAB_NODE => ⟨0xa00000, 1, 0, 1, 0, false, 0, 0, 0, 0, 0⟩
  | .FAB_SW_CFG => ⟨0xa00008, 1, 0, 1, 0, false, 0xffffd, 0, 0, 0xffffd, 0⟩
  | .FAB_BUF_MIN => ⟨0xa00010, 1, 0, 1, 0, false, 0xfffffff, 0, 0, 0xfffffff, 0⟩
  | .FAB_ROUTE_CFG => ⟨0xa00018, 1, 0, 1, 0, false, 0xff7f, 0, 0, 0xff7f, 0⟩
  | .FAB_TRAY_VIA => ⟨0xa0001c, 1, 0, 1, 0, false, 0xffffffff, 0, 0, 0, 0⟩
  | .FAB_SHARED => ⟨0xa00020, 1, 0, 1, 0, false, 0, 0, 0, 0, 0⟩
  | .FAB_DROP => ⟨0xa00028, 1, 0, 1, 0, true, 0, 0, 0, 0, 0⟩
  | .FAB_PUSHOUT => ⟨0xa00030, 1, 0, 1, 0, true, 0, 0, 0, 0, 0⟩
  | .FAB_RANKTAB => ⟨0xa01000, 16, 0x10, 1, 0, true, 0xffffffffffff00, 0, 0, 0, 0⟩
  | .FAB_LINK_STATUS => ⟨0xa02000, 36, 0x40, 1, 0, false, 0, 0, 0, 0, 0⟩
  | .FAB_LINK_TX => ⟨0xa02008, 36, 0x40, 1, 0, true, 0, 0, 0, 0, 0⟩
  | .FAB_LINK_RX => ⟨0xa02010, 36, 0x40, 1, 0, true, 0, 0, 0, 0, 0⟩
  | .FAB_LINK_ERR => ⟨0xa02018, 36, 0x40, 1, 0, true, 0, 0, 0, 0, 0⟩
  | .FAB_LINK_FEC => ⟨0xa02020, 36, 0x40, 1, 0, true, 0, 0, 0, 0, 0⟩
  | .FAB_LINK_FLUSH => ⟨0xa02028, 36, 0x40, 1, 0, true, 0, 0, 0, 0, 0⟩
  | .FAB_LINK_OCC => ⟨0xa02030, 36, 0x40, 1, 0, false, 0, 0, 0, 0, 0⟩
  | .WIN_TAB => ⟨0xb00000, 1, 0, 1, 0, true, 0xffffffff00, 0, 0, 0, 0⟩
  | .WIN_CACHE_STAT => ⟨0xb00008, 1, 0, 1, 0, true, 0, 0, 0, 0, 0⟩
  | .WIN_SERVED => ⟨0xb00010, 1, 0, 1, 0, true, 0, 0, 0, 0, 0⟩
  | .WIN_REFUSED => ⟨0xb00018, 1, 0, 1, 0, true, 0, 0, 0, 0, 0⟩
  | .WIN_STALL => ⟨0xb00020, 1, 0, 1, 0, false, 0xffffffff, 0, 0, 0xffffffff, 0⟩
  | .WIN_RING_BASE => ⟨0xb01000, 16, 0x20, 1, 0, true, 0xffffffffffffffc0, 0, 0, 0, 0⟩
  | .WIN_RING_CFG => ⟨0xb01008, 16, 0x20, 1, 0, false, 0xffffff, 0, 0, 0, 0⟩
  | .WIN_RING_CTRL => ⟨0xb0100c, 16, 0x20, 1, 0, false, 1, 0, 2, 0, 0⟩
  | .WIN_RING_TAIL => ⟨0xb01010, 16, 0x20, 1, 0, false, 0xffff, 0, 0, 0, 0⟩
  | .WIN_RING_HEAD => ⟨0xb01014, 16, 0x20, 1, 0, false, 0, 0, 0, 0, 0⟩
  | .COLL_STATUS => ⟨0xc00000, 1, 0, 1, 0, false, 0, 0, 0, 0, 0⟩
  | .COLL_LATE => ⟨0xc00008, 1, 0, 1, 0, true, 0, 0, 0, 0, 0⟩
  | .COLL_HELD => ⟨0xc00010, 1, 0, 1, 0, false, 0, 0, 0, 0, 0⟩
  | .COLL_SUSP_LAST => ⟨0xc00018, 1, 0, 1, 0, true, 0, 0x8000000000000000, 0, 0, 0⟩
  | .COLL_SUSP_MASK => ⟨0xc00020, 8, 8, 1, 0, true, 0, 0, 0, 0, 0⟩
  | .COLL_STALL => ⟨0xc01000, 16, 0x100, 1, 0, false, 0xffffffff, 0, 0, 0xffffffff, 0⟩
  | .COLL_CID_CTRL => ⟨0xc01004, 16, 0x100, 1, 0, false, 0, 0, 0x1ff, 0, 0⟩
  | .COLL_DEDUP => ⟨0xc01008, 16, 0x100, 1, 0, true, 0x1ffffffffffffc0, 0, 0, 0, 0⟩
  | .COLL_EVENTS => ⟨0xc01010, 16, 0x100, 1, 0, true, 0, 0, 0, 0, 0⟩
  | .COLL_ADD_STAT => ⟨0xc01018, 16, 0x100, 1, 0, true, 0, 0, 0, 0, 0⟩
  | .COLL_OCC => ⟨0xc01020, 16, 0x100, 4, 8, true, 0, 0, 0, 0, 0⟩
  | .COLL_CID_CLOSED => ⟨0xc01040, 16, 0x100, 4, 8, true, 0, 0, 0, 0, 0⟩
  | .ARB_CFG => ⟨0xd00000, 1, 0, 1, 0, false, 1, 0, 0, 1, 0⟩
  | .ARB_SEED => ⟨0xd00004, 1, 0, 1, 0, false, 0xffffffff, 0, 0, 0xffffffff, 0⟩
  | .ARB_TICKETS => ⟨0xd00008, 1, 0, 1, 0, false, 0xffffffff, 0, 0, 0xffffffff, 0⟩
  | .ARB_FIXED => ⟨0xd0000c, 1, 0, 1, 0, false, 0xffffff, 0, 0, 0xffffff, 0⟩
  | .ARB_WDOG_MEM => ⟨0xd00010, 1, 0, 1, 0, false, 0xffffffff, 0, 0, 0xffffffff, 0⟩
  | .ARB_WDOG_ENG => ⟨0xd00014, 1, 0, 1, 0, false, 0xffffffff, 0, 0, 0xffffffff, 0⟩
  | .ARB_BITES => ⟨0xd00018, 1, 0, 1, 0, true, 0, 0, 0, 0, 0⟩
  | .ARB_BITE_LAST => ⟨0xd00020, 1, 0, 1, 0, true, 0, 0x8000000000000000, 0, 0, 0⟩
  | .ARB_EMERG => ⟨0xd00028, 1, 0, 1, 0, true, 0, 0, 0, 0, 0⟩
  | .SEC_DBG_CFG => ⟨0x1f00050, 1, 0, 1, 0, true, 2, 0, 0, 1, 0⟩
  | .DEV_FINGERPRINT => ⟨0x10, 1, 0, 1, 0, true, 0, 0, 0, 0, 0⟩
  | .PART_DET_EVENTS => ⟨0x200128, 16, 0x40, 1, 0, false, 0, 0xf, 0, 0, 0⟩
  | .ERR_Q_BASE => ⟨0xe00000, 1, 0, 1, 0, true, 0xffffffffffffffc0, 0, 0, 0, 0⟩
  | .ERR_Q_CFG => ⟨0xe00008, 1, 0, 1, 0, false, 0x7f, 0, 0, 0, 0⟩
  | .ERR_Q_HEAD => ⟨0xe0000c, 1, 0, 1, 0, false, 0xffff, 0, 0, 0, 0⟩
  | .ERR_Q_TAIL => ⟨0xe00010, 1, 0, 1, 0, false, 0, 0, 0, 0, 0x10000⟩
  | .ERR_STATUS => ⟨0xe00014, 1, 0, 1, 0, false, 0, 0x10, 0, 0, 0⟩
  | .ERR_REPLACE => ⟨0xe00018, 1, 0, 1, 0, false, 0, 0x1f, 0, 0, 0⟩
  | .ERR_REPLACE_CFG => ⟨0xe0001c, 1, 0, 1, 0, false, 0x1fff1f, 0, 0, 0x1fff1f, 0⟩
  | .ERR_RATE_WIN => ⟨0xe00020, 1, 0, 1, 0, false, 0xffff, 0, 0, 0xffff, 0⟩
  | .ERR_THRESH0 => ⟨0xe00028, 1, 0, 1, 0, true, 0xffffffffffffffff, 0, 0, 0xffffffffffffffff, 0⟩
  | .ERR_THRESH1 => ⟨0xe00030, 1, 0, 1, 0, true, 0xffffffffff, 0, 0, 0xffffffffff, 0⟩
  | .ERR_CONS_STAT => ⟨0xe00040, 1, 0, 1, 0, true, 0, 0, 0, 0, 0⟩
  | .ERR_CONS_FAIL => ⟨0xe00048, 1, 0, 1, 0, true, 0, 0x8000000000000000, 0, 0, 0⟩
  | .ERR_DROOP => ⟨0xe00050, 1, 0, 1, 0, true, 0, 0, 0, 0, 0⟩
  | .ERR_DROOP_SEL => ⟨0xe00058, 1, 0, 1, 0, false, 0xff, 0, 0, 0, 0⟩
  | .ERR_DROOP_DOM => ⟨0xe0005c, 1, 0, 1, 0, false, 0, 0, 0, 0, 0⟩
  | .ERR_THERM => ⟨0xe00060, 1, 0, 1, 0, false, 0xff, 0, 0, 0xff, 0⟩
  | .ERR_MESH => ⟨0xe00068, 1, 0, 1, 0, false, 0, 0, 0, 0, 0⟩
  | .ERR_LND_RETIRED => ⟨0xe00100, 8, 4, 1, 0, false, 0, 0, 0, 0, 0⟩
  | .SCL_STATUS => ⟨0xf00000, 1, 0, 1, 0, false, 0, 0, 0, 0, 0⟩
  | .SCL_VERSION => ⟨0xf00004, 1, 0, 1, 0, false, 0, 0, 0, 0, 0⟩
  | .SCL_SEAL => ⟨0xf00008, 1, 0, 1, 0, false, 0, 0, 0, 0, 0⟩
  | .SCL_PERIOD => ⟨0xf00010, 1, 0, 1, 0, true, 0, 0, 0, 0, 0⟩
  | .SCL_ENERGY => ⟨0xf00018, 1, 0, 1, 0, true, 0, 0, 0, 0, 0⟩
  | .SCL_RAIL => ⟨0xf00040, 8, 8, 1, 0, true, 0, 0, 0, 0, 0⟩
  | .SCL_NONCE => ⟨0xf00080, 4, 8, 1, 0, true, 0, 0, 0, 0, 0⟩
  | .SEC_ID => ⟨0x1f00000, 1, 0, 1, 0, true, 0, 0, 0, 0, 0⟩
  | .SEC_TALLY_BASE => ⟨0x1f00008, 1, 0, 1, 0, true, 0xfffffffffffff000, 0, 0, 0, 0⟩
  | .SEC_TALLY_CFG => ⟨0x1f00010, 1, 0, 1, 0, false, 0x1f, 0, 0, 0, 0⟩
  | .SEC_TALLY_HEAD => ⟨0x1f00014, 1, 0, 1, 0, false, 0xffff, 0, 0, 0, 0⟩
  | .SEC_TALLY_TAIL => ⟨0x1f00018, 1, 0, 1, 0, false, 0, 0, 0, 0, 0x10000⟩
  | .SEC_MET_CMD => ⟨0x1f00020, 1, 0, 1, 0, true, 0, 0, 0xffffffffffffffff, 0, 0⟩
  | .SEC_QUOTE_CTRL => ⟨0x1f00028, 1, 0, 1, 0, true, 0xffffffffffffffc0, 4, 1, 0, 0⟩
  | .SEC_CERT_SEL => ⟨0x1f00030, 1, 0, 1, 0, false, 0x1fff, 0, 0, 0, 0⟩
  | .SEC_CERT => ⟨0x1f00034, 1, 0, 1, 0, false, 0, 0, 0, 0, 0⟩
  | .DEV_STATUS => ⟨0x20, 1, 0, 1, 0, false, 0, 0, 0, 0, 0⟩
  | .DEV_CTRL => ⟨0x28, 1, 0, 1, 0, false, 0, 0, 1, 0, 0⟩
  | .DEV_IMAGE => ⟨0x30, 1, 0, 1, 0, true, 0, 0, 0, 0, 0⟩
  | .DEV_BOOT => ⟨0x38, 1, 0, 1, 0, false, 0, 0, 0, 0, 0⟩
  | .SEC_FLASH_SRC => ⟨0x1f00040, 1, 0, 1, 0, true, 0xffffffffffffffc0, 0, 0, 0, 0⟩
  | .SEC_FLASH_CTRL => ⟨0x1f00048, 1, 0, 1, 0, true, 0x1fffff1fffff, 0x1800000000000, 0x200000000000, 0, 0⟩

/-- Every register, in the order of the chapters: what an address is looked up in. -/
def Reg.list0 : List Reg :=
  [.RING_COUNT, .RING_STATUS, .RING_CFG, .RING_CTRL, .RING_DELAY_SEL, .RING_DELAY, .RING_ERR, .RING_MISMATCH, .RING_BIN_CFG, .RING_BFWD_MASK_LO, .RING_BFWD_MASK_HI, .RING_NEXT, .RING_PERIOD, .RING_STEP, .RING_ORIG, .RING_MOVES, .CMD_SQ_BASE, .CMD_SQ_CFG, .CMD_SQ_TAIL, .CMD_SQ_HEAD, .CMD_SQ_CTRL, .CMD_CQ_BASE, .CMD_CQ_CFG, .CMD_CQ_NOTIFY, .CMD_CQ_HEAD, .CMD_CQ_TAIL, .PART_CTRL, .PART_ARRAYS, .PART_SHARE, .PART_STATUS, .CMD_ACCT_WAIT, .CMD_ACCT_ENGINE, .CMD_ACCT_CMDS, .SV_STATUS, .SV_TILES, .SV_SORTED, .SV_CTRL, .SV_GRANT_STALL, .SV_MODEL, .SV_RPT_BASE]

def Reg.list1 : List Reg :=
  [.SV_RPT_CFG, .SV_RPT_HEAD, .SV_RPT_TAIL, .SV_GATE, .SV_SEQ, .SV_REL_SEQ, .SV_EMITTED, .SV_DROPPED, .SV_EXITED, .SV_PASS, .SV_NAN, .SV_MAPMISS, .SV_GRANTS, .XE_STATUS, .XE_BILLETS_TX, .XE_BILLETS_RX, .XE_LATE, .XE_HELD, .XE_STALL, .XE_XID_CTRL, .XE_RESV, .XE_DELIVERED, .XE_KILLED, .XE_FLUSHED, .XE_OUTSTANDING, .XE_LOCAL, .XE_COMBINED, .XE_XID_CLOSED, .MA_FMT_PART, .MA_FMT_SEED, .MA_FMT_EVENTS, .MA_BR_CFG, .MA_BR_PROP, .MA_BR_STAT, .MA_BR_HSEL, .MA_BR_HDATA, .MA_TESTED, .MA_ENABLED, .MA_RETIRED, .MA_ARRAY_SUM]

def Reg.list2 : List Reg :=
  [.MA_PART_MODE, .MA_ARR_STATE, .MA_ARR_TAG, .MA_ARR_BUSY, .MA_ARR_CHECKS, .MA_ARR_FAULT, .MA_ARR_TILES, .SK_ERR, .SK_STORE_SPARSE, .SK_STORE_DENSE, .SK_PART_CFG, .SK_STATUS, .SK_DENSE, .SK_COMPACT, .SK_POS_IN, .SK_POS_OUT, .SK_TRANSPOSE, .SK_BYTES_IN, .TIER_HBM_ERR, .TIER_SLAB_ERR, .TIER_UE_ADDR, .TIER_SCRUB, .TIER_RETIRED, .TIER_OBJTAB, .TIER_QUOTA, .TIER_USE, .TIER_PART_CFG, .TIER_DEADLINE, .TIER_STALL, .TIER_FETCH_STAT, .TIER_LND_POOL, .TIER_LND_FREE, .TIER_LND_PART, .TIER_LND_USE, .XU_WALKS, .XU_ROOT, .XU_FAULT, .XU_FAULT_TAG, .XU_FAULT_CNT, .TIER_SWAP_CTX]

def Reg.list3 : List Reg :=
  [.TIER_SWAP_TAG, .TIER_SWAP_BYTES, .TIER_SWAP_DUP, .TIER_SWAP_ORPHAN, .FAB_NODE, .FAB_SW_CFG, .FAB_BUF_MIN, .FAB_ROUTE_CFG, .FAB_TRAY_VIA, .FAB_SHARED, .FAB_DROP, .FAB_PUSHOUT, .FAB_RANKTAB, .FAB_LINK_STATUS, .FAB_LINK_TX, .FAB_LINK_RX, .FAB_LINK_ERR, .FAB_LINK_FEC, .FAB_LINK_FLUSH, .FAB_LINK_OCC, .WIN_TAB, .WIN_CACHE_STAT, .WIN_SERVED, .WIN_REFUSED, .WIN_STALL, .WIN_RING_BASE, .WIN_RING_CFG, .WIN_RING_CTRL, .WIN_RING_TAIL, .WIN_RING_HEAD, .COLL_STATUS, .COLL_LATE, .COLL_HELD, .COLL_SUSP_LAST, .COLL_SUSP_MASK, .COLL_STALL, .COLL_CID_CTRL, .COLL_DEDUP, .COLL_EVENTS, .COLL_ADD_STAT]

def Reg.list4 : List Reg :=
  [.COLL_OCC, .COLL_CID_CLOSED, .ARB_CFG, .ARB_SEED, .ARB_TICKETS, .ARB_FIXED, .ARB_WDOG_MEM, .ARB_WDOG_ENG, .ARB_BITES, .ARB_BITE_LAST, .ARB_EMERG, .SEC_DBG_CFG, .DEV_FINGERPRINT, .PART_DET_EVENTS, .ERR_Q_BASE, .ERR_Q_CFG, .ERR_Q_HEAD, .ERR_Q_TAIL, .ERR_STATUS, .ERR_REPLACE, .ERR_REPLACE_CFG, .ERR_RATE_WIN, .ERR_THRESH0, .ERR_THRESH1, .ERR_CONS_STAT, .ERR_CONS_FAIL, .ERR_DROOP, .ERR_DROOP_SEL, .ERR_DROOP_DOM, .ERR_THERM, .ERR_MESH, .ERR_LND_RETIRED, .SCL_STATUS, .SCL_VERSION, .SCL_SEAL, .SCL_PERIOD, .SCL_ENERGY, .SCL_RAIL, .SCL_NONCE, .SEC_ID]

def Reg.list5 : List Reg :=
  [.SEC_TALLY_BASE, .SEC_TALLY_CFG, .SEC_TALLY_HEAD, .SEC_TALLY_TAIL, .SEC_MET_CMD, .SEC_QUOTE_CTRL, .SEC_CERT_SEL, .SEC_CERT, .DEV_STATUS, .DEV_CTRL, .DEV_IMAGE, .DEV_BOOT, .SEC_FLASH_SRC, .SEC_FLASH_CTRL]

/-- Every register of control space. -/
def Reg.all : List Reg :=
  Reg.list0 ++ Reg.list1 ++ Reg.list2 ++ Reg.list3 ++ Reg.list4 ++ Reg.list5

/-- A field of a register: its lowest bit and its width (R5). -/
structure Fld where
  reg : Reg
  lo : Nat
  width : Nat
  deriving DecidableEq, Repr

namespace Fld

abbrev RING_COUNT_COUNT : Fld := ⟨.RING_COUNT, 0, 64⟩
abbrev RING_STATUS_FRACTION : Fld := ⟨.RING_STATUS, 0, 16⟩
abbrev RING_STATUS_DEPTH : Fld := ⟨.RING_STATUS, 16, 8⟩
abbrev RING_STATUS_PARENT : Fld := ⟨.RING_STATUS, 24, 6⟩
abbrev RING_STATUS_STATE : Fld := ⟨.RING_STATUS, 32, 2⟩
abbrev RING_STATUS_REF_LOST : Fld := ⟨.RING_STATUS, 34, 1⟩
abbrev RING_STATUS_BACKSTEP : Fld := ⟨.RING_STATUS, 35, 1⟩
abbrev RING_CFG_ROOT_NODE : Fld := ⟨.RING_CFG, 0, 16⟩
abbrev RING_CFG_W_LEN_M1 : Fld := ⟨.RING_CFG, 16, 4⟩
abbrev RING_CFG_Z_LEN_M1 : Fld := ⟨.RING_CFG, 20, 5⟩
abbrev RING_CFG_Y_LEN_M1 : Fld := ⟨.RING_CFG, 25, 4⟩
abbrev RING_CFG_PARENT_OVR : Fld := ⟨.RING_CFG, 32, 6⟩
abbrev RING_CFG_PARENT_OVR_EN : Fld := ⟨.RING_CFG, 38, 1⟩
abbrev RING_CTRL_REACQUIRE : Fld := ⟨.RING_CTRL, 0, 1⟩
abbrev RING_CTRL_CLEAR_MAX : Fld := ⟨.RING_CTRL, 1, 1⟩
abbrev RING_DELAY_SEL_LINK : Fld := ⟨.RING_DELAY_SEL, 0, 6⟩
abbrev RING_DELAY_DELAY : Fld := ⟨.RING_DELAY, 0, 20⟩
abbrev RING_DELAY_VALID : Fld := ⟨.RING_DELAY, 31, 1⟩
abbrev RING_ERR_LAST_ERR : Fld := ⟨.RING_ERR, 0, 16⟩
abbrev RING_ERR_MAX_ERR : Fld := ⟨.RING_ERR, 16, 16⟩
abbrev RING_MISMATCH_PEER : Fld := ⟨.RING_MISMATCH, 0, 16⟩
abbrev RING_MISMATCH_SLIPS : Fld := ⟨.RING_MISMATCH, 16, 16⟩
abbrev RING_BIN_CFG_DELAY : Fld := ⟨.RING_BIN_CFG, 0, 12⟩
abbrev RING_BIN_CFG_FWD_EN : Fld := ⟨.RING_BIN_CFG, 12, 1⟩
abbrev RING_BIN_CFG_PART_MASK : Fld := ⟨.RING_BIN_CFG, 16, 16⟩
abbrev RING_BFWD_MASK_LO_MASK_LO : Fld := ⟨.RING_BFWD_MASK_LO, 0, 64⟩
abbrev RING_BFWD_MASK_HI_MASK_HI : Fld := ⟨.RING_BFWD_MASK_HI, 0, 8⟩
abbrev RING_NEXT_NEXT : Fld := ⟨.RING_NEXT, 0, 64⟩
abbrev RING_PERIOD_PERIOD : Fld := ⟨.RING_PERIOD, 0, 32⟩
abbrev RING_STEP_STEP : Fld := ⟨.RING_STEP, 0, 32⟩
abbrev RING_ORIG_ORIG : Fld := ⟨.RING_ORIG, 0, 64⟩
abbrev RING_MOVES_ACCEPTED : Fld := ⟨.RING_MOVES, 0, 16⟩
abbrev RING_MOVES_REFUSED : Fld := ⟨.RING_MOVES, 16, 16⟩
abbrev CMD_SQ_BASE_BASE : Fld := ⟨.CMD_SQ_BASE, 6, 58⟩
abbrev CMD_SQ_CFG_SIZE_LOG2 : Fld := ⟨.CMD_SQ_CFG, 0, 4⟩
abbrev CMD_SQ_CFG_CQ : Fld := ⟨.CMD_SQ_CFG, 4, 4⟩
abbrev CMD_SQ_CFG_PRIV : Fld := ⟨.CMD_SQ_CFG, 8, 2⟩
abbrev CMD_SQ_CFG_PARTITION : Fld := ⟨.CMD_SQ_CFG, 10, 4⟩
abbrev CMD_SQ_CFG_JOB : Fld := ⟨.CMD_SQ_CFG, 16, 16⟩
abbrev CMD_SQ_CFG_MAX_INFLIGHT : Fld := ⟨.CMD_SQ_CFG, 32, 9⟩
abbrev CMD_SQ_TAIL_TAIL : Fld := ⟨.CMD_SQ_TAIL, 0, 16⟩
abbrev CMD_SQ_HEAD_HEAD : Fld := ⟨.CMD_SQ_HEAD, 0, 16⟩
abbrev CMD_SQ_CTRL_ENABLE : Fld := ⟨.CMD_SQ_CTRL, 0, 1⟩
abbrev CMD_SQ_CTRL_HALTED : Fld := ⟨.CMD_SQ_CTRL, 1, 1⟩
abbrev CMD_CQ_BASE_BASE : Fld := ⟨.CMD_CQ_BASE, 5, 59⟩
abbrev CMD_CQ_CFG_SIZE_LOG2 : Fld := ⟨.CMD_CQ_CFG, 0, 4⟩
abbrev CMD_CQ_CFG_NOTIFY_EN : Fld := ⟨.CMD_CQ_CFG, 4, 1⟩
abbrev CMD_CQ_CFG_ENABLE : Fld := ⟨.CMD_CQ_CFG, 5, 1⟩
abbrev CMD_CQ_NOTIFY_ADDR : Fld := ⟨.CMD_CQ_NOTIFY, 3, 61⟩
abbrev CMD_CQ_HEAD_HEAD : Fld := ⟨.CMD_CQ_HEAD, 0, 16⟩
abbrev CMD_CQ_TAIL_TAIL : Fld := ⟨.CMD_CQ_TAIL, 0, 16⟩
abbrev CMD_CQ_TAIL_PHASE : Fld := ⟨.CMD_CQ_TAIL, 16, 1⟩
abbrev CMD_CQ_TAIL_FULL : Fld := ⟨.CMD_CQ_TAIL, 17, 1⟩
abbrev PART_CTRL_JOB : Fld := ⟨.PART_CTRL, 0, 16⟩
abbrev PART_CTRL_VALID : Fld := ⟨.PART_CTRL, 16, 1⟩
abbrev PART_CTRL_DET : Fld := ⟨.PART_CTRL, 17, 1⟩
abbrev PART_ARRAYS_ARRAYS : Fld := ⟨.PART_ARRAYS, 0, 32⟩
abbrev PART_SHARE_ENGINE : Fld := ⟨.PART_SHARE, 0, 8⟩
abbrev PART_SHARE_HBM : Fld := ⟨.PART_SHARE, 8, 8⟩
abbrev PART_SHARE_LINK : Fld := ⟨.PART_SHARE, 16, 8⟩
abbrev PART_STATUS_INFLIGHT : Fld := ⟨.PART_STATUS, 0, 10⟩
abbrev PART_STATUS_REFUSED : Fld := ⟨.PART_STATUS, 16, 1⟩
abbrev CMD_ACCT_WAIT_WAIT : Fld := ⟨.CMD_ACCT_WAIT, 0, 64⟩
abbrev CMD_ACCT_ENGINE_ARRAY_COUNTS : Fld := ⟨.CMD_ACCT_ENGINE, 0, 64⟩
abbrev CMD_ACCT_CMDS_DONE : Fld := ⟨.CMD_ACCT_CMDS, 0, 32⟩
abbrev CMD_ACCT_CMDS_PREEMPTED : Fld := ⟨.CMD_ACCT_CMDS, 32, 16⟩
abbrev CMD_ACCT_CMDS_KILLED : Fld := ⟨.CMD_ACCT_CMDS, 48, 16⟩
abbrev SV_STATUS_CTX_BUSY : Fld := ⟨.SV_STATUS, 0, 2⟩
abbrev SV_STATUS_CTX0_PART : Fld := ⟨.SV_STATUS, 4, 4⟩
abbrev SV_STATUS_CTX1_PART : Fld := ⟨.SV_STATUS, 8, 4⟩
abbrev SV_STATUS_OPEN_ROWS : Fld := ⟨.SV_STATUS, 16, 14⟩
abbrev SV_TILES_TILES : Fld := ⟨.SV_TILES, 0, 64⟩
abbrev SV_SORTED_SORTED : Fld := ⟨.SV_SORTED, 0, 64⟩
abbrev SV_CTRL_DLB_EN : Fld := ⟨.SV_CTRL, 0, 1⟩
abbrev SV_GRANT_STALL_T : Fld := ⟨.SV_GRANT_STALL, 0, 32⟩
abbrev SV_MODEL_HANDLE : Fld := ⟨.SV_MODEL, 0, 24⟩
abbrev SV_RPT_BASE_BASE : Fld := ⟨.SV_RPT_BASE, 12, 52⟩
abbrev SV_RPT_CFG_SIZE_LOG2 : Fld := ⟨.SV_RPT_CFG, 0, 4⟩
abbrev SV_RPT_CFG_SLOT_LOG2 : Fld := ⟨.SV_RPT_CFG, 4, 5⟩
abbrev SV_RPT_CFG_ENABLE : Fld := ⟨.SV_RPT_CFG, 9, 1⟩
abbrev SV_RPT_HEAD_HEAD : Fld := ⟨.SV_RPT_HEAD, 0, 16⟩
abbrev SV_RPT_TAIL_TAIL : Fld := ⟨.SV_RPT_TAIL, 0, 16⟩
abbrev SV_RPT_TAIL_FULL : Fld := ⟨.SV_RPT_TAIL, 16, 1⟩
abbrev SV_GATE_AWAITING : Fld := ⟨.SV_GATE, 0, 1⟩
abbrev SV_GATE_STORED : Fld := ⟨.SV_GATE, 1, 3⟩
abbrev SV_SEQ_SEQ : Fld := ⟨.SV_SEQ, 0, 32⟩
abbrev SV_REL_SEQ_REL_SEQ : Fld := ⟨.SV_REL_SEQ, 0, 32⟩
abbrev SV_EMITTED_EMITTED : Fld := ⟨.SV_EMITTED, 0, 64⟩
abbrev SV_DROPPED_DROPPED : Fld := ⟨.SV_DROPPED, 0, 64⟩
abbrev SV_EXITED_EXITED : Fld := ⟨.SV_EXITED, 0, 32⟩
abbrev SV_PASS_PASS : Fld := ⟨.SV_PASS, 0, 32⟩
abbrev SV_NAN_NAN : Fld := ⟨.SV_NAN, 0, 32⟩
abbrev SV_MAPMISS_MAPMISS : Fld := ⟨.SV_MAPMISS, 0, 32⟩
abbrev SV_GRANTS_STALLS : Fld := ⟨.SV_GRANTS, 0, 16⟩
abbrev SV_GRANTS_STALE : Fld := ⟨.SV_GRANTS, 16, 16⟩
abbrev XE_STATUS_CTX_BUSY : Fld := ⟨.XE_STATUS, 0, 7⟩
abbrev XE_STATUS_CTX_EARLY : Fld := ⟨.XE_STATUS, 8, 7⟩
abbrev XE_BILLETS_TX_TX : Fld := ⟨.XE_BILLETS_TX, 0, 64⟩
abbrev XE_BILLETS_RX_RX : Fld := ⟨.XE_BILLETS_RX, 0, 64⟩
abbrev XE_LATE_LATE : Fld := ⟨.XE_LATE, 0, 64⟩
abbrev XE_HELD_NOW : Fld := ⟨.XE_HELD, 0, 16⟩
abbrev XE_HELD_EVENTS : Fld := ⟨.XE_HELD, 16, 16⟩
abbrev XE_STALL_T : Fld := ⟨.XE_STALL, 0, 32⟩
abbrev XE_XID_CTRL_XID : Fld := ⟨.XE_XID_CTRL, 0, 9⟩
abbrev XE_XID_CTRL_DIR : Fld := ⟨.XE_XID_CTRL, 9, 1⟩
abbrev XE_XID_CTRL_CLEAR : Fld := ⟨.XE_XID_CTRL, 10, 1⟩
abbrev XE_RESV_BYTES : Fld := ⟨.XE_RESV, 0, 64⟩
abbrev XE_DELIVERED_DELIVERED : Fld := ⟨.XE_DELIVERED, 0, 64⟩
abbrev XE_KILLED_KILLED : Fld := ⟨.XE_KILLED, 0, 64⟩
abbrev XE_FLUSHED_FLUSHED : Fld := ⟨.XE_FLUSHED, 0, 64⟩
abbrev XE_OUTSTANDING_OUTSTANDING : Fld := ⟨.XE_OUTSTANDING, 0, 64⟩
abbrev XE_LOCAL_LAYER : Fld := ⟨.XE_LOCAL, 0, 8⟩
abbrev XE_LOCAL_VALID : Fld := ⟨.XE_LOCAL, 8, 1⟩
abbrev XE_COMBINED_TOKENS : Fld := ⟨.XE_COMBINED, 0, 64⟩
abbrev XE_XID_CLOSED_CLOSED : Fld := ⟨.XE_XID_CLOSED, 0, 64⟩
abbrev MA_FMT_PART_SUB : Fld := ⟨.MA_FMT_PART, 0, 1⟩
abbrev MA_FMT_SEED_SEED : Fld := ⟨.MA_FMT_SEED, 0, 64⟩
abbrev MA_FMT_EVENTS_SAT : Fld := ⟨.MA_FMT_EVENTS, 0, 32⟩
abbrev MA_FMT_EVENTS_NAN : Fld := ⟨.MA_FMT_EVENTS, 32, 16⟩
abbrev MA_FMT_EVENTS_FLUSHED : Fld := ⟨.MA_FMT_EVENTS, 48, 16⟩
abbrev MA_BR_CFG_ENABLE : Fld := ⟨.MA_BR_CFG, 0, 1⟩
abbrev MA_BR_CFG_PARTITION : Fld := ⟨.MA_BR_CFG, 1, 4⟩
abbrev MA_BR_CFG_WINDOW_M1 : Fld := ⟨.MA_BR_CFG, 5, 6⟩
abbrev MA_BR_CFG_SAMPLE_LOG2 : Fld := ⟨.MA_BR_CFG, 11, 4⟩
abbrev MA_BR_CFG_TAIL : Fld := ⟨.MA_BR_CFG, 15, 5⟩
abbrev MA_BR_CFG_MARGIN : Fld := ⟨.MA_BR_CFG, 20, 2⟩
abbrev MA_BR_CFG_FALLBACK : Fld := ⟨.MA_BR_CFG, 22, 3⟩
abbrev MA_BR_PROP_FORMAT : Fld := ⟨.MA_BR_PROP, 0, 3⟩
abbrev MA_BR_PROP_FALLBACK_USED : Fld := ⟨.MA_BR_PROP, 3, 1⟩
abbrev MA_BR_PROP_SCALE : Fld := ⟨.MA_BR_PROP, 4, 8⟩
abbrev MA_BR_PROP_D : Fld := ⟨.MA_BR_PROP, 12, 7⟩
abbrev MA_BR_PROP_STEP : Fld := ⟨.MA_BR_PROP, 32, 32⟩
abbrev MA_BR_STAT_LATE : Fld := ⟨.MA_BR_STAT, 0, 16⟩
abbrev MA_BR_STAT_UNCLEAN : Fld := ⟨.MA_BR_STAT, 16, 16⟩
abbrev MA_BR_HSEL_SLOT : Fld := ⟨.MA_BR_HSEL, 0, 6⟩
abbrev MA_BR_HSEL_AGE : Fld := ⟨.MA_BR_HSEL, 8, 6⟩
abbrev MA_BR_HSEL_BIN : Fld := ⟨.MA_BR_HSEL, 16, 8⟩
abbrev MA_BR_HSEL_ZEROS : Fld := ⟨.MA_BR_HSEL, 24, 1⟩
abbrev MA_BR_HDATA_COUNT : Fld := ⟨.MA_BR_HDATA, 0, 32⟩
abbrev MA_TESTED_TESTED : Fld := ⟨.MA_TESTED, 0, 32⟩
abbrev MA_ENABLED_ENABLED : Fld := ⟨.MA_ENABLED, 0, 32⟩
abbrev MA_RETIRED_RETIRED : Fld := ⟨.MA_RETIRED, 0, 32⟩
abbrev MA_ARRAY_SUM_ENABLED : Fld := ⟨.MA_ARRAY_SUM, 0, 8⟩
abbrev MA_ARRAY_SUM_SPARE : Fld := ⟨.MA_ARRAY_SUM, 8, 8⟩
abbrev MA_ARRAY_SUM_RETIRED : Fld := ⟨.MA_ARRAY_SUM, 16, 8⟩
abbrev MA_ARRAY_SUM_UNTESTED : Fld := ⟨.MA_ARRAY_SUM, 24, 8⟩
abbrev MA_PART_MODE_SHAPE : Fld := ⟨.MA_PART_MODE, 0, 1⟩
abbrev MA_PART_MODE_CHK_EN : Fld := ⟨.MA_PART_MODE, 1, 1⟩
abbrev MA_PART_MODE_SHD_EN : Fld := ⟨.MA_PART_MODE, 2, 1⟩
abbrev MA_ARR_STATE_STATE : Fld := ⟨.MA_ARR_STATE, 0, 2⟩
abbrev MA_ARR_STATE_BUSY : Fld := ⟨.MA_ARR_STATE, 2, 1⟩
abbrev MA_ARR_STATE_IN_PART : Fld := ⟨.MA_ARR_STATE, 3, 1⟩
abbrev MA_ARR_STATE_PARTITION : Fld := ⟨.MA_ARR_STATE, 4, 4⟩
abbrev MA_ARR_STATE_SKIDDER : Fld := ⟨.MA_ARR_STATE, 8, 5⟩
abbrev MA_ARR_TAG_TAG : Fld := ⟨.MA_ARR_TAG, 0, 32⟩
abbrev MA_ARR_BUSY_CYCLES : Fld := ⟨.MA_ARR_BUSY, 0, 64⟩
abbrev MA_ARR_CHECKS_CHK_FAIL : Fld := ⟨.MA_ARR_CHECKS, 0, 16⟩
abbrev MA_ARR_CHECKS_SHD_FAIL : Fld := ⟨.MA_ARR_CHECKS, 16, 16⟩
abbrev MA_ARR_CHECKS_SKIPPED : Fld := ⟨.MA_ARR_CHECKS, 32, 16⟩
abbrev MA_ARR_FAULT_COLUMN : Fld := ⟨.MA_ARR_FAULT, 0, 8⟩
abbrev MA_ARR_FAULT_ROW : Fld := ⟨.MA_ARR_FAULT, 8, 6⟩
abbrev MA_ARR_FAULT_KIND : Fld := ⟨.MA_ARR_FAULT, 14, 1⟩
abbrev MA_ARR_FAULT_VALID : Fld := ⟨.MA_ARR_FAULT, 15, 1⟩
abbrev MA_ARR_FAULT_OUT_COL : Fld := ⟨.MA_ARR_FAULT, 16, 24⟩
abbrev MA_ARR_TILES_TILES : Fld := ⟨.MA_ARR_TILES, 0, 64⟩
abbrev SK_ERR_CRC : Fld := ⟨.SK_ERR, 0, 16⟩
abbrev SK_ERR_GEOM : Fld := ⟨.SK_ERR, 16, 16⟩
abbrev SK_STORE_SPARSE_TILES : Fld := ⟨.SK_STORE_SPARSE, 0, 64⟩
abbrev SK_STORE_DENSE_TILES : Fld := ⟨.SK_STORE_DENSE, 0, 64⟩
abbrev SK_PART_CFG_DENSITY : Fld := ⟨.SK_PART_CFG, 0, 11⟩
abbrev SK_PART_CFG_COMPACT_EN : Fld := ⟨.SK_PART_CFG, 11, 1⟩
abbrev SK_STATUS_LANES_BUSY : Fld := ⟨.SK_STATUS, 0, 8⟩
abbrev SK_STATUS_PARTS : Fld := ⟨.SK_STATUS, 8, 16⟩
abbrev SK_STATUS_SHARED : Fld := ⟨.SK_STATUS, 24, 1⟩
abbrev SK_STATUS_TBUF0 : Fld := ⟨.SK_STATUS, 25, 1⟩
abbrev SK_STATUS_TBUF1 : Fld := ⟨.SK_STATUS, 26, 1⟩
abbrev SK_DENSE_TILES : Fld := ⟨.SK_DENSE, 0, 64⟩
abbrev SK_COMPACT_TILES : Fld := ⟨.SK_COMPACT, 0, 64⟩
abbrev SK_POS_IN_POSITIONS : Fld := ⟨.SK_POS_IN, 0, 64⟩
abbrev SK_POS_OUT_POSITIONS : Fld := ⟨.SK_POS_OUT, 0, 64⟩
abbrev SK_TRANSPOSE_BLOCKS : Fld := ⟨.SK_TRANSPOSE, 0, 32⟩
abbrev SK_TRANSPOSE_REBLOCKED : Fld := ⟨.SK_TRANSPOSE, 32, 16⟩
abbrev SK_BYTES_IN_BYTES : Fld := ⟨.SK_BYTES_IN, 0, 64⟩
abbrev TIER_HBM_ERR_CORRECTED : Fld := ⟨.TIER_HBM_ERR, 0, 32⟩
abbrev TIER_HBM_ERR_UNCORRECTABLE : Fld := ⟨.TIER_HBM_ERR, 32, 16⟩
abbrev TIER_SLAB_ERR_CORRECTED : Fld := ⟨.TIER_SLAB_ERR, 0, 16⟩
abbrev TIER_SLAB_ERR_UNCORRECTABLE : Fld := ⟨.TIER_SLAB_ERR, 16, 16⟩
abbrev TIER_UE_ADDR_ADDR : Fld := ⟨.TIER_UE_ADDR, 0, 40⟩
abbrev TIER_UE_ADDR_SLAB : Fld := ⟨.TIER_UE_ADDR, 40, 1⟩
abbrev TIER_SCRUB_PERIOD : Fld := ⟨.TIER_SCRUB, 0, 16⟩
abbrev TIER_SCRUB_WRITEBACK : Fld := ⟨.TIER_SCRUB, 16, 1⟩
abbrev TIER_SCRUB_ENABLE : Fld := ⟨.TIER_SCRUB, 17, 1⟩
abbrev TIER_RETIRED_FRAMES : Fld := ⟨.TIER_RETIRED, 0, 13⟩
abbrev TIER_OBJTAB_BASE : Fld := ⟨.TIER_OBJTAB, 12, 28⟩
abbrev TIER_OBJTAB_SIZE_LOG2 : Fld := ⟨.TIER_OBJTAB, 40, 5⟩
abbrev TIER_OBJTAB_CLEAR : Fld := ⟨.TIER_OBJTAB, 45, 1⟩
abbrev TIER_OBJTAB_BUSY : Fld := ⟨.TIER_OBJTAB, 46, 1⟩
abbrev TIER_QUOTA_HBM_64K : Fld := ⟨.TIER_QUOTA, 0, 32⟩
abbrev TIER_QUOTA_SLAB_KIB : Fld := ⟨.TIER_QUOTA, 32, 20⟩
abbrev TIER_USE_HBM_64K : Fld := ⟨.TIER_USE, 0, 32⟩
abbrev TIER_USE_SLAB_KIB : Fld := ⟨.TIER_USE, 32, 20⟩
abbrev TIER_PART_CFG_STAGE_64K : Fld := ⟨.TIER_PART_CFG, 0, 6⟩
abbrev TIER_PART_CFG_COPPICE_EN : Fld := ⟨.TIER_PART_CFG, 8, 1⟩
abbrev TIER_DEADLINE_D : Fld := ⟨.TIER_DEADLINE, 0, 32⟩
abbrev TIER_STALL_T : Fld := ⟨.TIER_STALL, 0, 32⟩
abbrev TIER_FETCH_STAT_COPPICE : Fld := ⟨.TIER_FETCH_STAT, 0, 32⟩
abbrev TIER_FETCH_STAT_WAITED : Fld := ⟨.TIER_FETCH_STAT, 32, 32⟩
abbrev TIER_LND_POOL_BASE : Fld := ⟨.TIER_LND_POOL, 8, 32⟩
abbrev TIER_LND_POOL_COUNT_M1 : Fld := ⟨.TIER_LND_POOL, 40, 16⟩
abbrev TIER_LND_FREE_FREE : Fld := ⟨.TIER_LND_FREE, 0, 17⟩
abbrev TIER_LND_FREE_LOW : Fld := ⟨.TIER_LND_FREE, 32, 17⟩
abbrev TIER_LND_PART_RESV : Fld := ⟨.TIER_LND_PART, 0, 16⟩
abbrev TIER_LND_PART_QUOTA : Fld := ⟨.TIER_LND_PART, 16, 16⟩
abbrev TIER_LND_USE_USED : Fld := ⟨.TIER_LND_USE, 0, 17⟩
abbrev TIER_LND_USE_FAILS : Fld := ⟨.TIER_LND_USE, 17, 15⟩
abbrev XU_WALKS_WALKS : Fld := ⟨.XU_WALKS, 0, 64⟩
abbrev XU_ROOT_VALID : Fld := ⟨.XU_ROOT, 0, 1⟩
abbrev XU_ROOT_BASE : Fld := ⟨.XU_ROOT, 17, 23⟩
abbrev XU_FAULT_VA : Fld := ⟨.XU_FAULT, 0, 48⟩
abbrev XU_FAULT_KIND : Fld := ⟨.XU_FAULT, 48, 3⟩
abbrev XU_FAULT_WRITE : Fld := ⟨.XU_FAULT, 51, 1⟩
abbrev XU_FAULT_VALID : Fld := ⟨.XU_FAULT, 63, 1⟩
abbrev XU_FAULT_TAG_TAG : Fld := ⟨.XU_FAULT_TAG, 0, 32⟩
abbrev XU_FAULT_CNT_FAULTS : Fld := ⟨.XU_FAULT_CNT, 0, 32⟩
abbrev TIER_SWAP_CTX_BUSY : Fld := ⟨.TIER_SWAP_CTX, 0, 1⟩
abbrev TIER_SWAP_CTX_READY : Fld := ⟨.TIER_SWAP_CTX, 1, 1⟩
abbrev TIER_SWAP_CTX_PARTITION : Fld := ⟨.TIER_SWAP_CTX, 2, 4⟩
abbrev TIER_SWAP_CTX_VERIFIED : Fld := ⟨.TIER_SWAP_CTX, 32, 15⟩
abbrev TIER_SWAP_TAG_TAG : Fld := ⟨.TIER_SWAP_TAG, 0, 32⟩
abbrev TIER_SWAP_BYTES_BYTES : Fld := ⟨.TIER_SWAP_BYTES, 0, 64⟩
abbrev TIER_SWAP_DUP_DUP : Fld := ⟨.TIER_SWAP_DUP, 0, 32⟩
abbrev TIER_SWAP_ORPHAN_ORPHAN : Fld := ⟨.TIER_SWAP_ORPHAN, 0, 64⟩
abbrev FAB_NODE_NODE : Fld := ⟨.FAB_NODE, 0, 16⟩
abbrev FAB_NODE_INVALID : Fld := ⟨.FAB_NODE, 16, 1⟩
abbrev FAB_SW_CFG_MATCHER : Fld := ⟨.FAB_SW_CFG, 0, 1⟩
abbrev FAB_SW_CFG_SHARED_MAX : Fld := ⟨.FAB_SW_CFG, 2, 10⟩
abbrev FAB_SW_CFG_TRANSIT_TICKETS : Fld := ⟨.FAB_SW_CFG, 12, 8⟩
abbrev FAB_BUF_MIN_MIN : Fld := ⟨.FAB_BUF_MIN, 0, 28⟩
abbrev FAB_ROUTE_CFG_W_DIR : Fld := ⟨.FAB_ROUTE_CFG, 0, 2⟩
abbrev FAB_ROUTE_CFG_Z_DIR : Fld := ⟨.FAB_ROUTE_CFG, 2, 2⟩
abbrev FAB_ROUTE_CFG_Y_DIR : Fld := ⟨.FAB_ROUTE_CFG, 4, 2⟩
abbrev FAB_ROUTE_CFG_DETOUR_EN : Fld := ⟨.FAB_ROUTE_CFG, 6, 1⟩
abbrev FAB_ROUTE_CFG_DETOUR_THRESH : Fld := ⟨.FAB_ROUTE_CFG, 8, 8⟩
abbrev FAB_TRAY_VIA_VIA : Fld := ⟨.FAB_TRAY_VIA, 0, 32⟩
abbrev FAB_SHARED_FREE : Fld := ⟨.FAB_SHARED, 0, 15⟩
abbrev FAB_SHARED_LOW : Fld := ⟨.FAB_SHARED, 16, 15⟩
abbrev FAB_DROP_REJECT_JOB : Fld := ⟨.FAB_DROP, 0, 16⟩
abbrev FAB_DROP_UNROUTABLE : Fld := ⟨.FAB_DROP, 16, 16⟩
abbrev FAB_DROP_MALFORMED : Fld := ⟨.FAB_DROP, 32, 16⟩
abbrev FAB_PUSHOUT_PUSHED : Fld := ⟨.FAB_PUSHOUT, 0, 64⟩
abbrev FAB_RANKTAB_BASE : Fld := ⟨.FAB_RANKTAB, 8, 32⟩
abbrev FAB_RANKTAB_ENTRIES_M1 : Fld := ⟨.FAB_RANKTAB, 40, 16⟩
abbrev FAB_LINK_STATUS_STATE : Fld := ⟨.FAB_LINK_STATUS, 0, 3⟩
abbrev FAB_LINK_STATUS_LANES : Fld := ⟨.FAB_LINK_STATUS, 3, 4⟩
abbrev FAB_LINK_STATUS_RETIRED : Fld := ⟨.FAB_LINK_STATUS, 7, 4⟩
abbrev FAB_LINK_STATUS_CAUSE : Fld := ⟨.FAB_LINK_STATUS, 11, 3⟩
abbrev FAB_LINK_STATUS_PEER : Fld := ⟨.FAB_LINK_STATUS, 16, 16⟩
abbrev FAB_LINK_TX_TX : Fld := ⟨.FAB_LINK_TX, 0, 64⟩
abbrev FAB_LINK_RX_RX : Fld := ⟨.FAB_LINK_RX, 0, 64⟩
abbrev FAB_LINK_ERR_CRC : Fld := ⟨.FAB_LINK_ERR, 0, 16⟩
abbrev FAB_LINK_ERR_UNCORR : Fld := ⟨.FAB_LINK_ERR, 16, 16⟩
abbrev FAB_LINK_ERR_CW_CRC : Fld := ⟨.FAB_LINK_ERR, 32, 16⟩
abbrev FAB_LINK_ERR_DOWNS : Fld := ⟨.FAB_LINK_ERR, 48, 16⟩
abbrev FAB_LINK_FEC_CORRECTED : Fld := ⟨.FAB_LINK_FEC, 0, 64⟩
abbrev FAB_LINK_FLUSH_FLUSHED : Fld := ⟨.FAB_LINK_FLUSH, 0, 64⟩
abbrev FAB_LINK_OCC_QUEUED : Fld := ⟨.FAB_LINK_OCC, 0, 15⟩
abbrev FAB_LINK_OCC_SHARED_OUT : Fld := ⟨.FAB_LINK_OCC, 16, 10⟩
abbrev WIN_TAB_BASE : Fld := ⟨.WIN_TAB, 8, 32⟩
abbrev WIN_CACHE_STAT_HITS : Fld := ⟨.WIN_CACHE_STAT, 0, 32⟩
abbrev WIN_CACHE_STAT_CORRECTED : Fld := ⟨.WIN_CACHE_STAT, 32, 16⟩
abbrev WIN_CACHE_STAT_UE : Fld := ⟨.WIN_CACHE_STAT, 48, 16⟩
abbrev WIN_SERVED_LOADS : Fld := ⟨.WIN_SERVED, 0, 32⟩
abbrev WIN_SERVED_STORES : Fld := ⟨.WIN_SERVED, 32, 32⟩
abbrev WIN_REFUSED_PROT : Fld := ⟨.WIN_REFUSED, 0, 16⟩
abbrev WIN_REFUSED_XLAT : Fld := ⟨.WIN_REFUSED, 16, 16⟩
abbrev WIN_REFUSED_DATA : Fld := ⟨.WIN_REFUSED, 32, 16⟩
abbrev WIN_REFUSED_LATE : Fld := ⟨.WIN_REFUSED, 48, 16⟩
abbrev WIN_STALL_T : Fld := ⟨.WIN_STALL, 0, 32⟩
abbrev WIN_RING_BASE_BASE : Fld := ⟨.WIN_RING_BASE, 6, 58⟩
abbrev WIN_RING_CFG_SIZE_LOG2 : Fld := ⟨.WIN_RING_CFG, 0, 4⟩
abbrev WIN_RING_CFG_PARTITION : Fld := ⟨.WIN_RING_CFG, 4, 4⟩
abbrev WIN_RING_CFG_JOB : Fld := ⟨.WIN_RING_CFG, 8, 16⟩
abbrev WIN_RING_CTRL_ENABLE : Fld := ⟨.WIN_RING_CTRL, 0, 1⟩
abbrev WIN_RING_CTRL_ABORT : Fld := ⟨.WIN_RING_CTRL, 1, 1⟩
abbrev WIN_RING_TAIL_TAIL : Fld := ⟨.WIN_RING_TAIL, 0, 16⟩
abbrev WIN_RING_HEAD_HEAD : Fld := ⟨.WIN_RING_HEAD, 0, 16⟩
abbrev WIN_RING_HEAD_OUTSTANDING : Fld := ⟨.WIN_RING_HEAD, 16, 13⟩
abbrev COLL_STATUS_CTX_CE0 : Fld := ⟨.COLL_STATUS, 0, 5⟩
abbrev COLL_STATUS_CTX_CE1 : Fld := ⟨.COLL_STATUS, 8, 5⟩
abbrev COLL_STATUS_CTX_CE2 : Fld := ⟨.COLL_STATUS, 16, 5⟩
abbrev COLL_STATUS_CTX_CE3 : Fld := ⟨.COLL_STATUS, 24, 5⟩
abbrev COLL_LATE_LATE : Fld := ⟨.COLL_LATE, 0, 64⟩
abbrev COLL_HELD_NOW : Fld := ⟨.COLL_HELD, 0, 16⟩
abbrev COLL_HELD_EVENTS : Fld := ⟨.COLL_HELD, 16, 16⟩
abbrev COLL_SUSP_LAST_CID : Fld := ⟨.COLL_SUSP_LAST, 0, 8⟩
abbrev COLL_SUSP_LAST_STAGE : Fld := ⟨.COLL_SUSP_LAST, 8, 2⟩
abbrev COLL_SUSP_LAST_PHASE : Fld := ⟨.COLL_SUSP_LAST, 10, 1⟩
abbrev COLL_SUSP_LAST_PARTITION : Fld := ⟨.COLL_SUSP_LAST, 12, 4⟩
abbrev COLL_SUSP_LAST_CHUNK : Fld := ⟨.COLL_SUSP_LAST, 16, 11⟩
abbrev COLL_SUSP_LAST_VALID : Fld := ⟨.COLL_SUSP_LAST, 63, 1⟩
abbrev COLL_SUSP_MASK_MASK : Fld := ⟨.COLL_SUSP_MASK, 0, 64⟩
abbrev COLL_STALL_T : Fld := ⟨.COLL_STALL, 0, 32⟩
abbrev COLL_CID_CTRL_CID : Fld := ⟨.COLL_CID_CTRL, 0, 8⟩
abbrev COLL_CID_CTRL_CLEAR : Fld := ⟨.COLL_CID_CTRL, 8, 1⟩
abbrev COLL_DEDUP_BASE : Fld := ⟨.COLL_DEDUP, 6, 34⟩
abbrev COLL_DEDUP_ENTRIES : Fld := ⟨.COLL_DEDUP, 40, 17⟩
abbrev COLL_EVENTS_RESIDUE : Fld := ⟨.COLL_EVENTS, 0, 16⟩
abbrev COLL_EVENTS_SUSPECT : Fld := ⟨.COLL_EVENTS, 16, 16⟩
abbrev COLL_EVENTS_SAT : Fld := ⟨.COLL_EVENTS, 32, 16⟩
abbrev COLL_ADD_STAT_APPLIED : Fld := ⟨.COLL_ADD_STAT, 0, 32⟩
abbrev COLL_ADD_STAT_DUP : Fld := ⟨.COLL_ADD_STAT, 32, 16⟩
abbrev COLL_ADD_STAT_OUTSIDE : Fld := ⟨.COLL_ADD_STAT, 48, 16⟩
abbrev COLL_OCC_BLOCKED : Fld := ⟨.COLL_OCC, 0, 32⟩
abbrev COLL_OCC_BUSY : Fld := ⟨.COLL_OCC, 32, 32⟩
abbrev COLL_CID_CLOSED_CLOSED : Fld := ⟨.COLL_CID_CLOSED, 0, 64⟩
abbrev ARB_CFG_INHERIT : Fld := ⟨.ARB_CFG, 0, 1⟩
abbrev ARB_SEED_SEED : Fld := ⟨.ARB_SEED, 0, 32⟩
abbrev ARB_TICKETS_ARRAY : Fld := ⟨.ARB_TICKETS, 0, 8⟩
abbrev ARB_TICKETS_STAGE : Fld := ⟨.ARB_TICKETS, 8, 8⟩
abbrev ARB_TICKETS_STORE : Fld := ⟨.ARB_TICKETS, 16, 8⟩
abbrev ARB_TICKETS_OTHER : Fld := ⟨.ARB_TICKETS, 24, 8⟩
abbrev ARB_FIXED_DEV : Fld := ⟨.ARB_FIXED, 0, 8⟩
abbrev ARB_FIXED_HBM_STOP : Fld := ⟨.ARB_FIXED, 8, 8⟩
abbrev ARB_FIXED_SW_INPUT : Fld := ⟨.ARB_FIXED, 16, 8⟩
abbrev ARB_WDOG_MEM_HBM : Fld := ⟨.ARB_WDOG_MEM, 0, 16⟩
abbrev ARB_WDOG_MEM_SLAB : Fld := ⟨.ARB_WDOG_MEM, 16, 16⟩
abbrev ARB_WDOG_ENG_ENGINE : Fld := ⟨.ARB_WDOG_ENG, 0, 16⟩
abbrev ARB_WDOG_ENG_SWITCH : Fld := ⟨.ARB_WDOG_ENG, 16, 16⟩
abbrev ARB_BITES_BITES : Fld := ⟨.ARB_BITES, 0, 32⟩
abbrev ARB_BITES_ABANDONED : Fld := ⟨.ARB_BITES, 32, 32⟩
abbrev ARB_BITE_LAST_ARBITER : Fld := ⟨.ARB_BITE_LAST, 0, 16⟩
abbrev ARB_BITE_LAST_INPUT : Fld := ⟨.ARB_BITE_LAST, 16, 8⟩
abbrev ARB_BITE_LAST_TAG : Fld := ⟨.ARB_BITE_LAST, 32, 31⟩
abbrev ARB_BITE_LAST_VALID : Fld := ⟨.ARB_BITE_LAST, 63, 1⟩
abbrev ARB_EMERG_REFRESH : Fld := ⟨.ARB_EMERG, 0, 32⟩
abbrev ARB_EMERG_DEBUG : Fld := ⟨.ARB_EMERG, 32, 32⟩
abbrev SEC_DBG_CFG_ALLOW : Fld := ⟨.SEC_DBG_CFG, 0, 1⟩
abbrev SEC_DBG_CFG_OPEN : Fld := ⟨.SEC_DBG_CFG, 1, 1⟩
abbrev SEC_DBG_CFG_OPS : Fld := ⟨.SEC_DBG_CFG, 32, 32⟩
abbrev DEV_FINGERPRINT_STEPPING : Fld := ⟨.DEV_FINGERPRINT, 0, 8⟩
abbrev DEV_FINGERPRINT_GRADE : Fld := ⟨.DEV_FINGERPRINT, 8, 8⟩
abbrev DEV_FINGERPRINT_SRGEN : Fld := ⟨.DEV_FINGERPRINT, 16, 8⟩
abbrev DEV_FINGERPRINT_SUB : Fld := ⟨.DEV_FINGERPRINT, 24, 16⟩
abbrev DEV_FINGERPRINT_OVERRIDE : Fld := ⟨.DEV_FINGERPRINT, 40, 16⟩
abbrev PART_DET_EVENTS_BORER_LATE : Fld := ⟨.PART_DET_EVENTS, 0, 1⟩
abbrev PART_DET_EVENTS_ADD_ORDER : Fld := ⟨.PART_DET_EVENTS, 1, 1⟩
abbrev PART_DET_EVENTS_WIN_STORE : Fld := ⟨.PART_DET_EVENTS, 2, 1⟩
abbrev PART_DET_EVENTS_SUSPECT : Fld := ⟨.PART_DET_EVENTS, 3, 1⟩
abbrev ERR_Q_BASE_BASE : Fld := ⟨.ERR_Q_BASE, 6, 58⟩
abbrev ERR_Q_CFG_SIZE_LOG2 : Fld := ⟨.ERR_Q_CFG, 0, 4⟩
abbrev ERR_Q_CFG_ENABLE : Fld := ⟨.ERR_Q_CFG, 4, 1⟩
abbrev ERR_Q_CFG_ALERT_MIN : Fld := ⟨.ERR_Q_CFG, 5, 2⟩
abbrev ERR_Q_HEAD_HEAD : Fld := ⟨.ERR_Q_HEAD, 0, 16⟩
abbrev ERR_Q_TAIL_TAIL : Fld := ⟨.ERR_Q_TAIL, 0, 16⟩
abbrev ERR_Q_TAIL_PHASE : Fld := ⟨.ERR_Q_TAIL, 16, 1⟩
abbrev ERR_Q_TAIL_FULL : Fld := ⟨.ERR_Q_TAIL, 17, 1⟩
abbrev ERR_STATUS_ALERT : Fld := ⟨.ERR_STATUS, 0, 1⟩
abbrev ERR_STATUS_REPLACE : Fld := ⟨.ERR_STATUS, 1, 1⟩
abbrev ERR_STATUS_THERMTRIP : Fld := ⟨.ERR_STATUS, 2, 1⟩
abbrev ERR_STATUS_QUIET : Fld := ⟨.ERR_STATUS, 3, 1⟩
abbrev ERR_STATUS_FAULT_SEEN : Fld := ⟨.ERR_STATUS, 4, 1⟩
abbrev ERR_STATUS_HELD : Fld := ⟨.ERR_STATUS, 16, 11⟩
abbrev ERR_REPLACE_REASON : Fld := ⟨.ERR_REPLACE, 0, 5⟩
abbrev ERR_REPLACE_CFG_MASK : Fld := ⟨.ERR_REPLACE_CFG, 0, 5⟩
abbrev ERR_REPLACE_CFG_FRAMES : Fld := ⟨.ERR_REPLACE_CFG, 8, 13⟩
abbrev ERR_RATE_WIN_WINDOW : Fld := ⟨.ERR_RATE_WIN, 0, 16⟩
abbrev ERR_THRESH0_HBM_CE : Fld := ⟨.ERR_THRESH0, 0, 16⟩
abbrev ERR_THRESH0_SLAB_CE : Fld := ⟨.ERR_THRESH0, 16, 16⟩
abbrev ERR_THRESH0_HBM_UE : Fld := ⟨.ERR_THRESH0, 32, 8⟩
abbrev ERR_THRESH0_WCACHE_CE : Fld := ⟨.ERR_THRESH0, 40, 8⟩
abbrev ERR_THRESH0_LINK_DOWNS : Fld := ⟨.ERR_THRESH0, 48, 8⟩
abbrev ERR_THRESH0_ARRAY_FAIL : Fld := ⟨.ERR_THRESH0, 56, 8⟩
abbrev ERR_THRESH1_FEC_K : Fld := ⟨.ERR_THRESH1, 0, 32⟩
abbrev ERR_THRESH1_MESH_CRC : Fld := ⟨.ERR_THRESH1, 32, 8⟩
abbrev ERR_CONS_STAT_CHECKS : Fld := ⟨.ERR_CONS_STAT, 0, 32⟩
abbrev ERR_CONS_STAT_FAILS : Fld := ⟨.ERR_CONS_STAT, 32, 16⟩
abbrev ERR_CONS_FAIL_KIND : Fld := ⟨.ERR_CONS_FAIL, 0, 4⟩
abbrev ERR_CONS_FAIL_ITEM : Fld := ⟨.ERR_CONS_FAIL, 8, 8⟩
abbrev ERR_CONS_FAIL_DIFF : Fld := ⟨.ERR_CONS_FAIL, 16, 32⟩
abbrev ERR_CONS_FAIL_VALID : Fld := ⟨.ERR_CONS_FAIL, 63, 1⟩
abbrev ERR_DROOP_EVENTS : Fld := ⟨.ERR_DROOP, 0, 32⟩
abbrev ERR_DROOP_OVER : Fld := ⟨.ERR_DROOP, 32, 16⟩
abbrev ERR_DROOP_SEL_DOMAIN : Fld := ⟨.ERR_DROOP_SEL, 0, 8⟩
abbrev ERR_DROOP_DOM_EVENTS : Fld := ⟨.ERR_DROOP_DOM, 0, 32⟩
abbrev ERR_THERM_WARN : Fld := ⟨.ERR_THERM, 0, 8⟩
abbrev ERR_THERM_TEMP : Fld := ⟨.ERR_THERM, 8, 8⟩
abbrev ERR_THERM_MAX : Fld := ⟨.ERR_THERM, 16, 8⟩
abbrev ERR_MESH_CRC : Fld := ⟨.ERR_MESH, 0, 32⟩
abbrev ERR_LND_RETIRED_RETIRED : Fld := ⟨.ERR_LND_RETIRED, 0, 17⟩
abbrev SCL_STATUS_STATE : Fld := ⟨.SCL_STATUS, 0, 2⟩
abbrev SCL_STATUS_HELD : Fld := ⟨.SCL_STATUS, 2, 4⟩
abbrev SCL_STATUS_MET_BUSY : Fld := ⟨.SCL_STATUS, 6, 1⟩
abbrev SCL_STATUS_RANGE : Fld := ⟨.SCL_STATUS, 16, 16⟩
abbrev SCL_VERSION_VERSION : Fld := ⟨.SCL_VERSION, 0, 24⟩
abbrev SCL_VERSION_RULE : Fld := ⟨.SCL_VERSION, 24, 8⟩
abbrev SCL_SEAL_COUNT : Fld := ⟨.SCL_SEAL, 0, 8⟩
abbrev SCL_PERIOD_PERIOD : Fld := ⟨.SCL_PERIOD, 0, 64⟩
abbrev SCL_ENERGY_UJ : Fld := ⟨.SCL_ENERGY, 0, 64⟩
abbrev SCL_RAIL_UJ : Fld := ⟨.SCL_RAIL, 0, 64⟩
abbrev SCL_NONCE_NONCE : Fld := ⟨.SCL_NONCE, 0, 64⟩
abbrev SEC_ID_SERIAL : Fld := ⟨.SEC_ID, 0, 64⟩
abbrev SEC_TALLY_BASE_BASE : Fld := ⟨.SEC_TALLY_BASE, 12, 52⟩
abbrev SEC_TALLY_CFG_SIZE_LOG2 : Fld := ⟨.SEC_TALLY_CFG, 0, 4⟩
abbrev SEC_TALLY_CFG_ENABLE : Fld := ⟨.SEC_TALLY_CFG, 4, 1⟩
abbrev SEC_TALLY_HEAD_HEAD : Fld := ⟨.SEC_TALLY_HEAD, 0, 16⟩
abbrev SEC_TALLY_TAIL_TAIL : Fld := ⟨.SEC_TALLY_TAIL, 0, 16⟩
abbrev SEC_TALLY_TAIL_PHASE : Fld := ⟨.SEC_TALLY_TAIL, 16, 1⟩
abbrev SEC_TALLY_TAIL_FULL : Fld := ⟨.SEC_TALLY_TAIL, 17, 1⟩
abbrev SEC_MET_CMD_ADDR : Fld := ⟨.SEC_MET_CMD, 0, 48⟩
abbrev SEC_MET_CMD_LEN_64 : Fld := ⟨.SEC_MET_CMD, 48, 16⟩
abbrev SEC_QUOTE_CTRL_GO : Fld := ⟨.SEC_QUOTE_CTRL, 0, 1⟩
abbrev SEC_QUOTE_CTRL_BUSY : Fld := ⟨.SEC_QUOTE_CTRL, 1, 1⟩
abbrev SEC_QUOTE_CTRL_DONE : Fld := ⟨.SEC_QUOTE_CTRL, 2, 1⟩
abbrev SEC_QUOTE_CTRL_ADDR : Fld := ⟨.SEC_QUOTE_CTRL, 6, 58⟩
abbrev SEC_CERT_SEL_WORD : Fld := ⟨.SEC_CERT_SEL, 0, 13⟩
abbrev SEC_CERT_DATA : Fld := ⟨.SEC_CERT, 0, 32⟩
abbrev DEV_STATUS_STAGE : Fld := ⟨.DEV_STATUS, 0, 4⟩
abbrev DEV_STATUS_ERROR : Fld := ⟨.DEV_STATUS, 8, 8⟩
abbrev DEV_STATUS_WARM_BUSY : Fld := ⟨.DEV_STATUS, 16, 1⟩
abbrev DEV_STATUS_UNALIGNED_START : Fld := ⟨.DEV_STATUS, 17, 1⟩
abbrev DEV_STATUS_WARMS : Fld := ⟨.DEV_STATUS, 24, 8⟩
abbrev DEV_CTRL_WARM_RESET : Fld := ⟨.DEV_CTRL, 0, 1⟩
abbrev DEV_IMAGE_IMAGE_VERSION : Fld := ⟨.DEV_IMAGE, 0, 32⟩
abbrev DEV_IMAGE_SEC_VERSION : Fld := ⟨.DEV_IMAGE, 32, 7⟩
abbrev DEV_IMAGE_OWNER_SIGNED : Fld := ⟨.DEV_IMAGE, 39, 1⟩
abbrev DEV_BOOT_MICROSECONDS : Fld := ⟨.DEV_BOOT, 0, 32⟩
abbrev SEC_FLASH_SRC_ADDR : Fld := ⟨.SEC_FLASH_SRC, 6, 58⟩
abbrev SEC_FLASH_CTRL_DEST_64 : Fld := ⟨.SEC_FLASH_CTRL, 0, 21⟩
abbrev SEC_FLASH_CTRL_LEN_64 : Fld := ⟨.SEC_FLASH_CTRL, 24, 21⟩
abbrev SEC_FLASH_CTRL_GO : Fld := ⟨.SEC_FLASH_CTRL, 45, 1⟩
abbrev SEC_FLASH_CTRL_BUSY : Fld := ⟨.SEC_FLASH_CTRL, 46, 1⟩
abbrev SEC_FLASH_CTRL_DONE : Fld := ⟨.SEC_FLASH_CTRL, 47, 1⟩
abbrev SEC_FLASH_CTRL_REFUSED : Fld := ⟨.SEC_FLASH_CTRL, 48, 1⟩

end Fld

end Sys2Proof.Machine
end

