-- ==== Sys2Proof/Machine/State.lean ====
section
/-! DEFINITION. The state of the device: its control-space registers, the state the spec gives it beside them, and the
queue of waiting commands. Plain data throughout; the numbers in brackets are rules of spec/. -/

namespace Sys2Proof.Machine

/-- Why a step stops: nothing does, since every row of the table has an effect on every operand. -/
inductive Fault where
  deriving DecidableEq, Repr

/-- Why a step has no meaning. -/
inductive Refusal where
  /-- Raised by an arm of exec whose command has no meaning yet. Safe. -/
  | notModelled (mnemonic : String)
  deriving DecidableEq, Repr

/-! ## Messages and records -/

/-- An error report (Table 17.1), before its PHASE bit is set. -/
structure Report where
  seq : Nat
  code : Code
  source : Nat
  status : Nat
  job : Nat
  part : Option Nat
  queue : Nat
  tag : Nat
  count : Nat
  address : Nat
  index : Nat
  elapsed : Nat
  deriving DecidableEq, Repr

/-- A completion record (Table 3.5), before its PHASE bit is set, with the queue's number and the NOTIFY flag. -/
structure Completion where
  cmd : Nat
  status : Status
  opcode : Nat
  job : Nat
  tag : Nat
  count : Nat
  parts : Nat
  queue : Nat
  seq : Nat
  notify : Bool
  deriving DecidableEq, Repr

/-- A record in the holding space (R43, R328). -/
inductive Held where
  | report (r : Report)
  | completion (c : Completion)
  deriving DecidableEq, Repr

/-- What the device sends across its edges, in the order sent (Table 3.1, R250, R247). -/
inductive Out where
  | memRead (addr len : Nat)
  | memWrite (addr : Nat) (bytes : List Byte)
  | signal (addr : Nat) (value : BitVec 64)
  | readData (bytes : Nat) (value : BitVec 64)
  | billet (link : Nat) (b : Billet)
  | controlWord (link : Nat) (w : BitVec 64)
  | slabLine (bytes : List Byte)
  | flashWrite (offset : Nat) (bytes : List Byte)
  /-- The Scaler region is rewritten with a setting of a metrology command: its KIND and payload (R352). -/
  | regionWrite (kind : Nat) (payload : List Byte)
  deriving DecidableEq, Repr

/-! ## Objects, versions and commands -/

/-- A placement and its version buffers, as an object table entry holds them (Table 10.2). -/
structure ObjEntry where
  tier : Nat := 0
  versionsM1 : Nat := 0
  cur : Nat := 0
  hasCur : Bool := false
  array : Nat := 0
  widthM1 : Nat := 0
  size64 : Nat := 0
  base : Nat := 0
  gen : Nat := 0
  members : List Nat := []
  deriving DecidableEq, Repr

/-- One version of an object: the entry it was resolved in and its buffer (R57). -/
structure Version where
  part : Nat
  obj : Nat
  entry : ObjEntry
  buf : Nat
  deriving DecidableEq, Repr

/-- A claim on a version buffer of an output object or of a reduce-on-write target (R206). -/
structure Claim where
  ver : Version
  target : Bool
  written : Bool
  deriving DecidableEq, Repr

/-- Who draws a Landing buffer (R230, R232). -/
inductive LndUser where
  | command (id : Nat)
  | receive (ctx : Nat)
  | collective (ctx : Nat)
  /-- A receive-size reservation of a partition (R117). -/
  | reserve (p : Nat)
  deriving DecidableEq, Repr

/-- A Landing buffer held (R231, R333). -/
structure LndBuf where
  pool : Nat
  idx : Nat
  part : Nat
  user : LndUser
  retiring : Bool
  deriving DecidableEq, Repr

/-- A reduce-on-write delta: the target it folds into, and the Landing buffers, end to end, that hold its FP32 elements in
row-major order (R221). -/
structure Delta where
  obj : Nat
  rows : Nat
  cols : Nat
  bufs : List (Nat × Nat)
  folded : Bool
  deriving DecidableEq, Repr

/-- A command in flight, from its fetch until its completion record is written (R46). -/
structure Cmd where
  /-- Its place in the order of fetches. -/
  id : Nat
  queue : Nat
  desc : Line
  /-- A later WAIT_TAG may still name it (R47). -/
  nameable : Bool
  /-- The command its WAIT_TAG names, while it waits (R47). -/
  waitOn : Option Nat
  /-- The count at which its launch conditions first held (R47). -/
  eligible : Option Nat
  launched : Bool
  /-- The count of its launch, and the partition's RING_STEP then (R324). -/
  launchAt : Nat
  step : Nat
  /-- The engine work is done: every part has succeeded but for commit (R58). -/
  ready : Bool
  /-- It has committed or been killed: its record is held or on its way. -/
  ended : Bool
  /-- Causes of failure met (R54), with the parts that failed (R55). -/
  causes : List Status
  failed : List Nat
  passed : List Nat
  parts : Nat
  /-- REPORT_SEQ: the first report about it (R54). -/
  firstSeq : Nat
  suspect : Bool
  /-- The router LAYER or the SIEVE it is paired with (R72). -/
  pair : Option Nat
  /-- A launch held for a buffer since this count (R206). -/
  heldAt : Option Nat
  inputs : List Version
  claims : List Claim
  deltas : List Delta
  /-- Commands this one killed and waits for (R62, R63, R66). -/
  waits : List Nat
  /-- A tile record that it read has failed a check: later failures are counted only (R177). -/
  tileBad : Bool := false
  deriving DecidableEq, Repr

/-- A superseded version that some launched command may still read, with the bytes charged to its placement (R59, R209). -/
structure Superseded where
  ver : Version
  deriving DecidableEq, Repr

/-- A placement's charge against the quotas (R209). -/
structure Charge where
  part : Nat
  obj : Nat
  entry : ObjEntry
  hbm : Nat
  slab : Nat
  live : Bool
  deriving DecidableEq, Repr

/-- A page in the XU's translation cache (R214): a 64 KiB page of a partition. -/
structure XuPage where
  part : Nat
  vpage : Nat
  ppage : Nat
  write : Bool
  deriving DecidableEq, Repr

/-! ## The blocks -/

/-- The balls the device drives (R329, R335, R341): true while asserted. -/
structure Pins where
  alert : Bool := false
  replace : Bool := false
  therm : Bool := false
  deriving DecidableEq, Repr

/-- An RSA key pair: modulus, public and private exponents (Table 18.1). -/
structure RsaKey where
  n : Nat
  e : Nat
  d : Nat
  deriving DecidableEq, Repr

/-- The fuses (Table 18.1, R165, R319, R353). Log 4. -/
structure Fuses where
  serial : Nat := 0
  stepping : Nat := 0xB0
  grade : Nat := 1
  srgen : Nat := 1
  vddTarget : Nat := 750
  tested : List Nat := List.range 152
  /-- The array's factory state: MA_ARR_STATE.STATE of Table 7.8. -/
  factory : List Nat := List.replicate 144 0 ++ List.replicate 8 1
  vendorHash : List Byte := []
  ownerHash : Option (List Byte) := none
  metHash : List Byte := []
  idKey : RsaKey := ⟨0, 0, 0⟩
  sclKey : RsaKey := ⟨0, 0, 0⟩
  rollback : Nat := 0
  seals : Nat := 0
  cert : List Byte := []
  deriving DecidableEq, Repr

/-- What an interrupted write has left undefined in the flash: a range, and the Scaler region (R376, Table 18.7). -/
structure FlashSt where
  torn : Option (Nat × Nat) := none
  regionTorn : Bool := false
  deriving DecidableEq, Repr

/-- Start-up and reset (R353, R359 to R365, R371). -/
structure Boot where
  /-- COLD_RESET_N is asserted. -/
  cold : Bool := true
  /-- WARM_RESET_N is low. -/
  warmLow : Bool := false
  /-- SLOT_ID[2:0] as sampled, the boot status byte (R353), and the VDD_CORE target in mV with the count of its last step
  (R371). -/
  slotId : Nat := 0
  bootByte : Nat := 0
  vdd : Nat := 720
  vddAt : Option Nat := none
  /-- The verified image, from VERIFY to FUSES (R353, R357), and its digest. -/
  image : List Byte := []
  digest : List Byte := []
  /-- The image's value of each register it set, for OVERRIDE (R319). -/
  settings : SMap (BitVec 64) := []
  halted : Bool := false
  /-- The device has entered stage 6 at this count (R28, R361). -/
  stage6 : Nat := 0
  /-- The count at which the warm reset in progress is released, once known (R363). -/
  warmRelease : Option Nat := none
  deriving DecidableEq, Repr

/-- The ring count's alignment and schedules beside its registers (R25 to R39). -/
structure RingSt where
  reacquire : Bool := false
  /-- RING_REF runs (R39). -/
  running : Bool := true
  /-- The count of the last billet from the parent (R25). -/
  lastParent : Nat := 0
  /-- The root's acquisition: the count it began to wait, and whether the wait has ended (R29). -/
  rootWait : Option (Nat × Bool) := none
  /-- The root's acquisition is one after a loss of the reference (R29). -/
  rootAgain : Bool := false
  /-- S + 1 of each partition's current step; 0 before its first (R32, R33). -/
  stepStart : SMap Nat := []
  /-- The first count at which a partition's RING_NEXT may be taken (R32). -/
  nextFrom : SMap Nat := []
  /-- The one-way delay of each link in 0.5 ns, plus 1; 0 while not measured (R27). -/
  delay : SMap Nat := []
  /-- Reference edges since reset, by which a link port's arrival stamp ages (R27, R28). -/
  edges : Nat := 0
  /-- The count of the last alignment billets sent at a count whose bits [19:0] are zero, plus 1 (R27). -/
  sentAt : Nat := 0
  /-- Host writes of RING_NEXT: partition, count, and RING_NEXT and RING_ORIG as they were before the count's first write
  (Table 2.7). -/
  wrote : List (Nat × Nat × Nat × Nat) := []
  /-- By partition, the count of the last accepted boundary billet, plus 1 (Table 2.7). -/
  moved : SMap Nat := []
  deriving DecidableEq, Repr

/-- The host link and the holding space (R43, R327 to R329). -/
structure LinkSt where
  up : Bool := false
  held : List Held := []
  /-- The severities of the reports that lie in the report ring, from ERR_Q_HEAD on. -/
  ringSev : List Severity := []
  /-- The SEQ of the next report. -/
  seq : Nat := 1
  deriving DecidableEq, Repr

/-- Memory and what guards it (R202 to R229). -/
structure MemSt where
  hbm : SMap Byte := []
  /-- Slab bytes at array * 2^22 + offset. -/
  slab : SMap Byte := []
  /-- HBM lines that hold an uncorrectable error, and slab words that hold a double error. -/
  hbmBad : List Nat := []
  slabBad : List Nat := []
  /-- Retired 64 KiB frames (R220); of these, frames whose DISABLE has launched but not committed count too. -/
  frames : List Nat := []
  xu : List XuPage := []
  superseded : List Superseded := []
  charges : List Charge := []
  /-- Placements that launched PLACEs will make: command, object and entry (R208). -/
  places : List (Nat × Nat × ObjEntry) := []
  /-- Object tables being cleared: partition, base and bytes (R204). -/
  clearing : List (Nat × Nat × Nat) := []
  /-- The next line of each stack that the scrub reads (R219). -/
  scrub : SMap Nat := []
  deriving DecidableEq, Repr

/-- The Landing pools (R230 to R232). -/
structure LndSt where
  held : List LndBuf := []
  /-- Retired buffers, (pool, number) (R333). -/
  retired : List (Nat × Nat) := []
  deriving DecidableEq, Repr

/-- Error rates, first-in-window marks and temperature (R334, R340, R341). -/
structure ErrSt where
  /-- Events of this rate window by kind * 65536 + item, and the items that have posted ERR_RATE. -/
  rates : SMap Nat := []
  rated : List Nat := []
  rateStart : Nat := 0
  /-- Window number plus 1 of the last "first in each 2^20 counts" report, by code and item. -/
  firsts : SMap Nat := []
  droop : SMap Nat := []
  tempArmed : Bool := true
  deriving DecidableEq, Repr

/-! ### The Switch Core and the links (R243 to R268) -/

/-- One copy of a buffered billet on its way to an output port, as it will leave (R261, R262). -/
structure Copy where
  port : Nat
  b : Billet
  deriving DecidableEq, Repr

/-- An occupied buffer slot: the billet's input port, class and channel on arrival, whether it lies in the shared region,
and the copies that have not left; a copy for local delivery stays until its engine takes it (R115, R262, R264). -/
structure Slot where
  serial : Nat
  input : Nat
  cls : Nat
  vc : Nat
  shared : Bool
  job : Nat
  copies : List Copy
  /-- The arrival stamp of the link port (R27): the local reference edge before the arrival, and the time since it in
  1/65,536 count. -/
  edge : Nat
  since : Nat
  /-- The command and part that injected it here, if one did (R315). -/
  owner : Option (Nat × Nat)
  deriving DecidableEq, Repr

/-- A billet that an engine has ready at its internal port, and the command and part it belongs to (R56, R108). The engine's
number is that of its port less 36 (Table 12.8). -/
structure Inject where
  engine : Fin 8
  b : Billet
  owner : Option (Nat × Nat)
  /-- The link it must leave by, for a link-addressed billet (R27). -/
  link : Option Nat
  deriving DecidableEq, Repr

/-- A billet delivered to an internal port, with the link it arrived on, its arrival stamp, and the buffer slot that it
holds until its engine takes it (R27, R28, R115, R267). -/
structure Arrival where
  port : Nat
  b : Billet
  link : Option Nat
  edge : Nat
  since : Nat
  slot : Nat
  deriving DecidableEq, Repr

/-- A DISCOVERY billet that a link port holds (R245). -/
structure DiscIn where
  link : Nat
  b : Billet
  stamp : Nat
  deriving DecidableEq, Repr

/-- The Switch Core and the link ports. -/
structure FabSt where
  slots : List Slot := []
  serial : Nat := 0
  inject : List Inject := []
  /-- Billets at the internal ports before the job check (R267), and after it. -/
  arrivals : List Arrival := []
  inbox : List Arrival := []
  disc : List DiscIn := []
  /-- By link * 16 + SEL: billets sent and not yet credited, the last RUNNING received, and the credits this device has
  released since the link came UP (R247, R264). -/
  sent : SMap Nat := []
  lastRun : SMap Nat := []
  released : SMap Nat := []
  /-- By link: shared credits received and not yet returned, and those granted to the far end and not yet returned. -/
  grantsIn : SMap Nat := []
  /-- Rotating pointers, by site (R266). -/
  ptr : SMap Nat := []
  /-- The cycle of MATCHER 1: the outputs that have acted in it, the inputs that have passed a billet, and the matching of
  outputs with inputs (R266). -/
  served : List Nat := []
  used : List Nat := []
  matching : List (Nat × Nat) := []
  /-- By link: billet slots sent since the link came UP, of which 11 and a control word make a block (R246, R247). -/
  blk : SMap Nat := []
  /-- By link: discovery has echoed the far end, has found it as wired, and the link has been UP before (R245, R248). -/
  echoed : List Nat := []
  matched : List Nat := []
  wasUp : List Nat := []
  /-- The rank cache: partition, rank and node (R256). -/
  ranks : List (Nat × Nat × Nat) := []
  deriving DecidableEq, Repr

/-! ### Arbitration (R308 to R315) -/

/-- A grant: its unit is in progress, or it is parked on its owner after the unit's end (R311); suspended by an emergency
requester or not (R313). -/
structure Grant where
  arb : Nat
  input : Nat
  cmd : Option Nat
  busy : Bool
  suspended : Bool
  deriving DecidableEq, Repr

/-- The arbiters. An LFSR not listed holds what R309 loads from the seed. -/
structure ArbSt where
  seed : Nat := 0
  lfsr : SMap Nat := []
  grants : List Grant := []
  /-- Emergency requesters that hold their resource: the arbiter and the reference edge of the grant (R313). -/
  emergency : List (Nat × Nat) := []
  /-- Switch outputs whose next billet the debug port copies, and its 96-byte test register (R314). -/
  capture : List Nat := []
  testReg : BitVec 768 := 0
  deriving DecidableEq, Repr

/-! ### The Scaler and the security controller (R342 to R354) -/

/-- What one (job, partition) pair has used in the open tally period (R343, R344): array-counts, and grant units at the
HBM stops, at the Skidders and engine intakes, and in the Switch Core. -/
structure SclPair where
  job : Nat
  part : Nat
  counts : Nat
  hbm : Nat
  eng : Nat
  sw : Nat
  deriving DecidableEq, Repr

/-- What a tally period has counted: its pairs, and the unattributed grant units of the three kinds (R343, R344). -/
structure SclTally where
  pairs : List SclPair := []
  uHbm : Nat := 0
  uEng : Nat := 0
  uSw : Nat := 0
  deriving DecidableEq, Repr

/-- A closed tally record, with its signature once made (R346, R347). -/
structure SclRecord where
  bytes : List Byte
  signed : Bool
  deriving DecidableEq, Repr

/-- The Scaler. -/
structure SclSt where
  /-- A session is open (R348, R362). -/
  live : Bool := false
  session : Nat := 0
  seqNo : Nat := 0
  prev : List Byte := List.replicate 64 0
  /-- First count of the open period, and the last count at which a period end was handled (R346). -/
  start : Nat := 0
  mark : Nat := 0
  /-- The session's closed records' rail energy, in uJ (R350). -/
  closed : Nat := 0
  /-- A period end has been deferred (EXTENDED), the device was not ALIGNED or the count stopped or jumped
  (UNALIGNED), a sample fell outside its range (RANGE) (R348). -/
  extended : Bool := false
  unaligned : Bool := false
  range : Bool := false
  pairs : List SclPair := []
  /-- Unattributed grant units of the three kinds (R344). -/
  uHbm : Nat := 0
  uEng : Nat := 0
  uSw : Nat := 0
  /-- What the period had counted when the present count began: a period that ends at the count before keeps no more
  (R346). -/
  before : SclTally := {}
  /-- By rail, the energy that is short of a whole uJ, in 2^-32 uJ (R342). -/
  part : SMap Nat := []
  records : List SclRecord := []
  /-- Closed records that the tally identity has not compared (R350). -/
  unchecked : List (List Byte) := []
  region : Option ScalerRegion := none
  gain : List Nat := []
  offset : List Int := []
  perGrant : List Nat := []
  /-- Settings that take effect at the end of the period (Table 18.6). -/
  nextPeriod : Option Nat := none
  nextCal : Option (List Nat × List Int × List Nat) := none
  /-- A metrology command in progress: its host address, its length in bytes, and the nonce it must hold (R352). -/
  met : Option (Nat × Nat × BitVec 256) := none
  deriving DecidableEq, Repr

/-- The security controller: a quote in progress, by its nonce's host address (R354), and a flash write in progress, by
flash offset, length and host address (R355). -/
structure SecSt where
  quote : Option Nat := none
  flash : Option (Nat × Nat × Nat) := none
  deriving DecidableEq, Repr

/-! ### The Borer (R137 to R141) -/

/-- One histogram of a Borer slot: of one step, open or sealed, its bins by biased exponent, its zero count, and whether a
narrowing of that step saturated or wrote a NaN. -/
structure Hist where
  slot : Nat
  step : Nat
  closed : Bool
  bins : SMap Nat
  zeros : Nat
  unclean : Bool
  deriving DecidableEq, Repr

/-- A sampled value on its way to the Borer: its biased exponent, or none for an exact zero. -/
structure Sample where
  slot : Nat
  step : Nat
  part : Nat
  cmd : Nat
  expo : Option Nat
  deriving DecidableEq, Repr

/-- The Borer: its histograms, the sealed ones in the order of their steps; the step of each slot's last BORER_LATE report,
plus 1; and the samples that wait. -/
structure BorerSt where
  hists : List Hist := []
  late : SMap Nat := []
  waiting : List Sample := []
  deriving DecidableEq, Repr

/-! ### Objects as engines hold them (R77, R105, R107, R175) -/

/-- A tile region: the version it lies in, the byte that its offsets count from, where its directory begins, and the
matrix it holds. -/
structure Region where
  ver : Version
  origin : Nat
  dir : Nat
  rows : Nat
  cols : Nat
  fmt : Nat
  scaled : Bool
  colblk : Bool
  deriving DecidableEq, Repr

/-- A token-row object's header and slot descriptors (R77, R105). -/
structure TokenRows where
  ver : Version
  slots : List (Nat × Nat)
  fmt : Nat
  scaled : Bool
  width : Nat
  rowBytes : Nat
  deriving DecidableEq, Repr

/-- Where activations lie: a token-row object, or a tile region. -/
inductive ActSrc where
  | tok (t : TokenRows)
  | reg (g : Region)
  deriving DecidableEq, Repr

/-- An expert table entry of a receive object. -/
structure RecvEntry where
  expert : Nat
  slot : Nat
  first : Nat
  count : Nat
  coppice : Bool
  deriving DecidableEq, Repr

/-- A receive object's header, expert table and count matrix (by entry * sources + source). -/
structure Recv where
  sources : Nat
  rows : Nat
  layer : Nat
  fmt : Nat
  scaled : Bool
  width : Nat
  entries : List RecvEntry
  counts : List Nat
  deriving DecidableEq, Repr

/-! ### The arrays (R142 to R201) -/

/-- A stored element as an operand: its format, code and block scale. -/
structure El where
  fmt : Nat
  code : Nat
  scale : Option Nat
  deriving DecidableEq, Repr

/-- A unit of array work: one group of rows with one set of output columns, on one array (R155, R158, R197). What it
computes: 0 a product, 1 a weight gradient, 2 the two products of a Coppice copy. -/
structure LUnit where
  arr : Nat
  entry : Nat
  what : Nat
  rows : List Nat
  cols : List Nat
  /-- Stored tile columns that the Skidder has examined, and the position list so far (R178, R179). -/
  seen : Nat := 0
  positions : List Nat := []
  /-- Positions that have been streamed, and the array tiles that streamed them (R148). -/
  at_ : Nat := 0
  ran : Nat := 0
  /-- Chunks that were staged for it (R224). -/
  staged : Nat := 0
  /-- Its part of the partial-sum store, by row and column, and the elements that were held at an INT32 limit (R133, R144). -/
  acc : List (BitVec 32) := []
  limited : List Nat := []
  /-- The Coppice intermediate u, which staging holds between the two products (R228). -/
  mid : List (List El) := []
  done : Bool := false
  deriving DecidableEq, Repr

/-- A block for a transposing buffer (R184): of a weight matrix for one array, or of a group of rows whose X a stash saves
(R193); the half that it fills, and its elements, transposed: for each of its columns, its rows'. -/
structure TBlock where
  arr : Nat
  entry : Nat
  stash : Bool
  rows : List Nat
  cols : List Nat
  half : Option (Fin 2) := none
  data : List (List El) := []
  done : Bool := false
  deriving DecidableEq, Repr

/-- A chunk in one half of an array's staging: the weight rows of some positions for some output columns, and the row groups
that will still stream it (R212, R224). -/
structure Chunk where
  id : Nat
  arr : Nat
  half : Fin 2
  entry : Nat
  positions : List Nat
  cols : List Nat
  users : List (List Nat)
  els : List (List El)
  deriving DecidableEq, Repr

/-- An entry of an expert LAYER that has its own weights (R158, R228). -/
structure LEntry where
  expert : Nat
  slot : Nat
  first : Nat
  count : Nat
  firstPos : Nat
  nPos : Nat
  split : Bool
  weights : Option Region
  coppice : Nat
  grad : Option Nat
  deriving DecidableEq, Repr

/-- A LAYER that runs: what it latched at launch and the work in progress. -/
structure LayerRun where
  id : Nat
  arrays : List Nat
  seed : BitVec 64
  prop : BitVec 64
  /-- BSLOT is enabled and bound to the partition: its MARGIN (R193, R199). -/
  margin : Option Nat
  /-- The slot's MARGIN, whatever it is bound to (R199). -/
  slotMargin : Nat := 0
  feed : Bool
  /-- The operands: reduction length, accumulator columns, and the objects read. -/
  k : Nat
  n : Nat
  src : ActSrc
  addend : Option TokenRows
  recv : Option Recv
  stashX : Option Region
  stashZ : Option Region
  entries : List LEntry
  /-- Stage-2 choices of groups: entry number and group (R157). -/
  groups : List (Nat × Nat)
  units : List LUnit
  blocks : List TBlock
  /-- dZ in format P, by row of dY, which the Skidders put into staging once for the command (R194). -/
  dz : List (Nat × List El) := []
  /-- Results after the epilogue, and accumulators for the stash's Z region, by row * columns + column. -/
  out : SMap (BitVec 32)
  z : SMap (BitVec 32)
  /-- Entries whose fetch waits past the deadline, entries served by their Coppice copy, and the deadline (R226). -/
  waits : List Nat
  copper : List Nat
  deadline : Option Nat
  /-- The count of the deadline that entries missed and wait since (R227). -/
  missAt : Option Nat
  noCoppice : Bool
  /-- Arrays with a failed check that has been reported, and whether at the shadow column (R163). -/
  faults : List (Nat × Bool) := []
  deriving DecidableEq, Repr

/-- A score tile on the score path (R17, R78), with its rows' density keys (R183). -/
structure ScoreTile where
  layer : Nat
  slot : Nat
  first : Nat
  rows : Nat
  base : Nat
  cols : Nat
  scores : List (BitVec 32)
  keys : List Nat
  deriving DecidableEq, Repr

/-- The arrays and Skidders. -/
structure ArrSt where
  runs : List LayerRun := []
  scores : List ScoreTile := []
  /-- The halves of the arrays' staging that are in use (R212). -/
  chunks : List Chunk := []
  /-- The column that each array's shadow column compares next (R162), and the half that each Skidder fills next (R184). -/
  shadow : SMap Nat := []
  tnext : SMap Nat := []
  deriving DecidableEq, Repr

/-! ### The Sieve (R70 to R99) -/

/-- A token row in assembly, and what selection made of it (R78 to R87). -/
structure SvRow where
  slot : Nat
  token : Nat
  /-- Column blocks that have arrived, as (base, columns), with their scores. -/
  blocks : List (Nat × List (BitVec 32))
  key : Nat
  /-- EXITED in IN1: its scores are discarded (R78). -/
  gone : Bool
  chosen : Bool
  deriving DecidableEq, Repr

/-- A grain record (Table 4.6). -/
structure Grain where
  slot : Nat
  token : Nat
  expert : Nat
  choice : Nat
  replica : Nat
  dropped : Bool
  exited : Bool
  gate : BitVec 32
  rank : Nat
  deriving DecidableEq, Repr

/-- A Sieve context (R73). -/
structure SvCtx where
  ctx : Nat
  id : Nat
  part : Nat
  /-- The map header, and once loaded the entries, the capacities, the token status table and the group records. -/
  head : BitVec 512
  loaded : Bool
  map : List (BitVec 256)
  caps : Option (List Nat)
  status : Option (List Byte)
  groups : List Grain
  /-- The paired router LAYER's tokens, once it has launched. -/
  slots : Option (List (Nat × Nat))
  /-- The columns that LAYER computes: N of its weight matrix. -/
  width : Nat
  /-- The LAYER's last tile has been accepted. -/
  last : Bool
  rows : List SvRow
  used : SMap Nat
  given : SMap Nat
  grains : List Grain
  tokens : Nat
  exited : List (Nat × Nat)
  pass : Nat
  miss : Nat
  nans : Nat
  /-- The Landing buffers of the sorted runs that full sort stores have been written to (R91). -/
  runs : List (Nat × Nat)
  /-- The records and the sort index have been written (R91), and the directory's ranks with their routed grains. -/
  tailDone : Bool
  dirs : List (Nat × Nat)
  deriving DecidableEq, Repr

/-- A grant in a partition's store (R96), with the tables it names. -/
structure StoredGrant where
  part : Nat
  seq : Nat
  bounded : Bool
  maxDest : Nat
  maxTotal : Nat
  caps : Option (List Byte)
  recv : Option (List Byte)
  deriving DecidableEq, Repr

/-- The Sieve and the grant gates. -/
structure SvSt where
  ctxs : List SvCtx := []
  grants : List StoredGrant := []
  /-- Capacity tables of the last released grants, by partition (R95). -/
  caps : List (Nat × List Byte) := []
  /-- By partition: the count at which the gate closed (R97), and the most grains to one rank and ROUTED of the last
  committed SIEVE (R96). -/
  closedAt : SMap Nat := []
  maxDest : SMap Nat := []
  routed : SMap Nat := []
  deriving DecidableEq, Repr

/-! ### The Exchange Engine (R100 to R122) -/

/-- A message that a receive context is taking in, in its Landing buffer (R100, R116). -/
structure XMsg where
  src : Nat
  index : Nat
  total : Nat
  compressed : Bool
  /-- The SEQ of the billets received; their payloads lie in the buffer, 64 bytes apart. -/
  got : List Nat
  buf : Option (Nat × Nat)
  /-- Vectors of it that have been written. -/
  done : Nat
  deriving DecidableEq, Repr

/-- The form of an exchange's vectors: FORMAT, SCALED and WIDTH (R102). -/
structure XForm where
  fmt : Nat
  scaled : Bool
  width : Nat
  deriving DecidableEq, Repr

/-- A source's header as accepted (R101, R109). -/
structure XHead where
  src : Nat
  grains : Nat
  nData : Nat
  counts : List Nat
  form : XForm
  deriving DecidableEq, Repr

/-- A receive context, early until a command adopts it (R115). -/
structure XCtx where
  serial : Nat
  part : Nat
  job : Nat
  dir : Nat
  xid : Nat
  cmd : Option Nat
  since : Nat
  msgs : List XMsg
  heads : List XHead
  /-- Received vectors: source, number and dense bytes. -/
  rows : List (Nat × Nat × List Byte)
  failed : List (Nat × Status)
  /-- Members whose share has been handed to the Switch Core. -/
  sent : List Nat
  /-- Token rows that a COMBINE has combined. -/
  tokens : Nat
  deriving DecidableEq, Repr

/-- A committed grain table's classification until its release (R121). -/
structure GrainTab where
  ver : Version
  routed : Nat
  delivered : Bool
  killed : Bool
  deriving DecidableEq, Repr

/-- The local counts of a partition (R109, R229): slot, tokens, COPPICE; and the grains served by Coppice copies. -/
structure LocalRec where
  part : Nat
  slots : List (Nat × Nat × Bool)
  coppice : Nat
  deriving DecidableEq, Repr

/-- The Exchange Engine. -/
structure XeSt where
  ctxs : List XCtx := []
  serial : Nat := 0
  /-- Billets that wait for a context (XE_HELD). -/
  held : List Arrival := []
  /-- Closed (DIR, XID) that have posted XE_LATE: partition, DIR, XID. -/
  lates : List (Nat × Nat × Nat) := []
  tabs : List GrainTab := []
  locals : List LocalRec := []
  /-- By partition, the EXCHANGE that draws its staging from the partition's reservation, once it has launched (R117). -/
  draws : List (Nat × Nat) := []
  deriving DecidableEq, Repr

/-! ### Model swap (R236 to R241) -/

/-- A load list entry with the buffer claimed for its object (Table 11.4). -/
structure SwapEntry where
  obj : Nat
  stream : Nat
  offset : Nat
  digest : BitVec 512
  ver : Version
  verified : Bool
  deriving DecidableEq, Repr

/-- An open segment of a swap context: the billets received (R238). -/
structure SwapSeg where
  stream : Nat
  seg : Nat
  got : List Nat
  deriving DecidableEq, Repr

/-- A swap context of the copy engine. -/
structure SwapCtx where
  ctx : Nat
  id : Nat
  job : Nat
  part : Nat
  entries : List SwapEntry
  /-- The checks of R237 have passed. -/
  open_ : Bool
  /-- Completed segments: stream and segment. -/
  full : List (Nat × Nat)
  segs : List SwapSeg
  deriving DecidableEq, Repr

/-! ### The tray memory window (R269 to R282) -/

/-- A line of a window entry: the line slot whose response it awaits, its failure (a status code) once it has one, and
loaded bytes that have not been written to host memory. -/
structure WinLine where
  slot : Option Nat
  fail : Option Nat
  data : List Byte
  deriving DecidableEq, Repr

/-- A window ring entry that has been fetched and whose result has not been written: its ring, job and partition, the
host address of the entry, the count of its issue, and its lines. -/
structure WinEntry where
  ring : Nat
  job : Nat
  part : Nat
  entry : Line
  host : Nat
  issued : Nat
  lines : List WinLine
  deriving DecidableEq, Repr

/-- A line of the Window Cache (R278). -/
structure WinCached where
  job : Nat
  node : Nat
  window : Nat
  offset : Nat
  data : List Byte
  deriving DecidableEq, Repr

/-- The Window unit: entries in progress, oldest first; the generation of each line slot; the cache, least recently used
first; and the window table cache, by window. -/
structure WinSt where
  entries : List WinEntry := []
  gens : SMap Nat := []
  cache : List WinCached := []
  table : SMap Nat := []
  deriving DecidableEq, Repr

/-! ### The Collective Engines (R283 to R307) -/

/-- A data message that a context is taking in (R292): its phase, stage, chunk and sending node. -/
structure CMsg where
  down : Bool
  stage : Nat
  chunk : Nat
  src : Nat
  total : Nat
  /-- Billets received: SEQ, and the payload where it does not lie in a buffer. -/
  got : List (Nat × List Byte)
  /-- The Landing buffer that an early context took for it: billets lie in it, 64 bytes apart (R295). -/
  buf : Option (Nat × Nat)
  deriving DecidableEq, Repr

/-- A group peer of a member: its stage, its index in the group, its rank and its node (R286, R287). -/
structure CPeer where
  stage : Nat
  idx : Nat
  rank : Nat
  node : Nat
  deriving DecidableEq, Repr

/-- A chunk on its way through a member's steps: steps done, steps whose buffers are free again, the last result, and the
peers it has been sent to (phase, stage, index) (R288, R293). -/
structure CChunk where
  chunk : Nat
  done : Nat
  freed : Nat
  vals : List (BitVec 32)
  sent : List (Bool × Nat × Nat)
  /-- The elements of the last result where it lies in its step's Landing buffer, and not in `vals` (R294). -/
  stored : Option Nat := none
  deriving DecidableEq, Repr

/-- A SUSPECT notice (Table 14.5). -/
structure Notice where
  down : Bool
  stage : Nat
  chunk : Nat
  detector : Nat
  deriving DecidableEq, Repr

/-- A collective context, early until a command adopts it (R285, R295). -/
structure CollCtx where
  serial : Nat
  part : Nat
  job : Nat
  cid : Nat
  cmd : Option Nat
  since : Nat
  peers : List CPeer
  msgs : List CMsg
  chunks : List CChunk
  /-- CREDITs received: stage, chunk and node, as often as received. -/
  credits : List (Nat × Nat × Nat)
  /-- CLOSEs received: stage, node and flag; and the close rounds this member has begun (R296). -/
  closes : List (Nat × Nat × Bool)
  rounds : Nat
  suspect : Bool
  notices : List Notice
  /-- Nodes whose data a Landing pool refused while the context was early (Table 14.6). -/
  failed : List (Nat × Status)
  /-- Elements of a matrix OUT0, by first element. -/
  out : List (Nat × List (BitVec 32))
  written : Bool
  /-- By step, the DEPTH Landing buffers that its results lie in, chunk by chunk in turn (R294). -/
  bufs : List (List (Nat × Nat)) := []
  deriving DecidableEq, Repr

/-- An ADD slot in use (R305). -/
structure AddSlot where
  slot : Nat
  id : Nat
  since : Nat
  sent : Bool
  deriving DecidableEq, Repr

/-- The Collective Engines: contexts; billets that wait for a context; closed CIDs that have posted COLL_LATE; the ADD
slots in use and each slot's GEN. -/
structure CollSt where
  ctxs : List CollCtx := []
  serial : Nat := 0
  held : List Arrival := []
  lates : List (Nat × Nat) := []
  adds : List AddSlot := []
  gens : SMap Nat := []
  /-- Billets of ADD messages that a CE has taken in and not yet applied (R306). -/
  addIn : List Arrival := []
  deriving DecidableEq, Repr

/-- The device. -/
structure Dev where
  /-- Control-space registers by `Reg.code`, unlisted at their reset values (R8 to R12). -/
  regs : SMap (BitVec 64) := []
  /-- The high halves that a read of a low half latched, and the low halves that a write holds (R11). -/
  hi : List (Nat × BitVec 32) := []
  lo : List (Nat × BitVec 32) := []
  pins : Pins := {}
  fuses : Fuses := {}
  boot : Boot := {}
  flash : FlashSt := {}
  ring : RingSt := {}
  link : LinkSt := {}
  /-- Commands in flight, in fetch order, and the number of the next (R46). -/
  cmds : List Cmd := []
  nextId : Nat := 0
  /-- Job IDs in quarantine, with the count of their release (R66). -/
  quarantine : List (Nat × Nat) := []
  mem : MemSt := {}
  lnd : LndSt := {}
  err : ErrSt := {}
  /-- Stall reports made: for each wait, its start and the thresholds reported (R34). -/
  stalls : List (Wait × Nat × Nat) := []
  fab : FabSt := {}
  arb : ArbSt := {}
  scl : SclSt := {}
  sec : SecSt := {}
  borer : BorerSt := {}
  arr : ArrSt := {}
  sv : SvSt := {}
  xe : XeSt := {}
  swaps : List SwapCtx := []
  win : WinSt := {}
  coll : CollSt := {}
  /-- What the device has sent, oldest first. -/
  out : List Out := []
  /-- The model's own counter, applied to the free values of Config (log 5). -/
  free : Nat := 0
  deriving DecidableEq, Repr

/-- The machine: the device and the commands that wait, first in first out. -/
structure State where
  dev : Dev
  pending : List Instr
  deriving DecidableEq, Repr

/-- The machine right after reset: COLD_RESET_N asserted, stage 0, every register at its reset value (R9, R359), memory
with nothing listed (log 2), no command waiting. -/
def State.reset : State := { dev := {}, pending := [] }

end Sys2Proof.Machine
end

