-- ==== Sys2Proof/Machine/Ops.lean ====
section
/-! DEFINITION. The named operations every command is built from: registers and their fields, reports (R327, R328),
commands in flight and their causes of failure (R54, R55), the device's output balls, and messages out. -/

namespace Sys2Proof.Machine

/-! ## Registers -/

/-- The key of a register's instance in the register file. -/
def Reg.code (r : Reg) (i j : Nat) : Nat := (r.ctorIdx * 65536 + i % 65536) * 65536 + j % 65536

/-- A register's reset value (R9). -/
def Reg.dflt (r : Reg) : BitVec 64 := BitVec.ofNat 64 r.spec.reset

/-- The value a register holds. -/
def Dev.reg (d : Dev) (r : Reg) (i : Nat := 0) (j : Nat := 0) : BitVec 64 :=
  SMap.get r.dflt d.regs (r.code i j)

/-- The device with a register at a value. -/
def Dev.setReg (d : Dev) (r : Reg) (v : BitVec 64) (i : Nat := 0) (j : Nat := 0) : Dev :=
  { d with regs := SMap.set r.dflt d.regs (r.code i j) v }

/-- A field's mask. -/
def Fld.mask (f : Fld) : BitVec 64 := BitVec.ofNat 64 ((2 ^ f.width - 1) * 2 ^ f.lo)

/-- A field's value within its register's value. -/
def Fld.of (f : Fld) (v : BitVec 64) : Nat := bits v.toNat f.lo f.width

/-- A register's value with one field replaced. -/
def Fld.put (f : Fld) (v : BitVec 64) (n : Nat) : BitVec 64 :=
  (v &&& ~~~f.mask) ||| (BitVec.ofNat 64 (n % 2 ^ f.width * 2 ^ f.lo) &&& f.mask)

/-- A field of a register. -/
def Dev.f (d : Dev) (f : Fld) (i : Nat := 0) (j : Nat := 0) : Nat := f.of (d.reg f.reg i j)

/-- A field of one bit. -/
def Dev.flag (d : Dev) (f : Fld) (i : Nat := 0) (j : Nat := 0) : Bool := d.f f i j ≠ 0

/-- The device with a field at a value, cut to the field's width. -/
def Dev.setF (d : Dev) (f : Fld) (n : Nat) (i : Nat := 0) (j : Nat := 0) : Dev :=
  d.setReg f.reg (f.put (d.reg f.reg i j) n) i j

/-- A counter field advanced, saturating at its largest value. -/
def Dev.addF (d : Dev) (f : Fld) (n : Nat) (i : Nat := 0) (j : Nat := 0) : Dev :=
  d.setF f (min (d.f f i j + n) (2 ^ f.width - 1)) i j

/-- A counter field lowered, not below 0. -/
def Dev.subF (d : Dev) (f : Fld) (n : Nat) (i : Nat := 0) (j : Nat := 0) : Dev :=
  d.setF f (d.f f i j - n) i j

/-- The ring count (R23). -/
def Dev.count (d : Dev) : Nat := (d.reg .RING_COUNT).toNat

/-- The start-up stage (Table 19.5). -/
def Dev.stage (d : Dev) : Nat := d.f .DEV_STATUS_STAGE

/-- The device is in READY, with no warm reset in progress (R359, R363). -/
def Dev.ready (d : Dev) : Bool := !d.boot.cold && !d.boot.halted && d.stage = 8 && !d.flag .DEV_STATUS_WARM_BUSY

/-- The partition holds a job (R65). -/
def Dev.valid (d : Dev) (p : Nat) : Bool := d.flag .PART_CTRL_VALID p

/-- The job a partition holds; 0 for none (R65). -/
def Dev.jobOf (d : Dev) (p : Nat) : Nat := if d.valid p then d.f .PART_CTRL_JOB p else 0

/-- The partition that holds a job (R65). -/
def Dev.partOf (d : Dev) (job : Nat) : Option Nat :=
  (List.range 16).find? (fun p => d.valid p && d.f .PART_CTRL_JOB p == job && job != 0)

/-- Some partition holds a job (R23, Table 2.4). -/
def Dev.anyValid (d : Dev) : Bool := (List.range 16).any d.valid

/-! ## Messages out -/

/-- A message leaves the device. -/
def Dev.emit (d : Dev) (o : Out) : Dev := { d with out := d.out ++ [o] }

/-- The bytes that each host transport message carries of n bytes from an offset on: at most 4,096 (Table 3.1). -/
def messageSizes (n : Nat) : List (Nat × Nat) :=
  (List.range (ceilDiv n 4096)).map (fun i => (4096 * i, min 4096 (n - 4096 * i)))

/-- Read host memory, in messages of Table 3.1 (R40; log 129). -/
def Dev.emitRead (d : Dev) (addr n : Nat) : Dev :=
  (messageSizes n).foldl (fun d m => d.emit (.memRead (addr + m.1) m.2)) d

/-- Write host memory, in messages of Table 3.1 (R40; log 129). -/
def Dev.emitWrite (d : Dev) (addr : Nat) (bytes : List Byte) : Dev :=
  (messageSizes bytes.length).foldl (fun d m => d.emit (.memWrite (addr + m.1) (slice bytes m.1 m.2))) d

/-! ## Reports -/

/-- Whom a report concerns (Table 17.1). -/
structure Who where
  job : Nat := 0
  part : Option Nat := none
  queue : Nat := 0
  tag : Nat := 0
  status : Nat := 0
  deriving DecidableEq, Repr

/-- The SOURCE field of a code: the block that posts it (Table 17.1). -/
def Code.source (c : Code) : Nat := if c.num < 0x100 then 0x0E else c.num / 256

/-- The SEQ after a SEQ: 1 to 65,535, then 1 again (R327). -/
def nextSeq (n : Nat) : Nat := if n < 65535 then n + 1 else 1

/-- Post an error report: it takes the next SEQ and joins the holding space; a FAULT report sets FAULT_SEEN
(R327, R328, R330). -/
def Dev.postFrom (d : Dev) (source : Nat) (c : Code) (addr index : Nat) (who : Who) (elapsed : Nat) : Dev :=
  let r : Report :=
    { seq := d.link.seq, code := c, source := source, status := who.status, job := who.job, part := who.part,
      queue := who.queue, tag := who.tag, count := d.count, address := addr, index := index, elapsed := elapsed }
  let d := { d with link := { d.link with held := d.link.held ++ [.report r], seq := nextSeq d.link.seq } }
  if c.severity = .fault then d.setF .ERR_STATUS_FAULT_SEEN 1 else d

/-- Post a report from the block that owns its code. -/
def Dev.post (d : Dev) (c : Code) (addr : Nat := 0) (index : Nat := 0) (who : Who := {}) (elapsed : Nat := 0) : Dev :=
  d.postFrom c.source c addr index who elapsed

/-- The aperture's number (R41). -/
def apNum : Aperture → Nat
  | .owner => 0
  | .supervisor => 1
  | .user => 2

/-- The block of an address as reports name it: bits [27:20] of its base; per-array blocks report as 0x06 (Table 17.1). -/
def blockOf (addr : Nat) : Nat := let n := bits addr 20 8; if 0x10 ≤ n ∧ n < 0x1F then 0x06 else n

/-- FAULT_PROT for a refused control-space access: its offset, aperture and direction (Table 17.2). -/
def Dev.refuse (d : Dev) (ap : Aperture) (addr : Nat) (write : Bool) : Dev :=
  d.postFrom (blockOf addr) .FAULT_PROT addr (apNum ap + 256 * b2n write) {} 0

/-- The holding space is full, so the engines that produce records stall (R43, R328). -/
def Dev.stalled (d : Dev) : Bool := 1024 ≤ d.link.held.length

/-- The window of 2^20 counts that the count lies in (log 12). -/
def Dev.window (d : Dev) : Nat := d.count / 2 ^ 20

/-- Post a report only for the first such event of each 2^20 counts (log 12). -/
def Dev.postFirst (d : Dev) (c : Code) (item : Nat) (addr index : Nat) (who : Who := {}) : Dev :=
  let key := c.num * 65536 + item % 65536
  if SMap.get 0 d.err.firsts key = d.window + 1 then d
  else ({ d with err := { d.err with firsts := SMap.set 0 d.err.firsts key (d.window + 1) } }).post c addr index who

/-! ## Error rates -/

/-- The threshold of a rate kind (Table 17.4). -/
def Dev.rateLimit (d : Dev) : Nat → Nat
  | 0 => d.f .ERR_THRESH0_HBM_CE
  | 1 => d.f .ERR_THRESH0_SLAB_CE
  | 2 => d.f .ERR_THRESH0_HBM_UE
  | 3 => d.f .ERR_THRESH0_WCACHE_CE
  | 4 => d.f .ERR_THRESH0_LINK_DOWNS
  | 5 => d.f .ERR_THRESH0_ARRAY_FAIL
  | 6 => d.f .ERR_THRESH1_FEC_K
  | 7 => d.f .ERR_THRESH1_MESH_CRC
  | _ => 0

/-- Count n events of a rate kind for an item; the count that reaches the threshold posts ERR_RATE once in the window
and sets the RATE reason (R334, Table 17.5). -/
def Dev.rateEvent (d : Dev) (kind item n : Nat) : Dev :=
  let key := kind * 65536 + item % 65536
  let c := SMap.get 0 d.err.rates key + n
  let d := { d with err := { d.err with rates := SMap.set 0 d.err.rates key c } }
  if d.rateLimit kind ≠ 0 ∧ d.rateLimit kind ≤ c ∧ key ∉ d.err.rated then
    let d := { d with err := { d.err with rated := d.err.rated ++ [key] } }
    let d := d.setF .ERR_REPLACE_REASON (setBit (d.f .ERR_REPLACE_REASON) 3 true)
    d.post .ERR_RATE 0 (kind + 256 * (item % 65536))
  else d

/-! ## Commands in flight -/

/-- OPCODE of a descriptor (Table 3.3). -/
def Cmd.opcode (c : Cmd) : Nat := field c.desc.toNat 0 0 8
/-- JOB of a descriptor (Table 3.3). -/
def Cmd.job (c : Cmd) : Nat := field c.desc.toNat 2 0 16
/-- PARTITION of a descriptor (Table 3.3). -/
def Cmd.part (c : Cmd) : Nat := field c.desc.toNat 4 0 4
/-- NOTIFY of a descriptor (Table 3.3). -/
def Cmd.notify (c : Cmd) : Bool := field c.desc.toNat 6 0 1 = 1
/-- ORDERED of a descriptor (Table 3.3). -/
def Cmd.ordered (c : Cmd) : Bool := field c.desc.toNat 6 1 1 = 1
/-- TAG of a descriptor (Table 3.3). -/
def Cmd.tag (c : Cmd) : Nat := field c.desc.toNat 8 0 32
/-- WAIT_TAG of a descriptor (Table 3.3). -/
def Cmd.waitTag (c : Cmd) : Nat := field c.desc.toNat 12 0 32
/-- NOT_BEFORE of a descriptor (Table 3.3). -/
def Cmd.notBefore (c : Cmd) : Nat := field c.desc.toNat 16 0 64
/-- Input handle i of a descriptor (Table 3.3). -/
def Cmd.inp (c : Cmd) (i : Nat) : Nat := field c.desc.toNat (24 + 4 * i) 0 32
/-- Output handle i of a descriptor (Table 3.3). -/
def Cmd.outp (c : Cmd) (i : Nat) : Nat := field c.desc.toNat (36 + 4 * i) 0 32
/-- w bits of ARGS from bit lo of its byte k (Table 3.3). -/
def Cmd.arg (c : Cmd) (k lo w : Nat) : Nat := field c.desc.toNat (44 + k) lo w

/-- The command in flight with a number. -/
def Dev.cmd? (d : Dev) (id : Nat) : Option Cmd := d.cmds.find? (fun c => c.id == id)

/-- Change the command in flight with a number. -/
def Dev.updCmd (d : Dev) (id : Nat) (g : Cmd → Cmd) : Dev := { d with cmds := mapIf (fun c => c.id == id) g d.cmds }

/-- Whom a command's report concerns, with the cause's own status (R54, Table 17.1). -/
def Cmd.who (c : Cmd) (st : Nat) : Who := ⟨c.job, some c.part, c.queue, c.tag, st⟩

/-- Post a report about a command; the first gives its record's REPORT_SEQ (R52, R54). -/
def Dev.postCmd (d : Dev) (id : Nat) (c : Code) (st : Nat) (addr : Nat := 0) (index : Nat := 0)
    (elapsed : Nat := 0) : Dev :=
  match d.cmd? id with
  | none => d.post c addr index {} elapsed
  | some k =>
    let seq := d.link.seq
    let d := d.post c addr index (k.who st) elapsed
    d.updCmd id (fun k => { k with firstSeq := if k.firstSeq = 0 then seq else k.firstSeq })

/-- A cause of failure reaches a command that has not passed its commit cycle (R54, R58). -/
def Dev.failCmd (d : Dev) (id : Nat) (st : Status) : Dev :=
  d.updCmd id (fun k => if k.ended then k else { k with causes := k.causes ++ [st] })

/-- Part j of a command fails with a cause: a command of one part fails with the cause itself, a command of more parts
with PART_FAILED (R55; log 13). -/
def Dev.failPart (d : Dev) (id j : Nat) (st : Status) : Dev :=
  d.updCmd id (fun k =>
    if k.ended then k
    else if st.whole || decide (k.parts ≤ 1) then { k with causes := k.causes ++ [st] }
    else { k with causes := k.causes ++ [.partFailed], failed := if j ∈ k.failed then k.failed else k.failed ++ [j] })

/-- Part j of a command succeeds. -/
def Dev.passPart (d : Dev) (id j : Nat) : Dev :=
  d.updCmd id (fun k => { k with passed := if j ∈ k.passed then k.passed else k.passed ++ [j] })

/-- A command that runs: launched, not ended, with no cause of failure. -/
def Cmd.running (c : Cmd) : Bool := c.launched && !c.ended && c.causes.isEmpty

/-- Mark a command's engine work done (R58). -/
def Dev.finish (d : Dev) (id : Nat) : Dev := d.updCmd id (fun k => { k with ready := true })

/-- A cause with its report: part j of a command fails. -/
def Dev.failReport (d : Dev) (id j : Nat) (st : Status) (c : Code) (addr : Nat := 0) (index : Nat := 0) : Dev :=
  (d.postCmd id c st.num addr index).failPart id j st

/-- A fresh number for a free value (log 5). -/
def Dev.fresh (d : Dev) : Nat × Dev := (d.free, { d with free := d.free + 1 })

/-! ## The output balls -/

/-- A severity is at or above ERR_Q_CFG.ALERT_MIN (R329). -/
def Dev.alerts (d : Dev) (s : Severity) : Bool := d.f .ERR_Q_CFG_ALERT_MIN ≤ s.num

/-- The level of ALERT_N: a held report, or one in the ring at or beyond its head, reaches ALERT_MIN (R329). -/
def Dev.alertLevel (d : Dev) : Bool :=
  d.link.ringSev.any d.alerts ||
  d.link.held.any (fun h => match h with | .report r => d.alerts r.code.severity | .completion _ => false)

/-- The replacement reasons that the mask enables (R335). -/
def Dev.reasons (d : Dev) : Nat := d.f .ERR_REPLACE_REASON &&& d.f .ERR_REPLACE_CFG_MASK

/-- The output balls after an event: ALERT_N follows its level, REPLACE_REQ_N is released when no enabled reason is
left, and while COLD_RESET_N is asserted all three are released (R329, R335, R377). -/
def Dev.settle (d : Dev) : Dev :=
  { d with pins := { alert := !d.boot.cold && d.alertLevel
                     replace := !d.boot.cold && d.pins.replace && decide (d.reasons ≠ 0)
                     therm := !d.boot.cold && d.pins.therm } }

/-- A command's effect on the device, as a step of the machine: everything but the queue. -/
def State.act (s : State) (g : Dev → Dev) : Host.Outcome State Fault Refusal :=
  .next { s with dev := (g s.dev).settle }

/-- A row of an engine that can produce records: it waits while the holding space is full (R43, R328; log 130). -/
def State.engine (s : State) (g : Dev → Dev) : Host.Outcome State Fault Refusal :=
  s.act (fun d => if d.stalled then d else g d)

end Sys2Proof.Machine
end

