-- ==== Sys2Proof/Machine/Memory.lean ====
section
/-! DEFINITION. Memory accesses: HBM by physical address, slabs by array and offset, HBM by virtual address through the
XU, and what an access that fails leaves behind (R203, R212 to R220, R390). -/

namespace Sys2Proof.Machine

/-- Why an access fails. -/
inductive MemErr where
  /-- A physical address that holds no memory (R390). -/
  | range (addr : Nat)
  /-- An access to a retired frame (R220) or to the slab of a retired array (R165). -/
  | retired
  /-- An HBM line with an uncorrectable error (R217). -/
  | badLine (addr : Nat)
  /-- A slab word with a double error (R218). -/
  | badWord (arr off : Nat)
  /-- A translation fault of a kind of Table 10.6 (R215). -/
  | xlat (part va kind : Nat) (write : Bool)
  deriving DecidableEq, Repr

/-- HBM ends here: no physical address at or beyond holds memory (R203). -/
def hbmEnd : Nat := 0x3000000000

/-- Read bytes of a sparse memory; a byte that nothing has written reads 0 (log 2). -/
def readBytes (m : SMap Byte) (a n : Nat) : List Byte := (List.range n).map (fun i => SMap.get 0 m (a + i))

/-- Write bytes of a sparse memory, lowest address first. -/
def writeBytes (m : SMap Byte) (a : Nat) : List Byte → SMap Byte
  | [] => m
  | b :: bs => writeBytes (SMap.set 0 m a b) (a + 1) bs

/-- The canonical form of memory: in HBM and in the slabs, addresses strictly rising and no byte listed at the value that an
unlisted one reads as. -/
def Memory.wf (m : MemSt) : Bool := SMap.wf (fun _ => 0) m.hbm && SMap.wf (fun _ => 0) m.slab

/-- A line or word of size w at address l overlaps n bytes from a. -/
def overlaps (l w a n : Nat) : Bool := decide (l < a + n ∧ a < l + w)

/-- What a physical access meets before any data moves: the end of memory, then a retired frame (R220, R390). -/
def Dev.physCheck (d : Dev) (a n : Nat) : Option MemErr :=
  if hbmEnd < a + n then some (.range (max a hbmEnd))
  else if d.mem.frames.any (fun fr => overlaps (fr * 65536) 65536 a n) then some .retired
  else none

/-- Read HBM at a physical address (R217). -/
def Dev.physRead (d : Dev) (a n : Nat) : Except MemErr (List Byte) :=
  match d.physCheck a n with
  | some e => .error e
  | none =>
    match d.mem.hbmBad.find? (fun l => overlaps l 64 a n) with
    | some l => .error (.badLine l)
    | none => .ok (readBytes d.mem.hbm a n)

/-- Write HBM at a physical address: a line written in part is read first, a line written whole loses its error
(R217). -/
def Dev.physWrite (d : Dev) (a : Nat) (bs : List Byte) : Except MemErr Dev :=
  match d.physCheck a bs.length with
  | some e => .error e
  | none =>
    match d.mem.hbmBad.find? (fun l => overlaps l 64 a bs.length && !(decide (a ≤ l ∧ l + 64 ≤ a + bs.length))) with
    | some l => .error (.badLine l)
    | none =>
      .ok { d with mem := { d.mem with
              hbm := writeBytes d.mem.hbm a bs
              hbmBad := d.mem.hbmBad.filter (fun l => !(decide (a ≤ l ∧ l + 64 ≤ a + bs.length))) } }

/-- The key of a slab byte. -/
def slabKey (arr off : Nat) : Nat := arr * 4194304 + off

/-- An array's state: 0 ENABLED, 1 SPARE, 2 UNTESTED, 3 RETIRED (Table 7.7). -/
def Dev.arrState (d : Dev) (n : Nat) : Nat := d.f .MA_ARR_STATE_STATE n

/-- The array has been retired (Table 7.7). -/
def Dev.arrRetired (d : Dev) (n : Nat) : Bool := d.arrState n = 3

/-- Read a slab (R165, R218). -/
def Dev.slabRead (d : Dev) (arr off n : Nat) : Except MemErr (List Byte) :=
  if d.arrRetired arr then .error .retired
  else
    match d.mem.slabBad.find? (fun w => overlaps w 8 (slabKey arr off) n) with
    | some w => .error (.badWord (w / 4194304) (w % 4194304))
    | none => .ok (readBytes d.mem.slab (slabKey arr off) n)

/-- Write a slab: a word written in part is read first, a word written whole loses its error (R165, R218). -/
def Dev.slabWrite (d : Dev) (arr off : Nat) (bs : List Byte) : Except MemErr Dev :=
  let a := slabKey arr off
  let whole := fun w => decide (a ≤ w ∧ w + 8 ≤ a + bs.length)
  if d.arrRetired arr then .error .retired
  else
    match d.mem.slabBad.find? (fun w => overlaps w 8 a bs.length && !whole w) with
    | some w => .error (.badWord (w / 4194304) (w % 4194304))
    | none =>
      .ok { d with mem := { d.mem with slab := writeBytes d.mem.slab a bs
                                       slabBad := d.mem.slabBad.filter (fun w => !whole w) } }

/-! ## Translation (R213 to R215) -/

/-- One level of a walk: read the entry at `a`, check it, and answer its address (Table 10.5, Table 10.6). A level-2
entry with LEAF, or any level-3 entry, is a leaf. -/
def Dev.walkEntry (d : Dev) (p va level table idx : Nat) (write : Bool) : Except MemErr (Nat × Bool × Bool) := do
  if hbmEnd ≤ table then throw (.xlat p va 4 write)
  let e := leNat (← d.physRead (table + 8 * idx) 8)
  let leaf := level == 3 || (level == 2 && bit e 1)
  let align := if level = 1 then 65536 else if level = 2 then (if leaf then 2097152 else 256) else 65536
  let addr := bits e 8 32 * 256
  if !bit e 0 then throw (.xlat p va 1 write)
  if bits e 3 5 ≠ 0 ∨ bits e 40 24 ≠ 0 ∨ (level = 1 ∧ bit e 1 = true) ∨ addr % align ≠ 0 then throw (.xlat p va 3 write)
  if hbmEnd ≤ addr then throw (.xlat p va 4 write)
  return (addr, leaf, bit e 2)

/-- Walk the tables from the root: the physical 64 KiB page of a virtual address, and whether it may be written (R213). -/
def Dev.walk (d : Dev) (p va : Nat) (write : Bool) : Except MemErr (Nat × Bool) := do
  if !d.flag .XU_ROOT_VALID p then throw (.xlat p va 0 write)
  let (t2, _, _) ← d.walkEntry p va 1 (d.f .XU_ROOT_BASE p * 131072) (bits va 34 14) write
  let (t3, leaf2, w2) ← d.walkEntry p va 2 t2 (bits va 21 13) write
  if leaf2 then return (t3 / 65536 + bits va 16 5, w2)
  let (pg, _, w3) ← d.walkEntry p va 3 t3 (bits va 16 5) write
  return (pg / 65536, w3)

/-- Translate a virtual address of a partition: from the cache, or by a walk that fills it (R214; log 14). -/
def Dev.translate (d : Dev) (p va : Nat) (write : Bool) : Dev × Except MemErr Nat :=
  match d.mem.xu.find? (fun e => e.part == p && e.vpage == va / 65536) with
  | some e =>
    if write && !e.write then (d, .error (.xlat p va 2 write)) else (d, .ok (e.ppage * 65536 + va % 65536))
  | none =>
    let d := d.addF .XU_WALKS_WALKS 1
    match d.walk p va write with
    | .error e => (d, .error e)
    | .ok (pg, w) =>
      if write && !w then (d, .error (.xlat p va 2 write))
      else
        let keep := if d.mem.xu.length < 4096 then d.mem.xu else d.mem.xu.drop 1
        ({ d with mem := { d.mem with xu := keep ++ [⟨p, va / 65536, pg, w⟩] } }, .ok (pg * 65536 + va % 65536))

/-- Translate n bytes from a virtual address, page by page: the physical pieces in order. -/
def Dev.pieces (d : Dev) (p : Nat) (write : Bool) : Nat → Nat → Nat → Dev × Except MemErr (List (Nat × Nat))
  | 0, _, _ => (d, .ok [])
  | fuel + 1, va, n =>
    if n = 0 then (d, .ok [])
    else
      let k := min n (65536 - va % 65536)
      match d.translate p va write with
      | (d, .error e) => (d, .error e)
      | (d, .ok pa) =>
        match d.pieces p write fuel (va + k) (n - k) with
        | (d, .error e) => (d, .error e)
        | (d, .ok ps) => (d, .ok ((pa, k) :: ps))

/-- Read physical pieces in order. -/
def Dev.readPieces (d : Dev) : List (Nat × Nat) → Except MemErr (List Byte)
  | [] => .ok []
  | (a, k) :: ps =>
    match d.physRead a k with
    | .error e => .error e
    | .ok bs =>
      match d.readPieces ps with
      | .error e => .error e
      | .ok rest => .ok (bs ++ rest)

/-- Write physical pieces in order; bytes already written stay (Table 10.7). -/
def Dev.writePieces (d : Dev) : List (Nat × Nat) → List Byte → Dev × Except MemErr Unit
  | [], _ => (d, .ok ())
  | (a, k) :: ps, bs =>
    match d.physWrite a (bs.take k) with
    | .error e => (d, .error e)
    | .ok d => d.writePieces ps (bs.drop k)

/-- Read HBM at a virtual address of a partition. -/
def Dev.vaRead (d : Dev) (p va n : Nat) : Dev × Except MemErr (List Byte) :=
  match d.pieces p false (n / 65536 + 2) va n with
  | (d, .error e) => (d, .error e)
  | (d, .ok ps) => (d, d.readPieces ps)

/-- Write HBM at a virtual address of a partition. -/
def Dev.vaWrite (d : Dev) (p va : Nat) (bs : List Byte) : Dev × Except MemErr Unit :=
  match d.pieces p true (bs.length / 65536 + 2) va bs.length with
  | (d, .error e) => (d, .error e)
  | (d, .ok ps) => d.writePieces ps bs

/-! ## What a failed access leaves -/

/-- An uncorrectable HBM read is counted, latched and reported, for a command or none (R217). -/
def Dev.hbmUe (d : Dev) (id : Option Nat) (addr : Nat) : Dev :=
  let st := bits addr 12 3
  let d := (d.addF .TIER_HBM_ERR_UNCORRECTABLE 1 st).rateEvent 2 st 1
  let d := d.setReg .TIER_UE_ADDR (BitVec.ofNat 64 (addr % 2 ^ 40))
  match id with
  | some i => d.postCmd i .TIER_HBM_UE Status.faultData.num addr
  | none => d.post .TIER_HBM_UE addr

/-- A double error in a slab word is counted, latched and reported, for a command or none (R218). -/
def Dev.slabUe (d : Dev) (id : Option Nat) (arr off : Nat) : Dev :=
  let d := d.addF .TIER_SLAB_ERR_UNCORRECTABLE 1
  let d := d.setReg .TIER_UE_ADDR (BitVec.ofNat 64 (2 ^ 40 + arr * 4194304 + off))
  match id with
  | some i => d.postCmd i .TIER_SLAB_UE Status.faultData.num off (arr * 2 ^ 40)
  | none => d.post .TIER_SLAB_UE off (arr * 2 ^ 40)

/-- A translation fault is counted, latched if the latch is free, and reported (R215). -/
def Dev.xuFault (d : Dev) (id : Option Nat) (p va kind : Nat) (write : Bool) : Dev :=
  let d := d.addF .XU_FAULT_CNT_FAULTS 1 p
  let tag := match id with | some i => (d.cmd? i).elim 0 Cmd.tag | none => 0
  let d := if d.flag .XU_FAULT_VALID p then d
    else
      (d.setReg .XU_FAULT (BitVec.ofNat 64 (va % 2 ^ 48 + kind * 2 ^ 48 + b2n write * 2 ^ 51 + 2 ^ 63)) p).setReg
        .XU_FAULT_TAG (BitVec.ofNat 64 tag) p
  match id with
  | some i => d.postCmd i .XU_FAULT Status.faultXlat.num va kind
  | none => d.post .XU_FAULT va kind { job := d.jobOf p, part := some p }

/-- The report and latches of a failed access, without its effect on a command. -/
def Dev.memReport (d : Dev) (id : Option Nat) : MemErr → Dev
  | .range a =>
    match id with
    | some i => d.postCmd i .TIER_PHYS_RANGE Status.faultData.num a
    | none => d.post .TIER_PHYS_RANGE a
  | .retired => d
  | .badLine a => d.hbmUe id a
  | .badWord arr off => d.slabUe id arr off
  | .xlat p va k w => d.xuFault id p va k w

/-- The status a failed access gives the command or part it was made for (R215, R217, R218, R220, R390). -/
def MemErr.status : MemErr → Status
  | .range _ => .faultData
  | .retired => .killedDisable
  | .badLine _ => .faultData
  | .badWord _ _ => .faultData
  | .xlat _ _ _ _ => .faultXlat

/-- An access made for part j of a command fails (R55, R215 to R220, R390). -/
def Dev.memFail (d : Dev) (id j : Nat) (e : MemErr) : Dev := (d.memReport (some id) e).failPart id j e.status

end Sys2Proof.Machine
end

