-- ==== Sys2Proof/Machine/Landing.lean ====
section
/-! DEFINITION. The Landing pools: allocation, return, placement and retirement of buffers (R230 to R232, R333). -/

namespace Sys2Proof.Machine

/-- The buffer size of a pool, in bytes (Table 10.10). -/
def lndSize : Nat → Nat
  | 0 => 256
  | 1 => 2048
  | 2 => 16384
  | 3 => 131072
  | 4 => 1048576
  | 5 => 2097152
  | 6 => 4194304
  | _ => 33554432

/-- The physical address of buffer 0 of a pool (R230). -/
def Dev.lndBase (d : Dev) (k : Nat) : Nat := d.f .TIER_LND_POOL_BASE k * 256

/-- The buffers of a pool (R230). -/
def Dev.lndCount (d : Dev) (k : Nat) : Nat := d.f .TIER_LND_POOL_COUNT_M1 k + 1

/-- The physical address of a buffer. -/
def Dev.lndAddr (d : Dev) (k idx : Nat) : Nat := d.lndBase k + idx * lndSize k

/-- Store bytes in a buffer: HBM at its physical address, met as any physical access is (R220, R230, R390). -/
def Dev.lndStore (d : Dev) (b : Nat × Nat) (off : Nat) (bs : List Byte) : Except MemErr Dev :=
  d.physWrite (d.lndAddr b.1 b.2 + off) bs

/-- Read bytes of a buffer (R220, R230, R390). -/
def Dev.lndLoad (d : Dev) (b : Nat × Nat) (off n : Nat) : Except MemErr (List Byte) :=
  d.physRead (d.lndAddr b.1 b.2 + off) n

/-- The piece of n bytes from `off` of buffers laid end to end, the part of it that each buffer holds: buffer, offset in it,
bytes. -/
def spanOf : List (Nat × Nat) → Nat → Nat → List ((Nat × Nat) × Nat × Nat)
  | [], _, _ => []
  | b :: bs, off, n =>
    let sz := lndSize b.1
    if sz ≤ off then spanOf bs (off - sz) n
    else
      let k := min n (sz - off)
      (b, off, k) :: (if n - k = 0 then [] else spanOf bs 0 (n - k))

/-- Read n bytes from `off` of buffers laid end to end. -/
def Dev.lndReads (d : Dev) (bufs : List (Nat × Nat)) (off n : Nat) : Except MemErr (List Byte) :=
  (spanOf bufs off n).foldlM (fun acc e => do return acc ++ (← d.lndLoad e.1 e.2.1 e.2.2)) []

/-- Store bytes from `off` on in buffers laid end to end. -/
def Dev.lndStores (d : Dev) (bufs : List (Nat × Nat)) (off : Nat) (bs : List Byte) : Except MemErr Dev := do
  let r ← (spanOf bufs off bs.length).foldlM (fun (a : Dev × List Byte) e => do
    return (← a.1.lndStore e.1 e.2.1 (a.2.take e.2.2), a.2.drop e.2.2)) (d, bs)
  return r.1

/-- Fill n bytes of a buffer with zeros: no byte of it is listed afterwards. -/
def Dev.lndZero (d : Dev) (b : Nat × Nat) (n : Nat) : Except MemErr Dev :=
  let a := d.lndAddr b.1 b.2
  match d.physCheck a n with
  | some e => .error e
  | none =>
    let gone := fun (x : Nat) => decide (a ≤ x ∧ x < a + n)
    .ok { d with mem := { d.mem with hbm := d.mem.hbm.filter (fun e => !gone e.1)
                                     hbmBad := d.mem.hbmBad.filter (fun l => !gone l) } }

/-- The buffers of a pool that are out of its free bitmap: held or retired. -/
def Dev.lndTaken (d : Dev) (k : Nat) : List Nat :=
  (d.lnd.held.filter (fun b => b.pool == k)).map LndBuf.idx ++ (d.lnd.retired.filter (fun b => b.1 == k)).map Prod.snd

/-- The lowest number from i on that is not taken. -/
def lowestFree (taken : List Nat) : Nat → Nat → Option Nat
  | 0, _ => none
  | n + 1, i => if i ∈ taken then lowestFree taken n (i + 1) else some i

/-- The reservations of the other valid partitions that are not met (R231). -/
def Dev.lndUnmet (d : Dev) (p k : Nat) : Nat :=
  sumNat ((List.range 16).map (fun q =>
    if q ≠ p ∧ d.valid q = true then d.f .TIER_LND_PART_RESV q k - d.f .TIER_LND_USE_USED q k else 0))

/-- Whether an allocation would be granted, or the status of its refusal (R231). -/
def Dev.lndRule (d : Dev) (p k : Nat) : Except Status Nat :=
  let used := d.f .TIER_LND_USE_USED p k
  let free := d.f .TIER_LND_FREE_FREE k
  let quota := d.f .TIER_LND_PART_QUOTA p k
  if quota ≠ 0 ∧ quota ≤ used then .error .quota
  else
    let ok := if used < d.f .TIER_LND_PART_RESV p k then 0 < free else d.lndUnmet p k < free
    if ok then
      match lowestFree (d.lndTaken k) ((d.lndTaken k).length + 1) 0 with
      | some i => if i < d.lndCount k then .ok i else .error .poolEmpty
      | none => .error .poolEmpty
    else .error .poolEmpty

/-- The free count of a pool changes, and LOW follows its least value. -/
def Dev.setFree (d : Dev) (k n : Nat) : Dev :=
  let d := d.setF .TIER_LND_FREE_FREE n k
  if n < d.f .TIER_LND_FREE_LOW k then d.setF .TIER_LND_FREE_LOW n k else d

/-- Allocate a buffer, or refuse at once with a report and a count (R231). -/
def Dev.lndAlloc (d : Dev) (p k : Nat) (user : LndUser) : Dev × Except Status Nat :=
  match d.lndRule p k with
  | .ok i =>
    let d := d.setFree k (d.f .TIER_LND_FREE_FREE k - 1)
    let d := d.addF .TIER_LND_USE_USED 1 p k
    ({ d with lnd := { d.lnd with held := d.lnd.held ++ [⟨k, i, p, user, false⟩] } }, .ok i)
  | .error st =>
    let d := d.addF .TIER_LND_USE_FAILS 1 p k
    let c := if st = .quota then Code.LND_QUOTA else Code.LND_EMPTY
    let d := match user with
      | .command id => d.postCmd id c st.num 0 k
      | _ => d.post c 0 k { job := d.jobOf p, part := some p, status := st.num }
    (d, .error st)

/-- Return a held buffer: to the free bitmap, or, where its frame was retired, to the retired count (R232, R333). -/
def Dev.lndReturn (d : Dev) (b : LndBuf) : Dev :=
  let d := d.subF .TIER_LND_USE_USED 1 b.part b.pool
  let d := { d with lnd := { d.lnd with held := d.lnd.held.erase b } }
  if b.retiring then
    let d := { d with lnd := { d.lnd with retired := d.lnd.retired ++ [(b.pool, b.idx)] } }
    d.addF .ERR_LND_RETIRED_RETIRED 1 b.pool
  else d.setF .TIER_LND_FREE_FREE (d.f .TIER_LND_FREE_FREE b.pool + 1) b.pool

/-- Return every buffer whose holder meets a test (R232). -/
def Dev.lndReturnIf (d : Dev) (p : LndBuf → Bool) : Dev := (d.lnd.held.filter p).foldl Dev.lndReturn d

/-- Return the buffers of one user. -/
def Dev.lndReturnUser (d : Dev) (u : LndUser) : Dev := d.lndReturnIf (fun b => b.user == u)

/-- The buffers of pool k's placement that overlap one 64 KiB frame. -/
def Dev.lndInFrame (d : Dev) (k frame : Nat) : List Nat :=
  let a := frame * 65536
  let base := d.lndBase k
  let sz := lndSize k
  let first := if a ≤ base then 0 else (a - base) / sz
  let last := if a + 65536 ≤ base then 0 else ceilDiv (a + 65536 - base) sz
  (List.range (min last (d.lndCount k) - first)).map (· + first)

/-- A frame is retired: each buffer of a pool that overlaps it leaves the free bitmap, or is marked while held (R333). -/
def Dev.lndRetireFrame (d : Dev) (frame : Nat) : Dev :=
  (List.range 8).foldl (fun d k =>
    (d.lndInFrame k frame).foldl (fun (d : Dev) i =>
      if (k, i) ∈ d.lnd.retired then d
      else if d.lnd.held.any (fun b => b.pool == k && b.idx == i) then
        { d with lnd := { d.lnd with
            held := mapIf (fun b => b.pool == k && b.idx == i) (fun b => { b with retiring := true }) d.lnd.held } }
      else
        let d := { d with lnd := { d.lnd with retired := d.lnd.retired ++ [(k, i)] } }
        (d.setFree k (d.f .TIER_LND_FREE_FREE k - 1)).addF .ERR_LND_RETIRED_RETIRED 1 k) d) d

/-- Pool k is placed anew: the buffers over retired frames are retired, the rest are free (R232). -/
def Dev.lndPlace (d : Dev) (k : Nat) : Dev :=
  let gone := (d.mem.frames.flatMap (d.lndInFrame k)).dedup
  let d := { d with lnd := { d.lnd with retired := d.lnd.retired.filter (fun (b : Nat × Nat) => b.1 ≠ k) ++ gone.map (fun i => (k, i)) } }
  let free := d.lndCount k - gone.length
  let d := d.setF .ERR_LND_RETIRED_RETIRED gone.length k
  (d.setF .TIER_LND_FREE_FREE free k).setF .TIER_LND_FREE_LOW free k

end Sys2Proof.Machine
end

