-- ==== Sys2Proof/Machine/Objects.lean ====
section
/-! DEFINITION. Objects, versions and placements: the object table in HBM, what a launch resolves and claims, what a
commit writes, and what a placement is charged (R57 to R59, R203 to R211). -/

namespace Sys2Proof.Machine

/-! ## Object table entries (Table 10.2) -/

/-- Read an entry from its 32 bytes. -/
def ObjEntry.ofBytes (bs : List Byte) : ObjEntry :=
  let n := leNat bs
  { tier := field n 0 0 2, versionsM1 := field n 0 2 2, cur := field n 0 4 2, hasCur := field n 0 6 1 = 1
    array := field n 1 0 8, widthM1 := field n 2 0 8, size64 := field n 4 0 32, base := field n 8 0 48
    gen := field n 16 0 32
    members := if field n 0 0 2 = 2 then (slice bs 20 (min (field n 2 0 8 + 1) 8)).map BitVec.toNat else [] }

/-- The 32 bytes of an entry; members beyond the stripe are 0xFF, and none but a slab placement has any. -/
def ObjEntry.bytes (e : ObjEntry) : List Byte :=
  leBytes 1 (e.tier + e.versionsM1 * 4 + e.cur * 16 + b2n e.hasCur * 64) ++ leBytes 1 e.array ++ leBytes 1 e.widthM1 ++
  [0] ++ leBytes 4 e.size64 ++ leBytes 6 e.base ++ [0, 0] ++ leBytes 4 e.gen ++
  (if e.tier = 2 then (List.range 8).map (fun j => BitVec.ofNat 8 (e.members.getD j 255)) else List.replicate 8 0) ++
  List.replicate 4 0

/-- The entry's object is placed: TIER 3 counts as unplaced (R205). -/
def ObjEntry.placed (e : ObjEntry) : Bool := e.tier = 1 || e.tier = 2

/-- Two entries hold the same placement. -/
def ObjEntry.same (a b : ObjEntry) : Bool :=
  a.tier == b.tier && a.base == b.base && a.size64 == b.size64 && a.versionsM1 == b.versionsM1 && a.members == b.members

/-- Bytes of one version buffer (of each member, for a stripe). -/
def ObjEntry.size (e : ObjEntry) : Nat := e.size64 * 64

/-- Where buffer v begins: BASE + v * SIZE_64 * 64. -/
def ObjEntry.at (e : ObjEntry) (v : Nat) : Nat := e.base + v * e.size

/-- The entries a partition's object table holds. -/
def Dev.tableSize (d : Dev) (p : Nat) : Nat := 2 ^ d.f .TIER_OBJTAB_SIZE_LOG2 p

/-- The physical address of an object's entry. -/
def Dev.entryAddr (d : Dev) (p obj : Nat) : Nat := d.f .TIER_OBJTAB_BASE p * 4096 + obj * 32

/-- Read an object's entry; an index beyond the table has none (R205). -/
def Dev.entry (d : Dev) (p obj : Nat) : Except MemErr (Option ObjEntry) :=
  if d.tableSize p ≤ obj then .ok none
  else
    match d.physRead (d.entryAddr p obj) 32 with
    | .error e => .error e
    | .ok bs => .ok (some (ObjEntry.ofBytes bs))

/-- Write an object's entry. -/
def Dev.setEntry (d : Dev) (p obj : Nat) (e : ObjEntry) : Except MemErr Dev := d.physWrite (d.entryAddr p obj) e.bytes

/-! ## Reading and writing versions -/

/-- Read n bytes at an offset of member m of a version (R57, R210). -/
def Dev.verReadM (d : Dev) (v : Version) (m off n : Nat) : Dev × Except MemErr (List Byte) :=
  if v.entry.tier = 2 then (d, d.slabRead (v.entry.members.getD m 255) (v.entry.at v.buf + off) n)
  else d.vaRead v.part (v.entry.at v.buf + off) n

/-- Read n bytes at an offset of a version. -/
def Dev.verRead (d : Dev) (v : Version) (off n : Nat) : Dev × Except MemErr (List Byte) := d.verReadM v 0 off n

/-- Write bytes at an offset of member m of a version's buffer. -/
def Dev.verWriteM (d : Dev) (v : Version) (m off : Nat) (bs : List Byte) : Dev × Except MemErr Unit :=
  if v.entry.tier = 2 then
    match d.slabWrite (v.entry.members.getD m 255) (v.entry.at v.buf + off) bs with
    | .error e => (d, .error e)
    | .ok d => (d, .ok ())
  else d.vaWrite v.part (v.entry.at v.buf + off) bs

/-- Write bytes at an offset of a version's buffer. -/
def Dev.verWrite (d : Dev) (v : Version) (off : Nat) (bs : List Byte) : Dev × Except MemErr Unit := d.verWriteM v 0 off bs

/-- Two versions lie in the same buffer. -/
def Version.sameBuf (a b : Version) : Bool := a.part == b.part && a.entry.same b.entry && a.buf == b.buf

/-! ## Launch: inputs and claims (R57, R205, R206) -/

/-- A launched command in flight reads the version: it has resolved it and has not ended (R59). -/
def Dev.readBy (d : Dev) (v : Version) : Bool :=
  d.cmds.any (fun c => c.launched && !c.ended && c.inputs.any v.sameBuf)

/-- Some command but `id` holds a claim on the version's buffer. -/
def Dev.claimedBy (d : Dev) (id : Nat) (v : Version) : Bool :=
  d.cmds.any (fun c => c.id != id && !c.ended && c.claims.any (fun k => k.ver.sameBuf v))

/-- The first object index and the number of objects of a PLACE (Table 10.3). -/
def Cmd.placeRange (c : Cmd) : Nat × Nat := (c.arg 0 0 24, c.arg 15 0 6 + 1)

/-- A PLACE of the object has launched and has neither committed nor been killed (R206). -/
def Dev.placing (d : Dev) (p obj : Nat) : Bool :=
  d.cmds.any (fun c => c.opcode == 8 && c.part == p && c.launched && !c.ended &&
    decide (c.placeRange.1 ≤ obj ∧ obj < c.placeRange.1 + c.placeRange.2))

/-- The buffer an output of command `id` would claim: the lowest-numbered that may be (R206). -/
def Dev.claimBuf (d : Dev) (id p obj : Nat) (e : ObjEntry) : Option Nat :=
  if d.placing p obj then none
  else (List.range (e.versionsM1 + 1)).find? (fun v =>
    let ver : Version := ⟨p, obj, e, v⟩
    !(e.hasCur && e.cur == v) && !d.readBy ver && !d.claimedBy id ver)

/-- Resolve an input handle of a command: its entry must be placed and hold a current version (R205). -/
def Dev.resolve (d : Dev) (id p obj : Nat) : Dev × Option Version :=
  match d.entry p obj with
  | .error e => (d.memFail id 0 e, none)
  | .ok none => (d.failReport id 0 .faultProt .TIER_HANDLE 0 obj, none)
  | .ok (some e) =>
    if !e.placed then (d.failReport id 0 .faultProt .TIER_HANDLE 0 obj, none)
    else if !e.hasCur then (d.failReport id 0 .faultData .TIER_NO_VERSION 0 obj, none)
    else (d, some ⟨p, obj, e, e.cur⟩)

/-- What the launch finds of an output handle. -/
inductive ClaimResult where
  | failed
  | wait
  | claimed (v : Version)
  deriving DecidableEq, Repr

/-- Claim a buffer for an output handle of a command, or wait (R205, R206). -/
def Dev.claim (d : Dev) (id p obj : Nat) : Dev × ClaimResult :=
  match d.entry p obj with
  | .error e => (d.memFail id 0 e, .failed)
  | .ok none => (d.failReport id 0 .faultProt .TIER_HANDLE 0 obj, .failed)
  | .ok (some e) =>
    if !e.placed then (d.failReport id 0 .faultProt .TIER_HANDLE 0 obj, .failed)
    else
      match d.claimBuf id p obj e with
      | none => (d, .wait)
      | some v => (d, .claimed ⟨p, obj, e, v⟩)

/-- The version an input slot of a command resolved to. -/
def Cmd.input (c : Cmd) (obj : Nat) : Option Version := c.inputs.find? (fun v => v.obj == obj)

/-- The claim of a command on an object. -/
def Cmd.claimOf (c : Cmd) (obj : Nat) : Option Claim := c.claims.find? (fun k => k.ver.obj == obj)

/-! ## Charges (R209) -/

/-- HBM bytes a placement is charged. -/
def ObjEntry.hbmBytes (e : ObjEntry) : Nat := if e.tier = 1 then (e.versionsM1 + 1) * e.size else 0

/-- Slab bytes a placement is charged. -/
def ObjEntry.slabBytes (e : ObjEntry) : Nat := if e.tier = 2 then (e.versionsM1 + 1) * e.size * (e.widthM1 + 1) else 0

/-- HBM bytes charged to a partition. -/
def Dev.useHbm (d : Dev) (p : Nat) : Nat := sumNat ((d.mem.charges.filter (fun c => c.part == p)).map Charge.hbm)

/-- Slab bytes charged to a partition. -/
def Dev.useSlab (d : Dev) (p : Nat) : Nat := sumNat ((d.mem.charges.filter (fun c => c.part == p)).map Charge.slab)

/-- Drop the charges of old placements whose versions have all been released, and show the use (R209). -/
def Dev.settleCharges (d : Dev) (p : Nat) : Dev :=
  let keep := d.mem.charges.filter (fun c => c.live ||
    d.mem.superseded.any (fun s => s.ver.part == c.part && s.ver.obj == c.obj && s.ver.entry.same c.entry))
  let d := { d with mem := { d.mem with charges := keep } }
  (d.setF .TIER_USE_HBM_64K (ceilDiv (d.useHbm p) 65536) p).setF .TIER_USE_SLAB_KIB (ceilDiv (d.useSlab p) 1024) p

/-- An object takes a placement, or none: the old one stays charged while versions of it are held (R209). -/
def Dev.charge (d : Dev) (p obj : Nat) (e : ObjEntry) : Dev :=
  let old := mapIf (fun c => c.part == p && c.obj == obj) (fun c => { c with live := false }) d.mem.charges
  let new := if e.placed then [⟨p, obj, e, e.hbmBytes, e.slabBytes, true⟩] else []
  ({ d with mem := { d.mem with charges := old ++ new } }).settleCharges p

/-- A version is superseded; R59 releases it when no launched command reads it. -/
def Dev.supersede (d : Dev) (v : Version) : Dev :=
  { d with mem := { d.mem with superseded := d.mem.superseded ++ [⟨v⟩] } }

/-! ## Commit (R58, R207) -/

/-- Commit one claim: CUR takes the buffer, HAS_CUR is set, GEN increments, and the version before is superseded. -/
def Dev.commitClaim (d : Dev) (k : Claim) : Except MemErr Dev :=
  match d.entry k.ver.part k.ver.obj with
  | .error e => .error e
  | .ok none => .ok d
  | .ok (some e) =>
    if !e.same k.ver.entry then .ok d
    else
      let e' := { e with cur := k.ver.buf, hasCur := true, gen := (e.gen + 1) % 2 ^ 32 }
      match d.setEntry k.ver.part k.ver.obj e' with
      | .error e => .error e
      | .ok d => .ok (if e.hasCur then d.supersede ⟨k.ver.part, k.ver.obj, e, e.cur⟩ else d)

/-- Commit every claim together: if one table access fails, none is committed (R58). -/
def Dev.commitClaims (d : Dev) : List Claim → Except MemErr Dev
  | [] => .ok d
  | k :: ks =>
    match d.commitClaim k with
    | .error e => .error e
    | .ok d => d.commitClaims ks

end Sys2Proof.Machine
end

