-- ==== Sys2Proof/Machine/Queues.lean ====
section
/-! DEFINITION. The host's accesses to control space and their apertures, the queue registers, completion records and
the host link (R11 to R13, R41 to R49, R52, R68, R389). -/

namespace Sys2Proof.Machine

/-! ## Apertures (R13, R42, R45) -/

/-- The control-space address of a register's instance (R8). -/
def Reg.addrOf (r : Reg) (i j : Nat) : Nat := r.spec.addr + i * r.spec.s1 + j * r.spec.s2

/-- The privilege of queue q's binding as the number of the lowest aperture that reaches it: Owner for queue 0 and an
unbound queue (R44, R45). -/
def Dev.sqAperture (d : Dev) (q : Nat) : Nat :=
  if q = 0 then 0
  else match d.f .CMD_SQ_CFG_PRIV q with
    | 1 => 2
    | 2 => 1
    | _ => 0

/-- The lowest aperture that may write CMD_CQ_HEAD: the most privileged binding among the enabled submission queues that
name the completion queue; Owner when none does (R45). -/
def Dev.cqAperture (d : Dev) (c : Nat) : Nat :=
  let qs := (List.range 64).filter (fun q => d.flag .CMD_SQ_CTRL_ENABLE q && d.f .CMD_SQ_CFG_CQ q == c)
  if qs.isEmpty then 0 else qs.foldl (fun a q => min a (d.sqAperture q)) 2

/-- The aperture may write the register: the block's write aperture of Table 3.2, and in the CMD block each register's of
R45. No aperture writes the SCL block (R13). -/
def Dev.mayWrite (d : Dev) (ap : Aperture) (r : Reg) (i : Nat) : Bool :=
  let a := r.spec.addr
  match r with
  | .CMD_SQ_TAIL => apNum ap ≤ d.sqAperture i
  | .CMD_SQ_CTRL => apNum ap ≤ d.sqAperture i
  | .CMD_CQ_HEAD => apNum ap ≤ d.cqAperture i
  | .CMD_SQ_HEAD | .CMD_CQ_TAIL | .CMD_ACCT_WAIT | .CMD_ACCT_ENGINE | .CMD_ACCT_CMDS => true
  | _ =>
    match a / 1048576 with
    | 0x03 => if 0x100 ≤ a % 1048576 then apNum ap ≤ 1 else apNum ap = 0
    | 0x04 | 0x05 | 0x07 | 0x0C => apNum ap ≤ 1
    | 0x0F => false
    | n => if 0x10 ≤ n ∧ n < 0x1F then apNum ap ≤ 1 else apNum ap = 0

/-- The aperture may read the block of an address (Table 3.2). -/
def mayRead (ap : Aperture) (addr : Nat) : Bool :=
  match addr / 1048576 with
  | 0x09 | 0x0B => apNum ap ≤ 1
  | 0x1F => apNum ap = 0
  | _ => true

/-- The host can reach control space: the device is in READY and the host link is up (R359, R363; log 10). -/
def Dev.hostUp (d : Dev) : Bool := !d.boot.cold && !d.boot.halted && d.stage = 8 && d.link.up

/-- A host write of a register: outside DEV it is discarded while WARM_BUSY is set (R363); then comes the aperture check
(R13), then the register's own action. -/
def Dev.hostWrite (d : Dev) (ap : Aperture) (r : Reg) (i j : Nat) (g : Dev → Dev) : Dev :=
  if !d.hostUp then d
  else if d.flag .DEV_STATUS_WARM_BUSY && decide (1048576 ≤ r.spec.addr) then d
  else if !d.mayWrite ap r i then d.refuse ap (r.addrOf i j) true
  else g d

/-- A host read of a register: outside DEV it returns zero while WARM_BUSY is set (R363); a refused one returns zero and
is reported (R42); otherwise `g` gives the value and the read's side effect. -/
def Dev.hostRead (d : Dev) (ap : Aperture) (addr bytes : Nat) (g : Dev → Dev × BitVec 64) : Dev :=
  if !d.hostUp then d
  else if d.flag .DEV_STATUS_WARM_BUSY && decide (1048576 ≤ addr) then d.emit (.readData bytes 0)
  else if !mayRead ap addr then (d.refuse ap addr false).emit (.readData bytes 0)
  else
    let (d, v) := g d
    d.emit (.readData bytes v)

/-- A refusal by the register's own rule: the write is discarded and reported with FAULT_PROT. -/
def Dev.refuseReg (d : Dev) (ap : Aperture) (r : Reg) (i : Nat := 0) (j : Nat := 0) : Dev :=
  d.refuse ap (r.addrOf i j) true

/-- The RW bits of a register instance: bits [31:24] of PART_ARRAYS4 are reserved (R7). -/
def Reg.rwBits (r : Reg) (j : Nat) : BitVec 64 :=
  if r = .PART_ARRAYS ∧ j = 4 then 0xFFFFFF else BitVec.ofNat 64 r.spec.rw

/-- A write's plain action, field by field: RW bits take the written value, W1C bits clear where a 1 is written, RO bits
keep theirs (R10). -/
def Dev.plainWrite (d : Dev) (r : Reg) (v : BitVec 64) (i : Nat := 0) (j : Nat := 0) : Dev :=
  let old := d.reg r i j
  let rw := r.rwBits j
  let w1c := BitVec.ofNat 64 r.spec.w1c
  d.setReg r (((old &&& ~~~rw) ||| (v &&& rw)) &&& ~~~(v &&& w1c)) i j

/-! ## Submission and completion queue registers -/

/-- A submission queue's size (R44). -/
def Dev.sqSize (d : Dev) (q : Nat) : Nat := 2 ^ d.f .CMD_SQ_CFG_SIZE_LOG2 q

/-- A completion ring's size (R44). -/
def Dev.cqSize (d : Dev) (c : Nat) : Nat := 2 ^ d.f .CMD_CQ_CFG_SIZE_LOG2 c

/-- SIZE_LOG2 of a queue is 4 to 15 (R49). -/
def sizeOk (n : Nat) : Bool := 4 ≤ n && n ≤ 15

/-- The doorbell: TAIL takes the value modulo the ring size (R46, R389). -/
def Dev.sqTail (d : Dev) (q v : Nat) : Dev := d.setF .CMD_SQ_TAIL_TAIL (v % 65536 % d.sqSize q) q

/-- CMD_SQ_BASE: discarded and reported while the queue is enabled. -/
def Dev.sqBase (d : Dev) (ap : Aperture) (q : Nat) (v : BitVec 64) : Dev :=
  if d.flag .CMD_SQ_CTRL_ENABLE q then d.refuseReg ap .CMD_SQ_BASE q else d.plainWrite .CMD_SQ_BASE v q

/-- CMD_SQ_CFG: discarded and reported while the queue is enabled, and whole when PRIV is 3 on a queue of 1 to 63; it
clears the queue's accounting counters; on queue 0 PRIV reads 3 (R68). -/
def Dev.sqCfg (d : Dev) (ap : Aperture) (q : Nat) (v : BitVec 64) : Dev :=
  if d.flag .CMD_SQ_CTRL_ENABLE q then d.refuseReg ap .CMD_SQ_CFG q
  else if q ≠ 0 ∧ Fld.CMD_SQ_CFG_PRIV.of v = 3 then d.refuseReg ap .CMD_SQ_CFG q
  else
    let d := d.plainWrite .CMD_SQ_CFG v q
    let d := if q = 0 then d.setF .CMD_SQ_CFG_PRIV 3 q else d
    ((d.setReg .CMD_ACCT_WAIT 0 q).setReg .CMD_ACCT_ENGINE 0 q).setReg .CMD_ACCT_CMDS 0 q

/-- Set or clear CMD_SQ_CTRL.ENABLE: enabling needs a valid size and an enabled completion queue, and sets HEAD and TAIL
to 0 (R49). -/
def Dev.sqSetEnable (d : Dev) (ap : Aperture) (q : Nat) (on : Bool) : Dev :=
  if !on then d.setF .CMD_SQ_CTRL_ENABLE 0 q
  else if d.flag .CMD_SQ_CTRL_ENABLE q then d
  else if !sizeOk (d.f .CMD_SQ_CFG_SIZE_LOG2 q) || !d.flag .CMD_CQ_CFG_ENABLE (d.f .CMD_SQ_CFG_CQ q) then
    d.refuseReg ap .CMD_SQ_CTRL q
  else ((d.setF .CMD_SQ_CTRL_ENABLE 1 q).setF .CMD_SQ_HEAD_HEAD 0 q).setF .CMD_SQ_TAIL_TAIL 0 q

/-- A write of CMD_SQ_CTRL: the Owner writes every field; a lower aperture may only write 1 to HALTED with ENABLE at its
current value (R45). -/
def Dev.sqCtrl (d : Dev) (ap : Aperture) (q : Nat) (enable halted : Bool) : Dev :=
  if apNum ap ≠ 0 then
    if halted && (enable == d.flag .CMD_SQ_CTRL_ENABLE q) then d.setF .CMD_SQ_CTRL_HALTED 0 q
    else d.refuseReg ap .CMD_SQ_CTRL q
  else
    let d := if halted then d.setF .CMD_SQ_CTRL_HALTED 0 q else d
    d.sqSetEnable ap q enable

/-- CMD_CQ_BASE and CMD_CQ_NOTIFY: discarded and reported while the completion queue is enabled (R49). -/
def Dev.cqLocked (d : Dev) (ap : Aperture) (r : Reg) (c : Nat) (v : BitVec 64) : Dev :=
  if d.flag .CMD_CQ_CFG_ENABLE c then d.refuseReg ap r c else d.plainWrite r v c

/-- CMD_CQ_CFG (R49): while enabled, a change of SIZE_LOG2 is discarded and reported; enabling with an invalid size
leaves ENABLE at 0; enabling sets HEAD and TAIL to 0 and PHASE to 1. -/
def Dev.cqCfg (d : Dev) (ap : Aperture) (c : Nat) (v : BitVec 32) : Dev :=
  let v := v.zeroExtend 64
  let on := Fld.CMD_CQ_CFG_ENABLE.of v = 1
  if d.flag .CMD_CQ_CFG_ENABLE c then
    if Fld.CMD_CQ_CFG_SIZE_LOG2.of v ≠ d.f .CMD_CQ_CFG_SIZE_LOG2 c then d.refuseReg ap .CMD_CQ_CFG c
    else d.plainWrite .CMD_CQ_CFG v c
  else
    let d := (d.plainWrite .CMD_CQ_CFG v c).setF .CMD_CQ_CFG_ENABLE 0 c
    if !on then d
    else if !sizeOk (d.f .CMD_CQ_CFG_SIZE_LOG2 c) then d.refuseReg ap .CMD_CQ_CFG c
    else ((((d.setF .CMD_CQ_CFG_ENABLE 1 c).setF .CMD_CQ_HEAD_HEAD 0 c).setF .CMD_CQ_TAIL_TAIL 0 c).setF
      .CMD_CQ_TAIL_PHASE 1 c)

/-- CMD_CQ_HEAD takes the value modulo the ring size (R48, R389). -/
def Dev.cqHead (d : Dev) (c v : Nat) : Dev := d.setF .CMD_CQ_HEAD_HEAD (v % 65536 % d.cqSize c) c

/-! ## Rings (R389) -/

/-- A ring is full when its tail plus 1, modulo its size, is its head (R389). -/
def ringFull (size head tail : Nat) : Bool := (tail + 1) % size == head

/-- The completion ring has no free slot (R48). -/
def Dev.cqFull (d : Dev) (c : Nat) : Bool := ringFull (d.cqSize c) (d.f .CMD_CQ_HEAD_HEAD c) (d.f .CMD_CQ_TAIL_TAIL c)

/-- The completion queue of a submission queue. -/
def Dev.cqOf (d : Dev) (q : Nat) : Nat := d.f .CMD_SQ_CFG_CQ q

/-- A held completion record bound for a completion queue: the one that its submission queue names when the record is written,
also where CMD_SQ_CFG.CQ has changed since the command's fetch, which the spec leaves open (log 132). -/
def Dev.heldFor (d : Dev) (c : Nat) : Held → Bool
  | .completion k => d.cqOf k.queue == c
  | .report _ => false

/-- The device may write into host memory rings: the host link is up (R43) and the warm reset, if any, is over
(R328, R364). -/
def Dev.canWriteHost (d : Dev) : Bool := d.link.up && !d.boot.cold && !d.flag .DEV_STATUS_WARM_BUSY

/-! ## Completion records (R48, R52) -/

/-- The 32 bytes of a completion record with its PHASE (Table 3.5). -/
def Completion.bytes (k : Completion) (phase : Nat) : List Byte :=
  leBytes 1 k.status.num ++ leBytes 1 k.opcode ++ leBytes 2 k.job ++ leBytes 4 k.tag ++ leBytes 8 k.count ++
  leBytes 8 k.parts ++ leBytes 1 k.queue ++ [0] ++ leBytes 2 k.seq ++ [0, 0, 0] ++ leBytes 1 phase

/-- The first record of a list that meets a test, and the list without it. -/
def takeFirst (p : Held → Bool) : List Held → Option (Held × List Held)
  | [] => none
  | h :: hs =>
    if p h then some (h, hs)
    else match takeFirst p hs with
      | none => none
      | some (k, rest) => some (k, h :: rest)

/-- A ring's tail moves on: TAIL modulo the size, and the phase inverts at the wrap (R48). -/
def nextTail (size tail phase : Nat) : Nat × Nat := if tail + 1 = size then (0, 1 - phase) else (tail + 1, phase)

/-- A command's record has been written: it is in flight no more, and its queue's counters count it (R46, R68). -/
def Dev.recordWritten (d : Dev) (k : Completion) : Dev :=
  let d := d.addF .CMD_ACCT_CMDS_DONE 1 k.queue
  let d := match k.status with
    | .ok | .suspect => d
    | .killedPreempt => d.addF .CMD_ACCT_CMDS_PREEMPTED 1 k.queue
    | _ => d.addF .CMD_ACCT_CMDS_KILLED 1 k.queue
  { d with cmds := d.cmds.filter (fun c => c.id != k.cmd) }

/-- Write the oldest held record of a completion queue into its ring's next slot, and SIGNAL if asked (R48). -/
def Dev.writeCompletion (d : Dev) (c : Nat) : Dev :=
  if !d.canWriteHost || !d.flag .CMD_CQ_CFG_ENABLE c || d.cqFull c then d
  else
    match takeFirst (d.heldFor c) d.link.held with
    | some (.completion k, rest) =>
      let tail := d.f .CMD_CQ_TAIL_TAIL c
      let phase := d.f .CMD_CQ_TAIL_PHASE c
      let d := { d with link := { d.link with held := rest } }
      let d := d.emit (.memWrite (d.f .CMD_CQ_BASE_BASE c * 32 + tail * 32) (k.bytes phase))
      let d := if d.flag .CMD_CQ_CFG_NOTIFY_EN c && k.notify then
          d.emit (.signal (d.f .CMD_CQ_NOTIFY_ADDR c * 8) (BitVec.ofNat 64 tail)) else d
      let (t, ph) := nextTail (d.cqSize c) tail phase
      ((d.setF .CMD_CQ_TAIL_TAIL t c).setF .CMD_CQ_TAIL_PHASE ph c).recordWritten k
    | _ => d

/-- A command ends: its record joins the holding space, and the commands that wait on it go on, or die with its status if
it was killed (R46, R47, R52). A refusal at launch with BAD_DESCRIPTOR counts as a kill, which the spec leaves open
(log 133). -/
def Dev.endCmd (d : Dev) (id : Nat) (st : Status) (count parts : Nat) : Dev :=
  match d.cmd? id with
  | none => d
  | some c =>
    let k : Completion :=
      { cmd := id, status := st, opcode := c.opcode, job := c.job, tag := c.tag, count := count, parts := parts
        queue := c.queue, seq := c.firstSeq, notify := c.notify }
    let good := st = .ok ∨ st = .suspect
    let d := { d with link := { d.link with held := d.link.held ++ [Held.completion k] } }
    let d := d.updCmd id (fun c => { c with ended := true, ready := false, deltas := [] })
    let wake : Cmd → Cmd := fun w =>
      if good then { w with waitOn := none } else { w with waitOn := none, causes := w.causes ++ [st] }
    { d with cmds := mapIf (fun w => (w.waitOn == some id) && !w.ended) wake d.cmds }

/-! ## The host link (R43) -/

/-- The UCIe link goes down: reported; fetch stops and records are held while it is down (R43). -/
def Dev.linkGoesDown (d : Dev) : Dev :=
  if d.link.up then ({ d with link := { d.link with up := false } }).post .HOST_LINK_DOWN else d

/-- The UCIe link is up again (R43). -/
def Dev.linkComesUp (d : Dev) : Dev :=
  if d.stage = 8 ∧ d.boot.cold = false ∧ d.boot.halted = false then { d with link := { d.link with up := true } } else d

/-! ## Meanings -/

/-- CMD_SQ_TAIL. -/
def execCmdSqTail (ap : Aperture) (q : Fin 64) (v : BitVec 32) (s : State) : Host.Outcome State Fault Refusal :=
  s.act (fun d => d.hostWrite ap .CMD_SQ_TAIL q 0 (fun d => d.sqTail q v.toNat))

/-- CMD_SQ_CFG. -/
def execCmdSqCfg (ap : Aperture) (q : Fin 64) (v : BitVec 64) (s : State) : Host.Outcome State Fault Refusal :=
  s.act (fun d => d.hostWrite ap .CMD_SQ_CFG q 0 (fun d => d.sqCfg ap q v))

/-- SQ_ENABLE: CMD_SQ_CTRL written with ENABLE as given and HALTED 0. -/
def execSqEnable (ap : Aperture) (q : Fin 64) (on : Bool) (s : State) : Host.Outcome State Fault Refusal :=
  s.act (fun d => d.hostWrite ap .CMD_SQ_CTRL q 0 (fun d => d.sqCtrl ap q on false))

/-- SQ_RESUME: CMD_SQ_CTRL written with HALTED 1 and ENABLE as given. -/
def execSqResume (ap : Aperture) (q : Fin 64) (enable : Bool) (s : State) : Host.Outcome State Fault Refusal :=
  s.act (fun d => d.hostWrite ap .CMD_SQ_CTRL q 0 (fun d => d.sqCtrl ap q enable true))

/-- CQ_ENABLE: a write of CMD_CQ_CFG. -/
def execCqEnable (ap : Aperture) (c : Fin 16) (v : BitVec 32) (s : State) : Host.Outcome State Fault Refusal :=
  s.act (fun d => d.hostWrite ap .CMD_CQ_CFG c 0 (fun d => d.cqCfg ap c v))

/-- CMD_CQ_HEAD. -/
def execCmdCqHead (ap : Aperture) (c : Fin 16) (v : BitVec 32) (s : State) : Host.Outcome State Fault Refusal :=
  s.act (fun d => d.hostWrite ap .CMD_CQ_HEAD c 0 (fun d => d.cqHead c v.toNat))

/-- COMPLETION_RECORD_WRITE. -/
def execCompletionRecordWrite (c : Fin 16) (s : State) : Host.Outcome State Fault Refusal :=
  s.act (fun d => d.writeCompletion c)

/-- HOST_LINK_DOWN. -/
def execHostLinkDown (s : State) : Host.Outcome State Fault Refusal := s.act Dev.linkGoesDown

/-- HOST_LINK_UP. -/
def execHostLinkUp (s : State) : Host.Outcome State Fault Refusal := s.act Dev.linkComesUp

end Sys2Proof.Machine
end

