-- ==== Sys2Proof/Machine/Scaler.lean ====
section
/-! DEFINITION. The Scaler: what it counts and measures, apportionment rule version 1, tally periods and records, and
metrology commands (R342 to R352). -/

namespace Sys2Proof.Machine

/-- The Scaler meters: its region is verified and its session open (R351, R362). -/
def Dev.metering (d : Dev) : Bool := d.f .SCL_STATUS_STATE = 1 && d.scl.live

/-- Change the Scaler's state. -/
def Dev.updScl (d : Dev) (g : SclSt → SclSt) : Dev := { d with scl := g d.scl }

/-! ## What a period has counted (R343, R344) -/

/-- A pair's counts less others. -/
def SclPair.less (a b : SclPair) : SclPair :=
  { a with counts := a.counts - b.counts, hbm := a.hbm - b.hbm, eng := a.eng - b.eng, sw := a.sw - b.sw }

/-- The same job and partition. -/
def SclPair.same (a b : SclPair) : Bool := a.job == b.job && a.part == b.part

/-- What the open period has counted. -/
def SclSt.tally (s : SclSt) : SclTally := ⟨s.pairs, s.uHbm, s.uEng, s.uSw⟩

/-- What has been counted since an earlier tally of the period. -/
def SclTally.since (now was : SclTally) : SclTally :=
  let ps := now.pairs.map (fun p => match was.pairs.find? (SclPair.same p) with
    | some q => p.less q
    | none => p)
  ⟨ps.filter (fun p => decide (p.counts + p.hbm + p.eng + p.sw ≠ 0)), now.uHbm - was.uHbm, now.uEng - was.uEng,
    now.uSw - was.uSw⟩

/-! ## Apportionment (R345) -/

/-- The energy and grant bases of one pair. -/
def SclPair.grants (p : SclPair) : Nat := p.hbm + p.eng + p.sw

/-- One rail's energy m by a basis b over the pairs with an unattributed basis u: each pair's floor share, in the pairs'
order; nothing when the basis is empty (R345). -/
def share (m : Nat) (b : SclPair → Nat) (u : Nat) (ps : List SclPair) : List Nat :=
  let total := sumNat (ps.map b) + u
  ps.map (fun p => if total = 0 then 0 else m * b p / total)

/-- The sum of two lists of shares. -/
def addLists (a b : List Nat) : List Nat := List.zipWith (· + ·) a b

/-- Each pair's energy over the eight rails, in the pairs' order (R345, Table 18.3). The rails are in the order of R342. -/
def energies (perGrant : List Nat) (s : SclTally) (rails : List Nat) : List Nat :=
  let m := fun r => rails.getD r 0
  let k := fun c => perGrant.getD c 0
  let w : SclPair → Nat := fun p => p.hbm * k 0 + p.eng * k 1 + p.sw * k 2
  let uw := s.uHbm * k 0 + s.uEng * k 1 + s.uSw * k 2
  let shared := min (m 0) (sumNat (s.pairs.map w) + uw)
  let hbm := fun r => share (m r) SclPair.hbm s.uHbm s.pairs
  let sw := fun r => share (m r) SclPair.sw s.uSw s.pairs
  addLists (share shared w uw s.pairs)
    (addLists (share (m 0 - shared) SclPair.counts 0 s.pairs)
      (addLists (share (m 1) SclPair.counts 0 s.pairs)
        (addLists (sw 2) (addLists (sw 3) (addLists (hbm 5) (addLists (hbm 6) (hbm 7)))))))

/-! ## Periods and records (R346 to R348) -/

/-- The open period's energy of each rail. -/
def Dev.rails (d : Dev) : List Nat := (List.range 8).map (fun r => (d.reg .SCL_RAIL r).toNat)

/-- The body of a tally record of what a period has counted, before PREV and the signature (Table 18.4, Table 18.5). -/
def Dev.recordBytes (d : Dev) (t : SclTally) (last : Nat) (early : Bool) : List Byte :=
  let s := d.scl
  let rails := d.rails
  let es := (t.pairs.zip (energies s.perGrant t rails)).filter (fun e => e.1.counts ≠ 0 || e.1.grants ≠ 0 || e.2 ≠ 0)
  let es := sortBy (fun e => e.1.job * 16 + e.1.part) es
  let unattrib := sumNat rails - sumNat (es.map Prod.snd)
  let flags := b2n (s.seqNo = 0) + 2 * b2n early + 4 * b2n s.extended + 8 * b2n s.unaligned + 16 * b2n s.range
  leBytes 2 1 ++ leBytes 2 es.length ++ leBytes 4 (s.seqNo + 1) ++ leBytes 8 s.session ++ leBytes 8 s.start ++
  leBytes 8 last ++ leBytes 4 (d.f .SCL_VERSION_VERSION) ++ leBytes 2 d.fuses.seals ++ leBytes 1 (d.f .SCL_VERSION_RULE) ++
  leBytes 1 flags ++ leBytes 8 d.fuses.serial ++ List.replicate 64 0 ++ rails.flatMap (leBytes 8) ++
  leBytes 8 unattrib ++ leBytes 8 (sumNat (es.map (fun e => e.1.counts))) ++ List.replicate 64 0 ++
  es.flatMap (fun e => leBytes 2 e.1.job ++ leBytes 1 e.1.part ++ List.replicate 5 0 ++ leBytes 8 e.1.counts ++
    leBytes 8 e.2 ++ leBytes 8 e.1.grants)

/-- The device is not ALIGNED, so the open period carries UNALIGNED (R348). -/
def Dev.offRing (d : Dev) : Bool := d.f .RING_STATUS_STATE ≠ 1 || !d.ring.running

/-- Close the open period at its last count: its record is queued for signing, the next period starts at `next` with what the
present count has brought since, and settings that waited for the end take effect (R346, Table 18.6). -/
def Dev.closePeriod (d : Dev) (t : SclTally) (last next : Nat) (early : Bool) : Dev :=
  let bytes := d.recordBytes t last early
  let s := d.scl
  let rest := s.tally.since t
  let d := { d with scl :=
    { s with
      seqNo := s.seqNo + 1, closed := s.closed + sumNat d.rails, start := next, mark := next, extended := false, unaligned := d.offRing, range := false
      pairs := rest.pairs, uHbm := rest.uHbm, uEng := rest.uEng, uSw := rest.uSw, before := {}
      records := s.records ++ [{ bytes := bytes, signed := false }], unchecked := s.unchecked ++ [bytes], nextPeriod := none
      gain := s.nextCal.elim s.gain (·.1), offset := s.nextCal.elim s.offset (·.2.1)
      perGrant := s.nextCal.elim s.perGrant (·.2.2), nextCal := none } }
  let d := match s.nextPeriod with
    | some p => d.setF .SCL_PERIOD_PERIOD p
    | none => d
  (List.range 8).foldl (fun d r => d.setReg .SCL_RAIL 0 r) d

/-- A period end falls due, with what the period has counted up to its last count: closed while fewer than 8 records are held,
otherwise deferred (R346). -/
def Dev.endPeriod (d : Dev) (t : SclTally) (last next : Nat) (early : Bool) : Dev :=
  if d.scl.records.length < 8 then d.closePeriod t last next early
  else d.updScl (fun s => { s with extended := true, mark := next })

/-- A multiple of the tally period lies after the last handled end, at or before count c (R346). -/
def Dev.periodDue (d : Dev) (c : Nat) : Bool :=
  let p := d.f .SCL_PERIOD_PERIOD
  d.metering && decide (p ≠ 0) && decide (d.scl.mark / p < c / p)

/-- TALLY_PERIOD_END: the period ends at the count before the multiple (R346). -/
def Dev.tallyEnd (d : Dev) : Dev :=
  if d.periodDue d.count then
    let m := d.count / d.f .SCL_PERIOD_PERIOD * d.f .SCL_PERIOD_PERIOD
    d.endPeriod d.scl.before (m - 1) m false
  else d

/-- A count begins: what the period has counted by now (R346). -/
def Dev.markTally (d : Dev) : Dev := d.updScl (fun s => { s with before := s.tally })

/-- The count jumps from a to b: a jump forward past a multiple ends the period at a, one backward lets the multiples after b
end periods again, and the period of the jump is UNALIGNED (R346, R348). -/
def Dev.tallyJump (d : Dev) (a b : Nat) : Dev :=
  if !d.metering then d
  else
    let d := d.updScl (fun s => { s with unaligned := true })
    if b < a then d.updScl (fun s => { s with mark := min s.mark b, before := s.tally })
    else if d.periodDue b then d.endPeriod d.scl.tally a b false
    else d.markTally

/-! ## What is counted (R343, R344) -/

/-- Add to a pair's tallies; a pair that would be the 65th first ends the period early (R346). -/
def Dev.sclAdd (d : Dev) (job part : Nat) (g : SclPair → SclPair) : Dev :=
  let mine := fun (p : SclPair) => p.job == job && p.part == part
  if d.scl.pairs.any mine then d.updScl (fun s => { s with pairs := mapIf mine g s.pairs })
  else
    let d := if 64 ≤ d.scl.pairs.length then d.endPeriod d.scl.before (d.count - 1) d.count true else d
    d.updScl (fun s =>
      if s.pairs.any mine then { s with pairs := mapIf mine g s.pairs }
      else { s with pairs := s.pairs ++ [g (SclPair.mk job part 0 0 0 0)] })

/-- The kinds of grant units (R344). -/
inductive GrantKind where
  | hbm | engine | switch
  deriving DecidableEq, Repr

/-- A grant unit of a job, or unattributed where no local partition holds it (R344). -/
def Dev.sclGrant (d : Dev) (k : GrantKind) (part : Option Nat) : Dev :=
  if !d.metering then d
  else
    match part with
    | some p =>
      if d.valid p then
        d.sclAdd (d.jobOf p) p (fun q => match k with
          | .hbm => { q with hbm := q.hbm + 1 }
          | .engine => { q with eng := q.eng + 1 }
          | .switch => { q with sw := q.sw + 1 })
      else d.updScl (fun s => match k with
        | .hbm => { s with uHbm := s.uHbm + 1 }
        | .engine => { s with uEng := s.uEng + 1 }
        | .switch => { s with uSw := s.uSw + 1 })
    | none => d.updScl (fun s => match k with
        | .hbm => { s with uHbm := s.uHbm + 1 }
        | .engine => { s with uEng := s.uEng + 1 }
        | .switch => { s with uSw := s.uSw + 1 })

/-- Array-counts of a command's (job, partition) pair in one ring count (R343). -/
def Dev.sclArrays (d : Dev) (job part n : Nat) : Dev :=
  if !d.metering || n == 0 then d else d.sclAdd job part (fun q => { q with counts := q.counts + n })

/-- An ADC code, held at full scale outside its range (R342). -/
def adcCode (v : BitVec 16) (out : Bool) : Nat := if out then 0xFFFF else v.toNat

/-- SCALER_SAMPLE: one sample pair of a rail. A current or voltage sample outside the ADC range is held at full scale and
counted; the product of the pair, with the rail's constants applied, is integrated, and what is short of a whole uJ goes on
to the next sample (R342; log 15). -/
def Dev.sample (d : Dev) (rail : Nat) (i v : BitVec 16) (iOut vOut : Bool) : Dev :=
  if !d.metering then d
  else
    let d := if iOut || vOut then
        (d.addF .SCL_STATUS_RANGE (b2n iOut + b2n vOut)).updScl (fun s => { s with range := true }) else d
    let e := Config.sampleEnergy (d.scl.gain.getD rail 0) (d.scl.offset.getD rail 0) (adcCode i iOut * adcCode v vOut) +
      SMap.get 0 d.scl.part rail
    let d := d.updScl (fun s => { s with part := SMap.set 0 s.part rail (e % 2 ^ 32) })
    (d.setReg .SCL_RAIL (d.reg .SCL_RAIL rail + BitVec.ofNat 64 (e / 2 ^ 32)) rail).setReg .SCL_ENERGY
      (d.reg .SCL_ENERGY + BitVec.ofNat 64 (e / 2 ^ 32))

/-! ## Signing and delivery (R347, R349) -/

/-- TALLY_SIGNED: the oldest unsigned record takes PREV and its signature (R347). -/
def Dev.signTally (d : Dev) : Dev :=
  match d.scl.records.span SclRecord.signed with
  | (done, r :: rest) =>
    let body := patch r.bytes 48 d.scl.prev
    let bytes := body ++ rsaSign d.fuses.sclKey.n d.fuses.sclKey.d body
    d.updScl (fun s => { s with records := done ++ { bytes := bytes, signed := true } :: rest, prev := sha512 bytes })
  | (_, []) => d

/-- The tally ring has no free slot (R389). -/
def Dev.tallyFull (d : Dev) : Bool :=
  ringFull (2 ^ d.f .SEC_TALLY_CFG_SIZE_LOG2) (d.f .SEC_TALLY_HEAD_HEAD) (d.f .SEC_TALLY_TAIL_TAIL)

/-- TALLY_RECORD_WRITE: the oldest record, once signed, goes into the next slot (R349). -/
def Dev.writeTally (d : Dev) : Dev :=
  if !d.canWriteHost || !d.flag .SEC_TALLY_CFG_ENABLE || d.tallyFull then d
  else
    match d.scl.records with
    | ⟨bytes, true⟩ :: rest =>
      let tail := d.f .SEC_TALLY_TAIL_TAIL
      let d := (d.updScl (fun s => { s with records := rest })).emit
        (.memWrite (d.f .SEC_TALLY_BASE_BASE * 4096 + tail * 4096) bytes)
      let (t, ph) := nextTail (2 ^ d.f .SEC_TALLY_CFG_SIZE_LOG2) tail (d.f .SEC_TALLY_TAIL_PHASE)
      (d.setF .SEC_TALLY_TAIL_TAIL t).setF .SEC_TALLY_TAIL_PHASE ph
    | _ => d

/-- SEC_TALLY_CFG (R349): a valid SIZE_LOG2 is 2 to 12; it cannot change while the ring is enabled; enabling sets HEAD
and TAIL to 0 and the phase to 1. -/
def Dev.tallyCfg (d : Dev) (ap : Aperture) (v : BitVec 32) : Dev :=
  let v := v.zeroExtend 64
  let size := Fld.SEC_TALLY_CFG_SIZE_LOG2.of v
  let on := Fld.SEC_TALLY_CFG_ENABLE.of v = 1
  if d.flag .SEC_TALLY_CFG_ENABLE then
    if size ≠ d.f .SEC_TALLY_CFG_SIZE_LOG2 then d.refuseReg ap .SEC_TALLY_CFG else d.plainWrite .SEC_TALLY_CFG v
  else
    let d := (d.plainWrite .SEC_TALLY_CFG v).setF .SEC_TALLY_CFG_ENABLE 0
    if !on || !(2 ≤ size && size ≤ 12) then d
    else (((d.setF .SEC_TALLY_CFG_ENABLE 1).setF .SEC_TALLY_HEAD_HEAD 0).setF .SEC_TALLY_TAIL_TAIL 0).setF
      .SEC_TALLY_TAIL_PHASE 1

/-- SEC_TALLY_BASE: discarded and reported while the ring is enabled. -/
def Dev.tallyBase (d : Dev) (ap : Aperture) (v : BitVec 64) : Dev :=
  if d.flag .SEC_TALLY_CFG_ENABLE then d.refuseReg ap .SEC_TALLY_BASE else d.plainWrite .SEC_TALLY_BASE v

/-- SEC_TALLY_HEAD takes the value modulo the ring size (R389). -/
def Dev.tallyHead (d : Dev) (v : Nat) : Dev := d.setF .SEC_TALLY_HEAD_HEAD (v % 65536 % 2 ^ d.f .SEC_TALLY_CFG_SIZE_LOG2)

/-! ## Sessions and metrology commands (R348, R352) -/

/-- Draw a new metrology nonce (R352). -/
def Dev.drawNonce (d : Dev) : Dev :=
  let (k, d) := d.fresh
  let n := (Config.random256 k).toNat
  (List.range 4).foldl (fun d i => d.setReg .SCL_NONCE (BitVec.ofNat 64 (bits n (64 * i) 64)) i) d

/-- The Scaler opens a session at READY, if its region was verified (R348, R351, R362). -/
def Dev.openSession (d : Dev) : Dev :=
  if d.f .SCL_STATUS_STATE ≠ 1 then d
  else
    let (k, d) := d.fresh
    d.updScl (fun s => { s with live := true, session := (Config.random64 k).toNat, seqNo := 0, closed := 0, prev := List.replicate 64 0, start := d.count
                                mark := d.count, unaligned := d.offRing, before := s.tally })

/-- The nonce registers as one number. -/
def Dev.nonce (d : Dev) : BitVec 256 :=
  BitVec.ofNat 256 ((List.range 4).foldl (fun a i => a + (d.reg .SCL_NONCE i).toNat * 2 ^ (64 * i)) 0)

/-- A metrology command is refused: reported with its cause, and a new nonce is drawn (R352). -/
def Dev.metRefuse (d : Dev) (cause : Nat) : Dev := (d.post .SCL_MET_REFUSED 0 cause).drawNonce

/-- SEC_MET_CMD: start the fetch of a metrology command, or refuse it while one is in progress (R352). -/
def Dev.metStart (d : Dev) (v : BitVec 64) : Dev :=
  let d := d.setReg .SEC_MET_CMD v
  if d.flag .SCL_STATUS_MET_BUSY then d.metRefuse 4
  else
    let a := Fld.SEC_MET_CMD_ADDR.of v
    let len := Fld.SEC_MET_CMD_LEN_64.of v * 64
    let n := d.nonce
    ((d.setF .SCL_STATUS_MET_BUSY 1).updScl (fun s => { s with met := some (a, len, n) })).emitRead a len

/-- Why a fetched metrology command is refused, or nothing: its key and signature, its nonce, its KIND and payload, then
the seal counter (R352; log 16 for the key record and the order). -/
def Dev.metCheck (d : Dev) (nonce : BitVec 256) (bytes : List Byte) (region : Option ScalerRegion) : Option Nat :=
  let body := bytes.take (bytes.length - 1024)
  let modulus := slice bytes (bytes.length - 1024) 512
  let sig := beNat (slice bytes (bytes.length - 512) 512)
  let record := modulus ++ leBytes 4 65537 ++ List.replicate 60 0
  let kind := leAt body 2 1
  let period := leAt body 64 8
  if sha512 record ≠ d.fuses.metHash ∨ rsaVerify (leNat modulus) 65537 sig body = false then some 0
  else if leAt body 32 32 ≠ nonce.toNat then some 1
  else if leAt body 0 2 ≠ 1 ∨ (kind = 1 ∧ ¬(10000000 ≤ period ∧ period ≤ 6000000000)) ∨
      (kind ≠ 1 ∧ kind ≠ 2 ∧ kind ≠ 3) ∨ (kind ≠ 1 ∧ region = none) then some 2
  else if 255 ≤ d.fuses.seals then some 3
  else none

/-- METROLOGY_COMMAND_DONE: the command in progress is accepted or refused (R352, Table 18.6). -/
def Dev.metDone (d : Dev) (bytes : List Byte) (region : Option ScalerRegion) : Dev :=
  match d.scl.met with
  | none => d
  | some (_, len, nonce) =>
    let bytes := padTo len (bytes.take len)
    let d := (d.setF .SCL_STATUS_MET_BUSY 0).updScl (fun s => { s with met := none })
    match d.metCheck nonce bytes region with
    | some cause => d.metRefuse cause
    | none =>
      let kind := leAt bytes 2 1
      let payload := slice bytes 64 (len - 1088)
      let d := d.emit (if kind = 3 then .flashWrite 0x07F00000 payload else .regionWrite kind payload)
      let seals := d.fuses.seals + 1
      let d := ({ d with fuses := { d.fuses with seals := seals } }).setF .SCL_SEAL_COUNT seals
      let d := d.updScl (fun s =>
        if kind = 1 then { s with nextPeriod := some (leAt bytes 64 8) }
        else if kind = 2 then { s with nextCal := region.map (fun r => (r.gain, r.offset, r.perGrant)) }
        else s)
      (d.post .SCL_SEAL_EVENT).drawNonce

/-! ## Meanings -/

/-- SCALER_SAMPLE. -/
def execScalerSample (rail : Fin 8) (i v : BitVec 16) (out : OutOfRange) (s : State) : Host.Outcome State Fault Refusal :=
  s.act (fun d => d.sample rail i v out.current out.voltage)

/-- TALLY_PERIOD_END. -/
def execTallyPeriodEnd (s : State) : Host.Outcome State Fault Refusal := s.act Dev.tallyEnd

/-- TALLY_SIGNED. -/
def execTallySigned (s : State) : Host.Outcome State Fault Refusal := s.act Dev.signTally

/-- TALLY_RECORD_WRITE. -/
def execTallyRecordWrite (s : State) : Host.Outcome State Fault Refusal := s.act Dev.writeTally

/-- SEC_TALLY_CFG. -/
def execSecTallyCfg (ap : Aperture) (v : BitVec 32) (s : State) : Host.Outcome State Fault Refusal :=
  s.act (fun d => d.hostWrite ap .SEC_TALLY_CFG 0 0 (fun d => d.tallyCfg ap v))

/-- SEC_TALLY_HEAD. -/
def execSecTallyHead (ap : Aperture) (v : BitVec 32) (s : State) : Host.Outcome State Fault Refusal :=
  s.act (fun d => d.hostWrite ap .SEC_TALLY_HEAD 0 0 (fun d => d.tallyHead v.toNat))

/-- SEC_MET_CMD. -/
def execSecMetCmd (ap : Aperture) (v : BitVec 64) (s : State) : Host.Outcome State Fault Refusal :=
  s.act (fun d => d.hostWrite ap .SEC_MET_CMD 0 0 (fun d => d.metStart v))

/-- METROLOGY_COMMAND_DONE. -/
def execMetrologyCommandDone (bytes : List Byte) (region : Option ScalerRegion) (s : State) :
    Host.Outcome State Fault Refusal :=
  s.engine (fun d => d.metDone bytes region)

end Sys2Proof.Machine
end

