-- ==== Sys2Proof/Machine/Security.lean ====
section
/-! DEFINITION. The security controller's services in READY: attestation quotes, the certificate chain and flash writes
(R351, R354, R355). -/

namespace Sys2Proof.Machine

/-- The settings fingerprint: fuse fields as stored, SUB and OVERRIDE read live (R319). -/
def Dev.fingerprint (d : Dev) : BitVec 64 :=
  let sub := ofBitList ((List.range 16).filter (fun p => d.flag .MA_FMT_PART_SUB p))
  let img := fun (r : Reg) p => SMap.get r.dflt d.boot.settings (r.code p 0)
  let ovr := ofBitList ((List.range 16).filter (fun p =>
    d.reg .SK_PART_CFG p != img .SK_PART_CFG p ||
    d.f .MA_PART_MODE_SHAPE p != Fld.MA_PART_MODE_SHAPE.of (img .MA_PART_MODE p)))
  BitVec.ofNat 64 (d.f .DEV_FINGERPRINT_STEPPING + d.f .DEV_FINGERPRINT_GRADE * 2 ^ 8 +
    d.f .DEV_FINGERPRINT_SRGEN * 2 ^ 16 + sub * 2 ^ 24 + ovr * 2 ^ 40)

/-! ## Quotes (R354) -/

/-- SEC_QUOTE_CTRL: GO starts a quote, or is discarded and reported while one is in progress. -/
def Dev.quoteCtrl (d : Dev) (v : BitVec 64) : Dev :=
  let d := d.plainWrite .SEC_QUOTE_CTRL v
  if Fld.SEC_QUOTE_CTRL_GO.of v ≠ 1 then d
  else if d.flag .SEC_QUOTE_CTRL_BUSY then d.post .SEC_QUOTE_REFUSED
  else
    let a := d.f .SEC_QUOTE_CTRL_ADDR * 64
    let d := { d with sec := { d.sec with quote := some a } }
    (d.setF .SEC_QUOTE_CTRL_BUSY 1).emit (.memRead a 64)

/-- Bytes 0 to 255 of a quote (Table 18.8). -/
def Dev.quoteBytes (d : Dev) (nonce : Line) : List Byte :=
  let state := d.f .RING_STATUS_STATE + 4 * b2n d.fuses.ownerHash.isSome + 8 * d.f .SEC_DBG_CFG_OPEN
  let version := if d.f .SCL_STATUS_STATE = 2 then 0 else d.f .SCL_VERSION_VERSION
  leBytes 2 1 ++ List.replicate 6 0 ++ leBytes 8 d.fuses.serial ++ leBytes 64 nonce.toNat ++
  padTo 64 (d.boot.digest.take 64) ++ leBytes 8 d.fingerprint.toNat ++ leBytes 4 version ++ leBytes 2 d.fuses.seals ++
  leBytes 1 state ++ leBytes 1 d.fuses.rollback ++ leBytes 8 d.count ++ List.replicate 88 0

/-- QUOTE_DONE: the SC writes the signed quote after the nonce and sets DONE. -/
def Dev.quoteDone (d : Dev) (nonce : Line) : Dev :=
  match d.sec.quote with
  | none => d
  | some a =>
    if !d.link.up then d
    else
      let body := d.quoteBytes nonce
      let d := { d with sec := { d.sec with quote := none } }
      let d := d.emit (.memWrite (a + 64) (body ++ rsaSign d.fuses.idKey.n d.fuses.idKey.d body))
      (d.setF .SEC_QUOTE_CTRL_BUSY 0).setF .SEC_QUOTE_CTRL_DONE 1

/-- A read of SEC_CERT: word 0 is the chain's length in bytes, the next its DER bytes; WORD then advances (R354). -/
def Dev.certRead (d : Dev) : Dev × BitVec 64 :=
  let w := d.f .SEC_CERT_SEL_WORD
  let v := if w = 0 then d.fuses.cert.length else leAt d.fuses.cert (4 * (w - 1)) 4
  (d.setF .SEC_CERT_SEL_WORD (w + 1), BitVec.ofNat 64 v)

/-! ## Flash writes (R351, R355) -/

/-- The range touches the Scaler region or passes the end of the flash. -/
def flashBad (off len : Nat) : Bool := decide (0x08000000 < off + len ∨ (0 < len ∧ 0x07F00000 < off + len ∧ off < 0x08000000))

/-- SEC_FLASH_CTRL: GO starts erasing and writing the range, or is refused and reported. -/
def Dev.flashCtrl (d : Dev) (ap : Aperture) (v : BitVec 64) : Dev :=
  let d := d.plainWrite .SEC_FLASH_CTRL v
  if Fld.SEC_FLASH_CTRL_GO.of v ≠ 1 then d
  else
    let off := d.f .SEC_FLASH_CTRL_DEST_64 * 64
    let len := d.f .SEC_FLASH_CTRL_LEN_64 * 64
    if d.flag .SEC_FLASH_CTRL_BUSY || flashBad off len then
      (d.setF .SEC_FLASH_CTRL_REFUSED 1).refuseReg ap .SEC_FLASH_CTRL
    else
      let src := d.f .SEC_FLASH_SRC_ADDR * 64
      let d := { d with sec := { d.sec with flash := some (off, len, src) } }
      (d.setF .SEC_FLASH_CTRL_BUSY 1).emitRead src len

/-- FLASH_WRITE_DONE: the range holds the data read from host memory, and DONE is set. -/
def Dev.flashDone (d : Dev) (data : List Byte) : Dev :=
  match d.sec.flash with
  | none => d
  | some (off, len, _) =>
    let d := { d with sec := { d.sec with flash := none } }
    let d := d.emit (.flashWrite off (padTo len (data.take len)))
    (d.setF .SEC_FLASH_CTRL_BUSY 0).setF .SEC_FLASH_CTRL_DONE 1

/-! ## Meanings -/

/-- SEC_QUOTE_CTRL_GO. -/
def execSecQuoteCtrlGo (ap : Aperture) (v : BitVec 64) (s : State) : Host.Outcome State Fault Refusal :=
  s.act (fun d => d.hostWrite ap .SEC_QUOTE_CTRL 0 0 (fun d => d.quoteCtrl v))

/-- QUOTE_DONE. -/
def execQuoteDone (nonce : Line) (s : State) : Host.Outcome State Fault Refusal := s.engine (fun d => d.quoteDone nonce)

/-- SEC_CERT: a 32-bit read of SEC_CERT. -/
def execSecCert (ap : Aperture) (s : State) : Host.Outcome State Fault Refusal :=
  s.act (fun d => d.hostRead ap (Reg.SEC_CERT.addrOf 0 0) 4 Dev.certRead)

/-- SEC_FLASH_GO. -/
def execSecFlashGo (ap : Aperture) (v : BitVec 64) (s : State) : Host.Outcome State Fault Refusal :=
  s.act (fun d => d.hostWrite ap .SEC_FLASH_CTRL 0 0 (fun d => d.flashCtrl ap v))

/-- FLASH_WRITE_DONE. -/
def execFlashWriteDone (data : List Byte) (s : State) : Host.Outcome State Fault Refusal := s.act (fun d => d.flashDone data)

end Sys2Proof.Machine
end

