-- ==== Sys2Proof/Machine/Arbiter.lean ====
section
/-! DEFINITION. Lottery arbitration: tickets, draws, grant units and parking, emergency requesters and the debug port (R308
to R316). A grant is in its unit from its draw until the step that uses it, or until the arbiter's next draw (log 125). -/

namespace Sys2Proof.Machine

/-- An arbiter's class, from its ID (R308). -/
def arbClass (a : Nat) : Nat := a / 4096

/-- The arbiters of each class (Table 15.1). -/
def arbCount : Nat → Nat
  | 0 => 16
  | 1 => 128
  | 2 => 152
  | 3 => 19
  | 4 => 6
  | 5 => 44
  | 6 => 44
  | _ => 0

/-- The arbiter exists (Table 15.1). -/
def arbExists (a : Nat) : Bool := a % 4096 < arbCount (arbClass a)

/-- What R309 loads into arbiter i's LFSR from a seed. -/
def lfsrLoad (seed i : Nat) : Nat :=
  let x := Nat.xor seed (i * 0x9E3779B9 % 2 ^ 32) % 2 ^ 32
  if x = 0 then 1 else x

/-- One advance of the LFSR: Galois form, x^32 + x^22 + x^2 + x + 1 (R309). -/
def lfsrStep (x : Nat) : Nat := if x % 2 = 1 then Nat.xor (x / 2) 0x80200003 else x / 2

/-- The LFSR of an arbiter. -/
def Dev.lfsr (d : Dev) (a : Nat) : Nat := let x := SMap.get 0 d.arb.lfsr a; if x = 0 then lfsrLoad d.arb.seed a else x

/-- Load every LFSR from ARB_SEED (R309). -/
def Dev.reseed (d : Dev) : Dev := { d with arb := { d.arb with seed := d.f .ARB_SEED_SEED, lfsr := [] } }

/-- The LINK share of a job's partition, or TRANSIT_TICKETS (R266). -/
def Dev.linkTicket (d : Dev) (job : Nat) : Nat :=
  match d.partOf job with
  | some p => d.f .PART_SHARE_LINK p
  | none => d.f .FAB_SW_CFG_TRANSIT_TICKETS

/-- The ticket of an input of a leaf arbiter (Table 15.1). An HBM stop's device-level input is number 16, a switch
input's inputs are job IDs (log 17). -/
def Dev.leafTicket (d : Dev) (cls input : Nat) : Nat :=
  match cls with
  | 0 => if input < 16 then d.f .PART_SHARE_HBM input else d.f .ARB_FIXED_DEV
  | 2 => match input with
    | 0 => d.f .ARB_TICKETS_ARRAY
    | 1 => d.f .ARB_TICKETS_STAGE
    | 2 => d.f .ARB_TICKETS_STORE
    | _ => d.f .ARB_TICKETS_OTHER
  | 3 => d.f .PART_SHARE_ENGINE input
  | 4 => d.f .PART_SHARE_ENGINE input
  | 5 => d.linkTicket input
  | _ => 1

/-- The ticket of a request, 0 acting as 1; an upper level inherits the active tickets beneath it, or takes its fixed
value (R310, R312). -/
def Dev.ticket (d : Dev) (cls : Nat) (r : ArbReq) : Nat :=
  max 1 (match cls with
    | 1 => if d.flag .ARB_CFG_INHERIT then sumNat (r.lower.map (fun i => max 1 (d.leafTicket 0 i)))
           else d.f .ARB_FIXED_HBM_STOP
    | 6 => if d.flag .ARB_CFG_INHERIT then sumNat (r.lower.map (fun i => max 1 (d.leafTicket 5 i)))
           else d.f .ARB_FIXED_SW_INPUT
    | _ => d.leafTicket cls r.input)

/-- The first input at which the sum of tickets exceeds r (R310). -/
def lotteryWalk (r : Nat) : Nat → List (Nat × Nat) → Option Nat
  | _, [] => none
  | acc, (i, t) :: rest => if r < acc + t then some i else lotteryWalk r (acc + t) rest

/-- A draw of an arbiter among active inputs with their tickets, in ascending input number (R310). -/
def Dev.draw (d : Dev) (a : Nat) (reqs : List (Nat × Nat)) : Dev × Option Nat :=
  let reqs := sortBy Prod.fst reqs
  if reqs.isEmpty then (d, none)
  else
    let x := lfsrStep (d.lfsr a)
    let total := sumNat (reqs.map Prod.snd)
    let d := { d with arb := { d.arb with lfsr := SMap.set 0 d.arb.lfsr a x } }
    (d, lotteryWalk (x * total / 2 ^ 32) 0 reqs)

/-- The current or parked owner of an arbiter (R311). -/
def Dev.grantOf (d : Dev) (a : Nat) : Option Grant := d.arb.grants.find? (fun g => g.arb == a)

/-- Change the arbiters. -/
def Dev.updArb (d : Dev) (g : ArbSt → ArbSt) : Dev := { d with arb := g d.arb }

/-- Give an arbiter's resource to an input. -/
def Dev.setGrant (d : Dev) (a : Nat) (g : Option Grant) : Dev :=
  d.updArb (fun x => { x with grants := x.grants.filter (fun g => g.arb != a) ++ g.toList })

/-- A grant unit ends, and the grant is parked on its owner (R311). -/
def Dev.parkGrant (d : Dev) (a : Nat) : Dev := d.setGrant a ((d.grantOf a).map (fun g => { g with busy := false }))

/-- The owner whose unit is in progress and not suspended. -/
def Dev.owner? (d : Dev) (a : Nat) : Option Grant := (d.grantOf a).filter (fun g => g.busy && !g.suspended)

/-- Grant among active inputs: the parked owner alone takes the resource without a draw, otherwise a draw is made
(R310, R311). -/
def Dev.arbitrate (d : Dev) (a : Nat) (reqs : List (Nat × Nat)) : Dev × Option Nat :=
  match d.grantOf a, reqs with
  | some g, [(i, _)] => if g.input = i then (d, some i) else d.draw a reqs
  | _, _ => d.draw a reqs

/-- A partition has arrays in the column of a Skidder. -/
def Dev.inColumn (d : Dev) (p col : Nat) : Bool :=
  (List.range 8).any (fun k => bit (d.f .PART_ARRAYS_ARRAYS p ((8 * col + k) / 32)) ((8 * col + k) % 32))

/-- The valid partitions with arrays in the column of a Skidder (R16, R186). -/
def Dev.columnParts (d : Dev) (col : Nat) : List Nat := (List.range 16).filter (fun p => d.valid p && d.inColumn p col)

/-- The inputs that Table 15.1 gives an arbiter. -/
def Dev.arbInput (d : Dev) (a i : Nat) : Bool :=
  match arbClass a with
  | 0 => i ≤ 16
  | 1 => i < 2
  | 2 => i < 4
  | 3 => i < 16 && d.inColumn i (a % 4096)
  | 4 => i < 16
  | 5 => i < 65536
  | 6 => i < 44
  | _ => false

/-- The requests of inputs that the arbiter has; an upper-level input with nothing active beneath it does not request
(R308, R312). -/
def Dev.requests (d : Dev) (a : Nat) (active : List ArbReq) : List ArbReq :=
  active.filter (fun r => d.arbInput a r.input && !((arbClass a == 1 || arbClass a == 6) && r.lower.isEmpty))

/-- An emergency requester holds an arbiter's resource. -/
def Dev.arbHeld (d : Dev) (a : Nat) : Bool := d.arb.emergency.any (fun e => e.1 == a)

/-- Draw among the requests of an arbiter: the winner's unit begins, and is charged to its partition at the metered
arbiters (R344). -/
def Dev.grantAmong (d : Dev) (a : Nat) (active : List ArbReq) : Dev :=
  let cls := arbClass a
  let active := d.requests a active
  let (d, win) := d.arbitrate a (active.map (fun r => (r.input, d.ticket cls r)))
  match win with
  | none => d
  | some i =>
    let cmd := (active.find? (fun r => r.input == i)).bind ArbReq.cmd
    let d := d.setGrant a (some ⟨a, i, cmd, true, false⟩)
    match cls with
    | 0 => d.sclGrant .hbm (if i < 16 then some i else none)
    | 3 => d.sclGrant .engine (some i)
    | 4 => d.sclGrant .engine (some i)
    | _ => d

/-- LOTTERY_DRAW: the arbiter's unit, if one was in progress, has ended; one active input is granted, or, with none, the
grant stays parked (R310, R311). -/
def Dev.lottery (d : Dev) (a : Nat) (active : List ArbReq) : Dev :=
  if !arbExists a || d.arbHeld a then d else (d.parkGrant a).grantAmong a active

/-- An emergency requester takes a resource: an owner in the middle of its unit is suspended, which is counted
(R313). -/
def Dev.arbTake (d : Dev) (a : Nat) : Dev :=
  let d := d.updArb (fun x => { x with emergency := x.emergency ++ [(a, d.ring.edges)] })
  match d.owner? a with
  | none => d
  | some g =>
    let d := d.setGrant a (some { g with suspended := true })
    if arbClass a = 1 then d.addF .ARB_EMERG_REFRESH 1 else d.addF .ARB_EMERG_DEBUG 1

/-- It releases the resource: the suspended owner's unit restarts from its beginning, without a draw (R313). -/
def Dev.arbRelease (d : Dev) (a : Nat) : Dev :=
  if !d.arbHeld a then d
  else
    let d := d.updArb (fun x => { x with emergency := x.emergency.filter (fun e => e.1 != a) })
    d.setGrant a ((d.grantOf a).map (fun g => { g with suspended := false }))

/-- The debug port's holds of slab ports end after 64 array cycles, 32 ns, at the latest (R313). -/
def Dev.endHolds (d : Dev) : Dev :=
  ((d.arb.emergency.filter (fun e => arbClass e.1 == 2 && decide (e.2 + 4 ≤ d.ring.edges))).map Prod.fst).foldl Dev.arbRelease d

/-! ## The debug port (R314) -/

/-- The debug port is usable: TRST_N high, ALLOW and OPEN set. -/
def Dev.dbgUsable (d : Dev) (trst : Bool) : Bool := trst && d.flag .SEC_DBG_CFG_ALLOW && d.flag .SEC_DBG_CFG_OPEN

/-- The port is no longer usable: it gives up its captures and what it holds. -/
def Dev.dbgStop (d : Dev) : Dev :=
  let d := d.updArb (fun x => { x with capture := [] })
  ((d.arb.emergency.filter (fun e => arbClass e.1 != 1)).map Prod.fst).foldl Dev.arbRelease d

/-- SEC_DBG_CFG: setting OPEN from 0 to 1 posts SEC_DEBUG_OPEN. -/
def Dev.dbgCfg (d : Dev) (v : BitVec 64) : Dev :=
  let was := d.flag .SEC_DBG_CFG_OPEN
  let d := d.plainWrite .SEC_DBG_CFG v
  if !d.flag .SEC_DBG_CFG_OPEN then d.dbgStop else if !was then d.post .SEC_DEBUG_OPEN else d

/-- The line that SLAB_ACCESS reads or writes. A double error in a word read fails as R218 states, for no command; a line
written whole ends the errors in it. -/
def Dev.slabLine (d : Dev) (arr off : Nat) (write : Bool) (line : Line) : Dev :=
  let a := off / 64 * 64
  if write then
    { d with mem := { d.mem with
        slab := writeBytes d.mem.slab (slabKey arr a) (leBytes 64 line.toNat)
        slabBad := d.mem.slabBad.filter (fun w => !overlaps w 8 (slabKey arr a) 64) } }
  else
    match d.mem.slabBad.find? (fun w => overlaps w 8 (slabKey arr a) 64) with
    | some w => d.slabUe none arr (w % 4194304)
    | none => d.emit (.slabLine (readBytes d.mem.slab (slabKey arr a) 64))

/-- SLAB_ACCESS: the port takes the array's slab port, reads or writes one 64-byte line, and releases it; a read answers
the line on the test port. TRST_N low resets the port. -/
def Dev.slabAccess (d : Dev) (trst : Bool) (arr off : Nat) (write : Bool) (line : Line) : Dev :=
  if !trst then d.dbgStop
  else if !d.dbgUsable trst then d
  else
    let a := 2 * 4096 + arr
    let d := d.addF .SEC_DBG_CFG_OPS 1
    let d := if d.arbHeld a then d else d.arbTake a
    (d.slabLine arr off write line).arbRelease a

/-- SWITCH_CAPTURE: the port takes the output until the next billet leaves it, which is copied into the test register. -/
def Dev.switchCapture (d : Dev) (trst : Bool) (port : Nat) : Dev :=
  if !trst then d.dbgStop
  else if !d.dbgUsable trst then d
  else
    let a := 6 * 4096 + port
    let d := (d.addF .SEC_DBG_CFG_OPS 1).updArb (fun x => { x with capture := x.capture.filter (· != port) ++ [port] })
    if d.arbHeld a then d else d.arbTake a

/-- EMERGENCY_GRANT: HBM refresh takes a channel, the debug port a slab port or a switch output (R313, R314). -/
def Dev.emergencyGrant (d : Dev) (a : Nat) (trst : Bool) : Dev :=
  let cls := arbClass a
  let may := (cls = 1) ∨ ((cls = 2 ∨ cls = 6) ∧ d.dbgUsable trst = true)
  if !arbExists a || !decide may || d.arbHeld a then d else d.arbTake a

/-- The watchdog value of an arbiter's class; 0 disables it (R315). -/
def Dev.wdog (d : Dev) (cls : Nat) : Nat :=
  if cls ≤ 1 then d.f .ARB_WDOG_MEM_HBM else if cls = 2 then d.f .ARB_WDOG_MEM_SLAB
  else if cls ≤ 4 then d.f .ARB_WDOG_ENG_ENGINE else d.f .ARB_WDOG_ENG_SWITCH

/-! ## Meanings -/

/-- LOTTERY_DRAW. -/
def execLotteryDraw (a : BitVec 16) (active : List ArbReq) (s : State) : Host.Outcome State Fault Refusal :=
  s.act (fun d => d.lottery a.toNat active)

/-- EMERGENCY_GRANT. -/
def execEmergencyGrant (a : BitVec 16) (trst : Bool) (s : State) : Host.Outcome State Fault Refusal :=
  s.act (fun d => d.emergencyGrant a.toNat trst)

/-- EMERGENCY_RELEASE. -/
def execEmergencyRelease (a : BitVec 16) (s : State) : Host.Outcome State Fault Refusal :=
  s.act (fun d => d.arbRelease a.toNat)

/-- SLAB_ACCESS. -/
def execSlabAccess (trst : Bool) (arr : Fin 152) (off : BitVec 22) (write : Bool) (line : Line) (s : State) :
    Host.Outcome State Fault Refusal :=
  s.act (fun d => d.slabAccess trst arr off.toNat write line)

/-- SWITCH_CAPTURE. -/
def execSwitchCapture (trst : Bool) (port : Fin 44) (s : State) : Host.Outcome State Fault Refusal :=
  s.act (fun d => d.switchCapture trst port)

/-- SEC_DBG_OPEN. -/
def execSecDbgOpen (ap : Aperture) (v : BitVec 64) (s : State) : Host.Outcome State Fault Refusal :=
  s.act (fun d => d.hostWrite ap .SEC_DBG_CFG 0 0 (fun d => d.dbgCfg v))

end Sys2Proof.Machine
end

