-- ==== Sys2Proof/Machine/Formats.lean ====
section
/-! DEFINITION. Number formats: exact values, widening, narrowing, block scales, rounding, subnormals and FP32 arithmetic
(R123 to R136). -/

namespace Sys2Proof.Machine

/-- An exact value: NaN, a signed infinity, or (-1)^neg * m * 2^e. -/
inductive Num where
  | nan
  | inf (neg : Bool)
  | fin (neg : Bool) (m : Nat) (e : Int)
  deriving DecidableEq, Repr

/-- Zero. -/
def Num.zero : Num := .fin false 0 0

/-- The value is a zero of either sign. -/
def Num.isZero : Num → Bool
  | .fin _ m _ => m == 0
  | _ => false

/-- The value's sign bit. -/
def Num.neg? : Num → Bool
  | .nan => false
  | .inf s => s
  | .fin s _ _ => s

/-- The value with its sign turned. -/
def Num.negate : Num → Num
  | .nan => .nan
  | .inf s => .inf (!s)
  | .fin s m e => .fin (!s) m e

/-- An integer's value. -/
def Num.ofInt (i : Int) : Num := .fin (i < 0) i.natAbs 0

/-- The magnitude of a finite value at a lower exponent. -/
def atExp (m : Nat) (e low : Int) : Nat := m * 2 ^ (e - low).toNat

/-- Exact addition; opposite infinities give NaN, and an exact zero of unlike signs is +0 (R133). -/
def Num.add : Num → Num → Num
  | .nan, _ => .nan
  | _, .nan => .nan
  | .inf a, .inf b => if a = b then .inf a else .nan
  | .inf a, _ => .inf a
  | _, .inf b => .inf b
  | .fin a m e, .fin b n f =>
    let low := min e f
    let x : Int := (if a then -1 else 1) * (atExp m e low : Int) + (if b then -1 else 1) * (atExp n f low : Int)
    if x = 0 then .fin (a && b) 0 0 else .fin (x < 0) x.natAbs low

/-- Exact multiplication; zero by infinity gives NaN (R133). -/
def Num.mul : Num → Num → Num
  | .nan, _ => .nan
  | _, .nan => .nan
  | .inf a, .inf b => .inf (a != b)
  | .inf a, .fin b n _ => if n = 0 then .nan else .inf (a != b)
  | .fin a m _, .inf b => if m = 0 then .nan else .inf (a != b)
  | .fin a m e, .fin b n f => .fin (a != b) (m * n) (e + f)

/-- Multiplication by a power of two. -/
def Num.scale (k : Int) : Num → Num
  | .fin s m e => .fin s m (e + k)
  | v => v

/-- Comparison of finite or infinite values: the sign of a - b; none if either is NaN. -/
def Num.cmp (a b : Num) : Option Ordering :=
  match a, b with
  | .nan, _ => none
  | _, .nan => none
  | .inf x, .inf y => some (if x = y then .eq else if x then .lt else .gt)
  | .inf x, _ => some (if x then .lt else .gt)
  | _, .inf y => some (if y then .gt else .lt)
  | .fin _ _ _, .fin _ _ _ =>
    match a.add b.negate with
    | .fin s m _ => some (if m = 0 then .eq else if s then .lt else .gt)
    | _ => none

/-- a is less than b. -/
def Num.lt (a b : Num) : Bool := a.cmp b == some .lt

/-- floor(log2 |v|) of a finite non-zero value. -/
def Num.binade : Num → Int
  | .fin _ m e => (Nat.log2 m : Int) + e
  | _ => 0

/-- The magnitude is not zero and below the least normal FP32 number. -/
def Num.tiny : Num → Bool
  | .fin _ m e => m != 0 && decide ((Nat.log2 m : Int) + e < -126)
  | _ => false

/-! ## Rounding (R134, R135) -/

/-- The integer nearest below m / 2^k and what is left; or its exact value where k is negative. -/
def quantize (m : Nat) (k : Int) : Nat × Nat × Nat :=
  if k ≤ 0 then (m * 2 ^ (-k).toNat, 0, 1) else (m / 2 ^ k.toNat, m % 2 ^ k.toNat, 2 ^ k.toNat)

/-- Round a quotient with remainder: to nearest even, or stochastically with a 24-bit draw (R134, R135). -/
def roundUp? (n rem den : Nat) : Option Nat → Bool
  | none => decide (den < 2 * rem ∨ (den = 2 * rem ∧ n % 2 = 1))
  | some r => decide (rem ≠ 0 ∧ 2 ^ 24 ≤ rem * 2 ^ 24 / den + r)

/-- The magnitude code of m * 2^e, rounded to a format of `man` mantissa bits and least normal binade `emin`, as if its
exponent had no upper bound. -/
def roundMag (man : Nat) (emin : Int) (m : Nat) (e : Int) (sr : Option Nat) : Nat :=
  if m = 0 then 0
  else
    let q := max ((Nat.log2 m : Int) + e - man) (emin - man)
    let (n, rem, den) := quantize m (q - e)
    let n := if roundUp? n rem den sr then n + 1 else n
    (q + man - emin).toNat * 2 ^ man + n

/-- The mantissa bits of a floating-point format (Table 6.2). -/
def fmtMan : Nat → Nat
  | 0 => 23
  | 1 => 7
  | 2 => 10
  | 3 => 3
  | 4 => 2
  | 5 => 2
  | _ => 1

/-- The least normal binade of a floating-point format (Table 6.2). -/
def fmtEmin : Nat → Int
  | 0 => -126
  | 1 => -126
  | 2 => -14
  | 3 => -6
  | 4 => -14
  | 5 => -2
  | _ => 0

/-- The emax of R129 of a format that may carry block scales. -/
def fmtEmax : Nat → Int
  | 3 => 8
  | 4 => 15
  | 5 => 4
  | 6 => 2
  | _ => 6

/-- Element bits (Table 6.1). -/
def fmtBits : Nat → Nat
  | 0 => 32
  | 1 => 16
  | 2 => 16
  | 3 => 8
  | 4 => 8
  | 5 => 6
  | 6 => 4
  | _ => 8

/-- The magnitude code of the largest finite value (Table 6.2). -/
def fmtMax : Nat → Nat
  | 0 => 0x7F7FFFFF
  | 1 => 0x7F7F
  | 2 => 0x7BFF
  | 3 => 0x7E
  | 4 => 0x7B
  | 5 => 0x1F
  | _ => 0x7

/-- The magnitude code of infinity, for the formats that have one (Table 6.3). -/
def fmtInf : Nat → Option Nat
  | 0 => some 0x7F800000
  | 1 => some 0x7F80
  | 2 => some 0x7C00
  | 4 => some 0x7C
  | _ => none

/-- The canonical NaN, for the formats that have one (Table 6.3). -/
def fmtNan : Nat → Option Nat
  | 0 => some 0x7FC00000
  | 1 => some 0x7FC0
  | 2 => some 0x7E00
  | 3 => some 0x7F
  | 4 => some 0x7E
  | _ => none

/-- The format always carries block scales: FP6 and FP4 (Table 6.1). -/
def fmtScaled : Nat → Bool
  | 5 => true
  | 6 => true
  | _ => false

/-! ## Widening (R126, R130) -/

/-- The exact value of an element, without its block factor. -/
def elemNum (f code : Nat) : Num :=
  if f = 7 then Num.ofInt (toSigned 8 code)
  else
    let w := fmtBits f
    let neg := bit code (w - 1)
    let mag := code % 2 ^ (w - 1)
    let man := fmtMan f
    let ex := mag / 2 ^ man
    let fr := mag % 2 ^ man
    if mag ≤ fmtMax f then
      (if ex = 0 then .fin neg fr (fmtEmin f - man) else .fin neg (2 ^ man + fr) ((ex : Int) - 1 + fmtEmin f - man))
    else if fmtInf f = some mag then .inf neg else .nan

/-- A subnormal element of formats 0 to 4. -/
def elemSubnormal (f code : Nat) : Bool :=
  decide (f ≤ 4) && decide (code % 2 ^ (fmtBits f - 1) / 2 ^ fmtMan f = 0)

/-- An FP32 value's bits. -/
abbrev F32 := BitVec 32

/-- The canonical FP32 NaN (Table 6.3). -/
def nan32 : F32 := 0x7FC00000#32

/-- Round an exact value to FP32, to nearest even (R133). -/
def round32 (v : Num) : F32 :=
  match v with
  | .nan => nan32
  | .inf s => BitVec.ofNat 32 (0x7F800000 + b2n s * 2 ^ 31)
  | .fin s m e =>
    let c := roundMag 23 (-126) m e none
    BitVec.ofNat 32 ((if fmtMax 0 < c then 0x7F800000 else c) + b2n s * 2 ^ 31)

/-- The exact value of an FP32 number. -/
def num32 (x : F32) : Num := elemNum 0 x.toNat

/-- An FP32 value below the least normal becomes zero with its sign under FLUSH (R132). -/
def flush32 (flush : Bool) (x : F32) : F32 :=
  if flush && elemSubnormal 0 x.toNat then BitVec.ofNat 32 (x.toNat / 2 ^ 31 * 2 ^ 31) else x

/-- An FP32 result that the flush changes (R132). -/
def flushes (flush : Bool) (x : F32) : Bool := flush && elemSubnormal 0 x.toNat && x.toNat % 2 ^ 31 != 0

/-- Widen a stored element with its block scale, if it has one: exact, but beyond FP32 to infinity; a NaN scale gives NaN;
flushed as R130 and R132 state. -/
def widen (f : Nat) (scale : Option Nat) (flush : Bool) (code : Nat) : F32 :=
  match scale with
  | some 255 => nan32
  | some k => flush32 flush (round32 ((elemNum f code).scale ((k : Int) - 127)))
  | none =>
    if flush && elemSubnormal f code then BitVec.ofNat 32 (b2n (bit code (fmtBits f - 1)) * 2 ^ 31)
    else round32 (elemNum f code)

/-! ## Narrowing (R129, R131, R132, R135) -/

/-- Events of narrowing and accumulation (MA_FMT_EVENTS). -/
structure Ev where
  sat : Nat := 0
  nan : Nat := 0
  flushed : Nat := 0
  deriving DecidableEq, Repr

/-- Events added. -/
def Ev.add (a b : Ev) : Ev := ⟨a.sat + b.sat, a.nan + b.nan, a.flushed + b.flushed⟩

/-- Round an exact value to an INT8 element: to -127 to 127 (R126, Table 6.4). -/
def narrowInt8 (sr : Option Nat) : Num → Nat × Ev
  | .nan => (0, { nan := 1 })
  | .inf s => (if s then 0x81 else 0x7F, { sat := 1 })
  | .fin s m e =>
    let (n, rem, den) := quantize m (-e)
    let n := if roundUp? n rem den sr then n + 1 else n
    if 127 < n then (if s then 0x81 else 0x7F, { sat := 1 })
    else (ofSigned 8 (if s then -(n : Int) else n), {})

/-- Round an exact value to an element of a format; out-of-range and special values by Table 6.4; a result whose exact
magnitude is below the least normal of formats 0 to 4 is flushed under FLUSH (R132). -/
def narrowNum (f : Nat) (sr : Option Nat) (flush : Bool) (v : Num) : Nat × Ev :=
  if f = 7 then narrowInt8 sr v
  else
    let sign := fun (s : Bool) => b2n s * 2 ^ (fmtBits f - 1)
    match v with
    | .nan => ((fmtNan f).getD 0, { nan := 1 })
    | .inf s =>
      match fmtInf f with
      | some c => (c + sign s, {})
      | none => ((fmtNan f).getD 0, { nan := 1 })
    | .fin s m e =>
      if m = 0 then (sign s, {})
      else if flush ∧ f ≤ 4 ∧ (Nat.log2 m : Int) + e < fmtEmin f then (sign s, { flushed := 1 })
      else
        let c := roundMag (fmtMan f) (fmtEmin f) m e sr
        if c ≤ fmtMax f then (c + sign s, {})
        else if f = 3 ∨ f = 5 ∨ f = 6 then (fmtMax f + sign s, { sat := 1 })
        else if sr.isSome then (fmtMax f + sign s, { sat := 1 })
        else ((fmtInf f).getD (fmtMax f) + sign s, {})

/-- Narrow one FP32 value to an unscaled format. -/
def narrow (f : Nat) (sr : Option Nat) (flush : Bool) (x : F32) : Nat × Ev := narrowNum f sr flush (num32 x)

/-- Narrow a block of FP32 values into a block-scaled form, with headroom h and a draw for each element under stochastic
rounding: its E8M0 scale and its elements (R129). -/
def narrowBlock (f h : Nat) (flush : Bool) (xs : List F32) (sr : Nat → Option Nat) : Nat × List Nat × Ev :=
  let vs := xs.map num32
  let special := vs.any (fun v => match v with | .fin _ _ _ => false | _ => true)
  if special then (255, xs.map (fun _ => 0), { nan := 1 })
  else
    let live := vs.filter (fun v => !v.isZero)
    if live.isEmpty then (0, vs.map (fun v => (narrowNum f none flush v).1), {})
    else
      let top := live.foldl (fun (a : Int) v => max a v.binade) (-1000)
      let s := max (-127 : Int) (min 127 (top - fmtEmax f + h))
      let out := vs.zipIdx.map (fun e => narrowNum f (sr e.2) flush (e.1.scale (-s)))
      ((s + 127).toNat, out.map Prod.fst, (out.map Prod.snd).foldl Ev.add {})

/-! ## FP32 arithmetic (R132, R133) -/

/-- A result rounded to FP32, to nearest even, with 1 where it is flushed: under FLUSH one whose exact magnitude is below
the least normal number becomes zero with its sign, and each is counted (R132). -/
def result32 (flush : Bool) (v : Num) : F32 × Nat :=
  if flush && v.tiny then (BitVec.ofNat 32 (b2n v.neg? * 2 ^ 31), 1) else (round32 v, 0)

/-- A value added into an FP32 accumulator with one rounding, with 1 where the rounded sum is flushed (R132, R133). -/
def accum32 (flush : Bool) (acc : F32) (v : Num) : F32 × Nat :=
  let s := (num32 acc).add v
  let r := round32 s
  (flush32 flush r, b2n (flush && elemSubnormal 0 r.toNat && !s.isZero))

/-- An operand's exact value, flushed under FLUSH. -/
def operand32 (flush : Bool) (x : F32) : Num := num32 (flush32 flush x)

/-- FP32 addition, with its flush count. -/
def fadd' (flush : Bool) (a b : F32) : F32 × Nat := result32 flush ((operand32 flush a).add (operand32 flush b))

/-- FP32 addition, to nearest even, operands and result flushed under FLUSH. -/
def fadd (flush : Bool) (a b : F32) : F32 := (fadd' flush a b).1

/-- FP32 multiplication, with its flush count. -/
def fmul' (flush : Bool) (a b : F32) : F32 × Nat := result32 flush ((operand32 flush a).mul (operand32 flush b))

/-- FP32 multiplication, to nearest even. -/
def fmul (flush : Bool) (a b : F32) : F32 := (fmul' flush a b).1

/-- FP32 subtraction, with its flush count. -/
def fsub' (flush : Bool) (a b : F32) : F32 × Nat := result32 flush ((operand32 flush a).add (operand32 flush b).negate)

/-- FP32 subtraction, to nearest even. -/
def fsub (flush : Bool) (a b : F32) : F32 := (fsub' flush a b).1

/-- FP32 fused multiply-add, one rounding, with its flush count: the rounded sum is flushed (R132). -/
def ffma' (flush : Bool) (a b c : F32) : F32 × Nat :=
  accum32 flush (flush32 flush c) ((operand32 flush a).mul (operand32 flush b))

/-- FP32 fused multiply-add, one rounding. -/
def ffma (flush : Bool) (a b c : F32) : F32 := (ffma' flush a b c).1

/-- The quotient of two naturals times 2^e, with 64 further bits and a sticky bit, which decide every tie. -/
def quotNum (neg : Bool) (a b : Nat) (e : Int) : Num :=
  if b = 0 then .nan
  else
    let k := 64 + Nat.log2 b + 1
    let q := a * 2 ^ k / b
    let sticky := if a * 2 ^ k % b = 0 then 0 else 1
    .fin neg (2 * q + sticky) (e - k - 1)

/-- Division; x / 0 is an infinity, 0 / 0 and infinity / infinity are NaN (IEEE 754). -/
def Num.div : Num → Num → Num
  | .nan, _ => .nan
  | _, .nan => .nan
  | .inf _, .inf _ => .nan
  | .inf s, .fin t _ _ => .inf (s != t)
  | .fin s _ _, .inf t => .fin (s != t) 0 0
  | .fin s m e, .fin t n f =>
    if n = 0 then (if m = 0 then .nan else .inf (s != t)) else quotNum (s != t) m n (e - f)

/-- FP32 division, with its flush count. -/
def fdiv' (flush : Bool) (a b : F32) : F32 × Nat := result32 flush ((operand32 flush a).div (operand32 flush b))

/-- FP32 division, to nearest even. -/
def fdiv (flush : Bool) (a b : F32) : F32 := (fdiv' flush a b).1

/-- a < b in FP32; false with a NaN. -/
def flt (a b : F32) : Bool := (num32 a).lt (num32 b)

/-- The FP32 value is a NaN. -/
def isNan32 (x : F32) : Bool := num32 x == .nan

/-- The FP32 value's sign turned. -/
def fneg (x : F32) : F32 := x ^^^ 0x80000000#32

/-- An integer to FP32, to nearest even. -/
def ofInt32 (i : Int) : F32 := round32 (Num.ofInt i)

/-! ## Stochastic rounding draws (R136) -/

/-- 64-bit rotate left. -/
def rotl64 (x n : Nat) : Nat := x * 2 ^ n % 2 ^ 64 + x / 2 ^ (64 - n)

/-- Generator version 1: the 24-bit draw of an element (R136). -/
def srDraw (seed tensor index : Nat) : Nat :=
  let c := (tensor * 2 ^ 40 + index % 2 ^ 40) % 2 ^ 64
  let x := Nat.xor c seed
  let x := x * 0x9F1C4A37B2E5D06B % 2 ^ 64
  let x := Nat.xor x (x / 2 ^ 29)
  let x := (x + rotl64 seed 23) % 2 ^ 64
  let x := x * 0xC3A56E912D7F8B15 % 2 ^ 64
  let x := Nat.xor x (x / 2 ^ 32)
  x % 2 ^ 24

end Sys2Proof.Machine
end

