-- ==== Sys2Proof/Machine/Borer.lean ====
section
/-! DEFINITION. The Borer: samples, histograms, their sealing at boundaries, and the format proposals (R137 to R141). -/

namespace Sys2Proof.Machine

/-- Change the Borer's state. -/
def Dev.updBorer (d : Dev) (g : BorerSt → BorerSt) : Dev := { d with borer := g d.borer }

/-- W: the sealed histograms that a slot's window holds (R139). -/
def Dev.brWindow (d : Dev) (s : Nat) : Nat := d.f .MA_BR_CFG_WINDOW_M1 s + 1

/-- SAMPLE_LOG2: larger values act as 10. -/
def Dev.brSample (d : Dev) (s : Nat) : Nat := min 10 (d.f .MA_BR_CFG_SAMPLE_LOG2 s)

/-- TAIL: values outside 4 to 20 act as 12. -/
def Dev.brTail (d : Dev) (s : Nat) : Nat :=
  let t := d.f .MA_BR_CFG_TAIL s
  if 4 ≤ t ∧ t ≤ 20 then t else 12

/-- A slot is enabled and bound to a partition (R138). -/
def Dev.brOn (d : Dev) (s p : Nat) : Bool := d.flag .MA_BR_CFG_ENABLE s && d.f .MA_BR_CFG_PARTITION s == p

/-- An element is sampled when its logical index and the step agree below SAMPLE_LOG2 bits (R137). -/
def Dev.brTakes (d : Dev) (s step index : Nat) : Bool := index % 2 ^ d.brSample s == step % 2 ^ d.brSample s

/-- The bin of an FP32 value: its biased exponent, or none for an exact zero (R137). -/
def brBin (x : F32) : Option Nat := if x.toNat % 2 ^ 31 = 0 then none else some (x.toNat / 2 ^ 23 % 256)

/-- The histogram of a slot and step. -/
def Dev.hist? (d : Dev) (s step : Nat) : Option Hist := d.borer.hists.find? (fun h => h.slot == s && h.step == step)

/-- The sealed histograms of a slot, oldest first. -/
def Dev.closedHists (d : Dev) (s : Nat) : List Hist := d.borer.hists.filter (fun h => h.slot == s && h.closed)

/-- Open the histogram of a slot for a step. -/
def Dev.openHist (d : Dev) (s step : Nat) : Dev :=
  d.updBorer (fun b => { b with hists := b.hists ++ [⟨s, step, false, [], 0, false⟩] })

/-- Change the histogram of a slot and step. -/
def Dev.updHist (d : Dev) (s step : Nat) (g : Hist → Hist) : Dev :=
  d.updBorer (fun b => { b with hists := mapIf (fun h => h.slot == s && h.step == step) g b.hists })

/-- One more in a bin, saturating at 32 bits. -/
def Hist.count (h : Hist) : Option Nat → Hist
  | none => { h with zeros := min (h.zeros + 1) (2 ^ 32 - 1) }
  | some b => { h with bins := SMap.set 0 h.bins b (min (SMap.get 0 h.bins b + 1) (2 ^ 32 - 1)) }

/-- Step a comes before step b; step numbers are those of the 32-bit RING_STEP. -/
def stepBefore (a b : Nat) : Bool := 2 ^ 31 ≤ (a + 2 ^ 32 - b) % 2 ^ 32

/-- The step's histogram has been sealed: the partition has begun step + 2 (R139). -/
def Dev.brSealed (d : Dev) (p step : Nat) : Bool := stepBefore (step + 1) (d.f .RING_STEP_STEP p)

/-- Take one sample, or discard it as late (R138, R139, R325). -/
def Dev.takeSample (d : Dev) (x : Sample) : Dev :=
  if !d.brOn x.slot x.part then d
  else if d.brSealed x.part x.step then
    let d := (d.addF .MA_BR_STAT_LATE 1 x.slot).setF .PART_DET_EVENTS_BORER_LATE 1 x.part
    let now := d.f .RING_STEP_STEP x.part
    if SMap.get 0 d.borer.late x.slot = now + 1 then d
    else (d.updBorer (fun b => { b with late := SMap.set 0 b.late x.slot (now + 1) })).post .BORER_LATE 0 0
           { job := d.jobOf x.part, part := some x.part }
  else d.updHist x.slot x.step (fun h => h.count x.expo)

/-- Values that a command narrows go to the Borer: those that the slot samples wait there (R137, R160). -/
def Dev.feedBorer (d : Dev) (s p cmd step : Nat) (vals : List (Nat × F32)) : Dev :=
  let xs := (vals.filter (fun v => d.brTakes s step v.1)).map (fun v => (⟨s, step, p, cmd, brBin v.2⟩ : Sample))
  d.updBorer (fun b => { b with waiting := b.waiting ++ xs })

/-- A narrowing of a fed command saturated or wrote a NaN in its step (R140). -/
def Dev.brUnclean (d : Dev) (s p step : Nat) (ev : Ev) : Dev :=
  if ev.sat + ev.nan = 0 ∨ d.brOn s p = false then d
  else d.updHist s step (fun h => { h with unclean := true })

/-! ## Proposals (R140) -/

/-- Candidate formats: code, emax and emin (Table 6.5). -/
def brCandidates : List (Nat × Int × Int) := [(3, 8, -6), (4, 15, -14)]

/-- The binade of a bin; bin 0 counts as -127. -/
def binBinade (b : Nat) : Int := (b : Int) - 127

/-- The lowest bin at which a running sum reaches a need. -/
def lowBin (count : Nat → Nat) (need : Nat) : Nat → Nat → Nat → Nat
  | 0, b, _ => b
  | fuel + 1, b, sum => if need ≤ sum + count b then b else lowBin count need fuel (b + 1) (sum + count b)

/-- Write MA_BR_PROP. -/
def Dev.setProp (d : Dev) (s fmt fallback scale dd step : Nat) : Dev :=
  ((((d.setF .MA_BR_PROP_FORMAT fmt s).setF .MA_BR_PROP_FALLBACK_USED fallback s).setF .MA_BR_PROP_SCALE scale s).setF
    .MA_BR_PROP_D dd s).setF .MA_BR_PROP_STEP step s

/-- Propose the fallback with headroom 0; the spec gives no scale code with it (log 23). -/
def Dev.proposeFallback (d : Dev) (s step : Nat) : Dev :=
  let (n, d) := d.fresh
  d.setProp s (d.f .MA_BR_CFG_FALLBACK s) 1 ((Config.freeWord n).toNat % 256) 0 step

/-- A scale code, open where it falls below 0 (log 23). -/
def Dev.scaleCode (d : Dev) (c : Int) : Nat × Dev :=
  if 0 ≤ c then (c.toNat, d)
  else
    let (n, d) := d.fresh
    ((Config.freeWord n).toNat % 256, d)

/-- A slot's proposal for the step that begins (R140). -/
def Dev.propose (d : Dev) (s step : Nat) : Dev :=
  let w := d.brWindow s
  let win := d.closedHists s
  let win := win.drop (win.length - w)
  let clean := fun (h : Hist) => !h.unclean && SMap.get 0 h.bins 255 == 0
  let count := fun (b : Nat) => sumNat (win.map (fun h => SMap.get 0 h.bins b))
  let n := sumNat ((List.range 255).map count)
  if win.length < w ∨ win.all clean = false ∨ n = 0 then d.proposeFallback s step
  else
    let top := (List.range 255).foldl (fun a b => if count b ≠ 0 then b else a) 0
    let hi := binBinade top
    let need := ceilDiv n (2 ^ d.brTail s)
    let lo := binBinade (lowBin count need 255 0 0)
    let span := hi - lo + 1
    let margin : Int := d.f .MA_BR_CFG_MARGIN s
    let dd := min 127 span.toNat
    match brCandidates.find? (fun c => decide (span ≤ c.2.1 - margin - c.2.2 + 1)) with
    | some (code, emax, _) =>
      let (sc, d) := d.scaleCode (hi - (emax - margin) + 127)
      d.setProp s code 0 sc dd step
    | none => d.setProp s 1 0 127 dd step

/-- Seal the histogram of two steps back, if the slot was in use then: it follows the sealed ones before it, and the window
keeps the last W (R139). -/
def Dev.sealHist (d : Dev) (s step : Nat) : Dev :=
  let old := (step + 2 ^ 32 - 2) % 2 ^ 32
  match d.borer.hists.find? (fun h => h.slot == s && h.step == old && !h.closed) with
  | none => d
  | some h =>
    let d := if h.unclean || SMap.get 0 h.bins 255 != 0 then d.addF .MA_BR_STAT_UNCLEAN 1 s else d
    let all := d.closedHists s ++ [{ h with closed := true }]
    let open' := d.borer.hists.filter (fun x => !(x.slot == s && (x.closed || x == h)))
    d.updBorer (fun b => { b with hists := open' ++ all.drop (all.length - d.brWindow s) })

/-- A partition's boundary begins a step: its enabled slots seal, propose, and open the step's histogram (R139, R140). -/
def Dev.borerBoundary (d : Dev) (p step : Nat) : Dev :=
  (List.range 64).foldl (fun d s => if d.brOn s p then ((d.sealHist s step).propose s step).openHist s step else d) d

/-- Clear a slot: its histograms and waiting samples go. -/
def Dev.brClear (d : Dev) (s : Nat) : Dev :=
  d.updBorer (fun b => { b with hists := b.hists.filter (fun h => h.slot != s), waiting := b.waiting.filter (fun x => x.slot != s) })

/-- Commands in flight feed the slot no more (Table 6.6). -/
def Dev.brUnfeed (d : Dev) (s : Nat) : Dev :=
  let named := fun (r : LayerRun) => ((d.cmd? r.id).elim 64 (fun c => c.arg 2 0 6)) == s
  { d with arr := { d.arr with runs := mapIf named (fun r => { r with feed := false }) d.arr.runs } }

/-- Clear a slot, and open its histogram for the step in progress. -/
def Dev.brBegin (d : Dev) (s step : Nat) : Dev :=
  ((d.brClear s).updBorer (fun b => { b with late := SMap.set 0 b.late s 0 })).openHist s step

/-- Enable a slot: its window and open histograms are cleared and it proposes the fallback (Table 6.6). -/
def Dev.brEnable (d : Dev) (s : Nat) : Dev :=
  let step := d.f .RING_STEP_STEP (d.f .MA_BR_CFG_PARTITION s)
  (d.brBegin s step).proposeFallback s step

/-- Disable a slot: commands in flight go on unsampled, and what it holds stays until it is enabled again (Table 6.6). -/
def Dev.brDisable (d : Dev) (s : Nat) : Dev := (d.setF .MA_BR_CFG_ENABLE 0 s).brUnfeed s

/-- Disable and clear a slot, as a release and a warm reset do (Table 6.6). -/
def Dev.brDrop (d : Dev) (s : Nat) : Dev := (d.brDisable s).brClear s

/-- A partition is given a job: its step numbers begin anew, and so do the slots that are bound to it (log 143). -/
def Dev.brGiveJob (d : Dev) (p : Nat) : Dev :=
  ((List.range 64).filter (fun s => d.brOn s p)).foldl (fun d s => d.brBegin s 0) d

/-- MA_BR_CFG: while enabled, a write of anything but ENABLE is discarded and reported (Table 6.6). -/
def Dev.brCfg (d : Dev) (ap : Aperture) (s : Nat) (v : BitVec 64) : Dev :=
  let v := v &&& 0xFFFFFFFF#64
  let rw := BitVec.ofNat 64 (Reg.MA_BR_CFG.spec.rw)
  let on := Fld.MA_BR_CFG_ENABLE.of v = 1
  if d.flag .MA_BR_CFG_ENABLE s then
    if Fld.MA_BR_CFG_ENABLE.put (v &&& rw) 1 ≠ d.reg .MA_BR_CFG s then d.refuseReg ap .MA_BR_CFG s
    else if on then d else d.brDisable s
  else
    let d := d.plainWrite .MA_BR_CFG v s
    if on then d.brEnable s else d

/-- The value a read of MA_BR_HDATA gives: the selected bin or zero count of a sealed histogram, 0 beyond those held. -/
def Dev.brHdata (d : Dev) : Nat :=
  let hs := (d.closedHists (d.f .MA_BR_HSEL_SLOT)).reverse
  match hs[d.f .MA_BR_HSEL_AGE]? with
  | none => 0
  | some h => if d.flag .MA_BR_HSEL_ZEROS then h.zeros else SMap.get 0 h.bins (d.f .MA_BR_HSEL_BIN)

/-- A read of MA_BR_HDATA advances BIN, wrapping to 0, unless ZEROS is set. -/
def Dev.brHdataNext (d : Dev) : Dev :=
  if d.flag .MA_BR_HSEL_ZEROS then d else d.setF .MA_BR_HSEL_BIN ((d.f .MA_BR_HSEL_BIN + 1) % 256)

/-- Take the first waiting sample of a slot. -/
def Dev.nextSample (d : Dev) (s : Nat) : Dev :=
  match d.borer.waiting.find? (fun x => x.slot == s) with
  | none => d
  | some x => (d.updBorer (fun b => { b with waiting := b.waiting.erase x })).takeSample x

/-! ## Meanings -/

/-- BORER_SAMPLE. -/
def execBorerSample (slot : Fin 64) (s : State) : Host.Outcome State Fault Refusal := s.engine (fun d => d.nextSample slot)

/-- MA_BR_CFG_ENABLE. -/
def execMaBrCfgEnable (ap : Aperture) (slot : Fin 64) (v : BitVec 64) (s : State) : Host.Outcome State Fault Refusal :=
  s.act (fun d => d.hostWrite ap .MA_BR_CFG slot 0 (fun d => d.brCfg ap slot v))

/-- MA_BR_HDATA: a read through an aperture that may read the block. -/
def execMaBrHdata (ap : Aperture) (s : State) : Host.Outcome State Fault Refusal :=
  s.act (fun d => d.hostRead ap (Reg.MA_BR_HDATA.addrOf 0 0) 4 (fun d => (d.brHdataNext, BitVec.ofNat 64 d.brHdata)))

end Sys2Proof.Machine
end

