-- ==== Sys2Proof/Machine/Functions.lean ====
section
/-! DEFINITION. The functions of FP32 values: exp (R80), the epilogues of a LAYER (R159) and their derivatives (R194). -/

namespace Sys2Proof.Machine

/-- ln 2 in units of 2^-192. -/
def ln2Fixed : Nat := 4350955369971217654477563090224794165364344896676135745069

/-- Terms of the series of e^r from the n-th on, in units of 2^-192. -/
def expTerms (r : Nat) : Nat → Nat → Nat → Nat
  | 0, _, _ => 0
  | fuel + 1, n, t => t + expTerms r fuel (n + 1) (t * r / 2 ^ 192 / (n + 1))

/-- e^x of a finite value, rounded to FP32. -/
def expRound (v : Num) : F32 :=
  match v with
  | .fin s m e =>
    if m = 0 then 0x3F800000#32
    else if 8 ≤ v.binade then (if s then 0#32 else 0x7F800000#32)
    else
      let mag := (atExp m (e + 192) (min 0 (e + 192))) / 2 ^ (-(min 0 (e + 192))).toNat
      let x : Int := if s then -(mag : Int) else mag
      let k := x / (ln2Fixed : Int)
      let r := (x - k * ln2Fixed).toNat
      round32 (.fin false (expTerms r 64 0 (2 ^ 192)) (k - 192))
  | _ => nan32

/-- The step of an operand whose rounded exponential is y: five to each y, told apart by the thresholds that the operand has
reached. -/
def expStepOf (y x : F32) : Nat :=
  5 * y.toNat + ((List.finRange 4).filter (fun i => !flt x (Config.expStep y i))).length

/-- The value of a step, offset by 2: the rounded value it belongs to with the device's own distance, or the greatest that a
step shortly before it has. Steps further back cannot exceed it, so it never falls (R80). -/
def expAt (q : Nat) : Nat := (List.range 25).foldl (fun m k => max m ((q - k) / 5 + (Config.expUlp (q - k)).val)) 0

/-- The exp function: monotone, and within two units in the last place of the rounded exact value (R80; log 6). -/
def exp32 (x : F32) : F32 :=
  match num32 x with
  | .nan => nan32
  | .inf s => if s then 0#32 else 0x7F800000#32
  | v => BitVec.ofNat 32 (min 0x7F800000 (expAt (expStepOf (expRound v) x) - 2))

/-- One in FP32. -/
def one32 : F32 := 0x3F800000#32
/-- Two in FP32. -/
def two32 : F32 := 0x40000000#32
/-- 0.5 in FP32. -/
def half32 : F32 := 0x3F000000#32
/-- 0.797_884_6 in FP32. -/
def geluC : F32 := 0x3F4C422A#32
/-- 0.044_715 in FP32. -/
def geluA : F32 := 0x3D372713#32
/-- 0.134_145 in FP32. -/
def geluB : F32 := 0x3E095D4F#32

/-! ## Operations that count their flushed results (R132) -/

/-- A computation over FP32 values that adds up how many of its results were flushed. -/
abbrev Counted := StateM Nat

/-- An operation with its flush count. -/
def count (r : F32 × Nat) : Counted F32 := do
  modify (· + r.2)
  return r.1

/-- The exp function under the partition's subnormal setting. -/
def cexp (fl : Bool) (x : F32) : Counted F32 :=
  let r := exp32 (flush32 fl x)
  count (flush32 fl r, b2n (flushes fl r))

/-- Addition. -/
def cadd (fl : Bool) (a b : F32) : Counted F32 := count (fadd' fl a b)
/-- Subtraction. -/
def csub (fl : Bool) (a b : F32) : Counted F32 := count (fsub' fl a b)
/-- Multiplication. -/
def cmul (fl : Bool) (a b : F32) : Counted F32 := count (fmul' fl a b)
/-- Division. -/
def cdiv (fl : Bool) (a b : F32) : Counted F32 := count (fdiv' fl a b)

/-- 1 / (1 + exp(-x)) (R80). -/
def sigmoidC (fl : Bool) (x : F32) : Counted F32 := do cdiv fl one32 (← cadd fl one32 (← cexp fl (fneg x)))

/-- 1 / (1 + exp(-x)) as the Sieve computes it (R80). -/
def sigmoid (x : F32) : F32 := ((sigmoidC false x).run 0).1

/-- SiLU: x / (1 + exp(-x)) (R159). -/
def siluC (fl : Bool) (x : F32) : Counted F32 := do cdiv fl x (← cadd fl one32 (← cexp fl (fneg x)))

/-- ReLU: NaN stays NaN (R159). -/
def relu (x : F32) : F32 := if isNan32 x then nan32 else if flt 0#32 x then x else 0#32

/-- tanh(y) = 1 - 2 / (exp(2y) + 1) (R159). -/
def tanhC (fl : Bool) (y : F32) : Counted F32 := do
  csub fl one32 (← cdiv fl two32 (← cadd fl (← cexp fl (← cmul fl two32 y)) one32))

/-- The argument of GELU's tanh: 0.797_884_6 * (x + 0.044_715 * x^3), the cube formed first (R159). -/
def geluArg (fl : Bool) (x : F32) : Counted F32 := do
  cmul fl geluC (← cadd fl x (← cmul fl geluA (← cmul fl (← cmul fl x x) x)))

/-- The same in the backward pass: 0.044_715 * z * z * z, in the order written (R194). -/
def geluArgBack (fl : Bool) (z : F32) : Counted F32 := do
  cmul fl geluC (← cadd fl z (← cmul fl (← cmul fl (← cmul fl geluA z) z) z))

/-- GELU, tanh form (R159). -/
def geluFn (fl : Bool) (x : F32) : Counted F32 := do
  let th ← tanhC fl (← geluArg fl x)
  cmul fl (← cmul fl half32 x) (← cadd fl one32 th)

/-- The epilogue on one accumulator, with its flush count; SwiGLU takes two (R132, R159). -/
def epilogue (fl : Bool) (epi : Nat) (a b : F32) : F32 × Nat :=
  match epi with
  | 1 => (relu a, 0)
  | 2 => (siluC fl a).run 0
  | 3 => (geluFn fl a).run 0
  | 4 => (do cmul fl (← siluC fl a) b : Counted F32).run 0
  | _ => (a, 0)

/-- The derivative s * (1 + z * (1 - s)) of SiLU, from s (R194). -/
def siluSlope (fl : Bool) (z s : F32) : Counted F32 := do
  cmul fl s (← cadd fl one32 (← cmul fl z (← csub fl one32 s)))

/-- The derivative of GELU (R194). -/
def geluSlope (fl : Bool) (z : F32) : Counted F32 := do
  let th ← tanhC fl (← geluArgBack fl z)
  let a ← cmul fl half32 (← cadd fl one32 th)
  let h ← cmul fl half32 z
  let q ← csub fl one32 (← cmul fl th th)
  let b ← cmul fl (← cmul fl h q) geluC
  let c ← cadd fl one32 (← cmul fl (← cmul fl geluB z) z)
  cadd fl a (← cmul fl b c)

/-- dZ of one element from dY and Z, for the epilogues with one input, with its flush count (R132, R194). -/
def dEpilogue (fl : Bool) (epi : Nat) (g z : F32) : F32 × Nat :=
  match epi with
  | 1 => (if flt 0#32 z then g else 0#32, 0)
  | 2 => (do cmul fl g (← siluSlope fl z (← sigmoidC fl z)) : Counted F32).run 0
  | 3 => (do cmul fl g (← geluSlope fl z) : Counted F32).run 0
  | _ => (g, 0)

/-- dZ of SwiGLU: for the first half (of a = z[j], b = z[j + N/2]) or the second, with its flush count (R132, R194). The
two halves share s, which the first counts. -/
def dSwiglu (fl : Bool) (first : Bool) (g a b : F32) : F32 × Nat :=
  if first then (do cmul fl g (← cmul fl b (← siluSlope fl a (← sigmoidC fl a))) : Counted F32).run 0
  else (do cmul fl g (← cmul fl a ((sigmoidC fl a).run 0).1) : Counted F32).run 0

end Sys2Proof.Machine
end

