-- ==== Sys2Proof/Machine/Layouts.lean ====
section
/-! DEFINITION. Object layouts the engines read and write: tile records and tile-form matrices (R169 to R177), token-row
objects (R77, R105), receive objects (R107) and vectors (R102, R103), with the checks a reader makes. -/

namespace Sys2Proof.Machine

/-! ## Work that may fail -/

/-- Why an engine's work for a command fails. -/
inductive Fail where
  | mem (e : MemErr)
  | report (st : Status) (c : Code) (addr index : Nat)
  /-- A cause that the spec says kills the command, whatever its parts did (R55). -/
  | kill (st : Status) (c : Code) (addr index : Nat)
  /-- A tile record fails its CRC (true) or another check of R177, at a directory index. -/
  | tile (crc : Bool) (index : Nat)
  | plain (st : Status)
  /-- A failure whose effect on the command has been given already. -/
  | given
  deriving DecidableEq, Repr

/-- An engine's work: it changes the device and answers a result or a failure. -/
abbrev Op (α : Type) := ExceptT Fail (StateM Dev) α

/-- An access to memory, as a step of an engine's work. -/
def Op.mem {α : Type} (g : Dev → Dev × Except MemErr α) : Op α := do
  match g (← get) with
  | (d, .ok a) => set d; return a
  | (d, .error e) => set d; throw (.mem e)

/-- A change of the device, as a step of an engine's work. -/
def Op.act (g : Dev → Dev) : Op Unit := modify g

/-- A tile record that a command read fails a check: the command is killed with FAULT_DATA. Each failure is counted, and
the command's first is reported (R177). -/
def Dev.tileFails (d : Dev) (id : Nat) (crc : Bool) (index : Nat) : Dev :=
  let d := if crc then d.addF .SK_ERR_CRC 1 else d.addF .SK_ERR_GEOM 1
  if (d.cmd? id).any Cmd.tileBad then d.failCmd id .faultData
  else
    let d := d.postCmd id (if crc then .SK_TILE_CRC else .SK_TILE_GEOM) Status.faultData.num 0 index
    (d.failCmd id .faultData).updCmd id (fun k => { k with tileBad := true })

/-- What a failure does to part j of a command (R55, R177). -/
def Dev.failWith (d : Dev) (id j : Nat) : Fail → Dev
  | .mem e => d.memFail id j e
  | .report st c a i => d.failReport id j st c a i
  | .kill st c a i => (d.postCmd id c st.num a i).failCmd id st
  | .tile crc i => d.tileFails id crc i
  | .plain st => d.failPart id j st
  | .given => d

/-- Do work for part j of a command: a failure fails the part. -/
def Dev.work (d : Dev) (id j : Nat) (m : Op Unit) : Dev :=
  match m.run.run d with
  | (.ok _, d) => d
  | (.error f, d) => d.failWith id j f

/-- Do a piece of work for another part of the command: its failure fails that part, and ends the work. -/
def forPart {α : Type} (id j : Nat) (m : Op α) : Op α := do
  match m.run.run (← get) with
  | (.ok a, d) => set d; return a
  | (.error f, d) => set (d.failWith id j f); throw .given

/-- Fail unless a condition holds. -/
def need (b : Bool) (f : Fail) : Op Unit := if b then pure () else throw f

/-- Read a version. -/
def rd (v : Version) (off n : Nat) : Op (List Byte) := Op.mem (fun d => d.verRead v off n)

/-- Read a little-endian number of a version. -/
def rdNat (v : Version) (off n : Nat) : Op Nat := do return leNat (← rd v off n)

/-- Write a version. -/
def wr (v : Version) (off : Nat) (bs : List Byte) : Op Unit := Op.mem (fun d => d.verWrite v off bs)

/-! ## Packed elements -/

/-- Unpack n elements of b bits, the first in the low bits (R170). -/
def unpack (b n : Nat) (bs : List Byte) : List Nat :=
  let w := leNat bs
  (List.range n).map (fun i => bits w (i * b) b)

/-- Pack elements of b bits, the first in the low bits, to whole bytes (R170). -/
def pack (b : Nat) (xs : List Nat) : List Byte :=
  leBytes (ceilDiv (xs.length * b) 8) (xs.foldr (fun x acc => x % 2 ^ b + acc * 2 ^ b) 0)

/-- SCALED is a value that the format allows: 1 for FP6 and FP4; either for FP8 and INT8; 0 for the rest (R169). -/
def scaledOkTile (f : Nat) (scaled : Bool) : Bool := if fmtScaled f then scaled else if f < 3 then !scaled else true

/-- SCALED is a value that R102 allows for vectors and token rows: as R169, but 0 for formats 0 to 4. -/
def scaledOkVec (f : Nat) (scaled : Bool) : Bool := if fmtScaled f then scaled else if f = 7 then true else !scaled

/-! ## Tile records (R169 to R174) -/

/-- A tile's contents: element codes in row-major order, and its scale bytes. -/
structure Tile where
  rows : Nat
  cols : Nat
  fmt : Nat
  scaled : Bool
  colblk : Bool
  codes : List Nat
  scales : List Nat
  deriving DecidableEq, Repr

/-- The scale bytes of a tile (R170). -/
def scaleCount (rows cols : Nat) (scaled colblk : Bool) : Nat :=
  if !scaled then 0 else if colblk then ceilDiv rows 32 * cols else rows * ceilDiv cols 32

/-- The element bytes of a body (R170). -/
def elementBytes (rows cols nnz b : Nat) (dense : Bool) : Nat :=
  if dense then ceilDiv (rows * cols * b) 8 else ceilDiv (rows * cols) 8 + ceilDiv (nnz * b) 8

/-- The code of element (r, c). -/
def Tile.code (t : Tile) (r c : Nat) : Nat := t.codes.getD (r * t.cols + c) 0

/-- The scale byte of element (r, c), if the tile is scaled. -/
def Tile.scale (t : Tile) (r c : Nat) : Option Nat :=
  if !t.scaled then none
  else some (if t.colblk then t.scales.getD (r / 32 * t.cols + c) 0 else t.scales.getD (r * ceilDiv t.cols 32 + c / 32) 0)

/-- The widened value of element (r, c) (R130). -/
def Tile.value (t : Tile) (flush : Bool) (r c : Nat) : F32 := widen t.fmt (t.scale r c) flush (t.code r c)

/-- The 14 header bytes before the CRC (Table 8.1). -/
def tileHead (fmt : Nat) (dense scaled colblk : Bool) (rows cols nnz scaleOff : Nat) : List Byte :=
  leBytes 1 (fmt + b2n dense * 8 + b2n scaled * 16 + b2n colblk * 32) ++ [0] ++ leBytes 2 rows ++ leBytes 2 cols ++
  leBytes 4 nnz ++ leBytes 2 scaleOff ++ [0, 0]

/-- Encode a tile record: the sparse body only where it is strictly shorter (R171, R172). Answers DENSE too. -/
def Tile.encode (t : Tile) : Bool × List Byte :=
  let b := fmtBits t.fmt
  let live := t.codes.filter (· ≠ 0)
  let nnz := live.length
  let dense := !(decide (elementBytes t.rows t.cols nnz b false < elementBytes t.rows t.cols nnz b true))
  let bitmap := if dense then [] else pack 1 (t.codes.map (fun c => b2n (c ≠ 0)))
  let elems := if dense then pack b t.codes else pack b live
  let off := if t.scaled then bitmap.length + elems.length else 0
  let head := tileHead t.fmt dense t.scaled t.colblk t.rows t.cols nnz off
  let crc := crc16 (head ++ bitmap)
  (dense, head ++ leBytes 2 crc ++ bitmap ++ elems ++ t.scales.map (BitVec.ofNat 8))

/-- What a reader takes from a record's header and bitmap. -/
structure TileHead where
  fmt : Nat
  dense : Bool
  scaled : Bool
  colblk : Bool
  rows : Nat
  cols : Nat
  nnz : Nat
  scaleOff : Nat
  crc : Nat
  deriving DecidableEq, Repr

/-- Read a record's header. -/
def TileHead.ofBytes (bs : List Byte) : TileHead :=
  let n := leNat (bs.take 16)
  ⟨field n 0 0 3, field n 0 3 1 = 1, field n 0 4 1 = 1, field n 0 5 1 = 1, field n 2 0 16, field n 4 0 16, field n 6 0 32,
    field n 10 0 16, field n 14 0 16⟩

/-- The bitmap bytes of a record. -/
def TileHead.bitmapBytes (h : TileHead) : Nat := if h.dense then 0 else ceilDiv (h.rows * h.cols) 8

/-- The element bytes of a record. -/
def TileHead.elements (h : TileHead) : Nat := elementBytes h.rows h.cols h.nnz (fmtBits h.fmt) h.dense

/-- The record length that R170 computes from the header. -/
def TileHead.length (h : TileHead) : Nat := 16 + h.elements + scaleCount h.rows h.cols h.scaled h.colblk

/-- The scale offset that R170 computes from the header. -/
def TileHead.scaleAt (h : TileHead) : Nat := if h.scaled then h.elements else 0

/-- The CRC of R171 over a record's bytes. -/
def TileHead.crcOk (h : TileHead) (bs : List Byte) : Bool :=
  crc16 (bs.take 14 ++ slice bs 16 h.bitmapBytes) == h.crc

/-- The set bits of a record's bitmap take the packed elements in turn, and zero beyond NNZ (R174). -/
def expandBits (nnz : Nat) : List Nat → List Nat → Nat → List Nat
  | [], _, _ => []
  | 0 :: ms, xs, i => 0 :: expandBits nnz ms xs i
  | _ :: ms, xs, i => (if i < nnz then xs.headD 0 else 0) :: expandBits nnz ms (xs.drop 1) (i + 1)

/-- Expand a record (R174). -/
def TileHead.expand (h : TileHead) (bs : List Byte) : Tile :=
  let body := bs.drop 16
  let b := fmtBits h.fmt
  let n := h.rows * h.cols
  let codes := if h.dense then unpack b n (body.take (ceilDiv (n * b) 8))
    else expandBits h.nnz (unpack 1 n (body.take h.bitmapBytes)) (unpack b h.nnz (slice body h.bitmapBytes (ceilDiv (h.nnz * b) 8))) 0
  let scales := (slice body h.scaleOff (scaleCount h.rows h.cols h.scaled h.colblk)).map BitVec.toNat
  ⟨h.rows, h.cols, h.fmt, h.scaled, h.colblk, codes, scales⟩

/-! ## Tile regions and matrix objects (R175 to R177) -/

/-- Tile rows of a region's grid. -/
def Region.tileRows (g : Region) : Nat := ceilDiv g.rows 32
/-- Tile columns of a region's grid. -/
def Region.tileCols (g : Region) : Nat := ceilDiv g.cols 256
/-- Rows of the tiles of tile row i. -/
def Region.rowsOf (g : Region) (i : Nat) : Nat := min 32 (g.rows - 32 * i)
/-- Columns of the tiles of tile column j. -/
def Region.colsOf (g : Region) (j : Nat) : Nat := min 256 (g.cols - 256 * j)
/-- The member slab that holds tile column j of a stripe (R210). -/
def Region.member (g : Region) (j : Nat) : Nat := if g.ver.entry.tier = 2 then j % (g.ver.entry.widthM1 + 1) else 0

/-- Read from the member that holds tile column j. -/
def Region.rd (g : Region) (j off n : Nat) : Op (List Byte) := Op.mem (fun d => d.verReadM g.ver (g.member j) off n)

/-- The directory entry of tile (i, j): OFFSET_64 in bytes, and LENGTH (R175). -/
def Region.entry (g : Region) (i j : Nat) : Op (Nat × Nat) := do
  let bs ← g.rd j (g.dir + 8 * (i * g.tileCols + j)) 8
  return (leNat (bs.take 4) * 64, leNat (bs.drop 4))

/-- The record of tile (i, j), after the checks of R177 in their order. `own`: it is a weight tile that an array streams
from its own slab. -/
def Region.record (g : Region) (i j : Nat) (own : Bool) : Op (TileHead × List Byte) := do
  let idx := i * g.tileCols + j
  let (off, len) ← g.entry i j
  need (16 ≤ len) (.tile false idx)
  let bs ← g.rd j (g.origin + off) len
  let h := TileHead.ofBytes bs
  need (h.crcOk bs) (.tile true idx)
  need (h.fmt == g.fmt && h.scaled == g.scaled && h.colblk == g.colblk) (.tile false idx)
  need (h.rows == g.rowsOf i && h.cols == g.colsOf j) (.tile false idx)
  need (h.scaleOff == h.scaleAt && len == h.length) (.tile false idx)
  need (!own || h.dense) (.tile false idx)
  return (h, bs)

/-- Read and expand tile (i, j). -/
def Region.tile (g : Region) (i j : Nat) (own : Bool := false) : Op Tile := do
  let (h, bs) ← g.record i j own
  return h.expand bs

/-- A header that breaks its layout rule: SCALED against the format, or counts that the grid contradicts (Table 8.4). -/
def Region.headOk (g : Region) (tiles dirOff : Nat) : Bool :=
  scaledOkTile g.fmt g.scaled && tiles == g.tileRows * g.tileCols && dirOff == 64

/-- The matrix object at a byte of a version, with its directory's offset and TILES (Table 8.4). -/
def matrixAt (v : Version) (off : Nat) : Op (Region × Nat × Nat) := do
  let n ← rdNat v off 64
  return (⟨v, off, off + 64, field n 0 0 32, field n 4 0 32, field n 8 0 3, field n 8 3 1 = 1, field n 8 4 1 = 1⟩,
    field n 12 0 32, field n 16 0 32)

/-- Every record of a region lies within its version's bytes. -/
def Region.fits (g : Region) : Op Bool := do
  let size := g.ver.entry.size
  if size < g.dir + 8 * (g.tileRows * g.tileCols) then return false
  let es ← (List.range g.tileRows).mapM (fun i => (List.range g.tileCols).mapM (fun j => g.entry i j))
  return es.flatten.all (fun e => decide (g.origin + e.1 + e.2 ≤ size))

/-- The bytes of a matrix object's header (Table 8.4). -/
def matrixHead (rows cols fmt : Nat) (scaled colblk : Bool) : List Byte :=
  padTo 64 (leBytes 4 rows ++ leBytes 4 cols ++ leBytes 1 (fmt + b2n scaled * 8 + b2n colblk * 16) ++ [0, 0, 0] ++
    leBytes 4 (ceilDiv rows 32 * ceilDiv cols 256) ++ leBytes 4 64)

/-- Lay records out one after another from a byte offset, each on a 64-byte boundary: the directory and the record bytes
(R175). The spec does not say where a writer puts each record (log 21). -/
def layRecords : Nat → List (List Byte) → List Byte × List Byte
  | _, [] => ([], [])
  | off, r :: rs =>
    let slot := roundUp r.length 64
    let (dir, body) := layRecords (off + slot) rs
    (leBytes 4 (off / 64) ++ leBytes 4 r.length ++ dir, padTo slot r ++ body)

/-- A tile region whose directory begins at byte `dir` of its object: directory, padding and records. -/
def regionBytes (dir : Nat) (records : List (List Byte)) : List Byte :=
  let first := roundUp (dir + 8 * records.length) 64
  let (d, body) := layRecords first records
  padTo (first - dir) d ++ body

/-- A whole matrix object. -/
def matrixBytes (rows cols fmt : Nat) (scaled colblk : Bool) (records : List (List Byte)) : List Byte :=
  matrixHead rows cols fmt scaled colblk ++ regionBytes 64 records

/-- TIER_STRIPE for an object: the command is killed (R210). -/
def stripeFault (obj : Nat) : Fail := .kill .faultProt .TIER_STRIPE 0 obj

/-- The version does not lie in a stripe (R210). -/
def Version.unstriped (v : Version) : Bool := v.entry.widthM1 == 0 || v.entry.tier != 2

/-- Write an object's bytes into a claimed buffer; beyond the placed size the command is killed with a report (R176), and an
object that is not a tile-form matrix may not lie in a stripe (R210). -/
def writeObject (v : Version) (bs : List Byte) (full : Code) (matrix : Bool := false) : Op Unit := do
  need (matrix || v.unstriped) (stripeFault v.obj)
  need (bs.length ≤ v.entry.size) (.kill .faultProt full 0 v.obj)
  wr v 0 bs

/-- A stripe member's part of a tile-form matrix: header and directory in every member, each record in the member of its
tile column (R210). -/
def stripeWrite (v : Version) (rows cols fmt : Nat) (scaled colblk : Bool) (records : List (List Byte)) : Op Unit := do
  let w := v.entry.widthM1 + 1
  let tc := ceilDiv cols 256
  let first := roundUp (64 + 8 * records.length) 64
  let own := fun (m : Nat) => (records.zipIdx.filter (fun e => e.2 % tc % w == m)).map Prod.fst
  let laid := (List.range w).map (fun m => layRecords first (own m))
  let take := fun (k : Nat) =>
    let m := k % tc % w
    let place := ((List.range k).filter (fun i => i % tc % w == m)).length
    slice ((laid.getD m ([], [])).1) (8 * place) 8
  let dir := ((List.range records.length).map take).flatten
  need (laid.all (fun l => decide (first + l.2.length ≤ v.entry.size))) (.kill .faultProt .SK_OBJ_FULL 0 v.obj)
  (List.range w).forM (fun m => do
    let bs := matrixHead rows cols fmt scaled colblk ++ padTo (first - 64) dir ++ (laid.getD m ([], [])).2
    Op.mem (fun d => d.verWriteM v m 0 bs))

/-- Write a matrix object. -/
def writeMatrix (v : Version) (rows cols fmt : Nat) (scaled colblk : Bool) (records : List (List Byte)) : Op Unit :=
  if !v.unstriped then stripeWrite v rows cols fmt scaled colblk records
  else writeObject v (matrixBytes rows cols fmt scaled colblk records) .SK_OBJ_FULL true

/-- Count a store path's records by their form (SK_STORE_SPARSE, SK_STORE_DENSE). -/
def Dev.countStored (d : Dev) (dense : List Bool) : Dev :=
  (d.addF .SK_STORE_DENSE_TILES (dense.filter id).length).addF .SK_STORE_SPARSE_TILES (dense.filter (!·)).length

/-! ## Vectors and token rows (R102, R105) -/

/-- Bytes of a vector's elements. -/
def vecElems (fmt width : Nat) : Nat := width * fmtBits fmt / 8

/-- V: the dense bytes of a vector (R102). -/
def vecBytes (fmt width : Nat) (scaled : Bool) : Nat := vecElems fmt width + (if scaled then width / 32 else 0)

/-- A vector: its format, element codes and block scales. -/
structure Vec where
  fmt : Nat
  scaled : Bool
  codes : List Nat
  scales : List Nat
  deriving DecidableEq, Repr

/-- Read a vector from its dense bytes. -/
def Vec.ofBytes (fmt width : Nat) (scaled : Bool) (bs : List Byte) : Vec :=
  ⟨fmt, scaled, unpack (fmtBits fmt) width (bs.take (vecElems fmt width)),
    if scaled then (slice bs (vecElems fmt width) (width / 32)).map BitVec.toNat else []⟩

/-- A vector's dense bytes. -/
def Vec.bytes (v : Vec) : List Byte := pack (fmtBits v.fmt) v.codes ++ v.scales.map (BitVec.ofNat 8)

/-- The widened value of element j. -/
def Vec.value (v : Vec) (flush : Bool) (j : Nat) : F32 :=
  widen v.fmt (if v.scaled then some (v.scales.getD (j / 32) 0) else none) flush (v.codes.getD j 0)

/-- A vector as a tile of one row: the compressed record of R103. -/
def Vec.tile (v : Vec) : Tile := ⟨1, v.codes.length, v.fmt, v.scaled, false, v.codes, v.scales⟩

/-- Narrow a row of FP32 values to a format, in blocks of 32 with a headroom where it is scaled, with a draw for each
element under stochastic rounding. -/
def narrowRow (fmt : Nat) (scaled : Bool) (h : Nat) (flush : Bool) (xs : List F32) (sr : Nat → Option Nat) : Vec × Ev :=
  if scaled then
    let blocks := (List.range (ceilDiv xs.length 32)).map (fun b =>
      narrowBlock fmt h flush ((xs.drop (32 * b)).take 32) (fun i => sr (32 * b + i)))
    (⟨fmt, true, blocks.flatMap (·.2.1), blocks.map (·.1)⟩, (blocks.map (·.2.2)).foldl Ev.add {})
  else
    let out := xs.zipIdx.map (fun e => narrow fmt (sr e.2) flush e.1)
    (⟨fmt, false, out.map Prod.fst, []⟩, (out.map Prod.snd).foldl Ev.add {})

/-- Slot descriptors: FIRST and COUNT of each of 1,024 slots (R77). -/
def slotsOf (bs : List Byte) : List (Nat × Nat) :=
  let n := leNat bs
  (List.range 1024).map (fun i => (field n (8 * i) 0 32, field n (8 * i + 4) 0 32))

/-- The bytes of slot descriptors. -/
def slotBytes (slots : List (Nat × Nat)) : List Byte := slots.flatMap (fun s => leBytes 4 s.1 ++ leBytes 4 s.2)

/-- Token entries: one beyond the highest that a slot covers (log 22). -/
def TokenRows.entries (t : TokenRows) : Nat := t.slots.foldl (fun a s => if s.2 = 0 then a else max a (s.1 + s.2)) 0

/-- The row header keeps R105: SCALED as R102 allows, ROW_BYTES as V rounded up. -/
def TokenRows.ok (t : TokenRows) : Bool :=
  scaledOkVec t.fmt t.scaled && t.rowBytes == roundUp (vecBytes t.fmt t.width t.scaled) 64 && t.rowBytes != 0

/-- Every row lies within the object. -/
def TokenRows.fits (t : TokenRows) : Bool := 8256 + t.entries * t.rowBytes ≤ t.ver.entry.size

/-- Read a token-row object's header. -/
def tokenRows (v : Version) : Op TokenRows := do
  let slots := slotsOf (← rd v 0 8192)
  let n ← rdNat v 8192 64
  return ⟨v, slots, field n 0 0 3, field n 0 3 1 = 1, field n 2 0 16, field n 4 0 32⟩

/-- Read the row of an entry. -/
def TokenRows.row (t : TokenRows) (e : Nat) : Op Vec := do
  return Vec.ofBytes t.fmt t.width t.scaled (← rd t.ver (8256 + e * t.rowBytes) (vecBytes t.fmt t.width t.scaled))

/-- A token-row object's bytes from its rows; rows are ROW_BYTES apart. -/
def tokenRowBytes (slots : List (Nat × Nat)) (fmt width : Nat) (scaled : Bool) (rows : List (List Byte)) : List Byte :=
  let rb := roundUp (vecBytes fmt width scaled) 64
  slotBytes slots ++ padTo 64 (leBytes 1 (fmt + b2n scaled * 8) ++ [0] ++ leBytes 2 width ++ leBytes 4 rb) ++
  rows.flatMap (padTo rb)

/-! ## Receive objects (R107) -/

/-- Where a receive object's row region begins. -/
def Recv.dir (r : Recv) : Nat := 64 + 16 * r.entries.length + 4 * (r.entries.length * r.sources)

/-- The row region of a receive object, as a tile region. -/
def Recv.region (r : Recv) (v : Version) : Region := ⟨v, 0, r.dir, r.rows, r.width, r.fmt, r.scaled, false⟩

/-- The count of an entry's vectors from a source. -/
def Recv.count (r : Recv) (e s : Nat) : Nat := r.counts.getD (e * r.sources + s) 0

/-- The header, expert table and count matrix as bytes. -/
def Recv.headBytes (r : Recv) : List Byte :=
  padTo 64 (leBytes 4 r.sources ++ leBytes 4 r.entries.length ++ leBytes 4 r.rows ++ leBytes 1 r.layer ++
    leBytes 1 (r.fmt + b2n r.scaled * 8) ++ leBytes 2 r.width) ++
  r.entries.flatMap (fun e => leBytes 2 e.expert ++ leBytes 2 e.slot ++ leBytes 4 e.first ++ leBytes 4 e.count ++
    leBytes 1 (b2n e.coppice) ++ [0, 0, 0]) ++
  r.counts.flatMap (leBytes 4)

/-- Read an entry of the expert table. -/
def RecvEntry.ofNat (n : Nat) : RecvEntry :=
  ⟨field n 0 0 16, field n 2 0 16, field n 4 0 32, field n 8 0 32, field n 12 0 1 = 1⟩

/-- Read a receive object's header, tables and counts; `bad` is the failure when the object is shorter than they are. -/
def recvObject (v : Version) (bad : Fail) : Op Recv := do
  let n ← rdNat v 0 64
  let src := field n 0 0 32
  let ents := field n 4 0 32
  need (64 + 16 * ents + 4 * (ents * src) ≤ v.entry.size) bad
  let tab ← rd v 64 (16 * ents)
  let cnt ← rd v (64 + 16 * ents) (4 * (ents * src))
  return ⟨src, field n 8 0 32, field n 12 0 8, field n 13 0 3, field n 13 3 1 = 1, field n 14 0 16,
    (List.range ents).map (fun i => RecvEntry.ofNat (leAt tab (16 * i) 16)),
    (List.range (ents * src)).map (fun i => leAt cnt (4 * i) 4)⟩

/-- A row of a tile region as a vector. -/
def Region.rowVec (g : Region) (r : Nat) : Op Vec := do
  let ts ← (List.range g.tileCols).mapM (fun j => g.tile (r / 32) j)
  let k := r % 32
  return ⟨g.fmt, g.scaled, ts.flatMap (fun t => (t.codes.drop (k * t.cols)).take t.cols),
    if g.scaled then ts.flatMap (fun t => (t.scales.drop (k * ceilDiv t.cols 32)).take (ceilDiv t.cols 32)) else []⟩

/-- The tile records of a region of rows: tile (i, j) holds rows 32i on and columns 256j on; blocks run along rows. A row
not given is zero. -/
def rowRecords (rows width fmt : Nat) (scaled : Bool) (row : Nat → Option Vec) : List (Bool × List Byte) :=
  (List.range (ceilDiv rows 32)).flatMap (fun i =>
    let vs := (List.range (min 32 (rows - 32 * i))).map (fun k => row (32 * i + k))
    (List.range (ceilDiv width 256)).map (fun j =>
      let w := min 256 (width - 256 * j)
      let nb := ceilDiv w 32
      let codes := vs.flatMap (fun v => match v with
        | some v => (v.codes.drop (256 * j)).take w
        | none => List.replicate w 0)
      let scales := if scaled then vs.flatMap (fun v => match v with
        | some v => (v.scales.drop (8 * j)).take nb
        | none => List.replicate nb 0) else []
      Tile.encode ⟨vs.length, w, fmt, scaled, false, codes, scales⟩))

/-! ## Grain tables (R88, R89) -/

/-- A grain record from its 16 bytes (Table 4.6). -/
def Grain.ofNat (n : Nat) : Grain :=
  { token := field n 0 0 22, slot := field n 0 22 10, expert := field n 4 0 16, choice := field n 6 0 4
    replica := field n 6 4 2, dropped := field n 6 6 1 = 1, exited := field n 6 7 1 = 1
    gate := BitVec.ofNat 32 (field n 8 0 32), rank := field n 12 0 16 }

/-- A grain record's 16 bytes; the Sieve writes COPPICE as 0 (Table 4.6). -/
def Grain.bytes (g : Grain) (layer : Nat) : List Byte :=
  leBytes 4 (g.token + g.slot * 2 ^ 22) ++ leBytes 2 g.expert ++
  leBytes 2 (g.choice + g.replica * 16 + b2n g.dropped * 64 + b2n g.exited * 128) ++
  leBytes 4 g.gate.toNat ++ leBytes 2 g.rank ++ leBytes 1 layer ++ [0]

/-- A directory entry: rank, experts with a replica there, first position in the sort index, routed grains (Table 4.8). -/
structure GrainDir where
  rank : Nat
  experts : Nat
  first : Nat
  count : Nat
  deriving DecidableEq, Repr

/-- A grain table (Table 4.7). -/
structure GrainTable where
  routed : Nat
  layer : Nat
  stage : Nat
  seq : Nat
  dirs : List GrainDir
  grains : List Grain
  index : List Nat
  deriving DecidableEq, Repr

/-- Read a grain table; `bad` is the failure when the object is shorter than it says. -/
def grainTable (v : Version) (bad : Fail) : Op GrainTable := do
  let n ← rdNat v 0 64
  let routed := field n 0 0 32
  let emitted := field n 4 0 32
  let nd := field n 8 0 16
  let (dOff, rOff, iOff) := (field n 16 0 32, field n 20 0 32, field n 24 0 32)
  need (dOff + 16 * nd ≤ v.entry.size && rOff + 16 * emitted ≤ v.entry.size && iOff + 4 * routed ≤ v.entry.size) bad
  let ds ← rd v dOff (16 * nd)
  let rs ← rd v rOff (16 * emitted)
  let xs ← rd v iOff (4 * routed)
  return { routed := routed, layer := field n 10 0 8, stage := field n 11 0 2, seq := field n 12 0 32
           dirs := (List.range nd).map (fun i =>
             ⟨leAt ds (16 * i) 2, leAt ds (16 * i + 2) 2, leAt ds (16 * i + 4) 4, leAt ds (16 * i + 8) 4⟩)
           grains := (List.range emitted).map (fun i => Grain.ofNat (leAt rs (16 * i) 16))
           index := (List.range routed).map (fun i => leAt xs (4 * i) 4 % 2 ^ 22) }

/-- A grain table's bytes (R89). -/
def GrainTable.bytes (t : GrainTable) : List Byte :=
  let rOff := 64 + 16 * t.dirs.length
  let iOff := rOff + 16 * t.grains.length
  padTo 64 (leBytes 4 t.routed ++ leBytes 4 t.grains.length ++ leBytes 2 t.dirs.length ++ leBytes 1 t.layer ++
    leBytes 1 t.stage ++ leBytes 4 t.seq ++ leBytes 4 64 ++ leBytes 4 rOff ++ leBytes 4 iOff) ++
  t.dirs.flatMap (fun e => leBytes 2 e.rank ++ leBytes 2 e.experts ++ leBytes 4 e.first ++ leBytes 4 e.count ++ [0, 0, 0, 0]) ++
  t.grains.flatMap (fun g => g.bytes t.layer) ++ t.index.flatMap (leBytes 4)

/-! ## Reduce-on-write targets (R221) -/

/-- A reduce-on-write target: a tile-form FP32 matrix placed in HBM; otherwise the failure of R221. -/
def rowTarget (v : Version) : Op Region := do
  need (v.entry.tier == 1) (.report .faultProt .TIER_ROW_TARGET 0 v.obj)
  let (g, tiles, dir) ← matrixAt v 0
  need (g.fmt == 0 && g.headOk tiles dir) (.report .faultProt .TIER_ROW_TARGET 0 v.obj)
  return g

end Sys2Proof.Machine
end

