-- ==== Sys2Proof/Machine/Arrays.lean ====
section
/-! DEFINITION. The arrays' data path: operands of a product, the chain of one reduction tile, the checks that watch it,
and the Skidder's choice of run path (R142 to R164, R169 to R186, R194 to R197, R228). -/

namespace Sys2Proof.Machine

/-! ## Elements and formats -/

/-- The widened value of an element (R130). -/
def El.val (e : El) (flush : Bool) : F32 := widen e.fmt e.scale flush e.code

/-- Zero in a format. -/
def El.zero (fmt : Nat) : El := ⟨fmt, 0, none⟩

/-- The class of a format: 0 FP32, 1 16-bit, 2 8-bit float, 3 INT8, 4 block-scaled (Table 7.3). -/
def fmtClass (f : Nat) : Nat :=
  match f with
  | 0 => 0
  | 1 => 1
  | 2 => 1
  | 3 => 2
  | 4 => 2
  | 7 => 3
  | _ => 4

/-- How an array accumulates (R133): one product at a time in FP32, in INT32, or by pairs of blocks. -/
inductive Chain where
  | each | int | blocks
  deriving DecidableEq, Repr

/-- The chain of two operand forms of one class. -/
def chainOf (fa : Nat) (sa : Bool) (sb : Bool) : Chain :=
  if fmtClass fa = 4 then .blocks else if fa = 7 then (if sa || sb then .blocks else .int) else .each

/-- L, the cycles to load an activation tile (Table 3.7). -/
def loadCycles (fmt : Nat) (scaled : Bool) : Nat :=
  match fmt with
  | 0 => 64
  | 1 => 32
  | 2 => 32
  | 5 => 13
  | 6 => 9
  | 7 => if scaled then 17 else 16
  | _ => 16

/-- ceil(n * c), the cycles to stream n output columns (Table 3.7). -/
def streamCycles (fmt n : Nat) : Nat :=
  match fmtClass fmt with
  | 0 => n * 8
  | 1 => n * 2
  | 4 => ceilDiv n 2
  | _ => n

/-! ## Activation sources -/

/-- The reduction length of an activation source. -/
def ActSrc.width : ActSrc → Nat
  | .tok t => t.width
  | .reg g => g.cols
/-- The format of an activation source. -/
def ActSrc.fmt : ActSrc → Nat
  | .tok t => t.fmt
  | .reg g => g.fmt
/-- SCALED of an activation source. -/
def ActSrc.scaled : ActSrc → Bool
  | .tok t => t.scaled
  | .reg g => g.scaled
/-- Token entries, or rows, of an activation source. -/
def ActSrc.count : ActSrc → Nat
  | .tok t => t.entries
  | .reg g => g.rows

/-- Element j of a vector. -/
def Vec.el (v : Vec) (j : Nat) : El := ⟨v.fmt, v.codes.getD j 0, if v.scaled then some (v.scales.getD (j / 32) 0) else none⟩

/-- Element (r, c) of a tile. -/
def Tile.el (t : Tile) (r c : Nat) : El := ⟨t.fmt, t.code r c, t.scale r c⟩

/-- The tiles of a region that hold the given rows and columns. -/
def Region.tilesFor (g : Region) (rows cols : List Nat) (own : Nat → Bool) : Op (List ((Nat × Nat) × Tile)) := do
  let is := (rows.map (· / 32)).dedup
  let js := (cols.map (· / 256)).dedup
  let ts ← is.mapM (fun i => js.mapM (fun j => do return ((i, j), ← g.tile i j (own j))))
  return ts.flatten

/-- Look an element up among tiles. -/
def elOf (ts : List ((Nat × Nat) × Tile)) (fmt r c : Nat) : El :=
  match ts.find? (fun e => e.1 == (r / 32, c / 256)) with
  | some e => e.2.el (r % 32) (c % 256)
  | none => El.zero fmt

/-- The elements of some rows and columns of a region, row by row. -/
def Region.els (g : Region) (rows cols : List Nat) (own : Nat → Bool := fun _ => false) : Op (List (List El)) := do
  let ts ← g.tilesFor rows cols own
  return rows.map (fun r => cols.map (elOf ts g.fmt r))

/-- The elements of some rows at some positions of an activation source. -/
def ActSrc.els (a : ActSrc) (rows positions : List Nat) : Op (List (List El)) :=
  match a with
  | .tok t => rows.mapM (fun e => do let v ← t.row e; return positions.map v.el)
  | .reg g => g.els rows positions

/-! ## The chain of one reduction tile (R144, R133) -/

/-- One array tile: activations by row and position, weights by position and output column, the block number of each
position, how the two accumulate, whether the array is folded, the numbers of its output columns, and a fault of a cell. -/
structure TileWork where
  chain : Chain
  flush : Bool
  positions : List Nat
  acts : List (List El)
  weights : List (List El)
  shape : Bool := false
  outs : List Nat := []
  fault : Option ArrayFault := none
  deriving DecidableEq, Repr

/-- A product with what a faulty cell adds to it. -/
def onProduct (e : Option CellErr) (v : Num) : Num :=
  match e with
  | some (.product err ex) => v.add (.fin (err < 0) err.natAbs ex)
  | _ => v

/-- An integer product with what a faulty cell adds to it. -/
def onInt (e : Option CellErr) (v : Int) : Int :=
  match e with
  | some (.product err ex) => v + err * 2 ^ ex.toNat
  | _ => v

/-- A partial sum with the bits that a faulty cell turns over. -/
def onSum (e : Option CellErr) (x : BitVec 32) : BitVec 32 :=
  match e with
  | some (.sum b) => x ^^^ b
  | _ => x

/-- The position of a tile that a physical column holds; the two halves of a folded array hold the same ones (R150). -/
def logCol (shape : Bool) (column : Nat) : Nat := if shape then column % 128 else column

/-- The half of a folded array that a physical column belongs to (R150). -/
def halfOf (shape : Bool) (column : Nat) : Nat := if shape then column / 128 else 0

/-- What the fault does at a data cell: logical row i, output column number n and position k (R150). -/
def TileWork.cell (w : TileWork) (i n k : Nat) : Option CellErr :=
  w.fault.bind (fun f =>
    let col := f.column.toNat
    if f.row.val ≠ 32 ∧ f.row.val + 32 * halfOf w.shape col = i ∧ logCol w.shape col = k ∧ (f.outCol.elim true (fun o => o.toNat == n)) = true
    then some f.err else none)

/-- What the fault does at a checksum cell: half h, output column number n and position k. -/
def TileWork.sumCell (w : TileWork) (h n k : Nat) : Option CellErr :=
  w.fault.bind (fun f =>
    let col := f.column.toNat
    if f.row.val = 32 ∧ halfOf w.shape col = h ∧ logCol w.shape col = k ∧ (f.outCol.elim true (fun o => o.toNat == n)) = true
    then some f.err else none)

/-- Add one product to an FP32 partial sum, counting a flush (R132, R133). -/
def stepEach (flush : Bool) (e : Option CellErr) (acc : F32 × Nat) (a w : F32) : F32 × Nat :=
  let r := accum32 flush acc.1 (onProduct e ((num32 a).mul (num32 w)))
  (onSum e r.1, acc.2 + r.2)

/-- INT32 limits (R133): the value held, and whether it was held. -/
def limit32 (i : Int) : Int × Bool :=
  if i < -(2 ^ 31) then (-(2 ^ 31), true) else if 2 ^ 31 - 1 < i then (2 ^ 31 - 1, true) else (i, false)

/-- The signed value of an INT8 code. -/
def int8 (code : Nat) : Int := toSigned 8 code

/-- The factor of a block scale: exact, NaN for 0xFF, 1 without a scale. -/
def blockFactor : Option Nat → Num
  | none => .fin false 1 0
  | some 255 => .nan
  | some k => .fin false 1 ((k : Int) - 127)

/-- The exact product of two elements before their block factors (R133). -/
def elProduct (a b : El) : Num := (elemNum a.fmt a.code).mul (elemNum b.fmt b.code)

/-- One pair of blocks, each product with what its cell does to it: the exact sum times the factors, added with one rounding
(R133). -/
def stepBlock (flush : Bool) (acc : F32 × Nat) (pairs : List (Option CellErr × El × El)) : F32 × Nat :=
  match pairs with
  | [] => acc
  | p :: _ =>
    let total := pairs.foldl (fun (t : Num) q => t.add (onProduct q.1 (elProduct q.2.1 q.2.2))) Num.zero
    let v := (total.mul (blockFactor p.2.1.scale)).mul (blockFactor p.2.2.scale)
    let r := accum32 flush acc.1 v
    (pairs.foldl (fun x q => onSum q.1 x) r.1, acc.2 + r.2)

/-- Group consecutive positions of one 32-position block. -/
def blockRuns {α : Type} : List (Nat × α) → List (List α)
  | [] => []
  | (p, x) :: rest =>
    match blockRuns rest, rest with
    | g :: gs, (q, _) :: _ => if p / 32 = q / 32 then (x :: g) :: gs else [x] :: g :: gs
    | gs, _ => [x] :: gs

/-- Run one row against one output column, where `err` says what the cell of each position does: the new partial sum, whether
it was held at a limit, and flushes. -/
def runChain (w : TileWork) (err : Nat → Option CellErr) (acc : BitVec 32) (acts weights : List El) : BitVec 32 × Bool × Nat :=
  let pairs := (acts.zip weights).zipIdx
  match w.chain with
  | .each =>
    let r := pairs.foldl (fun s p => stepEach w.flush (err p.2) s (p.1.1.val w.flush) (p.1.2.val w.flush)) (acc, 0)
    (r.1, false, r.2)
  | .int =>
    let r := pairs.foldl (fun (s : BitVec 32 × Bool) p =>
      let (v, h) := limit32 (s.1.toInt + onInt (err p.2) (int8 p.1.1.code * int8 p.1.2.code))
      (onSum (err p.2) (BitVec.ofInt 32 v), s.2 || h)) (acc, false)
    (r.1, r.2, 0)
  | .blocks =>
    let r := (blockRuns (w.positions.zip (pairs.map (fun p => (err p.2, p.1.1, p.1.2))))).foldl (stepBlock w.flush) (acc, 0)
    (r.1, false, r.2)

/-- The weights of output column n, by position. -/
def TileWork.column (w : TileWork) (n : Nat) : List El := w.weights.map (fun r => r.getD n (El.zero 0))

/-- The number of output column n of a tile. -/
def TileWork.outCol (w : TileWork) (n : Nat) : Nat := w.outs.getD n 0

/-- Run a whole tile over its entering partial sums (by row and column): the new partial sums, the elements held at a
limit, and flushes. -/
def TileWork.run (w : TileWork) (acc : List (BitVec 32)) : List (BitVec 32) × List Nat × Nat :=
  let n := (w.weights.headD []).length
  let cols := (List.range n).map w.column
  let out := w.acts.zipIdx.flatMap (fun a => cols.zipIdx.map (fun c =>
    runChain w (w.cell a.2 (w.outCol c.2)) (acc.getD (a.2 * n + c.2) 0) a.1 c.1))
  (out.map Prod.fst, (out.zipIdx.filter (fun o => o.1.2.1)).map Prod.snd, sumNat (out.map (·.2.2)))

/-! ## The checksum row (R161) -/

/-- FP32 sum in ascending order. -/
def fsum (xs : List F32) : F32 := xs.foldl (fadd false) 0#32

/-- The magnitude of an FP32 value. -/
def fabs (x : F32) : F32 := x &&& 0x7FFFFFFF#32

/-- An FP32 value is finite. -/
def finite32 (x : F32) : Bool := match num32 x with | .fin _ _ _ => true | _ => false

/-- What the checksum comparison of a column finds: passed, skipped, or failed. -/
inductive Check where
  | passed | skipped | failed
  deriving DecidableEq, Repr

/-- The column sum s[k] of some rows (R161). -/
def colSum (acts : List (List F32)) (k : Nat) : F32 := fsum (acts.map (fun r => r.getD k 0#32))

/-- C and U of one half of up to 32 rows, where `err` says what its checksum cells do (R161). -/
def checkHalf (err : Nat → Option CellErr) (acts : List (List F32)) (entering : List F32) (ws : List F32) : F32 × F32 :=
  let u := fun (k : Nat) => fsum (acts.map (fun r => fabs (r.getD k 0#32)))
  ws.zipIdx.foldl (fun (cu : F32 × F32) w =>
      ((stepEach false (err w.2) (cu.1, 0) (colSum acts w.2) w.1).1, ffma false (u w.2) (fabs w.1) cu.2))
    (fsum entering, fsum (entering.map fabs))

/-- |C - R| <= eps * U + 2^-118: the subtraction and the addition are FP32 with RNE, the product by a power of two is exact
(R161, Table 7.6). -/
def withinTolerance (epsLog : Int) (c u r : F32) : Bool :=
  !(flt (round32 (((num32 u).scale (-epsLog)).add (.fin false 1 (-118)))) (fabs (fsub false c r)))

/-- The exact checksum of INT8 rows for one output column, where `err` says what the checksum cells do (R161). -/
def intCheck (err : Nat → Option CellErr) (acts : List (List El)) (enter : List (BitVec 32)) (ws : List El) : Int :=
  ws.zipIdx.foldl (fun (t : Int) w =>
      let s := acts.foldl (fun (s : Int) r => s + int8 ((r.getD w.2 (El.zero 7)).code)) 0
      let v := t + onInt (err w.2) (s * int8 w.1.code)
      match err w.2 with
      | some (.sum b) => (BitVec.ofInt 32 v ^^^ b).toInt
      | _ => v)
    (enter.foldl (fun (t : Int) x => t + x.toInt) 0)

/-- Compare output column n of a tile. -/
def checkColumn (w : TileWork) (enter leave : List (BitVec 32)) (held : Bool) (n : Nat) : Check :=
  let ws := w.column n
  let err := fun (h : Nat) => w.sumCell h (w.outCol n)
  if w.chain = .int then
    if held then .skipped
    else
      let c := intCheck (err 0) (w.acts.take 32) (enter.take 32) ws +
        (if w.acts.length ≤ 32 then 0 else intCheck (err 1) (w.acts.drop 32) (enter.drop 32) ws)
      if c = leave.foldl (fun (t : Int) x => t + x.toInt) 0 then .passed else .failed
  else
    let av := w.acts.map (fun r => r.map (fun e => e.val w.flush))
    let wv := ws.map (fun e => e.val w.flush)
    let (c1, u1) := checkHalf (err 0) (av.take 32) (enter.take 32) wv
    let (c2, u2) := if av.length ≤ 32 then (0#32, 0#32) else checkHalf (err 1) (av.drop 32) (enter.drop 32) wv
    let c := if av.length ≤ 32 then c1 else fadd false c1 c2
    let u := if av.length ≤ 32 then u1 else fadd false u1 u2
    let r := fsum leave
    if !finite32 c || !finite32 u || !finite32 r || leave.any (fun x => !finite32 x) then .skipped
    else if withinTolerance (if w.chain = .blocks then 13 else 12) c u r then .passed
    else .failed

/-- Column n of partial sums held by row and column. -/
def columnOf (acc : List (BitVec 32)) (rows cols n : Nat) : List (BitVec 32) :=
  (List.range rows).map (fun i => acc.getD (i * cols + n) 0)

/-- The comparisons of every column of a tile, in order. -/
def TileWork.checks (w : TileWork) (enter leave : List (BitVec 32)) (held : List Nat) : List Check :=
  let n := (w.weights.headD []).length
  let r := w.acts.length
  (List.range n).map (fun c =>
    checkColumn w (columnOf enter r n c) (columnOf leave r n c) (held.any (fun i => i % n == c)) c)

/-! ## The shadow column (R162) -/

/-- The exact product that the cell of logical row i and position k forms for output column n, if the row is in use. -/
def TileWork.product? (w : TileWork) (i n k : Nat) : Option Num :=
  (w.acts[i]?).map (fun r =>
    let a := r.getD k (El.zero 0)
    let b := (w.column n).getD k (El.zero 0)
    match w.chain with
    | .each => (num32 (a.val w.flush)).mul (num32 (b.val w.flush))
    | _ => elProduct a b)

/-- The exact product that the checksum cell of half h and position k forms for output column n. -/
def TileWork.sumProduct (w : TileWork) (h n k : Nat) : Num :=
  let rows := (w.acts.drop (32 * h)).take 32
  (num32 (colSum (rows.map (fun r => r.map (fun e => e.val w.flush))) k)).mul
    (num32 (((w.column n).getD k (El.zero 0)).val w.flush))

/-- A faulty cell's product for output column n is not the one that the shadow column forms. -/
def TileWork.differs (w : TileWork) (f : ArrayFault) (n : Nat) : Bool :=
  let col := f.column.toNat
  let k := logCol w.shape col
  let h := halfOf w.shape col
  let p := if f.row.val = 32 then some (w.sumProduct h n k) else w.product? (f.row.val + 32 * h) n k
  let e := if f.row.val = 32 then w.sumCell h (w.outCol n) k else w.cell (f.row.val + 32 * h) (w.outCol n) k
  decide (k < w.positions.length) && p.any (fun v => onProduct e v != v)

/-- The output columns that stream in cycle t of a tile, of a format's class and n in all (Table 3.7; log 142). -/
def streamOf (fmt n t : Nat) : List Nat :=
  (match fmtClass fmt with
    | 0 => [t / 8]
    | 1 => [t / 2]
    | 4 => [2 * t, 2 * t + 1]
    | _ => [t]).filter (· < n)

/-- The output columns at which the shadow column, which begins the tile at column j, finds the fault, first to last. -/
def TileWork.shadows (w : TileWork) (fmt j : Nat) : List Nat :=
  match w.fault with
  | none => []
  | some f =>
    let n := (w.weights.headD []).length
    (((List.range (streamCycles fmt n)).filter (fun t => (j + t) % 256 == f.column.toNat)).flatMap (streamOf fmt n)).filter
      (w.differs f)

/-- A failed check of an array: counted, captured if no capture is held, and, the first of its kind on the array in the command,
reported; the owning command is killed with FAULT_DATA (R163). -/
def Dev.arrFault (d : Dev) (id arr : Nat) (first shadow : Bool) (column row outCol : Nat) : Dev :=
  let d := if shadow then d.addF .MA_ARR_CHECKS_SHD_FAIL 1 arr else d.addF .MA_ARR_CHECKS_CHK_FAIL 1 arr
  let d := if d.flag .MA_ARR_FAULT_VALID arr then d
    else ((((d.setF .MA_ARR_FAULT_COLUMN (if shadow then column else 255) arr).setF .MA_ARR_FAULT_ROW row arr).setF
      .MA_ARR_FAULT_KIND (b2n shadow) arr).setF .MA_ARR_FAULT_VALID 1 arr).setF .MA_ARR_FAULT_OUT_COL (outCol % 2 ^ 24) arr
  let index := arr * 2 ^ 40 + (d.reg .MA_ARR_FAULT arr).toNat % 2 ^ 40
  let d := d.rateEvent 5 arr 1
  if first then d.failReport id 0 .faultData (if shadow then .MA_SHADOW else .MA_CHECKSUM) 0 index else d.failCmd id .faultData

/-! ## The Skidder's run path (R178, R179) -/

/-- The Skidder of an array (R16). -/
def skOf (arr : Nat) : Nat := arr / 8

/-- What the Skidder takes in over its mesh stop (SK_BYTES_IN). -/
def Dev.skIntake (d : Dev) (arr n : Nat) : Dev := d.addF .SK_BYTES_IN_BYTES n (skOf arr)

/-- The version's bytes lie in the array's own slab. -/
def Version.inSlab (v : Version) (arr : Nat) : Bool :=
  v.entry.tier == 2 && v.entry.widthM1 == 0 && v.entry.members.getD 0 255 == arr

/-- The bytes of some rows of n elements, with their block scales where they carry them. -/
def rowBytesOf (fmt : Nat) (scaled : Bool) (rows n : Nat) : Nat :=
  rows * (ceilDiv (n * fmtBits fmt) 8 + (if scaled then ceilDiv n 32 else 0))

/-- An object's records of a tile column lie in the array's own slab. -/
def Region.inSlab (g : Region) (arr j : Nat) : Bool :=
  g.ver.entry.tier == 2 && g.ver.entry.members.getD (g.member j) 255 == arr

/-- The union of the group's rows: the bitmap bits of each row, or-ed (R178). -/
def unionBits (recs : List (TileHead × List Byte)) : List Nat :=
  let cols := (recs.map (fun r => r.1.cols)).headD 0
  (List.range cols).filter (fun c => recs.any (fun r =>
    let bm := leNat (slice r.2 16 r.1.bitmapBytes)
    (List.range r.1.rows).any (fun i => bit bm (i * r.1.cols + c))))

/-- The choice of R178 for one stored tile of a group: its positions within the tile if it is compacted, none if it runs
dense. By blocks of 32 positions for the block-scaled classes. -/
def choosePath (compactEn : Bool) (density : Nat) (byBlock : Bool) (recs : List (TileHead × List Byte)) : Option (List Nat) :=
  let cols := (recs.map (fun r => r.1.cols)).headD 0
  let nnz := sumNat (recs.map (fun r => r.1.nnz))
  let rows := sumNat (recs.map (fun r => r.1.rows))
  if !compactEn || recs.any (fun r => r.1.dense) then none
  else if density * rows * cols < nnz * 1024 then none
  else
    let u := unionBits recs
    let marked := (u.map (· / 32)).dedup
    let size := if byBlock then min (32 * marked.length) cols else u.length
    let keep := if byBlock then (List.range cols).filter (fun c => marked.contains (c / 32)) else u
    if size * 1024 ≤ density * cols then some keep else none

/-! ## Transposition and conversion (R185, R195) -/

/-- Re-block a block-scaled source along its consumer's reduction: for each line of elements along the reduction, widen
and narrow anew with headroom 0, with the events (R131, R185). -/
def reblock (flush : Bool) (fmt : Nat) (line : List El) : List El × Ev :=
  let blocks := (List.range (ceilDiv line.length 32)).map (fun b =>
    narrowBlock fmt 0 flush (((line.drop (32 * b)).take 32).map (fun e => e.val flush)) (fun _ => none))
  (blocks.flatMap (fun b => b.2.1.map (fun c => ⟨fmt, c, some b.1⟩)), (blocks.map (·.2.2)).foldl Ev.add {})

/-- Convert an element to the product format P, to nearest even (R195), with its events. -/
def El.convert (e : El) (p : Nat) (flush : Bool) : El × Ev :=
  let (c, ev) := narrow p none flush (e.val flush)
  (⟨p, c, none⟩, ev)

/-- Count narrowing and accumulation events for a partition (MA_FMT_EVENTS). -/
def Dev.fmtEvents (d : Dev) (p : Nat) (ev : Ev) : Dev :=
  ((d.addF .MA_FMT_EVENTS_SAT ev.sat p).addF .MA_FMT_EVENTS_NAN ev.nan p).addF .MA_FMT_EVENTS_FLUSHED ev.flushed p

/-- The partition's subnormal setting is FLUSH (R132). -/
def Dev.flush (d : Dev) (p : Nat) : Bool := d.flag .MA_FMT_PART_SUB p

end Sys2Proof.Machine
end

