-- ==== Sys2Proof/Machine/Layers.lean ====
section
/-! DEFINITION. LAYER commands: launch checks and the plan of array work, array tiles, compaction, transposition, staging,
deadlines and Coppice service, and the objects written at the end (R146 to R165, R178 to R201, R224 to R229). -/

namespace Sys2Proof.Machine

/-! ## ARGS (Table 7.4, Table 9.3) -/

/-- KIND. -/
def Cmd.kind (c : Cmd) : Nat := c.arg 0 0 4
/-- EPI. -/
def Cmd.epi (c : Cmd) : Nat := c.arg 0 4 4
/-- BSLOT. -/
def Cmd.bslot (c : Cmd) : Nat := c.arg 2 0 6
/-- BFMT. -/
def Cmd.bfmt (c : Cmd) : Bool := c.arg 2 7 1 = 1
/-- TENSOR_ID. -/
def Cmd.tensor (c : Cmd) : Nat := c.arg 4 0 24
/-- GRAD of KIND 4 and 5, STASH of KIND 6 and 7. -/
def Cmd.gradOrStash (c : Cmd) : Nat := c.arg 8 0 24
/-- PFMT. -/
def Cmd.pfmt (c : Cmd) : Nat := c.arg 8 24 3
/-- WT. -/
def Cmd.wt (c : Cmd) : Bool := c.arg 8 27 1 = 1
/-- An expert kind: 3, 5 or 7. -/
def Cmd.expertKind (c : Cmd) : Bool := c.kind = 3 || c.kind = 5 || c.kind = 7
/-- A backward kind: 4 or 5. -/
def Cmd.backward (c : Cmd) : Bool := c.kind = 4 || c.kind = 5
/-- A router kind: 1 or 2. -/
def Cmd.router (c : Cmd) : Bool := c.kind = 1 || c.kind = 2
/-- A saving kind: 6 or 7. -/
def Cmd.saving (c : Cmd) : Bool := c.kind = 6 || c.kind = 7

/-! ## Array sets -/

/-- A DISABLE of the array has launched and not ended (R63, R64). -/
def Dev.stopping (d : Dev) (n : Nat) : Bool :=
  d.cmds.any (fun c => c.opcode == 0x0D && c.running && c.arg 0 0 8 == 0 && c.arg 2 0 16 == n)

/-- The arrays of a partition's set. -/
def Dev.partArrays (d : Dev) (p : Nat) : List Nat :=
  (List.range 152).filter (fun n => bit (d.f .PART_ARRAYS_ARRAYS p (n / 32)) (n % 32))

/-- The partition's arrays that a launching LAYER may use: enabled, and not stopped (R63, R155). -/
def Dev.liveArrays (d : Dev) (p : Nat) : List Nat := (d.partArrays p).filter (fun n => d.arrState n == 0 && !d.stopping n)

/-- The partition runs in shape mode (R150). -/
def Dev.shape (d : Dev) (p : Nat) : Bool := d.flag .MA_PART_MODE_SHAPE p

/-- Rows of a token group: 32, or 64 in shape mode (R155). -/
def Dev.groupRows (d : Dev) (p : Nat) : Nat := if d.shape p then 64 else 32

/-- Positions of an array reduction tile: 256, or 128 in shape mode (R179). -/
def Dev.tileWidth (d : Dev) (p : Nat) : Nat := if d.shape p then 128 else 256

/-! ## Launch checks (R154, R191) -/

/-- MA_OPERAND with an item of R154 or R191. -/
def operand (item : Nat) : Fail := .report .faultData .MA_OPERAND 0 item

/-- The version that an input handle resolved to. -/
def inVer (c : Cmd) (obj : Nat) : Op Version :=
  match c.input obj with
  | some v => pure v
  | none => throw (.plain .faultProt)

/-- A token-row object, checked by item 1. -/
def checkedRows (v : Version) : Op TokenRows := do
  need (8256 ≤ v.entry.size) (operand 1)
  let t ← tokenRows v
  need (t.ok && t.fits) (operand 1)
  return t

/-- A matrix object at a byte of a version, checked by item 1. -/
def checkedMatrix (v : Version) (off : Nat) : Op Region := do
  need (off + 64 ≤ v.entry.size) (operand 1)
  let (g, tiles, dir) ← matrixAt v off
  need (g.headOk tiles dir) (operand 1)
  need (← g.fits) (operand 1)
  return g

/-- A weight matrix: a scaled one must have COLBLK 1 (R175). -/
def checkedWeights (v : Version) : Op Region := do
  let g ← checkedMatrix v 0
  need (!g.scaled || g.colblk) (operand 1)
  return g

/-- A receive object, checked by item 1. -/
def checkedRecv (v : Version) : Op Recv := do
  need (64 ≤ v.entry.size) (operand 1)
  let r ← recvObject v (operand 1)
  need (scaledOkTile r.fmt r.scaled) (operand 1)
  need (r.entries.all (fun e => e.first % 32 == 0 && decide (e.first + e.count ≤ r.rows))) (operand 1)
  need (← (r.region v).fits) (operand 1)
  return r

/-- Whether IN0 of a KIND 4 is a tile-form matrix object: its header is well formed as one (log 24). -/
def looksMatrix (v : Version) : Op Bool := do
  let (g, tiles, dir) ← matrixAt v 0
  return g.headOk tiles dir && g.rows != 0 && g.cols != 0

/-- An expert weight table's entry (Table 7.5): WEIGHTS, COPPICE, FIRST_POS, N_POS, SPLIT. -/
structure WEntry where
  weights : Nat
  coppice : Nat
  firstPos : Nat
  nPos : Nat
  split : Bool
  deriving DecidableEq, Repr

/-- Read an expert weight table, checked by item 1. -/
def weightTable (v : Version) : Op (List WEntry) := do
  need (16 ≤ v.entry.size) (operand 1)
  let n ← rdNat v 0 4
  need (16 + 16 * n ≤ v.entry.size) (operand 1)
  let bs ← rd v 16 (16 * n)
  return (List.range n).map (fun i =>
    ⟨leAt bs (16 * i) 3, leAt bs (16 * i + 4) 3, leAt bs (16 * i + 8) 2, leAt bs (16 * i + 10) 2, leAt bs (16 * i + 12) 1 % 2 = 1⟩)

/-- Read an expert gradient table: one handle for each local slot (R189). -/
def gradTable (v : Version) : Op (List Nat) := do
  need (16 ≤ v.entry.size) (operand 1)
  let n ← rdNat v 0 4
  need (16 + 4 * n ≤ v.entry.size) (operand 1)
  let bs ← rd v 16 (4 * n)
  return (List.range n).map (fun i => leAt bs (4 * i) 3)

/-- Resolve a handle at launch and hold its version as an input of the command (R57, R205). -/
def resolveNow (id p obj : Nat) : Op Version := do
  match (← get).resolve id p obj with
  | (d, some v) =>
    set (d.updCmd id (fun c => { c with inputs := c.inputs ++ [v] }))
    return v
  | (d, none) => do
    set d
    throw (.plain .faultProt)

/-- The highest SLOT of a receive object's table, plus 1. -/
def Recv.slotsNeeded (r : Recv) : Nat := r.entries.foldl (fun a e => max a (e.slot + 1)) 0

/-! ## Outputs -/

/-- The format and SCALED of the output, and the headroom: under BFMT the slot's MARGIN, whatever its proposal (R152, R160,
R199; log 144). -/
def LayerRun.outForm (r : LayerRun) (c : Cmd) (token : Bool) : Nat × Bool × Nat :=
  if c.bfmt && !c.router then
    let f := Fld.MA_BR_PROP_FORMAT.of r.prop
    (f, fmtScaled f || (!token && (f = 3 || f = 4)), r.slotMargin)
  else
    let f := c.arg 1 0 3
    (f, fmtScaled f || c.arg 1 6 1 = 1, c.arg 1 4 2)

/-- The columns of the output: K for a backward command, else N, or N / 2 under SwiGLU (R158, R159, R196). -/
def LayerRun.outWidth (r : LayerRun) (c : Cmd) : Nat :=
  if c.backward then r.k else if c.epi = 4 then r.n / 2 else r.n

/-- OUT0 is in token-row form. -/
def LayerRun.tokenOut (r : LayerRun) (c : Cmd) : Bool :=
  !c.expertKind && (match r.src with | .tok _ => true | .reg _ => false)

/-! ## The plan (R155 to R158, R197) -/

/-- Cut a run of rows from `first` on into groups. -/
def cutRows (first count g : Nat) : List (List Nat) :=
  (List.range (ceilDiv count g)).map (fun i => (List.range (min g (count - g * i))).map (fun k => first + g * i + k))

/-- The array at a position of the enabled list (R155, R158). -/
def atPos (arrays : List Nat) (p : Nat) : Nat := arrays.getD (p % arrays.length) 0

/-- A unit of work whose first stored tile column is `seen`. -/
def newUnit (what arr entry : Nat) (rows cols : List Nat) (seen : Nat := 0) : LUnit :=
  { arr := arr, entry := entry, what := what, rows := rows, cols := cols, seen := seen }

/-- The columns that a router of groups computes for a token group: the union of the blocks its rows chose (R157). -/
def groupCols (groups : List (Nat × Nat)) (gsize n : Nat) (rows : List Nat) : List Nat :=
  let gs := (groups.filter (fun e => rows.contains e.1)).map Prod.snd
  (List.range n).filter (fun c => gs.contains (c / 2 ^ gsize))

/-- The units of an expert entry's product: by token tiles, or by slices of the result columns (R158). -/
def entryUnits (arrays : List Nat) (g res : Nat) (swiglu : Bool) (n : Nat) (i : Nat) (e : LEntry) : List LUnit :=
  if e.count = 0 then []
  else
    let tiles := cutRows e.first e.count g
    if !e.split then
      tiles.zipIdx.map (fun t => newUnit 0 (atPos arrays (e.firstPos + t.2 % e.nPos)) i t.1 (List.range n))
    else
      let w := ceilDiv res e.nPos
      (List.range e.nPos).flatMap (fun q =>
        let js := (List.range (min w (res - w * q))).map (· + w * q)
        let cols := if swiglu then js ++ js.map (· + res) else js
        if js.isEmpty then [] else tiles.map (fun t => newUnit 0 (atPos arrays (e.firstPos + q)) i t cols))

/-- The units of a weight gradient: K rows in groups, on the arrays that R197 names; `seen` is the first tile column of X with
tokens of the entry. -/
def gradUnits (arrays : List Nat) (g k n : Nat) (pos : Nat → Nat) (entry seen : Nat) : List LUnit :=
  (cutRows 0 k g).zipIdx.map (fun t => newUnit 1 (atPos arrays (pos t.2)) entry t.1 (List.range n) seen)

/-- Numbers from 0 to n - 1 in runs of at most w. -/
def cutCols (n w : Nat) : List (List Nat) := cutRows 0 n w

/-- Columns of a transposing block: 128 of FP32, 256 of a narrower format (R184). -/
def blockCols (fmt : Nat) : Nat := if fmt = 0 then 128 else 256

/-- The transposing blocks of a weight matrix for an array that needs it (R184, R196). -/
def weightBlocks (arr entry : Nat) (w : Region) : List TBlock :=
  (cutCols w.rows 256).flatMap (fun rows => (cutCols w.cols (blockCols w.fmt)).map (fun cols =>
    { arr := arr, entry := entry, stash := false, rows := rows, cols := cols }))

/-- The transposing blocks of a saved X: each group of IN0 rows passes once, through the Skidder of the first array that loads
it (R184, R193). -/
def stashBlocks (products : List LUnit) (k fmt : Nat) : List TBlock :=
  ((products.map LUnit.rows).dedup).flatMap (fun rows =>
    match products.find? (fun u => u.rows == rows) with
    | none => []
    | some u => (cutCols k (blockCols fmt)).map (fun cols =>
        { arr := u.arr, entry := u.entry, stash := true, rows := rows, cols := cols }))

/-- The Landing class for a size: the smallest that holds it, or the largest with how many buffers (R116, R221). -/
def lndClass (n : Nat) : Nat × Nat :=
  match (List.range 8).find? (fun k => decide (n ≤ lndSize k)) with
  | some k => (k, 1)
  | none => (7, ceilDiv n (lndSize 7))

/-- Take Landing buffers for a command, or fail with the refusal (R221, R231). -/
def takeBuffers (id p k : Nat) : Nat → Op (List (Nat × Nat))
  | 0 => return []
  | n + 1 => do
    match (← get).lndAlloc p k (.command id) with
    | (d, .ok i) =>
      set d
      return (k, i) :: (← takeBuffers id p k n)
    | (d, .error st) => do
      set d
      throw (.plain st)

/-- A reduce-on-write target is not a tile-form FP32 matrix placed in HBM (R221). A target with no current version has no
matrix to check yet. -/
def targetBad (k : Claim) : Op Bool := do
  if k.ver.entry.tier ≠ 1 then return true
  else if !k.ver.entry.hasCur then return false
  else
    let (g, tiles, dir) ← matrixAt { k.ver with buf := k.ver.entry.cur } 0
    return !(g.fmt == 0 && g.headOk tiles dir)

/-- Make a delta for a reduce-on-write target: its buffers hold +0 (R221). -/
def makeDelta (id p rows cols : Nat) (k : Claim) : Op Unit := do
  let (cls, n) := lndClass (rows * cols * 4)
  let bufs ← takeBuffers id p cls n
  bufs.forM (fun b => Op.mem (fun d => match d.lndZero b (lndSize b.1) with
    | .ok d => (d, .ok ())
    | .error e => (d, .error e)))
  Op.act (fun d => d.updCmd id (fun c => { c with deltas := c.deltas ++ [⟨k.ver.obj, rows, cols, bufs, false⟩] }))

/-- The gradient targets' shapes are K rows by N columns of FP32 (R191, item 9). -/
def checkTarget (k : Claim) (rows cols : Nat) : Op Unit := do
  if k.ver.entry.hasCur then
    let ver := { k.ver with buf := k.ver.entry.cur }
    let (g, tiles, dir) ← matrixAt ver 0
    need (g.fmt == 0 && g.headOk tiles dir && g.rows == rows && g.cols == cols) (operand 9)

/-- A region of a stash holds E4M3 with SCALED 1 and COLBLK 0, and the given shape (R192). -/
def stashRegion (g : Region) (rows cols : Nat) : Bool :=
  g.rows == rows && g.cols == cols && g.fmt == 3 && g.scaled && !g.colblk

/-- The stash's header and regions, checked by item 1 (Table 9.4): T, K, N_Z, EPI and the X and Z regions. -/
def readStash (v : Version) : Op (Nat × Nat × Nat × Nat × Region × Option Region) := do
  need (64 ≤ v.entry.size) (operand 1)
  let n ← rdNat v 0 64
  let (tokens, k, nz) := (field n 0 0 32, field n 4 0 32, field n 8 0 32)
  let x ← checkedMatrix v (field n 16 0 32)
  need (stashRegion x k tokens) (operand 1)
  let z ← if nz = 0 then pure none
    else do
      let z ← checkedMatrix v (field n 20 0 32)
      need (stashRegion z tokens nz) (operand 1)
      pure (some z)
  return (tokens, k, nz, field n 12 0 4, x, z)

/-- K and N of a weight matrix, by WT. -/
def dimsOf (c : Cmd) (g : Region) : Nat × Nat := if c.backward && c.wt then (g.cols, g.rows) else (g.rows, g.cols)

/-- The expert entries of a LAYER, with the weights of those that hold rows (R158). -/
def expertEntries (id : Nat) (c : Cmd) (r : Recv) (tab : List WEntry) (grads : List Nat) : Op (List LEntry) :=
  r.entries.mapM (fun e => do
    let t := tab.getD e.slot ⟨0, 0, 0, 0, false⟩
    let w ← if e.count = 0 then pure none
      else do
        need (t.nPos ≠ 0) (operand 1)
        let v ← resolveNow id c.part t.weights
        some <$> checkedWeights v
    let g := grads.getD e.slot 0
    return { expert := e.expert, slot := e.slot, first := e.first, count := e.count, firstPos := t.firstPos, nPos := t.nPos
             split := t.split, weights := w, coppice := t.coppice, grad := if g = 0 then none else some g })

/-- Where a unit's stored tile columns end, for COMPACTION: those of an entry's X tiles end with its rows (R197). -/
def LayerRun.storedCols (r : LayerRun) (u : LUnit) : Nat :=
  if u.what = 1 then r.stashX.elim 0 (fun x => match r.recv.bind (fun _ => r.entries[u.entry]?) with
    | some e => min x.tileCols (ceilDiv (e.first + e.count) 256)
    | none => x.tileCols)
  else match r.src with
    | .tok _ => 0
    | .reg g => g.tileCols

/-- The reduction of a unit. -/
def LayerRun.reduction (r : LayerRun) (c : Cmd) (u : LUnit) : Nat :=
  if u.what = 1 then r.src.count else if c.backward then r.n else r.k

/-- A unit of a token-row operand needs no compaction: its list holds every position (R178). -/
def LayerRun.ready (r : LayerRun) (c : Cmd) (u : LUnit) : LUnit :=
  match r.src with
  | .tok _ => if u.what = 1 then u else { u with positions := List.range (r.reduction c u) }
  | .reg _ => u

/-- The output columns of a unit whose weights do not lie in its array's own slab, and must be staged (R224). -/
def LayerRun.away (r : LayerRun) (u : LUnit) : List Nat :=
  match (r.entries[u.entry]?).bind LEntry.weights with
  | none => []
  | some g => u.cols.filter (fun n => !g.inSlab u.arr (n / 256))

/-- The bytes of a unit's largest chunk (R224, R225). -/
def chunkBytes (g : Region) (rows cols : Nat) : Nat :=
  rows * ceilDiv (cols * fmtBits g.fmt) 8 + (if g.scaled then ceilDiv rows 32 * cols else 0)

/-- The chunks of an expert unit come through staging: a forward product, or a backward one whose weights are stored
transposed (R196, R224; log 25). -/
def LayerRun.stages (r : LayerRun) (c : Cmd) (u : LUnit) : Bool :=
  c.expertKind && u.what == 0 && (!c.backward || c.wt) && !(r.away u).isEmpty

/-- Plan a LAYER at its launch: the checks of R154 and R191 in their order, what it latches, and its units of work. -/
def layerStart (id : Nat) : Op Unit := do
  let d ← get
  match d.cmd? id with
  | none => pure ()
  | some c =>
    let p := c.part
    let arrays := d.liveArrays p
    need (!arrays.isEmpty) (.plain .killedDisable)
    need (!(c.bfmt && !c.router) || d.flag .MA_BR_CFG_ENABLE c.bslot) (.plain .killedDisable)
    let on := d.brOn c.bslot p
    -- every target is checked, whatever else fails (R54, R221)
    let misplaced ← (c.claims.filter Claim.target).filterM targetBad
    misplaced.forM (fun k => Op.act (fun d => d.failWith id 0 (.report .faultProt .TIER_ROW_TARGET 0 k.ver.obj)))
    -- operands, with item 1
    let v0 ← inVer c (c.inp 0)
    let recv ← if c.expertKind then some <$> checkedRecv v0 else pure none
    let src ← match recv with
      | some r => pure (ActSrc.reg (r.region v0))
      | none => do
        let m ← if c.kind = 4 then looksMatrix v0 else pure false
        if m then ActSrc.reg <$> checkedMatrix v0 0 else ActSrc.tok <$> checkedRows v0
    let v1 ← inVer c (c.inp 1)
    let tab ← if c.expertKind then weightTable v1 else pure []
    let stash ← if c.backward then do
        let v2 ← inVer c (c.inp 2)
        some <$> readStash v2
      else pure none
    let grads ← if c.kind = 5 ∧ c.gradOrStash ≠ 0 then do
        let gv ← resolveNow id p c.gradOrStash
        gradTable gv
      else pure []
    let addend ← if (c.kind = 0 ∨ c.kind = 6) ∧ c.inp 2 ≠ 0 then do
        let v2 ← inVer c (c.inp 2)
        some <$> checkedRows v2
      else pure none
    let groups ← if c.kind = 2 then do
        let v2 ← inVer c (c.inp 2)
        let t ← grainTable v2 (operand 1)
        let slots := match src with | .tok t => t.slots | .reg _ => []
        pure (t.grains.map (fun g => ((slots.getD g.slot (0, 0)).1 + g.token, g.expert)))
      else pure []
    -- item 7 and item 10 stand before the entries' weights are read
    match recv with
      | some r => need (r.slotsNeeded ≤ tab.length) (operand 7)
      | none => pure ()
    let entries ← match recv with
      | some r => expertEntries id c r tab grads
      | none => do
        let g ← checkedWeights v1
        pure [{ expert := 0, slot := 0, first := 0, count := src.count, firstPos := 0, nPos := 1, split := false,
                  weights := some g, coppice := 0, grad := if c.kind = 4 ∧ c.gradOrStash ≠ 0 then some c.gradOrStash else none }]
    let live := entries.filterMap LEntry.weights
    let dims := live.map (dimsOf c)
    let (k, n) := match dims with
      | x :: _ => x
      | [] => (src.width, src.width)
    need (dims.all (fun x => x.2 == n)) (operand 1)
    -- items 2 to 6
    need (c.backward || live.all (fun g => fmtClass g.fmt == fmtClass src.fmt)) (operand 2)
    need (if c.backward then dims.all (fun x => src.width == (if c.epi = 4 then x.2 / 2 else x.2))
      else dims.all (fun x => x.1 == src.width)) (operand 3)
    need (addend.all (fun a => a.entries == src.count && a.width == (if c.epi = 4 then n / 2 else n))) (operand 4)
    need (!(c.epi == 4) || n % 2 == 0) (operand 5)
    let g := d.groupRows p
    let res := if c.backward then k else if c.epi = 4 then n / 2 else n
    let acols := if c.backward then k else n
    let base : LayerRun :=
      { id := id, arrays := arrays, seed := d.reg .MA_FMT_SEED p, prop := d.reg .MA_BR_PROP c.bslot
        margin := if on then some (d.f .MA_BR_CFG_MARGIN c.bslot) else none, slotMargin := d.f .MA_BR_CFG_MARGIN c.bslot, feed := on && c.arg 2 6 1 == 1
        k := k, n := n, src := src, addend := addend, recv := recv
        stashX := stash.map (fun s => s.2.2.2.2.1), stashZ := stash.bind (fun s => s.2.2.2.2.2)
        entries := entries, groups := groups, units := [], blocks := [], out := [], z := [], waits := [], copper := []
        deadline := none, missAt := none, noCoppice := false }
    let products := if c.expertKind then
        (entries.zipIdx).flatMap (fun e => entryUnits arrays g res (c.epi == 4 && !c.backward) acols e.2 e.1)
      else (cutRows 0 src.count g).zipIdx.map (fun t =>
        newUnit 0 (atPos arrays t.2) 0 t.1 (if c.kind = 2 then groupCols groups (c.arg 3 0 4) n t.1 else List.range acols))
    let trained := fun (e : LEntry) => e.grad.isSome && (c.kind == 4 || e.count != 0)
    let dw := if !c.backward then [] else (entries.zipIdx).flatMap (fun e =>
      if !trained e.1 then []
      else gradUnits arrays g k n (fun t => if c.kind = 4 then t else e.1.firstPos + t % e.1.nPos) e.2 (e.1.first / 256))
    let units := (products ++ dw).map (base.ready c)
    need (units.all (fun u => u.cols.length ≤ (if d.shape p then 4096 else 8192))) (operand 6)
    -- items 8 to 11
    match stash with
      | none => pure ()
      | some (t, sk, nz, epi, _, _) =>
        need (t == src.count && dims.all (fun x => x.1 == sk) && epi == c.epi && (c.epi == 0 || nz == n)) (operand 8)
    let targets := ((entries.filter trained).filterMap LEntry.grad).dedup
    match recv with
      | some r => need (c.kind ≠ 5 || c.gradOrStash == 0 || decide (r.slotsNeeded ≤ grads.length)) (operand 10)
      | none => pure ()
    targets.forM (fun t => match c.claims.find? (fun k => k.target && k.ver.obj == t) with
      | some cl => checkTarget cl k n
      | none => throw (operand 9))
    need (!(c.bfmt && 4 ≤ c.kind && base.tokenOut c && fmtScaled (Fld.MA_BR_PROP_FORMAT.of base.prop))) (operand 11)
    -- staging (R224)
    let half := d.f .TIER_PART_CFG_STAGE_64K p * 65536 / 2
    let big := units.any (fun u => base.stages c u &&
      match (entries[u.entry]?).bind LEntry.weights with
      | some w => decide (half < chunkBytes w (min (d.tileWidth p) (base.reduction c u)) (base.away u).length)
      | none => false)
    need (!big) (.report .quota .TIER_STAGE 0 0)
    need misplaced.isEmpty .given
    -- deltas (R221)
    targets.forM (fun t => match c.claims.find? (fun k => k.target && k.ver.obj == t) with
      | some cl => makeDelta id p k n cl
      | none => pure ())
    let xblocks := if c.saving then stashBlocks products k src.fmt else []
    let wblocks := if c.backward && !c.wt then
        ((products.map (fun u => (u.arr, u.entry))).dedup).flatMap (fun e =>
          ((entries[e.2]?).bind LEntry.weights).elim [] (weightBlocks e.1 e.2))
      else []
    let start := SMap.get 0 d.ring.stepStart p
    let dl := d.f .TIER_DEADLINE_D p
    let deadline := if c.kind = 3 ∧ dl ≠ 0 ∧ start ≠ 0 then some (start - 1 + dl) else none
    let run := { base with units := units, blocks := xblocks ++ wblocks, deadline := deadline }
    modify (fun d => { d with arr := { d.arr with runs := d.arr.runs ++ [run] } })
    -- a paired SIEVE learns the tokens that it will be sent (R78)
    let slots := match src with | .tok t => t.slots | .reg _ => []
    modify (fun d => { d with sv := { d.sv with
      ctxs := mapIf (fun x => c.pair == some x.id) (fun x => { x with slots := some slots, width := n }) d.sv.ctxs } })

/-! ## Running units -/

/-- The run of a LAYER. -/
def Dev.run? (d : Dev) (id : Nat) : Option LayerRun := d.arr.runs.find? (fun r => r.id == id)

/-- Change the run of a LAYER. -/
def Dev.updRun (d : Dev) (id : Nat) (g : LayerRun → LayerRun) : Dev :=
  { d with arr := { d.arr with runs := mapIf (fun r => r.id == id) g d.arr.runs } }

/-- Change one unit of a run. -/
def Dev.updUnit (d : Dev) (id i : Nat) (g : LUnit → LUnit) : Dev :=
  d.updRun id (fun r => { r with units := r.units.zipIdx.map (fun u => if u.2 = i then g u.1 else u.1) })

/-- The running LAYER with a number, with its run and one of its units. -/
def Dev.unit? (d : Dev) (id i : Nat) : Option (Cmd × LayerRun × LUnit) :=
  match d.cmd? id, d.run? id with
  | some c, some r => if c.running then (r.units[i]?).map (fun u => (c, r, u)) else none
  | _, _ => none

/-- The chain of a LAYER's products (R133, R195). -/
def LayerRun.chain (r : LayerRun) (c : Cmd) (u : LUnit) : Chain :=
  if u.what = 2 then .blocks
  else if c.backward then .each
  else match (r.entries[u.entry]?).bind LEntry.weights with
    | some g => chainOf r.src.fmt r.src.scaled g.scaled
    | none => chainOf r.src.fmt r.src.scaled false

/-- dZ of some tokens at some columns, in format P (R194, R195), with the events of forming and narrowing it. -/
def LayerRun.dzRows (r : LayerRun) (c : Cmd) (fl : Bool) (tokens ns : List Nat) : Op (List (List (El × Ev))) := do
  let half := r.n / 2
  let gcols := if c.epi = 4 then ns.map (· % half) else ns
  let g ← r.src.els tokens gcols
  let val := fun (e : El) => e.val fl
  let d32 ← if c.epi = 0 then pure (g.map (fun row => row.map (fun e => (val e, 0))))
    else match r.stashZ with
      | none => pure (g.map (fun row => row.map (fun e => (val e, 0))))
      | some z => do
        if c.epi = 4 then
          let a ← z.els tokens gcols
          let b ← z.els tokens (gcols.map (· + half))
          pure ((g.zip (a.zip b)).map (fun (gr, ar, br) =>
            (ns.zip (gr.zip (ar.zip br))).map (fun (n, ge, ae, be) => dSwiglu fl (n < half) (val ge) (val ae) (val be))))
        else
          let zs ← z.els tokens ns
          pure ((g.zip zs).map (fun (gr, zr) => (gr.zip zr).map (fun (ge, ze) => dEpilogue fl c.epi (val ge) (val ze))))
  return d32.map (fun row => row.map (fun x =>
    let (code, ev) := narrow c.pfmt none fl x.1
    (⟨c.pfmt, code, none⟩, ev.add { flushed := x.2 })))

/-- Events of a list of conversions. -/
def sumEv (l : List (List (El × Ev))) : Ev := (l.flatten.map Prod.snd).foldl Ev.add {}

/-- Events of the narrowings of a LAYER: counted for its partition, and shown to the slot that it feeds (R131, R140). -/
def LayerRun.narrowEvents (r : LayerRun) (c : Cmd) (ev : Ev) : Op Unit := do
  Op.act (fun d => d.fmtEvents c.part ev)
  if r.feed then Op.act (fun d => d.brUnclean c.bslot c.part c.step ev)

/-- Bytes of an operand that reach an array from outside its own slab pass its Skidder (R16). -/
def Dev.skFrom (d : Dev) (v : Version) (arr n : Nat) : Dev := if v.inSlab arr then d else d.skIntake arr n

/-- The bytes of some rows of n elements of an activation source that the Skidder of an array takes in. -/
def Dev.skActs (d : Dev) (a : ActSrc) (arr rows n : Nat) : Dev :=
  d.skFrom (match a with | .tok t => t.ver | .reg g => g.ver) arr (rowBytesOf a.fmt a.scaled rows n)

/-- The rows of dZ that some tokens need, formed at their first use and held for both products (R194); the operands pass the
Skidder of the array that needs them. -/
def formDz (id : Nat) (c : Cmd) (r : LayerRun) (fl : Bool) (arr : Nat) (tokens : List Nat) : Op (List (Nat × List El)) := do
  let held := ((← get).arr.runs.find? (fun q => q.id == id)).elim [] LayerRun.dz
  let new := tokens.filter (fun t => !held.any (fun e => e.1 == t))
  if new.isEmpty then return held
  else
    let rows ← r.dzRows c fl new (List.range r.n)
    r.narrowEvents c (sumEv rows)
    let all := held ++ new.zip (rows.map (fun row => row.map Prod.fst))
    Op.act (fun d => (d.skActs r.src arr new.length r.src.width).updRun id (fun q => { q with dz := all }))
    match r.stashZ with
    | some z => Op.act (fun d => d.skFrom z.ver arr (rowBytesOf z.fmt z.scaled new.length z.cols))
    | none => pure ()
    return all

/-- Elements of dZ of some tokens at some columns. -/
def dzAt (dz : List (Nat × List El)) (p : Nat) (tokens ns : List Nat) : List (List El) :=
  tokens.map (fun t =>
    let row := ((dz.find? (fun e => e.1 == t)).map Prod.snd).getD []
    ns.map (fun n => row.getD n (El.zero p)))

/-- Rows of the transposed weights of an entry that its array's staging holds, at the given columns (R196). -/
def LayerRun.transposed (r : LayerRun) (u : LUnit) (fmt : Nat) (ns ks : List Nat) : List (List El) :=
  let mine := r.blocks.filter (fun b => b.arr == u.arr && b.entry == u.entry && !b.stash)
  ns.map (fun n => ks.map (fun k =>
    match mine.find? (fun b => b.cols.contains n && b.rows.contains k) with
    | some b => (b.data.getD (b.cols.idxOf n) []).getD (b.rows.idxOf k) (El.zero fmt)
    | none => El.zero fmt))

/-- The chunk that staging holds for a unit's positions. -/
def Dev.chunk? (d : Dev) (id : Nat) (u : LUnit) (ps : List Nat) : Option Chunk :=
  d.arr.chunks.find? (fun h => h.id == id && h.arr == u.arr && h.entry == u.entry && h.positions == ps && h.users.contains u.rows)

/-- Weight rows for a unit at some positions: from the array's own slab, from its staged chunk, or, where nothing is staged, as
they lie, through the Skidder (R16, R224). -/
def LayerRun.weightRows (r : LayerRun) (u : LUnit) (g : Region) (ps : List Nat) : Op (List (List El)) := do
  match (← get).chunk? r.id u ps with
  | some h =>
    let near := u.cols.filter (fun n => !h.cols.contains n)
    let own ← g.els ps near (fun _ => true)
    return (List.range ps.length).map (fun i => u.cols.map (fun n =>
      if h.cols.contains n then (h.els.getD i []).getD (h.cols.idxOf n) (El.zero g.fmt)
      else (own.getD i []).getD (near.idxOf n) (El.zero g.fmt)))
  | none =>
    Op.act (fun d => d.skIntake u.arr (chunkBytes g ps.length (r.away u).length))
    g.els ps u.cols (g.inSlab u.arr)

/-- The streamed operand of a unit at some positions: weight rows, rows of the transposed weights, or rows of dZ. -/
def LayerRun.streamed (r : LayerRun) (c : Cmd) (fl : Bool) (u : LUnit) (ps : List Nat) : Op (List (List El)) := do
  if u.what = 1 then return dzAt (← formDz r.id c r fl u.arr ps) c.pfmt ps u.cols
  else
    match (r.entries[u.entry]?).bind LEntry.weights with
    | none => return []
    | some g =>
      if !c.backward then r.weightRows u g ps
      else
        let w ← if c.wt then r.weightRows u g ps else pure (r.transposed u g.fmt ps u.cols)
        let conv := w.map (fun row => row.map (fun e => e.convert c.pfmt fl))
        r.narrowEvents c (sumEv conv)
        return conv.map (fun row => row.map Prod.fst)

/-- The stationary operand of a unit at some positions: activations, dZ, or columns of the saved X. -/
def LayerRun.stationary (r : LayerRun) (c : Cmd) (fl : Bool) (u : LUnit) (ps : List Nat) : Op (List (List El)) := do
  if u.what = 1 then
    match r.stashX with
    | none => return []
    | some x =>
      let conv := (← x.els u.rows ps).map (fun row => row.map (fun e => e.convert c.pfmt fl))
      r.narrowEvents c (sumEv conv)
      return conv.map (fun row => row.map Prod.fst)
  else if c.backward then return dzAt (← formDz r.id c r fl u.arr u.rows) c.pfmt u.rows ps
  else
    match r.src with
    | .tok _ => Op.act (fun d => d.skActs r.src u.arr u.rows.length ps.length)
    | .reg _ => pure ()
    r.src.els u.rows ps

/-- The entering partial sums of a unit's first tile: the addend, or +0 (R144). A column beyond the addend's width begins
at +0 (log 26). -/
def LayerRun.entering (r : LayerRun) (c : Cmd) (fl : Bool) (u : LUnit) : Op (List (BitVec 32)) := do
  match r.addend with
  | none => return List.replicate (u.rows.length * u.cols.length) 0#32
  | some a =>
    let rows ← u.rows.mapM a.row
    Op.act (fun d => d.skActs (.tok a) u.arr u.rows.length (u.cols.filter (· < a.width)).length)
    return rows.flatMap (fun v => u.cols.map (fun n =>
      if a.width ≤ n then 0#32
      else if r.chain c u = .int then (if a.fmt = 7 && !a.scaled then BitVec.ofInt 32 (int8 (v.codes.getD n 0)) else 0#32)
      else v.value fl n))

/-- The FP32 results that leave a unit's last tile: an INT32 sum is rounded once, with an addend that could not join it
(log 26). -/
def LayerRun.results (r : LayerRun) (c : Cmd) (fl : Bool) (u : LUnit) (acc : List (BitVec 32)) : Op (List F32) := do
  if r.chain c u ≠ .int then return acc
  else match r.addend with
    | some a =>
      if a.fmt = 7 && !a.scaled then return acc.map (fun x => ofInt32 x.toInt)
      else
        let rows ← u.rows.mapM a.row
        let add := rows.flatMap (fun v => u.cols.map (fun n => if a.width ≤ n then 0#32 else v.value fl n))
        return (acc.zip add).map (fun x => round32 ((Num.ofInt x.1.toInt).add (num32 x.2)))
    | none => return acc.map (fun x => ofInt32 x.toInt)

/-- Pieces of a token group by sequence slot: slot, first token, and the group's row numbers, at most 32 together
(R78, R156). -/
def slotPieces (slots : List (Nat × Nat)) (rows : List Nat) : List (Nat × Nat × List Nat) :=
  slots.zipIdx.flatMap (fun s =>
    let mine := rows.filter (fun e => decide (s.1.1 ≤ e ∧ e < s.1.1 + s.1.2))
    (List.range (ceilDiv mine.length 32)).map (fun i =>
      let part := (mine.drop (32 * i)).take 32
      (s.2, part.headD 0 - s.1.1, part)))

/-- Maximal runs of consecutive numbers. -/
def runsOf : List Nat → List (List Nat)
  | [] => []
  | x :: xs =>
    match runsOf xs with
    | (y :: ys) :: gs => if y = x + 1 then (x :: y :: ys) :: gs else [x] :: (y :: ys) :: gs
    | gs => [x] :: gs

/-- The score tiles of a finished unit: blocks of up to 256 consecutive columns, and for a router of groups one tile for
each run of rows that chose the group (R156, R157). -/
def LayerRun.scoreTiles (r : LayerRun) (c : Cmd) (u : LUnit) (vals : List F32) (keys : List Nat) : List ScoreTile :=
  let slots := match r.src with | .tok t => t.slots | .reg _ => []
  let n := u.cols.length
  let place := fun (e : Nat) => (u.rows.idxOf e)
  let colBlocks : List (Option Nat × List Nat) := if c.kind = 2 then
      let gs := 2 ^ c.arg 3 0 4
      ((u.cols.map (· / gs)).dedup).flatMap (fun g =>
        let cs := u.cols.filter (fun x => x / gs == g)
        (List.range (ceilDiv cs.length 256)).map (fun i => (some g, (cs.drop (256 * i)).take 256)))
    else (List.range (ceilDiv n 256)).map (fun i => (none, (u.cols.drop (256 * i)).take 256))
  colBlocks.flatMap (fun cb =>
    let pieces : List (Nat × Nat × List Nat) := slotPieces slots u.rows
    let pieces : List (Nat × Nat × List Nat) := match cb.1 with
      | none => pieces
      | some g => pieces.flatMap (fun pc =>
          (runsOf (pc.2.2.filter (fun e => r.groups.contains (e, g)))).map (fun run =>
            (pc.1, pc.2.1 + (run.headD 0 - pc.2.2.headD 0), run)))
    pieces.map (fun pc =>
      { layer := r.id, slot := pc.1, first := pc.2.1, rows := pc.2.2.length, base := cb.2.headD 0, cols := cb.2.length
        scores := pc.2.2.flatMap (fun e => cb.2.map (fun x => vals.getD (place e * n + u.cols.idxOf x) 0#32))
        keys := pc.2.2.map (fun e => keys.getD (place e) 0) }))

/-- The density keys of a unit's rows: min(15, 16 z / K) (R183). -/
def LayerRun.keys (r : LayerRun) (u : LUnit) : Op (List Nat) := do
  match r.src with
  | .reg _ => return []
  | .tok t => u.rows.mapM (fun e => do
      let v ← t.row e
      let z := (v.codes.filter (· ≠ 0)).length
      return min 15 (16 * z / max 1 t.width))

/-- Add contributions, by column, to a row of a delta, with how many sums were flushed (R132, R221). -/
def Delta.addRow (x : Delta) (fl : Bool) (row : Nat) (vs : List (Nat × F32)) : Op Nat := do
  let off := 4 * (row * x.cols)
  let bs ← Op.mem (fun d => (d, d.lndReads x.bufs off (4 * x.cols)))
  let sums := vs.map (fun v => (v.1, fadd' fl (BitVec.ofNat 32 (leAt bs (4 * v.1) 4)) v.2))
  let out := (List.range x.cols).flatMap (fun j => match sums.find? (fun e => e.1 == j) with
    | some e => leBytes 4 e.2.1.toNat
    | none => slice bs (4 * j) 4)
  Op.mem (fun d => match d.lndStores x.bufs off out with
    | .ok d => (d, .ok ())
    | .error e => (d, .error e))
  return sumNat (sums.map (fun e => e.2.2))

/-- A grouped router keeps an element only where its row chose the column's group (R157). -/
def LayerRun.chose (r : LayerRun) (c : Cmd) (row col : Nat) : Bool :=
  c.kind != 2 || r.groups.contains (row, col / 2 ^ c.arg 3 0 4)

/-- The end of a unit's chain: epilogue, results held, score tiles queued, the Borer fed (R156, R159, R160, R193). A weight
gradient's sums stay with the unit until the end of the LAYER, which adds them in the order of the units. -/
def endUnit (id i : Nat) (c : Cmd) (r : LayerRun) (u : LUnit) (acc : List (BitVec 32)) (fl : Bool) : Op Unit := do
  let vals ← r.results c fl u acc
  let n := u.cols.length
  if u.what = 1 then pure ()
  else
    let w := r.outWidth c
    let swiglu := c.epi == 4 && !c.backward
    let cols := if swiglu then u.cols.filter (· < w) else u.cols
    let value := fun (row j : Nat) =>
      let a := vals.getD (row * n + u.cols.idxOf j) 0#32
      if c.backward then (a, 0)
      else epilogue fl c.epi a (if swiglu then vals.getD (row * n + u.cols.idxOf (j + w)) 0#32 else 0#32)
    let results := (u.rows.zipIdx).flatMap (fun row =>
      (cols.filter (r.chose c row.1)).map (fun j => (row.1 * w + j, value row.2 j)))
    let outs := results.map (fun e => (e.1, e.2.1))
    Op.act (fun d => d.fmtEvents c.part { flushed := sumNat (results.map (fun e => e.2.2)) })
    Op.act (fun d => d.updRun id (fun r =>
      { r with
        out := outs.foldl (fun m e => SMap.set 0#32 m e.1 e.2) r.out
        z := if c.saving && c.epi != 0 then
            (u.rows.zipIdx).foldl (fun m row => (u.cols.zipIdx).foldl (fun (m : SMap (BitVec 32)) col =>
              SMap.set 0#32 m (row.1 * r.n + col.1) (vals.getD (row.2 * n + col.2) 0#32)) m) r.z
          else r.z }))
    if r.feed then Op.act (fun d => d.feedBorer c.bslot c.part id c.step outs)
    if c.router then
      let keys ← r.keys u
      Op.act (fun d => { d with arr := { d.arr with scores := d.arr.scores ++ r.scoreTiles c u vals keys } })
  Op.act (fun d => d.updUnit id i (fun u => { u with done := true, acc := acc }))

/-! ## One array tile (R144, R146, R161 to R164) -/

/-- A check of an array's tile fails (R163). -/
def Dev.checkFails (d : Dev) (id arr : Nat) (shadow : Bool) (column row outCol : Nat) : Dev :=
  let first := !(d.run? id).any (fun r => r.faults.contains (arr, shadow))
  (d.arrFault id arr first shadow column row outCol).updRun id (fun r =>
    { r with faults := if first then r.faults ++ [(arr, shadow)] else r.faults })

/-- The failures that the checks of a tile find, in the order of time: the cycle, whether at the shadow column, and the output
column. -/
def tileFailures (t : TileWork) (cs : List Check) (fmt j : Nat) (shd : Bool) : List (Nat × Bool × Nat) :=
  let pace := fun (n : Nat) => streamCycles fmt n
  let seen := if shd then (t.shadows fmt j).map (fun n => (pace n, true, n)) else []
  let compared := (cs.zipIdx.filter (fun e => e.1 == .failed)).map (fun e =>
    ((if t.shape then 198 else 294) + pace e.2, false, e.2))
  sortBy Prod.fst (seen ++ compared)

/-- A tile runs through its array's cells: the chain, the shadow column's rotation, which goes on from tile to tile, and the
checks that are on (R161 to R164). A checksum names no row (log 5). -/
def castTile (id : Nat) (c : Cmd) (u : LUnit) (fmt : Nat) (t : TileWork) (enter : List (BitVec 32)) :
    Op (List (BitVec 32) × List Nat) := do
  let d ← get
  let j := SMap.get 0 d.arr.shadow u.arr
  let (out, held, fs) := t.run enter
  let cs := if d.flag .MA_PART_MODE_CHK_EN c.part then t.checks enter out held else []
  let moved := (j + streamCycles fmt (t.weights.headD []).length) % 256
  Op.act (fun d => { d with arr := { d.arr with shadow := SMap.set 0 d.arr.shadow u.arr moved } })
  Op.act (fun d => (d.fmtEvents c.part { flushed := fs }).addF .MA_ARR_CHECKS_SKIPPED (cs.filter (· == .skipped)).length u.arr)
  (tileFailures t cs fmt j (d.flag .MA_PART_MODE_SHD_EN c.part)).forM (fun e => Op.act (fun d =>
    let (fr, d) := d.fresh
    let cell := t.fault.elim (0, 0) (fun f => (f.column.toNat, f.row.val))
    d.checkFails id u.arr e.2.1 cell.1 (if e.2.1 then cell.2 else (Config.freeWord fr).toNat % 33) (t.outCol e.2.2)))
  return (out, held)

/-- The weight matrices A and B of a Coppice copy: its header gives their places (R228). -/
def coppiceParts (v : Version) : Op (Region × Region) := do
  let n ← rdNat v 0 64
  let (a, _, _) ← matrixAt v (field n 12 0 32)
  let (b, _, _) ← matrixAt v (field n 16 0 32)
  return (a, b)

/-- Narrow FP32 rows to FP4 in blocks along the reduction, with h = 0 (R228). -/
def toFp4 (fl : Bool) (row : List F32) : List El × Ev :=
  let (v, ev) := narrowRow 6 true 0 fl row (fun _ => none)
  ((List.range row.length).map v.el, ev)

/-- The position list of a unit is whole. -/
def LayerRun.whole (r : LayerRun) (u : LUnit) : Bool :=
  decide (r.storedCols u ≤ u.seen) || (match r.src with | .tok _ => u.what != 1 | .reg _ => false)

/-- The intermediate u of a Coppice unit from the sums of its first product, which are +0 where no position was left (R228). -/
def coppiceMid (c : Cmd) (r : LayerRun) (u : LUnit) (fl : Bool) (rk : Nat) (acc : List (BitVec 32)) : Op (List (List El)) := do
  let acc := if acc.isEmpty then List.replicate (u.rows.length * rk) 0#32 else acc
  let us := (List.range u.rows.length).map (fun k => toFp4 fl ((acc.drop (rk * k)).take rk))
  r.narrowEvents c ((us.map Prod.snd).foldl Ev.add {})
  return us.map Prod.fst

/-- A tile of Coppice service: the first product over the next positions, whose narrowed result staging holds at its end, or the
second (R228). -/
def coppiceTile (id i : Nat) (c : Cmd) (r : LayerRun) (u : LUnit) (fl shape : Bool) (w : Nat) (f : Option ArrayFault) : Op Unit := do
  match c.input ((r.entries[u.entry]?).elim 0 LEntry.coppice) with
  | none => throw (.plain .faultProt)
  | some v =>
    let (a, b) ← coppiceParts v
    let ps := (u.positions.drop u.at_).take w
    let rk := a.cols
    if !ps.isEmpty then
      let blocks := (ps.map (· / 32)).dedup
      let whole := blocks.flatMap (fun k => (List.range (min 32 (r.k - 32 * k))).map (· + 32 * k))
      let x ← r.src.els u.rows whole
      let conv := x.map (fun row => toFp4 fl (row.map (fun e => e.val fl)))
      let acts := conv.map (fun row => ps.map (fun q => row.1.getD (whole.idxOf q) (El.zero 6)))
      r.narrowEvents c ((conv.map Prod.snd).foldl Ev.add {})
      let wts ← a.els ps (List.range rk) (a.inSlab u.arr)
      let acc := if u.acc.isEmpty then List.replicate (u.rows.length * rk) 0#32 else u.acc
      let (out, _) ← castTile id c u 6 ⟨.blocks, fl, ps, acts, wts, shape, List.range rk, f⟩ acc
      Op.act (fun d => d.updUnit id i (fun u => { u with acc := out, at_ := u.at_ + ps.length, ran := u.ran + 1 }))
      if r.whole u && u.positions.length ≤ u.at_ + ps.length then
        let mid ← coppiceMid c r u fl rk out
        Op.act (fun d => d.updUnit id i (fun u => { u with mid := mid }))
    else
      let acts ← if u.mid.isEmpty then coppiceMid c r u fl rk u.acc else pure u.mid
      let wts ← b.els (List.range rk) u.cols (b.inSlab u.arr)
      let (out, _) ← castTile id c u 6 ⟨.blocks, fl, List.range rk, acts, wts, shape, u.cols, f⟩
        (List.replicate (u.rows.length * u.cols.length) 0#32)
      endUnit id i c r u out fl

/-- A chunk has been streamed for a row group: one that no group still needs leaves its half (R148, R224). -/
def Dev.useChunk (d : Dev) (id : Nat) (u : LUnit) (ps : List Nat) : Dev :=
  match d.chunk? id u ps with
  | none => d
  | some h =>
    let rest := d.arr.chunks.erase h
    let left := h.users.erase u.rows
    { d with arr := { d.arr with chunks := if left.isEmpty then rest else rest ++ [{ h with users := left }] } }

/-- The format whose class sets the pace of a unit's tiles. -/
def LayerRun.pace (r : LayerRun) (c : Cmd) (u : LUnit) : Nat :=
  if u.what = 2 then 6 else if c.backward then c.pfmt else r.src.fmt

/-- One array tile of a product: operands, chain, checks, and at the last tile its results (R144, R146, R161). -/
def productTile (id i : Nat) (c : Cmd) (r : LayerRun) (u : LUnit) (fl shape : Bool) (w : Nat) (f : Option ArrayFault) : Op Unit := do
  let ps := (u.positions.drop u.at_).take w
  let enter ← if u.at_ = 0 then r.entering c fl u else pure u.acc
  if ps.isEmpty then endUnit id i c r u enter fl
  else
    let acts ← r.stationary c fl u ps
    let wts ← r.streamed c fl u ps
    let (out, held) ← castTile id c u (r.pace c u) ⟨r.chain c u, fl, ps, acts, wts, shape, u.cols, f⟩ enter
    let newly := held.filter (fun e => !u.limited.contains e)
    Op.act (fun d => (d.fmtEvents c.part { sat := newly.length }).useChunk id u ps)
    let u := { u with acc := out, at_ := u.at_ + ps.length, ran := u.ran + 1, limited := u.limited ++ newly }
    Op.act (fun d => d.updUnit id i (fun _ => u))
    if r.whole u && u.positions.length ≤ u.at_ then endUnit id i c r u out fl

/-! ## The order of work (R148) and when a tile may run -/

/-- The position list of a unit holds its tile t whole. -/
def LayerRun.known (r : LayerRun) (c : Cmd) (u : LUnit) (t w : Nat) : Bool :=
  r.whole u || (decide ((t + 1) * w ≤ u.positions.length) && !(c.backward && c.epi == 4 && u.what == 0))

/-- The positions of a unit's tile t. -/
def LUnit.window (u : LUnit) (t w : Nat) : List Nat := (u.positions.drop (t * w)).take w

/-- G: how many row groups an array takes together, for units of n output columns (R148). The first product of a Coppice copy
has up to 256 columns. -/
def LUnit.together (u : LUnit) (shape : Bool) : Nat :=
  max 1 ((if shape then 4096 else 8192) / max 1 (if u.what = 2 then max 256 u.cols.length else u.cols.length))

/-- Two units do the same work on different rows. -/
def LUnit.mates (a b : LUnit) : Bool := a.entry == b.entry && a.what == b.what && a.cols == b.cols

/-- Add a unit to the last group, if there is room and it does the same work. -/
def addToGroup (shape : Bool) (gs : List (List (Nat × LUnit))) (x : Nat × LUnit) : List (List (Nat × LUnit)) :=
  match gs.getLast? with
  | some (y :: ys) =>
    if y.2.mates x.2 && decide (ys.length + 1 < x.2.together shape) then gs.dropLast ++ [(y :: ys) ++ [x]] else gs ++ [[x]]
  | _ => gs ++ [[x]]

/-- The group of units that an array works on: the first of its groups, in the order of the plan, that is not done (R148). -/
def LayerRun.group (r : LayerRun) (shape : Bool) (arr : Nat) : List (Nat × LUnit) :=
  let mine := (r.units.zipIdx.map (fun e => (e.2, e.1))).filter (fun e => e.2.arr == arr)
  ((mine.foldl (addToGroup shape) []).find? (fun g => g.any (fun e => !e.2.done))).getD []

/-- The unit whose tile an array runs next: within the group the reduction tiles are the outer loop (R148). -/
def LayerRun.turn (r : LayerRun) (shape : Bool) (arr : Nat) : Option (Nat × LUnit) :=
  let left := (r.group shape arr).filter (fun e => !e.2.done)
  left.find? (fun e => left.all (fun x => decide (e.2.ran ≤ x.2.ran)))

/-- A unit holds entering partial sums in its array's store. -/
def LUnit.inStore (u : LUnit) : Bool := u.at_ != 0 && !u.done

/-- The bytes of an array's partial-sum store that a LAYER holds. -/
def LayerRun.storeBytes (r : LayerRun) (arr : Nat) : Nat :=
  sumNat ((r.units.filter (fun u => u.arr == arr && u.inStore)).map (fun u => 4 * (u.rows.length * u.cols.length)))

/-- Another LAYER holds partial sums on an array (log 146). -/
def Dev.storeTaken (d : Dev) (id arr : Nat) : Bool :=
  d.arr.runs.any (fun q => q.id != id && q.units.any (fun u => u.arr == arr && u.inStore))

/-- A unit's next tile has its operands: enough of its position list, its staged chunk, and the transposed weights it needs
(R179, R196, R224). -/
def LayerRun.canRun (r : LayerRun) (c : Cmd) (u : LUnit) (w : Nat) (chunks : List Chunk) : Bool :=
  !u.done && r.known c u u.ran w &&
  (!r.stages c u || (u.window u.ran w).isEmpty ||
    chunks.any (fun h => h.id == r.id && h.arr == u.arr && h.entry == u.entry && h.positions == u.window u.ran w && h.users.contains u.rows)) &&
  r.blocks.all (fun b => b.stash || b.done || b.arr != u.arr || b.entry != u.entry || u.what != 0)

/-- An array may run a tile of a unit: it is the unit's turn, it has its operands, and the 1 MiB partial-sum store has room
(R142, R148). -/
def Dev.tileReady (d : Dev) (c : Cmd) (r : LayerRun) (i arr : Nat) : Bool :=
  match r.turn (d.shape c.part) arr with
  | none => false
  | some (k, u) => k == i && r.canRun c u (d.tileWidth c.part) d.arr.chunks && !d.storeTaken r.id arr &&
      (u.inStore || decide (r.storeBytes arr + 4 * (u.rows.length * u.cols.length) ≤ 1048576))

/-- A LAYER that has launched and not ended: its arrays finish the tile they run though a cause of failure has reached it, until
its kill stops them (R163, R167). -/
def Dev.tile? (d : Dev) (id i : Nat) : Option (Cmd × LayerRun × LUnit) :=
  match d.cmd? id, d.run? id with
  | some c, some r => if c.launched && !c.ended then (r.units[i]?).map (fun u => (c, r, u)) else none
  | _, _ => none

/-- ARRAY_TILE: the unit's array runs its next tile, with the fault that one of its cells may have, and its checks
(R146, R148, R161 to R164). -/
def Dev.arrayTile (d : Dev) (id arr i : Nat) (fault : Option ArrayFault) : Dev :=
  match d.tile? id i with
  | none => d
  | some (c, r, u) =>
    let w := d.tileWidth c.part
    if !d.tileReady c r i arr then d
    else
      let tiles := if u.positions.length ≤ u.at_ ∧ u.what ≠ 2 then 0 else 1
      let fmt := r.pace c u
      let cycles := loadCycles fmt r.src.scaled + (if d.shape c.part then 192 else 288) + streamCycles fmt u.cols.length
      let d := (d.addF .MA_ARR_TILES_TILES tiles arr).addF .MA_ARR_BUSY_CYCLES (tiles * cycles) arr
      let (fl, shape) := (d.flush c.part, d.shape c.part)
      d.work id 0 (if u.what = 2 then coppiceTile id i c r u fl shape w fault else productTile id i c r u fl shape w fault)

/-! ## The Skidder -/

/-- A column of arrays that belongs to more than one partition is granted by lottery: the partition's unit at the Skidder's
arbiter is in progress (R186). -/
def Dev.skMay (d : Dev) (arr p : Nat) : Bool :=
  decide ((d.columnParts (skOf arr)).length ≤ 1) || (d.owner? (3 * 4096 + skOf arr)).any (fun g => g.input == p)

/-- The unit that a stored tile or a block took at the Skidder's arbiter has ended. -/
def Dev.skEnd (d : Dev) (arr : Nat) : Dev :=
  if (d.columnParts (skOf arr)).length ≤ 1 then d else d.parkGrant (3 * 4096 + skOf arr)

/-- The Skidder examines the next stored tile column of a unit's group, and the kept positions join the unit's list (R177 to
R179). Headers and bitmaps pass it, and so do elements that the array's own slab does not hold (R182). -/
def compactTile (id i : Nat) (c : Cmd) (r : LayerRun) (u : LUnit) (g : Region) : Op Unit := do
  let j := u.seen
  let d ← get
  let recs ← ((u.rows.map (· / 32)).dedup).mapM (fun t => g.record t j false)
  let byBlock := u.what != 1 && r.chain c u == .blocks
  let keep := choosePath (d.flag .SK_PART_CFG_COMPACT_EN c.part) (d.f .SK_PART_CFG_DENSITY c.part) byBlock recs
  let cols := g.colsOf j
  let kept := (keep.getD (List.range cols)).map (· + 256 * j)
  let k := skOf u.arr
  let e := r.entries.getD u.entry ⟨0, 0, 0, 0, 0, 1, false, none, 0, none⟩
  let kept := if u.what = 1 && c.kind == 5 then kept.filter (fun t => decide (e.first ≤ t ∧ t < e.first + e.count)) else kept
  let bytes := fun (x : TileHead × List Byte) => if g.inSlab u.arr j then 16 + x.1.bitmapBytes else x.2.length
  Op.act (fun d =>
    let d := if keep.isSome then d.addF .SK_COMPACT_TILES recs.length k else d.addF .SK_DENSE_TILES recs.length k
    let d := (d.addF .SK_POS_IN_POSITIONS cols k).addF .SK_POS_OUT_POSITIONS kept.length k
    let d := (d.skIntake u.arr (sumNat (recs.map bytes))).skEnd u.arr
    d.updUnit id i (fun u =>
      let ps := u.positions ++ kept
      let done := r.storedCols u ≤ u.seen + 1
      { u with seen := u.seen + 1
               positions := if done && c.backward && c.epi == 4 && u.what == 0 then ps ++ ps.map (· + r.n / 2) else ps }))

/-- The region whose stored tiles a unit's stationary operand takes, if it has one. -/
def LayerRun.tiled (r : LayerRun) (u : LUnit) : Option Region :=
  if u.what = 1 then r.stashX else match r.src with | .reg g => some g | .tok _ => none

/-- COMPACTION: the next stored tile of a unit's group is examined (R177 to R179, R186). -/
def Dev.compact (d : Dev) (id i : Nat) : Dev :=
  match d.unit? id i with
  | none => d
  | some (c, r, u) =>
    if r.storedCols u ≤ u.seen || u.done || !d.skMay u.arr c.part then d
    else
      match r.tiled u with
      | none => d
      | some g => d.work id 0 (compactTile id i c r u g)

/-- Change one block of a run. -/
def Dev.updBlock (d : Dev) (id i : Nat) (g : TBlock → TBlock) : Dev :=
  d.updRun id (fun r => { r with blocks := r.blocks.zipIdx.map (fun b => if b.2 = i then g b.1 else b.1) })

/-- The halves of a Skidder's transposing buffer that hold a block. -/
def Dev.tbufs (d : Dev) (k : Nat) : List (Fin 2) :=
  d.arr.runs.flatMap (fun r => r.blocks.filterMap (fun b => if skOf b.arr = k ∧ b.done = false then b.half else none))

/-- The half of a Skidder's transposing buffer that fills next: they alternate (R184). -/
def Dev.nextHalf (d : Dev) (k : Nat) : Fin 2 := if SMap.get 0 d.arr.tnext k = 0 then 0 else 1

/-- The elements of a block, transposed: for each of its columns, its rows'; and the re-blocked scale blocks, where a scaled
source's blocks do not run along the consumer's reduction (R185). -/
def blockData (r : LayerRun) (b : TBlock) (fl : Bool) : Op (List (List El) × Nat × Ev) := do
  let turn := fun (rows : List (List El)) (fmt : Nat) => (List.range b.cols.length).map (fun j => rows.map (fun row => row.getD j (El.zero fmt)))
  if b.stash then return (turn (← r.src.els b.rows b.cols) r.src.fmt, 0, {})
  else
    match (r.entries[b.entry]?).bind LEntry.weights with
    | none => return ([], 0, {})
    | some g =>
      let rows ← g.els b.rows b.cols (g.inSlab b.arr)
      if !g.scaled then return (turn rows g.fmt, 0, {})
      else
        let anew := rows.map (fun row => reblock fl g.fmt row)
        return (turn (anew.map Prod.fst) g.fmt, b.rows.length * ceilDiv b.cols.length 32, (anew.map Prod.snd).foldl Ev.add {})

/-- The bytes that a block's fill takes in: its columns' part of each record, or rows of a token-row object (R184; log 44). -/
def blockBytes (r : LayerRun) (b : TBlock) : Op Nat := do
  let stored := fun (g : Region) => do
    let js := (b.cols.map (· / 256)).dedup
    let recs ← ((b.rows.map (· / 32)).dedup).mapM (fun i => js.mapM (fun j => g.record i j false))
    return sumNat (recs.flatten.map (fun x => ceilDiv (x.2.length * b.cols.length) (max 1 x.1.cols)))
  if !b.stash then ((r.entries[b.entry]?).bind LEntry.weights).elim (pure 0) stored
  else match r.src with
    | .reg g => stored g
    | .tok t => return rowBytesOf t.fmt t.scaled b.rows.length b.cols.length

/-- A half of the transposing buffer fills with a block (R184, R185). -/
def fillBlock (id i : Nat) (c : Cmd) (r : LayerRun) (b : TBlock) : Op Unit := do
  let d ← get
  let k := skOf b.arr
  let h := d.nextHalf k
  let (data, again, ev) ← blockData r b (d.flush c.part)
  let bytes ← blockBytes r b
  r.narrowEvents c ev
  Op.act (fun d => ((d.addF .SK_TRANSPOSE_REBLOCKED again k).skIntake b.arr bytes).skEnd b.arr)
  Op.act (fun d => { d with arr := { d.arr with tnext := SMap.set 0 d.arr.tnext k (1 - h.val) } })
  Op.act (fun d => d.updBlock id i (fun b => { b with half := some h, data := data }))

/-- A half drains its block into the array's slab staging, or into the stash (R184, R193, R196). -/
def Dev.drainBlock (d : Dev) (id i : Nat) (b : TBlock) : Dev :=
  (d.addF .SK_TRANSPOSE_BLOCKS 1 (skOf b.arr)).updBlock id i (fun b => { b with done := true })

/-- TRANSPOSE_BLOCK: a block fills the half whose turn it is, if it is free, and the next one drains it; of two full halves
the older drains first (R184, R186; log 38). -/
def Dev.transpose (d : Dev) (id i : Nat) : Dev :=
  match d.cmd? id, d.run? id with
  | some c, some r =>
    match r.blocks[i]? with
    | none => d
    | some b =>
      let k := skOf b.arr
      let full := d.tbufs k
      if !c.running || b.done then d
      else match b.half with
        | none => if full.contains (d.nextHalf k) || !d.skMay b.arr c.part then d else d.work id 0 (fillBlock id i c r b)
        | some h => if full.length = 2 ∧ h ≠ d.nextHalf k then d else d.drainBlock id i b
  | _, _ => d

/-! ## Staging (R212, R224) -/

/-- The run as it stands after its array's next tile, for looking ahead. -/
def LayerRun.after (r : LayerRun) (i w : Nat) : LayerRun :=
  { r with units := r.units.zipIdx.map (fun e =>
      if e.2 ≠ i then e.1
      else
        let n := (e.1.window e.1.ran w).length
        { e.1 with ran := e.1.ran + 1, at_ := e.1.at_ + n, done := r.whole e.1 && decide (e.1.positions.length ≤ e.1.at_ + n) }) }

/-- The first tile in an array's order of work whose chunk must be staged and is not, with its unit as it will stand then;
none while a tile before it is not known. -/
def LayerRun.fetch? (c : Cmd) (shape : Bool) (w arr : Nat) (chunks : List Chunk) : Nat → LayerRun → Option (LayerRun × Nat × LUnit)
  | 0, _ => none
  | fuel + 1, r =>
    match r.turn shape arr with
    | none => none
    | some (i, u) =>
      if u.what = 2 then none
      else if !r.known c u u.ran w then none
      else if r.stages c u && !(u.window u.ran w).isEmpty && !chunks.any (fun h =>
          h.id == r.id && h.arr == arr && h.entry == u.entry && h.positions == u.window u.ran w && h.users.contains u.rows) then
        some (r, i, u)
      else LayerRun.fetch? c shape w arr chunks fuel (r.after i w)

/-- A free half of an array's staging. -/
def Dev.freeHalf (d : Dev) (arr : Nat) : Option (Fin 2) :=
  (List.finRange 2).find? (fun h => d.arr.chunks.all (fun x => x.arr != arr || x.half != h))

/-- The chunk that WEIGHT_CHUNK_STAGE fetches for a unit: the first that its array needs and does not hold, into a free half,
unless another LAYER is in the middle of a group there (log 146). -/
def Dev.stageNext (d : Dev) (c : Cmd) (r : LayerRun) (arr i : Nat) : Option (Fin 2 × LayerRun × LUnit) :=
  if d.storeTaken r.id arr then none
  else
    match d.freeHalf arr, LayerRun.fetch? c (d.shape c.part) (d.tileWidth c.part) arr d.arr.chunks (r.units.length + 2) r with
    | some h, some (q, k, u) => if k = i then some (h, q, u) else none
    | _, _ => none

/-- A chunk is fetched into a half of an array's staging, for every row group of R148's group that will stream it; `q` is the
run as it will stand then (R224). -/
def stageWeights (id i : Nat) (c : Cmd) (q : LayerRun) (u : LUnit) (g : Region) (h : Fin 2) (shape : Bool) (w : Nat) : Op Unit := do
  let ps := u.window u.ran w
  let cols := q.away u
  let users := ((q.group shape u.arr).filter (fun e =>
    !e.2.done && decide (e.2.ran ≤ u.ran) && q.known c e.2 u.ran w && e.2.window u.ran w == ps)).map (fun e => e.2.rows)
  let els ← g.els ps cols
  let chunk : Chunk := ⟨id, u.arr, h, u.entry, ps, cols, users, els⟩
  Op.act (fun d => { d with arr := { d.arr with chunks := d.arr.chunks ++ [chunk] } })
  Op.act (fun d => (d.skIntake u.arr (chunkBytes g ps.length cols.length)).updUnit id i (fun u => { u with staged := u.staged + 1 }))

/-- WEIGHT_CHUNK_STAGE: the Skidder fetches the next chunk that an array needs into a free half of its staging (R224). -/
def Dev.stageChunk (d : Dev) (id arr i : Nat) : Dev :=
  match d.unit? id i with
  | none => d
  | some (c, r, _) =>
    match d.stageNext c r arr i with
    | none => d
    | some (h, q, u) =>
      match (r.entries[u.entry]?).bind LEntry.weights with
      | none => d
      | some g => d.work id 0 (stageWeights id i c q u g h (d.shape c.part) (d.tileWidth c.part))

/-! ## Deadlines and Coppice service (R226 to R228) -/

/-- An entry has met its deadline: each of its arrays holds its first chunk, or needs none (R226). -/
def LayerRun.met (r : LayerRun) (c : Cmd) (e : Nat) : Bool :=
  let us := r.units.filter (fun u => u.entry == e && u.what == 0)
  ((us.map LUnit.arr).dedup).all (fun a => us.any (fun u => u.arr == a && (u.done || u.staged != 0 || !r.stages c u)))

/-- A Coppice copy is usable: one slab, on the array at FIRST_POS, its K and N those of the weights, its header well
formed (R228). -/
def coppiceOk (arr : Nat) (v : Version) (k n : Nat) : Op Bool := do
  if v.entry.tier ≠ 2 ∨ v.entry.widthM1 ≠ 0 ∨ v.entry.members.getD 0 255 ≠ arr ∨ v.entry.size < 64 then return false
  else
    let h ← rdNat v 0 64
    let rk := field h 0 0 32
    if field h 4 0 32 ≠ k ∨ field h 8 0 32 ≠ n ∨ rk % 32 ≠ 0 ∨ rk < 32 ∨ 256 < rk ∨
       v.entry.size < field h 12 0 32 + 64 ∨ v.entry.size < field h 16 0 32 + 64 ∨ bits h 160 352 ≠ 0 then return false
    else
      let (a, at_, ad) ← matrixAt v (field h 12 0 32)
      let (b, bt, bd) ← matrixAt v (field h 16 0 32)
      return a.headOk at_ ad && b.headOk bt bd && a.rows == k && a.cols == rk && b.rows == rk && b.cols == n &&
        a.fmt == 6 && b.fmt == 6 && a.scaled && b.scaled && a.colblk && b.colblk

/-- Serve an entry by its copy: its fetch and its results so far are given up (R227, R228). -/
def Dev.serve (d : Dev) (id p e : Nat) (v : Version) : Dev :=
  let g := d.groupRows p
  let d := d.updCmd id (fun c => { c with inputs := c.inputs ++ [v] })
  let d := { d with arr := { d.arr with chunks := d.arr.chunks.filter (fun h => !(h.id == id && h.entry == e)) } }
  d.updRun id (fun r =>
    match r.entries[e]? with
    | none => r
    | some en =>
      let units := (cutRows en.first en.count g).map (fun rows =>
        newUnit 2 (atPos r.arrays en.firstPos) e rows (List.range r.n))
      { r with units := r.units.filter (fun u => u.entry != e) ++ units, copper := r.copper ++ [e] })

/-- What the deadline does with one entry that has not met it (R227, R228). -/
def Dev.missEntry (d : Dev) (id e : Nat) : Dev :=
  match d.cmd? id, d.run? id with
  | some c, some r =>
    match r.entries[e]? with
    | none => d
    | some en =>
      let p := c.part
      let wait := fun (d : Dev) => (d.addF .TIER_FETCH_STAT_WAITED 1 p).updRun id (fun r => { r with waits := r.waits ++ [e] })
      let none' := fun (d : Dev) => if r.noCoppice then wait d
        else wait ((d.postCmd id .TIER_NO_COPPICE 0).updRun id (fun r => { r with noCoppice := true }))
      if d.flag .TIER_PART_CFG_COPPICE_EN p = false ∨ d.flag .PART_CTRL_DET p = true ∨ en.coppice = 0 then wait d
      else
        match d.entry p en.coppice with
        | .ok (some x) =>
          if !x.placed || !x.hasCur then none' d
          else
            let v : Version := ⟨p, en.coppice, x, x.cur⟩
            match (coppiceOk (atPos r.arrays en.firstPos) v r.k r.n).run.run d with
            | (.ok true, d) => d.serve id p e v
            | (.ok false, d) => none' d
            | (.error f, d) => d.failWith id 0 f
        | .ok none => none' d
        | .error e => d.memFail id 0 e
  | _, _ => d

/-- A LAYER's fetch deadline has come, on a running count (R33, R39). -/
def Dev.deadlineDue (d : Dev) (id : Nat) : Bool :=
  d.ring.running && (d.cmd? id).any Cmd.running && ((d.run? id).bind LayerRun.deadline).any (fun t => decide (t ≤ d.count))

/-- FETCH_DEADLINE: at S + D, each entry without its first chunks is served by its copy or waits; TIER_FETCH_LATE is
posted once (R226, R227). -/
def Dev.fetchDeadline (d : Dev) (id : Nat) : Dev :=
  match d.cmd? id, d.run? id with
  | some c, some r =>
    match r.deadline with
    | none => d
    | some t =>
      if !d.deadlineDue id then d
      else
        let d := d.updRun id (fun r => { r with deadline := none })
        let missed := (List.range r.entries.length).filter (fun e =>
          r.units.any (fun u => u.entry == e && u.what == 0) && !r.met c e)
        let d := missed.foldl (fun d e => d.missEntry id e) d
        if (d.run? id).any (fun r => !r.waits.isEmpty) then
          (d.updRun id (fun r => { r with missAt := some t })).postCmd id .TIER_FETCH_LATE 0
        else d
  | _, _ => d

/-! ## The end of a LAYER -/

/-- A draw for stochastic rounding, if ROUND selects it (R134, R136). -/
def LayerRun.draw (r : LayerRun) (c : Cmd) (index : Nat) : Option Nat :=
  if c.arg 1 3 1 = 1 then some (srDraw r.seed.toNat c.tensor index) else none

/-- Rows of results, narrowed (R129, R131, R160). -/
def LayerRun.narrowed (r : LayerRun) (c : Cmd) (fl : Bool) (token : Bool) (rows : Nat) : List Vec × Ev :=
  let w := r.outWidth c
  let (f, sc, h) := r.outForm c token
  let value := fun (i j : Nat) => if r.chose c i j then SMap.get 0#32 r.out (i * w + j) else Config.noScore i j
  let out := (List.range rows).map (fun i =>
    narrowRow f sc h fl ((List.range w).map (value i)) (fun j => r.draw c (i * w + j)))
  (out.map Prod.fst, (out.map Prod.snd).foldl Ev.add {})

/-- Row k of X transposed, over t tokens, as the transposing buffer gave it; a row of IN0 that no group holds reads zero
(R193). -/
def LayerRun.saved (r : LayerRun) (k t : Nat) : List El :=
  let mine := r.blocks.filter (fun b => b.stash && b.cols.contains k)
  (List.range t).map (fun i =>
    match mine.find? (fun b => b.rows.contains i) with
    | some b => (b.data.getD (b.cols.idxOf k) []).getD (b.rows.idxOf i) (El.zero 0)
    | none => El.zero 0)

/-- The stash of a saving forward: X transposed and Z, both scaled E4M3 (R192, R193). -/
def LayerRun.stash (r : LayerRun) (c : Cmd) (fl : Bool) : List Byte × Ev × List Bool :=
  let t := r.src.count
  let h := r.margin.getD 0
  let none' : Nat → Option Nat := fun _ => none
  let xt := (List.range r.k).map (fun k => narrowRow 3 true h fl ((r.saved k t).map (fun e => e.val fl)) none')
  let recs := rowRecords r.k t 3 true (fun i => (xt[i]?).map Prod.fst)
  let xb := matrixBytes r.k t 3 true false (recs.map Prod.snd)
  let nz := if c.epi = 0 then 0 else r.n
  let zr := if nz = 0 then [] else (List.range t).map (fun i =>
    narrowRow 3 true h fl ((List.range nz).map (fun j => SMap.get 0#32 r.z (i * nz + j))) none')
  let zrecs := if nz = 0 then [] else rowRecords t nz 3 true (fun i => (zr[i]?).map Prod.fst)
  let zb := if nz = 0 then [] else matrixBytes t nz 3 true false (zrecs.map Prod.snd)
  let head := padTo 64 (leBytes 4 t ++ leBytes 4 r.k ++ leBytes 4 nz ++ leBytes 1 c.epi ++ leBytes 1 r.src.fmt ++ [0, 0] ++
    leBytes 4 64 ++ leBytes 4 (if nz = 0 then 0 else 64 + xb.length))
  let ev := ((xt ++ zr).map Prod.snd).foldl Ev.add {}
  (head ++ xb ++ zb, ev, (recs ++ zrecs).map Prod.fst)

/-- The claimed buffer of an output handle. -/
def outVer (c : Cmd) (obj : Nat) : Op Version :=
  match c.claimOf obj with
  | some k => pure k.ver
  | none => throw (.plain .faultProt)

/-- Write OUT0 of a LAYER (R152, R158, R188). -/
def writeOut (c : Cmd) (r : LayerRun) (fl : Bool) : Op Ev := do
  let v ← outVer c (c.outp 0)
  let w := r.outWidth c
  match r.recv, r.src with
  | some rc, _ =>
    let (rows, ev) := r.narrowed c fl false rc.rows
    let (f, sc, _) := r.outForm c false
    let live := fun (i : Nat) => rc.entries.any (fun e => decide (e.first ≤ i ∧ i < e.first + e.count))
    let recs := rowRecords rc.rows w f sc (fun i => if live i then rows[i]? else none)
    let ents := rc.entries.zipIdx.map (fun e => { e.1 with coppice := r.copper.contains e.2 })
    let out := { rc with fmt := f, scaled := sc, width := w, entries := ents }
    Op.act (fun d => d.countStored (recs.map Prod.fst))
    writeObject v (out.headBytes ++ regionBytes out.dir (recs.map Prod.snd)) .SK_OBJ_FULL
    return ev
  | none, .tok t =>
    let (rows, ev) := r.narrowed c fl true t.entries
    let (f, sc, _) := r.outForm c true
    writeObject v (tokenRowBytes t.slots f w sc (rows.map Vec.bytes)) .SK_OBJ_FULL
    return ev
  | none, .reg g =>
    let (rows, ev) := r.narrowed c fl false g.rows
    let (f, sc, _) := r.outForm c false
    let recs := rowRecords g.rows w f sc (fun i => rows[i]?)
    Op.act (fun d => d.countStored (recs.map Prod.fst))
    writeMatrix v g.rows w f sc false (recs.map Prod.snd)
    return ev

/-- The contributions of the weight gradients, added to their targets' deltas in the order of the units: of entries that share a
target, the lower comes first (R197, R221). -/
def addGrads (id : Nat) (c : Cmd) (r : LayerRun) (fl : Bool) : Op Unit := do
  let deltas := ((← get).cmd? id).elim [] Cmd.deltas
  (r.units.filter (fun u => u.what == 1)).forM (fun u => do
    let mine := deltas.filter (fun x => some x.obj == (r.entries[u.entry]?).bind LEntry.grad)
    let n := u.cols.length
    let ns ← mine.mapM (fun x => u.rows.zipIdx.mapM (fun row =>
      x.addRow fl row.1 (u.cols.zipIdx.map (fun col => (col.1, u.acc.getD (row.2 * n + col.2) 0#32)))))
    Op.act (fun d => d.fmtEvents c.part { flushed := sumNat ns.flatten }))

/-- The end of a LAYER: its outputs, its stash and its contributions are written, and it is ready to commit (R160, R188, R193,
R198). -/
def layerFinish (id : Nat) (c : Cmd) (r : LayerRun) : Op Unit := do
  let fl := (← get).flush c.part
  if c.outp 0 ≠ 0 then r.narrowEvents c (← writeOut c r fl)
  if c.saving then
    let v ← outVer c c.gradOrStash
    let (bs, ev, dense) := r.stash c fl
    Op.act (fun d => d.countStored dense)
    writeObject v bs .SK_OBJ_FULL
    r.narrowEvents c ev
  addGrads id c r fl
  Op.act (fun d => d.finish id)

/-- LAYER: when every unit has run and every block has been transposed, the outputs are written and the command is ready
to commit; a router waits until the Sieve has accepted its last tile (R72, R160, R193). -/
def Dev.layerEnd (d : Dev) (id : Nat) : Dev :=
  match d.cmd? id, d.run? id with
  | some c, some r =>
    if !c.running || c.ready || !r.units.all LUnit.done || !r.blocks.all TBlock.done ||
       d.arr.scores.any (fun t => t.layer == id) || d.borer.waiting.any (fun x => x.cmd == id) then d
    else d.work id 0 (layerFinish id c r)
  | _, _ => d

/-! ## Meanings -/

/-- LAYER. -/
def execLayer (id : Nat) (s : State) : Host.Outcome State Fault Refusal := s.engine (fun d => d.layerEnd id)

/-- ARRAY_TILE. -/
def execArrayTile (id : Nat) (arr : Fin 152) (unit : Nat) (fault : Option ArrayFault) (s : State) :
    Host.Outcome State Fault Refusal :=
  s.engine (fun d => d.arrayTile id arr unit fault)

/-- COMPACTION. -/
def execCompaction (id : Nat) (unit : Nat) (s : State) : Host.Outcome State Fault Refusal := s.engine (fun d => d.compact id unit)

/-- TRANSPOSE_BLOCK. -/
def execTransposeBlock (id : Nat) (unit : Nat) (s : State) : Host.Outcome State Fault Refusal :=
  s.engine (fun d => d.transpose id unit)

/-- WEIGHT_CHUNK_STAGE. -/
def execWeightChunkStage (id : Nat) (arr : Fin 152) (unit : Nat) (s : State) : Host.Outcome State Fault Refusal :=
  s.engine (fun d => d.stageChunk id arr unit)

/-- FETCH_DEADLINE. -/
def execFetchDeadline (id : Nat) (s : State) : Host.Outcome State Fault Refusal := s.engine (fun d => d.fetchDeadline id)

end Sys2Proof.Machine
end

