-- ==== Sys2Proof/Machine/Billets.lean ====
section
/-! DEFINITION. Billets: their header fields, how they are built and checked, node addresses and the wiring that R243
requires (R243, R244, R250 to R252, R254, R260). -/

namespace Sys2Proof.Machine

/-- TYPE (Table 12.6). -/
def bType (b : Billet) : Nat := bits b.toNat 0 2
/-- TC (Table 12.6). -/
def bTc (b : Billet) : Nat := bits b.toNat 2 3
/-- VC (Table 12.6). -/
def bVc (b : Billet) : Nat := bits b.toNat 5 1
/-- MULTICAST (Table 12.6). -/
def bMulti (b : Billet) : Bool := bit b.toNat 6
/-- COMPRESSED (Table 12.6). -/
def bCompressed (b : Billet) : Bool := bit b.toNat 8
/-- DETOUR (Table 12.6). -/
def bDetour (b : Billet) : Bool := bit b.toNat 9
/-- JOB (Table 12.6). -/
def bJob (b : Billet) : Nat := bits b.toNat 16 16
/-- TAG (Table 12.6). -/
def bTag (b : Billet) : Nat := bits b.toNat 32 24
/-- SEQ (Table 12.6). -/
def bSeq (b : Billet) : Nat := bits b.toNat 56 16
/-- TOTAL (Table 12.6). -/
def bTotal (b : Billet) : Nat := bits b.toNat 72 16
/-- DEST of a unicast billet (Table 12.6). -/
def bDest (b : Billet) : Nat := bits b.toNat 88 16
/-- SRC of a unicast billet (Table 12.6). -/
def bSrc (b : Billet) : Nat := bits b.toNat 104 16
/-- MASK of a multicast billet (Table 12.6). -/
def bMask (b : Billet) : Nat := bits b.toNat 88 72
/-- w bits from bit lo of payload byte k. -/
def bPay (b : Billet) (k lo w : Nat) : Nat := field b.toNat (24 + k) lo w
/-- The 64 payload bytes. -/
def bPayload (b : Billet) : List Byte := leBytes 64 (b.toNat / 2 ^ 192)

/-- The CRC that a billet should carry: header bytes 0 to 19 and the payload (R251). -/
def bCrc (b : Billet) : Nat := crc32 (leBytes 20 b.toNat ++ bPayload b)

/-- A billet with its CRC in bytes 20 to 23. -/
def withCrc (b : Billet) : Billet :=
  let n := b.toNat
  BitVec.ofNat 704 (bits n 0 160 + bCrc b * 2 ^ 160 + bits n 192 512 * 2 ^ 192)

/-- A billet with w header bits from bit lo replaced, and its CRC computed anew (R255). -/
def setHdr (b : Billet) (lo w v : Nat) : Billet :=
  let n := b.toNat
  withCrc (BitVec.ofNat 704 (n - bits n lo w * 2 ^ lo + v % 2 ^ w * 2 ^ lo))

/-- What a sender puts into a billet (Table 12.6). -/
structure Hdr where
  type : Nat := 0
  tc : Nat
  compressed : Bool := false
  job : Nat
  tag : Nat := 0
  seq : Nat := 0
  total : Nat := 1
  dest : Nat := 0
  src : Nat := 0
  mask : Option Nat := none
  deriving DecidableEq, Repr

/-- Build a billet on VC 0 (R250, R255). -/
def mkBillet (h : Hdr) (payload : List Byte) : Billet :=
  let last := if h.seq + 1 = h.total then 1 else 0
  let b0 := h.type + h.tc * 4 + b2n h.mask.isSome * 64 + last * 128
  let addr := match h.mask with
    | some m => m % 2 ^ 72
    | none => h.dest % 2 ^ 16 + h.src % 2 ^ 16 * 2 ^ 16
  withCrc (BitVec.ofNat 704 (b0 + b2n h.compressed * 2 ^ 8 + h.job % 2 ^ 16 * 2 ^ 16 + h.tag % 2 ^ 24 * 2 ^ 32 +
    h.seq % 2 ^ 16 * 2 ^ 56 + h.total % 2 ^ 16 * 2 ^ 72 + addr * 2 ^ 88 + leNat (padTo 64 (payload.take 64)) * 2 ^ 192))

/-- Replace payload bytes from byte k, and compute the CRC anew. -/
def setPay (b : Billet) (k : Nat) (bs : List Byte) : Billet :=
  withCrc (BitVec.ofNat 704 (bits b.toNat 0 192 + leNat (padTo 64 ((patch (bPayload b) k bs).take 64)) * 2 ^ 192))

/-! ## Node addresses (R243, R244) -/

/-- The dimensions of a node address, in routing order. -/
inductive Dim where
  | w | z | y | x
  deriving DecidableEq, Repr

/-- A node address's coordinate (R244). -/
def coord (a : Nat) : Dim → Nat
  | .w => bits a 12 4
  | .z => bits a 7 5
  | .y => bits a 3 4
  | .x => bits a 0 3

/-- The length of a dimension: its ring's, or the eight slots of a tray (R243). -/
def Dev.dimLen (d : Dev) : Dim → Nat
  | .w => d.f .RING_CFG_W_LEN_M1 + 1
  | .z => d.f .RING_CFG_Z_LEN_M1 + 1
  | .y => d.f .RING_CFG_Y_LEN_M1 + 1
  | .x => 8

/-- The device's own node address (R244). -/
def Dev.node (d : Dev) : Nat := d.f .FAB_NODE_NODE

/-- A dimension's position in the product mask and its width (R260). -/
def maskAt : Dim → Nat × Nat
  | .x => (0, 8)
  | .y => (8, 16)
  | .z => (24, 32)
  | .w => (56, 16)

/-- The coordinates a mask names in a dimension, below the ring length (R260). -/
def Dev.targets (d : Dev) (m : Nat) (k : Dim) : List Nat :=
  (bitList (bits m (maskAt k).1 (maskAt k).2) (maskAt k).2).filter (· < d.dimLen k)

/-- A mask with one dimension's set replaced. -/
def setTargets (m : Nat) (k : Dim) (l : List Nat) : Nat :=
  let (lo, w) := maskAt k
  m - bits m lo w * 2 ^ lo + ofBitList l % 2 ^ w * 2 ^ lo

/-- The first link and the number of links of a direction of a ring (Table 12.1). -/
def ringLinks : Dim → Bool → List Nat
  | .y, true => [14, 15, 16, 17]
  | .y, false => [18, 19, 20, 21]
  | .z, true => [22, 23, 24, 25]
  | .z, false => [26, 27, 28, 29]
  | .w, true => [30, 31, 32]
  | .w, false => [33, 34, 35]
  | .x, _ => []

/-- The two links to slot p of the tray from slot x (Table 12.1). -/
def trayLinks (x p : Nat) : List Nat := let i := if p < x then p else p - 1; [2 * i, 2 * i + 1]

/-- A link's dimension and direction; tray links are of dimension X (Table 12.1). -/
def linkDim (l : Nat) : Dim × Bool :=
  if l < 14 then (.x, true) else if l < 18 then (.y, true) else if l < 22 then (.y, false)
  else if l < 26 then (.z, true) else if l < 30 then (.z, false) else if l < 33 then (.w, true) else (.w, false)

/-- A link's GROUP (Table 12.2). -/
def linkGroup (l : Nat) : Nat :=
  match linkDim l with
  | (.x, _) => 0
  | (.y, true) => 1
  | (.y, false) => 2
  | (.z, true) => 3
  | (.z, false) => 4
  | (.w, true) => 5
  | (.w, false) => 6

/-- A node address from its coordinates. -/
def mkNode (w z y x : Nat) : Nat := w * 4096 + z * 128 + y * 8 + x

/-- A node with one coordinate replaced. -/
def setCoord (a : Nat) (k : Dim) (v : Nat) : Nat :=
  match k with
  | .w => mkNode v (coord a .z) (coord a .y) (coord a .x)
  | .z => mkNode (coord a .w) v (coord a .y) (coord a .x)
  | .y => mkNode (coord a .w) (coord a .z) v (coord a .x)
  | .x => mkNode (coord a .w) (coord a .z) (coord a .y) v

/-- The neighbour a link must reach (R243). -/
def Dev.linkPeer (d : Dev) (l : Nat) : Nat :=
  let a := d.node
  match linkDim l with
  | (.x, _) =>
    let i := l / 2
    setCoord a .x (if i < coord a .x then i else i + 1)
  | (k, plus) =>
    let n := d.dimLen k
    setCoord a k ((coord a k + (if plus then 1 else n - 1)) % n)

/-- The far LINK and GROUP that R243 requires of a link: the same link of the pair on the tray, any link of the opposite
direction on a ring. -/
def Dev.wiredTo (d : Dev) (l farLink farGroup : Nat) : Bool :=
  match linkDim l with
  | (.x, _) =>
    let x := coord d.node .x
    let p := coord (d.linkPeer l) .x
    farGroup == 0 && farLink == 2 * (if x < p then x else x - 1) + l % 2
  | (k, plus) => (ringLinks k (!plus)).any (· == farLink) && farGroup == linkGroup farLink

/-- Some coordinate is at or above its ring's length (R244). -/
def Dev.dimBad (d : Dev) (k : Dim) : Bool := d.dimLen k ≤ coord d.node k

/-- The link is held down: its dimension is invalid, or its ring has length 1 (R243, R244). -/
def Dev.linkHeld (d : Dev) (l : Nat) : Bool :=
  match linkDim l with
  | (.x, _) => false
  | (k, _) => d.dimBad k || d.dimLen k == 1

/-! ## Classes and ports -/

/-- Multicast is allowed on the class (Table 12.8). -/
def multiOk (c : Nat) : Bool := c = 1 || c = 4 || c = 5

/-- Malformed at the first port that holds it: every case of R252 but a CONTROL billet's SUBTYPE and a DISCOVERY billet
out of place. -/
def Dev.malformed (d : Dev) (b : Billet) : Bool :=
  bType b = 3 || bTc b = 7 || bTotal b = 0 || bTotal b ≤ bSeq b || bits b.toNat 10 6 ≠ 0 ||
  (!bMulti b && bits b.toNat 120 40 ≠ 0) ||
  (bMulti b && (!multiOk (bTc b) || [Dim.w, .z, .y, .x].any (fun k => (d.targets (bMask b) k).isEmpty))) ||
  (bType b = 1 && bTc b ≠ 1 && bTc b ≠ 4)

/-- A CONTROL billet whose SUBTYPE is unknown or on another class than its own (Table 12.7). -/
def badControl (b : Billet) : Bool :=
  bType b = 1 && !((bTc b = 4 && (bPay b 0 0 16 = 1 || bPay b 0 0 16 = 2)) || (bTc b = 1 && bPay b 0 0 16 = 3))

/-- The internal port a billet is delivered to: XE 36, CE n at 37 + n, Window 41, Copy 42, Control 43 (Table 12.8,
R292). -/
def localPort (b : Billet) : Nat :=
  match bTc b with
  | 0 => 36
  | 1 => if bType b = 1 then 37 + bits (bTag b) 11 8 % 4
         else if 4 ≤ bits (bTag b) 21 3 then 37 + bJob b % 4 else 37 + bits (bTag b) 11 8 % 4
  | 2 => 41
  | 3 => 41
  | 5 => 42
  | _ => 43

end Sys2Proof.Machine
end

