-- ==== Sys2Proof/Machine/Fabric.lean ====
section
/-! DEFINITION. The links and the Switch Core: link states and discovery, credits and slots, routing, multicast, output
arbitration and delivery (R243 to R268). -/

namespace Sys2Proof.Machine

/-- A link's STATE (Table 12.5). -/
def Dev.linkState (d : Dev) (l : Nat) : Nat := d.f .FAB_LINK_STATUS_STATE l

/-- The link is UP. -/
def Dev.linkUp (d : Dev) (l : Nat) : Bool := d.linkState l = 3

/-- Change the Switch Core's state. -/
def Dev.updFab (d : Dev) (g : FabSt → FabSt) : Dev := { d with fab := g d.fab }

/-! ## Slots and credits (R264, R265) -/

/-- The static minimum of an input port for a class and channel (Table 12.9). -/
def Dev.bufMin (d : Dev) (input cls : Nat) : Nat :=
  if 36 ≤ input then 16 else max 1 (bits (d.f .FAB_BUF_MIN_MIN) (4 * cls) 4)

/-- The shared region's slots: what the static minima leave of 16,384. -/
def Dev.sharedTotal (d : Dev) : Nat :=
  16384 - (36 * 2 * sumNat ((List.range 7).map (d.bufMin 0)) + 8 * 14 * 16)

/-- Shared credits granted to a link's far end and not yet returned (FAB_LINK_OCC.SHARED_OUT). -/
def Dev.sharedOut (d : Dev) (l : Nat) : Nat := d.f .FAB_LINK_OCC_SHARED_OUT l

/-- A slot of the shared region that no grant backs: an internal port's, or a TC6 billet's. -/
def Slot.loose (s : Slot) : Bool := s.shared && (decide (36 ≤ s.input) || s.cls == 6)

/-- Free shared slots, reserved ones excluded (FAB_SHARED.FREE). -/
def Dev.sharedFree (d : Dev) : Nat :=
  d.sharedTotal - (sumNat ((List.range 36).map d.sharedOut) + (d.fab.slots.filter Slot.loose).length)

/-- Show the free shared slots and their least number (FAB_SHARED). -/
def Dev.noteShared (d : Dev) : Dev :=
  let n := d.sharedFree
  let d := d.setF .FAB_SHARED_FREE n
  if n < d.f .FAB_SHARED_LOW then d.setF .FAB_SHARED_LOW n else d

/-- Slots of an input, class and channel in its static minimum, or in the shared region. -/
def Dev.occ (d : Dev) (input cls vc : Nat) (shared : Bool) : Nat :=
  (d.fab.slots.filter (fun s => s.input == input && s.cls == cls && s.vc == vc && s.shared == shared)).length

/-- The selector of a class and channel in link control words (Table 12.4). -/
def selKey (l cls vc : Nat) : Nat := l * 16 + 2 * cls + vc

/-- Release credits of a link's selector to its far end (R247). -/
def Dev.release (d : Dev) (key n : Nat) : Dev :=
  d.updFab (fun f => { f with released := SMap.set 0 f.released key ((SMap.get 0 f.released key + n) % 4096) })

/-- Push out the TC6 billet that has been queued longest in the shared region (R265). -/
def Dev.pushOut (d : Dev) : Dev :=
  match d.fab.slots.find? (fun s => s.cls == 6 && s.shared) with
  | none => d
  | some s => (d.updFab (fun f => { f with slots := f.slots.filter (fun t => t.serial != s.serial) })).addF
      .FAB_PUSHOUT_PUSHED 1

/-- Push out so many TC6 billets, the longest queued first. -/
def Dev.pushOuts (d : Dev) : Nat → Dev
  | 0 => d
  | n + 1 => d.pushOut.pushOuts n

/-- Grant shared credits to the far end of a link, up to SHARED_MAX, while slots are free or TC6 billets can be pushed out
to back a grant (R264, R265; log 18). -/
def Dev.grantShared (d : Dev) (l : Nat) : Dev :=
  if !d.linkUp l then d
  else
    let free := d.sharedFree
    let best := (d.fab.slots.filter (fun s => s.cls == 6 && s.shared)).length
    let g := min (d.f .FAB_SW_CFG_SHARED_MAX - d.sharedOut l) (free + best)
    let d := d.pushOuts (g - free)
    ((d.setF .FAB_LINK_OCC_SHARED_OUT (d.sharedOut l + g) l).release (l * 16 + 14) g).noteShared

/-- Grant what has become free, to each link that is UP in turn (R264; log 18). -/
def Dev.grantAll (d : Dev) : Dev := (List.range 36).foldl Dev.grantShared d.noteShared

/-- A slot is empty: its credit returns, or its shared slot is freed; when a static slot empties while a billet of its
kind lies in the shared region, that billet takes the static slot (R264, R265; log 18). -/
def Dev.freeSlot (d : Dev) (s : Slot) : Dev :=
  let d := d.updFab (fun f => { f with slots := f.slots.filter (fun t => t.serial != s.serial) })
  if 36 ≤ s.input then d.grantAll
  else if s.cls = 6 ∧ s.shared = true then d.grantAll
  else
    let d := d.release (selKey s.input s.cls s.vc) 1
    let same := fun (t : Slot) => t.input == s.input && t.cls == s.cls && t.vc == s.vc && t.shared && t.cls != 6
    let back := s.shared || d.fab.slots.any same
    let d := if s.shared then d
      else match d.fab.slots.find? same with
        | none => d
        | some t => d.updFab (fun f =>
            { f with slots := mapIf (fun u => u.serial == t.serial) (fun u => { u with shared := false }) f.slots })
    let d := if back then d.setF .FAB_LINK_OCC_SHARED_OUT (d.sharedOut s.input - 1) s.input else d
    d.grantAll

/-- Where an arriving billet would lie: in its static minimum (false), in the shared region (true), or nowhere yet.
A TC6 billet from a link takes a free shared slot first; a local TC0 to TC5 billet may push a TC6 billet out. -/
def Dev.place? (d : Dev) (input cls vc : Nat) : Option Bool :=
  let room := d.occ input cls vc false < d.bufMin input cls
  if cls = 6 then (if 0 < d.sharedFree then some true else if room then some false else none)
  else if room then some false
  else if input < 36 then some true
  else if 0 < d.sharedFree || d.fab.slots.any (fun s => s.cls == 6 && s.shared) then some true
  else none

/-! ## Routing (R255, R257 to R261) -/

/-- Billets queued for output on a port (FAB_LINK_OCC.QUEUED). -/
def Dev.queued (d : Dev) (port : Nat) : Nat :=
  sumNat (d.fab.slots.map (fun s => (s.copies.filter (fun c => c.port == port)).length))

/-- The UP link of a group whose output queue holds the fewest billets, lowest number on a tie (R257). -/
def Dev.pickLink (d : Dev) (ls : List Nat) : Option Nat :=
  (ls.filter d.linkUp).foldl (fun best l => match best with
    | none => some l
    | some b => if d.queued l < d.queued b then some l else some b) none

/-- The shorter way round a ring is +; ties go to + (R257). -/
def Dev.plusShorter (d : Dev) (k : Dim) (t : Nat) : Bool :=
  let n := d.dimLen k
  let up := (t + n - coord d.node k % n) % n
  decide (up ≤ n - up)

/-- The direction of a unicast hop by FAB_ROUTE_CFG (R257). -/
def Dev.routePlus (d : Dev) (k : Dim) (t : Nat) : Bool :=
  let mode := match k with
    | .w => d.f .FAB_ROUTE_CFG_W_DIR
    | .z => d.f .FAB_ROUTE_CFG_Z_DIR
    | .y => d.f .FAB_ROUTE_CFG_Y_DIR
    | .x => 0
  if mode = 1 then true else if mode = 2 then false else d.plusShorter k t

/-- The channel of a ring hop: VC 0 on entering the ring, VC 1 from the dateline on (R255). -/
def Dev.ringVc (d : Dev) (input : Nat) (vc : Nat) (k : Dim) (plus : Bool) : Nat :=
  let c := coord d.node k
  if (plus && c == d.dimLen k - 1) || (!plus && c == 0) then 1
  else if input < 36 ∧ linkDim input = (k, !plus) then vc else 0

/-- A billet with its VC as given (R255). -/
def withVc (b : Billet) (vc : Nat) : Billet := if bVc b = vc then b else setHdr b 5 1 vc

/-- The final X hop of a unicast billet to slot p: direct, or by a forced or congestion detour (R258). -/
def Dev.routeX (d : Dev) (b : Billet) (p : Nat) : Option Copy :=
  let x := coord d.node .x
  let via := bits (d.f .FAB_TRAY_VIA_VIA) (4 * p) 3
  let forced := bit (d.f .FAB_TRAY_VIA_VIA) (4 * p + 3) && via != p && via != x
  let direct := trayLinks x p
  let limit := d.f .FAB_ROUTE_CFG_DETOUR_THRESH
  let congested := d.flag .FAB_ROUTE_CFG_DETOUR_EN && bTc b != 4 && direct.all (fun l => decide (limit ≤ d.queued l))
  let pair := fun s => sumNat ((trayLinks x s).map d.queued)
  let others := (List.range 8).filter (fun s => s != x && s != p)
  let best := others.foldl (fun (m : Option Nat) s => match m with
    | none => some s
    | some t => if pair s < pair t then some s else some t) none
  if bDetour b then (d.pickLink direct).map (fun l => ⟨l, withVc b 1⟩)
  else
    match (if forced then some via else if congested then best else none) with
    | some s => (d.pickLink (trayLinks x s)).map (fun l => ⟨l, withVc (setHdr b 9 1 1) 0⟩)
    | none => (d.pickLink direct).map (fun l => ⟨l, withVc b 0⟩)

/-- The route of a unicast billet: a copy for a link or for local delivery, or none when it is unroutable (R257 to R259). -/
def Dev.routeUni (d : Dev) (input : Nat) (b : Billet) : Option Copy :=
  let t := bDest b
  if [Dim.w, .z, .y].any (fun k => d.dimLen k ≤ coord t k) then none
  else
    match [Dim.w, .z, .y].find? (fun k => coord t k != coord d.node k) with
    | some k =>
      let plus := d.routePlus k (coord t k)
      (d.pickLink (ringLinks k plus)).map (fun l => ⟨l, withVc b (d.ringVc input (bVc b) k plus)⟩)
    | none =>
      if coord t .x = coord d.node .x then some ⟨localPort b, b⟩ else d.routeX b (coord t .x)

/-- A multicast copy that goes on by one of a group of links with one dimension's set replaced; none if no link is UP. -/
def Dev.mcastCopy (d : Dev) (input : Nat) (b : Billet) (mask : Nat) (k : Dim) (plus : Bool) (ls : List Nat)
    (set : List Nat) : Option Copy :=
  let vc := if k = .x then 0 else d.ringVc input (bVc b) k plus
  (d.pickLink ls).map (fun l => ⟨l, withVc (setHdr b 88 72 (setTargets mask k set)) vc⟩)

/-- The copies of a multicast billet, with those that are unroutable as none (R261, R262). -/
def Dev.routeMulti (d : Dev) (input : Nat) (b : Billet) : List Dim → Nat → List (Option Copy)
  | [], _ => [some ⟨localPort b, b⟩]
  | .x :: _, mask =>
    let x := coord d.node .x
    let ts := d.targets mask .x
    let out := (ts.filter (· != x)).map (fun p => d.mcastCopy input b mask .x true (trayLinks x p) [p])
    out ++ (if x ∈ ts then [some ⟨localPort b, b⟩] else [])
  | k :: ks, mask =>
    let a := coord d.node k
    let ts := (d.targets mask k).filter (· != a)
    let plus := ts.filter (d.plusShorter k)
    let minus := ts.filter (fun t => !d.plusShorter k t)
    let copies := (if plus.isEmpty then [] else [d.mcastCopy input b mask k true (ringLinks k true) plus]) ++
      (if minus.isEmpty then [] else [d.mcastCopy input b mask k false (ringLinks k false) minus])
    if a ∈ d.targets mask k then copies ++ d.routeMulti input b ks (setTargets mask k [a]) else copies

/-- The copies of a billet by R257 or R261. -/
def Dev.route (d : Dev) (input : Nat) (b : Billet) : List (Option Copy) :=
  if bMulti b then d.routeMulti input b [.w, .z, .y, .x] (bMask b) else [d.routeUni input b]

/-- Unroutable copies are discarded and counted; the first in each 2^20 counts is reported (R259). -/
def Dev.unroutable (d : Dev) (b : Billet) (n : Nat) : Dev :=
  if n = 0 then d
  else (d.addF .FAB_DROP_UNROUTABLE n).postFirst .FAB_UNROUTABLE 0 (if bMulti b then 0 else bDest b) 0
    { job := bJob b, part := d.partOf (bJob b) }

/-- A malformed billet is discarded and counted; the first in each 2^20 counts is reported (R252). -/
def Dev.dropMalformed (d : Dev) : Dev := (d.addF .FAB_DROP_MALFORMED 1).postFirst .FAB_MALFORMED 0 0 0

/-- A billet takes a slot and its copies join their output queues; one with no copy left frees the slot at once. -/
def Dev.enqueue (d : Dev) (input : Nat) (shared : Bool) (b : Billet) (since : Nat) (owner : Option (Nat × Nat))
    (copies : List (Option Copy)) : Dev :=
  let live := copies.filterMap id
  let s : Slot := { serial := d.fab.serial, input := input, cls := bTc b, vc := bVc b, shared := shared
                    job := bJob b, copies := live, edge := d.ring.edges, since := since, owner := owner }
  let d := d.updFab (fun f => { f with slots := f.slots ++ [s], serial := f.serial + 1 })
  let d := (d.unroutable b (copies.length - live.length)).noteShared
  if live.isEmpty then d.freeSlot s else d

/-! ## Injection from the engines -/

/-- Billets that an engine sends wait at its internal port for slots (R264, R265). -/
def Dev.inject (d : Dev) (port : Nat) (owner : Option (Nat × Nat)) (bs : List Billet) : Dev :=
  d.updFab (fun f => { f with inject := f.inject ++ bs.map (fun b => ⟨Fin.ofNat 8 (port - 36), b, owner, none⟩) })

/-- One waiting billet takes a slot if there is one; a malformed one is discarded at the injecting port (R252, R260). -/
def Dev.injectOne (d : Dev) (i : Inject) : Dev × Bool :=
  if d.malformed i.b then (d.dropMalformed, true)
  else
    let port := 36 + i.engine.val
    match d.place? port (bTc i.b) (bVc i.b) with
    | none => (d, false)
    | some shared =>
      let d := if shared && d.sharedFree == 0 then d.pushOut else d
      let d := if i.engine = 0 then d.addF .XE_BILLETS_TX_TX 1 else d
      let copies := match i.link with
        | some l => if d.linkUp l then [some ⟨l, i.b⟩] else []
        | none => d.route port i.b
      (d.enqueue port shared i.b 0 i.owner copies, true)

/-- Waiting billets take slots in order; those that find none go on waiting. -/
def Dev.pumpList (d : Dev) : List Inject → Dev × List Inject
  | [] => (d, [])
  | i :: is =>
    let (d, ok) := d.injectOne i
    let (d, rest) := d.pumpList is
    (d, if ok then rest else i :: rest)

/-- Let waiting billets take slots. -/
def Dev.pump (d : Dev) : Dev :=
  let (d, rest) := d.pumpList d.fab.inject
  d.updFab (fun f => { f with inject := rest })

/-- The Switch Core has accepted every billet of a part (R56, R108). -/
def Dev.accepted (d : Dev) (id part : Nat) : Bool := !d.fab.inject.any (fun i => i.owner == some (id, part))

/-! ## Alignment billets out (R27) -/

/-- Send an alignment billet on one link; its COUNT and FRACTION are stamped at transmission. -/
def Dev.sendAlign (d : Dev) (l : Nat) : Dev :=
  let pay := leBytes 2 1 ++ leBytes 2 (d.f .RING_CFG_ROOT_NODE) ++ leBytes 1 (d.f .RING_STATUS_DEPTH)
  let b := mkBillet { type := 1, tc := 4, job := 0, dest := d.f .FAB_LINK_STATUS_PEER l, src := d.node } pay
  (d.updFab (fun f => { f with inject := f.inject ++ [⟨7, b, none, some l⟩] })).pump

/-- Send alignment billets on every link that is UP, unless the device is UNALIGNED (R27). -/
def Dev.sendAlignAll (d : Dev) : Dev :=
  if d.f .RING_STATUS_STATE = 0 then d else ((List.range 36).filter d.linkUp).foldl Dev.sendAlign d

/-- Root time at a departure so long after the local reference edge, in 1/65,536 count, as a count and a signed fraction: the
sum of COUNT and FRACTION is what R28 computes with (R27, Table 2.3; log 126). -/
def Dev.departure (d : Dev) (since : Nat) : Nat × Int :=
  let s := toSigned 16 (d.f .RING_STATUS_FRACTION) + (since : Int)
  if s < 32768 then (d.count, s) else (d.count + 1, s - 65536)

/-- The stamp a link port puts into an alignment billet at transmission (R27, Table 2.3). -/
def Dev.stampAlign (d : Dev) (b : Billet) (since : Nat) : Billet :=
  if bType b = 1 ∧ bTc b = 4 ∧ bPay b 0 0 16 = 1 then
    let t := d.departure since
    setPay b 6 (leBytes 2 (ofSigned 16 t.2) ++ leBytes 8 t.1) else b

/-! ## Links (R245 to R249) -/

/-- A copy leaves its slot; a slot with no copy left is freed (R262). -/
def Dev.leave (d : Dev) (s : Slot) (port : Nat) : Dev :=
  let rest := s.copies.filter (fun c => c.port != port)
  if rest.isEmpty then d.freeSlot s
  else d.updFab (fun f =>
    { f with slots := mapIf (fun t => t.serial == s.serial) (fun t => { t with copies := rest }) f.slots })

/-- Flush a link: every billet that arrived on it, and every copy queued for it; each is counted and its slot freed
(R248). -/
def Dev.flushLink (d : Dev) (l : Nat) : Dev :=
  let came := (d.fab.slots.filter (fun s => s.input == l && s.copies.any (fun c => decide (c.port < 44)))).length
  let d := (d.addF .FAB_LINK_FLUSH_FLUSHED came l).updFab (fun f => { f with slots := f.slots.filter (fun t => t.input != l) })
  let going := (d.fab.slots.filter (fun s => s.copies.any (fun c => c.port == l))).map Slot.serial
  going.foldl (fun d k =>
    match d.fab.slots.find? (fun s => s.serial == k) with
    | none => d
    | some s => (d.addF .FAB_LINK_FLUSH_FLUSHED (s.copies.filter (fun c => c.port == l)).length l).leave s l) d

/-- Forget a link's credits, grants and discovery, which start again when it is next UP (R248). -/
def Dev.restartLink (d : Dev) (l : Nat) : Dev :=
  let drop := fun (m : SMap Nat) => m.filter (fun e => e.1 / 16 ≠ l)
  let d := d.updFab (fun f =>
    { f with sent := drop f.sent, lastRun := drop f.lastRun, released := drop f.released, blk := f.blk.erase l
             grantsIn := f.grantsIn.erase l, disc := f.disc.filter (fun e => e.link != l)
             echoed := f.echoed.filter (· != l), matched := f.matched.filter (· != l) })
  let d := { d with ring := { d.ring with delay := d.ring.delay.erase l } }
  (d.setF .FAB_LINK_OCC_SHARED_OUT 0 l).grantAll

/-- A link goes down for a cause, shown in CAUSE: from UP it is flushed, counted and reported (R248; log 94); a MISWIRED
link whose far end retrains goes to TRAINING at once (R245); a DOWN or DISABLED link stays so. -/
def Dev.linkGoDown (d : Dev) (l cause : Nat) : Dev :=
  let st := d.linkState l
  if st = 5 then d
  else if st = 4 ∧ cause = 4 then (d.setF .FAB_LINK_STATUS_STATE 1 l).restartLink l
  else if st = 0 then d.restartLink l
  else
    let d := (d.setF .FAB_LINK_STATUS_STATE 0 l).setF .FAB_LINK_STATUS_CAUSE cause l
    let d := match cause with
      | 1 => d.addF .FAB_LINK_ERR_UNCORR 1 l
      | 2 => d.addF .FAB_LINK_ERR_CRC 1 l
      | 3 => d.addF .FAB_LINK_ERR_CW_CRC 1 l
      | _ => d
    if st = 3 then
      let d := (d.addF .FAB_LINK_ERR_DOWNS 1 l).rateEvent 4 l 1
      ((d.flushLink l).restartLink l).post .FAB_LINK_DOWN 0 cause |>.pump
    else d.restartLink l

/-- The links of a dimension that the node's coordinate or a ring of length 1 rules out are held down (R243, R244). That
a link UP goes down with the cause "signal" is the model's choice (log 127). -/
def Dev.holdLinks (d : Dev) : Dev := ((List.range 36).filter d.linkHeld).foldl (fun d l => d.linkGoDown l 0) d

/-- FAB_NODE.INVALID shows a coordinate at or above its ring's length, reported as it comes about (R244). -/
def Dev.checkNode (d : Dev) : Dev :=
  let bad := [Dim.w, .z, .y].any d.dimBad
  let was := d.flag .FAB_NODE_INVALID
  let d := d.setF .FAB_NODE_INVALID (b2n bad)
  if bad && !was then d.post .FAB_NODE_INVALID d.node else d

/-- A link becomes UP: credits start, shared credits are granted, alignment billets are sent, and a link that had been UP
before posts FAB_LINK_UP (R27, R245, R248, R264). -/
def Dev.linkComeUp (d : Dev) (l : Nat) : Dev :=
  let again := d.fab.wasUp.any (· == l)
  let d := d.setF .FAB_LINK_STATUS_STATE 3 l
  let d := if again then d.post .FAB_LINK_UP 0 l else d.updFab (fun f => { f with wasUp := f.wasUp ++ [l] })
  (d.grantShared l).sendAlignAll

/-- LINK_TRAINING_START: signal on a DOWN link, or the far end of a MISWIRED link retrains (R245, Table 12.5). Links train
from stage 5 on (R359), not while a warm reset keeps them down (R363), and not those held down (R243, R244). -/
def Dev.trainingStart (d : Dev) (l : Nat) : Dev :=
  if d.boot.cold || d.boot.halted || decide (d.stage < 5) || d.flag .DEV_STATUS_WARM_BUSY || d.linkHeld l then d
  else if d.linkState l = 0 ∨ d.linkState l = 4 then (d.setF .FAB_LINK_STATUS_STATE 1 l).restartLink l
  else d

/-- A DISCOVERY billet's payload (Table 12.2). -/
def Dev.discPayload (d : Dev) (l : Nat) (echo : Bool) (send echoed : Nat) : List Byte :=
  leBytes 2 d.node ++ leBytes 1 l ++ leBytes 1 (linkGroup l + b2n echo * 128) ++ leBytes 8 send ++ leBytes 8 echoed

/-- Send a DISCOVERY billet: it is link-local and never switched (R245). -/
def Dev.sendDisc (d : Dev) (l : Nat) (echo : Bool) (send echoed : Nat) : Dev :=
  let b := mkBillet { type := 2, tc := 4, job := 0, src := d.node } (d.discPayload l echo send echoed)
  (d.addF .FAB_LINK_TX_TX 1 l).emit (.billet l b)

/-- LINK_TRAINED: lock and deskew on the lanes given; the lanes in service are those not retired here; with fewer than two
the training has failed. DISCOVERY follows (R245, R249, Table 12.5). -/
def Dev.trained (d : Dev) (l lanes t : Nat) : Dev :=
  if d.linkState l ≠ 1 then d
  else
    let ok := Nat.land lanes (15 - d.f .FAB_LINK_STATUS_RETIRED l)
    if popCount ok 4 < 2 then (d.setF .FAB_LINK_STATUS_STATE 0 l).setF .FAB_LINK_STATUS_LANES 0 l
    else ((d.setF .FAB_LINK_STATUS_STATE 2 l).setF .FAB_LINK_STATUS_LANES ok l).sendDisc l false t 0

/-- DISCOVERY: a received DISCOVERY billet is echoed once and compared with the wiring R243 requires, or, if it is an
echo, measures the one-way delay; the link is UP once both are done, MISWIRED on a mismatch (R27, R245; log 19). -/
def Dev.discovery (d : Dev) (t : Nat) : Dev :=
  match d.fab.disc with
  | [] => d
  | e :: rest =>
    let d := d.updFab (fun f => { f with disc := rest })
    let l := e.link
    if d.linkState l ≠ 2 then d
    else
      let far := bPay e.b 0 0 16
      let farLink := bPay e.b 2 0 8
      let group := bPay e.b 3 0 3
      let d := d.setF .FAB_LINK_STATUS_PEER far l
      let d :=
        if bPay e.b 3 7 1 = 1 then
          let rtt := e.stamp - bPay e.b 12 0 64
          { d with ring := { d.ring with delay := SMap.set 0 d.ring.delay l (rtt / 2 % 2 ^ 20 + 1) } }
        else
          let d := if l ∈ d.fab.echoed then d
            else (d.updFab (fun f => { f with echoed := f.echoed ++ [l] })).sendDisc l true t (bPay e.b 4 0 64)
          if far == d.linkPeer l && d.wiredTo l farLink group then
            d.updFab (fun f => { f with matched := if l ∈ f.matched then f.matched else f.matched ++ [l] })
          else (d.setF .FAB_LINK_STATUS_STATE 4 l).post .FAB_MISWIRE far l
      if d.linkState l = 2 ∧ l ∈ d.fab.matched ∧ SMap.get 0 d.ring.delay l ≠ 0 then d.linkComeUp l else d

/-! ## Arrival (R246, R251, R252, R265) -/

/-- A slot for a billet as it arrives: a TC6 billet in the shared region has its static credit returned at once (R265). -/
def Dev.arrive (d : Dev) (l : Nat) (b : Billet) (k : Bool → Dev → Dev) : Dev :=
  match d.place? l (bTc b) (bVc b) with
  | none => d
  | some shared => k shared (if bTc b = 6 ∧ shared = true then d.release (selKey l 6 (bVc b)) 1 else d)

/-- A malformed billet of an UP link is discarded and credited: the credit it came by returns, as from a slot that empties at
once (R252, R264). -/
def Dev.creditBack (d : Dev) (l : Nat) (b : Billet) : Dev :=
  if bTc b = 7 then d
  else d.arrive l b (fun shared d =>
    d.freeSlot { serial := d.fab.serial, input := l, cls := bTc b, vc := bVc b, shared := shared, job := 0, copies := []
                 edge := 0, since := 0, owner := none })

/-- BILLET_RECEIVE: an idle billet is nothing; a billet whose CRC fails takes a link that carries billets down; a malformed
one is discarded, and credited on an UP link, a DISCOVERY billet in any state but DISCOVERY among them; any other takes a
slot on an UP link and is routed. A link in DISCOVERY carries DISCOVERY billets alone, any other state nothing
(R245, R251, R252). -/
def Dev.receive (d : Dev) (l : Nat) (b : Billet) (stamp since : Nat) : Dev :=
  let st := d.linkState l
  if b = 0 then d
  else if bits b.toNat 160 32 ≠ bCrc b then (if st = 2 ∨ st = 3 then d.linkGoDown l 2 else d)
  else
    let d := d.addF .FAB_LINK_RX_RX 1 l
    if d.malformed b || (bType b == 2 && st != 2) then (if st = 3 then d.creditBack l b else d).dropMalformed
    else if bType b = 2 then d.updFab (fun f => { f with disc := f.disc ++ [⟨l, b, stamp⟩] })
    else if st ≠ 3 then d
    else d.arrive l b (fun shared d => d.enqueue l shared b since none (d.route l b))

/-- LINK_CONTROL_WORD: a failed CRC takes the link down; otherwise the selector's RUNNING returns credits, or, for SEL 14,
grants shared ones (R247, R264). -/
def Dev.controlWord (d : Dev) (l w : Nat) : Dev :=
  if !d.linkUp l then d
  else if bits w 56 8 ≠ crc8 w then d.linkGoDown l 3
  else
    let sel := bits w 0 4
    let key := l * 16 + sel
    let diff := (bits w 4 12 + 4096 - SMap.get 0 d.fab.lastRun key) % 4096
    let d := d.updFab (fun f => { f with lastRun := SMap.set 0 f.lastRun key (bits w 4 12) })
    if sel = 15 then d
    else if sel = 14 then d.updFab (fun f => { f with grantsIn := SMap.set 0 f.grantsIn l (SMap.get 0 f.grantsIn l + diff) })
    else
      let n := SMap.get 0 d.fab.sent key
      let m := d.bufMin l (sel / 2)
      let n' := n - diff
      let back := (n - m) - (n' - m)
      d.updFab (fun f => { f with sent := SMap.set 0 f.sent key n'
                                  grantsIn := SMap.set 0 f.grantsIn l (SMap.get 0 f.grantsIn l - back) })

/-! ## Output (R266) -/

/-- Shared credits received on a link that billets now use. -/
def Dev.sharedSpent (d : Dev) (l : Nat) : Nat :=
  sumNat ((List.range 14).map (fun sel => SMap.get 0 d.fab.sent (l * 16 + sel) - d.bufMin l (sel / 2)))

/-- The next device holds a credit for the billet: one of its class and channel, or for TC0 to TC5 a shared one (R264). -/
def Dev.canSend (d : Dev) (l : Nat) (b : Billet) : Bool :=
  let n := SMap.get 0 d.fab.sent (selKey l (bTc b) (bVc b))
  d.linkUp l && (decide (n < d.bufMin l (bTc b)) ||
    (decide (bTc b < 6) && decide (d.sharedSpent l < SMap.get 0 d.fab.grantsIn l)))

/-- The copies that an output may take now, each with its slot. -/
def Dev.eligible (d : Dev) (port : Nat) : List (Slot × Copy) :=
  (d.fab.slots.flatMap (fun s => (s.copies.filter (fun c => c.port == port)).map (fun c => (s, c)))).filter
    (fun e => decide (36 ≤ port) || d.canSend port e.2.b)

/-- The least key after the pointer, going round. -/
def nextAfter (ptr : Nat) (keys : List Nat) : Option Nat :=
  let after := keys.filter (ptr < ·)
  let pick := fun (l : List Nat) => l.foldl (fun (m : Option Nat) k => match m with
    | none => some k
    | some j => some (min j k)) none
  match pick after with
  | some k => some k
  | none => pick keys

/-- Serve by a rotating pointer: the first candidate at or after the pointer's next key, oldest first within it. -/
def Dev.rotate (d : Dev) (site : Nat) (key : Slot × Copy → Nat) (l : List (Slot × Copy)) : Dev × Option (Slot × Copy) :=
  match nextAfter (SMap.get 0 d.fab.ptr site) (l.map (fun e => key e + 1)) with
  | none => (d, none)
  | some k => (d.updFab (fun f => { f with ptr := SMap.set 0 f.ptr site k }), l.find? (fun e => key e + 1 == k))

/-- A grant at one arbiter of the switch tree: the one whose unit a draw has begun, where it can be served, or one drawn now
(R310, R311). -/
def Dev.treeGrant (d : Dev) (a : Nat) (reqs : List (Nat × Nat)) : Dev × Option Nat :=
  match d.owner? a with
  | some g => if reqs.any (fun r => r.1 == g.input) then (d, some g.input) else d.arbitrate a reqs
  | none => d.arbitrate a reqs

/-- The lottery of step 3: the output draws an input, and the input draws a job; the billet passes within this step, so both
grants are parked (R266, R308, R311, R312). -/
def Dev.drawOutput (d : Dev) (port : Nat) (l : List (Slot × Copy)) : Dev × Option (Slot × Copy) :=
  let inputs := (l.map (fun e => e.1.input)).dedup
  let jobs := fun i => ((l.filter (fun e => e.1.input == i)).map (fun e => e.1.job)).dedup
  let (d, i) := d.treeGrant (6 * 4096 + port) (inputs.map (fun i => (i, d.ticket 6 ⟨i, jobs i, none⟩)))
  match i with
  | none => (d, none)
  | some i =>
    let (d, j) := d.treeGrant (5 * 4096 + i) ((jobs i).map (fun j => (j, d.ticket 5 ⟨j, [], none⟩)))
    match j with
    | none => (d, none)
    | some j =>
      let e := l.find? (fun e => e.1.input == i && e.1.job == j)
      let cmd := e.bind (fun e => e.1.owner.map Prod.fst)
      let d := d.setGrant (6 * 4096 + port) (some ⟨6 * 4096 + port, i, cmd, false, false⟩)
      (d.setGrant (5 * 4096 + i) (some ⟨5 * 4096 + i, j, cmd, false, false⟩), e)

/-- The billets in static minima that an output may take in step 2, TC6 among them (R266). -/
def heldIn (l : List (Slot × Copy)) : List (Slot × Copy) := l.filter (fun e => !e.1.shared && e.1.cls != 4)

/-- One iteration of MATCHER 1 over the outputs and inputs that are still free: outputs grant, inputs accept, and pointers
advance in the first iteration alone (R266). -/
def Dev.matchOnce (d : Dev) (first : Bool) (m : List (Nat × Nat)) : Dev × List (Nat × Nat) :=
  let free := fun (o : Nat) => !m.any (fun e => e.1 == o)
  let open_ := fun (i : Nat) => !m.any (fun e => e.2 == i)
  let grants := ((List.range 44).filter free).filterMap (fun o =>
    let ins := ((heldIn (d.eligible o)).map (fun e => e.1.input)).filter open_
    (nextAfter (SMap.get 0 d.fab.ptr (o * 4 + 2)) (ins.map (· + 1))).map (fun k => (o, k - 1)))
  let accepted := ((List.range 44).filterMap (fun i =>
    let outs := (grants.filter (fun g => g.2 == i)).map Prod.fst
    (nextAfter (SMap.get 0 d.fab.ptr (176 + i)) (outs.map (· + 1))).map (fun k => (k - 1, i))))
  let d := if first then d.updFab (fun f => { f with
      ptr := accepted.foldl (fun m e => SMap.set 0 (SMap.set 0 m (e.1 * 4 + 2) (e.2 + 1)) (176 + e.2) (e.1 + 1)) f.ptr }) else d
  (d, m ++ accepted)

/-- The cycle of MATCHER 1 that an output acts in: it begins with three iterations of the matching, and ends when an output
that has acted in it acts again (R266; log 128). -/
def Dev.beginCycle (d : Dev) (port : Nat) : Dev :=
  if d.f .FAB_SW_CFG_MATCHER = 0 then d
  else
    let d := if d.fab.served.isEmpty || d.fab.served.contains port then
        let (d, m) := d.matchOnce true []
        let (d, m) := d.matchOnce false m
        let (d, m) := d.matchOnce false m
        d.updFab (fun f => { f with served := [], used := [], matching := m })
      else d
    d.updFab (fun f => { f with served := f.served ++ [port] })

/-- The billet that an output takes, by the four steps of R266; under MATCHER 1 an input passes at most one in a cycle. -/
def Dev.pickOutput (d : Dev) (port : Nat) : Dev × Option (Slot × Copy) :=
  let old := d.f .FAB_SW_CFG_MATCHER = 1
  let l := (d.eligible port).filter (fun e => !old || !d.fab.used.contains e.1.input)
  let tc4 := l.filter (fun e => e.1.cls == 4)
  let held := if old then (heldIn l).filter (fun e => d.fab.matching.contains (port, e.1.input)) else heldIn l
  let shared := l.filter (fun e => e.1.shared && e.1.cls != 4 && e.1.cls != 6)
  let tc6 := l.filter (fun e => e.1.cls == 6 && e.1.shared)
  if !tc4.isEmpty then d.rotate (port * 4) (fun e => e.1.input) tc4
  else if !held.isEmpty then
    if old then (d, held.head?) else d.rotate (port * 4 + 1) (fun e => e.1.input * 8 + e.1.cls) held
  else if !shared.isEmpty then d.drawOutput port shared
  else d.rotate (port * 4 + 3) (fun e => e.1.input) tc6

/-- A link control word (Table 12.4). -/
def ctrlWord (sel running : Nat) : Nat := let w := sel + running % 4096 * 16; w + crc8 w * 2 ^ 56

/-- A link has sent one billet slot; the eleventh of a block is followed by a control word, with the next SEL and the credits
released for it (R246, R247). -/
def Dev.slotSent (d : Dev) (l : Nat) : Dev :=
  let n := SMap.get 0 d.fab.blk l + 1
  let d := d.updFab (fun f => { f with blk := SMap.set 0 f.blk l n })
  if n % 11 ≠ 0 then d
  else
    let sel := (n / 11 - 1) % 15
    d.emit (.controlWord l (BitVec.ofNat 64 (ctrlWord sel (SMap.get 0 d.fab.released (l * 16 + sel)))))

/-- The debug port copies a billet that leaves its output into the test register, and releases the output (R314). -/
def Dev.captureBillet (d : Dev) (port : Nat) (b : Billet) : Dev :=
  if d.arb.capture.contains port then
    (d.updArb (fun x => { x with capture := x.capture.filter (· != port), testReg := b.zeroExtend 768 })).arbRelease
      (6 * 4096 + port)
  else d

/-- A copy goes to its internal port, where it keeps its slot until its engine takes it (R115, R262). -/
def Dev.toPort (d : Dev) (s : Slot) (port : Nat) (b : Billet) : Dev :=
  d.updFab (fun f => { f with
    slots := mapIf (fun t => t.serial == s.serial)
      (fun t => { t with copies := mapIf (fun c => c.port == port) (fun c => { c with port := port + 64 }) t.copies }) f.slots
    arrivals := f.arrivals ++ [⟨port, b, if s.input < 36 then some s.input else none, s.edge, s.since, s.serial⟩] })

/-- A billet passes an output: over the link, spending a credit, or to its internal port's delivery (R263, R266). The Scaler
charges it to its job (R344). -/
def Dev.pass (d : Dev) (port since : Nat) (s : Slot) (c : Copy) : Dev :=
  let b := if port < 36 then d.stampAlign c.b since else c.b
  let d := d.updFab (fun f => { f with used := f.used ++ [s.input] })
  let d := ((if port < 36 then d.leave s port else d.toPort s port b).sclGrant .switch (d.partOf s.job)).captureBillet port b
  if port < 36 then
    let key := selKey port (bTc b) (bVc b)
    let d := d.updFab (fun f => { f with sent := SMap.set 0 f.sent key (SMap.get 0 f.sent key + 1) })
    ((d.addF .FAB_LINK_TX_TX 1 port).emit (.billet port b)).slotSent port
  else d

/-- SWITCH_OUTPUT_GRANT: the output takes a billet and sends it on; an UP link with none sends an idle slot (R246). An output
that the debug port holds passes nothing for one billet time, but the billet that the port captures (R313, R314). -/
def Dev.outputGrant (d : Dev) (port since : Nat) : Dev :=
  let a := 6 * 4096 + port
  if d.arbHeld a && !d.arb.capture.contains port then d.arbRelease a
  else
    let d := d.pump.beginCycle port
    match d.pickOutput port with
    | (d, none) => if decide (port < 36) && d.linkUp port then d.slotSent port else d
    | (d, some (s, c)) => (d.pass port since s c).pump

/-! ## The watchdog (R315) -/

/-- The billet that a grant of a switch arbiter would pass: the first that its input holds in the shared region, for that
output or of that job. -/
def Dev.grantedBillet (d : Dev) (g : Grant) : Option (Slot × Copy) :=
  let n := g.arb % 4096
  if arbClass g.arb = 6 then (d.eligible n).find? (fun e => e.1.shared && e.1.input == g.input)
  else (d.fab.slots.find? (fun s => s.shared && s.input == n && s.job == g.input)).bind (fun s =>
    (s.copies.find? (fun c => decide (c.port < 44))).map (fun c => (s, c)))

/-- The command on whose behalf a grant's request was made: that which injected the billet, or which the request names. -/
def Dev.grantCmd (d : Dev) (g : Grant) : Option Nat :=
  if 5 ≤ arbClass g.arb then (d.grantedBillet g).bind (fun e => e.1.owner.map Prod.fst) else g.cmd

/-- WATCHDOG_BITE: a grant whose unit has lasted to the limit is revoked; its command is killed, or the request of no command
is abandoned, a billet with it; the bite is counted, captured and reported, and the remaining inputs draw (R315). -/
def Dev.watchdogBite (d : Dev) (a : Nat) (active : List ArbReq) : Dev :=
  match d.owner? a with
  | none => d
  | some g =>
    if d.wdog (arbClass a) == 0 then d
    else
      let cmd := (d.grantCmd g).bind d.cmd?
      let billet := if 5 ≤ arbClass a then d.grantedBillet g else none
      let d := (d.setGrant a none).addF .ARB_BITES_BITES 1
      let d := match billet with
        | some (s, c) => d.leave s c.port
        | none => d
      let d := if d.flag .ARB_BITE_LAST_VALID then d
        else d.setReg .ARB_BITE_LAST (BitVec.ofNat 64
          (a + g.input % 256 * 2 ^ 16 + cmd.elim 0 Cmd.tag % 2 ^ 31 * 2 ^ 32 + 2 ^ 63))
      let index := a + g.input % 256 * 2 ^ 16
      let d := match cmd with
        | some c => (d.postCmd c.id .ARB_WATCHDOG Status.killedWatchdog.num 0 index).failCmd c.id .killedWatchdog
        | none => (d.addF .ARB_BITES_ABANDONED 1).post .ARB_WATCHDOG 0 index
      d.grantAmong a (active.filter (fun r => r.input != g.input))

/-! ## Delivery (R252, R267) -/

/-- An engine takes a delivered billet, or it is discarded: the copy leaves its slot, and the credit returns (R115, R264). -/
def Dev.consume (d : Dev) (a : Arrival) : Dev :=
  match d.fab.slots.find? (fun s => s.serial == a.slot) with
  | some s => d.leave s (a.port + 64)
  | none => d

/-- INTERNAL_DELIVERY: the next billet at an internal port is accepted by its job, or discarded and counted. -/
def Dev.deliver (d : Dev) (port : Nat) : Dev :=
  match d.fab.arrivals.find? (fun a => a.port == port) with
  | none => d
  | some a =>
    let d := d.updFab (fun f => { f with arrivals := f.arrivals.erase a })
    if badControl a.b then (d.consume a).dropMalformed
    else if (d.partOf (bJob a.b)).isSome || (bJob a.b == 0 && (bTc a.b == 4 || bTc a.b == 6)) then
      d.updFab (fun f => { f with inbox := f.inbox ++ [a] })
    else ((d.consume a).addF .FAB_DROP_REJECT_JOB 1).postFirst .FAB_JOB_REJECT 0 0 (bJob a.b) { job := bJob a.b }

/-- Take the first delivered billet of an internal port that meets a test; its slot is free again. -/
def Dev.takeInbox (d : Dev) (p : Arrival → Bool) : Option (Arrival × Dev) :=
  match d.fab.inbox.find? p with
  | none => none
  | some a => some (a, (d.updFab (fun f => { f with inbox := f.inbox.erase a })).consume a)

/-! ## Meanings -/

/-- LINK_TRAINED. -/
def execLinkTrained (l : Fin 36) (lanes : BitVec 4) (t : BitVec 64) (s : State) : Host.Outcome State Fault Refusal :=
  s.act (fun d => d.trained l lanes.toNat t.toNat)

/-- DISCOVERY. -/
def execDiscovery (t : BitVec 64) (s : State) : Host.Outcome State Fault Refusal := s.act (fun d => d.discovery t.toNat)

/-- LINK_DOWN. -/
def execLinkDown (l : Fin 36) (cause : Fin 8) (s : State) : Host.Outcome State Fault Refusal :=
  s.act (fun d => if cause.val = 7 then d else d.linkGoDown l cause)

/-- LINK_TRAINING_START. -/
def execLinkTrainingStart (l : Fin 36) (s : State) : Host.Outcome State Fault Refusal := s.act (fun d => d.trainingStart l)

/-- BILLET_RECEIVE. -/
def execBilletReceive (l : Fin 36) (b : Billet) (stamp : BitVec 64) (since : BitVec 16) (s : State) :
    Host.Outcome State Fault Refusal :=
  s.act (fun d => d.receive l b stamp.toNat since.toNat)

/-- SWITCH_OUTPUT_GRANT. -/
def execSwitchOutputGrant (turn : OutputTurn) (s : State) : Host.Outcome State Fault Refusal :=
  s.act (fun d => d.outputGrant turn.port turn.since.toNat)

/-- WATCHDOG_BITE. -/
def execWatchdogBite (bite : Bite) (s : State) : Host.Outcome State Fault Refusal :=
  s.act (fun d => d.watchdogBite bite.arb.toNat bite.active)

/-- LINK_CONTROL_WORD. -/
def execLinkControlWord (l : Fin 36) (w : BitVec 64) (s : State) : Host.Outcome State Fault Refusal :=
  s.act (fun d => d.controlWord l w.toNat)

/-- INTERNAL_DELIVERY. -/
def execInternalDelivery (port : Fin 44) (s : State) : Host.Outcome State Fault Refusal := s.engine (fun d => d.deliver port)

end Sys2Proof.Machine
end

