-- ==== Sys2Proof/Machine/Ranks.lean ====
section
/-! DEFINITION. Job-local ranks: the rank tables in HBM and the rank cache (R256). -/

namespace Sys2Proof.Machine

/-- The physical address of a rank's table entry (R256). -/
def Dev.rankAddr (d : Dev) (p rank : Nat) : Nat := d.f .FAB_RANKTAB_BASE p * 256 + rank * 4

/-- The entries of a partition's rank table. -/
def Dev.rankCount (d : Dev) (p : Nat) : Nat := d.f .FAB_RANKTAB_ENTRIES_M1 p + 1

/-- Keep a translation in the rank cache, which holds 4,096; when it is full the oldest makes room (log 14). -/
def Dev.cacheRank (d : Dev) (e : Nat × Nat × Nat) : Dev :=
  let keep := if d.fab.ranks.length < 4096 then d.fab.ranks else d.fab.ranks.drop 1
  d.updFab (fun f => { f with ranks := keep ++ [e] })

/-- The failure of a rank beyond the table, or with VALID 0 (R256). -/
def badRank (rank : Nat) : Fail := .report .faultProt .FAB_RANK 0 rank

/-- The node of a rank: from the cache, or from the table (R256). -/
def rankNode (p rank : Nat) : Op Nat := do
  let d ← get
  match d.fab.ranks.find? (fun e => e.1 == p && e.2.1 == rank) with
  | some e => return e.2.2
  | none =>
    need (rank < d.rankCount p) (badRank rank)
    let e := leNat (← Op.mem (fun d => (d, d.physRead (d.rankAddr p rank) 4)))
    need (bit e 16) (badRank rank)
    let node := bits e 0 16
    Op.act (fun d => d.cacheRank (p, rank, node))
    return node

/-- The lowest rank that a table names for a node, if it can be read (R100, R256). -/
def Dev.nodeRank (d : Dev) (p node : Nat) : Option Nat :=
  (List.range (d.rankCount p)).find? (fun r =>
    match d.physRead (d.rankAddr p r) 4 with
    | .ok bs => bit (leNat bs) 16 && bits (leNat bs) 0 16 == node
    | .error _ => false)

end Sys2Proof.Machine
end

