-- ==== Sys2Proof/Machine/Sieve.lean ====
section
/-! DEFINITION. The Sieve: contexts and the map, score intake, normalisation, selection, exit, capacity, replicas, grain
records and the sort index (R70 to R91), and the Step Report ring's registers (R93). -/

namespace Sys2Proof.Machine

/-! ## ARGS and the map header (Table 4.2, Table 4.3, Table 4.4) -/

/-- SCORE_TAG of a SIEVE. -/
def Cmd.scoreTag (c : Cmd) : Nat := c.arg 0 0 32
/-- LAYER of a SIEVE. -/
def Cmd.svLayer (c : Cmd) : Nat := c.arg 4 0 8
/-- STAGE of a SIEVE. -/
def Cmd.stage (c : Cmd) : Nat := c.arg 5 0 2
/-- CAP_FROM_GRANT. -/
def Cmd.capFromGrant (c : Cmd) : Bool := c.arg 5 2 1 = 1
/-- EXPERT_COUNTS. -/
def Cmd.expertCounts (c : Cmd) : Bool := c.arg 5 3 1 = 1
/-- DKEY. -/
def Cmd.dkey (c : Cmd) : Bool := c.arg 5 4 1 = 1

/-- A field of the map header: w bits from bit lo of byte k. -/
def SvCtx.h (x : SvCtx) (k lo w : Nat) : Nat := field x.head.toNat k lo w

/-- Experts in the layer. -/
def mapExperts (n : Nat) : Nat := field n 0 0 16 + 1
/-- Experts in a group. -/
def mapGroup (n : Nat) : Nat := 2 ^ field n 2 0 4

/-- The header breaks R76 for a STAGE and an object of some size. -/
def mapBad (n stage size : Nat) : Bool :=
  let experts := mapExperts n
  let g := mapGroup n
  let grouped := field n 2 4 1 = 1
  let nan := fun k => isNan32 (BitVec.ofNat 32 (field n k 0 32))
  field n 4 0 2 = 3 || field n 4 2 2 = 3 || decide (field n 5 4 4 < field n 5 0 4) || decide (field n 6 4 4 < field n 6 0 4) ||
  nan 8 || nan 12 || nan 16 ||
  (stage = 0 && (grouped || decide (4096 < experts))) ||
  (stage ≠ 0 && (!grouped || decide (12 < field n 2 0 4) || experts % g ≠ 0 || decide (4096 < experts / g) ||
    decide (4096 < (field n 6 4 4 + 1) * g))) ||
  decide (size < 64) || (stage ≠ 1 && decide (size < 64 + 32 * experts))

/-- An Expert Map entry's NREP. -/
def nrep (e : BitVec 256) : Nat := field e.toNat 0 0 3
/-- RANK_r of an Expert Map entry. -/
def repRank (e : BitVec 256) (r : Nat) : Nat := field e.toNat (4 + 4 * r) 0 16
/-- SLOT_r of an Expert Map entry. -/
def repSlot (e : BitVec 256) (r : Nat) : Nat := field e.toNat (6 + 4 * r) 0 16
/-- The entry names 1 to 4 replicas; any other NREP is a map miss (R76, R85). -/
def mapHit (e : BitVec 256) : Bool := 1 ≤ nrep e && nrep e ≤ 4

/-- Scored columns of a token, without the confidence column: experts, or groups for STAGE 1 (R78). -/
def SvCtx.cols (x : SvCtx) (stage : Nat) : Nat :=
  if stage = 1 then mapExperts x.head.toNat / mapGroup x.head.toNat else mapExperts x.head.toNat

/-! ## Contexts -/

/-- The context with a number. -/
def Dev.sv? (d : Dev) (k : Nat) : Option SvCtx := d.sv.ctxs.find? (fun x => x.ctx == k)

/-- Change the context with a number. -/
def Dev.updSv (d : Dev) (k : Nat) (g : SvCtx → SvCtx) : Dev :=
  { d with sv := { d.sv with ctxs := mapIf (fun x => x.ctx == k) g d.sv.ctxs } }

/-- The context that a launching SIEVE of a partition takes: none while no context is free or another SIEVE of the
partition holds one. Which of two free ones it takes the spec leaves open; here the lower (DESIGN CHOICE, log 137) (R73). -/
def Dev.freeSv (d : Dev) (p : Nat) : Option Nat :=
  if d.sv.ctxs.any (fun x => x.part == p) then none
  else (List.range 2).find? (fun k => d.sv.ctxs.all (fun x => x.ctx != k))

/-- A failure of the Expert Map, or of what stands beside it. -/
def mapInvalid : Fail := .report .faultData .SV_MAP_INVALID 0 0

/-- A capacity table's entries for a layer: one shorter than the experts need is refused (R84). -/
def capTable (experts : Nat) (bs : List Byte) : Op (List Nat) := do
  need (4 * experts ≤ bs.length) mapInvalid
  return (List.range experts).map (fun e => leAt bs (4 * e) 4)

/-- A SIEVE's launch: it takes a context, loads and checks the map header, and latches the source of its capacity
(R73, R75, R76, R95). A SIEVE that names no map holds one of no bytes. -/
def sieveStart (id : Nat) : Op Unit := do
  let d ← get
  match d.cmd? id with
  | none => pure ()
  | some c =>
    match d.freeSv c.part, c.input (c.inp 0) with
    | some k, some v => do
      need (64 ≤ v.entry.size) mapInvalid
      let n ← rdNat v 0 64
      need (!mapBad n c.stage v.entry.size) mapInvalid
      let grant := if c.capFromGrant then (d.sv.caps.find? (fun e => e.1 == c.part)).map Prod.snd else none
      let caps ← match grant with
        | some bs => some <$> capTable (mapExperts n) bs
        | none => pure none
      Op.act (fun d => { d with sv := { d.sv with ctxs := d.sv.ctxs ++ [
        { ctx := k, id := id, part := c.part, head := BitVec.ofNat 512 n, loaded := false, map := [], caps := caps
          status := none, groups := [], slots := none, width := 0, last := false, rows := [], used := [], given := []
          grains := [], tokens := 0, exited := [], pass := 0, miss := 0, nans := 0, runs := [], tailDone := false, dirs := [] }] } })
      -- a LAYER launched earlier has already planned its rows
      match (c.pair.bind d.run?) with
      | some r =>
        let slots := match r.src with | .tok t => t.slots | .reg _ => []
        Op.act (fun d => d.updSv k (fun x => { x with slots := some slots, width := r.n }))
      | none => pure ()
    | _, _ => throw mapInvalid

/-- The context's map store takes the entries, and the context its capacity, its token status table and its groups
(R75, R77, R82, R84). -/
def sieveLoad (c : Cmd) (x : SvCtx) : Op Unit := do
  let experts := mapExperts x.head.toNat
  let map ← if c.stage = 1 then pure []
    else do
      let v ← inVer c (c.inp 0)
      let bs ← rd v 64 (32 * experts)
      pure ((List.range experts).map (fun e => BitVec.ofNat 256 (leAt bs (32 * e) 32)))
  let caps ← match x.caps with
    | some l => pure (some l)
    | none =>
      if c.stage = 0 ∧ c.inp 2 ≠ 0 then do
        let v ← inVer c (c.inp 2)
        some <$> capTable experts (← rd v 0 v.entry.size)
      else pure none
  let status ← if c.inp 1 = 0 then pure none
    else do
      let v ← inVer c (c.inp 1)
      some <$> rd v 0 v.entry.size
  let groups ← if c.stage = 2 then do
      let v ← inVer c (c.inp 2)
      let t ← grainTable v mapInvalid
      pure t.grains
    else pure []
  Op.act (fun d => d.updSv x.ctx (fun x =>
    { x with loaded := true, map := map, caps := caps, status := status, groups := groups }))

/-- SIEVE: the load of its launch ends (R75). -/
def Dev.sieve (d : Dev) (id : Nat) : Dev :=
  match d.cmd? id, d.sv.ctxs.find? (fun x => x.id == id) with
  | some c, some x => if c.running && !x.loaded then d.work id 0 (sieveLoad c x) else d
  | _, _ => d

/-! ## Score intake (R78, R79) -/

/-- A token's byte of the status table, if there is one (R77). -/
def SvCtx.statusAt (x : SvCtx) (slot token : Nat) : Option Nat :=
  x.status.map (fun bs => 8192 + leAt bs (8 * slot) 4 + token)

/-- The token was EXITED in IN1. -/
def SvCtx.gone (x : SvCtx) (slot token : Nat) : Bool :=
  match x.status, x.statusAt slot token with
  | some bs, some i => (bs.getD i 0).toNat % 2 = 1
  | _, _ => false

/-- COUNT of a slot: the status table's, or the LAYER's token rows' where there is no table. -/
def SvCtx.countOf (x : SvCtx) (slot : Nat) : Nat :=
  match x.status with
  | some bs => leAt bs (8 * slot + 4) 4
  | none => ((x.slots.getD []).getD slot (0, 0)).2

/-- The groups a token chose, with their weights (R82). -/
def SvCtx.groupsOf (x : SvCtx) (slot token : Nat) : List (Nat × F32) :=
  (x.groups.filter (fun g => g.slot == slot && g.token == token)).map (fun g => (g.expert, g.gate))

/-- The tile names a group that the token did not choose (R78). -/
def SvCtx.strange (x : SvCtx) (stage slot token base cols : Nat) : Bool :=
  stage = 2 && (List.range cols).any (fun j =>
    let col := base + j
    col < mapExperts x.head.toNat && (x.groupsOf slot token).all (fun g => g.1 != col / mapGroup x.head.toNat))

/-- A block repeats columns of a row. -/
def SvRow.repeats (r : SvRow) (base cols : Nat) : Bool :=
  r.blocks.any (fun b => decide (b.1 < base + cols ∧ base < b.1 + b.2.length))

/-- A row of a score tile joins its token's row, or breaks R78. -/
def SvCtx.take (x : SvCtx) (stage : Nat) (t : ScoreTile) (i : Nat) : Except Code SvCtx :=
  let token := t.first + i
  let scores := (t.scores.drop (i * t.cols)).take t.cols
  if x.countOf t.slot ≤ token then .error .SV_SCORE_GAP
  else if x.cols stage + 1 < t.base + t.cols then .error .SV_SCORE_GAP
  else if x.strange stage t.slot token t.base t.cols then .error .SV_SCORE_GAP
  else
    let mine := fun (r : SvRow) => r.slot == t.slot && r.token == token
    match x.rows.find? mine with
    | some r =>
      if r.gone then .ok x
      else if r.repeats t.base t.cols then .error .SV_SCORE_GAP
      else .ok { x with rows := mapIf mine (fun r => { r with blocks := r.blocks ++ [(t.base, scores)] }) x.rows }
    | none =>
      if 262144 ≤ x.rows.length then .error .SV_LIMIT
      else
        let gone := x.gone t.slot token
        .ok { x with rows := x.rows ++ [
          { slot := t.slot, token := token, blocks := if gone then [] else [(t.base, scores)], key := t.keys.getD i 0
            gone := gone, chosen := gone }] }

/-- Every row of a tile. -/
def SvCtx.takeAll (x : SvCtx) (stage : Nat) (t : ScoreTile) : List Nat → Except Code SvCtx
  | [] => .ok x
  | i :: is =>
    match x.take stage t i with
    | .error c => .error c
    | .ok x => x.takeAll stage t is

/-- The columns that a token's row needs (R78): every scored column, with the confidence column where the LAYER computes
one; for STAGE 2, those of its groups. -/
def SvCtx.needed (x : SvCtx) (stage slot token : Nat) : List Nat :=
  let n := x.cols stage
  if stage = 2 then
    let g := mapGroup x.head.toNat
    ((x.groupsOf slot token).map Prod.fst).flatMap (fun k => (List.range g).map (· + k * g))
  else List.range (if n < x.width then n + 1 else n)

/-- The raw score of a column, once its block has arrived. -/
def SvRow.score (r : SvRow) (col : Nat) : Option F32 :=
  (r.blocks.find? (fun b => decide (b.1 ≤ col ∧ col < b.1 + b.2.length))).bind (fun b => b.2[col - b.1]?)

/-- The row is complete. -/
def SvCtx.complete (x : SvCtx) (stage : Nat) (r : SvRow) : Bool :=
  r.gone || (x.needed stage r.slot r.token).all (fun c => (r.score c).isSome)

/-- The paired LAYER has sent its last tile, and it has been accepted: its units are done and no tile of it waits, or it has
committed (R72). -/
def Dev.scoresDone (d : Dev) (c : Cmd) (x : SvCtx) : Bool :=
  x.last ||
  match c.pair with
  | none => false
  | some l =>
    match d.run? l with
    | none => (d.cmd? l).all Cmd.ended
    | some r => r.units.all LUnit.done && !d.arr.scores.any (fun t => t.layer == l)

/-- The tokens that the SIEVE will process, in the order of R85. A token for which STAGE 2's group table has no record is
none of them, which the spec leaves open (DESIGN CHOICE, log 137). -/
def SvCtx.order (x : SvCtx) (stage : Nat) : List (Nat × Nat) :=
  (x.slots.getD []).zipIdx.flatMap (fun s =>
    ((List.range s.1.2).map (fun t => (s.2, t))).filter (fun e =>
      !x.gone e.1 e.2 && (stage != 2 || !(x.groupsOf e.1 e.2).isEmpty)))

/-- A token not yet processed has no complete row (R78). -/
def SvCtx.gap (x : SvCtx) (stage : Nat) : Bool :=
  ((x.order stage).drop x.tokens).any (fun t =>
    !x.rows.any (fun r => r.slot == t.1 && r.token == t.2 && x.complete stage r))

/-- SCORE_TILE: the context accepts the next tile of its LAYER (R78). -/
def Dev.scoreTile (d : Dev) (k : Nat) : Dev :=
  match d.sv? k with
  | none => d
  | some x =>
    match d.cmd? x.id with
    | none => d
    | some c =>
      if !c.running || !x.loaded then d
      else
        match d.arr.scores.find? (fun t => c.pair == some t.layer) with
        | none => d
        | some t =>
          let d := { d with arr := { d.arr with scores := d.arr.scores.erase t } }
          let d := d.addF .SV_TILES_TILES 1
          match x.takeAll c.stage t (List.range t.rows) with
          | .error code => d.failReport x.id 0 .faultData code
          | .ok x =>
            let d := d.updSv k (fun _ => x)
            if !d.scoresDone c x then d
            else
              let d := d.updSv k (fun x => { x with last := true })
              if x.gap c.stage then d.failReport x.id 0 .faultData .SV_SCORE_GAP else d

/-! ## Normalisation (R79, R80) -/

/-- A sanitised score, and whether it was replaced (R79). -/
def sanitise (x : F32) : F32 × Bool :=
  if isNan32 x then (0xFF800000#32, true) else if x = 0x7F800000#32 then (0x7F7FFFFF#32, true) else (x, false)

/-- The larger of two scores. -/
def fmax (a b : F32) : F32 := if flt a b then b else a

/-- The largest score of a list. -/
def fmaxAll (xs : List F32) : F32 := xs.foldl fmax 0xFF800000#32

/-- Softmax over blocks of scores (R80). -/
def softmax (blocks : List (List F32)) : List F32 :=
  let big := fmaxAll (blocks.map fmaxAll)
  if big = 0xFF800000#32 then blocks.flatten.map (fun _ => 0#32)
  else
    let parts := blocks.map (fun b =>
      let m := fmaxAll b
      let s := b.foldl (fun a x => fadd false a (exp32 (fsub false x m))) 0#32
      fmul false s (exp32 (fsub false m big)))
    let total := parts.foldl (fadd false) 0#32
    blocks.flatten.map (fun x => fdiv false (exp32 (fsub false x big)) total)

/-- The normalised scores of the blocks' columns in turn (R80). -/
def normalise (norm : Nat) (blocks : List (List F32)) : List F32 :=
  match norm with
  | 1 => softmax blocks
  | 2 => blocks.flatten.map sigmoid
  | _ => blocks.flatten

/-! ## Selection (R81 to R83) -/

/-- a ≥ b in FP32. -/
def fge (a b : F32) : Bool := !flt a b && !isNan32 a && !isNan32 b

/-- Insert a scored column into descending score, then ascending column. -/
def insertScore (e : Nat × F32 × F32) : List (Nat × F32 × F32) → List (Nat × F32 × F32)
  | [] => [e]
  | y :: ys => if flt y.2.1 e.2.1 || (!flt e.2.1 y.2.1 && decide (e.1 < y.1)) then e :: y :: ys else y :: insertScore e ys

/-- The chosen columns in order, with their gate weights (R81): columns with their raw and normalised scores. -/
def choose (cols : List (Nat × F32 × F32)) (tau : F32) (kmin kmax : Nat) : List (Nat × F32) :=
  let order := cols.foldl (fun l e => insertScore e l) []
  let n := (order.filter (fun e => fge e.2.2 tau)).length
  let k := min (min (max n kmin) kmax) order.length
  (order.take k).map (fun e => (e.1, e.2.2))

/-- What a row's scores select: its choices, whether the token exits, and how many scores were replaced. The confidence
column's score is neither replaced nor counted, which the spec leaves open (DESIGN CHOICE, log 137): R83 tests the raw
one. -/
def SvCtx.select (x : SvCtx) (c : Cmd) (r : SvRow) : List (Nat × F32) × Bool × Nat :=
  let stage := c.stage
  let n := x.cols stage
  let cols := (x.needed stage r.slot r.token).filter (· < n)
  let blocks := (sortBy Prod.fst r.blocks).map (fun b =>
    ((List.range b.2.length).map (fun j => (b.1 + j, sanitise (b.2.getD j 0#32)))).filter (fun e => cols.contains e.1))
  let blocks := blocks.filter (!·.isEmpty)
  let flat := blocks.flatten
  let norm := if stage = 1 then x.h 4 2 2 else x.h 4 0 2
  let p := normalise norm (blocks.map (fun b => b.map (fun e => e.2.1)))
  let scored := (flat.zip p).map (fun e => (e.1.1, e.1.2.1, e.2))
  let (tau, kmin, kmax) := if stage = 1 then (x.h 12 0 32, x.h 6 0 4 + 1, x.h 6 4 4 + 1)
    else (x.h 8 0 32, x.h 5 0 4 + 1, x.h 5 4 4 + 1)
  let picks := choose scored (BitVec.ofNat 32 tau) kmin kmax
  let picks := if stage = 2 && x.h 4 6 1 == 1 then picks.map (fun e =>
      match (x.groupsOf r.slot r.token).find? (fun g => g.1 == e.1 / mapGroup x.head.toNat) with
      | some g => (e.1, fmul false e.2 g.2)
      | none => e) else picks
  let exits := x.h 4 5 1 == 1 && stage != 2 &&
    match r.score n with
    | some v => !isNan32 v && fge (sigmoid v) (BitVec.ofNat 32 (x.h 16 0 32))
    | none => false
  (picks, exits, (flat.filter (fun e => e.2.2)).length)

/-! ## Capacity, map and replicas (R84 to R87) -/

/-- An expert's capacity; none is unlimited (R84). -/
def SvCtx.cap (x : SvCtx) (c : Cmd) (e : Nat) : Option Nat :=
  let v := if c.stage = 1 then 0xFFFFFFFF else match x.caps with
    | some l => l.getD e 0
    | none => c.arg 8 0 32
  if v = 0xFFFFFFFF then none else some v

/-- The replica that the hash chooses (R86). -/
def hashReplica (slot token n : Nat) : Nat :=
  let h := (slot * 4194304 + token) * 0x9E3779B1 % 2 ^ 32
  h / 65536 * n / 65536

/-- The TC0 billets at the Switch Core on their way to a node (R86). -/
def Dev.backlog (d : Dev) (node : Nat) : Nat :=
  sumNat ((d.fab.slots.filter (fun s => s.cls == 0)).map (fun s => (s.copies.filter (fun k => bDest k.b == node)).length))

/-- The replica that dynamic load balancing chooses: least backlog, then fewest given, then lowest (R86). -/
def dlbReplica (x : SvCtx) (expert : Nat) (ent : BitVec 256) : Op Nat := do
  let l ← (List.range (nrep ent)).mapM (fun r => do
    let node ← rankNode x.part (repRank ent r)
    let d ← get
    return (r, d.backlog node, SMap.get 0 x.given (expert * 4 + r)))
  let best := l.foldl (fun (b : Option (Nat × Nat × Nat)) e => match b with
    | none => some e
    | some b => if e.2.1 < b.2.1 ∨ (e.2.1 = b.2.1 ∧ e.2.2 < b.2.2) then some e else some b) none
  return (best.map Prod.fst).getD 0

/-- The replica of a kept choice (R86). -/
def pickReplica (x : SvCtx) (slot token expert : Nat) (ent : BitVec 256) : Op Nat := do
  let d ← get
  if d.flag .SV_CTRL_DLB_EN x.part && !d.flag .PART_CTRL_DET x.part then dlbReplica x expert ent
  else return hashReplica slot token (nrep ent)

/-- Fill one choice of a token: kept with a replica, or dropped; and whether it was a map miss (R85, R87). -/
def fillChoice (c : Cmd) (x : SvCtx) (g : Grain) : Op (SvCtx × Grain × Bool) := do
  let ent := x.map.getD g.expert 0
  let drop := { g with dropped := true, rank := 0xFFFF, replica := 0 }
  if !mapHit ent then return (x, drop, true)
  else if (x.cap c g.expert).any (fun n => decide (n ≤ SMap.get 0 x.used g.expert)) then return (x, drop, false)
  else
    let r ← pickReplica x g.slot g.token g.expert ent
    let key := g.expert * 4 + r
    return ({ x with used := SMap.set 0 x.used g.expert (SMap.get 0 x.used g.expert + 1)
                     given := SMap.set 0 x.given key (SMap.get 0 x.given key + 1) },
      { g with replica := r, rank := repRank ent r }, false)

/-- Fill every choice of a token in turn: grains and map misses. -/
def fillAll (c : Cmd) : SvCtx → List Grain → Op (SvCtx × List Grain × Nat)
  | x, [] => return (x, [], 0)
  | x, g :: gs => do
    let (x, g, miss) ← fillChoice c x g
    let (x, rest, n) ← fillAll c x gs
    return (x, g :: rest, n + b2n miss)

/-- Renormalise the kept choices of a token (R85). -/
def renormalise (gs : List Grain) : List Grain :=
  let s := (gs.filter (fun g => !g.dropped)).foldl (fun a g => fadd false a g.gate) 0#32
  if flt 0#32 s then gs.map (fun g => if g.dropped then g else { g with gate := fdiv false g.gate s }) else gs

/-- The destination directory: every replica rank of the map in ascending order, with its experts (R89). -/
def mapDirs (map : List (BitVec 256)) : List (Nat × Nat) :=
  let ranks := map.map (fun e => if mapHit e then ((List.range (nrep e)).map (repRank e)).dedup else [])
  let all := (ranks.flatten).foldl (fun (m : SMap Nat) r => SMap.set 0 m r (SMap.get 0 m r + 1)) []
  all

/-- Where the grain records begin: after the header and the directory (R89). -/
def SvCtx.recOff (x : SvCtx) (stage : Nat) : Nat := 64 + 16 * (if stage = 1 then 1 else (mapDirs x.map).length)

/-- Write bytes of an output of the SIEVE: beyond the placed size it is refused (R90). -/
def sieveWrite (c : Cmd) (obj off : Nat) (bs : List Byte) : Op Unit := do
  let v ← outVer c obj
  need v.unstriped (stripeFault v.obj)
  need (off + bs.length ≤ v.entry.size) (.kill .faultProt .SV_TABLE_FULL 0 v.obj)
  wr v off bs

/-- Routed grains. -/
def SvCtx.routed (x : SvCtx) : Nat := (x.grains.filter (fun g => !g.dropped)).length

/-- The partition's own rank (R82; log 136). -/
def Dev.ownRank (d : Dev) (p : Nat) : Nat := (d.nodeRank p d.node).getD (Config.ownRank p d.node).toNat

/-- The key that a grain is sorted by: rank, expert, and the density key where it is asked and there is a token status table,
without which every DKEY is 0 (R77, R89, R183). -/
def SvCtx.sortKey (x : SvCtx) (dkey : Bool) (g : Grain) : Nat :=
  let key := if dkey && x.status.isSome then
      ((x.rows.find? (fun r => r.slot == g.slot && r.token == g.token)).map SvRow.key).getD 0 else 0
  (g.rank * 65536 + g.expert) * 16 + key

/-- The ordinals and keys of routed grains, in the order of the records. -/
def SvCtx.keyed (x : SvCtx) (dkey : Bool) : List (Nat × Nat) :=
  (x.grains.zipIdx.filter (fun e => !e.1.dropped)).map (fun e => (x.sortKey dkey e.1, e.2))

/-- Full sort stores, of 262,144 keys each, are written to Landing as sorted runs of their ordinals while more follow (R73,
R91; log 138). -/
def spillRuns (c : Cmd) (x : SvCtx) : Op (List (Nat × Nat)) := do
  let full := (x.routed - 1) / 262144
  if full ≤ x.runs.length then return x.runs
  else
    let keys := x.keyed c.dkey
    let bufs ← takeBuffers x.id x.part 4 (full - x.runs.length)
    bufs.zipIdx.forM (fun b => Op.mem (fun d =>
      let run := sortBy Prod.fst ((keys.drop (262144 * (x.runs.length + b.2))).take 262144)
      match d.lndStore b.1 0 (run.flatMap (fun e => leBytes 4 e.2)) with
      | .ok d => (d, .ok ())
      | .error e => (d, .error e)))
    return x.runs ++ bufs

/-- Process a complete token: stages 2 to 9 of Table 4.1 (R70). -/
def selectToken (c : Cmd) (x : SvCtx) (r : SvRow) : Op Unit := do
  let (picks, exits, nans) := x.select c r
  let grains : List Grain := picks.zipIdx.map (fun e =>
    { slot := r.slot, token := r.token, expert := e.1.1, choice := e.2, replica := 0, dropped := false, exited := exits
      gate := e.1.2, rank := 0 })
  if x.nans = 0 ∧ nans ≠ 0 then Op.act (fun d => d.postCmd x.id .SV_NAN_SCORE 0)
  Op.act (fun d => d.addF .SV_NAN_NAN nans x.part)
  let (x', grains, miss) ← if c.stage = 1 then do
      let own := (← get).ownRank x.part
      pure (x, grains.map (fun g => { g with rank := own }), 0)
    else do
      let (x, gs, miss) ← fillAll c x grains
      pure (x, if x.h 4 4 1 = 1 then renormalise gs else gs, miss)
  if x.miss = 0 ∧ miss ≠ 0 then Op.act (fun d => d.postCmd x.id .SV_MAP_MISS 0)
  Op.act (fun d => d.addF .SV_MAPMISS_MAPMISS miss x.part)
  let passes := grains.all (·.dropped)
  Op.act (fun d => d.addF .SV_PASS_PASS (b2n passes) x.part)
  sieveWrite c (c.outp 0) (x.recOff c.stage + 16 * x.grains.length) (grains.flatMap (fun g => g.bytes c.svLayer))
  let x'' := { x' with
    grains := x.grains ++ grains, tokens := x.tokens + 1, pass := x.pass + b2n passes, miss := x.miss + miss
    nans := x.nans + nans, exited := if exits then x.exited ++ [(r.slot, r.token)] else x.exited
    rows := mapIf (fun y => y.slot == r.slot && y.token == r.token) (fun y => { y with chosen := true }) x.rows }
  let runs ← spillRuns c x''
  Op.act (fun d => d.updSv x.ctx (fun _ => { x'' with runs := runs }))

/-- TOKEN_SELECT: the next token in the order of R85, once its row is complete. -/
def Dev.tokenSelect (d : Dev) (k : Nat) : Dev :=
  match d.sv? k with
  | none => d
  | some x =>
    match d.cmd? x.id with
    | none => d
    | some c =>
      if !c.running || !x.loaded then d
      else
        match ((x.order c.stage).drop x.tokens).head? with
        | none => d
        | some t =>
          match x.rows.find? (fun r => r.slot == t.1 && r.token == t.2 && !r.chosen) with
          | none => d
          | some r => if x.complete c.stage r then d.work x.id 0 (selectToken c x r) else d

/-! ## The tail (R89 to R91) -/

/-- The sort index: ordinals of routed grains by rank, expert, density key where asked, and ordinal (R89). -/
def SvCtx.index (x : SvCtx) (dkey : Bool) : List Nat :=
  (sortBy Prod.fst (x.keyed dkey)).map Prod.snd

/-- The directory with the positions and counts of the sort index (Table 4.8). -/
def dirsOf (ranks : List (Nat × Nat)) (sorted : List Nat) : List GrainDir :=
  ranks.map (fun e => ⟨e.1, e.2, (sorted.filter (· < e.1)).length, (sorted.filter (· == e.1)).length⟩)

/-- OUT1: IN1 with the exits and the density keys of the scored tokens (R77, R183). -/
def SvCtx.newStatus (x : SvCtx) (bs : List Byte) : List Byte :=
  (x.rows.filter (fun r => !r.gone)).foldl (fun (bs : List Byte) r =>
    match x.statusAt r.slot r.token with
    | none => bs
    | some i =>
      let old := (bs.getD i 0).toNat
      let ex := b2n (x.exited.contains (r.slot, r.token))
      bs.set i (BitVec.ofNat 8 (bits old 1 3 * 2 + max (old % 2) ex + r.key * 16))) bs

/-- SIEVE_TAIL: header, directory and sort index of OUT0, and OUT1 (R89 to R91). -/
def sieveTail (c : Cmd) (x : SvCtx) : Op Unit := do
  x.runs.forM (fun b => do
    let _ ← Op.mem (fun d => (d, d.lndLoad b 0 1048576)))
  let idx := x.index c.dkey
  let own := (x.grains.head?).elim ((← get).ownRank x.part) Grain.rank
  let ranks := if c.stage = 1 then [(own, (Config.groupExperts x.head).toNat)] else mapDirs x.map
  let dirs := dirsOf ranks (idx.map (fun i => (x.grains[i]?).elim 0 Grain.rank))
  let d ← get
  let t : GrainTable :=
    { routed := idx.length, layer := c.svLayer, stage := c.stage, seq := (d.f .SV_SEQ_SEQ x.part + 1) % 2 ^ 32
      dirs := dirs, grains := x.grains, index := idx }
  sieveWrite c (c.outp 0) 0 t.bytes
  match x.status with
  | some bs => sieveWrite c (c.outp 1) 0 (x.newStatus bs)
  | none => pure ()
  Op.act (fun d => (d.addF .SV_SORTED_SORTED idx.length).updSv x.ctx (fun x =>
    { x with tailDone := true, dirs := dirs.map (fun e => (e.rank, e.count)) }))

/-- SIEVE_TAIL of a context: after the last tile, with every token processed; a token whose row is not complete fails the
command (R78). -/
def Dev.sieveTail (d : Dev) (k : Nat) : Dev :=
  match d.sv? k with
  | none => d
  | some x =>
    match d.cmd? x.id with
    | none => d
    | some c =>
      if !c.running || !x.loaded || x.tailDone || !d.scoresDone c x then d
      else if x.gap c.stage then d.failReport x.id 0 .faultData .SV_SCORE_GAP
      else if (x.order c.stage).length ≠ x.tokens then d
      else d.work x.id 0 (Sys2Proof.Machine.sieveTail c x)

/-! ## The Step Report ring (R93, R389) -/

/-- SLOT_LOG2 is 12 to 20 and SIZE_LOG2 at most 10. -/
def rptSizeOk (v : BitVec 64) : Bool :=
  12 ≤ Fld.SV_RPT_CFG_SLOT_LOG2.of v && Fld.SV_RPT_CFG_SLOT_LOG2.of v ≤ 20 && Fld.SV_RPT_CFG_SIZE_LOG2.of v ≤ 10

/-- SV_RPT_CFG: a change of size while enabled is refused; enabling with a bad size leaves ENABLE at 0; enabling sets the
head and the tail to 0. -/
def Dev.rptCfg (d : Dev) (ap : Aperture) (p : Nat) (v : BitVec 32) : Dev :=
  let v := v.zeroExtend 64
  let on := Fld.SV_RPT_CFG_ENABLE.of v = 1
  if d.flag .SV_RPT_CFG_ENABLE p then
    if on ∧ (Fld.SV_RPT_CFG_SIZE_LOG2.of v ≠ d.f .SV_RPT_CFG_SIZE_LOG2 p ∨
        Fld.SV_RPT_CFG_SLOT_LOG2.of v ≠ d.f .SV_RPT_CFG_SLOT_LOG2 p) then d.refuseReg ap .SV_RPT_CFG p
    else d.plainWrite .SV_RPT_CFG v p
  else
    let d := (d.plainWrite .SV_RPT_CFG v p).setF .SV_RPT_CFG_ENABLE 0 p
    if !on then d
    else if !rptSizeOk v then d
    else ((d.setF .SV_RPT_CFG_ENABLE 1 p).setF .SV_RPT_HEAD_HEAD 0 p).setF .SV_RPT_TAIL_TAIL 0 p

/-- SV_RPT_BASE: refused while the ring is enabled. -/
def Dev.rptBase (d : Dev) (ap : Aperture) (p : Nat) (v : BitVec 64) : Dev :=
  if d.flag .SV_RPT_CFG_ENABLE p then d.refuseReg ap .SV_RPT_BASE p else d.plainWrite .SV_RPT_BASE v p

/-- Slots of the Step Report ring. -/
def Dev.rptSize (d : Dev) (p : Nat) : Nat := 2 ^ d.f .SV_RPT_CFG_SIZE_LOG2 p

/-- SV_RPT_HEAD takes the value modulo the ring size (R389). -/
def Dev.rptHead (d : Dev) (p v : Nat) : Dev := d.setF .SV_RPT_HEAD_HEAD (v % 65536 % d.rptSize p) p

/-- A report may be written: the ring is enabled, has a free slot, and the host can be reached (R43, R93, R389). -/
def Dev.rptReady (d : Dev) (p : Nat) : Bool :=
  d.canWriteHost && d.flag .SV_RPT_CFG_ENABLE p && !ringFull (d.rptSize p) (d.f .SV_RPT_HEAD_HEAD p) (d.f .SV_RPT_TAIL_TAIL p)

/-! ## Meanings -/

/-- SIEVE. -/
def execSieve (id : Nat) (s : State) : Host.Outcome State Fault Refusal := s.engine (fun d => d.sieve id)

/-- SCORE_TILE. -/
def execScoreTile (k : Fin 2) (s : State) : Host.Outcome State Fault Refusal := s.engine (fun d => d.scoreTile k)

/-- TOKEN_SELECT. -/
def execTokenSelect (k : Fin 2) (s : State) : Host.Outcome State Fault Refusal := s.engine (fun d => d.tokenSelect k)

/-- SIEVE_TAIL. -/
def execSieveTail (k : Fin 2) (s : State) : Host.Outcome State Fault Refusal := s.engine (fun d => d.sieveTail k)

/-- SV_RPT_CFG. -/
def execSvRptCfg (ap : Aperture) (p : Fin 16) (v : BitVec 32) (s : State) : Host.Outcome State Fault Refusal :=
  s.act (fun d => d.hostWrite ap .SV_RPT_CFG p 0 (fun d => d.rptCfg ap p v))

/-- SV_RPT_HEAD. -/
def execSvRptHead (ap : Aperture) (p : Fin 16) (v : BitVec 32) (s : State) : Host.Outcome State Fault Refusal :=
  s.act (fun d => d.hostWrite ap .SV_RPT_HEAD p 0 (fun d => d.rptHead p v.toNat))

end Sys2Proof.Machine
end

