-- ==== Sys2Proof/Machine/Exchange.lean ====
section
/-! DEFINITION. The Exchange Engine: what EXCHANGE and COMBINE check and send, receive contexts and staging, headers and
vectors, closed exchange IDs, the receive object and the combine (R100 to R121). -/

namespace Sys2Proof.Machine

/-! ## ARGS (Table 5.4) -/

/-- MEMBERS. -/
def Cmd.members (c : Cmd) : Nat := c.arg 0 0 16
/-- MY_RANK. -/
def Cmd.myRank (c : Cmd) : Nat := c.arg 2 0 16
/-- XID. -/
def Cmd.xid (c : Cmd) : Nat := c.arg 4 0 9
/-- LAYER of an EXCHANGE or COMBINE. -/
def Cmd.xeLayer (c : Cmd) : Nat := c.arg 6 0 8
/-- COMPRESS. -/
def Cmd.compress (c : Cmd) : Bool := c.arg 7 0 1 = 1
/-- RESID of a COMBINE. -/
def Cmd.resid (c : Cmd) : Nat := c.arg 8 0 24
/-- DIR: 0 for an EXCHANGE, 1 for a COMBINE (Table 5.2). -/
def Cmd.dir (c : Cmd) : Nat := if c.opcode = 4 then 1 else 0

/-! ## Messages (R100 to R103) -/

/-- The tag of an exchange message (Table 5.2). -/
def xeTag (dir xid index : Nat) : Nat := dir * 2 ^ 23 + xid * 2 ^ 14 + index

/-- Vectors of a full data message (R102). -/
def perMessage (v : Nat) : Nat := max 1 (2097152 / max 1 v)

/-- A segment or return header's fields (Table 5.3). -/
structure XHdr where
  src : Nat
  layer : Nat
  fmt : Nat
  scaled : Bool
  width : Nat
  grains : Nat
  nData : Nat
  vecBytes : Nat
  entries : List (Nat × Nat × Nat)
  deriving DecidableEq, Repr

/-- A header's bytes. -/
def XHdr.bytes (h : XHdr) : List Byte :=
  padTo 64 (leBytes 2 h.src ++ leBytes 2 h.entries.length ++ leBytes 1 h.layer ++ leBytes 1 (h.fmt + b2n h.scaled * 8) ++
    leBytes 2 h.width ++ leBytes 4 h.grains ++ leBytes 2 h.nData ++ [0, 0] ++ leBytes 4 h.vecBytes) ++
  h.entries.flatMap (fun e => leBytes 2 e.1 ++ leBytes 2 e.2.1 ++ leBytes 4 e.2.2)

/-- Read a header, if the message holds all of it. -/
def XHdr.ofBytes (bs : List Byte) : Option XHdr :=
  let n := leNat (bs.take 64)
  let k := field n 2 0 16
  if bs.length < 64 + 8 * k then none
  else some
    { src := field n 0 0 16, layer := field n 4 0 8, fmt := field n 5 0 3, scaled := field n 5 3 1 = 1
      width := field n 6 0 16, grains := field n 8 0 32, nData := field n 12 0 16, vecBytes := field n 16 0 32
      entries := (List.range k).map (fun i =>
        (leAt bs (64 + 8 * i) 2, leAt bs (66 + 8 * i) 2, leAt bs (68 + 8 * i) 4)) }

/-- Cut bytes into payloads of 64, the last padded with zero (R101, R103). -/
def payloads (bs : List Byte) : List (List Byte) :=
  (List.range (ceilDiv bs.length 64)).map (fun i => padTo 64 (slice bs (64 * i) 64))

/-- The billets of one message. -/
def messageBillets (c : Cmd) (node self index : Nat) (compressed : Bool) (bs : List Byte) : List Billet :=
  let ps := payloads bs
  ps.zipIdx.map (fun p => mkBillet
    { tc := 0, compressed := compressed, job := c.job, tag := xeTag c.dir c.xid index, seq := p.2, total := ps.length
      dest := node, src := self } p.1)

/-- The bytes of a data message: vectors back to back, or one record each (R103). -/
def dataBytes (compressed : Bool) (vs : List Vec) : List Byte :=
  vs.flatMap (fun v => if compressed then (v.tile.encode).2 else v.bytes)

/-! ## What a command sends (R106, R111, R112) -/

/-- XE_TABLE_INVALID. -/
def tableInvalid : Fail := .kill .faultData .XE_TABLE_INVALID 0 0

/-- An Expert Map object's entries. -/
def expertMap (v : Version) : Op (List (BitVec 256)) := do
  need (64 ≤ v.entry.size) tableInvalid
  let n ← rdNat v 0 64
  let k := mapExperts n
  need (64 + 32 * k ≤ v.entry.size) tableInvalid
  let bs ← rd v 64 (32 * k)
  return (List.range k).map (fun e => BitVec.ofNat 256 (leAt bs (32 * e) 32))

/-- The replica ranks and slots of an entry. -/
def replicas (e : BitVec 256) : List (Nat × Nat) :=
  if mapHit e then (List.range (nrep e)).map (fun r => (repRank e r, repSlot e r)) else []

/-- The (expert, slot) pairs that the map places on a rank, in ascending expert ID (R101). -/
def pairsOf (map : List (BitVec 256)) (rank : Nat) : List (Nat × Nat) :=
  map.zipIdx.flatMap (fun e => ((replicas e.1).filter (fun r => r.1 == rank)).map (fun r => (e.2, r.2)))

/-- A token-row object that an EXCHANGE or COMBINE reads (R105). -/
def xeRows (v : Version) : Op TokenRows := do
  need (8256 ≤ v.entry.size) tableInvalid
  let t ← tokenRows v
  need t.ok tableInvalid
  return t

/-- The entry of a grain's token in a token-row object. -/
def TokenRows.entryOf (t : TokenRows) (g : Grain) : Nat := (t.slots.getD g.slot (0, 0)).1 + g.token

/-- The object holds the token of a grain. -/
def TokenRows.holds (t : TokenRows) (g : Grain) : Bool :=
  g.token < (t.slots.getD g.slot (0, 0)).2 && 8256 + (t.entryOf g + 1) * t.rowBytes ≤ t.ver.entry.size

/-- The grains of a rank's share, in sort-index order (R102). -/
def GrainTable.shareOf (t : GrainTable) (rank : Nat) : List Grain :=
  match t.dirs.find? (fun e => e.rank == rank) with
  | none => []
  | some e => ((t.index.drop e.first).take e.count).filterMap (fun i => t.grains[i]?)

/-- A grain table that its parts agree on: index entries name records, and the directory's runs lie in the index. -/
def GrainTable.sound (t : GrainTable) : Bool :=
  t.index.all (· < t.grains.length) && t.dirs.all (fun e => decide (e.first + e.count ≤ t.index.length))

/-- A share to send: its vectors and header entries. -/
structure Share where
  vecs : List Vec
  entries : List (Nat × Nat × Nat)
  deriving DecidableEq, Repr

/-- V of a form. -/
def XForm.v (f : XForm) : Nat := vecBytes f.fmt f.width f.scaled

/-- The rows of an expert output object that belong to a source, entry by entry (R112). -/
def Recv.rowsOf (r : Recv) (s : Nat) : List Nat :=
  r.entries.zipIdx.flatMap (fun e =>
    let before := sumNat ((List.range s).map (r.count e.2))
    (List.range (r.count e.2 s)).map (fun i => e.1.first + before + i))

/-- The form of the vectors that a command sends and expects. -/
def xeForm (c : Cmd) : Op XForm := do
  let v ← inVer c (c.inp 1)
  if c.dir = 0 then
    let t ← xeRows v
    return ⟨t.fmt, t.scaled, t.width⟩
  else
    let r ← recvObject v tableInvalid
    return ⟨r.fmt, r.scaled, r.width⟩

/-- The share of a rank. -/
def xeShare (c : Cmd) (rank : Nat) : Op Share := do
  let v1 ← inVer c (c.inp 1)
  if c.dir = 0 then
    let t ← grainTable (← inVer c (c.inp 0)) tableInvalid
    let map ← expertMap (← inVer c (c.inp 2))
    let rows ← xeRows v1
    let gs := t.shareOf rank
    let vecs ← gs.mapM (fun g => rows.row (rows.entryOf g))
    return ⟨vecs, (pairsOf map rank).map (fun e => (e.1, e.2, (gs.filter (fun g => g.expert == e.1)).length))⟩
  else
    let r1 ← recvObject v1 tableInvalid
    let vecs ← (r1.rowsOf rank).mapM (r1.region v1).rowVec
    return ⟨vecs, []⟩

/-- The header of a share. -/
def xeHeader (c : Cmd) (f : XForm) (s : Share) : XHdr :=
  { src := c.myRank, layer := c.xeLayer, fmt := f.fmt, scaled := f.scaled, width := f.width, grains := s.vecs.length
    nData := ceilDiv s.vecs.length (perMessage f.v), vecBytes := f.v, entries := s.entries }

/-- The billets of a share's data messages (R102); more than 16,383 messages fail the part with QUOTA. -/
def xeData (c : Cmd) (f : XForm) (node self : Nat) (s : Share) : Op (List Billet) := do
  let q := perMessage f.v
  let n := ceilDiv s.vecs.length q
  need (n ≤ 16383) (.plain .quota)
  return (List.range n).flatMap (fun i =>
    messageBillets c node self (i + 1) c.compress (dataBytes c.compress ((s.vecs.drop (q * i)).take q)))

/-- Member ranks in rotated order (R106). -/
def rotated (c : Cmd) : List Nat := (List.range c.members).map (fun i => (c.myRank + i) % c.members)

/-! ## Contexts (R115 to R117) -/

/-- Change the Exchange Engine. -/
def Dev.updXe (d : Dev) (g : XeSt → XeSt) : Dev := { d with xe := g d.xe }

/-- The context of an exchange. -/
def Dev.xe? (d : Dev) (part dir xid : Nat) : Option XCtx :=
  d.xe.ctxs.find? (fun x => x.part == part && x.dir == dir && x.xid == xid)

/-- The context of a command. -/
def Dev.xeOf (d : Dev) (id : Nat) : Option XCtx := d.xe.ctxs.find? (fun x => x.cmd == some id)

/-- Change the context with a serial number. -/
def Dev.updCtx (d : Dev) (serial : Nat) (g : XCtx → XCtx) : Dev :=
  d.updXe (fun x => { x with ctxs := mapIf (fun c => c.serial == serial) g x.ctxs })

/-- A new context. -/
def Dev.openCtx (d : Dev) (part dir xid : Nat) (cmd : Option Nat) : Dev :=
  d.updXe (fun x => { x with
    serial := x.serial + 1
    ctxs := x.ctxs ++ [{ serial := x.serial, part := part, job := d.jobOf part, dir := dir, xid := xid, cmd := cmd
                         since := d.count, msgs := [], heads := [], rows := [], failed := [], sent := [], tokens := 0 }] })

/-- A context is free for a command: one to adopt, or one of the 64 (R115). -/
def Dev.xeRoom (d : Dev) (c : Cmd) : Bool :=
  match d.xe? c.part c.dir c.xid with
  | some x => x.cmd.isNone
  | none => d.xe.ctxs.length < 64

/-- Free a context: its Landing buffers return (R118). -/
def Dev.freeCtx (d : Dev) (x : XCtx) : Dev :=
  (d.lndReturnUser (.receive x.serial)).updXe (fun e => { e with ctxs := e.ctxs.filter (fun c => c.serial != x.serial) })

/-- The bit of XE_XID_CLOSED for a (DIR, XID). -/
def Dev.xidClosed (d : Dev) (p dir xid : Nat) : Bool := bit (d.reg .XE_XID_CLOSED p (dir * 8 + xid / 64)).toNat (xid % 64)

/-- Set or clear a closed bit (R118). -/
def Dev.setXid (d : Dev) (p dir xid : Nat) (on : Bool) : Dev :=
  let i := dir * 8 + xid / 64
  d.setReg .XE_XID_CLOSED (BitVec.ofNat 64 (setBit (d.reg .XE_XID_CLOSED p i).toNat (xid % 64) on)) p i

/-- Landing bytes reserved for a partition (R117). -/
def Dev.reserved (d : Dev) (p : Nat) : Nat :=
  sumNat ((d.lnd.held.filter (fun b => b.user == .reserve p)).map (fun b => lndSize b.pool))

/-- Give back what is left of a partition's reservation, which no EXCHANGE draws from any more (R117). -/
def Dev.dropReserve (d : Dev) (p : Nat) : Dev :=
  (d.lndReturnUser (.reserve p)).updXe (fun x => { x with draws := x.draws.filter (fun e => e.1 != p) })

/-- A launched EXCHANGE is the partition's next after a grant with a receive-size table, and draws from its reservation:
none before it does (R117). -/
def Dev.bindReserve (d : Dev) (p id : Nat) : Dev :=
  if d.reserved p = 0 ∨ d.xe.draws.any (fun e => e.1 == p) = true then d
  else d.updXe (fun x => { x with draws := x.draws ++ [(p, id)] })

/-- A dispatch context draws from its partition's reservation: that of the EXCHANGE that does, or while none does an early
one, which the next EXCHANGE may adopt (R115, R117; log 134). -/
def Dev.drawsReserve (d : Dev) (x : XCtx) : Bool :=
  x.dir == 0 &&
    match d.xe.draws.find? (fun e => e.1 == x.part) with
    | some e => x.cmd == some e.2
    | none => x.cmd.isNone

/-- A grant's receive-size table takes buffers from Landing: one of 2 MiB for each full message and one for the rest
(R102, R117). -/
def Dev.reserve (d : Dev) (p : Nat) (table : List Byte) : Dev :=
  let d := d.dropReserve p
  let sizes := (List.range (leAt table 0 4)).flatMap (fun i =>
    let n := leAt table (16 + 4 * i) 4
    List.replicate (n / 2097152) 2097152 ++ (if n % 2097152 = 0 then [] else [n % 2097152]))
  let (d, short) := sizes.foldl (fun (a : Dev × Bool) n =>
    match a.1.lndAlloc p (lndClass (roundUp n 64)).1 (.reserve p) with
    | (d, .ok _) => (d, a.2)
    | (d, .error _) => (d, true)) (d, false)
  if short then d.post .XE_RESV_SHORT 0 0 { job := d.jobOf p, part := some p } else d

/-- A buffer for a message: from the partition's reservation for a dispatch, or from its pool (R116, R117). -/
def Dev.stageBuffer (d : Dev) (x : XCtx) (bytes : Nat) : Dev × Except Status (Nat × Nat) :=
  let k := (lndClass bytes).1
  let mine := fun (b : LndBuf) => b.user == .reserve x.part && b.pool == k
  match (if d.drawsReserve x then d.lnd.held.find? mine else none) with
  | some b =>
    let take := fun (y : LndBuf) => y.pool == b.pool && y.idx == b.idx
    ({ d with lnd := { d.lnd with held := mapIf take (fun y => { y with user := .receive x.serial }) d.lnd.held } },
      .ok (b.pool, b.idx))
  | none =>
    match d.lndAlloc x.part k (.receive x.serial) with
    | (d, .ok i) => (d, .ok (k, i))
    | (d, .error st) => (d, .error st)

/-- Return a message's buffer. -/
def Dev.unstage (d : Dev) (m : XMsg) : Dev :=
  match m.buf with
  | none => d
  | some (k, i) =>
    match d.lnd.held.find? (fun b => b.pool == k && b.idx == i) with
    | some b => d.lndReturn b
    | none => d

/-- A receipt from a rank fails: at once for a command, or when one adopts the context (R116). -/
def Dev.failReceipt (d : Dev) (x : XCtx) (src : Nat) (st : Status) : Dev :=
  match x.cmd with
  | some id => d.failPart id src st
  | none => d.updCtx x.serial (fun c => { c with failed := c.failed ++ [(src, st)] })

/-! ## Launch -/

/-- The directory names only ranks below MEMBERS (R106). -/
def ranksOk (c : Cmd) (t : GrainTable) : Op Unit :=
  need (t.dirs.all (fun e => e.rank < c.members)) (.kill .faultData .XE_RANK_RANGE 0 0)

/-- The launch checks of an EXCHANGE (R106). -/
def exchangeChecks (c : Cmd) : Op Unit := do
  let t ← grainTable (← inVer c (c.inp 0)) tableInvalid
  need (t.stage == 0 || t.stage == 2) tableInvalid
  need (t.layer == c.xeLayer && t.sound) tableInvalid
  ranksOk c t
  let map ← expertMap (← inVer c (c.inp 2))
  need (map.all (fun e => let rs := (replicas e).map Prod.fst; rs.dedup.length == rs.length)) (.kill .faultData .XE_MAP_DUP 0 0)
  let rows ← xeRows (← inVer c (c.inp 1))
  need ((t.index.filterMap (fun i => t.grains[i]?)).all rows.holds) tableInvalid

/-- IN1 and IN2 of a COMBINE agree (R111). -/
def recvAgree (a b : Recv) : Bool :=
  a.sources == b.sources && a.counts == b.counts &&
  a.entries.map (fun e => (e.expert, e.slot, e.first, e.count)) == b.entries.map (fun e => (e.expert, e.slot, e.first, e.count))

/-- The launch checks of a COMBINE: its vectors carry SCALED as R102 and R128 allow (R102, R105, R111, R114). -/
def combineChecks (c : Cmd) : Op Unit := do
  let t ← grainTable (← inVer c (c.inp 0)) tableInvalid
  need (t.layer == c.xeLayer && t.sound) tableInvalid
  ranksOk c t
  let v1 ← inVer c (c.inp 1)
  let a ← recvObject v1 tableInvalid
  let b ← recvObject (← inVer c (c.inp 2)) tableInvalid
  need (recvAgree a b && a.sources == c.members) tableInvalid
  need (a.entries.all (fun e => decide (e.first + e.count ≤ a.rows))) tableInvalid
  let fits ← (a.region v1).fits
  need (scaledOkVec a.fmt a.scaled && fits) tableInvalid
  let rows ← xeRows (← inVer c c.resid)
  need (a.width == rows.width && rows.fits && t.grains.all rows.holds) tableInvalid
  need (!(t.grains.any (·.exited)) || c.outp 1 != 0) (.kill .faultData .XE_NO_EXIT_OBJ 0 0)

/-- An EXCHANGE or COMBINE launches: its checks, then a context of its own or the early context of its exchange, with the
failures recorded in it (R106, R111, R115, R116). -/
def exchangeStart (id : Nat) : Op Unit := do
  let d ← get
  match d.cmd? id with
  | none => pure ()
  | some c =>
    if c.dir = 0 then exchangeChecks c else combineChecks c
    Op.act (fun d => d.updCmd id (fun c => { c with parts := c.members }))
    if c.dir = 0 then Op.act (fun d => d.bindReserve c.part id)
    match d.xe? c.part c.dir c.xid with
    | none => Op.act (fun d => d.openCtx c.part c.dir c.xid (some id))
    | some x =>
      let strangers := x.msgs.filter (fun m => c.members ≤ m.src)
      Op.act (fun d => strangers.foldl Dev.unstage d)
      Op.act (fun d => d.updCtx x.serial (fun x =>
        { x with cmd := some id, failed := [], msgs := x.msgs.filter (fun m => m.src < c.members) }))
      Op.act (fun d => x.failed.foldl (fun d f => if f.1 < c.members then d.failPart id f.1 f.2 else d) d)

/-! ## Arrival (R100, R115, R116, R118) -/

/-- A late billet. The report's INDEX, which the spec does not give, holds DIR * 512 + XID (DESIGN CHOICE, log 135)
(R118). -/
def Dev.xeLate (d : Dev) (p dir xid : Nat) : Dev :=
  let d := d.addF .XE_LATE_LATE 1
  if (p, dir, xid) ∈ d.xe.lates then d
  else
    let d := d.updXe (fun x => { x with lates := x.lates ++ [(p, dir, xid)] })
    d.post .XE_LATE 0 (dir * 512 + xid) { job := d.jobOf p, part := some p }

/-- The receipt of a message fails for want of its buffer, or because a store into it fails: what it staged is given up, and
the rest of its billets will be discarded (R116, R220, R390). -/
def Dev.dropMessage (d : Dev) (x : XCtx) (m : XMsg) (st : Status) : Dev :=
  let mine := fun (y : XMsg) => y.src == m.src && y.index == m.index
  let d := (d.unstage m).updCtx x.serial (fun x => { x with
    msgs := mapIf mine (fun y => { y with buf := none, got := [] }) x.msgs })
  d.failReceipt x m.src st

/-- Store a billet's payload at its place in a message's buffer (R100, R116, R390). -/
def Dev.stagePiece (d : Dev) (x : XCtx) (m : XMsg) (buf : Nat × Nat) (seq : Nat) (bs : List Byte) : Dev :=
  let mine := fun (y : XMsg) => y.src == m.src && y.index == m.index
  match d.lndStore buf (64 * seq) bs with
  | .ok d => d.updCtx x.serial (fun x => { x with msgs := mapIf mine (fun y => { y with got := y.got ++ [seq] }) x.msgs })
  | .error e => (d.memReport x.cmd e).dropMessage x m e.status

/-- Stage a billet of a context (R116): a message's first billet takes its buffer. A source that the rank table does not
name, or beyond the command's members, is discarded. -/
def Dev.stage_ (d : Dev) (x : XCtx) (b : Billet) : Dev :=
  match d.nodeRank x.part (bSrc b) with
  | none => d
  | some src =>
    let members := (x.cmd.bind d.cmd?).map Cmd.members
    if members.any (fun n => decide (n ≤ src)) then d
    else
      let index := bits (bTag b) 0 14
      let mine := fun (m : XMsg) => m.src == src && m.index == index
      match x.msgs.find? mine with
      | some m =>
        match m.buf with
        | none => d
        | some buf => if m.got.contains (bSeq b) then d else d.stagePiece x m buf (bSeq b) (bPayload b)
      | none =>
        let m : XMsg := { src := src, index := index, total := bTotal b, compressed := bCompressed b, got := []
                          buf := none, done := 0 }
        let (d, r) := d.stageBuffer x (64 * bTotal b)
        let m := { m with buf := r.toOption }
        let d := d.updCtx x.serial (fun x => { x with msgs := x.msgs ++ [m] })
        match r with
        | .ok buf => d.stagePiece x m buf (bSeq b) (bPayload b)
        | .error st => d.failReceipt x src st

/-- A TC0 billet can be dealt with: it is late, its context is open, or one is free (R115). -/
def Dev.xeCanTake (d : Dev) (b : Billet) : Bool :=
  match d.partOf (bJob b) with
  | none => true
  | some p =>
    let dir := bits (bTag b) 23 1
    let xid := bits (bTag b) 14 9
    d.xidClosed p dir xid || (d.xe? p dir xid).isSome || decide (d.xe.ctxs.length < 64)

/-- Deal with a TC0 billet. One whose job has left its partition since delivery is counted late (R118). -/
def Dev.xeTake (d : Dev) (b : Billet) : Dev :=
  match d.partOf (bJob b) with
  | none => d.addF .XE_LATE_LATE 1
  | some p =>
    let dir := bits (bTag b) 23 1
    let xid := bits (bTag b) 14 9
    if d.xidClosed p dir xid then d.xeLate p dir xid
    else
      let d := if (d.xe? p dir xid).isSome then d else d.openCtx p dir xid none
      match d.xe? p dir xid with
      | some x => d.stage_ x b
      | none => d

/-- XE_BILLET: a held billet that can go on goes first; otherwise the next billet delivered is dealt with, or held with its
credit (R115). -/
def Dev.xeBillet (d : Dev) : Dev :=
  match d.xe.held.find? (fun a => d.xeCanTake a.b) with
  | some a =>
    let d := (d.updXe (fun x => { x with held := x.held.erase a })).consume a
    (d.setF .XE_HELD_NOW d.xe.held.length).xeTake a.b
  | none =>
    match d.fab.inbox.find? (fun a => a.port == 36) with
    | none => d
    | some a =>
      let d := (d.updFab (fun f => { f with inbox := f.inbox.erase a })).addF .XE_BILLETS_RX_RX 1
      if d.xeCanTake a.b then (d.consume a).xeTake a.b
      else
        let d := d.updXe (fun x => { x with held := x.held ++ [a] })
        (d.setF .XE_HELD_NOW d.xe.held.length).addF .XE_HELD_EVENTS 1

/-! ## Headers and vectors (R101, R107 to R109, Table 5.5) -/

/-- How many billets of a message are held from its beginning on without a gap. -/
def XMsg.run (m : XMsg) : Nat := ((List.range m.total).takeWhile (m.got.contains ·)).length

/-- The message's bytes so far, read from its buffer. -/
def XMsg.read (m : XMsg) : Op (List Byte) :=
  match m.buf with
  | none => return []
  | some buf => Op.mem (fun d => (d, d.lndLoad buf 0 (64 * m.run)))

/-- Every billet has arrived (R100). -/
def XMsg.complete (m : XMsg) : Bool := m.got.length == m.total

/-- What a header must say: for a dispatch its layer, its form and its entries (Table 5.5); for a return its GRAINS
(R112). -/
def headerOk (c : Cmd) (src : Nat) (h : XHdr) : Op Bool := do
  if c.dir = 0 then
    let f ← xeForm c
    let map ← expertMap (← inVer c (c.inp 2))
    return h.layer == c.xeLayer && (⟨h.fmt, h.scaled, h.width⟩ : XForm) == f && h.vecBytes == f.v &&
      h.entries.map (fun e => (e.1, e.2.1)) == pairsOf map c.myRank
  else
    let t ← grainTable (← inVer c (c.inp 0)) tableInvalid
    return h.grains == ((t.dirs.find? (fun e => e.rank == src)).map GrainDir.count).getD 0

/-- Once every header is held, the partition's local counts are recorded (R109). -/
def Dev.recordLocal (d : Dev) (c : Cmd) (x : XCtx) (pairs : List (Nat × Nat)) : Dev :=
  if c.dir ≠ 0 ∨ x.heads.length < c.members then d
  else
    let sums := pairs.zipIdx.map (fun e => (e.1.2, sumNat (x.heads.map (fun h => h.counts.getD e.2 0)), false))
    let rec' : LocalRec := ⟨c.part, sortBy Prod.fst sums, 0⟩
    let d := d.updXe (fun e => { e with locals := e.locals.filter (fun l => l.part != c.part) ++ [rec'] })
    (d.setF .XE_LOCAL_LAYER c.xeLayer c.part).setF .XE_LOCAL_VALID 1 c.part

/-- The receive object of an EXCHANGE, without its rows (R107). -/
def recvOf (c : Cmd) (f : XForm) (pairs : List (Nat × Nat)) (x : XCtx) : Recv :=
  let count := fun (e s : Nat) => ((x.heads.find? (fun h => h.src == s)).map (fun h => h.counts.getD e 0)).getD 0
  let totals := (List.range pairs.length).map (fun e => sumNat ((List.range c.members).map (count e)))
  let first := fun (e : Nat) => sumNat ((totals.take e).map (fun n => roundUp n 32))
  { sources := c.members, rows := sumNat (totals.map (fun n => roundUp n 32)), layer := c.xeLayer, fmt := f.fmt
    scaled := f.scaled, width := f.width
    entries := pairs.zipIdx.map (fun p => ⟨p.1.1, p.1.2, first p.2, totals.getD p.2 0, false⟩)
    counts := (List.range pairs.length).flatMap (fun e => (List.range c.members).map (count e)) }

/-- Where the first record of a receive object's row region lies: after its directory. -/
def Recv.first (r : Recv) : Nat := roundUp (r.dir + 8 * (ceilDiv r.rows 32 * ceilDiv r.width 256)) 64

/-- Columns of tile column j of a receive object. -/
def Recv.colsOf (r : Recv) (j : Nat) : Nat := min 256 (r.width - 256 * j)

/-- The slot of a record in tile column j: room for the dense form (R176; log 61). -/
def Recv.slot (r : Recv) (j : Nat) : Nat :=
  roundUp (16 + elementBytes 32 (r.colsOf j) 0 (fmtBits r.fmt) true + scaleCount 32 (r.colsOf j) r.scaled false) 64

/-- Where the record of tile (i, j) lies. -/
def Recv.tileAt (r : Recv) (i j : Nat) : Nat :=
  r.first + i * sumNat ((List.range (ceilDiv r.width 256)).map r.slot) + sumNat ((List.range j).map r.slot)

/-- Write bytes of a receive object: beyond the placed size the command is killed (R176), and it may not lie in a stripe
(R210). -/
def Recv.putBytes (_r : Recv) (v : Version) (off : Nat) (bs : List Byte) : Op Unit := do
  need v.unstriped (stripeFault v.obj)
  need (off + bs.length ≤ v.entry.size) (.kill .faultProt .SK_OBJ_FULL 0 v.obj)
  wr v off bs

/-- Write one vector into its row: in each tile column its elements and scales take their place in a dense record. -/
def Recv.putRow (r : Recv) (v : Version) (row : Nat) (vec : List Byte) : Op Unit := do
  let b := fmtBits r.fmt
  let k := row % 32
  (List.range (ceilDiv r.width 256)).forM (fun j => do
    let w := r.colsOf j
    let at_ := r.tileAt (row / 32) j + 16
    r.putBytes v (at_ + k * (w * b / 8)) (slice vec (256 * j * b / 8) (w * b / 8))
    if r.scaled then
      r.putBytes v (at_ + 32 * w * b / 8 + k * (w / 32)) (slice vec (vecElems r.fmt r.width + 8 * j) (w / 32)))

/-- OUT0 of an EXCHANGE and what it is to hold. -/
def receivePlan (c : Cmd) (x : XCtx) : Op (Version × Recv) := do
  let f ← xeForm c
  let map ← expertMap (← inVer c (c.inp 2))
  return (← outVer c (c.outp 0), recvOf c f (pairsOf map c.myRank) x)

/-- Write received vectors into OUT0, each for its source's part. A vector's row is fixed by the headers of every member, so
until all are held it waits (R107, R108; log 61). -/
def Dev.writeVectors (d : Dev) (c : Cmd) (serial : Nat) (ys : List (Nat × Nat × List Byte)) : Dev :=
  match d.xe.ctxs.find? (fun x => x.serial == serial) with
  | none => d
  | some x =>
    if c.dir ≠ 0 ∨ x.heads.length < c.members then d
    else ys.foldl (fun (d : Dev) y => d.work c.id y.1 (do
      let (v, r) ← receivePlan c x
      match (r.rowsOf y.1)[y.2.1]? with
      | some row => r.putRow v row y.2.2
      | none => pure ())) d

/-- A source's header message is checked and accepted into its context (R109). -/
def takeHeader (serial src : Nat) (c : Cmd) (m : XMsg) : Op Unit := do
  let bad : Fail := .report .faultData .XE_HDR_MISMATCH 0 src
  match XHdr.ofBytes (← m.read) with
  | none => throw bad
  | some h =>
    let ok ← headerOk c src h
    need ok bad
    Op.act (fun d => d.unstage m)
    Op.act (fun d => d.updCtx serial (fun x =>
      { x with heads := x.heads ++ [⟨src, h.grains, h.nData, h.entries.map (fun e => e.2.2), ⟨h.fmt, h.scaled, h.width⟩⟩]
               msgs := mapIf (fun y => y.src == src && y.index == 0) (fun y => { y with buf := none, got := [] }) x.msgs }))
    Op.act (fun d => match d.xe.ctxs.find? (fun x => x.serial == serial) with
      | some x => (d.recordLocal c x (h.entries.map (fun e => (e.1, e.2.1)))).writeVectors c serial x.rows
      | none => d)

/-- SEGMENT_HEADER: a source's complete header is checked and accepted (R109, Table 5.5). -/
def Dev.segmentHeader (d : Dev) (serial src : Nat) : Dev :=
  match d.xe.ctxs.find? (fun x => x.serial == serial) with
  | none => d
  | some x =>
    match x.cmd.bind d.cmd?, x.msgs.find? (fun m => m.src == src && m.index == 0) with
    | some c, some m =>
      if !c.running || !m.complete || m.buf.isNone || x.heads.any (fun h => h.src == src) then d
      else d.work c.id src (takeHeader serial src c m)
    | _, _ => d

/-- The next vector of a message: its dense bytes and what is left; none while bytes are missing (R103). -/
def nextVector (f : XForm) (compressed : Bool) (bs : List Byte) : Except Unit (Option (List Byte × Nat)) :=
  if !compressed then .ok (if bs.length < f.v then none else some (bs.take f.v, f.v))
  else if bs.length < 16 then .ok none
  else
    let h := TileHead.ofBytes bs
    if h.rows ≠ 1 ∨ h.cols ≠ f.width ∨ h.fmt ≠ f.fmt ∨ h.scaled ≠ f.scaled ∨ f.width < h.nnz then .error ()
    else if bs.length < h.length then .ok none
    else if !h.crcOk bs then .error ()
    else
      let t := h.expand (bs.take h.length)
      .ok (some ((⟨f.fmt, f.scaled, t.codes, t.scales⟩ : Vec).bytes, h.length))

/-- Where vector k of a message begins. -/
def vectorAt (f : XForm) (compressed : Bool) : Nat → List Byte → Except Unit (Option (List Byte))
  | 0, bs => .ok (some bs)
  | k + 1, bs =>
    match nextVector f compressed bs with
    | .ok (some (_, n)) => vectorAt f compressed k (bs.drop n)
    | .ok none => .ok none
    | .error () => .error ()

/-- Vectors of data message `idx` of a header (R102). -/
def XHead.vectors (h : XHead) (idx : Nat) : Nat :=
  let q := perMessage h.form.v
  min q (h.grains - q * (idx - 1))

/-- The next vector of a source's data message is written, if its bytes have come; the last one returns the message's
buffer. -/
def takeVector (serial src idx : Nat) (c : Cmd) (m : XMsg) (h : XHead) : Op Unit := do
  let f := h.form
  let bad : Fail := .report .faultData .XE_RECORD_CRC 0 src
  let bs ← m.read
  let rest ← match vectorAt f m.compressed m.done bs with
    | .error () => throw bad
    | .ok r => pure r
  let got ← match rest with
    | none => pure none
    | some bs => match nextVector f m.compressed bs with
      | .error () => throw bad
      | .ok r => pure (r.map (fun v => (v.1, bs.length - v.2)))
  match got with
  | none => need (!m.complete) bad
  | some (bytes, left) =>
    need (m.done < h.vectors idx) bad
    let last := m.done + 1 = h.vectors idx
    need (!last || (m.complete && left < 64)) bad
    let mine := fun (y : XMsg) => y.src == src && y.index == idx
    let vec := (src, perMessage f.v * (idx - 1) + m.done, bytes)
    Op.act (fun d => d.writeVectors c serial [vec])
    if last then Op.act (fun d => d.unstage m)
    Op.act (fun d => d.updCtx serial (fun x =>
      { x with rows := x.rows ++ [vec]
               msgs := mapIf mine (fun y => if last then { y with done := y.done + 1, buf := none, got := [] }
                 else { y with done := y.done + 1 }) x.msgs }))

/-- VECTOR_WRITE: the next vector of a data message is written, once its bytes and its source's header are held; the last
one returns the message's buffer (R108, R116, Table 5.5). -/
def Dev.vectorWrite (d : Dev) (serial src idx : Nat) : Dev :=
  match d.xe.ctxs.find? (fun x => x.serial == serial) with
  | none => d
  | some x =>
    match x.cmd.bind d.cmd?, x.msgs.find? (fun m => m.src == src && m.index == idx), x.heads.find? (fun h => h.src == src) with
    | some c, some m, some h =>
      if !c.running || m.buf.isNone || idx = 0 || h.nData < idx then d
      else d.work c.id src (takeVector serial src idx c m h)
    | _, _, _ => d

/-! ## Sending and finishing -/

/-- Hand a rank's header to the Switch Core. -/
def Dev.sendHeader (d : Dev) (c : Cmd) (rank : Nat) : Dev :=
  d.work c.id rank (do
    let node ← rankNode c.part rank
    let f ← xeForm c
    let s ← xeShare c rank
    need (ceilDiv s.vecs.length (perMessage f.v) ≤ 16383) (.plain .quota)
    let self := (← get).node
    Op.act (fun d => d.inject 36 (some (c.id, rank)) (messageBillets c node self 0 false (xeHeader c f s).bytes)))

/-- Hand a rank's data messages to the Switch Core. -/
def Dev.sendShare (d : Dev) (c : Cmd) (rank : Nat) : Dev :=
  d.work c.id rank (do
    let node ← rankNode c.part rank
    let f ← xeForm c
    let s ← xeShare c rank
    let self := (← get).node
    let bs ← xeData c f node self s
    Op.act (fun d => d.inject 36 (some (c.id, rank)) bs))

/-- The receipt from a rank is complete: its header and every data message that it announces (R108). -/
def XCtx.received (x : XCtx) (rank : Nat) : Bool :=
  match x.heads.find? (fun h => h.src == rank) with
  | none => false
  | some h => (List.range h.nData).all (fun i => x.msgs.any (fun m =>
      m.src == rank && m.index == i + 1 && m.buf.isNone && m.done == h.vectors (i + 1)))

/-- A part is complete (R108). -/
def Dev.partDone (d : Dev) (c : Cmd) (x : XCtx) (rank : Nat) : Bool :=
  x.sent.contains rank && d.accepted c.id rank && x.received rank

/-- The lowest rank not yet complete (R120). -/
def Dev.waitsFor (d : Dev) (c : Cmd) (x : XCtx) : Nat :=
  ((List.range c.members).find? (fun r => !d.partDone c x r)).getD 0

/-- Finish OUT0 of an EXCHANGE: the header, the tables and the directory, then each tile's record, in its own slot, in the
form of R172. A fault in a record fails the parts of the sources whose rows it holds (R107, R108, R216). -/
def Dev.writeReceive (d : Dev) (c : Cmd) (x : XCtx) : Dev :=
  match (receivePlan c x).run.run d with
  | (.error f, d) => d.failWith c.id c.myRank f
  | (.ok (v, r), d) =>
    let rows := x.rows.filterMap (fun y => ((r.rowsOf y.1)[y.2.1]?).map (fun k => (k, y.1, y.2.2)))
    let vec := fun (row : Nat) =>
      (rows.find? (fun y => y.1 == row)).map (fun y => Vec.ofBytes r.fmt r.width r.scaled y.2.2)
    let recs := rowRecords r.rows r.width r.fmt r.scaled vec
    let cols := ceilDiv r.width 256
    let at_ := fun (i : Nat) => r.tileAt (i / cols) (i % cols)
    let dir := recs.zipIdx.flatMap (fun e => leBytes 4 (at_ e.2 / 64) ++ leBytes 4 e.1.2.length)
    let d := d.work c.id c.myRank (r.putBytes v 0 (r.headBytes ++ padTo (r.first - r.dir) dir))
    let d := recs.zipIdx.foldl (fun (d : Dev) e =>
      let srcs := ((rows.filter (fun y => y.1 / 32 == e.2 / cols)).map (fun y => y.2.1)).dedup
      match d.verWrite v (at_ e.2) (padTo (roundUp e.1.2.length 64) e.1.2) with
      | (d, .ok _) => d
      | (d, .error er) => match srcs with
        | [] => d.memFail c.id c.myRank er
        | s :: ss => ss.foldl (fun d s => d.failPart c.id s er.status) (d.memFail c.id s er)) d
    let d := d.countStored (recs.map Prod.fst)
    match d.cmd? c.id with
    | some k => if k.causes.isEmpty then d.finish c.id else d
    | none => d

/-- EXCHANGE and COMBINE hand their billets over: every header first, then one member's data at a time, in rotated order
(R106). -/
def Dev.sendNext (d : Dev) (c : Cmd) (x : XCtx) : Dev :=
  let d := if x.sent.isEmpty then (rotated c).foldl (fun d r => d.sendHeader c r) d else d
  match (rotated c).find? (fun r => !x.sent.contains r) with
  | none => d
  | some r =>
    let d := (d.sendShare c r).updCtx x.serial (fun x => { x with sent := x.sent ++ [r] })
    d.pump

/-- EXCHANGE: it sends, and once every part is complete it writes the receive object and is ready to commit (R106 to
R108). -/
def Dev.exchange (d : Dev) (id : Nat) : Dev :=
  match d.cmd? id, d.xeOf id with
  | some c, some x =>
    if !c.running || c.ready || c.dir ≠ 0 then d
    else if x.sent.length < c.members then d.sendNext c x
    else if (List.range c.members).all (d.partDone c x) then d.writeReceive c x else d
  | _, _ => d

/-! ## The combine (R111 to R114) -/

/-- The combined row of a token's records: the residual, then each kept choice's fma (R113). -/
def combineRow (fl : Bool) (resid : Vec) (terms : List (F32 × Vec)) (width : Nat) : Vec × Ev :=
  let acc := (List.range width).map (fun j => terms.foldl (fun (a : F32 × Nat) t =>
    let r := ffma' fl t.1 (t.2.value fl j) a.1
    (r.1, a.2 + r.2)) (resid.value fl j, 0))
  let (v, ev) := narrowRow resid.fmt resid.scaled 0 fl (acc.map Prod.fst) (fun _ => none)
  (v, ev.add { flushed := sumNat (acc.map Prod.snd) })

/-- The vector returned for a record: by its position in the sort index, in the form that its header gives (R112). -/
def GrainTable.returned (t : GrainTable) (x : XCtx) (ordinal : Nat) : Option Vec :=
  let pos := t.index.idxOf ordinal
  (t.dirs.find? (fun e => decide (e.first ≤ pos ∧ pos < e.first + e.count))).bind (fun e =>
    (x.heads.find? (fun h => h.src == e.rank)).bind (fun h =>
      (x.rows.find? (fun y => y.1 == e.rank && y.2.1 == pos - e.first)).map (fun y =>
        Vec.ofBytes h.form.fmt h.form.width h.form.scaled y.2.2)))

/-- Compute and write OUT0 and OUT1 of a COMBINE (R113, R114). -/
def combineWrite (c : Cmd) (x : XCtx) : Op Unit := do
  let t ← grainTable (← inVer c (c.inp 0)) tableInvalid
  let rows ← xeRows (← inVer c c.resid)
  let fl := (← get).flush c.part
  let recs := t.grains.zipIdx
  let out ← (List.range rows.entries).mapM (fun e => do
    let r ← rows.row e
    let mine := recs.filter (fun g => rows.entryOf g.1 == e && rows.holds g.1)
    if mine.isEmpty then return (r.bytes, ({} : Ev), false, false)
    else
      let kept := sortBy (fun g => g.1.choice) (mine.filter (fun g => !g.1.dropped))
      let terms := kept.filterMap (fun g => (t.returned x g.2).map (fun v => (g.1.gate, v)))
      let (v, ev) := combineRow fl r terms rows.width
      return (v.bytes, ev, true, mine.any (fun g => g.1.exited)))
  let v0 ← outVer c (c.outp 0)
  writeObject v0 (tokenRowBytes rows.slots rows.fmt rows.width rows.scaled (out.map (fun o => o.1))) .SK_OBJ_FULL
  if c.outp 1 ≠ 0 then
    let v1 ← outVer c (c.outp 1)
    writeObject v1 (tokenRowBytes rows.slots rows.fmt rows.width rows.scaled
      (out.map (fun o => if o.2.2.2 then o.1 else []))) .SK_OBJ_FULL
  Op.act (fun d => d.fmtEvents c.part ((out.map (fun o => o.2.1)).foldl Ev.add {}))
  Op.act (fun d => (d.updCtx x.serial (fun x => { x with tokens := (out.filter (fun o => o.2.2.1)).length })).finish c.id)

/-- COMBINE: it returns expert outputs, and once every part is complete it combines and is ready to commit. -/
def Dev.combine (d : Dev) (id : Nat) : Dev :=
  match d.cmd? id, d.xeOf id with
  | some c, some x =>
    if !c.running || c.ready || c.dir ≠ 1 then d
    else if x.sent.length < c.members then d.sendNext c x
    else if (List.range c.members).all (d.partDone c x) then d.work id c.myRank (combineWrite c x) else d
  | _, _ => d

/-! ## Commit, kill and release (R117, R118, R121) -/

/-- The grain table that a command read, marked as delivered or as read by a killed EXCHANGE (R121). -/
def Dev.markGrains (d : Dev) (c : Cmd) (delivered : Bool) : Dev :=
  match c.input (c.inp 0) with
  | none => d
  | some v =>
    let mark := fun (t : GrainTab) => if delivered then { t with delivered := true } else { t with killed := true }
    d.updXe (fun x => { x with tabs := mapIf (fun t => t.ver.sameBuf v) mark x.tabs })

/-- An EXCHANGE that draws from its partition's reservation ends: what is left returns (R117). -/
def Dev.leaveReserve (d : Dev) (c : Cmd) : Dev :=
  if (c.part, c.id) ∈ d.xe.draws then d.dropReserve c.part else d

/-- An EXCHANGE or COMBINE commits: its context is freed. -/
def Dev.xeCommit (d : Dev) (c : Cmd) : Dev :=
  match d.xeOf c.id with
  | none => d
  | some x =>
    let d := if c.dir = 0 then (d.markGrains c true).leaveReserve c else d.addF .XE_COMBINED_TOKENS x.tokens c.part
    d.freeCtx x

/-- An EXCHANGE or COMBINE is killed: its XID closes, its unsent billets are dropped and its context is freed, an early one of
its XID that it had not yet adopted as well (R118). -/
def Dev.xeKill (d : Dev) (c : Cmd) : Dev :=
  let d := d.setXid c.part c.dir c.xid true
  let d := d.updFab (fun f => { f with inject := f.inject.filter (fun i => !(i.owner.any (fun o => o.1 == c.id))) })
  let d := if c.dir = 0 then
      let d := if c.launched then d.markGrains c false else d
      d.leaveReserve c
    else d
  let mine := fun (x : XCtx) =>
    x.cmd == some c.id || (x.cmd.isNone && x.part == c.part && x.dir == c.dir && x.xid == c.xid)
  (d.xe.ctxs.filter mine).foldl Dev.freeCtx d

/-- A partition is released: its early contexts are freed, their billets and those held are counted late, its closed bits
clear and its local counts go (R118, Table 5.6). -/
def Dev.xeRelease (d : Dev) (p : Nat) : Dev :=
  let early := d.xe.ctxs.filter (fun x => x.part == p)
  let job := d.jobOf p
  let late := sumNat (early.map (fun x => sumNat (x.msgs.map (fun m => m.got.length)))) +
    (d.xe.held.filter (fun a => bJob a.b == job)).length
  let d := (early.foldl Dev.freeCtx d).addF .XE_LATE_LATE late
  let d := (d.xe.held.filter (fun a => bJob a.b == job)).foldl Dev.consume d
  let d := d.updXe (fun x => { x with
    held := x.held.filter (fun a => bJob a.b != job), lates := x.lates.filter (fun l => l.1 != p)
    locals := x.locals.filter (fun l => l.part != p) })
  let d := d.setF .XE_HELD_NOW d.xe.held.length
  let d := (List.range 16).foldl (fun d i => d.setReg .XE_XID_CLOSED 0 p i) d
  (d.dropReserve p).setF .XE_LOCAL_VALID 0 p

/-- XE_XID_CTRL: CLEAR clears a closed bit (R118). -/
def Dev.xidCtrl (d : Dev) (p : Nat) (v : BitVec 32) : Dev :=
  let v := v.zeroExtend 64
  if Fld.XE_XID_CTRL_CLEAR.of v = 0 then d
  else
    let dir := Fld.XE_XID_CTRL_DIR.of v
    let xid := Fld.XE_XID_CTRL_XID.of v
    (d.setXid p dir xid false).updXe (fun x => { x with lates := x.lates.filter (fun l => l != (p, dir, xid)) })

/-! ## Meanings -/

/-- EXCHANGE. -/
def execExchange (id : Nat) (s : State) : Host.Outcome State Fault Refusal := s.engine (fun d => d.exchange id)

/-- COMBINE. -/
def execCombine (id : Nat) (s : State) : Host.Outcome State Fault Refusal := s.engine (fun d => d.combine id)

/-- XE_BILLET. -/
def execXeBillet (s : State) : Host.Outcome State Fault Refusal := s.engine Dev.xeBillet

/-- SEGMENT_HEADER. -/
def execSegmentHeader (ctx src : Nat) (s : State) : Host.Outcome State Fault Refusal := s.engine (fun d => d.segmentHeader ctx src)

/-- VECTOR_WRITE. -/
def execVectorWrite (ctx src idx : Nat) (s : State) : Host.Outcome State Fault Refusal :=
  s.engine (fun d => d.vectorWrite ctx src idx)

/-- XE_XID_CTRL. -/
def execXeXidCtrl (ap : Aperture) (p : Fin 16) (v : BitVec 32) (s : State) : Host.Outcome State Fault Refusal :=
  s.act (fun d => d.hostWrite ap .XE_XID_CTRL p 0 (fun d => d.xidCtrl p v))

end Sys2Proof.Machine
end

