-- ==== Sys2Proof/Machine/Collectives.lean ====
section
/-! DEFINITION. The Collective Engines: what a COLLECTIVE checks at launch, its steps over chunks, the order and arithmetic
of the reduction, messages and credits, closes, SUSPECT notices and closed CIDs (R283 to R302). -/

namespace Sys2Proof.Machine

/-! ## ARGS (Table 14.2) -/

/-- OP: 0 ALL_REDUCE, 1 REDUCE_SCATTER, 2 ALL_GATHER, 3 BROADCAST. -/
def Cmd.cOp (c : Cmd) : Nat := c.arg 0 0 2
/-- REDOP: 0 SUM, 1 MAX, 2 MIN. -/
def Cmd.redop (c : Cmd) : Nat := c.arg 0 2 2
/-- DTYPE of a COLLECTIVE: 0 FP32, 1 BF16, 2 INT32. -/
def Cmd.cType (c : Cmd) : Nat := c.arg 0 4 2
/-- CARRY16. -/
def Cmd.carry16 (c : Cmd) : Bool := c.arg 0 6 1 = 1
/-- MATRIX. -/
def Cmd.cMatrix (c : Cmd) : Bool := c.arg 0 7 1 = 1
/-- CID. -/
def Cmd.cid (c : Cmd) : Nat := c.arg 1 0 8
/-- CHUNK_CODE. -/
def Cmd.chunkCode (c : Cmd) : Nat := c.arg 2 0 4
/-- DEPTH. -/
def Cmd.depth (c : Cmd) : Nat := c.arg 2 4 3 + 1
/-- The group size of a stage; 1 for stage 0 (R286). -/
def Cmd.cN (c : Cmd) : Nat → Nat
  | 1 => c.arg 3 0 3 + 1
  | 2 => c.arg 3 3 4 + 1
  | 3 => c.arg 4 0 9 + 1
  | _ => 1
/-- MY_RANK of a COLLECTIVE. -/
def Cmd.cRank (c : Cmd) : Nat := c.arg 6 0 16
/-- ROOT. -/
def Cmd.cRoot (c : Cmd) : Nat := c.arg 8 0 16
/-- ELEMENTS. -/
def Cmd.cElems (c : Cmd) : Nat := c.arg 12 0 32
/-- N1 * N2 * N3. -/
def Cmd.cMembers (c : Cmd) : Nat := c.cN 1 * c.cN 2 * c.cN 3

/-- Bytes of an input element. -/
def typeBytes (t : Nat) : Nat := if t = 1 then 2 else 4

/-- Bytes of an element in the carry type (R290, R292). -/
def Cmd.carryBytes (c : Cmd) : Nat := if c.cType = 1 ∧ c.carry16 = true then 2 else 4

/-- C: the elements of a chunk (R288). -/
def Cmd.chunkElems (c : Cmd) : Nat := 2 ^ (16 + c.chunkCode) / typeBytes c.cType

/-- The number of chunks (R288). -/
def Cmd.cChunks (c : Cmd) : Nat := ceilDiv c.cElems c.chunkElems

/-- The elements of chunk i (R288). -/
def Cmd.cSize (c : Cmd) (i : Nat) : Nat := min c.chunkElems (c.cElems - i * c.chunkElems)

/-- A rank's index in its group of a stage (R286). -/
def Cmd.idxOf (c : Cmd) (s rank : Nat) : Nat :=
  match s with
  | 1 => rank % c.cN 1
  | 2 => rank / c.cN 1 % c.cN 2
  | 3 => rank / (c.cN 1 * c.cN 2)
  | _ => 0

/-- Ranks between two neighbours of a group of a stage (R286). -/
def Cmd.strideOf (c : Cmd) : Nat → Nat
  | 1 => 1
  | 2 => c.cN 1
  | _ => c.cN 1 * c.cN 2

/-- The rank of the member with index j in the own group of a stage. -/
def Cmd.peerRank (c : Cmd) (s j : Nat) : Nat := c.cRank - c.idxOf s c.cRank * c.strideOf s + j * c.strideOf s

/-! ## Shards and pieces (R288) -/

/-- Shard g of a piece of m elements split into n: its first element and its length. -/
def shard (m n g : Nat) : Nat × Nat :=
  let size := roundUp (ceilDiv m n) 16
  let lo := min (g * size) m
  (lo, min ((g + 1) * size) m - lo)

/-- The own piece of a stage, of a chunk of m elements: its first element within the chunk and its length. -/
def Cmd.piece (c : Cmd) (m : Nat) : Nat → Nat × Nat
  | 0 => (0, m)
  | s + 1 =>
    let (lo, len) := c.piece m s
    let (a, n) := shard len (c.cN (s + 1)) (c.idxOf (s + 1) c.cRank)
    (lo + a, n)

/-! ## Steps (R291) -/

/-- A step of a chunk: its phase (true: down) and stage. -/
abbrev CStep := Bool × Nat

/-- The stages of more than one member among those listed. -/
def Cmd.stagesOf (c : Cmd) (down : Bool) (l : List Nat) : List CStep := (l.filter (fun s => 1 < c.cN s)).map (fun s => (down, s))

/-- The stage at which a BROADCAST member receives; none for ROOT. -/
def Cmd.recvStage (c : Cmd) : Option Nat := [1, 2, 3].find? (fun s => c.idxOf s c.cRank != c.idxOf s c.cRoot)

/-- The steps of a member, in order: stage 0 where it gives data, then every stage at which it receives. -/
def Cmd.cSteps (c : Cmd) : List CStep :=
  match c.cOp with
  | 0 => (false, 0) :: (c.stagesOf false [1, 2, 3] ++ c.stagesOf true [3, 2, 1])
  | 1 => (false, 0) :: c.stagesOf false [1, 2, 3]
  | 2 => (false, 0) :: c.stagesOf true [1, 2, 3]
  | _ =>
    match c.recvStage with
    | none => [(false, 0)]
    | some s => [(true, s)]

/-- What the member sends once it has done step k: the next stage's messages, or for a BROADCAST those of every lower
stage, from the top. -/
def Cmd.sendsAfter (c : Cmd) (k : Nat) : List CStep :=
  if c.cOp = 3 then
    let top := (c.recvStage).getD 4
    c.stagesOf true ([3, 2, 1].filter (· < top))
  else
    match c.cSteps[k + 1]? with
    | some st => [st]
    | none => []

/-- Elements that peer index j's message of a step holds, for a chunk of m elements: the member's own shard in the up phase
(which is also how a peer's message to it is sized), the sender's result in the down phase (R291, R292). -/
def Cmd.msgElems (c : Cmd) (m : Nat) (st : CStep) (recvIdx sendIdx : Nat) : Nat :=
  let s := st.2
  match c.cOp with
  | 2 => m * ((([1, 2, 3] : List Nat).filter (· < s)).foldl (fun a t => a * c.cN t) 1)
  | 3 => m
  | _ => (shard (c.piece m (s - 1)).2 (c.cN s) (if st.1 then sendIdx else recvIdx)).2

/-! ## Arithmetic (R289, R290) -/

/-- INT32 addition, held at the nearer limit, with whether it was. -/
def addSat (a b : BitVec 32) : BitVec 32 × Bool :=
  let r := a.toInt + b.toInt
  if 2147483647 < r then (0x7FFFFFFF#32, true)
  else if r < -2147483648 then (0x80000000#32, true)
  else (BitVec.ofInt 32 r, false)

/-- The larger of two FP32 values: NaN where either is (R125, R290), and +0 above -0. -/
def fmax32 (a b : BitVec 32) : BitVec 32 :=
  if isNan32 a || isNan32 b then nan32
  else if flt a b then b else if flt b a then a
  else if a.msb then b else a

/-- The smaller of two FP32 values: NaN where either is, and -0 below +0. -/
def fmin32 (a b : BitVec 32) : BitVec 32 :=
  if isNan32 a || isNan32 b then nan32
  else if flt a b then a else if flt b a then b
  else if a.msb then a else b

/-- What a reduction counts: INT32 sums held at a limit (COLL_EVENTS.SAT), and flushed results (R132). -/
structure RedEv where
  held : Nat := 0
  flushed : Nat := 0
  /-- Residue or selection mismatches (R298). -/
  bad : Nat := 0
  deriving DecidableEq, Repr

/-! ## Adder faults and their checks (R298) -/

/-- The mod-7 residue check of a sum: the operands' residues against the result's. -/
def residueBad (a b r : Int) : Bool := (a % 7 + b % 7) % 7 != r % 7

/-- The significands of two finite FP32 values aligned to the lower exponent, and that exponent. -/
def alignedSigs (a b : F32) : Option (Int × Int × Int) :=
  match num32 a, num32 b with
  | .fin s m e, .fin t n f =>
    let low := min e f
    some ((if s then -1 else 1) * (atExp m e low : Int), (if t then -1 else 1) * (atExp n f low : Int), low)
  | _, _ => none

/-- An FP32 addition that a fault may strike: the sum, its flush count, and the verdict of the two checks. A fault of the
significands or the exponent has nothing to strike where an operand is not finite. -/
def addChecked (flush : Bool) (site : Option AdderSite) (a b : F32) : F32 × Nat × Bool :=
  let good := fadd' flush a b
  match site, alignedSigs (flush32 flush a) (flush32 flush b) with
  | some (.sum err), some (x, y, e) =>
    let s := x + y + err
    let r := result32 flush (.fin (decide (s < 0)) s.natAbs e)
    (r.1, r.2, residueBad x y s)
  | some (.exponent err), some (x, y, e) =>
    let s := x + y
    let r := result32 flush (.fin (decide (s < 0)) s.natAbs (e + err))
    (r.1, r.2, residueBad e 0 (e + err))
  | some (.rounding turned), _ => (good.1 ^^^ turned, good.2, false)
  | _, _ => (good.1, good.2, false)

/-- An INT32 addition that a fault may strike: held at the nearer limit, with whether it was, and the check of the exact
sum. -/
def satChecked (site : Option AdderSite) (a b : BitVec 32) : BitVec 32 × Bool × Bool :=
  match site with
  | some (.sum err) =>
    let s := a.toInt + b.toInt + err
    let bad := residueBad a.toInt b.toInt s
    if 2147483647 < s then (0x7FFFFFFF#32, true, bad)
    else if s < -2147483648 then (0x80000000#32, true, bad)
    else (BitVec.ofInt 32 s, false, bad)
  | some (.rounding turned) => let r := addSat a b; (r.1 ^^^ turned, r.2, false)
  | _ => let r := addSat a b; (r.1, r.2, false)

/-- A selection that a fault may strike: the result must be one of the operands, bit for bit. -/
def selectChecked (site : Option AdderSite) (a b r : BitVec 32) : BitVec 32 × Bool :=
  match site with
  | some (.select turned) => let r := r ^^^ turned; (r, r != a && r != b)
  | _ => (r, false)

/-- op of REDOP over a type, under the partition's subnormal setting, with what it counts. BF16 values are held widened. -/
def redOp (redop type : Nat) (flush : Bool) (site : Option AdderSite) (a b : BitVec 32) : BitVec 32 × RedEv :=
  let pick := fun (a b r : BitVec 32) => let s := selectChecked site a b r; (s.1, ({ bad := b2n s.2 } : RedEv))
  if type = 2 then
    match redop with
    | 0 => let r := satChecked site a b; (r.1, { held := b2n r.2.1, bad := b2n r.2.2 })
    | 1 => pick a b (if a.slt b then b else a)
    | _ => pick a b (if b.slt a then b else a)
  else
    let fa := flush32 flush a
    let fb := flush32 flush b
    match redop with
    | 0 => let r := addChecked flush site a b; (r.1, { flushed := r.2.1, bad := b2n r.2.2 })
    | 1 => pick fa fb (fmax32 fa fb)
    | _ => pick fa fb (fmin32 fa fb)

/-- One narrowing to BF16 with RNE, held widened again, with its events. -/
def toBf16 (flush : Bool) (x : BitVec 32) : BitVec 32 × Ev :=
  let r := narrow 1 none flush x
  (BitVec.ofNat 32 (r.1 * 65536), r.2)

/-- Where a fault strikes operation k on element i. -/
def AdderFault.at (f : Option AdderFault) (k i : Nat) : Option AdderSite :=
  f.bind (fun f => if f.oper = k ∧ f.elem = i then some f.site else none)

/-- Reduce contributions element by element, in the order of the list, with what it counts; k operations are done. -/
def reduceAll (redop type : Nat) (flush : Bool) (f : Option AdderFault) :
    Nat → List (BitVec 32) → List (List (BitVec 32)) → List (BitVec 32) × RedEv
  | _, acc, [] => (acc, {})
  | k, acc, v :: vs =>
    let rs := (acc.zip v).zipIdx.map (fun e => redOp redop type flush (AdderFault.at f k e.2) e.1.1 e.1.2)
    let (out, n) := reduceAll redop type flush f (k + 1) (rs.map Prod.fst) vs
    (out, ⟨n.held + sumNat (rs.map (·.2.held)), n.flushed + sumNat (rs.map (·.2.flushed)),
      n.bad + sumNat (rs.map (·.2.bad))⟩)

/-- Input elements as the engine holds them: widened for a reduction (R130), BF16 codes unchanged for a copy (R290). -/
def inElem (type : Nat) (reduce flush : Bool) (code : Nat) : BitVec 32 :=
  if type = 1 then (if reduce then widen 1 none flush code else BitVec.ofNat 32 (code * 65536))
  else if type = 0 ∧ reduce = true then widen 0 none flush code
  else BitVec.ofNat 32 code

/-- An output element's code. -/
def outCode (type : Nat) (x : BitVec 32) : Nat := if type = 1 then x.toNat / 65536 else x.toNat

/-- A message's bytes: elements packed in the carry type. -/
def carryPack (bytes : Nat) (xs : List (BitVec 32)) : List Byte :=
  xs.flatMap (fun x => leBytes bytes (if bytes = 2 then x.toNat / 65536 else x.toNat))

/-- Read n elements of the carry type. -/
def carryRead (bytes n : Nat) (bs : List Byte) : List (BitVec 32) :=
  (List.range n).map (fun i =>
    let v := leAt bs (bytes * i) bytes
    BitVec.ofNat 32 (if bytes = 2 then v * 65536 else v))

/-! ## Contexts (R285, R295, R301) -/

/-- Change the Collective Engines. -/
def Dev.updColl (d : Dev) (g : CollSt → CollSt) : Dev := { d with coll := g d.coll }

/-- The context of a CID of a partition. -/
def Dev.coll? (d : Dev) (p cid : Nat) : Option CollCtx := d.coll.ctxs.find? (fun x => x.part == p && x.cid == cid)

/-- The context of a command. -/
def Dev.collOf (d : Dev) (id : Nat) : Option CollCtx := d.coll.ctxs.find? (fun x => x.cmd == some id)

/-- Change the context with a serial number. -/
def Dev.updColl1 (d : Dev) (serial : Nat) (g : CollCtx → CollCtx) : Dev :=
  d.updColl (fun x => { x with ctxs := mapIf (fun c => c.serial == serial) g x.ctxs })

/-- Contexts held on a CE. -/
def Dev.collHeld (d : Dev) (ce : Nat) : Nat := (d.coll.ctxs.filter (fun x => x.cid % 4 == ce)).length

/-- Show the contexts held on each CE (COLL_STATUS). -/
def Dev.noteColl (d : Dev) : Dev :=
  (((d.setF .COLL_STATUS_CTX_CE0 (d.collHeld 0)).setF .COLL_STATUS_CTX_CE1 (d.collHeld 1)).setF .COLL_STATUS_CTX_CE2
    (d.collHeld 2)).setF .COLL_STATUS_CTX_CE3 (d.collHeld 3)

/-- A new context. -/
def Dev.collOpen (d : Dev) (p cid : Nat) (cmd : Option Nat) : Dev :=
  (d.updColl (fun x => { x with
    serial := x.serial + 1
    ctxs := x.ctxs ++ [{ serial := x.serial, part := p, job := d.jobOf p, cid := cid, cmd := cmd, since := d.count
                         peers := [], msgs := [], chunks := [], credits := [], closes := [], rounds := 0
                         suspect := false, notices := [], failed := [], out := [], written := false }] })).noteColl

/-- A context is free for a command: one to adopt, or one of its CE's 16 (R285, R295). -/
def Dev.collRoom (d : Dev) (c : Cmd) : Bool :=
  match d.coll? c.part c.cid with
  | some x => x.cmd.isNone
  | none => d.collHeld (c.cid % 4) < 16

/-- Free a context: its Landing buffers return. -/
def Dev.collFree (d : Dev) (x : CollCtx) : Dev :=
  ((d.lndReturnUser (.collective x.serial)).updColl (fun e =>
    { e with ctxs := e.ctxs.filter (fun c => c.serial != x.serial) })).noteColl

/-- The bit of COLL_CID_CLOSED for a CID. -/
def Dev.cidClosed (d : Dev) (p cid : Nat) : Bool := bit (d.reg .COLL_CID_CLOSED p (cid / 64)).toNat (cid % 64)

/-- Set or clear a closed bit (R301). -/
def Dev.setCid (d : Dev) (p cid : Nat) (on : Bool) : Dev :=
  let i := cid / 64
  d.setReg .COLL_CID_CLOSED (BitVec.ofNat 64 (setBit (d.reg .COLL_CID_CLOSED p i).toNat (cid % 64) on)) p i

/-- A late billet or notice: counted, and the first for each closed CID is reported (R301). -/
def Dev.collLate (d : Dev) (p cid : Nat) : Dev :=
  let d := d.addF .COLL_LATE_LATE 1
  if !d.cidClosed p cid || d.coll.lates.contains (p, cid) then d
  else
    let d := d.updColl (fun x => { x with lates := x.lates ++ [(p, cid)] })
    d.post .COLL_LATE 0 cid { job := d.jobOf p, part := some p }

/-! ## Launch (R287, R294, R295) -/

/-- COLL_PLAN for a peer's rank. -/
def badPlan (rank : Nat) : Fail := .kill .faultData .COLL_PLAN 0 rank

/-- A peer's node differs from the own node only where Table 14.3 allows. -/
def planOk (self node s : Nat) : Bool :=
  match s with
  | 1 => [Dim.w, .z, .y].all (fun k => coord node k == coord self k)
  | 2 => [Dim.w, .z, .x].all (fun k => coord node k == coord self k)
  | _ => [Dim.y, .x].all (fun k => coord node k == coord self k)

/-- The peers of the own three groups, each translated and checked: a rank that no valid entry names, or an entry that cannot
be read, fails the peer's part (R256, R287, R297). -/
def collPeers (c : Cmd) : Op (List CPeer) := do
  let ls ← ([1, 2, 3] : List Nat).mapM (fun s =>
    ((List.range (c.cN s)).filter (· != c.idxOf s c.cRank)).mapM (fun j => do
      let rank := c.peerRank s j
      let node ← forPart c.id rank (rankNode c.part rank)
      need (planOk (← get).node node s) (badPlan rank)
      return (⟨s, j, rank, node⟩ : CPeer)))
  return ls.flatten

/-- The Landing buffers that an ALL_REDUCE or REDUCE_SCATTER takes, by step: the bytes of the step's piece (R294). Down stage
1 writes OUT0, and has none. -/
def Cmd.collBuffers (c : Cmd) : List Nat :=
  if 2 ≤ c.cOp then []
  else
    let m := c.cSize 0
    m * c.carryBytes :: ((c.cSteps.drop 1).filter (fun st => !(st.1 && st.2 == 1))).map (fun st =>
      (c.piece m (st.2 - 1)).2 * c.carryBytes)

/-- Take n buffers of a pool, or kill the command with the refusal before anything is sent (R231, R294). -/
def takeColl (id p serial k : Nat) : Nat → Op (List (Nat × Nat))
  | 0 => return []
  | n + 1 => do
    match (← get).lndAlloc p k (.collective serial) with
    | (d, .ok i) =>
      set d
      return (k, i) :: (← takeColl id p serial k n)
    | (d, .error st) =>
      set (d.failCmd id st)
      throw .given

/-- Elements in OUT0. -/
def Cmd.outElems (c : Cmd) : Nat :=
  match c.cOp with
  | 1 => sumNat ((List.range c.cChunks).map (fun i => (c.piece (c.cSize i) 3).2))
  | 2 => c.cElems * c.cMembers
  | _ => c.cElems

/-- An input can serve: a vector that holds its elements, or a tile-form matrix of the type's format and E elements
(R283). -/
def collInput (c : Cmd) (v : Version) : Op Unit := do
  if c.cMatrix then
    let (g, tiles, dir) ← matrixAt v 0
    need (g.fmt == c.cType && !g.scaled && g.headOk tiles dir && g.rows * g.cols == c.cElems) (.plain .faultData)
    need (← g.fits) (.plain .faultData)
  else need (c.cElems * typeBytes c.cType ≤ v.entry.size) (.plain .faultData)

/-- The input handles that are given. -/
def Cmd.collIns (c : Cmd) : List Nat := ([0, 1, 2] : List Nat).map c.inp |>.filter (· != 0)

/-- A message of an early context comes from a peer and has the size the member computes (R292). -/
def Cmd.msgOk (c : Cmd) (peers : List CPeer) (m : CMsg) : Option (CPeer × Bool) :=
  match peers.find? (fun q => q.stage == m.stage && q.node == m.src) with
  | none => none
  | some q =>
    if m.chunk < c.cChunks ∧ c.cSteps.contains (m.down, m.stage) = true then
      let n := c.msgElems (c.cSize m.chunk) (m.down, m.stage) (c.idxOf m.stage c.cRank) q.idx
      some (q, m.total == max 1 (ceilDiv (n * c.carryBytes) 64))
    else none

/-- Return the Landing buffer that a message took. -/
def Dev.collUnstage (d : Dev) (m : CMsg) : Dev :=
  match m.buf with
  | none => d
  | some (k, i) =>
    match d.lnd.held.find? (fun b => b.pool == k && b.idx == i) with
    | some b => d.lndReturn b
    | none => d

/-- A message's TOTAL is not the size that the receiver computes: the part of its source fails (R292). -/
def Dev.collMismatch (d : Dev) (id rank : Nat) : Dev := d.failReport id rank .faultData .COLL_MISMATCH 0 0

/-- The peers to whom a member sends in a step. -/
def CollCtx.peersOf (x : CollCtx) (s : Nat) : List CPeer := x.peers.filter (fun q => q.stage == s)

/-- A step's place in the order of the phases, for "a later stage" of R299. -/
def stepKey (st : CStep) : Nat := if st.1 then 10 - st.2 else st.2

/-- Send a notice to nodes (Table 14.5). -/
def Dev.sendNotice (d : Dev) (x : CollCtx) (n : Notice) (nodes : List Nat) : Dev :=
  let pay := leBytes 2 3 ++ leBytes 1 x.cid ++ leBytes 1 (n.stage + b2n n.down * 4) ++ leBytes 2 n.chunk ++ leBytes 2 n.detector
  (d.inject (37 + x.cid % 4) (x.cmd.map (fun id => (id, 0))) (nodes.map (fun t =>
    mkBillet { type := 1, tc := 1, job := x.job, tag := x.cid * 2 ^ 11, dest := t, src := d.node } pay))).pump

/-- Forward a notice to every peer to which the member sends that chunk in a later stage (R299). -/
def Dev.forwardNotice (d : Dev) (c : Cmd) (x : CollCtx) (n : Notice) : Dev :=
  let later := ((List.range c.cSteps.length).flatMap c.sendsAfter).filter (fun st => stepKey (n.down, n.stage) < stepKey st)
  d.sendNotice x n ((later.flatMap (fun st => (x.peersOf st.2).map CPeer.node)).dedup)

/-- A COLLECTIVE launches: its plan and inputs are checked, its buffers taken, and it opens a context or adopts the early
one of its CID (R283, R287, R294, R295). A failure over its own objects is that of part MY_RANK (R297). -/
def collStart (id : Nat) : Op Unit := do
  match (← get).cmd? id with
  | none => pure ()
  | some c =>
    Op.act (fun d => d.updCmd id (fun c => { c with parts := c.cMembers }))
    let peers ← collPeers c
    forPart id c.cRank (c.collIns.forM (fun h => do
      match c.input h with
      | some v => collInput c v
      | none => pure ()))
    if !c.cMatrix then
      match c.claimOf (c.outp 0) with
      | some k => do
        need k.ver.unstriped (stripeFault k.ver.obj)
        forPart id c.cRank (need (c.outElems * typeBytes c.cType ≤ k.ver.entry.size) (.plain .faultProt))
      | none => pure ()
    let early := (← get).coll? c.part c.cid
    if early.isNone then Op.act (fun d => d.collOpen c.part c.cid (some id))
    match (← get).coll? c.part c.cid with
    | none => pure ()
    | some x =>
      let chunks := (List.range c.cChunks).map (fun i => ({ chunk := i, done := 0, freed := 0, vals := [], sent := [] } : CChunk))
      let known := x.msgs.filter (fun m => (c.msgOk peers m).isSome)
      let good := known.filter (fun m => (c.msgOk peers m).any Prod.snd)
      let bad := (known.filter (fun m => !good.contains m)).filterMap (fun m => (c.msgOk peers m).map (·.1.rank))
      Op.act (fun d => d.updColl1 x.serial (fun x =>
        { x with cmd := some id, peers := peers, chunks := chunks, msgs := good, failed := [] }))
      let bufs ← c.collBuffers.mapM (fun n => takeColl id c.part x.serial (lndClass n).1 c.depth)
      Op.act (fun d => d.updColl1 x.serial (fun x => { x with bufs := bufs }))
      Op.act (fun d => (x.msgs.filter (fun m => !good.contains m)).foldl Dev.collUnstage d)
      Op.act (fun d => bad.dedup.foldl (fun d r => d.collMismatch id r) d)
      let refused := x.failed.filterMap (fun f => (peers.find? (fun q => q.node == f.1)).map (fun q => (q.rank, f.2)))
      Op.act (fun d => refused.foldl (fun d f => d.failPart id f.1 f.2) d)
      Op.act (fun d => match d.collOf id with
        | some y => x.notices.foldl (fun d n => d.forwardNotice c y n) d
        | none => d)

/-! ## Sending (R292, R293) -/

/-- The tag of a collective's message (Table 14.4). -/
def collTag (kind stage cid chunk : Nat) : Nat := kind * 2 ^ 21 + stage * 2 ^ 19 + cid * 2 ^ 11 + chunk

/-- The billets of one message. -/
def collBillets (x : CollCtx) (self node kind stage chunk : Nat) (bs : List Byte) : List Billet :=
  let total := max 1 (ceilDiv bs.length 64)
  (List.range total).map (fun i => mkBillet
    { tc := 1, job := x.job, tag := collTag kind stage x.cid chunk, seq := i, total := total, dest := node, src := self }
    (slice bs (64 * i) 64))

/-- The member holds the credit to send a chunk to a peer: the chunk is below DEPTH, or the peer's CREDIT for chunk
c - DEPTH of the stage in the same phase has come. The tag does not name the phase: the first CREDIT of a stage and chunk
is the up phase's, the second the down phase's. -/
def CollCtx.credit (x : CollCtx) (c : Cmd) (st : CStep) (chunk : Nat) (q : CPeer) : Bool :=
  let want := if c.cOp = 0 ∧ st.1 = true then 2 else 1
  chunk < c.depth || want ≤ (x.credits.filter (fun e => e == (st.2, chunk - c.depth, q.node))).length

/-- The elements of a message to a peer: its shard of the held piece in the up phase, the whole result in the down
phase. -/
def Cmd.msgVals (c : Cmd) (st : CStep) (q : CPeer) (vals : List (BitVec 32)) : List (BitVec 32) :=
  if st.1 then vals
  else
    let (lo, n) := shard vals.length (c.cN st.2) q.idx
    (vals.drop lo).take n

/-- Everything that a chunk must still be sent as, with the peers. -/
def Cmd.toSend (c : Cmd) (x : CollCtx) (k : CChunk) : List (CStep × CPeer) :=
  if k.done = 0 then []
  else ((c.sendsAfter (k.done - 1)).flatMap (fun st => (x.peersOf st.2).map (fun q => (st, q)))).filter (fun e =>
    !k.sent.contains (e.1.1, e.1.2, e.2.idx))

/-- The Landing buffer of step k's result for a chunk, where the step has buffers (R294). -/
def CollCtx.bufOf (x : CollCtx) (c : Cmd) (k chunk : Nat) : Option (Nat × Nat) :=
  (x.bufs[k]?).bind (fun l => l[chunk % c.depth]?)

/-- The last result of a chunk: as the engine holds it, or read from its step's Landing buffer (R294). -/
def heldVals (c : Cmd) (x : CollCtx) (k : CChunk) : Op (List (BitVec 32)) :=
  match k.stored, x.bufOf c (k.done - 1) k.chunk with
  | some n, some b => do
    let bs ← Op.mem (fun d => (d, d.lndLoad b 0 (n * c.carryBytes)))
    return carryRead c.carryBytes n bs
  | _, _ => return k.vals

/-- Send a chunk to every peer whose credit is held. -/
def Dev.collSend (d : Dev) (c : Cmd) (serial chunk : Nat) : Dev :=
  match d.coll.ctxs.find? (fun x => x.serial == serial) with
  | none => d
  | some x =>
    match x.chunks.find? (fun k => k.chunk == chunk) with
    | none => d
    | some k =>
      let go := (c.toSend x k).filter (fun e => x.credit c e.1 chunk e.2)
      if go.isEmpty then d
      else d.work c.id c.cRank (do
        let vals ← heldVals c x k
        Op.act (fun d => go.foldl (fun d e => d.inject (37 + x.cid % 4) (some (c.id, e.2.rank))
          (collBillets x d.node e.2.node (b2n e.1.1) e.1.2 chunk (carryPack c.carryBytes (c.msgVals e.1 e.2 vals)))) d)
        Op.act (fun d => d.updColl1 serial (fun x => { x with
          chunks := mapIf (fun k => k.chunk == chunk)
            (fun k => { k with sent := k.sent ++ go.map (fun e => (e.1.1, e.1.2, e.2.idx)) }) x.chunks })))

/-- The buffer of a step is free once its result has been sent on; a step that writes OUT0 as its end, and every step of an
ALL_GATHER or BROADCAST, is finished as soon as it is done (R293). -/
def Cmd.finished (c : Cmd) (x : CollCtx) (k : CChunk) : Bool := 2 ≤ c.cOp || (c.toSend x k).isEmpty

/-- Free the buffers of a chunk's finished steps, and send their CREDITs (R293). -/
def Dev.collCredit (d : Dev) (c : Cmd) (serial chunk : Nat) : Dev :=
  match d.coll.ctxs.find? (fun x => x.serial == serial) with
  | none => d
  | some x =>
    match x.chunks.find? (fun k => k.chunk == chunk) with
    | none => d
    | some k =>
      if k.freed < k.done ∧ c.finished x k = true then
        let d := d.updColl1 serial (fun x => { x with
          chunks := mapIf (fun k => k.chunk == chunk) (fun k => { k with freed := k.done }) x.chunks })
        match c.cSteps[k.done - 1]? with
        | some st => d.inject (37 + x.cid % 4) (some (c.id, c.cRank)) ((x.peersOf st.2).flatMap (fun q =>
            collBillets x d.node q.node 2 st.2 chunk []))
        | none => d
      else d

/-! ## OUT0 (R283, R288, R291) -/

/-- Place elements in OUT0 from element e on: written at once for a vector object, kept for a matrix object. -/
def placeOut (c : Cmd) (serial e : Nat) (vals : List (BitVec 32)) : Op Unit := do
  if c.cMatrix then Op.act (fun d => d.updColl1 serial (fun x => { x with out := x.out ++ [(e, vals)] }))
  else
    match c.claimOf (c.outp 0) with
    | none => pure ()
    | some k =>
      let b := typeBytes c.cType
      wr k.ver (e * b) (vals.flatMap (fun v => leBytes b (outCode c.cType v)))

/-- Place an ALL_GATHER's assembled block: the chunk of n ranks from rank r on. -/
def placeBlock (c : Cmd) (serial chunk r : Nat) (vals : List (BitVec 32)) (n : Nat) : Op Unit :=
  let m := c.cSize chunk
  (List.range n).forM (fun i =>
    placeOut c serial ((r + i) * c.cElems + chunk * c.chunkElems) ((vals.drop (i * m)).take m))

/-- The first rank of the block that an ALL_GATHER holds after a stage. -/
def Cmd.blockRank (c : Cmd) (s : Nat) : Nat × Nat :=
  let n := (([1, 2, 3] : List Nat).filter (· ≤ s)).foldl (fun a t => a * c.cN t) 1
  (c.cRank / n * n, n)

/-- Put a done step's result where OUT0 takes it. -/
def placeStep (c : Cmd) (serial chunk k : Nat) (vals : List (BitVec 32)) : Op Unit := do
  let st := c.cSteps.getD k (false, 0)
  let last := k + 1 = c.cSteps.length
  match c.cOp with
  | 0 => if last then placeOut c serial (chunk * c.chunkElems) vals else pure ()
  | 1 =>
    if last then placeOut c serial (sumNat ((List.range chunk).map (fun i => (c.piece (c.cSize i) 3).2))) vals else pure ()
  | 2 =>
    let (r, n) := c.blockRank st.2
    placeBlock c serial chunk r vals n
  | _ => placeOut c serial (chunk * c.chunkElems) vals

/-- Elements in tile order: cut into the tiles of a matrix, and encode their records (R172, R283). -/
def tileRecords (rows cols fmt : Nat) (xs : List Nat) : List (Bool × List Byte) :=
  let go := (List.range (ceilDiv rows 32)).foldl (fun (a : List (Bool × List Byte) × List Nat) i =>
    (List.range (ceilDiv cols 256)).foldl (fun (a : List (Bool × List Byte) × List Nat) j =>
      let r := min 32 (rows - 32 * i)
      let k := min 256 (cols - 256 * j)
      (a.1 ++ [(⟨r, k, fmt, false, false, a.2.take (r * k), []⟩ : Tile).encode], a.2.drop (r * k))) a) ([], xs)
  go.1

/-- ROWS and COLUMNS of a matrix OUT0: those of IN0; a BROADCAST member without an IN0 is told no geometry, so it is a free
one of E elements. -/
def outShape (c : Cmd) : Op (Nat × Nat) := do
  match c.input (c.inp 0) with
  | some v =>
    let (g, _, _) ← matrixAt v 0
    return (g.rows, g.cols)
  | none =>
    let rows := Nat.gcd (Config.broadcastRows c.cElems) c.cElems
    return (rows, c.cElems / rows)

/-- Write a matrix OUT0 once every element is held. -/
def writeColl (c : Cmd) (x : CollCtx) : Op Unit := do
  if c.cMatrix then
    match c.claimOf (c.outp 0) with
    | none => pure ()
    | some k =>
      let (rows, cols) ← outShape c
      let xs := (sortBy Prod.fst x.out).flatMap (fun e => e.2.map (outCode c.cType))
      let recs := tileRecords rows cols c.cType xs
      Op.act (fun d => d.countStored (recs.map Prod.fst))
      writeMatrix k.ver rows cols c.cType false false (recs.map Prod.snd)

/-! ## Steps of a chunk (R289, R291) -/

/-- Read the elements of a chunk of an input. -/
def readIn (c : Cmd) (chunk handle : Nat) : Op (List (BitVec 32)) := do
  let fl := (← get).flush c.part
  let elem := inElem c.cType (c.cOp < 2) fl
  match c.input handle with
  | none => return []
  | some v =>
    let m := c.cSize chunk
    let e := chunk * c.chunkElems
    if c.cMatrix then
      let (g, _, _) ← matrixAt v 0
      let ts ← (List.range g.tileRows).mapM (fun i => (List.range g.tileCols).mapM (fun j => g.tile i j))
      return ((ts.flatten.flatMap Tile.codes).drop e |>.take m).map elem
    else
      let b := typeBytes c.cType
      let bs ← rd v (e * b) (m * b)
      return (List.range m).map (fun i => elem (leAt bs (b * i) b))

/-- A message's elements, from the Landing buffer that staged it or from the engine. -/
def CMsg.vals (m : CMsg) (c : Cmd) (n : Nat) : Op (List (BitVec 32)) :=
  match m.buf with
  | some b => do
    let bs ← Op.mem (fun d => (d, d.lndLoad b 0 (n * c.carryBytes)))
    return carryRead c.carryBytes n bs
  | none => return carryRead c.carryBytes n ((sortBy Prod.fst m.got).flatMap Prod.snd)

/-- The contributions to a step in index order, the own one in its place (R289, R291); reading a peer's is that peer's
part. -/
def CollCtx.contribs (x : CollCtx) (c : Cmd) (k : CChunk) (st : CStep) : Op (List (List (BitVec 32))) := do
  let m := c.cSize k.chunk
  let g := c.idxOf st.2 c.cRank
  let own ← heldVals c x k
  (List.range (c.cN st.2)).mapM (fun j =>
    if j = g then
      let (lo, n) := shard own.length (c.cN st.2) g
      return if st.1 then own else (own.drop lo).take n
    else
      match (x.peersOf st.2).find? (fun q => q.idx == j) with
      | none => return []
      | some q =>
        match x.msgs.find? (fun y => y.down == st.1 && y.stage == st.2 && y.chunk == k.chunk && y.src == q.node) with
        | none => return []
        | some y => forPart c.id q.rank (y.vals c (c.msgElems m st g j)))

/-- Peers whose messages a step awaits: all of the group, or for a BROADCAST the one that sends. -/
def CollCtx.senders (x : CollCtx) (c : Cmd) (st : CStep) : List CPeer :=
  if c.cOp = 3 then (x.peersOf st.2).filter (fun q => q.idx == c.idxOf st.2 c.cRoot) else x.peersOf st.2

/-- A peer's message of a step and chunk is complete. -/
def CollCtx.heard (x : CollCtx) (st : CStep) (chunk : Nat) (q : CPeer) : Bool :=
  x.msgs.any (fun m => m.down == st.1 && m.stage == st.2 && m.chunk == chunk && m.src == q.node && m.got.length == m.total)

/-- Step k of a chunk can be done: its turn, the own data in place, a buffer free, every message complete (R291, R293). -/
def CollCtx.canStep (x : CollCtx) (c : Cmd) (k : Nat) (ch : CChunk) : Bool :=
  let st := c.cSteps.getD k (false, 0)
  ch.done == k && decide (k < c.cSteps.length) && (c.toSend x ch).isEmpty &&
  (decide (ch.chunk < c.depth) || x.chunks.any (fun y => y.chunk + c.depth == ch.chunk && decide (k < y.freed))) &&
  (st.2 == 0 || (x.senders c st).all (x.heard st ch.chunk))

/-- The last step of the up phase: where a BF16 result carried in FP32 is narrowed (R290). -/
def Cmd.lastUp (c : Cmd) (k : Nat) : Bool :=
  !(c.cSteps.getD k (false, 0)).1 && !((c.cSteps.drop (k + 1)).any (fun st => !st.1))

/-- A residue mismatch at a step (R299). -/
def Dev.residue (d : Dev) (c : Cmd) (x : CollCtx) (st : CStep) (chunk : Nat) : Dev :=
  let peers := x.peersOf st.2
  let mask := ofBitList (peers.map CPeer.idx)
  let d := d.addF .COLL_EVENTS_RESIDUE 1 c.part
  let d := if d.flag .COLL_SUSP_LAST_VALID then d
    else
      let d := d.setReg .COLL_SUSP_LAST (BitVec.ofNat 64 (c.cid + st.2 * 2 ^ 8 + b2n st.1 * 2 ^ 10 + c.part * 2 ^ 12 +
        chunk * 2 ^ 16 + 2 ^ 63))
      (List.range 8).foldl (fun d i => d.setReg .COLL_SUSP_MASK (BitVec.ofNat 64 (bits mask (64 * i) 64)) i) d
  let d := d.postCmd c.id .COLL_RESIDUE 0 (bits mask 0 64) (c.cid + st.2 * 2 ^ 8 + b2n st.1 * 2 ^ 10 + chunk * 2 ^ 16)
  let n : Notice := ⟨st.1, st.2, chunk, c.cRank⟩
  let d := d.updColl1 x.serial (fun x => { x with suspect := true, notices := x.notices ++ [n] })
  d.sendNotice x n (peers.map CPeer.node)

/-- Compute step k of a chunk: its result, as it stands with a fault of the adder, and what the checks find (R298, R299). -/
def collCompute (c : Cmd) (x : CollCtx) (ch : CChunk) (k : Nat) (fault : Option AdderFault) : Op (List (BitVec 32)) := do
  let st := c.cSteps.getD k (false, 0)
  let fl := (← get).flush c.part
  let reduces := !st.1 && c.cOp < 2
  let cs ← (if st.2 = 0 then c.collIns.mapM (readIn c ch.chunk) else x.contribs c ch st)
  if reduces then
    match cs with
    | [] => return []
    | v :: vs =>
      let (r, ev) := reduceAll c.redop c.cType fl fault 0 v vs
      Op.act (fun d => (d.addF .COLL_EVENTS_SAT ev.held c.part).fmtEvents c.part { flushed := ev.flushed })
      if ev.bad ≠ 0 then Op.act (fun d => d.residue c x st ch.chunk)
      if c.cType = 1 ∧ (c.carry16 = true ∨ c.lastUp k = true) then
        let ns := r.map (toBf16 fl)
        Op.act (fun d => d.fmtEvents c.part ((ns.map Prod.snd).foldl Ev.add {}))
        return ns.map Prod.fst
      else return r
  else if c.cOp = 3 ∧ st.2 ≠ 0 then return (cs[c.idxOf st.2 c.cRoot]?).getD []
  else return cs.flatten

/-- Do step k of a chunk; its result goes to OUT0 or to its step's Landing buffer, where it has one (R291, R294; log 141). -/
def collStep (c : Cmd) (x : CollCtx) (ch : CChunk) (k : Nat) (fault : Option AdderFault) : Op Unit := do
  let st := c.cSteps.getD k (false, 0)
  let vals ← collCompute c x ch k fault
  placeStep c x.serial ch.chunk k vals
  let buf := x.bufOf c k ch.chunk
  match buf with
  | some b => Op.mem (fun d => match d.lndStore b 0 (carryPack c.carryBytes vals) with
      | .ok d => (d, .ok ())
      | .error e => (d, .error e))
  | none => pure ()
  let used := fun (m : CMsg) => m.down == st.1 && m.stage == st.2 && m.chunk == ch.chunk
  Op.act (fun d => (x.msgs.filter used).foldl Dev.collUnstage d)
  Op.act (fun d => d.updColl1 x.serial (fun x => { x with
    msgs := x.msgs.filter (fun m => !used m)
    chunks := mapIf (fun y => y.chunk == ch.chunk) (fun y =>
      { y with done := k + 1, vals := if buf.isSome then [] else vals, sent := []
               stored := if buf.isSome then some vals.length else none }) x.chunks }))

/-! ## Close (R296) -/

/-- The stages that run close rounds. -/
def Cmd.closeStages (c : Cmd) : List Nat := ([1, 2, 3] : List Nat).filter (fun s => 1 < c.cN s)

/-- Every flag received so far, and the own. -/
def CollCtx.flagged (x : CollCtx) : Bool := x.suspect || x.closes.any (fun e => e.2.2)

/-- A begun close round has heard from every peer. -/
def CollCtx.roundDone (x : CollCtx) (s : Nat) : Bool := (x.peersOf s).all (fun q => x.closes.any (fun e => e.1 == s && e.2.1 == q.node))

/-- Begin close rounds while the one before is over; after the last, the member holds the OR of every flag and is ready to
commit. -/
def Dev.collClose (d : Dev) (c : Cmd) : Nat → Dev
  | 0 => d
  | fuel + 1 =>
    match d.collOf c.id with
    | none => d
    | some x =>
      let stages := c.closeStages
      let over_ := x.rounds = 0 || x.roundDone (stages.getD (x.rounds - 1) 0)
      if !over_ then d
      else
        match stages[x.rounds]? with
        | none => (d.updCmd c.id (fun k => { k with suspect := x.flagged })).finish c.id
        | some s =>
          let flag := if x.rounds = 0 then x.suspect else x.flagged
          let d := d.inject (37 + x.cid % 4) (some (c.id, c.cRank)) ((x.peersOf s).flatMap (fun q =>
            collBillets x d.node q.node 3 s 0 [BitVec.ofNat 8 (b2n flag)]))
          (d.updColl1 x.serial (fun x => { x with rounds := x.rounds + 1 })).collClose c fuel

/-- Move a running collective on: send what credits allow, return credits, and once every chunk is finished write a matrix
OUT0 and close. -/
def Dev.collAdvance (d : Dev) (id : Nat) : Dev :=
  match d.cmd? id, d.collOf id with
  | some c, some x =>
    if !c.running || c.ready then d
    else
      let d := (List.range c.cChunks).foldl (fun (d : Dev) i => (d.collSend c x.serial i).collCredit c x.serial i) d
      let d := d.pump
      match d.collOf id with
      | none => d
      | some x =>
        if !x.chunks.all (fun k => k.freed == c.cSteps.length) then d
        else
          let d := if x.written then d
            else (d.work id c.cRank (writeColl c x)).updColl1 x.serial (fun x => { x with written := true })
          if (d.cmd? id).any (fun c => c.running) then (d.collClose c 4).pump else d
  | _, _ => d

/-- COLL_STAGE_CHUNK: a step of a chunk is done if it can be, and the collective moves on. -/
def Dev.collStageChunk (d : Dev) (id k chunk : Nat) (fault : Option AdderFault) : Dev :=
  match d.cmd? id, d.collOf id with
  | some c, some x =>
    if !c.running then d
    else
      match x.chunks.find? (fun y => y.chunk == chunk) with
      | none => d
      | some ch => if x.canStep c k ch then (d.work id c.cRank (collStep c x ch k fault)).collAdvance id else d
  | _, _ => d

/-- COLLECTIVE: a launched collective sends what it may and closes when it is done; its steps are COLL_STAGE_CHUNK's. -/
def Dev.collective (d : Dev) (id : Nat) : Dev :=
  match d.cmd? id with
  | none => d
  | some c => if c.opcode = 5 ∧ c.running = true then d.collAdvance id else d

/-! ## Arrival (R292, R293, R295, R296, R299, R301) -/

/-- KIND of a TC1 billet (Table 14.4). -/
def bKind (b : Billet) : Nat := bits (bTag b) 21 3
/-- CID of a TC1 billet. -/
def bCid (b : Billet) : Nat := bits (bTag b) 11 8
/-- STAGE of a TC1 billet. -/
def bStage (b : Billet) : Nat := bits (bTag b) 19 2
/-- CHUNK of a TC1 billet. -/
def bChunk (b : Billet) : Nat := bits (bTag b) 0 11

/-- A billet of a collective can be dealt with: late, its context open, or one free (R295). -/
def Dev.collCanTake (d : Dev) (b : Billet) : Bool :=
  match d.partOf (bJob b) with
  | none => true
  | some p => d.cidClosed p (bCid b) || (d.coll? p (bCid b)).isSome || decide (d.collHeld (bCid b % 4) < 16)

/-- The next billet of a CE that meets a test: held ones first; one for which no context is free is held, with its credit
(R295). -/
def Dev.collNext (d : Dev) (ce : Nat) (p : Billet → Bool) : Option Arrival × Dev :=
  match d.coll.held.find? (fun a => a.port == 37 + ce && p a.b && d.collCanTake a.b) with
  | some a =>
    let d := (d.updColl (fun x => { x with held := x.held.erase a })).consume a
    (some a, d.setF .COLL_HELD_NOW d.coll.held.length)
  | none =>
    match d.fab.inbox.find? (fun a => a.port == 37 + ce && p a.b) with
    | none => (none, d)
    | some a =>
      let d := d.updFab (fun f => { f with inbox := f.inbox.erase a })
      if d.collCanTake a.b then (some a, d.consume a)
      else
        let d := d.updColl (fun x => { x with held := x.held ++ [a] })
        (none, (d.setF .COLL_HELD_NOW d.coll.held.length).addF .COLL_HELD_EVENTS 1)

/-- A billet's context, opened early if it has none; none when the billet is late (R295, R301). -/
def Dev.collCtxFor (d : Dev) (b : Billet) : Dev × Option CollCtx :=
  match d.partOf (bJob b) with
  | none => (d.addF .COLL_LATE_LATE 1, none)
  | some p =>
    if d.cidClosed p (bCid b) then (d.collLate p (bCid b), none)
    else
      let d := if (d.coll? p (bCid b)).isSome then d else d.collOpen p (bCid b) none
      (d, d.coll? p (bCid b))

/-- Store a billet's payload in the Landing buffer of its message. A store that fails gives the message up: the part of its
source fails, at once or when a command adopts the context (R295, R297, R390). -/
def Dev.collPiece (d : Dev) (x : CollCtx) (m : CMsg) (buf : Nat × Nat) (piece : Nat × List Byte) : Dev :=
  let mine := fun (y : CMsg) => y.down == m.down && y.stage == m.stage && y.chunk == m.chunk && y.src == m.src
  match d.lndStore buf (64 * piece.1) piece.2 with
  | .ok d => d.updColl1 x.serial (fun x => { x with msgs := mapIf mine (fun y => { y with got := y.got ++ [(piece.1, [])] }) x.msgs })
  | .error e =>
    let d := ((d.memReport x.cmd e).collUnstage { m with buf := some buf }).updColl1 x.serial (fun x => { x with
      msgs := x.msgs.filter (fun y => !mine y) })
    match x.cmd, x.peers.find? (fun q => q.node == m.src) with
    | some id, some q => d.failPart id q.rank e.status
    | _, _ => d.updColl1 x.serial (fun x => { x with failed := x.failed ++ [(m.src, e.status)] })

/-- Stage a data billet: a command's context checks a message's size as it opens, an early context takes a Landing buffer
for it; a billet from a node or for a step outside the member's plan is discarded. -/
def Dev.collStage (d : Dev) (x : CollCtx) (b : Billet) : Dev :=
  let down := bKind b = 1
  let mine := fun (m : CMsg) => m.down == down && m.stage == bStage b && m.chunk == bChunk b && m.src == bSrc b
  let piece := (bSeq b, bPayload b)
  let m : CMsg := { down := down, stage := bStage b, chunk := bChunk b, src := bSrc b, total := bTotal b, got := [piece]
                    buf := none }
  let add := fun (d : Dev) (m : CMsg) => d.updColl1 x.serial (fun x => { x with msgs := x.msgs ++ [m] })
  match x.msgs.find? mine with
  | some y =>
    if y.got.any (fun g => g.1 == piece.1) then d
    else match y.buf with
      | none => d.updColl1 x.serial (fun x => { x with msgs := mapIf mine (fun m => { m with got := m.got ++ [piece] }) x.msgs })
      | some buf => d.collPiece x y buf piece
  | none =>
    match x.cmd.bind d.cmd? with
    | some c =>
      match c.msgOk x.peers m with
      | none => d
      | some (_, true) => add d m
      | some (q, false) => d.collMismatch c.id q.rank
    | none =>
      if x.failed.any (fun f => f.1 == bSrc b) then d
      else
        let k := (lndClass (64 * bTotal b)).1
        match d.lndAlloc x.part k (.collective x.serial) with
        | (d, .ok i) => (add d { m with got := [], buf := some (k, i) }).collPiece x { m with got := [] } (k, i) piece
        | (d, .error st) => d.updColl1 x.serial (fun x => { x with failed := x.failed ++ [(bSrc b, st)] })

/-- COLL_BILLET: the next data billet of a CE is staged; one of KIND 6 or 7 is discarded and counted as malformed. -/
def Dev.collBillet (d : Dev) (ce : Nat) : Dev :=
  match d.takeInbox (fun a => a.port == 37 + ce && bType a.b != 1 && decide (6 ≤ bKind a.b)) with
  | some (_, d) => d.dropMalformed
  | none =>
    match d.collNext ce (fun b => bType b != 1 && decide (bKind b ≤ 1)) with
    | (none, d) => d
    | (some a, d) =>
      match d.collCtxFor a.b with
      | (d, none) => d
      | (d, some x) => d.collStage x a.b

/-- CREDIT: recorded, and what it allows is sent (R293). -/
def Dev.collCreditIn (d : Dev) (ce : Nat) : Dev :=
  match d.collNext ce (fun b => bType b != 1 && bKind b == 2) with
  | (none, d) => d
  | (some a, d) =>
    match d.collCtxFor a.b with
    | (d, none) => d
    | (d, some x) =>
      let d := d.updColl1 x.serial (fun x => { x with credits := x.credits ++ [(bStage a.b, bChunk a.b, bSrc a.b)] })
      match x.cmd with
      | some id => d.collAdvance id
      | none => d

/-- CLOSE: its flag is recorded, and the close goes on (R296). -/
def Dev.collCloseIn (d : Dev) (ce : Nat) : Dev :=
  match d.collNext ce (fun b => bType b != 1 && bKind b == 3) with
  | (none, d) => d
  | (some a, d) =>
    match d.collCtxFor a.b with
    | (d, none) => d
    | (d, some x) =>
      let d := d.updColl1 x.serial (fun x => { x with closes := x.closes ++ [(bStage a.b, bSrc a.b, bPay a.b 0 0 1 == 1)] })
      match x.cmd with
      | some id => d.collAdvance id
      | none => d

/-- SUSPECT_NOTICE: the flag is set and the notice forwarded, each notice once; for a CID with no context it is late
(R299). -/
def Dev.suspectNotice (d : Dev) (ce : Nat) : Dev :=
  match d.takeInbox (fun a => a.port == 37 + ce && bType a.b == 1) with
  | none => d
  | some (a, d) =>
    match d.partOf (bJob a.b) with
    | none => d.addF .COLL_LATE_LATE 1
    | some p =>
      let cid := bPay a.b 2 0 8
      match (if d.cidClosed p cid then none else d.coll? p cid) with
      | none => d.collLate p cid
      | some x =>
        let n : Notice := ⟨bPay a.b 3 2 1 = 1, bPay a.b 3 0 2, bPay a.b 4 0 16, bPay a.b 6 0 16⟩
        let d := d.updColl1 x.serial (fun x => { x with suspect := true })
        if x.notices.contains n then d
        else
          let d := d.updColl1 x.serial (fun x => { x with notices := x.notices ++ [n] })
          match x.cmd.bind d.cmd? with
          | some c => d.forwardNotice c x n
          | none => d

/-! ## Ends (R300 to R302) -/

/-- A collective commits: its context is freed, and a SUSPECT status is counted. -/
def Dev.collCommit (d : Dev) (c : Cmd) : Dev :=
  let d := if c.suspect then d.addF .COLL_EVENTS_SUSPECT 1 c.part else d
  match d.collOf c.id with
  | some x => d.collFree x
  | none => d

/-- A COLLECTIVE is killed: its CID closes, its unsent billets are dropped, and its context is freed, an early one of its CID
that it had not yet adopted as well (R118, R301). -/
def Dev.collKill (d : Dev) (c : Cmd) : Dev :=
  let d := d.setCid c.part c.cid true
  let d := d.updFab (fun f => { f with inject := f.inject.filter (fun i => !(i.owner.any (fun o => o.1 == c.id))) })
  let mine := fun (x : CollCtx) => x.cmd == some c.id || (x.cmd.isNone && x.part == c.part && x.cid == c.cid)
  (d.coll.ctxs.filter mine).foldl Dev.collFree d

/-- Billets that a context has received. -/
def CollCtx.billets (x : CollCtx) : Nat := sumNat (x.msgs.map (fun m => m.got.length)) + x.credits.length + x.closes.length

/-- A partition is released: its early contexts are freed, their billets and those held are counted late, and its closed
bits clear (R301, Table 14.6). -/
def Dev.collRelease (d : Dev) (p : Nat) : Dev :=
  let mine := d.coll.ctxs.filter (fun x => x.part == p)
  let job := d.jobOf p
  let late := sumNat (mine.map CollCtx.billets) + (d.coll.held.filter (fun a => bJob a.b == job)).length
  let d := (mine.foldl Dev.collFree d).addF .COLL_LATE_LATE late
  let d := (d.coll.held.filter (fun a => bJob a.b == job)).foldl Dev.consume d
  let d := d.updColl (fun x => { x with
    held := x.held.filter (fun a => bJob a.b != job), addIn := x.addIn.filter (fun a => bJob a.b != job), lates := x.lates.filter (fun l => l.1 != p) })
  let d := d.setF .COLL_HELD_NOW d.coll.held.length
  (List.range 4).foldl (fun d i => d.setReg .COLL_CID_CLOSED 0 p i) d

/-- COLL_CID_CTRL: CLEAR clears a closed CID (R301). -/
def Dev.cidCtrl (d : Dev) (p : Nat) (v : BitVec 32) : Dev :=
  let v := v.zeroExtend 64
  if Fld.COLL_CID_CTRL_CLEAR.of v = 0 then d
  else
    let cid := Fld.COLL_CID_CTRL_CID.of v
    (d.setCid p cid false).updColl (fun x => { x with lates := x.lates.filter (fun l => l != (p, cid)) })

/-- The stage of a chunk's held data: that of the last step done while its buffer is not free, or it has not been sent on. -/
def Cmd.stageHeld (c : Cmd) (x : CollCtx) (k : CChunk) : Option Nat :=
  if k.done = 0 ∨ (k.freed = k.done ∧ (c.toSend x k).isEmpty = true) then none else (c.cSteps[k.done - 1]?).map Prod.snd

/-- A stage of a collective holds a chunk: its data, or messages for it (COLL_OCC.BUSY, R302). -/
def CollCtx.busy (x : CollCtx) (c : Cmd) (s : Nat) : Bool :=
  x.chunks.any (fun k => c.stageHeld x k == some s) || x.msgs.any (fun m => m.stage == s)

/-- A stage holds a chunk and lacks a credit for it (COLL_OCC.BLOCKED, R302). -/
def CollCtx.blocked (x : CollCtx) (c : Cmd) (s : Nat) : Bool :=
  x.chunks.any (fun k => c.stageHeld x k == some s && (c.toSend x k).any (fun e => !x.credit c e.1 k.chunk e.2))

/-- The lowest peer rank not yet heard from, and its stage: the index field of COLL_WAIT (R300). -/
def CollCtx.waitsFor (x : CollCtx) (c : Cmd) : Nat :=
  let due := fun (q : CPeer) =>
    x.chunks.any (fun k => (c.cSteps.drop k.done).any (fun st =>
      st.2 == q.stage && (x.senders c st).contains q && !x.heard st k.chunk q)) ||
    !x.closes.any (fun e => e.1 == q.stage && e.2.1 == q.node)
  match sortBy CPeer.rank (x.peers.filter due) with
  | q :: _ => q.rank + q.stage * 65536
  | [] => 0

/-! ## Meanings -/

/-- COLLECTIVE. -/
def execCollective (id : Nat) (s : State) : Host.Outcome State Fault Refusal := s.engine (fun d => d.collective id)

/-- COLL_BILLET. -/
def execCollBillet (ce : Fin 4) (s : State) : Host.Outcome State Fault Refusal := s.engine (fun d => d.collBillet ce)

/-- COLL_STAGE_CHUNK. -/
def execCollStageChunk (id : Nat) (step : Fin 7) (chunk : Fin 2048) (fault : Option AdderFault) (s : State) :
    Host.Outcome State Fault Refusal :=
  s.engine (fun d => d.collStageChunk id step chunk fault)

/-- CREDIT. -/
def execCredit (ce : Fin 4) (s : State) : Host.Outcome State Fault Refusal := s.engine (fun d => d.collCreditIn ce)

/-- CLOSE. -/
def execClose (ce : Fin 4) (s : State) : Host.Outcome State Fault Refusal := s.engine (fun d => d.collCloseIn ce)

/-- SUSPECT_NOTICE. -/
def execSuspectNotice (ce : Fin 4) (s : State) : Host.Outcome State Fault Refusal := s.engine (fun d => d.suspectNotice ce)

/-- COLL_CID_CTRL. -/
def execCollCidCtrl (ap : Aperture) (p : Fin 16) (v : BitVec 32) (s : State) : Host.Outcome State Fault Refusal :=
  s.act (fun d => d.hostWrite ap .COLL_CID_CTRL p 0 (fun d => d.cidCtrl p v))

end Sys2Proof.Machine
end

