-- ==== Sys2Proof/Machine/Adds.lean ====
section
/-! DEFINITION. Remote add: the ADD slots and messages of ADD_MSG, the owner's checks and de-duplication, and ACKs (R304 to
R307). -/

namespace Sys2Proof.Machine

/-! ## The sender (R304, R305) -/

/-- DEST_RANK (Table 14.9). -/
def Cmd.destRank (c : Cmd) : Nat := c.arg 0 0 16
/-- DTYPE of an ADD_MSG. -/
def Cmd.aType (c : Cmd) : Nat := c.arg 2 0 2
/-- OP_ID. -/
def Cmd.opId (c : Cmd) : Nat := c.arg 4 0 32
/-- VA. -/
def Cmd.addVa (c : Cmd) : Nat := c.arg 8 0 48
/-- COUNT. -/
def Cmd.addCount (c : Cmd) : Nat := c.arg 8 48 10 + 1

/-- An ADD slot's GEN (Table 14.4). -/
def Dev.addGen (d : Dev) (slot : Nat) : Nat := SMap.get 0 d.coll.gens slot

/-- The lowest free ADD slot. -/
def Dev.addFree (d : Dev) : Option Nat :=
  (List.range 256).find? (fun i => !d.coll.adds.any (fun a => a.slot == i))

/-- An ADD_MSG launches: it takes a free slot (R305). -/
def addStart (id : Nat) : Op Unit := do
  match (← get).addFree with
  | none => pure ()
  | some i => Op.act (fun d => d.updColl (fun x => { x with adds := x.adds ++ [⟨i, id, d.count, false⟩] }))

/-- Free the slot of a command; its GEN moves on, so that an ACK still to come is late (R305). -/
def Dev.addRelease (d : Dev) (id : Nat) : Dev :=
  match d.coll.adds.find? (fun a => a.id == id) with
  | none => d
  | some a => d.updColl (fun x => { x with
      adds := x.adds.filter (fun b => b.id != id), gens := SMap.set 0 x.gens a.slot ((d.addGen a.slot + 1) % 256) })

/-- Send the ADD message: its first billet and the data billets (R305). -/
def sendAdd (c : Cmd) (slot gen : Nat) : Op Unit := do
  let b := typeBytes c.aType
  match c.input (c.inp 0) with
  | none => pure ()
  | some v =>
    need (c.addCount * b ≤ v.entry.size) (.plain .faultData)
    let data ← rd v 0 (c.addCount * b)
    let node ← rankNode c.part c.destRank
    let d ← get
    let rank := d.ownRank c.part
    let head := leBytes 2 rank ++ leBytes 2 c.aType ++ leBytes 4 (c.addCount - 1) ++ leBytes 8 c.opId ++ leBytes 8 c.addVa
    let ps := padTo 64 head :: payloads data
    Op.act (fun d => (d.inject (37 + c.job % 4) (some (c.id, 0)) (ps.zipIdx.map (fun p => mkBillet
      { tc := 1, job := c.job, tag := 4 * 2 ^ 21 + gen * 2 ^ 8 + slot, seq := p.2, total := ps.length, dest := node
        src := d.node } p.1))).pump)

/-- ADD_MSG: a launched command sends its message once; the ACK completes it. -/
def Dev.addMsg (d : Dev) (id : Nat) : Dev :=
  match d.cmd? id, d.coll.adds.find? (fun a => a.id == id) with
  | some c, some a =>
    if !c.running || c.opcode ≠ 6 || a.sent then d
    else
      let d := d.updColl (fun x => { x with adds := mapIf (fun b => b.id == id) (fun b => { b with sent := true }) x.adds })
      d.work id 0 (sendAdd c a.slot (d.addGen a.slot))
  | _, _ => d

/-- The status with a code that an ACK carries. -/
def statusOf (n : Nat) : Status :=
  ([.ok, .suspect, .killedPreempt, .killedDisable, .killedWatchdog, .faultXlat, .faultData, .faultProt, .poolEmpty, .quota,
    .partFailed, .swapNotReady, .stepStall, .badDescriptor] : List Status).find? (fun s => s.num == n) |>.getD .faultData

/-- ACK: it completes the ADD_MSG of its slot with its status, or is late (R305). -/
def Dev.ackIn (d : Dev) (ce : Nat) : Dev :=
  match d.takeInbox (fun a => a.port == 37 + ce && bType a.b != 1 && bKind a.b == 5) with
  | none => d
  | some (a, d) =>
    let slot := bits (bTag a.b) 0 8
    match d.coll.adds.find? (fun x => x.slot == slot && x.sent) with
    | none => d.addF .COLL_LATE_LATE 1
    | some x =>
      if bits (bTag a.b) 8 8 ≠ d.addGen slot then d.addF .COLL_LATE_LATE 1
      else
        let st := statusOf (bPay a.b 0 0 8)
        if st = .ok then d.finish x.id else d.failPart x.id 0 st

/-! ## The owner (R306, R307) -/

/-- What the de-duplication window says of an OP_ID. -/
inductive Dedup where
  /-- Not covered by the table, or beyond its window: apply and record nothing; true when beyond the window. -/
  | plain (outside : Bool)
  | duplicate
  /-- Apply, and write the new H and bitmap. -/
  | record (h bitmap : Nat)
  deriving DecidableEq, Repr

/-- The rule of R307 for an entry's H, VALID and bitmap. -/
def dedupRule (h : Nat) (valid : Bool) (bitmap opId : Nat) : Dedup :=
  let e := toSigned 32 (opId + 2 ^ 32 - h)
  if !valid then .record opId 1
  else if 0 < e then .record opId ((bitmap * 2 ^ (min e.toNat 4096) + 1) % 2 ^ 4096)
  else if -4096 < e then
    (if bit bitmap (-e).toNat then .duplicate else .record h (setBit bitmap (-e).toNat true))
  else .plain true

/-- The address of a rank's de-duplication entry, where the table covers the rank. -/
def Dev.dedupAddr (d : Dev) (p rank : Nat) : Option Nat :=
  if rank < d.f .COLL_DEDUP_ENTRIES p then some (d.f .COLL_DEDUP_BASE p * 64 + rank * 576) else none

/-- Read the entry of a rank, and judge an OP_ID. -/
def Dev.dedup (d : Dev) (p rank opId : Nat) : Except MemErr Dedup :=
  match d.dedupAddr p rank with
  | none => .ok (.plain false)
  | some a =>
    match d.physRead a 576 with
    | .error e => .error e
    | .ok bs => .ok (dedupRule (leAt bs 0 4) (bit (leAt bs 4 1) 0) (leAt bs 64 512) opId)

/-- Record an OP_ID in its entry. -/
def Dev.dedupWrite (d : Dev) (p rank : Nat) : Dedup → Except MemErr Dev
  | .record h m =>
    match d.dedupAddr p rank with
    | none => .ok d
    | some a =>
      match d.physWrite a (leBytes 4 h ++ [1]) with
      | .error e => .error e
      | .ok d => d.physWrite (a + 64) (leBytes 512 m)
  | _ => .ok d

/-- Add an element to memory: codes in, the code out, INT32 sums held at a limit, and the events of FP32 and BF16
arithmetic (R131, R132, R290). -/
def addElem (type : Nat) (flush : Bool) (site : Option AdderSite) (a b : Nat) : Nat × RedEv × Ev :=
  let value := fun (x : Nat) => if type = 1 then widen 1 none flush x else BitVec.ofNat 32 x
  let (s, ev) := redOp 0 type flush site (value a) (value b)
  if type = 1 then
    let r := toBf16 flush s
    (outCode 1 r.1, ev, r.2.add { flushed := ev.flushed })
  else (s.toNat, ev, { flushed := ev.flushed })

/-- An ADD message, its billets in order. -/
structure AddMsg where
  part : Nat
  rank : Nat
  src : Nat
  type : Nat
  count : Nat
  opId : Nat
  va : Nat
  data : List Byte
  deriving DecidableEq, Repr

/-- The rank-table entry of a rank names a node (R306). -/
def Dev.rankNames (d : Dev) (p rank node : Nat) : Except MemErr Bool :=
  match d.fab.ranks.find? (fun e => e.1 == p && e.2.1 == rank) with
  | some e => .ok (e.2.2 == node)
  | none =>
    if d.rankCount p ≤ rank then .ok false
    else
      match d.physRead (d.rankAddr p rank) 4 with
      | .error e => .error e
      | .ok bs => .ok (bit (leNat bs) 16 && bits (leNat bs) 0 16 == node)

/-- A failed access of an ADD: reported with no command, and its status. -/
def Dev.addFail (d : Dev) (e : MemErr) : Dev × Status × Bool := (d.memReport none e, e.status, false)

/-- Apply an ADD by the order of R306: the device, the ACK's status and its DUP flag. A mismatch that the adder's checks find
is counted; R299 gives it no other effect outside a collective (R298; log 140). -/
def Dev.applyAdd (d : Dev) (m : AddMsg) (fault : Option AdderFault) : Dev × Status × Bool :=
  match d.rankNames m.part m.rank m.src with
  | .error e => d.addFail e
  | .ok false => (d, .faultProt, false)
  | .ok true =>
    match d.dedup m.part m.rank m.opId with
    | .error e => d.addFail e
    | .ok .duplicate => (d.addF .COLL_ADD_STAT_DUP 1 m.part, .ok, true)
    | .ok u =>
      let b := typeBytes m.type
      let n := m.count * b
      match d.pieces m.part true (n / 65536 + 2) m.va n with
      | (d, .error e) => d.addFail e
      | (d, .ok ps) =>
        match d.readPieces ps with
        | .error e => d.addFail e
        | .ok old =>
          let fl := d.flush m.part
          let rs := (List.range m.count).map (fun i => addElem m.type fl (AdderFault.at fault 0 i) (leAt old (b * i) b) (leAt m.data (b * i) b))
          match d.writePieces ps (rs.flatMap (fun r => leBytes b r.1)) with
          | (d, .error e) => d.addFail e
          | (d, .ok _) =>
            let sat := sumNat (rs.map (·.2.1.held))
            let d := d.addF .COLL_EVENTS_RESIDUE (sumNat (rs.map (·.2.1.bad))) m.part
            let d := ((d.addF .COLL_EVENTS_SAT sat m.part).addF .COLL_ADD_STAT_APPLIED 1 m.part).fmtEvents m.part
              ((rs.map (·.2.2)).foldl Ev.add {})
            let d := if u = .plain true then d.addF .COLL_ADD_STAT_OUTSIDE 1 m.part else d
            let d := if m.type ≠ 2 ∨ sat ≠ 0 then d.setF .PART_DET_EVENTS_ADD_ORDER 1 m.part else d
            match d.dedupWrite m.part m.rank u with
            | .error e => d.addFail e
            | .ok d => (d, .ok, false)

/-- A CE takes in the ADD billets delivered to it; their slots are free again. -/
def Dev.addIntake (d : Dev) (ce : Nat) : Dev :=
  let mine := fun (a : Arrival) => a.port == 37 + ce && bType a.b != 1 && bKind a.b == 4
  let ms := d.fab.inbox.filter mine
  let d := (d.updFab (fun f => { f with inbox := f.inbox.filter (fun a => !mine a) })).updColl (fun x =>
    { x with addIn := x.addIn ++ ms })
  ms.foldl Dev.consume d

/-- The billets of an ADD's message that a CE has taken in, in order. -/
def Dev.addBillets (d : Dev) (ce : Nat) (b : Billet) : List Arrival :=
  sortBy (fun a => bSeq a.b) (d.coll.addIn.filter (fun a => a.port == 37 + ce && bTag a.b == bTag b &&
    bSrc a.b == bSrc b && bJob a.b == bJob b))

/-- The ADD message that payloads hold (R305). -/
def addMsgOf (p src : Nat) (bs : List Byte) : AddMsg :=
  { part := p, rank := leAt bs 0 2, src := src, type := leAt bs 2 1 % 4, count := leAt bs 4 2 % 1024 + 1, opId := leAt bs 8 4
    va := leAt bs 16 8 % 2 ^ 48, data := bs.drop 64 }

/-- ADD: the next whole ADD message of a CE is applied, and an ACK with the same tag is sent (R305, R306). One whose job no
partition holds any more is discarded. -/
def Dev.addIn (d : Dev) (ce : Nat) (fault : Option AdderFault) : Dev :=
  let d := d.addIntake ce
  match d.coll.addIn.find? (fun a => a.port == 37 + ce && (d.addBillets ce a.b).length == bTotal a.b) with
  | none => d
  | some a =>
    let ms := d.addBillets ce a.b
    let d := d.updColl (fun x => { x with addIn := x.addIn.filter (fun y => !ms.contains y) })
    match d.partOf (bJob a.b) with
    | none => d
    | some p =>
      let bs := ms.flatMap (fun m => bPayload m.b)
      let m := addMsgOf p (bSrc a.b) bs
      let (d, st, dup) := d.applyAdd m fault
      let pay := leBytes 1 st.num ++ leBytes 7 (b2n dup) ++ leBytes 4 m.opId
      (d.inject (37 + ce) none [mkBillet
        { tc := 1, job := bJob a.b, tag := 5 * 2 ^ 21 + bTag a.b % 2 ^ 16, dest := bSrc a.b, src := d.node } pay]).pump

/-! ## Meanings -/

/-- ADD_MSG. -/
def execAddMsg (id : Nat) (s : State) : Host.Outcome State Fault Refusal := s.engine (fun d => d.addMsg id)

/-- ADD. -/
def execAdd (turn : AddTurn) (s : State) : Host.Outcome State Fault Refusal :=
  s.engine (fun d => d.addIn turn.ce turn.fault)

/-- ACK. -/
def execAck (ce : Fin 4) (s : State) : Host.Outcome State Fault Refusal := s.engine (fun d => d.ackIn ce)

end Sys2Proof.Machine
end

