-- ==== Sys2Proof/Machine/Errors.lean ====
section
/-! DEFINITION. Error reports and their ring, conservation, error rates, the replacement request, droop, temperature, the
mesh, the scrub and the VDD_CORE target (R19, R219, R327 to R341, R371). -/

namespace Sys2Proof.Machine

/-! ## The report ring (R327 to R329) -/

/-- The 64 bytes of a report with its PHASE (Table 17.1). -/
def Report.bytes (r : Report) (phase : Nat) : List Byte :=
  leBytes 2 r.seq ++ leBytes 1 r.code.severity.num ++ leBytes 1 r.source ++ leBytes 2 r.code.num ++ leBytes 1 r.status ++
  [0] ++ leBytes 2 r.job ++ leBytes 1 (r.part.getD 0 + 16 * b2n r.part.isSome) ++ leBytes 1 r.queue ++ leBytes 4 r.tag ++
  leBytes 8 r.count ++ leBytes 8 r.address ++ leBytes 8 r.index ++ leBytes 4 r.elapsed ++ List.replicate 19 0 ++
  leBytes 1 phase

/-- The report ring's size. -/
def Dev.errSize (d : Dev) : Nat := 2 ^ d.f .ERR_Q_CFG_SIZE_LOG2

/-- The report ring has no free slot (R389). -/
def Dev.errFull (d : Dev) : Bool := ringFull d.errSize (d.f .ERR_Q_HEAD_HEAD) (d.f .ERR_Q_TAIL_TAIL)

/-- A held error report. -/
def isReport : Held → Bool
  | .report _ => true
  | .completion _ => false

/-- ERROR_REPORT_WRITE: the held report of the lowest SEQ goes into the ring's next slot (R328). -/
def Dev.writeReport (d : Dev) : Dev :=
  if !d.canWriteHost || !d.flag .ERR_Q_CFG_ENABLE || d.errFull then d
  else
    match takeFirst isReport d.link.held with
    | some (.report r, rest) =>
      let tail := d.f .ERR_Q_TAIL_TAIL
      let phase := d.f .ERR_Q_TAIL_PHASE
      let d := { d with link := { d.link with held := rest, ringSev := d.link.ringSev ++ [r.code.severity] } }
      let d := d.emit (.memWrite (d.f .ERR_Q_BASE_BASE * 64 + tail * 64) (r.bytes phase))
      let (t, ph) := nextTail d.errSize tail phase
      (d.setF .ERR_Q_TAIL_TAIL t).setF .ERR_Q_TAIL_PHASE ph
    | _ => d

/-- ERR_Q_CFG: a change of SIZE_LOG2 while enabled is discarded and reported; enabling with an invalid size leaves ENABLE
at 0 and is reported; enabling sets HEAD and TAIL to 0 and PHASE to 1 (R328). -/
def Dev.errCfg (d : Dev) (ap : Aperture) (v : BitVec 32) : Dev :=
  let v := v.zeroExtend 64
  let on := Fld.ERR_Q_CFG_ENABLE.of v = 1
  if d.flag .ERR_Q_CFG_ENABLE then
    if Fld.ERR_Q_CFG_SIZE_LOG2.of v ≠ d.f .ERR_Q_CFG_SIZE_LOG2 then d.refuseReg ap .ERR_Q_CFG
    else d.plainWrite .ERR_Q_CFG v
  else
    let d := (d.plainWrite .ERR_Q_CFG v).setF .ERR_Q_CFG_ENABLE 0
    if !on then d
    else if !sizeOk (d.f .ERR_Q_CFG_SIZE_LOG2) then d.refuseReg ap .ERR_Q_CFG
    else
      let d := (((d.setF .ERR_Q_CFG_ENABLE 1).setF .ERR_Q_HEAD_HEAD 0).setF .ERR_Q_TAIL_TAIL 0).setF .ERR_Q_TAIL_PHASE 1
      { d with link := { d.link with ringSev := [] } }

/-- ERR_Q_BASE: discarded and reported while the ring is enabled. -/
def Dev.errBase (d : Dev) (ap : Aperture) (v : BitVec 64) : Dev :=
  if d.flag .ERR_Q_CFG_ENABLE then d.refuseReg ap .ERR_Q_BASE else d.plainWrite .ERR_Q_BASE v

/-- ERR_Q_HEAD takes the value modulo the ring size; the reports before it have been consumed (R329, R389). -/
def Dev.errHead (d : Dev) (v : Nat) : Dev :=
  let n := d.errSize
  let h := v % 65536 % n
  let gone := (h + n - d.f .ERR_Q_HEAD_HEAD % n) % n
  ({ d with link := { d.link with ringSev := d.link.ringSev.drop gone } }).setF .ERR_Q_HEAD_HEAD h

/-! ## Replacement reasons (R335) -/

/-- The condition reasons that hold now: SPARES, LANES, FRAMES (Table 17.5). -/
def Dev.conditions (d : Dev) : Nat :=
  let spares := d.f .MA_ARRAY_SUM_ENABLED < 144 || (d.f .MA_ARRAY_SUM_SPARE = 0 && 1 ≤ d.f .MA_ARRAY_SUM_RETIRED)
  let lanes := (List.range 36).any (fun l => d.linkState l = 5 || popCount (d.f .FAB_LINK_STATUS_LANES l) 4 = 2)
  let frames := max 1 (d.f .ERR_REPLACE_CFG_FRAMES) ≤ d.f .TIER_RETIRED_FRAMES
  b2n spares + 2 * b2n lanes + 4 * b2n frames

/-- Each condition that holds sets its reason bit, once the fuses and image have been applied (R335, R358). -/
def Dev.noteReasons (d : Dev) : Dev :=
  if d.stage < 3 then d else d.setF .ERR_REPLACE_REASON (d.f .ERR_REPLACE_REASON ||| d.conditions)

/-- REPLACE_REQ: REPLACE_REQ_N goes from released to asserted and is reported (R335). -/
def Dev.replaceReq (d : Dev) : Dev :=
  if d.pins.replace || d.boot.cold || d.reasons == 0 then d
  else ({ d with pins := { d.pins with replace := true } }).post .REPLACE_REQ 0 (d.f .ERR_REPLACE_REASON)

/-! ## Conservation (R331, R332, R350) -/

/-- One identity checked: on a difference it is reported, captured and made a replacement reason (R332). -/
def Dev.identity (d : Dev) (kind item : Nat) (left right : Int) : Dev :=
  if left = right then d
  else
    let diff := left - right
    let sat := max (-(2 ^ 31 : Int)) (min (2 ^ 31 - 1 : Int) diff)
    let d := (d.addF .ERR_CONS_STAT_FAILS 1).post .CONS_VIOLATION (ofSigned 64 diff) (kind + item * 256)
    let d := if d.flag .ERR_CONS_FAIL_VALID then d
      else d.setReg .ERR_CONS_FAIL (BitVec.ofNat 64 (kind + item * 2 ^ 8 + ofSigned 32 sat * 2 ^ 16 + 2 ^ 63))
    d.setF .ERR_REPLACE_REASON (setBit (d.f .ERR_REPLACE_REASON) 4 true)

/-- Identity 0: on each UP link, for each class and channel, the credits held and the billets sent against them are the static
minimum; over the link, shared credits held and spent are the grants received and not yet returned (Table 17.3). -/
def Dev.checkSender (d : Dev) : Dev :=
  ((List.range 36).filter d.linkUp).foldl (fun d l =>
    let d := (List.range 14).foldl (fun d sel =>
      let m := d.bufMin l (sel / 2)
      let n := min m (SMap.get 0 d.fab.sent (l * 16 + sel))
      d.identity 0 l ((m - n : Nat) + (n : Nat)) m) d
    let spent := d.sharedSpent l
    let grants := SMap.get 0 d.fab.grantsIn l
    d.identity 0 l ((grants - spent : Nat) + (spent : Nat)) grants) d

/-- Identity 1: each UP link's slots, occupied and reserved, static and shared, are the credits granted and not yet returned;
the whole buffer is 16,384 slots (Table 17.3). -/
def Dev.checkReceiver (d : Dev) : Dev :=
  let d := ((List.range 36).filter d.linkUp).foldl (fun d l =>
    let d := (List.range 14).foldl (fun d sel =>
      let m := d.bufMin l (sel / 2)
      let n := d.occ l (sel / 2) (sel % 2) false
      d.identity 1 l ((n : Nat) + (m - n : Nat)) m) d
    let n := (d.fab.slots.filter (fun s => s.input == l && s.shared && s.cls != 6)).length
    d.identity 1 l ((n : Nat) + (d.sharedOut l - n : Nat)) (d.sharedOut l)) d
  let n := d.fab.slots.length
  d.identity 1 255 ((16384 - n : Nat) + (n : Nat)) 16384

/-- Identity 2: each pool's free, used and retired buffers are its count (Table 17.3). -/
def Dev.checkLanding (d : Dev) : Dev :=
  (List.range 8).foldl (fun d k =>
    let used := sumNat ((List.range 16).map (fun p => d.f .TIER_LND_USE_USED p k))
    d.identity 2 k ((d.f .TIER_LND_FREE_FREE k + used + d.f .ERR_LND_RETIRED_RETIRED k : Nat) : Int) (d.lndCount k)) d

/-- Identity 3: a partition's grains (Table 17.3). -/
def Dev.checkGrains (d : Dev) (p : Nat) : Dev :=
  d.identity 3 p (d.f .SV_EMITTED_EMITTED p)
    ((d.f .SV_DROPPED_DROPPED p + d.f .XE_DELIVERED_DELIVERED p + d.f .XE_KILLED_KILLED p + d.f .XE_FLUSHED_FLUSHED p +
      d.f .XE_OUTSTANDING_OUTSTANDING p : Nat) : Int)

/-- The sum of a field of 8 bytes over a tally record's entries (Table 18.5). -/
def entrySum (r : List Byte) (off : Nat) : Nat :=
  sumNat ((List.range (leAt r 2 2)).map (fun i => leAt r (256 + 32 * i + off) 8))

/-- A closed record: its entries' energy with UNATTRIB is that of its rails, and its entries' array-counts are ARRAY_COUNTS
(R350). -/
def Dev.checkRecord (d : Dev) (r : List Byte) : Dev :=
  let rails := sumNat ((List.range 8).map (fun i => leAt r (112 + 8 * i) 8))
  (d.identity 4 0 ((entrySum r 16 + leAt r 176 8 : Nat) : Int) rails).identity 4 0 (entrySum r 8) (leAt r 184 8)

/-- Identity 4: each closed record, once, and the session's energy as that of its closed records and of the open period
(R350). -/
def Dev.checkTally (d : Dev) : Dev :=
  if d.metering then
    let d := (d.scl.unchecked.foldl Dev.checkRecord d).updScl (fun s => { s with unchecked := [] })
    d.identity 4 0 (d.reg .SCL_ENERGY).toNat ((d.scl.closed + sumNat d.rails) % 2 ^ 64 : Nat)
  else d

/-- One check of all identities; a partition's grains only at its own boundary while it holds a job (R331). -/
def Dev.conserve (d : Dev) (p : Option Nat) : Dev :=
  if d.boot.cold then d
  else
    let d := d.checkSender.checkReceiver.checkLanding.checkTally
    let d := match p with
      | some p => if d.valid p then d.checkGrains p else d
      | none => d
    d.addF .ERR_CONS_STAT_CHECKS 1

/-! ## Rates (R334) -/

/-- The length of the rate window, in counts. -/
def Dev.rateWindow (d : Dev) : Nat := max 1 (d.f .ERR_RATE_WIN_WINDOW) * 2 ^ 30

/-- ERR_RATE: n events of a kind for an item. Kinds 2, 4 and 5 are counted where they happen; the others come with their
own counters: corrected HBM and slab reads, corrected Window Cache errors, FEC symbols, and mesh failures (Table 17.4). -/
def Dev.rateRow (d : Dev) (kind item n : Nat) : Dev :=
  match kind with
  | 0 => if item < 8 then (d.addF .TIER_HBM_ERR_CORRECTED n item).rateEvent 0 item n else d
  | 1 => if item < 152 then (d.addF .TIER_SLAB_ERR_CORRECTED n).rateEvent 1 item n else d
  | 3 => (d.addF .WIN_CACHE_STAT_CORRECTED n).rateEvent 3 0 n
  | 6 =>
    if item < 36 then
      let old := d.f .FAB_LINK_FEC_CORRECTED item
      let d := d.addF .FAB_LINK_FEC_CORRECTED n item
      d.rateEvent 6 item ((old + n) / 1024 - old / 1024)
    else d
  | 7 => (d.addF .ERR_MESH_CRC n).rateEvent 7 0 n
  | k => d.rateEvent k item 0

/-- RATE_WINDOW_END: the window ends at its last count and the counts restart (R334). -/
def Dev.rateEnd (d : Dev) : Dev :=
  if d.count < d.err.rateStart + d.rateWindow then d
  else { d with err := { d.err with rates := [], rated := [], rateStart := d.err.rateStart + d.rateWindow } }

/-! ## Droop, temperature and VDD_CORE (R340, R341, R371) -/

/-- DROOP_STRETCH: a domain's clock is stretched; an event beyond one cycle in 16 counts as OVER and the first in each
2^20 counts is reported (R340). -/
def Dev.droop (d : Dev) (dom : Nat) (excess : Bool) : Dev :=
  let d := d.addF .ERR_DROOP_EVENTS 1
  let n := min (SMap.get 0 d.err.droop dom + 1) (2 ^ 32 - 1)
  let d := { d with err := { d.err with droop := SMap.set 0 d.err.droop dom n } }
  if excess then (d.addF .ERR_DROOP_OVER 1).postFirst .DROOP_EXCESS 0 0 dom else d

/-- The hottest sensor reads t degrees (R341). -/
def Dev.setTemp (d : Dev) (t : Nat) : Dev :=
  let t := min t 255
  (d.setF .ERR_THERM_TEMP t).setF .ERR_THERM_MAX (max t (d.f .ERR_THERM_MAX))

/-- TEMP_HIGH: the hottest sensor reaches WARN for the first time since it was armed (R341). -/
def Dev.tempHigh (d : Dev) (t : Nat) : Dev :=
  let d := d.setTemp t
  if d.err.tempArmed && decide (d.f .ERR_THERM_WARN ≤ t) then
    ({ d with err := { d.err with tempArmed := false } }).post .TEMP_HIGH else d

/-- TEMP_BELOW_WARN: the sensor has fallen 5 degrees below WARN (R341). -/
def Dev.tempBelow (d : Dev) (t : Nat) : Dev :=
  let d := d.setTemp t
  if t + 5 ≤ d.f .ERR_THERM_WARN then { d with err := { d.err with tempArmed := true } } else d

/-- THERM_TRIP: a sensor reaches 115 degrees: reported, and THERMTRIP_N asserted until COLD_RESET_N (R341, R377). -/
def Dev.thermTrip (d : Dev) (t : Nat) : Dev :=
  let d := d.setTemp t
  if t < 115 || d.pins.therm || d.boot.cold then d
  else ({ d with pins := { d.pins with therm := true } }).post .THERM_TRIP

/-- VDD_CORE_TARGET_STEP: the hottest sensor crosses a multiple of 10 degrees after stage 2: one step of 5 mV, at most one
per 2^20 counts, within 680 to 800 mV (R371, Table 20.2); the direction is the device's own (log 20). -/
def Dev.vddStep (d : Dev) (t : Nat) (up : Bool) : Dev :=
  let crossed := d.f .ERR_THERM_TEMP / 10 ≠ t / 10
  let free := match d.boot.vddAt with
    | none => true
    | some c => c + 2 ^ 20 ≤ d.count
  let new := if up then d.boot.vdd + 5 else d.boot.vdd - 5
  let go := decide crossed && free && decide (3 ≤ d.stage) && decide (680 ≤ new ∧ new ≤ 800)
  let d := d.setTemp t
  if go then { d with boot := { d.boot with vdd := new, vddAt := some d.count } }
  else d

/-! ## The mesh and the scrub (R19, R219) -/

/-- MESH_CRC: reported and counted; a command's flit kills the command, a control-space read returns zero (R19). -/
def Dev.meshCrc (d : Dev) (stop : Nat) (id : Option Nat) (read : Option Nat) : Dev :=
  let d := (d.addF .ERR_MESH_CRC 1).rateEvent 7 0 1
  let d := match id with
    | some i => (d.postCmd i .MESH_CRC Status.faultData.num 0 stop).failCmd i .faultData
    | none => d.post .MESH_CRC 0 stop
  match read with
  | some n => d.emit (.readData n 0)
  | none => d

/-- The physical address of line k of a stack (R203). -/
def stackLine (stack k : Nat) : Nat := (k / 64 * 8 + stack) * 4096 + k % 64 * 64

/-- The lines of one stack. -/
def stackLines : Nat := 402653184

/-- SCRUB: the controller reads the next line of its stack in the background; what it finds is counted and reported as a
read's, and kills nothing; a corrected line is rewritten unchanged if WRITEBACK is set (R219). -/
def Dev.scrub (d : Dev) (stack : Nat) (found : ScrubFinding) : Dev :=
  if !d.flag .TIER_SCRUB_ENABLE || decide (d.stage < 8) then d
  else
    let k := SMap.get 0 d.mem.scrub stack
    let a := stackLine stack k
    let d := { d with mem := { d.mem with scrub := SMap.set 0 d.mem.scrub stack ((k + 1) % stackLines) } }
    if (a / 65536) ∈ d.mem.frames then d
    else if a ∈ d.mem.hbmBad then d.hbmUe none a
    else
      match found with
      | .clean => d
      | .corrected => (d.addF .TIER_HBM_ERR_CORRECTED 1 stack).rateEvent 0 stack 1
      | .uncorrectable => ({ d with mem := { d.mem with hbmBad := d.mem.hbmBad ++ [a] } }).hbmUe none a

/-! ## Meanings -/

/-- ERROR_REPORT_WRITE. -/
def execErrorReportWrite (s : State) : Host.Outcome State Fault Refusal := s.act Dev.writeReport

/-- ERR_Q_CFG. -/
def execErrQCfg (ap : Aperture) (v : BitVec 32) (s : State) : Host.Outcome State Fault Refusal :=
  s.act (fun d => d.hostWrite ap .ERR_Q_CFG 0 0 (fun d => d.errCfg ap v))

/-- ERR_Q_HEAD. -/
def execErrQHead (ap : Aperture) (v : BitVec 32) (s : State) : Host.Outcome State Fault Refusal :=
  s.act (fun d => d.hostWrite ap .ERR_Q_HEAD 0 0 (fun d => d.errHead v.toNat))

/-- ERR_REPLACE_CLEAR: a write of ERR_REPLACE. -/
def execErrReplaceClear (ap : Aperture) (v : BitVec 32) (s : State) : Host.Outcome State Fault Refusal :=
  s.act (fun d => d.hostWrite ap .ERR_REPLACE 0 0 (fun d => d.plainWrite .ERR_REPLACE (v.zeroExtend 64)))

/-- CONSERVATION_CHECK: at a count whose bits [19:0] are zero (R331). -/
def execConservationCheck (s : State) : Host.Outcome State Fault Refusal :=
  s.engine (fun d => if d.count % 2 ^ 20 = 0 then d.conserve none else d)

/-- ERR_RATE. -/
def execErrRate (kind : Fin 8) (item n : Nat) (s : State) : Host.Outcome State Fault Refusal :=
  s.act (fun d => d.rateRow kind item n)

/-- RATE_WINDOW_END. -/
def execRateWindowEnd (s : State) : Host.Outcome State Fault Refusal := s.act Dev.rateEnd

/-- REPLACE_REQ. -/
def execReplaceReq (s : State) : Host.Outcome State Fault Refusal := s.act Dev.replaceReq

/-- DROOP_STRETCH. -/
def execDroopStretch (dom : Fin 231) (excess : Bool) (s : State) : Host.Outcome State Fault Refusal :=
  s.act (fun d => d.droop dom excess)

/-- TEMP_HIGH. -/
def execTempHigh (t : Nat) (s : State) : Host.Outcome State Fault Refusal := s.act (fun d => d.tempHigh t)

/-- TEMP_BELOW_WARN. -/
def execTempBelowWarn (t : Nat) (s : State) : Host.Outcome State Fault Refusal := s.act (fun d => d.tempBelow t)

/-- THERM_TRIP. -/
def execThermTrip (t : Nat) (s : State) : Host.Outcome State Fault Refusal := s.act (fun d => d.thermTrip t)

/-- VDD_CORE_TARGET_STEP. -/
def execVddCoreTargetStep (t : Nat) (up : Bool) (s : State) : Host.Outcome State Fault Refusal :=
  s.act (fun d => d.vddStep t up)

/-- MESH_CRC. -/
def execMeshCrc (stop : Fin 256) (id : Option Nat) (read : Option (Fin 9)) (s : State) :
    Host.Outcome State Fault Refusal :=
  s.act (fun d => d.meshCrc stop id (read.map Fin.val))

/-- SCRUB. -/
def execScrub (stack : Fin 8) (found : ScrubFinding) (s : State) : Host.Outcome State Fault Refusal :=
  s.engine (fun d => d.scrub stack found)

end Sys2Proof.Machine
end

