-- ==== Sys2Proof/Machine/Placement.lean ====
section
/-! DEFINITION. PLACE: the placements a command makes, their checks, the move of current versions and the commit
(R208 to R210), and the release of superseded versions (R59, R121). -/

namespace Sys2Proof.Machine

/-! ## ARGS (Table 10.3) -/

/-- TIER of a PLACE. -/
def Cmd.placeTier (c : Cmd) : Nat := c.arg 3 0 2
/-- VERSIONS_M1 of a PLACE. -/
def Cmd.placeVersions (c : Cmd) : Nat := c.arg 3 2 2
/-- MOVE of a PLACE. -/
def Cmd.placeMove (c : Cmd) : Bool := c.arg 3 4 1 = 1
/-- SIZE_64 of a PLACE. -/
def Cmd.placeSize (c : Cmd) : Nat := c.arg 4 0 32
/-- BASE of a PLACE. -/
def Cmd.placeBase (c : Cmd) : Nat := c.arg 8 0 48
/-- ARRAY of a PLACE. -/
def Cmd.placeArray (c : Cmd) : Nat := c.arg 14 0 8
/-- WIDTH of a PLACE's stripe. -/
def Cmd.placeWidth (c : Cmd) : Nat := 2 ^ c.arg 15 6 2

/-! ## Whole versions -/

/-- The arrays of a version's stripe; 1 where it is none. -/
def Version.width (v : Version) : Nat := if v.entry.tier = 2 then v.entry.widthM1 + 1 else 1

/-- The bytes of a version, over all its members. -/
def Version.total (v : Version) : Nat := v.entry.size * v.width

/-- Read one member's bytes of a version. -/
def readMember (v : Version) (m : Nat) : Op (List Byte) := Op.mem (fun d => d.verReadM v m 0 v.entry.size)

/-- Read a version whole, member after member. -/
def readWhole (v : Version) : Op (List Byte) := do
  let parts ← (List.range v.width).mapM (readMember v)
  return parts.flatten


/-- The bytes of every member of a version. -/
def readImages (v : Version) : Op (List (List Byte)) := (List.range v.width).mapM (readMember v)

/-- A tile-form matrix object as the bytes of its members hold it: its shape, and its records in directory order. -/
structure MatrixImage where
  rows : Nat
  cols : Nat
  fmt : Nat
  scaled : Bool
  colblk : Bool
  records : List (List Byte)
  deriving DecidableEq, Repr

/-- The tile-form matrix object that some bytes hold, if they hold one: a header as Table 8.4 has it, and every record of the
directory within the bytes of the member that R210 gives its tile column. -/
def matrixOfImages (imgs : List (List Byte)) : Option MatrixImage :=
  let head := imgs.headD []
  let n := leNat (head.take 64)
  let (rows, cols, fmt) := (field n 0 0 32, field n 4 0 32, field n 8 0 3)
  let (scaled, colblk) := (decide (field n 8 3 1 = 1), decide (field n 8 4 1 = 1))
  let tc := ceilDiv cols 256
  let tiles := ceilDiv rows 32 * tc
  let image := fun (k : Nat) => imgs.getD (k % tc % imgs.length) []
  let span := fun (k : Nat) => (leAt (image k) (64 + 8 * k) 4 * 64, leAt (image k) (68 + 8 * k) 4)
  if rows = 0 ∨ cols = 0 ∨ scaledOkTile fmt scaled = false ∨ field n 12 0 32 ≠ tiles ∨ field n 16 0 32 ≠ 64 ∨
    head.length < 64 + 8 * tiles then none
  else if (List.range tiles).all (fun k => decide ((span k).1 + (span k).2 ≤ (image k).length)) then
    some ⟨rows, cols, fmt, scaled, colblk, (List.range tiles).map (fun k => slice (image k) (span k).1 (span k).2)⟩
  else none

/-- Copy the bytes of a version into a buffer as they are. Between placements of different widths only a tile-form matrix
object can go, each of its records to the member that holds it there; anything else is refused a stripe (R210, R211). -/
def copyImages (imgs : List (List Byte)) (dst : Version) : Op Unit :=
  match matrixOfImages imgs with
  | some g =>
    if imgs.length = dst.width then
      (List.range dst.width).forM (fun m => Op.mem (fun d => d.verWriteM dst m 0 (imgs.getD m [])))
    else writeMatrix dst g.rows g.cols g.fmt g.scaled g.colblk g.records
  | none => do
    need dst.unstriped (stripeFault dst.obj)
    wr dst 0 imgs.flatten

/-- Copy a version into a buffer. -/
def copyVersion (src dst : Version) : Op Unit := do copyImages (← readImages src) dst

/-! ## Placements (R208, R209) -/

/-- The staging bytes of a partition's arrays (R212). -/
def Dev.stageBytes (d : Dev) (p : Nat) : Nat := d.f .TIER_PART_CFG_STAGE_64K p * 65536

/-- The arrays that object i of a PLACE takes: WIDTH enabled arrays of the partition, after the first i × WIDTH at or
after ARRAY (R208). -/
def Dev.placeMembers (d : Dev) (c : Cmd) (i : Nat) : List Nat :=
  (((d.liveArrays c.part).filter (fun n => decide (c.placeArray ≤ n))).drop (i * c.placeWidth)).take c.placeWidth

/-- The entry that object i of a PLACE will have, with no current version yet (R208). -/
def Dev.placeEntry (d : Dev) (c : Cmd) (i : Nat) : ObjEntry :=
  let n := c.placeSize
  match c.placeTier with
  | 1 => { tier := 1, versionsM1 := c.placeVersions, size64 := n, base := c.placeBase + i * (c.placeVersions + 1) * n * 64 }
  | 2 =>
    let ms := d.placeMembers c i
    { tier := 2, versionsM1 := c.placeVersions, size64 := n, base := c.placeBase, array := ms.headD 0
      widthM1 := c.placeWidth - 1, members := ms }
  | _ => {}

/-- A placement stays within the quotas, with what the parts before it take (R209). -/
def Dev.quotaOk (d : Dev) (p hbm slab : Nat) (e : ObjEntry) : Bool :=
  let qh := d.f .TIER_QUOTA_HBM_64K p * 65536
  let qs := d.f .TIER_QUOTA_SLAB_KIB p * 1024
  (qh == 0 || e.hbmBytes == 0 || decide (d.useHbm p + hbm + e.hbmBytes ≤ qh)) &&
  (qs == 0 || e.slabBytes == 0 || decide (d.useSlab p + slab + e.slabBytes ≤ qs))

/-- The checks of part i of a PLACE, with the bytes that earlier parts take; its version is held as an input where it
moves (R209). -/
def placePart (id : Nat) (c : Cmd) (i hbm slab : Nat) : Op ObjEntry := do
  let d ← get
  let obj := c.placeRange.1 + i
  need (obj < d.tableSize c.part) (.report .faultProt .TIER_HANDLE 0 obj)
  let old ← Op.mem (fun d => (d, d.entry c.part obj))
  let e := d.placeEntry c i
  need (e.tier ≠ 2 || (e.members.length == c.placeWidth &&
    decide (e.base + (e.versionsM1 + 1) * e.size ≤ 4194304 - d.stageBytes c.part))) (.report .faultProt .TIER_PLACE 0 obj)
  need (d.quotaOk c.part hbm slab e) (.report .quota .TIER_QUOTA 0 obj)
  if c.placeMove then
    match old with
    | some o =>
      let v : Version := ⟨c.part, obj, o, o.cur⟩
      need (o.placed && o.hasCur && decide (v.total ≤ e.size * (e.widthM1 + 1))) (.report .faultData .TIER_PLACE 0 obj)
      Op.act (fun d => d.updCmd id (fun c => { c with inputs := c.inputs ++ [v] }))
    | none => throw (.report .faultData .TIER_PLACE 0 obj)
  return e

/-- The parts of a PLACE from i on, each checked by itself. -/
def Dev.placeParts (d : Dev) (id : Nat) (c : Cmd) : Nat → Nat → Nat → Nat → Dev
  | 0, _, _, _ => d
  | n + 1, i, hbm, slab =>
    match (placePart id c i hbm slab).run.run d with
    | (.ok e, d) =>
      let d := { d with mem := { d.mem with places := d.mem.places ++ [(id, c.placeRange.1 + i, e)] } }
      d.placeParts id c n (i + 1) (hbm + e.hbmBytes) (slab + e.slabBytes)
    | (.error f, d) => (d.failWith id i f).placeParts id c n (i + 1) hbm slab

/-- A PLACE launches: every part is checked (R209). -/
def placeStart (id : Nat) : Op Unit := do
  match (← get).cmd? id with
  | none => pure ()
  | some c =>
    Op.act (fun d => d.updCmd id (fun c => { c with parts := c.placeRange.2 }))
    Op.act (fun d => d.placeParts id c c.placeRange.2 0 0 0)

/-- The placements a command will make. -/
def Dev.placesOf (d : Dev) (id : Nat) : List (Nat × ObjEntry) :=
  (d.mem.places.filter (fun e => e.1 == id)).map Prod.snd

/-- PLACE: the copy engine moves current versions into the new placements; the command is then ready to commit. -/
def Dev.placeRun (d : Dev) (id : Nat) : Dev :=
  match d.cmd? id with
  | none => d
  | some c =>
    if !c.running || c.ready || c.opcode ≠ 8 then d
    else
      let d := if !c.placeMove then d
        else (d.placesOf id).foldl (fun d e => match c.input e.1 with
          | some v => d.work id (e.1 - c.placeRange.1) (copyVersion v ⟨c.part, e.1, e.2, 0⟩)
          | none => d) d
      d.finish id

/-- A placement takes effect: the entry is rewritten, what was current is superseded, and the charge follows
(R207, R209). -/
def Dev.commitPlace (d : Dev) (c : Cmd) (obj : Nat) (e : ObjEntry) : Except MemErr Dev :=
  match d.entry c.part obj with
  | .error er => .error er
  | .ok none => .ok d
  | .ok (some o) =>
    let e := { e with gen := (o.gen + 1) % 2 ^ 32, hasCur := c.placeMove && e.placed }
    match d.setEntry c.part obj e with
    | .error er => .error er
    | .ok d =>
      let d := if o.placed && o.hasCur then d.supersede ⟨c.part, obj, o, o.cur⟩ else d
      .ok (d.charge c.part obj e)

/-- Every placement of a PLACE. -/
def Dev.commitPlaces (d : Dev) (c : Cmd) : List (Nat × ObjEntry) → Except MemErr Dev
  | [] => .ok d
  | e :: es =>
    match d.commitPlace c e.1 e.2 with
    | .error er => .error er
    | .ok d => d.commitPlaces c es

/-- A command's planned placements are forgotten. -/
def Dev.dropPlaces (d : Dev) (id : Nat) : Dev :=
  { d with mem := { d.mem with places := d.mem.places.filter (fun e => e.1 != id) } }

/-! ## Release of versions (R59, R121, R207, R209) -/

/-- The grain table of a released version is classified once (R121). -/
def Dev.classify (d : Dev) (v : Version) : Dev :=
  match d.xe.tabs.find? (fun t => t.ver.sameBuf v) with
  | none => d
  | some t =>
    let d := { d with xe := { d.xe with tabs := d.xe.tabs.erase t } }
    let d := d.subF .XE_OUTSTANDING_OUTSTANDING t.routed v.part
    if t.delivered then d.addF .XE_DELIVERED_DELIVERED t.routed v.part
    else if t.killed then d.addF .XE_KILLED_KILLED t.routed v.part
    else d.addF .XE_FLUSHED_FLUSHED t.routed v.part

/-- A superseded version is released. -/
def Dev.releaseVer (d : Dev) (s : Superseded) : Dev :=
  let d := { d with mem := { d.mem with superseded := d.mem.superseded.erase s } }
  (d.classify s.ver).settleCharges s.ver.part

/-- Release every superseded version that no launched command reads. -/
def Dev.releaseAll (d : Dev) : Dev :=
  (d.mem.superseded.filter (fun s => !d.readBy s.ver)).foldl Dev.releaseVer d

/-- VERSION_RELEASE of a superseded version of an object in a buffer. -/
def Dev.versionRelease (d : Dev) (p obj buf : Nat) : Dev :=
  match d.mem.superseded.find? (fun s => s.ver.part == p && s.ver.obj == obj && s.ver.buf == buf && !d.readBy s.ver) with
  | none => d
  | some s => d.releaseVer s

/-! ## Meanings -/

/-- PLACE. -/
def execPlace (id : Nat) (s : State) : Host.Outcome State Fault Refusal := s.engine (fun d => d.placeRun id)

/-- VERSION_RELEASE. -/
def execVersionRelease (p : Fin 16) (obj : BitVec 24) (buf : Fin 4) (s : State) : Host.Outcome State Fault Refusal :=
  s.act (fun d => d.versionRelease p obj.toNat buf)

end Sys2Proof.Machine
end

