-- ==== Sys2Proof/Machine/Copies.lean ====
section
/-! DEFINITION. The copy engine: COPY between objects and host memory (R211), weight streams (R233, R234) and
LOAD_PROGRAM (R367, R368). -/

namespace Sys2Proof.Machine

/-! ## ARGS (Table 10.4, Table 11.2, R367) -/

/-- MODE of a COPY. -/
def Cmd.mode (c : Cmd) : Nat := c.arg 0 0 3
/-- STREAM of a COPY of mode 3 or 4. -/
def Cmd.stream (c : Cmd) : Nat := c.arg 1 0 8
/-- FIRST_SEG. -/
def Cmd.firstSeg (c : Cmd) : Nat := c.arg 2 0 16
/-- LENGTH_64 of a COPY of mode 3 or 4, in bytes. -/
def Cmd.streamBytes (c : Cmd) : Nat := c.arg 4 0 32 * 64
/-- The host address of a COPY. -/
def Cmd.copyHost (c : Cmd) : Nat := c.arg 8 0 64
/-- HOST_ADDR of a LOAD_PROGRAM. -/
def Cmd.loadHost (c : Cmd) : Nat := c.arg 0 0 64
/-- LENGTH_64 of a LOAD_PROGRAM, in bytes. -/
def Cmd.loadBytes (c : Cmd) : Nat := c.arg 8 0 32 * 64

/-- TIER_SIZE for an object. -/
def sizeFault (obj : Nat) : Fail := .report .faultData .TIER_SIZE 0 obj

/-! ## COPY (R211) -/

/-- The bytes that a COPY of mode 1 reads from the host. -/
def Cmd.copyNeeds (c : Cmd) : Nat := match c.claimOf (c.outp 0) with | some k => k.ver.entry.size | none => 0

/-- A COPY of mode 0: the input's current version into the output's buffer. -/
def copyObject (id : Nat) (c : Cmd) : Op Unit := do
  let src ← inVer c (c.inp 0)
  let dst ← outVer c (c.outp 0)
  need (src.total == dst.total) (sizeFault dst.obj)
  copyVersion src dst
  Op.act (fun d => d.finish id)

/-- A COPY of mode 1: host memory's bytes into the output's buffer. -/
def copyIn (id : Nat) (c : Cmd) (data : List Byte) : Op Unit := do
  let dst ← outVer c (c.outp 0)
  copyImages [data] dst
  Op.act (fun d => d.finish id)

/-- A COPY of mode 2: the input's current version into host memory. -/
def copyOut (id : Nat) (c : Cmd) : Op Unit := do
  let src ← inVer c (c.inp 0)
  let bs ← readWhole src
  Op.act (fun d => (d.emitWrite c.copyHost bs).finish id)

/-- COPY of mode 0, 1 or 2; `data` is what the host's memory holds, for mode 1. A COPY that needs the host waits while
the host link is down. -/
def Dev.copy (d : Dev) (id : Nat) (data : List Byte) : Dev :=
  match d.cmd? id with
  | none => d
  | some c =>
    if !c.running || c.ready || c.opcode ≠ 7 then d
    else match c.mode with
      | 0 => d.work id 0 (copyObject id c)
      | 1 =>
        if !d.canWriteHost || data.length ≠ c.copyNeeds then d
        else (d.emitRead c.copyHost data.length).work id 0 (copyIn id c data)
      | 2 => if !d.canWriteHost then d else d.work id 0 (copyOut id c)
      | _ => d

/-! ## Weight streams (R233, R234) -/

/-- The billets of one segment: billet n carries 64 bytes of the stream (R233). -/
def segmentBillets (job stream seg mask : Nat) (bs : List Byte) : List Billet :=
  let n := ceilDiv bs.length 64
  (List.range n).map (fun i => mkBillet
    { tc := 5, job := job, tag := stream * 65536 + seg, seq := i, total := n, mask := some mask } (slice bs (64 * i) 64))

/-- Every segment of a range, in ascending order. -/
def streamBillets (job stream first mask : Nat) (bs : List Byte) : List Billet :=
  (List.range (ceilDiv bs.length 2097152)).flatMap (fun g =>
    segmentBillets job stream (first + g) mask (slice bs (2097152 * g) 2097152))

/-- The segments of a COPY of mode 3 or 4 go to the Switch Core, by the mask in IN1 (R233, R234). -/
def streamOut (id : Nat) (c : Cmd) (data : List Byte) : Op Unit := do
  let mask ← rdNat (← inVer c (c.inp 1)) 0 9
  let bs ← if c.mode = 3 then pure data
    else do
      let src ← inVer c (c.inp 0)
      need (c.streamBytes ≤ src.total) (sizeFault src.obj)
      let all ← readWhole src
      pure (all.take c.streamBytes)
  Op.act (fun d =>
    ((d.inject 42 (some (id, 0)) (streamBillets c.job c.stream c.firstSeg mask bs)).passPart id 0).pump)
  Op.act (fun d => if d.accepted id 0 then d.finish id else d)

/-- COPY of mode 3 or 4: its segments go to the Switch Core, and it is ready when every billet has been accepted
(R56, R234). -/
def Dev.copyStream (d : Dev) (id : Nat) (data : List Byte) : Dev :=
  match d.cmd? id with
  | none => d
  | some c =>
    if !c.running || c.ready || c.opcode ≠ 7 || c.mode < 3 then d
    else if c.passed.contains 0 then (if d.accepted id 0 then d.finish id else d.pump)
    else if c.mode = 3 && (!d.canWriteHost || data.length ≠ c.streamBytes) then d
    else
      let d := if c.mode = 3 then d.emitRead c.copyHost data.length else d
      d.work id 0 (streamOut id c data)

/-! ## LOAD_PROGRAM (R367, R368) -/

/-- The entries of a program image: object and byte offset; none where ENTRIES is out of range or the image is shorter
than its entries. -/
def imageEntries (data : List Byte) : Option (List (Nat × Nat)) :=
  let n := leAt data 2 2
  if leAt data 0 2 ≠ 1 ∨ n = 0 ∨ 4096 < n ∨ data.length < 64 + 16 * n then none
  else some ((List.range n).map (fun i => (leAt data (64 + 16 * i) 3, leAt data (68 + 16 * i) 4 * 64)))

/-- What an entry's object claims: nothing where it is unplaced, or where its claim must wait (R206). -/
def Dev.loadWaits (d : Dev) (id p obj : Nat) : Bool :=
  match d.entry p obj with
  | .ok (some e) => e.placed && (d.claimBuf id p obj e).isNone
  | _ => false

/-- One entry of a program image: its checks, its claim and its copy (R367). -/
def loadEntry (id i : Nat) (c : Cmd) (entries : List (Nat × Nat)) (data : List Byte) : Op Unit := do
  let (obj, off) := entries.getD i (0, 0)
  need (!((entries.take i).any (fun e => e.1 == obj))) (sizeFault obj)
  let e ← Op.mem (fun d => (d, d.entry c.part obj))
  let d ← get
  match e.bind (fun e => if e.placed then some e else none) with
  | none => throw (.report .faultProt .TIER_HANDLE 0 obj)
  | some e =>
    match d.claimBuf id c.part obj e with
    | none => pure ()
    | some b =>
      let v : Version := ⟨c.part, obj, e, b⟩
      set (d.updCmd id (fun c => { c with claims := c.claims ++ [⟨v, false, false⟩] }))
      need (off + e.size ≤ data.length) (sizeFault obj)
      need (v.width == 1) (stripeFault obj)
      wr v 0 (slice data off e.size)

/-- LOAD_PROGRAM: the image arrives from host memory; each entry is one part. The command stays at its launch, and later ones of
its queue behind it, while an object has no buffer to claim or the host link is down (R206; log 66). -/
def Dev.loadProgram (d : Dev) (id : Nat) (data : List Byte) : Dev :=
  match d.cmd? id with
  | none => d
  | some c =>
    if !c.running || c.ready || c.opcode ≠ 10 || !d.canWriteHost || data.length ≠ c.loadBytes then d
    else
      match imageEntries data with
      | none => (d.emitRead c.loadHost data.length).work id 0 (throw (sizeFault 0))
      | some entries =>
        if entries.any (fun e => d.loadWaits id c.part e.1) then
          d.updCmd id (fun c => { c with heldAt := some (c.heldAt.getD d.count) })
        else
          let d := d.emitRead c.loadHost data.length
          let d := d.addF .CMD_ACCT_WAIT_WAIT (d.count - c.launchAt) c.queue
          let d := d.updCmd id (fun c =>
            { c with parts := entries.length, heldAt := none, launchAt := d.count, step := d.f .RING_STEP_STEP c.part })
          let d := (List.range entries.length).foldl (fun d i => d.work id i (loadEntry id i c entries data)) d
          d.finish id

/-! ## Meanings -/

/-- COPY. -/
def execCopy (id : Nat) (data : List Byte) (s : State) : Host.Outcome State Fault Refusal := s.engine (fun d => d.copy id data)

/-- COPY_STREAM. -/
def execCopyStream (id : Nat) (data : List Byte) (s : State) : Host.Outcome State Fault Refusal :=
  s.engine (fun d => d.copyStream id data)

/-- LOAD_PROGRAM. -/
def execLoadProgram (id : Nat) (data : List Byte) (s : State) : Host.Outcome State Fault Refusal :=
  s.engine (fun d => d.loadProgram id data)

end Sys2Proof.Machine
end

