-- ==== Sys2Proof/Machine/Swaps.lean ====
section
/-! DEFINITION. Model swap: the load list and its checks, swap contexts, weight billets, verification, and what the switch
writes (R235 to R241). -/

namespace Sys2Proof.Machine

/-- SWITCH_AT of a SWAP (R236). -/
def Cmd.switchAt (c : Cmd) : Nat := c.arg 0 0 64

/-- SWAP_LIST with an entry index (R237). -/
def swapFault (i : Nat) : Fail := .report .faultData .SWAP_LIST 0 i

/-- A load list: object, stream, offset and digest of each entry (Table 11.4). -/
def loadList (v : Version) : Op (List (Nat × Nat × Nat × BitVec 512)) := do
  need (64 ≤ v.entry.size) (swapFault 0)
  let n ← rdNat v 0 4
  need (1 ≤ n && n ≤ 16384 && decide (64 + 96 * n ≤ v.entry.size)) (swapFault 0)
  let bs ← rd v 64 (96 * n)
  return (List.range n).map (fun i =>
    (leAt bs (96 * i) 3, leAt bs (96 * i + 4) 1, leAt bs (96 * i + 8) 8, BitVec.ofNat 512 (leAt bs (96 * i + 32) 64)))

/-! ## Contexts -/

/-- The swap context with a number. -/
def Dev.swap? (d : Dev) (k : Nat) : Option SwapCtx := d.swaps.find? (fun x => x.ctx == k)

/-- Change a swap context. -/
def Dev.updSwap (d : Dev) (k : Nat) (g : SwapCtx → SwapCtx) : Dev :=
  { d with swaps := mapIf (fun x => x.ctx == k) g d.swaps }

/-- A swap context that no SWAP holds (R237). -/
def Dev.freeSwap (d : Dev) : Option Nat := (List.range 4).find? (fun k => d.swaps.all (fun x => x.ctx != k))

/-- A SWAP launches: it takes a context; its claims on the listed objects are made beside it (R237). -/
def swapStart (id : Nat) : Op Unit := do
  let d ← get
  match d.cmd? id, d.freeSwap with
  | some c, some k => do
    let list ← loadList (← inVer c (c.inp 0))
    let entries ← list.mapM (fun e => do
      let v ← outVer c e.1
      return ({ obj := e.1, stream := e.2.1, offset := e.2.2.1, digest := e.2.2.2, ver := v, verified := false } : SwapEntry))
    Op.act (fun d => d.updCmd id (fun c => { c with parts := entries.length }))
    Op.act (fun d => { d with swaps := d.swaps ++ [
      { ctx := k, id := id, job := c.job, part := c.part, entries := entries, open_ := false, full := [], segs := [] }] })
    Op.act (fun d => ((((d.setReg .TIER_SWAP_CTX 0 k).setF .TIER_SWAP_CTX_BUSY 1 k).setF .TIER_SWAP_CTX_PARTITION c.part k).setF
      .TIER_SWAP_TAG_TAG c.tag k).setF .TIER_SWAP_BYTES_BYTES 0 k)
  | _, _ => pure ()

/-- A SWAP's context is freed. -/
def Dev.endSwap (d : Dev) (id : Nat) : Dev :=
  match d.swaps.find? (fun x => x.id == id) with
  | none => d
  | some x =>
    let d := { d with swaps := d.swaps.filter (fun y => y.id != id) }
    (d.setReg .TIER_SWAP_CTX 0 x.ctx).setF .TIER_SWAP_TAG_TAG 0 x.ctx

/-- The byte range of an entry within its stream. -/
def SwapEntry.range (e : SwapEntry) : Nat × Nat := (e.offset, e.ver.entry.size)

/-- Two entries of one stream overlap. -/
def SwapEntry.overlaps (a b : SwapEntry) : Bool :=
  a.stream == b.stream && decide (a.offset < b.offset + b.range.2 ∧ b.offset < a.offset + a.range.2)

/-- The first entry that meets a test of it and of the entries before it. -/
def firstBad (p : List SwapEntry → SwapEntry → Bool) (l : List SwapEntry) : Option Nat :=
  (List.range l.length).find? (fun i => match l[i]? with
    | some e => p (l.take i) e
    | none => false)

/-- The cases of R237, in their order. -/
def SwapCtx.badEntry (x : SwapCtx) (model : Nat) (others : List SwapCtx) : Option Nat :=
  let held := others.flatMap (fun y => y.entries.map (fun e => (y.job, e.stream)))
  [ firstBad (fun before e => e.obj == model || before.any (fun b => b.obj == e.obj)) x.entries
  , firstBad (fun _ e => e.ver.width != 1 || e.offset % 64 != 0) x.entries
  , firstBad (fun before e => before.any e.overlaps) x.entries
  , firstBad (fun before e => decide (16 < ((before ++ [e]).map SwapEntry.stream).dedup.length)) x.entries
  , firstBad (fun _ e => held.contains (x.job, e.stream)) x.entries ].findSome? (fun r => r)

/-- SWAP: its list is checked, and its context then takes weight billets (R237). -/
def Dev.swapCheck (d : Dev) (id : Nat) : Dev :=
  match d.cmd? id, d.swaps.find? (fun x => x.id == id) with
  | some c, some x =>
    if !c.running || x.open_ then d
    else
      match x.badEntry (c.outp 0) (d.swaps.filter (fun y => y.id != id)) with
      | some i => (d.postCmd id .SWAP_LIST Status.faultData.num 0 i).failCmd id .faultData
      | none => d.updSwap x.ctx (fun x => { x with open_ := true })
  | _, _ => d

/-! ## Weight billets (R238) -/

/-- STREAM of a weight billet (Table 11.1). -/
def wStream (b : Billet) : Nat := bits (bTag b) 16 8
/-- SEGMENT of a weight billet (Table 11.1). -/
def wSeg (b : Billet) : Nat := bits (bTag b) 0 16

/-- Some listed range of the context reaches into a segment of a stream (R238). -/
def SwapCtx.covers (x : SwapCtx) (stream seg : Nat) : Bool :=
  x.entries.any (fun e => e.stream == stream &&
    decide (e.offset < (seg + 1) * 2097152 ∧ seg * 2097152 < e.offset + e.range.2))

/-- The context that a weight billet matches: a SWAP's of the billet's job (R238). -/
def Dev.swapFor (d : Dev) (b : Billet) : Option SwapCtx :=
  d.swaps.find? (fun x => x.job == bJob b && x.covers (wStream b) (wSeg b))

/-- A billet can be dealt with: a ninth open segment's waits, and so does one whose context's list is not checked yet. -/
def Dev.weightReady (d : Dev) (b : Billet) : Bool :=
  match d.swapFor b with
  | none => true
  | some x => x.open_ &&
    (x.full.contains (wStream b, wSeg b) || x.segs.any (fun s => s.stream == wStream b && s.seg == wSeg b) ||
      decide (x.segs.length < 8))

/-- Write a billet's 64 bytes into the buffer of the entry that covers them; bytes that none covers are discarded. -/
def Dev.weightWrite (d : Dev) (x : SwapCtx) (b : Billet) : Dev :=
  let at_ := wSeg b * 2097152 + 64 * bSeq b
  match x.entries.zipIdx.find? (fun e => e.1.stream == wStream b && decide (e.1.offset ≤ at_ ∧ at_ < e.1.offset + e.1.range.2)) with
  | none => d
  | some (e, i) => d.work x.id i (do
      wr e.ver (at_ - e.offset) (bPayload b)
      Op.act (fun d => d.addF .TIER_SWAP_BYTES_BYTES 64 x.ctx))

/-- A weight billet of a context: a duplicate, or a new one of its segment. -/
def Dev.weightTake (d : Dev) (x : SwapCtx) (b : Billet) : Dev :=
  let key := (wStream b, wSeg b)
  let mine := fun (s : SwapSeg) => s.stream == key.1 && s.seg == key.2
  let got := ((x.segs.find? mine).map SwapSeg.got).getD []
  if x.full.contains key || got.contains (bSeq b) then d.addF .TIER_SWAP_DUP_DUP 1 x.ctx
  else
    let got := got ++ [bSeq b]
    let d := d.updSwap x.ctx (fun x =>
      let rest := x.segs.filter (fun s => !mine s)
      if got.length = bTotal b then { x with full := x.full ++ [key], segs := rest }
      else { x with segs := rest ++ [⟨key.1, key.2, got⟩] })
    d.weightWrite x b

/-- WEIGHT_BILLET: the next weight billet at the copy engine's port that need not wait (R238). -/
def Dev.weightBillet (d : Dev) : Dev :=
  match d.takeInbox (fun a => a.port == 42 && d.weightReady a.b) with
  | none => d
  | some (a, d) =>
    match d.swapFor a.b with
    | some x => d.weightTake x a.b
    | none => (d.addF .TIER_SWAP_ORPHAN_ORPHAN 1).postFirst .SWAP_ORPHAN 0 0 0 { job := bJob a.b, part := d.partOf (bJob a.b) }

/-! ## Verification (R239) -/

/-- Every segment that covers an entry is complete. -/
def SwapCtx.arrived (x : SwapCtx) (e : SwapEntry) : Bool :=
  let first := e.offset / 2097152
  let last := (e.offset + e.range.2 - 1) / 2097152
  (List.range (last + 1 - first)).all (fun i => x.full.contains (e.stream, first + i))

/-- Slot B is ready: every entry is verified (R239). -/
def SwapCtx.ready (x : SwapCtx) : Bool := x.entries.all SwapEntry.verified

/-- The hash of entry i of a context is compared with its digest (R239). -/
def verifyEntry (k i : Nat) (e : SwapEntry) : Op Unit := do
  let bs ← rd e.ver 0 e.ver.entry.size
  need (BitVec.ofNat 512 (leNat (sha512 bs)) == e.digest) (.report .faultData .SWAP_DIGEST 0 i)
  Op.act (fun d => d.updSwap k (fun x =>
    { x with entries := x.entries.zipIdx.map (fun y => if y.2 = i then { y.1 with verified := true } else y.1) }))
  Op.act (fun d => d.addF .TIER_SWAP_CTX_VERIFIED 1 k)
  Op.act (fun d => if (d.swap? k).any SwapCtx.ready then d.setF .TIER_SWAP_CTX_READY 1 k else d)

/-- SWAP_VERIFY: a unit finishes the hash of an object. -/
def Dev.swapVerify (d : Dev) (k i : Nat) : Dev :=
  match d.swap? k with
  | none => d
  | some x =>
    match x.entries[i]?, d.cmd? x.id with
    | some e, some c =>
      if !c.running || !x.open_ || e.verified || !x.arrived e then d
      else d.work x.id i (verifyEntry k i e)
    | _, _ => d

/-! ## The switch (R235, R240, R241) -/

/-- A model object's new bytes: ACTIVE, SWITCHES, STEP and COUNT (Table 11.3). -/
def modelBytes (old : Option (List Byte)) (step start : Nat) : List Byte :=
  let active := match old with | some bs => 1 - leAt bs 0 1 % 2 | none => 0
  let switches := match old with | some bs => leAt bs 4 4 + 1 | none => 1
  padTo 64 (leBytes 4 active ++ leBytes 4 (switches % 2 ^ 32) ++ leBytes 4 step ++ leBytes 4 0 ++ leBytes 8 start)

/-- Write the model object's new version into its claimed buffer. -/
def modelSwitch (c : Cmd) (step start : Nat) : Op Unit := do
  let v ← outVer c (c.outp 0)
  let old ← if v.entry.hasCur then some <$> rd { v with buf := v.entry.cur } 0 64 else pure none
  need (v.width == 1) (stripeFault v.obj)
  wr v 0 (modelBytes old step start)

/-- The active slot of a model object: 0 for none, and where it cannot be read (R93, R235). -/
def Dev.activeSlot (d : Dev) (p obj : Nat) : Nat :=
  if obj = 0 then 0
  else match d.entry p obj with
    | .ok (some e) =>
      if !e.placed || !e.hasCur then 0
      else match (d.verRead ⟨p, obj, e, e.cur⟩ 0 1).2 with
        | .ok bs => leNat bs % 2
        | .error _ => 0
    | _ => 0

/-! ## Meanings -/

/-- SWAP. -/
def execSwap (id : Nat) (s : State) : Host.Outcome State Fault Refusal := s.engine (fun d => d.swapCheck id)

/-- WEIGHT_BILLET. -/
def execWeightBillet (s : State) : Host.Outcome State Fault Refusal := s.engine Dev.weightBillet

/-- SWAP_VERIFY. -/
def execSwapVerify (k : Fin 4) (i : Nat) (s : State) : Host.Outcome State Fault Refusal := s.engine (fun d => d.swapVerify k i)

end Sys2Proof.Machine
end

