-- ==== Sys2Proof/Machine/Tiers.lean ====
section
/-! DEFINITION. Events of the memory tiers: folds by the near-memory adders, failed accesses, Landing requests and
registers, and the object tables' clear (R204, R215 to R223, R230 to R232, R390). -/

namespace Sys2Proof.Machine

/-! ## Folds (R59, R222, R223) -/

/-- A fold of the target, by another command, has neither committed nor been discarded; or an earlier command of the
queue with the same target has not completed (R59, R223). -/
def Dev.foldBlocked (d : Dev) (c : Cmd) (obj : Nat) : Bool :=
  d.cmds.any (fun k => k.id != c.id && k.part == c.part &&
    ((!k.ended && k.deltas.any (fun x => x.obj == obj && x.folded)) ||
     (decide (k.id < c.id) && k.queue == c.queue && k.claims.any (fun y => y.target && y.ver.obj == obj))))

/-- One folded element and whether it was flushed. -/
def foldElement (fl : Bool) (old delta : BitVec 32) : BitVec 32 × Nat :=
  let v := fadd false (flush32 fl old) (flush32 fl delta)
  (flush32 fl v, b2n (flushes fl v))

/-- Fold a delta into the target's claimed buffer: old values from the current version, or +0 (R222). -/
def foldDelta (c : Cmd) (x : Delta) : Op Unit := do
  let v ← outVer c x.obj
  let d ← get
  let fl := d.flush c.part
  let e ← Op.mem (fun d => (d, d.entry c.part x.obj))
  let old ← match e with
    | some e => if e.hasCur then some <$> rowTarget ⟨c.part, x.obj, e, e.cur⟩ else pure none
    | none => pure none
  let tr := ceilDiv x.rows 32
  let tc := ceilDiv x.cols 256
  let recs ← (List.range tr).mapM (fun i => (List.range tc).mapM (fun j => do
    let t ← match old with
      | some g => some <$> g.tile i j
      | none => pure none
    let rows := min 32 (x.rows - 32 * i)
    let cols := min 256 (x.cols - 256 * j)
    let ds ← (List.range rows).mapM (fun r =>
      Op.mem (fun d => (d, d.lndReads x.bufs (4 * ((32 * i + r) * x.cols + 256 * j)) (4 * cols))))
    let out := (List.range rows).flatMap (fun r => (List.range cols).map (fun k =>
      foldElement fl (match t with | some t => t.value false r k | none => 0#32)
        (BitVec.ofNat 32 (leAt (ds.getD r []) (4 * k) 4))))
    return ((⟨rows, cols, 0, false, false, out.map (fun o => o.1.toNat), []⟩ : Tile).encode, sumNat (out.map Prod.snd))))
  let recs := recs.flatten
  writeMatrix v x.rows x.cols 0 false false (recs.map (fun r => r.1.2))
  Op.act (fun d => (d.countStored (recs.map (fun r => r.1.1))).fmtEvents c.part { flushed := sumNat (recs.map Prod.snd) })
  Op.act (fun d => d.updCmd c.id (fun c => { c with deltas := mapIf (fun y => y.obj == x.obj) (fun y => { y with folded := true }) c.deltas }))

/-- NMA_FOLD: once every part has succeeded and the previous fold of the target is done (R222, R223). -/
def Dev.nmaFold (d : Dev) (id obj : Nat) : Dev :=
  match d.cmd? id with
  | none => d
  | some c =>
    match c.deltas.find? (fun x => x.obj == obj && !x.folded) with
    | none => d
    | some x => if !c.running || !c.ready || d.foldBlocked c obj then d else d.work id 0 (foldDelta c x)

/-! ## Failed accesses (R215, R217, R218, R390) -/

/-- A command that runs, or no command. -/
def Dev.alive (d : Dev) : Option Nat → Bool
  | none => true
  | some id => (d.cmd? id).any Cmd.running

/-- A failed access for part j of a command, or for none. -/
def Dev.accessFails (d : Dev) (id : Option Nat) (j : Nat) (e : MemErr) : Dev :=
  match id with
  | some i => d.memFail i j e
  | none => d.memReport none e

/-- XU_FAULT: an access of a command that the tables cannot translate (R215). -/
def Dev.xuEvent (d : Dev) (id j va : Nat) (write : Bool) : Dev :=
  match d.cmd? id with
  | none => d
  | some c =>
    if !c.running then d
    else match d.translate c.part va write with
      | (d, .error e) => d.memFail id j e
      | (d, .ok _) => d

/-- TIER_HBM_UE: a read of a line finds an uncorrectable error, which stays in the line (R217). -/
def Dev.hbmEvent (d : Dev) (id : Option Nat) (j addr : Nat) : Dev :=
  let line := addr / 64 * 64
  if !d.alive id || (d.physCheck line 64).isSome then d
  else
    let d := if d.mem.hbmBad.contains line then d else { d with mem := { d.mem with hbmBad := d.mem.hbmBad ++ [line] } }
    d.accessFails id j (.badLine line)

/-- TIER_SLAB_UE: a read of a slab word finds a double error, which stays in the word (R218). -/
def Dev.slabEvent (d : Dev) (id : Option Nat) (j arr off : Nat) : Dev :=
  let off := off / 8 * 8
  if !d.alive id || d.arrRetired arr then d
  else
    let k := slabKey arr off
    let d := if d.mem.slabBad.contains k then d else { d with mem := { d.mem with slabBad := d.mem.slabBad ++ [k] } }
    d.accessFails id j (.badWord arr off)

/-- TIER_PHYS_RANGE: an untranslated access beyond HBM (R390). -/
def Dev.rangeEvent (d : Dev) (id : Option Nat) (j addr : Nat) : Dev :=
  if !d.alive id || decide (addr < hbmEnd) then d else d.accessFails id j (.range addr)

/-! ## Landing (R231, R232) -/

/-- LANDING_ALLOC: a command's request is granted or refused at once; a refusal fails its part. -/
def Dev.lndRequest (d : Dev) (p k id : Nat) : Dev :=
  match d.cmd? id with
  | none => d
  | some c =>
    if !c.running || c.part ≠ p then d
    else match d.lndAlloc p k (.command id) with
      | (d, .ok _) => d
      | (d, .error st) => d.failPart id 0 st

/-- The user of a buffer is done with it: its command has ended, or needs no more buffers (R232). -/
def Dev.lndDone (d : Dev) (b : LndBuf) : Bool :=
  match b.user with
  | .command id =>
    match d.cmd? id with
    | none => true
    | some c => c.ended || (c.deltas.isEmpty && d.sv.ctxs.all (fun x => x.id != id || x.tailDone))
  | _ => false

/-- LANDING_RETURN: a buffer whose user is done with it returns, or is retired. -/
def Dev.lndGiveBack (d : Dev) (k idx : Nat) : Dev :=
  match d.lnd.held.find? (fun b => b.pool == k && b.idx == idx) with
  | none => d
  | some b => if d.lndDone b then d.lndReturn b else d

/-- TIER_LND_POOL: refused while any partition is valid; otherwise the pool is placed anew (R232). -/
def Dev.lndPool (d : Dev) (ap : Aperture) (k : Nat) (v : BitVec 64) : Dev :=
  if d.anyValid then d.refuseReg ap .TIER_LND_POOL k else (d.plainWrite .TIER_LND_POOL v k).lndPlace k

/-- TIER_LND_PART: refused where the reservations would exceed the pool (R231). -/
def Dev.lndPart (d : Dev) (ap : Aperture) (p k : Nat) (v : BitVec 32) : Dev :=
  let v := v.zeroExtend 64
  let others := sumNat (((List.range 16).filter (· ≠ p)).map (fun q => d.f .TIER_LND_PART_RESV q k))
  if d.lndCount k < others + Fld.TIER_LND_PART_RESV.of v then d.refuseReg ap .TIER_LND_PART p k
  else d.plainWrite .TIER_LND_PART v p k

/-! ## Object tables (R204) -/

/-- TIER_OBJTAB: refused while the partition holds a job; CLEAR starts a clear, and its placements stop being charged. -/
def Dev.objtab (d : Dev) (ap : Aperture) (p : Nat) (v : BitVec 64) : Dev :=
  if d.valid p then d.refuseReg ap .TIER_OBJTAB p
  else
    let d := d.plainWrite .TIER_OBJTAB v p
    if Fld.TIER_OBJTAB_CLEAR.of v = 0 then d
    else
      let d := { d with mem := { d.mem with
        charges := d.mem.charges.filter (fun c => c.part != p)
        clearing := d.mem.clearing.filter (fun (c : Nat × Nat × Nat) => c.1 != p) ++ [(p, d.entryAddr p 0, d.tableSize p * 32)] } }
      d.setF .TIER_OBJTAB_BUSY 1 p

/-- OBJTAB_CLEAR_DONE: every line of the table outside retired frames holds zeros (R204). -/
def Dev.objtabDone (d : Dev) (p : Nat) : Dev :=
  match d.mem.clearing.find? (fun c => c.1 == p) with
  | none => d
  | some (_, base, n) =>
    let gone := fun (a : Nat) => decide (base ≤ a ∧ a < base + n) && !d.mem.frames.contains (a / 65536)
    let d := { d with mem := { d.mem with
      hbm := d.mem.hbm.filter (fun e => !gone e.1), hbmBad := d.mem.hbmBad.filter (fun l => !gone l)
      clearing := d.mem.clearing.filter (fun (c : Nat × Nat × Nat) => c.1 != p)
      superseded := d.mem.superseded.filter (fun s => s.ver.part != p) } }
    (d.setF .TIER_OBJTAB_BUSY 0 p).settleCharges p

/-! ## Meanings -/

/-- NMA_FOLD. -/
def execNmaFold (id obj : Nat) (s : State) : Host.Outcome State Fault Refusal := s.engine (fun d => d.nmaFold id obj)

/-- XU_FAULT. -/
def execXuFault (id part : Nat) (va : BitVec 48) (write : Bool) (s : State) : Host.Outcome State Fault Refusal :=
  s.engine (fun d => d.xuEvent id part va.toNat write)

/-- TIER_HBM_UE. -/
def execTierHbmUe (id : Option Nat) (part : Nat) (addr : BitVec 40) (s : State) : Host.Outcome State Fault Refusal :=
  s.engine (fun d => d.hbmEvent id part addr.toNat)

/-- TIER_SLAB_UE. -/
def execTierSlabUe (id : Option Nat) (part : Nat) (arr : Fin 152) (off : BitVec 22) (s : State) :
    Host.Outcome State Fault Refusal :=
  s.engine (fun d => d.slabEvent id part arr off.toNat)

/-- TIER_PHYS_RANGE. -/
def execTierPhysRange (id : Option Nat) (part : Nat) (addr : BitVec 40) (s : State) : Host.Outcome State Fault Refusal :=
  s.engine (fun d => d.rangeEvent id part addr.toNat)

/-- LANDING_ALLOC. -/
def execLandingAlloc (p : Fin 16) (k : Fin 8) (id : Nat) (s : State) : Host.Outcome State Fault Refusal :=
  s.engine (fun d => d.lndRequest p k id)

/-- LANDING_RETURN. -/
def execLandingReturn (k : Fin 8) (idx : Nat) (s : State) : Host.Outcome State Fault Refusal :=
  s.act (fun d => d.lndGiveBack k idx)

/-- TIER_LND_POOL. -/
def execTierLndPool (ap : Aperture) (k : Fin 8) (v : BitVec 64) (s : State) : Host.Outcome State Fault Refusal :=
  s.act (fun d => d.hostWrite ap .TIER_LND_POOL k 0 (fun d => d.lndPool ap k v))

/-- TIER_LND_PART. -/
def execTierLndPart (ap : Aperture) (p : Fin 16) (k : Fin 8) (v : BitVec 32) (s : State) : Host.Outcome State Fault Refusal :=
  s.act (fun d => d.hostWrite ap .TIER_LND_PART p k (fun d => d.lndPart ap p k v))

/-- TIER_OBJTAB_CLEAR: a write of TIER_OBJTAB. -/
def execTierObjtabClear (ap : Aperture) (p : Fin 16) (v : BitVec 64) (s : State) : Host.Outcome State Fault Refusal :=
  s.act (fun d => d.hostWrite ap .TIER_OBJTAB p 0 (fun d => d.objtab ap p v))

/-- OBJTAB_CLEAR_DONE. -/
def execObjtabClearDone (p : Fin 16) (s : State) : Host.Outcome State Fault Refusal := s.act (fun d => d.objtabDone p)

end Sys2Proof.Machine
end

