-- ==== Sys2Proof/Machine/Window.lean ====
section
/-! DEFINITION. The tray memory window: rings, line requests and responses, the owner's checks, and the Window Cache
(R269 to R282). -/

namespace Sys2Proof.Machine

/-- Change the Window unit's state. -/
def Dev.updWin (d : Dev) (g : WinSt → WinSt) : Dev := { d with win := g d.win }

/-! ## Ring entries (Table 13.3) -/

/-- w bits from bit lo of byte k of an entry. -/
def WinEntry.arg (e : WinEntry) (k lo w : Nat) : Nat := field e.entry.toNat k lo w

/-- OP: 0 LOAD, 1 STORE, 2 INVALIDATE. -/
def WinEntry.op (e : WinEntry) : Nat := e.arg 0 0 2
/-- CACHED of a LOAD. -/
def WinEntry.cached (e : WinEntry) : Bool := e.op = 0 && e.arg 0 2 1 = 1
/-- ORDERED. -/
def WinEntry.ordered (e : WinEntry) : Bool := e.arg 0 3 1 = 1
/-- ALL of an INVALIDATE. -/
def WinEntry.all (e : WinEntry) : Bool := e.arg 0 4 1 = 1
/-- NODE: the owner's tray slot. -/
def WinEntry.node (e : WinEntry) : Nat := e.arg 1 0 3
/-- WINDOW. -/
def WinEntry.window (e : WinEntry) : Nat := e.arg 2 0 8
/-- LINES. -/
def WinEntry.count (e : WinEntry) : Nat := e.arg 3 0 7
/-- OFFSET of line i, in the 64 bits of the field. -/
def WinEntry.offset (e : WinEntry) (i : Nat) : Nat := (e.arg 8 0 64 + 64 * i) % 2 ^ 64
/-- The host address of line i. -/
def WinEntry.hostAddr (e : WinEntry) (i : Nat) : Nat := (e.arg 16 0 64 + 64 * i) % 2 ^ 64

/-- The cases of R273. -/
def WinEntry.bad (e : WinEntry) : Bool :=
  e.op = 3 || e.count = 0 || decide (64 < e.count) || e.offset 0 % 64 ≠ 0 || e.arg 0 5 3 ≠ 0 || e.arg 1 3 5 ≠ 0 ||
  e.arg 3 7 1 ≠ 0 || e.arg 24 0 64 ≠ 0 || (e.op = 2 && e.arg 16 0 64 ≠ 0)

/-- A line that awaits a response. -/
def WinLine.waits (l : WinLine) : Bool := l.slot.isSome

/-- Every line is done or has failed (R272). -/
def WinEntry.complete (e : WinEntry) : Bool := !e.lines.any WinLine.waits

/-! ## Line slots (R272, R277) -/

/-- The line slots whose responses are awaited. -/
def Dev.winSlots (d : Dev) : List Nat := d.win.entries.flatMap (fun e => e.lines.filterMap WinLine.slot)

/-- A line slot's generation (Table 13.5). -/
def Dev.winGen (d : Dev) (slot : Nat) : Nat := SMap.get 0 d.win.gens slot

/-- A line slot's generation moves on. -/
def Dev.winNextGen (d : Dev) (slot : Nat) : Dev :=
  d.updWin (fun w => { w with gens := SMap.set 0 w.gens slot ((d.winGen slot + 1) % 64) })

/-- The lines of a ring that await responses. -/
def Dev.winOut (d : Dev) (r : Nat) : Nat :=
  sumNat ((d.win.entries.filter (fun e => e.ring == r)).map (fun e => (e.lines.filter WinLine.waits).length))

/-- Show a ring's awaited lines in WIN_RING_HEAD.OUTSTANDING. -/
def Dev.noteWin (d : Dev) (r : Nat) : Dev := d.setF .WIN_RING_HEAD_OUTSTANDING (d.winOut r) r

/-- The n lowest free line slots, or none when fewer are free. -/
def Dev.winFree (d : Dev) (n : Nat) : Option (List Nat) :=
  if n = 0 then some []
  else
    let used := d.winSlots
    let free := ((List.range 4096).filter (fun s => !used.contains s)).take n
    if free.length = n then some free else none

/-! ## The Window Cache (R278 to R281) -/

/-- The set of a line. -/
def WinCached.set (c : WinCached) : Nat := bits c.offset 6 13 ^^^ (c.node * 256 + c.window)

/-- Two lines have the same tag. -/
def WinCached.same (a b : WinCached) : Bool :=
  a.job == b.job && a.node == b.node && a.window == b.window && a.offset == b.offset

/-- The tag of line i of an entry. -/
def WinEntry.tag (e : WinEntry) (i : Nat) : WinCached := ⟨e.job, e.node, e.window, e.offset i, []⟩

/-- The cached copy of a line. -/
def Dev.winHit (d : Dev) (t : WinCached) : Option WinCached := d.win.cache.find? t.same

/-- Drop a line from the cache. -/
def Dev.winDrop (d : Dev) (t : WinCached) : Dev :=
  d.updWin (fun w => { w with cache := w.cache.filter (fun c => !t.same c) })

/-- A line is the most recently used of its set: filled, or used again; a set of 16 ways first loses its least recently
used line. -/
def Dev.winTouch (d : Dev) (c : WinCached) : Dev :=
  let d := d.winDrop c
  let inSet := d.win.cache.filter (fun x => x.set == c.set)
  let keep := match inSet with
    | old :: _ => if inSet.length < 16 then d.win.cache else d.win.cache.erase old
    | [] => d.win.cache
  d.updWin (fun w => { w with cache := keep ++ [c] })

/-! ## The requester (R272 to R274, R277, R279) -/

/-- The message tag of window traffic (Table 13.5). -/
def winTag (kind gen slot : Nat) : Nat := kind * 2 ^ 22 + gen * 2 ^ 16 + slot

/-- The billets of a line's request: the address payload, and for a STORE the line (R277). -/
def Dev.winBillets (d : Dev) (e : WinEntry) (i slot : Nat) (data : List Byte) : List Billet :=
  let store := e.op = 1
  let h : Hdr := { tc := 2, job := e.job, tag := winTag (b2n store) (d.winGen slot) slot, total := if store then 2 else 1
                   dest := setCoord d.node .x e.node, src := d.node }
  let addr := leBytes 8 e.window ++ leBytes 8 (e.offset i)
  if store then [mkBillet h addr, mkBillet { h with seq := 1 } (slice data (64 * i) 64)] else [mkBillet h addr]

/-- The lines of an entry that a cached copy serves. -/
def Dev.winHits (d : Dev) (e : WinEntry) : List Nat :=
  if e.cached then (List.range e.count).filter (fun i => (d.winHit (e.tag i)).isSome) else []

/-- Issue line i: a hit is served from the cache, or fails when its copy holds a double error (R281); any other line of a
LOAD or STORE takes the next slot and sends its request; a line of an INVALIDATE drops its copy. -/
def Dev.winIssue (d : Dev) (e : WinEntry) (data : List Byte) (bad : List Nat) (i : Nat) (slots : List Nat) :
    Dev × WinLine × List Nat :=
  let hit := if e.cached then d.winHit (e.tag i) else none
  match hit with
  | some c =>
    if i ∈ bad then
      let d := (d.winDrop c).addF .WIN_CACHE_STAT_UE 1
      (d.post .WIN_CACHE_UE 0 0 { job := e.job, part := some e.part, status := Status.faultData.num },
        ⟨none, some Status.faultData.num, []⟩, slots)
    else ((d.winTouch c).addF .WIN_CACHE_STAT_HITS 1, ⟨none, none, c.data⟩, slots)
  | none =>
    if e.op = 2 then (if e.all then d else d.winDrop (e.tag i), ⟨none, none, []⟩, slots)
    else
      let d := if e.op = 1 then d.winDrop (e.tag i) else d
      match slots with
      | [] => (d, ⟨none, none, []⟩, [])
      | s :: rest => (d.inject 41 none (d.winBillets e i s data), ⟨some s, none, []⟩, rest)

/-- Issue the lines of an entry in order. -/
def Dev.winIssueAll (d : Dev) (e : WinEntry) (data : List Byte) (bad : List Nat) :
    List Nat → List Nat → Dev × List WinLine
  | [], _ => (d, [])
  | i :: is, slots =>
    let (d, l, slots) := d.winIssue e data bad i slots
    let (d, ls) := d.winIssueAll e data bad is slots
    (d, l :: ls)

/-- Put an entry in progress. -/
def Dev.winAdd (d : Dev) (e : WinEntry) : Dev := (d.updWin (fun w => { w with entries := w.entries ++ [e] })).noteWin e.ring

/-- A window ring's size. -/
def Dev.winSize (d : Dev) (r : Nat) : Nat := 2 ^ d.f .WIN_RING_CFG_SIZE_LOG2 r

/-- WIN_ENTRY_FETCH: the next entry of an enabled ring is fetched, checked and issued. It is fetched once it may issue:
an ORDERED entry and an INVALIDATE wait for every earlier entry of the ring, and a line waits for a free slot (R272). The
host's line bytes come with the command, for a STORE, and the lines whose cached copies hold double errors. -/
def Dev.winFetch (d : Dev) (r : Nat) (raw : Line) (data : List Byte) (bad : List Nat) : Dev :=
  let head := d.f .WIN_RING_HEAD_HEAD r
  let e : WinEntry :=
    { ring := r, job := d.f .WIN_RING_CFG_JOB r, part := d.f .WIN_RING_CFG_PARTITION r, entry := raw
      host := d.f .WIN_RING_BASE_BASE r * 64 + head * 64, issued := d.count, lines := [] }
  if !d.ready || !d.link.up || !d.flag .WIN_RING_CTRL_ENABLE r || head == d.f .WIN_RING_TAIL_TAIL r then d
  else if e.op = 1 ∧ e.bad = false ∧ data.length ≠ 64 * e.count then d
  else
    let next := fun (d : Dev) => (d.emitRead e.host 64).setF .WIN_RING_HEAD_HEAD ((head + 1) % d.winSize r) r
    if e.bad then
      (next d).winAdd { e with lines := [⟨none, some Status.badDescriptor.num, []⟩] }
    else if (e.ordered || e.op == 2) && d.win.entries.any (fun x => x.ring == r && !x.complete) then d
    else
      let n := if e.op = 2 then 0 else e.count - (d.winHits e).length
      match d.winFree n with
      | none => d
      | some slots =>
        let d := if e.op = 2 ∧ e.all = true then
            d.updWin (fun w => { w with cache := w.cache.filter (fun c => c.job != e.job) }) else d
        let d := if e.op = 1 then (next d).emitRead (e.hostAddr 0) data.length else next d
        let (d, lines) := d.winIssueAll e data bad (List.range e.count) slots
        (d.winAdd { e with lines := lines }).pump

/-- Replace the line that awaits a slot, and answer its entry and number. -/
def Dev.winLine? (d : Dev) (slot : Nat) : Option (WinEntry × Nat) :=
  d.win.entries.findSome? (fun e => (findIdx? (fun l => l.slot == some slot) e.lines).map (fun i => (e, i)))

/-- Change the line that awaits a slot. -/
def Dev.winSetLine (d : Dev) (slot : Nat) (l : WinLine) : Dev :=
  d.updWin (fun w => { w with entries := w.entries.map (fun e =>
    { e with lines := mapIf (fun x => x.slot == some slot) (fun _ => l) e.lines }) })

/-- WIN_RESPONSE: the next response completes its slot's line, or is late (R277). Loaded bytes go to host memory at once,
or with the entry's result when the host link is down. -/
def Dev.winResponse (d : Dev) : Dev :=
  match d.takeInbox (fun a => a.port == 41 && bTc a.b == 3) with
  | none => d
  | some (a, d) =>
    let slot := bits (bTag a.b) 0 12
    let late := d.addF .WIN_REFUSED_LATE 1
    if bits (bTag a.b) 16 6 ≠ d.winGen slot then late
    else
      match d.winLine? slot with
      | none => late
      | some (e, i) =>
        let code := bPay a.b 0 0 8
        if bits (bTag a.b) 22 2 = 2 then
          let bs := bPayload a.b
          let d := if e.cached then d.winTouch { e.tag i with data := bs } else d
          if d.link.up then
            ((d.winSetLine slot ⟨none, none, []⟩).emit (.memWrite (e.hostAddr i) bs)).noteWin e.ring
          else (d.winSetLine slot ⟨none, none, bs⟩).noteWin e.ring
        else (d.winSetLine slot ⟨none, if code = 0 then none else some code, []⟩).noteWin e.ring

/-- The lines of an entry with their numbers, first to last. -/
def WinEntry.numbered (e : WinEntry) : List (WinLine × Nat) := e.lines.zipIdx

/-- DONE: bit i for each line that took effect (R271, R274). -/
def WinEntry.done (e : WinEntry) : Nat := ofBitList ((e.numbered.filter (fun l => l.1.fail.isNone)).map Prod.snd)

/-- STATUS: OK, or the code of the lowest-numbered failed line (R271). -/
def WinEntry.status (e : WinEntry) : Nat := (e.lines.findSome? WinLine.fail).getD 0

/-- Bytes 32 to 63 of a completed entry (Table 13.3). -/
def WinEntry.result (e : WinEntry) (count : Nat) : List Byte :=
  leBytes 1 e.status ++ [1] ++ leBytes 6 0 ++ leBytes 8 e.done ++ leBytes 8 count ++ leBytes 8 0

/-- WIN_ENTRY_COMPLETE: the oldest complete entry of a ring has its loaded lines and then its result written. -/
def Dev.winComplete (d : Dev) (r : Nat) : Dev :=
  if !d.link.up || !d.ready then d
  else
    match d.win.entries.find? (fun e => e.ring == r && e.complete) with
    | none => d
    | some e =>
      let d := e.numbered.foldl (fun d l => if l.1.data.isEmpty then d else d.emit (.memWrite (e.hostAddr l.2) l.1.data)) d
      (d.updWin (fun w => { w with entries := w.entries.erase e })).emit (.memWrite (e.host + 32) (e.result d.count))

/-! ## The owner (R275, R276) -/

/-- A window table entry: from the window table cache, or read from HBM and kept (R269). -/
def Dev.winEntry (d : Dev) (w : Nat) : Dev × Except MemErr Nat :=
  match d.win.table.find? (fun e => e.1 == w) with
  | some e => (d, .ok e.2)
  | none =>
    match d.physRead (d.f .WIN_TAB_BASE * 256 + 32 * w) 32 with
    | .error e => (d, .error e)
    | .ok bs => (d.updWin (fun x => { x with table := x.table.insert w (leNat bs) }), .ok (leNat bs))

/-- A request fails an access: reported, counted under check 5 or 6, and answered with the access's status. -/
def Dev.winMemFail (d : Dev) (e : MemErr) : Dev × Status :=
  let d := d.memReport none e
  match e with
  | .xlat _ _ _ _ => (d.addF .WIN_REFUSED_XLAT 1, e.status)
  | _ => (d.addF .WIN_REFUSED_DATA 1, e.status)

/-- A request fails one of checks 1 to 4. -/
def Dev.winRefuse (d : Dev) (slot window : Nat) (who : Who) : Dev × Status :=
  ((d.addF .WIN_REFUSED_PROT 1).postFirst .WIN_REFUSED 0 window slot who, .faultProt)

/-- Serve a line request of a job from a tray slot by the checks of Table 13.4: the line of a LOAD, or nothing of a STORE,
or the failing check's status. -/
def Dev.winServe (d : Dev) (p job slot window offset : Nat) (store : Option (List Byte)) :
    Dev × Except Status (List Byte) :=
  let fail := fun (x : Dev × Status) => (x.1, Except.error x.2)
  match d.winEntry window with
  | (d, .error e) => fail (d.winMemFail e)
  | (d, .ok e) =>
    let who : Who := { job := job, part := some p, status := Status.faultProt.num }
    let right := if store.isSome then bit e 2 else bit e 1
    if !bit e 0 || field e 2 0 16 ≠ job || !bit e (8 + slot) || !right || decide (field e 16 0 32 ≤ offset / 64) then
      fail (d.winRefuse slot window who)
    else
      let va := (field e 8 0 48 + offset) % 2 ^ 48
      match store with
      | some bs =>
        match d.vaWrite p va bs with
        | (d, .error e) => fail (d.winMemFail e)
        | (d, .ok _) => ((d.addF .WIN_SERVED_STORES 1).setF .PART_DET_EVENTS_WIN_STORE 1 p, .ok [])
      | none =>
        match d.vaRead p va 64 with
        | (d, .error e) => fail (d.winMemFail e)
        | (d, .ok bs) => (d.addF .WIN_SERVED_LOADS 1, .ok bs)

/-- The second billet of a STORE's message. -/
def winMate (b : Billet) (a : Arrival) : Bool :=
  a.port == 41 && bTc a.b == 2 && bTag a.b == bTag b && bSrc a.b == bSrc b && bJob a.b == bJob b && bSeq a.b == 1

/-- The first billet of a request message whose billets have all been delivered. -/
def Dev.winWhole (d : Dev) (a : Arrival) : Bool :=
  a.port == 41 && bTc a.b == 2 &&
    (bits (bTag a.b) 22 2 ≠ 1 || (bSeq a.b == 0 && d.fab.inbox.any (winMate a.b)))

/-- WIN_REQUEST: the owner takes the next whole request, serves it and responds (R275, R277). -/
def Dev.winRequest (d : Dev) : Dev :=
  match d.takeInbox d.winWhole with
  | none => d
  | some (a, d) =>
    let b := a.b
    let kind := bits (bTag b) 22 2
    let (d, store) := if kind = 1 then
        match d.takeInbox (winMate b) with
        | some (m, d) => (d, some (bPayload m.b))
        | none => (d, some [])
      else (d, none)
    match d.partOf (bJob b) with
    | none => d
    | some p =>
      if 1 < kind then d
      else
        let (d, res) := d.winServe p (bJob b) (coord (bSrc b) .x) (bPay b 0 0 8) (bPay b 8 0 64) store
        let h : Hdr := { tc := 3, job := bJob b, tag := 3 * 2 ^ 22 + bTag b % 2 ^ 22, dest := bSrc b, src := d.node }
        let reply := match res, store with
          | .ok bs, none => mkBillet { h with tag := 2 * 2 ^ 22 + bTag b % 2 ^ 22 } bs
          | .ok _, some _ => mkBillet h [0]
          | .error st, _ => mkBillet h (leBytes 1 st.num)
        (d.inject 41 none [reply]).pump

/-! ## Registers (R272, R282, R389) -/

/-- WIN_RING_TAIL: the doorbell, modulo the ring's size (R389). -/
def Dev.winTail (d : Dev) (r v : Nat) : Dev := d.setF .WIN_RING_TAIL_TAIL (v % 65536 % d.winSize r) r

/-- ABORT: every awaited line of a ring fails with KILLED_PREEMPT, and its slot's generation moves on (Table 13.6). -/
def Dev.winAbort (d : Dev) (r : Nat) : Dev :=
  let slots := (d.win.entries.filter (fun e => e.ring == r)).flatMap (fun e => e.lines.filterMap WinLine.slot)
  (slots.foldl (fun d s => (d.winSetLine s ⟨none, some Status.killedPreempt.num, []⟩).winNextGen s) d).noteWin r

/-- WIN_RING_CTRL: ABORT acts first; ENABLE set from 0 needs a valid size, silently, and the bound partition's valid job,
or FAULT_PROT is reported; setting it sets HEAD and TAIL to 0. -/
def Dev.winCtrl (d : Dev) (ap : Aperture) (r : Nat) (v : BitVec 32) : Dev :=
  let d := if v.getLsbD 1 then d.winAbort r else d
  let p := d.f .WIN_RING_CFG_PARTITION r
  let size := d.f .WIN_RING_CFG_SIZE_LOG2 r
  if !v.getLsbD 0 then d.setF .WIN_RING_CTRL_ENABLE 0 r
  else if d.flag .WIN_RING_CTRL_ENABLE r then d
  else if size < 4 ∨ 12 < size then d
  else if !d.valid p || d.f .PART_CTRL_JOB p ≠ d.f .WIN_RING_CFG_JOB r then d.refuseReg ap .WIN_RING_CTRL r
  else ((d.setF .WIN_RING_CTRL_ENABLE 1 r).setF .WIN_RING_HEAD_HEAD 0 r).setF .WIN_RING_TAIL_TAIL 0 r

/-- WIN_RING_BASE and WIN_RING_CFG: discarded and reported while the ring is enabled. -/
def Dev.winLocked (d : Dev) (ap : Aperture) (reg : Reg) (r : Nat) (v : BitVec 64) : Dev :=
  if d.flag .WIN_RING_CTRL_ENABLE r then d.refuseReg ap reg r else d.plainWrite reg v r

/-- A partition is released: its rings are aborted and disabled, and its job's cached lines dropped (Table 13.6). -/
def Dev.winRelease (d : Dev) (p job : Nat) : Dev :=
  let mine := (List.range 16).filter (fun r => d.flag .WIN_RING_CTRL_ENABLE r && d.f .WIN_RING_CFG_PARTITION r == p)
  let rings := (List.range 16).filter (fun r => mine.contains r || d.win.entries.any (fun e => e.ring == r && e.job == job))
  let d := rings.foldl (fun d r => (d.winAbort r).setF .WIN_RING_CTRL_ENABLE 0 r) d
  d.updWin (fun w => { w with cache := w.cache.filter (fun c => c.job != job) })

/-- A warm reset: every ring is disabled and its entries forgotten, every slot's generation moves on, and the cache is
emptied (Table 13.6). -/
def Dev.winReset (d : Dev) : Dev :=
  let d := d.updWin (fun w => { w with entries := [], cache := [], gens := (List.range 4096).foldl (fun m s =>
    SMap.set 0 m s ((SMap.get 0 w.gens s + 1) % 64)) [] })
  (List.range 16).foldl (fun d r => (d.setF .WIN_RING_CTRL_ENABLE 0 r).noteWin r) d

/-! ## Meanings -/

/-- WIN_RING_TAIL. -/
def execWinRingTail (ap : Aperture) (r : Fin 16) (v : BitVec 32) (s : State) : Host.Outcome State Fault Refusal :=
  s.act (fun d => d.hostWrite ap .WIN_RING_TAIL r 0 (fun d => d.winTail r v.toNat))

/-- WIN_ENTRY_FETCH. -/
def execWinEntryFetch (r : Fin 16) (entry : Line) (data : List Byte) (bad : List (Fin 64)) (s : State) :
    Host.Outcome State Fault Refusal :=
  s.engine (fun d => d.winFetch r entry data (bad.map Fin.val))

/-- WIN_REQUEST. -/
def execWinRequest (s : State) : Host.Outcome State Fault Refusal := s.engine Dev.winRequest

/-- WIN_RESPONSE. -/
def execWinResponse (s : State) : Host.Outcome State Fault Refusal := s.engine Dev.winResponse

/-- WIN_ENTRY_COMPLETE. -/
def execWinEntryComplete (r : Fin 16) (s : State) : Host.Outcome State Fault Refusal := s.engine (fun d => d.winComplete r)

/-- WIN_RING_ENABLE: a write of WIN_RING_CTRL. -/
def execWinRingEnable (ap : Aperture) (r : Fin 16) (v : BitVec 32) (s : State) : Host.Outcome State Fault Refusal :=
  s.act (fun d => d.hostWrite ap .WIN_RING_CTRL r 0 (fun d => d.winCtrl ap r v))

/-- ABORT: a write of WIN_RING_CTRL with ABORT set. -/
def execAbort (ap : Aperture) (r : Fin 16) (v : BitVec 32) (s : State) : Host.Outcome State Fault Refusal :=
  s.act (fun d => d.hostWrite ap .WIN_RING_CTRL r 0 (fun d => d.winCtrl ap r (v ||| 2)))

end Sys2Proof.Machine
end

