-- ==== Sys2Proof/Machine/Commits.lean ====
section
/-! DEFINITION. The commit point and the kill of a command: what each opcode's commit does beside the object table, and what
a kill gives back (R58 to R60, R72, R92, R118, R229, R301, R305). -/

namespace Sys2Proof.Machine

/-! ## Array states (R165) -/

/-- Arrays in a state. -/
def Dev.arraysIn (d : Dev) (st : Nat) : Nat := ((List.range 152).filter (fun n => d.arrState n == st)).length

/-- An array takes a state, which MA_ARR_STATE, the bitmaps and MA_ARRAY_SUM show (R165). -/
def Dev.setArrState (d : Dev) (n st : Nat) : Dev :=
  let d := d.setF .MA_ARR_STATE_STATE st n
  let i := n / 32
  let d := d.setF .MA_ENABLED_ENABLED (setBit (d.f .MA_ENABLED_ENABLED i) (n % 32) (st = 0)) i
  let d := d.setF .MA_RETIRED_RETIRED (setBit (d.f .MA_RETIRED_RETIRED i) (n % 32) (st = 3)) i
  let d := (d.setF .MA_ARRAY_SUM_ENABLED (d.arraysIn 0)).setF .MA_ARRAY_SUM_SPARE (d.arraysIn 1)
  ((d.setF .MA_ARRAY_SUM_RETIRED (d.arraysIn 3)).setF .MA_ARRAY_SUM_UNTESTED (d.arraysIn 2)).noteReasons

/-- A spare takes a retired array's place in every partition's set, and is enabled (R64). -/
def Dev.substitute (d : Dev) (spare retired : Nat) : Dev :=
  let d := (List.range 16).foldl (fun (d : Dev) p =>
    if bit (d.f .PART_ARRAYS_ARRAYS p (retired / 32)) (retired % 32) then
      let d := d.setF .PART_ARRAYS_ARRAYS (setBit (d.f .PART_ARRAYS_ARRAYS p (retired / 32)) (retired % 32) false) p (retired / 32)
      d.setF .PART_ARRAYS_ARRAYS (setBit (d.f .PART_ARRAYS_ARRAYS p (spare / 32)) (spare % 32) true) p (spare / 32)
    else d) d
  d.setArrState spare 0

/-- An array is retired if it is enabled or spare; in any other state nothing changes (R63). -/
def Dev.retireArray (d : Dev) (n : Nat) : Dev := if d.arrState n ≤ 1 then d.setArrState n 3 else d

/-! ## Commit (R58, R59, R207) -/

/-- An earlier command of the queue that shares a reduce-on-write target has not completed (R59). -/
def Dev.targetWaits (d : Dev) (c : Cmd) : Bool :=
  c.claims.any (fun k => k.target && d.cmds.any (fun e => decide (e.id < c.id) && e.queue == c.queue && e.part == c.part &&
    e.claims.any (fun y => y.target && y.ver.obj == k.ver.obj)))

/-- A command may take its commit point: all its parts have succeeded and its deltas are folded (R58, R59). -/
def Dev.canCommit (d : Dev) (c : Cmd) : Bool := c.running && c.ready && c.deltas.all Delta.folded && !d.targetWaits c

/-- The object table takes every output of the command, in one cycle (R58, R207). -/
def Dev.commitTables (d : Dev) (c : Cmd) : Except MemErr Dev :=
  match d.commitClaims c.claims with
  | .error e => .error e
  | .ok d => d.commitPlaces c (d.placesOf c.id)

/-- A LAYER commits: entries served by Coppice copies are counted, and marked in the local record of their layer (R229). -/
def Dev.commitLayer (d : Dev) (c : Cmd) : Dev :=
  match d.run? c.id with
  | none => d
  | some r =>
    let d := d.addF .TIER_FETCH_STAT_COPPICE r.copper.length c.part
    match r.recv with
    | none => d
    | some rc =>
      if !d.flag .XE_LOCAL_VALID c.part || d.f .XE_LOCAL_LAYER c.part != rc.layer then d
      else
        let served := r.copper.filterMap (fun e => rc.entries[e]?)
        let mark := fun (l : LocalRec) =>
          { l with
            slots := l.slots.map (fun s => if served.any (fun e => e.slot == s.1) then (s.1, s.2.1, true) else s)
            coppice := l.coppice + sumNat (served.map RecvEntry.count) }
        d.updXe (fun x => { x with locals := mapIf (fun l => l.part == c.part) mark x.locals })

/-- A FENCE with PROTECT empties the translation, rank and window table caches (R61, R214, R256, R269). -/
def Dev.commitFence (d : Dev) (c : Cmd) : Dev :=
  if c.arg 0 0 1 = 0 then d
  else
    let d := { d with mem := { d.mem with xu := [] } }
    let d := d.updFab (fun f => { f with ranks := [] })
    { d with win := { d.win with table := [] } }

/-- A DISABLE commits: its array is retired, or the Landing buffers of its frame are (R63, R333). -/
def Dev.commitDisable (d : Dev) (c : Cmd) : Dev :=
  match c.arg 0 0 8 with
  | 0 => d.retireArray (c.arg 2 0 16)
  | 3 => d.lndRetireFrame (c.arg 8 0 64 / 65536)
  | _ => d

/-- What a commit does beside the object table. -/
def Dev.commitEffects (d : Dev) (c : Cmd) : Dev :=
  match c.opcode with
  | 0x01 => d.commitLayer c
  | 0x03 => d.xeCommit c
  | 0x04 => d.xeCommit c
  | 0x05 => d.collCommit c
  | 0x06 => d.addRelease c.id
  | 0x09 => d.endSwap c.id
  | 0x0B => d.commitFence c
  | 0x0D => d.commitDisable c
  | 0x0E => d.substitute (c.arg 0 0 16) (c.arg 2 0 16)
  | _ => d

/-- What a command holds in the engines is given back, whether it committed or was killed. -/
def Dev.dropWork (d : Dev) (id : Nat) : Dev :=
  let d := d.dropPlaces id
  let d := { d with arr := { d.arr with
    runs := d.arr.runs.filter (fun r => r.id != id)
    chunks := d.arr.chunks.filter (fun h => h.id != id) } }
  let d := { d with sv := { d.sv with ctxs := d.sv.ctxs.filter (fun x => x.id != id) } }
  d.lndReturnUser (.command id)

/-- The status of a commit: OK, or SUSPECT, which the partition's register records (R53, R325). -/
def Dev.commitStatus (d : Dev) (c : Cmd) : Dev × Status :=
  if c.suspect then (d.setF .PART_DET_EVENTS_SUSPECT 1 c.part, .suspect) else (d, .ok)

/-- The commit point of a command. A table that cannot be accessed fails the command, and nothing is committed. -/
def Dev.commitCmd (d : Dev) (id : Nat) : Dev :=
  match d.cmd? id with
  | none => d
  | some c =>
    match d.commitTables c with
    | .error e => (d.memReport (some id) e).failCmd id e.status
    | .ok d =>
      let (d, st) := (d.commitEffects c).commitStatus c
      (d.dropWork id).endCmd id st d.count 0

/-- COMMIT: a command that may commit does. A SIEVE commits with its Step Report (R93), and a SWAP at its boundary
(R240). -/
def Dev.commitRow (d : Dev) (id : Nat) : Dev :=
  match d.cmd? id with
  | none => d
  | some c => if !d.canCommit c || c.opcode == 2 || c.opcode == 9 || d.stalled then d else d.commitCmd id

/-! ## Kill (R54, R55, R60) -/

/-- A command's STATUS: the first of R54's list among its causes. A command that a dead predecessor took with it, or that
is refused at launch, has only that cause. -/
def Cmd.killStatus (c : Cmd) : Option Status :=
  ([.killedDisable, .killedPreempt, .killedWatchdog, .partFailed, .faultData, .faultXlat, .faultProt, .quota, .poolEmpty,
    .swapNotReady, .badDescriptor] : List Status).find? (fun s => c.causes.contains s)

/-- The PARTS bitmap: bit j mod 64 of each failed part j (R55). -/
def partsMask (failed : List Nat) : Nat := failed.foldl (fun m j => setBit m (j % 64) true) 0

/-- What a kill does in the engine of each opcode. -/
def Dev.killEffects (d : Dev) (c : Cmd) : Dev :=
  match c.opcode with
  | 0x03 => d.xeKill c
  | 0x04 => d.xeKill c
  | 0x05 => d.collKill c
  | 0x06 => d.addRelease c.id
  | 0x09 => d.endSwap c.id
  | _ => d

/-- Scores and samples of a killed command, and its billets that the Switch Core has not accepted, are dropped (R60). -/
def Dev.dropTraffic (d : Dev) (id : Nat) : Dev :=
  let d := { d with arr := { d.arr with scores := d.arr.scores.filter (fun t => t.layer != id) } }
  let d := d.updBorer (fun b => { b with waiting := b.waiting.filter (fun x => x.cmd != id) })
  d.updFab (fun f => { f with inject := f.inject.filter (fun i => !(i.owner.any (fun o => o.1 == id))) })

/-- A kill reaches the command processor: nothing is committed, buffers return, and a pair dies together (R60, R72). -/
def Dev.killCmd (d : Dev) (id : Nat) : Dev :=
  match d.cmd? id with
  | none => d
  | some c =>
    match c.killStatus with
    | none => d
    | some st =>
      if c.ended then d
      else
        let d := ((d.killEffects c).dropTraffic id).dropWork id
        let d := match c.pair with
          | some k => d.failCmd k st
          | none => d
        d.endCmd id st d.count (if st = .partFailed then partsMask c.failed else 0)

/-- KILL: a command that a cause of failure has reached is killed. -/
def Dev.killRow (d : Dev) (id : Nat) : Dev := if d.stalled then d else d.killCmd id

/-! ## Meanings -/

/-- COMMIT. -/
def execCommit (id : Nat) (s : State) : Host.Outcome State Fault Refusal := s.engine (fun d => d.commitRow id)

/-- KILL. -/
def execKill (id : Nat) (s : State) : Host.Outcome State Fault Refusal := s.engine (fun d => d.killRow id)

end Sys2Proof.Machine
end

