-- ==== Sys2Proof/Machine/Gate.lean ====
section
/-! DEFINITION. The Step Report and the grant gate: STEP_REPORT, STEP_GRANT and what a release of the gate does (R92 to
R98). -/

namespace Sys2Proof.Machine

/-! ## The gate (R94, R95) -/

/-- The number of stored grants, as SV_GATE shows it. -/
def Dev.showStored (d : Dev) (p : Nat) : Dev :=
  d.setF .SV_GATE_STORED (d.sv.grants.filter (fun g => g.part == p)).length p

/-- Change the Sieve's state. -/
def Dev.updSvSt (d : Dev) (g : SvSt → SvSt) : Dev := { d with sv := g d.sv }

/-- A grant's tables apply: the capacity table becomes the source, and the receive sizes go to the Exchange Engine (R95,
R117). -/
def Dev.applyGrant (d : Dev) (g : StoredGrant) : Dev :=
  let d := match g.caps with
    | some bs => d.updSvSt (fun s => { s with caps := s.caps.filter (fun e => e.1 != g.part) ++ [(g.part, bs)] })
    | none => d
  match g.recv with
  | some bs => d.reserve g.part bs
  | none => d

/-- The gate of a partition opens, released at SEQ (R94). -/
def Dev.openGate (d : Dev) (p seq : Nat) : Dev :=
  let d := d.updSvSt (fun s => { s with closedAt := SMap.set 0 s.closedAt p 0 })
  (d.setF .SV_REL_SEQ_REL_SEQ seq p).setF .SV_GATE_AWAITING 0 p

/-- The gate closes, awaiting SV_SEQ (R94, R97). -/
def Dev.closeGate (d : Dev) (p : Nat) : Dev :=
  (d.updSvSt (fun s => { s with closedAt := SMap.set 0 s.closedAt p d.count })).setF .SV_GATE_AWAITING 1 p

/-- The counts of the last committed SIEVE are within a grant's bounds, or it has none (R96). -/
def Dev.withinBounds (d : Dev) (g : StoredGrant) : Bool :=
  !g.bounded || (decide (SMap.get 0 d.sv.maxDest g.part ≤ g.maxDest) && decide (SMap.get 0 d.sv.routed g.part ≤ g.maxTotal))

/-- SV_BOUNDS for a partition and SEQ. -/
def Dev.postBounds (d : Dev) (p seq : Nat) : Dev := d.post .SV_BOUNDS 0 seq { job := d.jobOf p, part := some p }

/-! ## The Step Report (R93) -/

/-- A report's entries, section by section. -/
structure RptSections where
  dests : List (Nat × Nat)
  locals : List (Nat × Nat × Bool)
  experts : List Nat
  deriving DecidableEq, Repr

/-- Bytes of the sections. -/
def RptSections.size (s : RptSections) : Nat := 8 * s.dests.length + 8 * s.locals.length + 4 * s.experts.length

/-- Cut whole entries from the end of the last sections until they fit. -/
def RptSections.cut (s : RptSections) (room : Nat) : RptSections :=
  let dests := s.dests.take (room / 8)
  let room := room - 8 * dests.length
  let locals := s.locals.take (room / 8)
  let room := room - 8 * locals.length
  ⟨dests, locals, s.experts.take (room / 4)⟩

/-- The sections' bytes (Table 4.12). -/
def RptSections.bytes (s : RptSections) : List Byte :=
  s.dests.flatMap (fun e => leBytes 2 e.1 ++ [0, 0] ++ leBytes 4 e.2) ++
  s.locals.flatMap (fun e => leBytes 2 e.1 ++ leBytes 1 (b2n e.2.2) ++ [0] ++ leBytes 4 e.2.1) ++
  s.experts.flatMap (leBytes 4)

/-- A SIEVE's sections before any cut. -/
def SvCtx.sections (x : SvCtx) (c : Cmd) (loc : Option LocalRec) : RptSections :=
  { dests := x.dirs
    locals := loc.elim [] LocalRec.slots
    experts := if c.expertCounts then
        let kept := x.grains.filter (fun g => !g.dropped)
        (List.range (x.cols c.stage)).map (fun e => (kept.filter (fun g => g.expert == e)).length)
      else [] }

/-- The Step Report of a SIEVE: header and sections, within a slot (Table 4.11). -/
def Dev.stepReport (d : Dev) (c : Cmd) (x : SvCtx) (seq : Nat) (pre exceeded : Bool) (slot : Nat) : List Byte :=
  let p := c.part
  let loc := if d.flag .XE_LOCAL_VALID p then d.xe.locals.find? (fun l => l.part == p) else none
  let all := x.sections c loc
  let s := all.cut (slot - 64)
  let dropped := (x.grains.filter (·.dropped)).length
  let flags := d.activeSlot p (d.f .SV_MODEL_HANDLE p) + 2 * b2n pre + 4 * b2n exceeded + 8 * b2n loc.isSome +
    16 * b2n (s != all)
  padTo 64 (leBytes 4 (64 + s.size) ++ leBytes 2 c.job ++ leBytes 1 p ++ leBytes 1 c.svLayer ++ leBytes 4 seq ++
    leBytes 4 c.tag ++ leBytes 4 c.step ++ leBytes 4 x.tokens ++ leBytes 4 x.routed ++ leBytes 4 dropped ++
    leBytes 4 x.exited.length ++ leBytes 4 x.pass ++ leBytes 4 (loc.elim 0 LocalRec.coppice) ++
    leBytes 2 s.dests.length ++ leBytes 2 s.locals.length ++ leBytes 3 s.experts.length ++
    leBytes 1 (if loc.isSome then d.f .XE_LOCAL_LAYER p else 0) ++ leBytes 2 (min x.miss 65535) ++
    leBytes 2 (min x.nans 65535) ++ leBytes 1 flags) ++ s.bytes

/-- The report goes into the next slot of the partition's ring (R93). -/
def Dev.writeRpt (d : Dev) (p : Nat) (bs : List Byte) : Dev :=
  let tail := d.f .SV_RPT_TAIL_TAIL p
  let d := d.emitWrite (d.f .SV_RPT_BASE_BASE p * 4096 + tail * 2 ^ d.f .SV_RPT_CFG_SLOT_LOG2 p) bs
  d.setF .SV_RPT_TAIL_TAIL ((tail + 1) % d.rptSize p) p

/-- What a SIEVE's commit counts: its grains, and the grain table until its release (R92, R96, R121). -/
def Dev.countGrains (d : Dev) (c : Cmd) (x : SvCtx) : Dev :=
  let p := c.part
  let d := (d.addF .SV_EMITTED_EMITTED x.grains.length p).addF .SV_DROPPED_DROPPED (x.grains.length - x.routed) p
  let d := (d.addF .SV_EXITED_EXITED x.exited.length p).addF .XE_OUTSTANDING_OUTSTANDING x.routed p
  let d := d.updSvSt (fun s => { s with
    maxDest := SMap.set 0 s.maxDest p ((x.dirs.map Prod.snd).foldl max 0), routed := SMap.set 0 s.routed p x.routed })
  match c.claimOf (c.outp 0) with
  | some k => d.updXe (fun e => { e with tabs := e.tabs ++ [⟨k.ver, x.routed, false, false⟩] })
  | none => d

/-- A SIEVE at its commit: its report is written, SV_SEQ increments, a stored grant for it is tested, and the gate closes
unless that grant releases it (R93, R94, R96). -/
def Dev.sieveCommit (d : Dev) (c : Cmd) (x : SvCtx) : Dev :=
  let p := c.part
  let seq := (d.f .SV_SEQ_SEQ p + 1) % 2 ^ 32
  let d := (d.countGrains c x).setF .SV_SEQ_SEQ seq p
  let stored := d.sv.grants.find? (fun g => g.part == p && g.seq == seq)
  let d := d.updSvSt (fun s => { s with grants := s.grants.filter (fun g => !(g.part == p && g.seq == seq)) })
  let (pre, exceeded) := match stored with
    | some g => if d.withinBounds g then (true, false) else (false, true)
    | none => (false, false)
  let d := (d.writeRpt p (d.stepReport c x seq pre exceeded (2 ^ d.f .SV_RPT_CFG_SLOT_LOG2 p))).showStored p
  let d := if exceeded then d.postBounds p seq else d
  match stored with
  | some g => if pre then (d.applyGrant g).openGate p seq else d.closeGate p
  | none => d.closeGate p

/-- STEP_REPORT of a context: with its tail done and a slot free, the SIEVE reports and commits (R93). A table that cannot
be accessed fails it. -/
def Dev.stepReportRow (d : Dev) (k : Nat) : Dev :=
  match d.sv? k with
  | none => d
  | some x =>
    match d.cmd? x.id with
    | none => d
    | some c =>
      if !c.running || !x.tailDone || !d.rptReady c.part || d.stalled then d
      else
        match d.commitTables c with
        | .error e => (d.memReport (some c.id) e).failCmd c.id e.status
        | .ok d =>
          let d := (d.sieveCommit c x).dropWork c.id
          d.endCmd c.id .ok d.count 0

/-! ## STEP_GRANT (R95, R96) -/

/-- SEQ of a STEP_GRANT. -/
def Cmd.grantSeq (c : Cmd) : Nat := c.arg 0 0 32

/-- Table 4.14: what a grant does to the gate of its partition. -/
def Dev.evalGrant (d : Dev) (id : Nat) (g : StoredGrant) : Dev :=
  let p := g.part
  let mine := fun (h : StoredGrant) => h.part == p && h.seq == g.seq
  if g.seq ≤ d.f .SV_REL_SEQ_REL_SEQ p then
    ((d.addF .SV_GRANTS_STALE 1 p).postCmd id .SV_GRANT_STALE 0 0 g.seq).finish id
  else if d.f .SV_SEQ_SEQ p < g.seq then
    let others := d.sv.grants.filter (fun h => h.part == p && h.seq != g.seq)
    if 4 ≤ others.length then d.failPart id 0 .quota
    else
      let d := d.updSvSt (fun s => { s with grants := s.grants.filter (fun h => !mine h) ++ [g] })
      (d.showStored p).finish id
  else if d.withinBounds g then ((d.applyGrant g).openGate p g.seq).finish id
  else (d.postCmd id .SV_BOUNDS 0 0 g.seq).finish id

/-- A STEP_GRANT with its tables, as read. -/
def readGrant (c : Cmd) : Op StoredGrant := do
  let whole := fun (h : Nat) => if h = 0 then pure none else do
    let v ← inVer c h
    some <$> readWhole v
  let caps ← whole (c.inp 0)
  let recv ← whole (c.inp 1)
  return { part := c.part, seq := c.grantSeq, bounded := c.arg 4 0 1 == 1, maxDest := c.arg 8 0 32, maxTotal := c.arg 12 0 32
           caps := caps, recv := recv }

/-- STEP_GRANT: its tables are read and it is evaluated (R96). -/
def Dev.stepGrant (d : Dev) (id : Nat) : Dev :=
  match d.cmd? id with
  | none => d
  | some c =>
    if !c.running || c.ready || c.opcode ≠ 0x0F then d
    else d.work id 0 (do
      let g ← readGrant c
      Op.act (fun d => d.evalGrant id g))

/-- A partition's gate at the release of its job: it opens, with no sequence and no grant (R98). -/
def Dev.gateRelease (d : Dev) (p : Nat) : Dev :=
  let d := d.updSvSt (fun s => { s with
    grants := s.grants.filter (fun g => g.part != p), caps := s.caps.filter (fun e => e.1 != p)
    maxDest := SMap.set 0 s.maxDest p 0, routed := SMap.set 0 s.routed p 0 })
  ((d.openGate p 0).setF .SV_SEQ_SEQ 0 p).showStored p

/-! ## Meanings -/

/-- STEP_REPORT. -/
def execStepReport (k : Fin 2) (s : State) : Host.Outcome State Fault Refusal := s.engine (fun d => d.stepReportRow k)

/-- STEP_GRANT. -/
def execStepGrant (id : Nat) (s : State) : Host.Outcome State Fault Refusal := s.engine (fun d => d.stepGrant id)

end Sys2Proof.Machine
end

