-- ==== Sys2Proof/Machine/Schedule.lean ====
section
/-! DEFINITION. Steps and boundaries, moves of a boundary, and stall reports (R32 to R37, R139, R240, R241, R331). -/

namespace Sys2Proof.Machine

/-! ## Boundaries (R32) -/

/-- Change the ring's state. -/
def Dev.updRing (d : Dev) (g : RingSt → RingSt) : Dev := { d with ring := g d.ring }

/-- The partition's next boundary has come, and its count runs (R32, R39). -/
def Dev.boundaryDue (d : Dev) (p : Nat) : Bool :=
  let n := d.f .RING_NEXT_NEXT p
  d.ring.running && decide (n ≠ 0) && decide (n ≤ d.count) && decide (SMap.get 0 d.ring.nextFrom p ≤ d.count)

/-- The SWAPs of a partition whose switch falls at a boundary of a scheduled count (R240). -/
def Dev.switching (d : Dev) (p orig : Nat) : List Cmd :=
  d.cmds.filter (fun c => c.opcode == 9 && c.part == p && c.running && decide (c.switchAt ≤ orig))

/-- One SWAP at its boundary: the switch is committed, or the SWAP dies with SWAP_NOT_READY (R241). -/
def Dev.switchOne (d : Dev) (c : Cmd) (step start : Nat) : Dev :=
  let ready := (d.swaps.find? (fun x => x.id == c.id)).any (fun x => x.open_ && x.ready)
  if !ready then (d.postCmd c.id .SWAP_NOT_READY Status.swapNotReady.num).failCmd c.id .swapNotReady
  else
    let d := d.work c.id 0 (modelSwitch c step start)
    if (d.cmd? c.id).any Cmd.running then d.commitCmd c.id else d

/-- The partition takes its boundary: the step that begins has its start count, the next boundary is set, and the
boundary's consumers act: the Borer, the conservation checks and the swap switch (R32, R139, R240, R331). -/
def Dev.takeBoundary (d : Dev) (p : Nat) : Dev :=
  let start := d.f .RING_NEXT_NEXT p
  let orig := d.f .RING_ORIG_ORIG p
  let step := (d.f .RING_STEP_STEP p + 1) % 2 ^ 32
  let period := d.f .RING_PERIOD_PERIOD p
  let next := if period = 0 then 0 else start + period
  let d := ((d.setF .RING_STEP_STEP step p).setF .RING_NEXT_NEXT next p).setF .RING_ORIG_ORIG next p
  let d := d.updRing (fun r => { r with stepStart := SMap.set 0 r.stepStart p (start + 1) })
  let d := (d.borerBoundary p step).conserve (some p)
  (d.switching p orig).foldl (fun d c => d.switchOne c step start) d

/-- Take the boundaries of a partition that have come, in turn. -/
def Dev.takeDue (d : Dev) (p : Nat) : Nat → Dev
  | 0 => d
  | n + 1 => if d.boundaryDue p then (d.takeBoundary p).takeDue p n else d

/-- Take every boundary that has come (Table 2.7, R39): no more than those between RING_NEXT and the count. -/
def Dev.settlePart (d : Dev) (p : Nat) : Dev :=
  if d.boundaryDue p then
    let period := d.f .RING_PERIOD_PERIOD p
    d.takeDue p (if period = 0 then 1 else (d.count - d.f .RING_NEXT_NEXT p) / period + 1)
  else d

/-- What the count has passed and the device has not handled: each partition's next boundary and each LAYER's fetch
deadline, as (count, 0 for a boundary or 1 for a deadline, partition or command) (R39). -/
def Dev.dueItems (d : Dev) : List (Nat × Nat × Nat) :=
  ((List.range 16).filter d.boundaryDue).map (fun p => (d.f .RING_NEXT_NEXT p, 0, p)) ++
  (d.arr.runs.filter (fun r => d.deadlineDue r.id)).map (fun r => (r.deadline.getD 0, 1, r.id))

/-- Handle the earliest of what is due, and so on while something is; at one count boundaries come first (R37, R39). -/
def Dev.settleList (d : Dev) : Nat → Dev
  | 0 => d
  | n + 1 =>
    match sortBy Prod.fst d.dueItems with
    | [] => d
    | (_, 0, p) :: _ => (d.takeBoundary p).settleList n
    | (_, _, id) :: _ => (d.fetchDeadline id).settleList n

/-- What falls due at or before the count, in count order, before commands launch (R37, R39, R242): no more boundaries of a
partition than lie between its RING_NEXT and the count, and no more deadlines than LAYERs run. -/
def Dev.settleDue (d : Dev) : Dev :=
  if d.dueItems.isEmpty then d
  else d.settleList (sumNat ((List.range 16).map (fun p =>
    let period := d.f .RING_PERIOD_PERIOD p
    if period = 0 then 1 else (d.count - d.f .RING_NEXT_NEXT p) / period + 1)) + d.arr.runs.length)

/-- RING_NEXT takes a value: it arms or disarms the schedule and sets RING_ORIG; a value already passed is taken at the next
count (R32). What the schedule was before the count's first write is kept for requests of the same count (Table 2.7). -/
def Dev.setNext (d : Dev) (p : Nat) (v : BitVec 64) : Dev :=
  let d := d.settlePart p
  let was := (p, d.count, d.f .RING_NEXT_NEXT p, d.f .RING_ORIG_ORIG p)
  let again := d.ring.wrote.any (fun w => w.1 == p && w.2.1 == d.count)
  let d := (d.setReg .RING_NEXT v p).setReg .RING_ORIG v p
  d.updRing (fun r => { r with
    nextFrom := SMap.set 0 r.nextFrom p (d.count + 1)
    wrote := if again then r.wrote else r.wrote.filter (fun w => w.1 != p) ++ [was] })

/-! ## Eligibility (R31, R39, R47) -/

/-- The launch conditions of R47 hold for a command, its queue's earlier ones having launched: its not-before count has come,
on a running count that is aligned if one is given; the command it waits for has committed; and, if ORDERED, every earlier
command of its queue has completed. -/
def Dev.eligibleNow (d : Dev) (c : Cmd) : Bool :=
  c.causes.isEmpty && c.waitOn.isNone &&
  (c.notBefore == 0 || (d.ring.running && d.f .RING_STATUS_STATE != 0 && decide (c.notBefore ≤ d.count))) &&
  (!c.ordered || d.cmds.all (fun e => e.queue != c.queue || decide (c.id ≤ e.id)))

/-- The next command of a queue to launch (R47). -/
def Dev.nextLaunch (d : Dev) (q : Nat) : Option Cmd := d.cmds.find? (fun c => c.queue == q && !c.launched && !c.ended)

/-- A command's eligibility count is the first at which its launch conditions hold (R47). -/
def Dev.noteEligible (d : Dev) : Dev :=
  (List.range 64).foldl (fun (d : Dev) q =>
    match d.nextLaunch q with
    | none => d
    | some c =>
      if c.eligible.isNone && d.eligibleNow c then d.updCmd c.id (fun c => { c with eligible := some d.count }) else d) d

/-! ## Moves (R35, R36) -/

/-- The distance of two counts. -/
def apart (a b : Nat) : Nat := (a - b) + (b - a)

/-- RING_NEXT and RING_ORIG as a request of this count finds them: a host write of the same count comes after it
(Table 2.7). -/
def Dev.schedule (d : Dev) (p : Nat) : Nat × Nat :=
  match d.ring.wrote.find? (fun w => w.1 == p && w.2.1 == d.count) with
  | some (_, _, next, orig) => (next, orig)
  | none => (d.f .RING_NEXT_NEXT p, d.f .RING_ORIG_ORIG p)

/-- An accepted request sets RING_NEXT, unless something later in the order of Table 2.7 has set it in this count: a host
write, or, for a BOUNDARY_IN edge, an accepted billet. -/
def Dev.moveTo (d : Dev) (p target : Nat) (billet : Bool) : Dev :=
  let written := d.ring.wrote.any (fun w => w.1 == p && w.2.1 == d.count)
  let later := written || (!billet && SMap.get 0 d.ring.moved p == d.count + 1)
  let d := if billet then d.updRing (fun r => { r with moved := SMap.set 0 r.moved p (d.count + 1) }) else d
  if later then d
  else (d.setF .RING_NEXT_NEXT target p).updRing (fun r => { r with nextFrom := SMap.set 0 r.nextFrom p (d.count + 1) })

/-- A request to move a partition's next boundary, of a billet that names a step or of a BOUNDARY_IN edge: refused, or
accepted; and whether it was accepted (R35). -/
def Dev.moveBoundary (d : Dev) (p target : Nat) (step : Option Nat) : Dev × Bool :=
  let who : Who := { job := d.jobOf p, part := some p }
  let next := (d.f .RING_STEP_STEP p + 1) % 2 ^ 32
  let s := d.schedule p
  if s.1 = 0 ∨ step.any (· != next) = true ∨ 4096 < apart target s.2 then
    ((d.addF .RING_MOVES_REFUSED 1 p).post .BOUNDARY_REFUSED 0 0 who, false)
  else
    let d := (d.addF .RING_MOVES_ACCEPTED 1 p).moveTo p target step.isSome
    (if target ≤ d.count then d.post .BOUNDARY_LATE 0 0 who else d, true)

/-- A boundary billet for an accepted move (Table 2.6). A partition may be armed while it holds no job; its billet then
carries job ID 0, which the spec leaves open (log 121). -/
def Dev.boundaryBillet (d : Dev) (p target : Nat) : Billet :=
  let mask := d.f .RING_BFWD_MASK_LO_MASK_LO + d.f .RING_BFWD_MASK_HI_MASK_HI * 2 ^ 64
  mkBillet { type := 1, tc := 4, job := d.jobOf p, src := d.node, mask := some mask }
    (padTo 64 (leBytes 2 2 ++ leBytes 2 d.node ++ leBytes 4 ((d.f .RING_STEP_STEP p + 1) % 2 ^ 32) ++ leBytes 8 target))

/-- BOUNDARY_IN at one partition: its move, forwarded where accepted and FWD_EN is 1 (R35, R36). -/
def Dev.boundaryInAt (d : Dev) (p : Nat) : Dev :=
  let target := d.count + d.f .RING_BIN_CFG_DELAY
  match d.moveBoundary p target none with
  | (d, true) => if d.flag .RING_BIN_CFG_FWD_EN then (d.inject 43 none [d.boundaryBillet p target]).pump else d
  | (d, false) => d

/-- BOUNDARY_IN: an edge sampled at the count asks each masked partition; while the count is stopped it is lost (R35,
R39). No partition is masked before the image sets PART_MASK. -/
def Dev.boundaryEdge (d : Dev) : Dev :=
  if !d.ring.running || d.boot.cold || d.boot.halted then d
  else
    let d := d.settleDue
    ((List.range 16).filter (fun p => bit (d.f .RING_BIN_CFG_PART_MASK) p)).foldl Dev.boundaryInAt d

/-- BOUNDARY_BILLET: the next one delivered asks its job's partition (R35); a job that has left since delivery is counted
as a rejected one (R267). -/
def Dev.boundaryIn (d : Dev) : Dev :=
  match d.takeInbox (fun a => a.port == 43 && bType a.b == 1 && bPay a.b 0 0 16 == 2) with
  | none => d
  | some (a, d) =>
    match d.partOf (bJob a.b) with
    | some p => ((d.settlePart p).moveBoundary p (bPay a.b 8 0 64) (some (bPay a.b 4 0 32))).1
    | none => (d.addF .FAB_DROP_REJECT_JOB 1).postFirst .FAB_JOB_REJECT 0 0 (bJob a.b) { job := bJob a.b }

/-! ## Stall reports (R34) -/

/-- A wait that goes on: the count at which it began, its threshold, its code, its index field and whom it concerns. -/
structure Stall where
  start : Nat
  threshold : Nat
  code : Code
  index : Nat
  who : Who
  deriving DecidableEq, Repr

/-- A stall of a command, with STEP_STALL as its status. -/
def Cmd.stall (c : Cmd) (start threshold : Nat) (code : Code) (index : Nat) : Stall :=
  ⟨start, threshold, code, index, c.who Status.stepStall.num⟩

/-- A stall of a partition. -/
def Dev.partStall (d : Dev) (p start threshold : Nat) (code : Code) (index : Nat) : Stall :=
  ⟨start, threshold, code, index, { job := d.jobOf p, part := some p, status := Status.stepStall.num }⟩

/-- A wait for a version buffer: the launch, or a LOAD_PROGRAM's claims (R206). -/
def Dev.stallVersion (d : Dev) (id : Nat) : Option Stall := do
  let c ← d.cmd? id
  let t ← c.heldAt
  if c.ended then none else some (c.stall t (d.f .TIER_STALL_T c.part) .TIER_VER_WAIT 0)

/-- A LAYER's wait for a fetch past its deadline (R227). -/
def Dev.stallFetch (d : Dev) (id : Nat) : Option Stall := do
  let c ← d.cmd? id
  let r ← d.run? id
  let t ← r.missAt
  if c.running && r.waits.any (fun e => !r.met c e) then some (c.stall t (d.f .TIER_STALL_T c.part) .TIER_FETCH_WAIT 0) else none

/-- An EXCHANGE's or COMBINE's wait for receipts (R120). -/
def Dev.stallReceive (d : Dev) (id : Nat) : Option Stall := do
  let c ← d.cmd? id
  let x ← d.xeOf id
  if c.running && !c.ready then some (c.stall c.launchAt (d.f .XE_STALL_T c.part) .XE_WAIT (d.waitsFor c x)) else none

/-- A SWAP's wait for its build (R239). -/
def Dev.stallBuild (d : Dev) (id : Nat) : Option Stall := do
  let c ← d.cmd? id
  let x ← d.swaps.find? (fun x => x.id == id)
  if c.running && !x.ready then some (c.stall c.launchAt (d.f .TIER_STALL_T c.part) .SWAP_BUILD_WAIT 0) else none

/-- A window ring's wait for responses, from its oldest outstanding line (R282). -/
def Dev.stallWindow (d : Dev) (ring : Nat) : Option Stall := do
  let e ← d.win.entries.find? (fun e => e.ring == ring && e.lines.any (fun l => l.slot.isSome))
  some (d.partStall e.part e.issued (d.f .WIN_STALL_T) .WIN_WAIT ring)

/-- A COLLECTIVE's wait for its peers (R300). -/
def Dev.stallColl (d : Dev) (id : Nat) : Option Stall := do
  let c ← d.cmd? id
  let x ← d.collOf id
  if c.running && !c.ready then some (c.stall c.launchAt (d.f .COLL_STALL_T c.part) .COLL_WAIT (x.waitsFor c)) else none

/-- An ADD_MSG's wait for its ACK: the index holds the owner's rank, the one not yet heard from (R300, R305). -/
def Dev.stallAdd (d : Dev) (id : Nat) : Option Stall := do
  let c ← d.cmd? id
  let _ ← d.coll.adds.find? (fun a => a.id == id)
  if c.running && !c.ready then some (c.stall c.launchAt (d.f .COLL_STALL_T c.part) .COLL_ADD_WAIT c.destRank) else none

/-- The wait as it stands, if it goes on. -/
def Dev.stall? (d : Dev) : Wait → Option Stall
  | .version id => d.stallVersion id
  | .fetch id => d.stallFetch id
  | .grant p =>
    if d.flag .SV_GATE_AWAITING p then
      some (d.partStall p (SMap.get 0 d.sv.closedAt p) (d.f .SV_GRANT_STALL_T p) .SV_GRANT_WAIT 0) else none
  | .receive id => d.stallReceive id
  | .early k => do
    let x ← d.xe.ctxs.find? (fun x => x.serial == k && x.cmd.isNone)
    some (d.partStall x.part x.since (d.f .XE_STALL_T x.part) .XE_EARLY_WAIT 0)
  | .build id => d.stallBuild id
  | .window r => d.stallWindow r
  | .collective id => d.stallColl id
  | .collEarly k => do
    let x ← d.coll.ctxs.find? (fun x => x.serial == k && x.cmd.isNone)
    some (d.partStall x.part x.since (d.f .COLL_STALL_T x.part) .COLL_EARLY_WAIT 0)
  | .addAck id => d.stallAdd id

/-- Thresholds of a wait already reported since it began. -/
def Dev.stallsDone (d : Dev) (w : Wait) (start : Nat) : Nat :=
  match d.stalls.find? (fun e => e.1 == w && e.2.1 == start) with
  | some e => e.2.2
  | none => 0

/-- The command that a wait belongs to, so that its first report gives its record's REPORT_SEQ (R52). -/
def waitCmd : Wait → Option Nat
  | .version id | .fetch id | .receive id | .build id | .collective id | .addAck id => some id
  | _ => none

/-- STALL_REPORT: the next threshold of a wait has been reached (R34); none is reported while the count is stopped (R39),
and a threshold of 0 reports nothing. -/
def Dev.stallReport (d : Dev) (w : Wait) : Dev :=
  match d.stall? w with
  | none => d
  | some s =>
    let n := d.stallsDone w s.start + 1
    if !d.ring.running || s.threshold == 0 || decide (d.count < s.start + n * s.threshold) then d
    else
      let d := { d with stalls := d.stalls.filter (fun (e : Wait × Nat × Nat) => e.1 != w) ++ [(w, s.start, n)] }
      let d := match w with
        | .grant p => d.addF .SV_GRANTS_STALLS 1 p
        | _ => d
      match waitCmd w with
      | some id => d.postCmd id s.code s.who.status 0 s.index n
      | none => d.post s.code 0 s.index s.who n

/-! ## Meanings -/

/-- RING_NEXT_WRITE. -/
def execRingNextWrite (ap : Aperture) (p : Fin 16) (v : BitVec 64) (s : State) : Host.Outcome State Fault Refusal :=
  s.act (fun d => d.hostWrite ap .RING_NEXT p 0 (fun d => d.setNext p v))

/-- BOUNDARY_TAKEN. -/
def execBoundaryTaken (p : Fin 16) (s : State) : Host.Outcome State Fault Refusal :=
  s.act (fun d => if d.boundaryDue p then d.takeBoundary p else d)

/-- BOUNDARY_IN. -/
def execBoundaryIn (s : State) : Host.Outcome State Fault Refusal := s.act Dev.boundaryEdge

/-- BOUNDARY_BILLET. -/
def execBoundaryBillet (s : State) : Host.Outcome State Fault Refusal := s.act Dev.boundaryIn

/-- STALL_REPORT. -/
def execStallReport (w : Wait) (s : State) : Host.Outcome State Fault Refusal := s.engine (fun d => d.stallReport w)

end Sys2Proof.Machine
end

