-- ==== Sys2Proof/Machine/Alignment.lean ====
section
/-! DEFINITION. The ring count and its alignment: reference edges and what accrues with each count, alignment billets, the
root, and loss of the reference (R23 to R30, R39, R68, R302, R343). -/

namespace Sys2Proof.Machine

/-! ## States (R25, R348) -/

/-- The alignment state changes: a device that is not ALIGNED marks the open tally period, and an entry into SLIPPED is
counted. -/
def Dev.setAlign (d : Dev) (st : Nat) : Dev :=
  let was := d.f .RING_STATUS_STATE
  let d := d.setF .RING_STATUS_STATE st
  let d := if st = 3 ∧ was ≠ 3 then d.addF .RING_MISMATCH_SLIPS 1 else d
  if st = 1 then d else d.updScl (fun s => { s with unaligned := true })

/-- The device is the root (R25). -/
def Dev.isRoot (d : Dev) : Bool := d.node == d.f .RING_CFG_ROOT_NODE

/-- The links toward the parent, by the tree rule (R25). -/
def Dev.towardRoot (d : Dev) : List Nat :=
  let r := d.f .RING_CFG_ROOT_NODE
  match [Dim.w, .z, .y].find? (fun k => coord r k != coord d.node k) with
  | some k => ringLinks k (d.plusShorter k (coord r k))
  | none => trayLinks (coord d.node .x) (coord r .x)

/-- The parent link, if one is up: the root has none; the override, where enabled, is the only choice (R25, R26). -/
def Dev.parentLink (d : Dev) : Option Nat :=
  if d.isRoot then none
  else
    let ls := if d.flag .RING_CFG_PARENT_OVR_EN then [d.f .RING_CFG_PARENT_OVR] else d.towardRoot
    (ls.filter (fun l => decide (l < 36) && d.linkUp l)).foldl (fun (b : Option Nat) l => some (min l (b.getD l))) none

/-! ## The count (R23, R68, R302, R343) -/

/-- Arrays that hold a tile, each with its command, in launch order (R343). -/
def Dev.busyArrays (d : Dev) : List (Nat × Nat) :=
  d.arr.runs.foldl (fun (l : List (Nat × Nat)) r =>
    match d.cmd? r.id with
    | none => l
    | some c =>
      if !c.running then l
      else
        let mine := ((r.units.map LUnit.arr).dedup).filter (fun n => (r.turn (d.shape c.part) n).any (fun t => d.tileReady c r t.1 n))
        l ++ (mine.filter (fun n => !l.any (fun e => e.1 == n))).map (fun n => (n, r.id))) []

/-- The array-counts of one count: to each command's queue and to its job (R68, R343). -/
def Dev.accrueArrays (d : Dev) : Dev :=
  let busy := d.busyArrays
  d.cmds.foldl (fun d c =>
    let n := (busy.filter (fun e => e.2 == c.id)).length
    if n = 0 then d else (d.addF .CMD_ACCT_ENGINE_ARRAY_COUNTS n c.queue).sclArrays c.job c.part n) d

/-- The stages of collectives that held a chunk in one count (R302). -/
def Dev.accrueStages (d : Dev) : Dev :=
  let runs := d.coll.ctxs.filterMap (fun x => (x.cmd.bind d.cmd?).map (fun c => (c, x)))
  (List.range 16).foldl (fun d p => (List.range 4).foldl (fun d s =>
    let mine := runs.filter (fun e => e.1.part == p)
    let d := if mine.any (fun e => e.2.busy e.1 s) then d.addF .COLL_OCC_BUSY 1 p s else d
    if mine.any (fun e => e.2.blocked e.1 s) then d.addF .COLL_OCC_BLOCKED 1 p s else d) d) d

/-- RING_REF_EDGE: what the count that ends has accrued, and the next count. -/
def Dev.edge (d : Dev) : Dev :=
  if d.boot.cold || !d.ring.running then d
  else
    let d := (d.tallyEnd.accrueArrays.accrueStages).noteReasons.noteEligible
    (((d.setReg .RING_COUNT (d.reg .RING_COUNT + 1)).updRing (fun r => { r with edges := r.edges + 1 })).endHolds).markTally

/-- The count jumps to a value (R23, R346). -/
def Dev.jump (d : Dev) (new : Nat) : Dev :=
  let was := d.count
  if was = new then d else (d.setReg .RING_COUNT (BitVec.ofNat 64 new)).tallyJump was new

/-! ## Adoption and checks (R28; log 27) -/

/-- The units of an alignment calculation in one count: 1/65,536 count and 0.5 ns both divide it. -/
def alignUnit : Int := 1310720

/-- Root time of the last reference edge, in units, `edges` of which have come since the edge before the arrival: the time
a billet queues plays no part (R27, R28). -/
def rootTime (count : Nat) (fraction : Int) (delay since edges : Nat) : Int :=
  ((count + edges : Nat) : Int) * alignUnit + fraction * 20 + (delay : Int) * 65536 - (since : Int) * 20

/-- The local count with its fraction, in units. -/
def Dev.localTime (d : Dev) : Int := (d.count : Int) * alignUnit + toSigned 16 (d.f .RING_STATUS_FRACTION) * 20

/-- Adopt a count: refused where it would move the count back while a partition holds a job (R23, Table 2.4). What a
forward move passes is handled in count order, and held commands become eligible (R39). -/
def Dev.adopt (d : Dev) (count : Nat) (fraction : Int) (depth : Nat) : Dev × Bool :=
  if count < d.count ∧ d.anyValid = true then ((d.setF .RING_STATUS_BACKSTEP 1).post .RING_BACKSTEP, false)
  else
    let fresh := d.f .RING_STATUS_STATE = 0
    let ahead := d.count < count
    let d := (d.jump count).setF .RING_STATUS_FRACTION (ofSigned 16 fraction)
    let d := ((d.setF .RING_STATUS_DEPTH depth).setAlign 1).updRing (fun r => { r with lastParent := d.count })
    let d := if ahead then d.settleDue.noteEligible else d
    (if fresh then d.sendAlignAll else d, true)

/-- Adopt the nearest count to a root time; the remainder is the fraction. -/
def Dev.adoptTime (d : Dev) (root : Int) (depth : Nat) : Dev × Bool :=
  let c := ((root + alignUnit / 2) / alignUnit).toNat
  d.adopt c ((root - (c : Int) * alignUnit) / 20) depth

/-- Show the error of a parent check in RING_ERR, in 1/256 count: rounded to the nearest unit, and LAST_ERR held at the
limits of its 16 bits, which the spec leaves open (log 122). -/
def Dev.recordErr (d : Dev) (err : Int) : Dev :=
  let e := (err + 2560) / 5120
  let last := max (-32768) (min 32767 e)
  (d.setF .RING_ERR_LAST_ERR (ofSigned 16 last)).setF .RING_ERR_MAX_ERR (max (d.f .RING_ERR_MAX_ERR) (min e.natAbs 65535))

/-- An error within 3 counts. -/
def within3 (err : Int) : Bool := decide (err.natAbs ≤ 3 * 1310720)

/-- A check of the parent, with no adoption (Table 2.4). -/
def Dev.checkParent (d : Dev) (err : Int) : Dev :=
  let d := d.recordErr err
  if within3 err then d.setAlign 1
  else if d.f .RING_STATUS_STATE = 3 then d
  else (d.setAlign 3).post .RING_SLIP

/-- The root waits for a neighbour's billet (R29). -/
def Dev.rootWaits (d : Dev) : Bool := d.ring.rootWait.any (fun w => !w.2)

/-- An alignment billet from the parent link, or from any neighbour of a root that waits (Table 2.4). -/
def Dev.fromParent (d : Dev) (root : Int) (depth : Nat) : Dev :=
  let err := d.localTime - root
  let again := d.ring.reacquire
  let d := d.updRing (fun r => { r with reacquire := false, lastParent := d.count })
  if d.f .RING_STATUS_STATE = 0 ∨ again = true then
    match d.adoptTime root (if d.isRoot then 0 else depth + 1) with
    | (d, ok) => if ok && d.isRoot then d.updRing (fun r => { r with rootWait := none }) else d
  else d.checkParent err

/-- ALIGNMENT_BILLET: the next one delivered (R28). One with a foreign ROOT leaves re-acquire pending, also from the parent
link (log 123). -/
def Dev.alignIn (d : Dev) : Dev :=
  match d.takeInbox (fun a => a.port == 43 && bType a.b == 1 && bPay a.b 0 0 16 == 1) with
  | none => d
  | some (a, d) =>
    if d.stage < 6 then d
    else if bPay a.b 2 0 16 ≠ d.f .RING_CFG_ROOT_NODE then d.addF .RING_MISMATCH_PEER 1
    else
      let delay := (a.link.map (fun l => SMap.get 0 d.ring.delay l)).getD 0 - 1
      let root := rootTime (bPay a.b 8 0 64) (toSigned 16 (bPay a.b 6 0 16)) delay a.since (d.ring.edges - a.edge)
      let parent := if d.isRoot then d.rootWaits else a.link.isSome && a.link == d.parentLink
      if parent then d.fromParent root (bPay a.b 4 0 8)
      else if within3 (d.localTime - root) then d else d.addF .RING_MISMATCH_PEER 1

/-- HOLDOVER_TIMEOUT: 2^22 counts without a billet from the parent (R25); the root has no parent. -/
def Dev.holdover (d : Dev) : Dev :=
  let st := d.f .RING_STATUS_STATE
  if d.isRoot || !(st == 1 || st == 3) || decide (d.count < d.ring.lastParent + 2 ^ 22) then d else d.setAlign 2

/-! ## The root (R29) -/

/-- The root begins to acquire: at stage 6, or when its reference returns. -/
def Dev.rootAcquire (d : Dev) (again : Bool) : Dev :=
  if d.isRoot then d.updRing (fun r => { r with rootWait := some (d.count, false), rootAgain := again }) else d

/-- ROOT_ACQUIRE_TIMEOUT: the wait for a neighbour's billet ends without one. -/
def Dev.rootTimeout (d : Dev) : Dev :=
  match d.ring.rootWait with
  | some (t, false) => if d.count < t + 2 ^ 21 then d else d.updRing (fun r => { r with rootWait := some (t, true) })
  | _ => d

/-- The count lies within 3 counts of one whose bits [19:0] are zero. -/
def onMark (c : Nat) : Bool := decide (c % 2 ^ 20 ≤ 3) || decide (2 ^ 20 - c % 2 ^ 20 ≤ 3)

/-- A RING_ALIGN edge at a root that waits for one: the first acquisition sets the count to 0, a later one keeps the count
or moves it forward. A count of 0 while a partition holds a job is refused like any backward adoption, and the root waits
on (log 124). -/
def Dev.rootEdge (d : Dev) : Dev :=
  let target := if !d.ring.rootAgain then 0 else if onMark d.count then d.count else (d.count / 2 ^ 20 + 1) * 2 ^ 20
  match d.adopt target 0 0 with
  | (d, true) => d.updRing (fun r => { r with rootWait := none })
  | (d, false) => d

/-- RING_ALIGN: an edge sampled on RING_REF; only the root acts on it. -/
def Dev.ringAlign (d : Dev) : Dev :=
  if d.boot.cold || !d.ring.running || !d.isRoot || decide (d.stage < 6) then d
  else
    match d.ring.rootWait with
    | some (_, true) => d.rootEdge
    | some (_, false) => d
    | none =>
      match d.f .RING_STATUS_STATE with
      | 0 => d
      | 3 => if onMark d.count then d.setAlign 1 else d.post .RING_SLIP
      | _ => if onMark d.count then d else (d.setAlign 3).post .RING_SLIP

/-! ## Loss of the reference (R39) -/

/-- RING_REF_LOST: the count stops. -/
def Dev.refLost (d : Dev) : Dev :=
  if d.boot.cold || !d.ring.running then d
  else
    let d := d.updRing (fun r => { r with running := false })
    ((d.updScl (fun s => { s with unaligned := true })).setF .RING_STATUS_REF_LOST 1).post .RING_REF_LOST

/-- RING_REF_RETURN: the device is UNALIGNED and counts on; the root re-acquires. -/
def Dev.refReturn (d : Dev) : Dev :=
  if d.boot.cold || d.ring.running then d
  else
    let d := (d.updRing (fun r => { r with running := true })).setAlign 0
    if d.stage < 6 then d else d.rootAcquire true

/-! ## RING_CFG and RING_CTRL -/

/-- RING_CFG takes a value: a device that is no longer the root gives up its acquisition, the root's DEPTH is 0, and the
links of a dimension that the node's coordinate no longer fits are held down (R26, R27, R29, R244). -/
def Dev.ringCfg (d : Dev) (v : BitVec 64) : Dev :=
  let d := d.plainWrite .RING_CFG v
  let d := if d.isRoot then d.setF .RING_STATUS_DEPTH 0 else d.updRing (fun r => { r with rootWait := none })
  d.holdLinks.checkNode

/-- A write of RING_CTRL: it marks re-acquire as pending, or clears MAX_ERR. -/
def Dev.ringCtrl (d : Dev) (reacquire clear : Bool) : Dev :=
  let d := if reacquire then d.updRing (fun r => { r with reacquire := true }) else d
  if clear then d.setF .RING_ERR_MAX_ERR 0 else d

/-- Alignment billets at a count whose bits [19:0] are zero, once for the count (R27). -/
def Dev.alignSend (d : Dev) : Dev :=
  if d.count % 2 ^ 20 ≠ 0 ∨ d.ring.sentAt = d.count + 1 then d
  else (d.updRing (fun r => { r with sentAt := d.count + 1 })).sendAlignAll

/-! ## Meanings -/

/-- RING_REF_EDGE. -/
def execRingRefEdge (s : State) : Host.Outcome State Fault Refusal := s.act Dev.edge

/-- ALIGNMENT_BILLET. -/
def execAlignmentBillet (s : State) : Host.Outcome State Fault Refusal := s.act Dev.alignIn

/-- ALIGNMENT_SEND: at a count whose bits [19:0] are zero, once (R27). -/
def execAlignmentSend (s : State) : Host.Outcome State Fault Refusal := s.act Dev.alignSend

/-- HOLDOVER_TIMEOUT. -/
def execHoldoverTimeout (s : State) : Host.Outcome State Fault Refusal := s.act Dev.holdover

/-- RING_ALIGN. -/
def execRingAlign (s : State) : Host.Outcome State Fault Refusal := s.act Dev.ringAlign

/-- ROOT_ACQUIRE_TIMEOUT. -/
def execRootAcquireTimeout (s : State) : Host.Outcome State Fault Refusal := s.act Dev.rootTimeout

/-- REACQUIRE: a write of 1 to RING_CTRL.REACQUIRE. -/
def execReacquire (ap : Aperture) (s : State) : Host.Outcome State Fault Refusal :=
  s.act (fun d => d.hostWrite ap .RING_CTRL 0 0 (fun d => d.ringCtrl true false))

/-- CLEAR_MAX: a write of 1 to RING_CTRL.CLEAR_MAX. -/
def execClearMax (ap : Aperture) (s : State) : Host.Outcome State Fault Refusal :=
  s.act (fun d => d.hostWrite ap .RING_CTRL 0 0 (fun d => d.ringCtrl false true))

/-- RING_REF_LOST. -/
def execRingRefLost (s : State) : Host.Outcome State Fault Refusal := s.act Dev.refLost

/-- RING_REF_RETURN. -/
def execRingRefReturn (s : State) : Host.Outcome State Fault Refusal := s.act Dev.refReturn

end Sys2Proof.Machine
end

