-- ==== Sys2Proof/Machine/Operands.lean ====
section
/-! DEFINITION. The operands of a descriptor: the checks at its fetch, by opcode (R50, R51, R61 to R64, R71, R104, R153, R190,
R208, R211, R220, R234, R236, R284, R304, R367). Bits of ARGS that an opcode's layout gives no field are reserved
(log 28). -/

namespace Sys2Proof.Machine

/-- Every input and output handle is 0. -/
def Cmd.noHandles (c : Cmd) : Bool :=
  c.inp 0 == 0 && c.inp 1 == 0 && c.inp 2 == 0 && c.outp 0 == 0 && c.outp 1 == 0

/-- n bytes of ARGS from byte k on are 0. -/
def Cmd.zeroArgs (c : Cmd) (k n : Nat) : Bool := c.arg k 0 (8 * n) == 0

/-! ## Privilege (Table 3.4) -/

/-- The privilege of a queue as an aperture's number: an unbound queue has none (R44). -/
def Dev.sqPriv (d : Dev) (q : Nat) : Nat :=
  if q = 0 then 0
  else match d.f .CMD_SQ_CFG_PRIV q with
    | 1 => 2
    | 2 => 1
    | _ => 3

/-- The lowest queue privilege of an opcode, as an aperture's number; none for a value that is no opcode. -/
def opPriv (op : Nat) : Option Nat :=
  if op = 0 ∨ 0x0F < op then none
  else if op = 0x09 ∨ op = 0x0C ∨ op = 0x0F then some 1
  else if op = 0x0D ∨ op = 0x0E then some 0
  else some 2

/-- FENCE's PROTECT needs queue 0 (R61), and a Supervisor's PREEMPT its own partition (R62). -/
def Dev.argsPriv (d : Dev) (q : Nat) (c : Cmd) : Bool :=
  match c.opcode with
  | 0x0B => c.arg 0 0 1 == 0 || q == 0
  | 0x0C =>
    let t := c.arg 1 0 8
    q == 0 ||
      (if c.arg 0 0 8 = 0 then t == d.f .CMD_SQ_CFG_PARTITION q
       else d.f .CMD_SQ_CFG_PRIV t != 0 && d.f .CMD_SQ_CFG_PARTITION t == d.f .CMD_SQ_CFG_PARTITION q)
  | _ => true

/-! ## The owning chapters' checks -/

/-- A LAYER (R153, R190, Table 7.4, Table 9.3). -/
def Cmd.layerOk (c : Cmd) : Bool :=
  let k := c.kind
  let tag := c.arg 12 0 32
  let fmt := c.arg 1 0 3
  k < 8 && c.epi < 5 && c.arg 1 7 1 == 0 && c.arg 3 4 4 == 0 && c.zeroArgs 7 1 &&
  c.inp 0 != 0 && c.inp 1 != 0 && c.outp 1 == 0 && (c.arg 1 6 1 == 0 || fmt == 7) &&
  (if c.router then tag == c.tag && tag != 0 && c.epi == 0 && fmt == 0 && c.arg 1 3 1 == 0
   else tag == 0 && c.outp 0 != 0) &&
  (if k = 2 ∨ c.backward then c.inp 2 != 0 else if k = 0 ∨ k = 6 then true else c.inp 2 == 0) &&
  (if k < 4 then c.zeroArgs 8 4
   else c.zeroArgs 3 1 &&
     (if c.backward then c.pfmt != 0 && c.pfmt ≤ 4 && c.arg 8 28 4 == 0
      else c.gradOrStash != 0 && c.arg 8 24 8 == 0))

/-- The SIEVE that a router LAYER pairs with: in flight, one whose record still waits included (R46), fetched earlier from
its queue, unpaired, the most recent of those (R72). -/
def Dev.pairOf (d : Dev) (c : Cmd) : Option Cmd :=
  (d.cmds.filter (fun s => s.opcode == 2 && s.pair.isNone && s.queue == c.queue && decide (s.id < c.id) &&
    s.scoreTag == c.tag)).getLast?

/-- A SIEVE (R71, Table 4.2). -/
def Dev.sieveOk (d : Dev) (c : Cmd) : Bool :=
  c.scoreTag != 0 && c.stage != 3 && c.outp 0 != 0 && ((c.inp 1 == 0) == (c.outp 1 == 0)) &&
  (if c.stage = 1 then c.inp 2 == 0 && !c.capFromGrant
   else if c.stage = 2 then c.inp 2 != 0
   else c.inp 2 == 0 || !c.capFromGrant) &&
  d.flag .SV_RPT_CFG_ENABLE c.part && c.arg 5 5 3 == 0 && c.zeroArgs 6 2 && c.zeroArgs 12 4

/-- An EXCHANGE or COMBINE (R104, Table 5.4). -/
def Dev.exchangeOk (d : Dev) (c : Cmd) : Bool :=
  c.myRank < c.members && c.inp 0 != 0 && c.inp 1 != 0 && c.inp 2 != 0 && c.outp 0 != 0 &&
  c.arg 4 9 7 == 0 && c.arg 7 1 7 == 0 && c.zeroArgs 12 4 &&
  (if c.opcode = 3 then c.outp 1 == 0 && c.zeroArgs 8 4 else c.resid != 0 && c.arg 8 24 8 == 0) &&
  !d.xidClosed c.part c.dir c.xid

/-- A COLLECTIVE (R284, Table 14.2). -/
def Dev.collectiveOk (d : Dev) (c : Cmd) : Bool :=
  c.redop != 3 && c.cType != 3 && (!c.carry16 || c.cType == 1) &&
  (!c.cMatrix || (c.cOp != 1 && c.cOp != 2 && c.cType != 2)) &&
  c.chunkCode ≤ 9 && c.cElems != 0 && c.cChunks ≤ 2048 && c.cRank < c.cMembers && c.cRoot < c.cMembers &&
  (if c.cOp = 3 ∧ c.cRank ≠ c.cRoot then c.inp 0 == 0 else c.inp 0 != 0) &&
  (if 2 ≤ c.cOp then c.inp 1 == 0 && c.inp 2 == 0 else c.inp 1 != 0 || c.inp 2 == 0) &&
  c.outp 0 != 0 && c.outp 1 == 0 && !d.cidClosed c.part c.cid &&
  c.arg 2 7 1 == 0 && c.arg 3 7 1 == 0 && c.arg 4 9 7 == 0 && c.zeroArgs 10 2

/-- An ADD_MSG (R304, Table 14.9). -/
def Cmd.addOk (c : Cmd) : Bool :=
  c.aType != 3 && c.addVa % typeBytes c.aType == 0 && c.inp 0 != 0 && c.inp 1 == 0 && c.inp 2 == 0 && c.outp 0 == 0 &&
  c.outp 1 == 0 && c.arg 2 2 6 == 0 && c.zeroArgs 3 1 && c.arg 8 58 6 == 0

/-- A COPY (R211, R234, Table 10.4, Table 11.2). -/
def Cmd.copyOk (c : Cmd) : Bool :=
  c.arg 0 3 5 == 0 && c.inp 2 == 0 && c.outp 1 == 0 &&
  match c.mode with
  | 0 => c.inp 0 != 0 && c.outp 0 != 0 && c.inp 1 == 0 && c.zeroArgs 1 15
  | 1 => c.inp 0 == 0 && c.outp 0 != 0 && c.inp 1 == 0 && c.zeroArgs 1 7
  | 2 => c.inp 0 != 0 && c.outp 0 == 0 && c.inp 1 == 0 && c.zeroArgs 1 7
  | 3 => c.outp 0 == 0 && c.inp 1 != 0 && c.streamBytes != 0 && c.inp 0 == 0 &&
      decide (c.firstSeg + ceilDiv c.streamBytes 2097152 ≤ 65536)
  | 4 => c.outp 0 == 0 && c.inp 1 != 0 && c.streamBytes != 0 && c.inp 0 != 0 && c.zeroArgs 8 8 &&
      decide (c.firstSeg + ceilDiv c.streamBytes 2097152 ≤ 65536)
  | _ => false

/-- A PLACE (R208, Table 10.3). -/
def Cmd.placeOk (c : Cmd) : Bool :=
  c.noHandles && c.arg 3 5 3 == 0 &&
  match c.placeTier with
  | 0 => !c.placeMove
  | 1 => c.placeBase % 64 == 0
  | 2 => c.placeBase % 64 == 0 && c.placeBase < 2 ^ 22
  | _ => false

/-- A SWAP (R236). -/
def Dev.swapOk (d : Dev) (c : Cmd) : Bool :=
  c.inp 0 != 0 && c.inp 1 == 0 && c.inp 2 == 0 && c.outp 0 != 0 && c.outp 1 == 0 && c.switchAt != 0 &&
  decide (c.switchAt ≤ d.count + 2 ^ 36) && c.zeroArgs 8 8

/-- A DISABLE (R63, R220). -/
def Cmd.disableOk (c : Cmd) : Bool :=
  c.noHandles && c.zeroArgs 1 1 &&
  match c.arg 0 0 8 with
  | 0 => decide (c.arg 2 0 16 ≤ 151) && c.zeroArgs 4 12
  | 1 => decide (c.arg 2 0 16 ≤ 35) && c.zeroArgs 4 12
  | 2 => decide (c.arg 2 0 16 ≤ 35) && decide (c.arg 4 0 8 < 4) && c.zeroArgs 5 11
  | 3 => c.zeroArgs 2 6 && c.arg 8 0 64 % 65536 == 0 && decide (c.arg 8 0 64 < hbmEnd)
  | _ => false

/-- The checks of the chapter that owns the opcode. -/
def Dev.argsOk (d : Dev) (c : Cmd) : Bool :=
  match c.opcode with
  | 0x01 => c.layerOk && (!c.router || (d.pairOf c).isSome)
  | 0x02 => d.sieveOk c
  | 0x03 => d.exchangeOk c
  | 0x04 => d.exchangeOk c
  | 0x05 => d.collectiveOk c
  | 0x06 => c.addOk
  | 0x07 => c.copyOk
  | 0x08 => c.placeOk
  | 0x09 => d.swapOk c
  | 0x0A => c.noHandles && c.loadHost % 64 == 0 && c.zeroArgs 12 4
  | 0x0B => c.noHandles && c.arg 0 1 7 == 0 && c.zeroArgs 1 15
  | 0x0C => c.noHandles && c.arg 2 1 7 == 0 && c.zeroArgs 3 13 &&
      (if c.arg 0 0 8 = 0 then c.arg 1 0 8 ≤ 15 else c.arg 0 0 8 == 1 && c.arg 1 0 8 != 0 && c.arg 1 0 8 ≤ 63)
  | 0x0D => c.disableOk
  | 0x0E => c.noHandles && c.arg 0 0 16 ≤ 151 && c.arg 2 0 16 ≤ 151 && c.zeroArgs 4 12
  | 0x0F => c.grantSeq != 0 && c.arg 4 1 7 == 0 && c.zeroArgs 5 3 && c.inp 2 == 0 && c.outp 0 == 0 && c.outp 1 == 0
  | _ => false

/-- Reserved fields outside ARGS are 0 (Table 3.3, R50). -/
def Cmd.reservedOk (c : Cmd) : Bool :=
  let n := c.desc.toNat
  field n 1 6 2 == 0 && field n 4 4 12 == 0 && field n 6 2 14 == 0 && field n 60 0 32 == 0 &&
  ([0, 1, 2].all (fun i => c.inp i < 2 ^ 24)) && c.outp 0 < 2 ^ 24 && c.outp 1 < 2 ^ 24

/-- The descriptor passes the checks of R51. -/
def Dev.descOk (d : Dev) (q : Nat) (c : Cmd) : Bool :=
  (opPriv c.opcode).any (fun p => d.sqPriv q ≤ p) && field c.desc.toNat 1 0 6 == q && c.reservedOk &&
  (q == 0 || (c.job == d.f .CMD_SQ_CFG_JOB q && c.part == d.f .CMD_SQ_CFG_PARTITION q)) &&
  d.argsPriv q c && decide (c.notBefore ≤ d.count + 2 ^ 36) && d.argsOk c

end Sys2Proof.Machine
end

