-- ==== Sys2Proof/Machine/Commands.lean ====
section
/-! DEFINITION. Commands from fetch to launch, and the commands that control others: FENCE, PREEMPT, DISABLE and ENABLE_SPARE
(R46, R47, R51, R57, R61 to R64, R94, R205, R206, R249). -/

namespace Sys2Proof.Machine

/-! ## Fetch (R46, R47, R51, R72) -/

/-- A command as fetched. -/
def newCmd (id q : Nat) (desc : Line) : Cmd :=
  { id := id, queue := q, desc := desc, nameable := true, waitOn := none, eligible := none, launched := false, launchAt := 0
    step := 0, ready := false, ended := false, causes := [], failed := [], passed := [], parts := 1, firstSeq := 0
    suspect := false, pair := none, heldAt := none, inputs := [], claims := [], deltas := [], waits := [] }

/-- The most commands that a queue may have in flight (R46). -/
def Dev.maxInflight (d : Dev) (q : Nat) : Nat :=
  if d.f .CMD_SQ_CFG_MAX_INFLIGHT q = 0 then 512 else d.f .CMD_SQ_CFG_MAX_INFLIGHT q

/-- A descriptor may be fetched from the queue (R43, R46). -/
def Dev.mayFetch (d : Dev) (q : Nat) : Bool :=
  d.ready && d.link.up && !d.stalled && d.flag .CMD_SQ_CTRL_ENABLE q && !d.flag .CMD_SQ_CTRL_HALTED q &&
  d.f .CMD_SQ_HEAD_HEAD q != d.f .CMD_SQ_TAIL_TAIL q && decide (d.cmds.length < 512) &&
  decide ((d.cmds.filter (fun c => c.queue == q)).length < d.maxInflight q)

/-- The command that a WAIT_TAG names, while it has not completed (R47). -/
def Dev.named (d : Dev) (q tag : Nat) : Option Cmd :=
  if tag = 0 then none else d.cmds.find? (fun c => c.queue == q && c.nameable && c.tag == tag && !c.ended)

/-- A fetched command joins those in flight; earlier ones of its queue with its TAG are named no more (R47). -/
def Dev.accept (d : Dev) (q : Nat) (desc : Line) : Dev :=
  let c := newCmd d.nextId q desc
  let c := { c with waitOn := (d.named q c.waitTag).map Cmd.id, nameable := c.tag != 0 }
  let older := mapIf (fun e => e.queue == q && e.tag == c.tag) (fun e => { e with nameable := false }) d.cmds
  { d with cmds := older ++ [c], nextId := d.nextId + 1 }

/-- The status in a command's record, while it waits to be written. -/
def Dev.heldStatus (d : Dev) (id : Nat) : Option Status :=
  d.link.held.findSome? (fun h => match h with
    | .completion k => if k.cmd = id then some k.status else none
    | .report _ => none)

/-- A router LAYER and its SIEVE become a pair; one whose SIEVE has been killed already dies with it (R72; log 139). -/
def Dev.makePair (d : Dev) (c : Cmd) : Dev :=
  match (if c.opcode = 1 ∧ c.router = true then d.pairOf c else none) with
  | none => d
  | some s =>
    let d := (d.updCmd c.id (fun c => { c with pair := some s.id })).updCmd s.id (fun s => { s with pair := some c.id })
    match d.heldStatus s.id with
    | some st => d.failCmd c.id st
    | none => d

/-- DESCRIPTOR_FETCH: the next descriptor of the queue is read, checked, and accepted or completed at once with
BAD_DESCRIPTOR. -/
def Dev.fetch (d : Dev) (q : Nat) (desc : Line) : Dev :=
  if !d.mayFetch q then d
  else
    let head := d.f .CMD_SQ_HEAD_HEAD q
    let d := d.emit (.memRead (d.f .CMD_SQ_BASE_BASE q * 64 + head * 64) 64)
    let d := d.setF .CMD_SQ_HEAD_HEAD ((head + 1) % d.sqSize q) q
    let id := d.nextId
    let d := d.accept q desc
    let c := newCmd id q desc
    if d.descOk q c then d.makePair c else d.endCmd id .badDescriptor d.count 0

/-! ## Launch (R47, R57, R94, R205, R206) -/

/-- An opcode that the grant gate holds (R94). -/
def Cmd.gated (c : Cmd) : Bool := 1 ≤ c.opcode && c.opcode ≤ 4

/-- A command that acts on others or on the gate by itself. -/
def Cmd.controls (c : Cmd) : Bool := 0x0C ≤ c.opcode && c.opcode ≤ 0x0F

/-- An earlier command of the queue is still at its launch: one that acts at its launch and has not acted yet (R62 to R64, R96;
log 29), or a LOAD_PROGRAM that has not claimed its objects, which its image names (R206, R367; log 66). -/
def Dev.launchDue (d : Dev) (c : Cmd) : Bool :=
  d.cmds.any (fun e => e.queue == c.queue && decide (e.id < c.id) && e.running && !e.ready &&
    ((e.controls && e.passed.isEmpty) || e.opcode == 10))

/-- The engine that the command needs has room for it; a launch that finds none is held without report (R73, R115, R237,
R285, R305). -/
def Dev.roomFor (d : Dev) (c : Cmd) : Bool :=
  match c.opcode with
  | 2 => (d.freeSv c.part).isSome
  | 3 => d.xeRoom c
  | 4 => d.xeRoom c
  | 5 => d.collRoom c
  | 6 => d.addFree.isSome
  | 9 => d.freeSwap.isSome
  | _ => true

/-- What an engine would read now, with no effect of the read. -/
def Dev.peek {α : Type} (d : Dev) (m : Op α) : Option α :=
  match (m.run.run d).1 with
  | .ok a => some a
  | .error _ => none

/-- The input handles of a command (R57, R104). -/
def Cmd.inputHandles (c : Cmd) : List Nat :=
  ([c.inp 0, c.inp 1, c.inp 2] ++ (if c.opcode = 4 then [c.resid] else [])).filter (· != 0)

/-- The reduce-on-write targets of a KIND 5: those of the entries that hold rows (R189, R197). -/
def gradTargets (c : Cmd) (v : Version) : Op (List Nat) := do
  let r ← checkedRecv v
  let t ← gradTable (← resolveNow c.id c.part c.gradOrStash)
  return (r.entries.filter (fun e => e.count ≠ 0)).map (fun e => t.getD e.slot 0)

/-- The targets of a backward LAYER. -/
def Dev.targetsOf (d : Dev) (c : Cmd) : List Nat :=
  if c.opcode ≠ 1 ∨ c.gradOrStash = 0 then []
  else if c.kind = 4 then [c.gradOrStash]
  else if c.kind = 5 then
    match (d.resolve c.id c.part (c.inp 0)).2 with
    | some v => ((d.peek (gradTargets c v)).getD []).filter (· != 0)
    | none => []
  else []

/-- The objects that a SWAP's load list names. -/
def Dev.listedOf (d : Dev) (c : Cmd) : List Nat :=
  if c.opcode ≠ 9 then []
  else
    match (d.resolve c.id c.part (c.inp 0)).2 with
    | some v => ((d.peek (loadList v)).getD []).map (fun e => e.1)
    | none => []

/-- The objects that a launch claims a buffer of, and whether each is a reduce-on-write target (R206, R237). -/
def Dev.outputsOf (d : Dev) (c : Cmd) : List (Nat × Bool) :=
  let stash := if c.opcode = 1 ∧ c.saving = true then [c.gradOrStash] else []
  let outs := (([c.outp 0, c.outp 1] ++ stash).filter (· != 0) ++ d.listedOf c).eraseDups
  let targets := (d.targetsOf c).eraseDups.filter (fun t => !outs.contains t)
  outs.map (fun o => (o, false)) ++ targets.map (fun t => (t, true))

/-- Another command holds a claim on a buffer of an object that a PLACE places (R209). -/
def Dev.placeHeld (d : Dev) (c : Cmd) : Bool :=
  c.opcode == 8 && d.cmds.any (fun e => e.id != c.id && !e.ended && e.claims.any (fun k => k.ver.part == c.part &&
    decide (c.placeRange.1 ≤ k.ver.obj ∧ k.ver.obj < c.placeRange.1 + c.placeRange.2)))

/-- The launch is held for a buffer (R206, R209). -/
def Dev.launchHeld (d : Dev) (c : Cmd) : Bool :=
  d.placeHeld c || (d.outputsOf c).any (fun o => (d.claim c.id c.part o.1).2 == .wait)

/-- Resolve one input handle at launch. -/
def Dev.resolveIn (d : Dev) (id p obj : Nat) : Dev :=
  match d.resolve id p obj with
  | (d, some v) => d.updCmd id (fun c => { c with inputs := c.inputs ++ [v] })
  | (d, none) => d

/-- Claim one output at launch. -/
def Dev.claimOut (d : Dev) (id p : Nat) (o : Nat × Bool) : Dev :=
  match d.claim id p o.1 with
  | (d, .claimed v) => d.updCmd id (fun c => { c with claims := c.claims ++ [⟨v, o.2, false⟩] })
  | (d, _) => d

/-- A version lies in the slab of an array that is retired or stopping (R63, R208). -/
def Dev.verDead (d : Dev) (v : Version) : Bool :=
  v.entry.tier == 2 && v.entry.members.any (fun n => d.arrRetired n || d.stopping n)

/-- A command that needs such an array is refused (R63). -/
def Dev.refuseDead (d : Dev) (id : Nat) : Dev :=
  match d.cmd? id with
  | none => d
  | some c => if c.inputs.any d.verDead || c.claims.any (fun k => d.verDead k.ver) then d.failCmd id .killedDisable else d

/-- What the launch does in the engine of each opcode. -/
def startWork (c : Cmd) : Op Unit :=
  match c.opcode with
  | 1 => layerStart c.id
  | 2 => sieveStart c.id
  | 3 => exchangeStart c.id
  | 4 => exchangeStart c.id
  | 5 => collStart c.id
  | 6 => addStart c.id
  | 8 => placeStart c.id
  | 9 => swapStart c.id
  | _ => pure ()

/-- A command launches: its wait is counted, its handles are checked, its inputs resolved and its outputs claimed, and its
engine begins (R57, R68, R205, R206). -/
def Dev.launch (d : Dev) (c : Cmd) : Dev :=
  let outs := d.outputsOf c
  let d := d.addF .CMD_ACCT_WAIT_WAIT (d.count - c.eligible.getD d.count) c.queue
  let d := d.updCmd c.id (fun c =>
    { c with launched := true, launchAt := d.count, step := d.f .RING_STEP_STEP c.part, heldAt := none })
  let d := c.inputHandles.foldl (fun d h => d.resolveIn c.id c.part h) d
  let d := (outs.foldl (fun d o => d.claimOut c.id c.part o) d).refuseDead c.id
  if (d.cmd? c.id).any Cmd.running then d.work c.id 0 (startWork c) else d

/-- COMMAND_LAUNCH: what falls due comes first (R39); then the queue's next command launches, or is held. -/
def Dev.launchRow (d : Dev) (q : Nat) : Dev :=
  match d.nextLaunch q with
  | none => d
  | some c =>
    if !d.ring.running || d.stalled then d
    else
      let d := d.settleDue.releaseAll
      match d.cmd? c.id with
      | none => d
      | some c =>
        if !d.eligibleNow c then d
        else
          let c := { c with eligible := some (c.eligible.getD d.count) }
          let d := d.updCmd c.id (fun k => { k with eligible := c.eligible })
          if (c.gated && d.flag .SV_GATE_AWAITING c.part) || d.launchDue c || !d.roomFor c then d
          else if d.launchHeld c then d.updCmd c.id (fun k => { k with heldAt := some (k.heldAt.getD d.count) })
          else d.launch c

/-! ## FENCE (R61) -/

/-- FENCE: ready once every command fetched before it from its queue has completed. -/
def Dev.fenceRun (d : Dev) (id : Nat) : Dev :=
  match d.cmd? id with
  | none => d
  | some c =>
    if !c.running || c.ready || c.opcode ≠ 0x0B then d
    else if d.cmds.all (fun e => e.queue != c.queue || decide (c.id ≤ e.id)) then d.finish id
    else d

/-! ## PREEMPT, DISABLE and ENABLE_SPARE (R62 to R64) -/

/-- A command acts: it kills what it must, and waits for their completion. -/
def Dev.actOn (d : Dev) (id : Nat) (st : Status) (victims : List Nat) : Dev :=
  (victims.foldl (fun d k => d.failCmd k st) d).updCmd id (fun c => { c with passed := [0], waits := victims })

/-- It is ready once every command it killed has its record written. -/
def Dev.waitsDone (d : Dev) (id : Nat) : Dev :=
  match d.cmd? id with
  | none => d
  | some c => if c.running && !c.passed.isEmpty && c.waits.all (fun k => (d.cmd? k).isNone) then d.finish id else d

/-- A queue is bound to a partition (R44). -/
def Dev.boundTo (d : Dev) (q p : Nat) : Bool := q != 0 && d.f .CMD_SQ_CFG_PRIV q != 0 && d.f .CMD_SQ_CFG_PARTITION q == p

/-- A PREEMPT acts on its target (R62). -/
def Dev.preemptAct (d : Dev) (c : Cmd) : Dev :=
  let t := c.arg 1 0 8
  let byPart := c.arg 0 0 8 = 0
  let hit := d.cmds.filter (fun k => k.id != c.id && !k.ended && (if byPart then k.part == t else k.queue == t))
  let queues := if byPart then (List.range 64).filter (fun q => d.boundTo q t) else [t]
  let d := if c.arg 2 0 1 = 1 then queues.foldl (fun d q => d.setF .CMD_SQ_CTRL_HALTED 1 q) d else d
  d.actOn c.id .killedPreempt (hit.map Cmd.id)

/-- PREEMPT. -/
def Dev.preemptRun (d : Dev) (id : Nat) : Dev :=
  match d.cmd? id with
  | none => d
  | some c =>
    if !c.running || c.ready || c.opcode ≠ 0x0C then d
    else (if c.passed.isEmpty then d.preemptAct c else d).waitsDone id

/-- A launched command uses an array: it runs on it, or an object of it lies in its slab (R63, R165). -/
def Dev.usesArray (d : Dev) (c : Cmd) (n : Nat) : Bool :=
  let inIt := fun (e : ObjEntry) => e.tier == 2 && e.members.contains n
  c.launched && !c.ended &&
    ((d.run? c.id).any (fun r => r.arrays.contains n) || c.inputs.any (fun v => inIt v.entry) ||
     c.claims.any (fun k => inIt k.ver.entry) || (d.placesOf c.id).any (fun e => inIt e.2))

/-- An array stops (R63): only an enabled one is in use. -/
def Dev.disableArray (d : Dev) (c : Cmd) (n : Nat) : Dev :=
  let hit := if d.arrState n = 0 then d.cmds.filter (fun k => k.id != c.id && d.usesArray k n) else []
  d.actOn c.id .killedDisable (hit.map Cmd.id)

/-- The commands that use a link: those with a billet queued for it (R63; log 111). -/
def Dev.linkUsers (d : Dev) (id l : Nat) : List Nat :=
  let mine := (d.fab.slots.filter (fun s => s.copies.any (fun c => c.port == l))).filterMap (fun s => s.owner.map Prod.fst)
  (d.cmds.filter (fun k => k.id != id && !k.ended && mine.contains k.id)).map Cmd.id

/-- A link is disabled until the next cold start (R249). -/
def Dev.disableLink (d : Dev) (l : Nat) : Dev :=
  if d.linkState l = 5 then d
  else ((d.linkGoDown l 5).setF .FAB_LINK_STATUS_STATE 5 l).setF .FAB_LINK_STATUS_CAUSE 5 l

/-- The lanes of a link in service: those it shows, or, before it has trained, those not retired. -/
def Dev.lanesOf (d : Dev) (l : Nat) : Nat :=
  if d.f .FAB_LINK_STATUS_LANES l = 0 then 15 - d.f .FAB_LINK_STATUS_RETIRED l else d.f .FAB_LINK_STATUS_LANES l

/-- A lane is retired, unless fewer than two would be left; the commands that use the link are killed, and the link goes down
and trains again (R63, R249). -/
def Dev.disableLane (d : Dev) (c : Cmd) (l lane : Nat) : Dev :=
  let left := setBit (d.lanesOf l) lane false
  if popCount left 4 < 2 then d.failCmd c.id .badDescriptor
  else
    let d := d.setF .FAB_LINK_STATUS_RETIRED (setBit (d.f .FAB_LINK_STATUS_RETIRED l) lane true) l
    let d := if d.f .FAB_LINK_STATUS_LANES l = 0 then d else d.setF .FAB_LINK_STATUS_LANES left l
    let hit := d.linkUsers c.id l
    (d.linkGoDown l 5).actOn c.id .killedDisable hit

/-- A frame is retired: later accesses to it are refused, and its cached translations stand no longer (R220). -/
def Dev.disableFrame (d : Dev) (c : Cmd) (frame : Nat) : Dev :=
  if d.mem.frames.contains frame then d.actOn c.id .killedDisable []
  else if 4096 ≤ d.mem.frames.length then d.failCmd c.id .quota
  else
    let d := { d with mem := { d.mem with frames := d.mem.frames ++ [frame] } }
    (d.setF .TIER_RETIRED_FRAMES d.mem.frames.length).actOn c.id .killedDisable []

/-- A DISABLE acts on its function (R63). -/
def Dev.disableAct (d : Dev) (c : Cmd) : Dev :=
  let i := c.arg 2 0 16
  match c.arg 0 0 8 with
  | 0 => d.disableArray c i
  | 1 => let hit := d.linkUsers c.id i; (d.disableLink i).actOn c.id .killedDisable hit
  | 2 => d.disableLane c i (c.arg 4 0 8)
  | _ => d.disableFrame c (c.arg 8 0 64 / 65536)

/-- DISABLE. -/
def Dev.disableRun (d : Dev) (id : Nat) : Dev :=
  match d.cmd? id with
  | none => d
  | some c =>
    if !c.running || c.ready || c.opcode ≠ 0x0D then d
    else ((if c.passed.isEmpty then d.disableAct c else d).waitsDone id).noteReasons

/-- ENABLE_SPARE: the states of the two arrays are tested; the substitution is its commit (R64). -/
def Dev.spareRun (d : Dev) (id : Nat) : Dev :=
  match d.cmd? id with
  | none => d
  | some c =>
    if !c.running || c.ready || c.opcode ≠ 0x0E then d
    else if d.arrState (c.arg 0 0 16) = 1 ∧ d.arrState (c.arg 2 0 16) = 3 then d.finish id
    else d.failCmd id .badDescriptor

/-! ## Meanings -/

/-- DESCRIPTOR_FETCH. -/
def execDescriptorFetch (q : Fin 64) (desc : Line) (s : State) : Host.Outcome State Fault Refusal :=
  s.act (fun d => d.fetch q desc)

/-- COMMAND_LAUNCH. -/
def execCommandLaunch (q : Fin 64) (s : State) : Host.Outcome State Fault Refusal := s.engine (fun d => d.launchRow q)

/-- FENCE. -/
def execFence (id : Nat) (s : State) : Host.Outcome State Fault Refusal := s.engine (fun d => d.fenceRun id)

/-- PREEMPT. -/
def execPreempt (id : Nat) (s : State) : Host.Outcome State Fault Refusal := s.engine (fun d => d.preemptRun id)

/-- DISABLE. -/
def execDisable (id : Nat) (s : State) : Host.Outcome State Fault Refusal := s.engine (fun d => d.disableRun id)

/-- ENABLE_SPARE. -/
def execEnableSpare (id : Nat) (s : State) : Host.Outcome State Fault Refusal := s.engine (fun d => d.spareRun id)

end Sys2Proof.Machine
end

