-- ==== Sys2Proof/Machine/Partitions.lean ====
section
/-! DEFINITION. Partitions and jobs: giving a partition a job, releasing it, and the quarantine of job IDs (R65, R66, and what
each chapter says of either). -/

namespace Sys2Proof.Machine

/-- Quarantine of a job ID lasts 2^20 counts (R66). -/
def Dev.inQuarantine (d : Dev) (e : Nat × Nat) : Bool := d.count < e.2 + 2 ^ 20

/-- The checks of R65 and R66 on a job for a partition. -/
def Dev.jobOk (d : Dev) (p job : Nat) : Bool :=
  let set := d.partArrays p
  let held := d.quarantine.filter d.inQuarantine
  !set.isEmpty && set.all (fun n => d.arrState n == 0) &&
  (List.range 16).all (fun q => q == p || !d.valid q || (d.partArrays q).all (fun n => !set.contains n)) &&
  job != 0 && (d.partOf job).isNone && held.all (fun e => e.1 != job) && decide (held.length < 64)

/-- The registers that clear when a partition is given a job: its counters of the Sieve, the Exchange Engine, the collective
engines and the number formats, its determinism events, its step and its moves (R38, R94, R325). -/
def jobClears : List Reg :=
  [.SV_EMITTED, .SV_DROPPED, .SV_EXITED, .SV_PASS, .SV_NAN, .SV_MAPMISS, .SV_GRANTS, .SV_SEQ, .SV_REL_SEQ, .XE_DELIVERED,
   .XE_KILLED, .XE_FLUSHED, .XE_OUTSTANDING, .XE_COMBINED, .XE_LOCAL, .COLL_EVENTS, .COLL_ADD_STAT, .MA_FMT_EVENTS,
   .PART_DET_EVENTS, .RING_STEP, .RING_MOVES]

/-- A partition is given a job. Grain tables of an earlier job are classified no more (log 30). -/
def Dev.giveJob (d : Dev) (p : Nat) : Dev :=
  let d := jobClears.foldl (fun d r => d.setReg r 0 p) d
  let d := (List.range 4).foldl (fun d i => d.setReg .COLL_OCC 0 p i) d
  let d := (d.updXe (fun x => { x with tabs := x.tabs.filter (fun t => t.ver.part != p) })).brGiveJob p
  d.updRing (fun r => { r with stepStart := SMap.set 0 r.stepStart p 0 })

/-- The commands of a partition in flight are killed at once (R66, R363). -/
def Dev.killPart (d : Dev) (p : Nat) : Dev :=
  let mine := (d.cmds.filter (fun c => c.part == p && !c.ended)).map Cmd.id
  let d := mine.foldl (fun d id => d.failCmd id .killedPreempt) d
  mine.foldl (fun d id => d.killCmd id) d

/-- A job is released: its commands are killed, its queues disabled, what the engines hold for it is freed, and its ID enters
quarantine (R66, R98, R118, R232, R301, Tables 5.6, 6.6, 13.6). -/
def Dev.releaseJob (d : Dev) (p : Nat) : Dev :=
  let job := d.f .PART_CTRL_JOB p
  let d := d.killPart p
  let d := ((List.range 64).filter (fun q => d.boundTo q p)).foldl (fun d q => d.setF .CMD_SQ_CTRL_ENABLE 0 q) d
  let d := (((d.xeRelease p).collRelease p).winRelease p job).gateRelease p
  let slots := (List.range 64).filter (fun s => d.f .MA_BR_CFG_PARTITION s == p)
  let d := (slots.foldl Dev.brDrop d).lndReturnIf (fun b => b.part == p)
  let d := d.setF .PART_CTRL_VALID 0 p
  { d with quarantine := d.quarantine ++ [(job, d.count)] }

/-- A write of PART_CTRL (R65, R66). While the partition holds a job, a write of VALID 1 that changes neither JOB nor DET does
nothing and is not reported, which the spec leaves open (log 131). -/
def Dev.partCtrl (d : Dev) (ap : Aperture) (p : Nat) (v : BitVec 32) : Dev :=
  let v := v.zeroExtend 64
  let job := Fld.PART_CTRL_JOB.of v
  let on := Fld.PART_CTRL_VALID.of v = 1
  if d.valid p then
    let changed := job ≠ d.f .PART_CTRL_JOB p ∨ Fld.PART_CTRL_DET.of v ≠ d.f .PART_CTRL_DET p
    let d := if on then d else d.releaseJob p
    if changed then d.refuseReg ap .PART_CTRL p else d
  else
    let ok := d.jobOk p job
    let d := (d.plainWrite .PART_CTRL v p).setF .PART_CTRL_VALID 0 p
    if !on then d
    else if ok then (d.giveJob p).setF .PART_CTRL_VALID 1 p
    else (d.setF .PART_STATUS_REFUSED 1 p).refuseReg ap .PART_CTRL p

/-- QUARANTINE_EXPIRY: a job ID whose quarantine is over leaves it (R66). -/
def Dev.quarantineEnd (d : Dev) (job : Nat) : Dev :=
  { d with quarantine := d.quarantine.filter (fun e => e.1 != job || d.inQuarantine e) }

/-! ## Meanings -/

/-- PART_CTRL_VALID: PART_CTRL written with VALID 1. -/
def execPartCtrlValid (ap : Aperture) (p : Fin 16) (v : BitVec 32) (s : State) : Host.Outcome State Fault Refusal :=
  s.act (fun d => d.hostWrite ap .PART_CTRL p 0 (fun d => d.partCtrl ap p (v ||| 0x10000#32)))

/-- PARTITION_RELEASE: PART_CTRL written with VALID 0. -/
def execPartitionRelease (ap : Aperture) (p : Fin 16) (v : BitVec 32) (s : State) : Host.Outcome State Fault Refusal :=
  s.act (fun d => d.hostWrite ap .PART_CTRL p 0 (fun d => d.partCtrl ap p (v &&& 0xFFFEFFFF#32)))

/-- QUARANTINE_EXPIRY. -/
def execQuarantineExpiry (job : BitVec 16) (s : State) : Host.Outcome State Fault Refusal :=
  s.act (fun d => d.quarantineEnd job.toNat)

end Sys2Proof.Machine
end

