-- ==== Sys2Proof/Machine/Flags.lean ====
section
/-! DEFINITION. The flags and status fields of registers that show state held elsewhere: what a read of a register returns
(R10, and each chapter's Registers section). -/

namespace Sys2Proof.Machine

/-- A register's value with several fields replaced. -/
def putAll (v : BitVec 64) (l : List (Fld × Nat)) : BitVec 64 := l.foldl (fun v e => e.1.put v e.2) v

/-- QUIET: no command in flight, no receive, collective or swap context, no ADD slot, no window line, no held record. -/
def Dev.quiet (d : Dev) : Bool :=
  d.cmds.isEmpty && d.xe.ctxs.isEmpty && d.coll.ctxs.isEmpty && d.swaps.isEmpty && d.coll.adds.isEmpty &&
  d.win.entries.all (fun e => e.lines.all (fun l => l.slot.isNone)) && d.link.held.isEmpty

/-- RING_DELAY: the selected link's one-way delay, if it has been measured since the link last came up (R27). -/
def Dev.delayFields (d : Dev) : List (Fld × Nat) :=
  match SMap.get 0 d.ring.delay (d.f .RING_DELAY_SEL_LINK) with
  | 0 => []
  | n + 1 => [(.RING_DELAY_DELAY, n), (.RING_DELAY_VALID, 1)]

/-- SV_STATUS: the SIEVE contexts held and the token rows open (R73). -/
def Dev.svFields (d : Dev) : List (Fld × Nat) :=
  let part := fun c => match d.sv.ctxs.find? (fun x => x.ctx == c) with
    | some x => x.part
    | none => 0
  let rows := d.sv.ctxs.flatMap (fun x => x.rows.filter (fun r => !r.chosen && !r.gone && !r.blocks.isEmpty))
  [(.SV_STATUS_CTX_BUSY, ofBitList (d.sv.ctxs.map SvCtx.ctx)), (.SV_STATUS_CTX0_PART, part 0),
   (.SV_STATUS_CTX1_PART, part 1), (.SV_STATUS_OPEN_ROWS, min rows.length 9728)]

/-- A finished SIEVE of the partition waits for a slot of its report ring (R93). -/
def Dev.rptWaits (d : Dev) (p : Nat) : Bool := d.sv.ctxs.any (fun x => x.part == p && x.tailDone) && !d.rptReady p

/-- The valid partition that an array belongs to. -/
def Dev.partWith (d : Dev) (n : Nat) : Option Nat := (List.range 16).find? (fun p => d.valid p && (d.partArrays p).contains n)

/-- MA_ARR_STATE: the tile in the array and its partition. -/
def Dev.arrFields (d : Dev) (n : Nat) : List (Fld × Nat) :=
  let p := d.partWith n
  [(.MA_ARR_STATE_BUSY, b2n (d.busyArrays.any (fun e => e.1 == n))), (.MA_ARR_STATE_IN_PART, b2n p.isSome),
   (.MA_ARR_STATE_PARTITION, p.getD 0)]

/-- MA_ARR_TAG: the TAG of the command whose tile is in the array. -/
def Dev.arrTag (d : Dev) (n : Nat) : Nat :=
  match (d.busyArrays.find? (fun e => e.1 == n)).bind (fun e => d.cmd? e.2) with
  | some c => c.tag
  | none => 0

/-- SK_STATUS: the lanes that hold work, the partitions of the column, and the transposing halves in use. -/
def Dev.skFields (d : Dev) (k : Nat) : List (Fld × Nat) :=
  let lanes := (List.range 8).filter (fun i => d.arr.runs.any (fun r => r.units.any (fun u => u.arr == 8 * k + i && !u.done)))
  let parts := d.columnParts k
  let used := fun (h : Fin 2) => b2n ((d.tbufs k).contains h)
  [(.SK_STATUS_LANES_BUSY, ofBitList lanes), (.SK_STATUS_PARTS, ofBitList parts),
   (.SK_STATUS_SHARED, b2n (decide (1 < parts.length))), (.SK_STATUS_TBUF0, used 0), (.SK_STATUS_TBUF1, used 1)]

/-- XE_STATUS: receive contexts held, and those that are early. -/
def Dev.xeFields (d : Dev) : List (Fld × Nat) :=
  [(.XE_STATUS_CTX_BUSY, d.xe.ctxs.length), (.XE_STATUS_CTX_EARLY, (d.xe.ctxs.filter (fun x => x.cmd.isNone)).length)]

/-- ERR_STATUS: the output balls, QUIET and the records held. -/
def Dev.errFields (d : Dev) : List (Fld × Nat) :=
  [(.ERR_STATUS_ALERT, b2n d.pins.alert), (.ERR_STATUS_REPLACE, b2n d.pins.replace),
   (.ERR_STATUS_THERMTRIP, b2n d.pins.therm), (.ERR_STATUS_QUIET, b2n d.quiet),
   (.ERR_STATUS_HELD, min d.link.held.length 2047)]

/-- The fields of a register that a read takes from elsewhere. -/
def Dev.liveFields (d : Dev) (r : Reg) (i : Nat) : List (Fld × Nat) :=
  match r with
  | .RING_STATUS => [(.RING_STATUS_PARENT, d.parentLink.getD 63)]
  | .RING_DELAY => d.delayFields
  | .CMD_CQ_TAIL => [(.CMD_CQ_TAIL_FULL, b2n (d.link.held.any (d.heldFor i)))]
  | .PART_STATUS => [(.PART_STATUS_INFLIGHT, min (d.cmds.filter (fun c => c.part == i)).length 1023)]
  | .SV_STATUS => d.svFields
  | .SV_RPT_TAIL => [(.SV_RPT_TAIL_FULL, b2n (d.rptWaits i))]
  | .XE_STATUS => d.xeFields
  | .XE_RESV => [(.XE_RESV_BYTES, d.reserved i)]
  | .MA_ARR_STATE => d.arrFields i
  | .MA_ARR_TAG => [(.MA_ARR_TAG_TAG, d.arrTag i)]
  | .MA_BR_HDATA => [(.MA_BR_HDATA_COUNT, d.brHdata)]
  | .SK_STATUS => d.skFields i
  | .FAB_LINK_OCC => [(.FAB_LINK_OCC_QUEUED, d.queued i)]
  | .ERR_Q_TAIL => [(.ERR_Q_TAIL_FULL, b2n (d.link.held.any isReport))]
  | .ERR_STATUS => d.errFields
  | .ERR_DROOP_DOM => [(.ERR_DROOP_DOM_EVENTS, SMap.get 0 d.err.droop (d.f .ERR_DROOP_SEL_DOMAIN))]
  | .SCL_STATUS => [(.SCL_STATUS_HELD, min d.scl.records.length 15)]
  | .SEC_TALLY_TAIL => [(.SEC_TALLY_TAIL_FULL, b2n (d.scl.records.any SclRecord.signed))]
  | .CMD_SQ_CFG => if i = 0 then [(.CMD_SQ_CFG_PRIV, 3)] else []
  | _ => []

/-- What a read of a register returns: the settings fingerprint is computed, fields that only trigger an action read zero
(R10, R319). -/
def Dev.view (d : Dev) (r : Reg) (i j : Nat) : BitVec 64 :=
  match r with
  | .DEV_FINGERPRINT => d.fingerprint
  | _ => putAll (d.reg r i j) (d.liveFields r i) &&& ~~~(BitVec.ofNat 64 r.spec.wo)

/-- A read with its side effect: MA_BR_HDATA moves on to the next bin, SEC_CERT to the next word (R137, R354). -/
def Dev.readReg (d : Dev) (r : Reg) (i j : Nat) : Dev × BitVec 64 :=
  match r with
  | .SEC_CERT => d.certRead
  | .MA_BR_HDATA => (d.brHdataNext, d.view r i j)
  | _ => (d, d.view r i j)

end Sys2Proof.Machine
end

