-- ==== Sys2Proof/Machine/Lookup.lean ====
section
/-! DEFINITION. Which register an address of control space names (R8, R11). -/

namespace Sys2Proof.Machine

/-- The instance of a register whose address is a, if there is one. A register of two ranges has its second range within one
step of the first. -/
def Reg.instAt (r : Reg) (a : Nat) : Option (Nat × Nat) :=
  let s := r.spec
  let off := a - s.addr
  let i := if s.n1 ≤ 1 then 0 else off / s.s1
  let j := if s.n2 ≤ 1 then 0 else (off - i * s.s1) / s.s2
  if s.addr ≤ a ∧ i < s.n1 ∧ j < s.n2 ∧ off = i * s.s1 + j * s.s2 then some (i, j) else none

/-- An instance of a register. -/
structure RegInst where
  reg : Reg
  i : Nat
  j : Nat
  deriving DecidableEq, Repr

/-- The register instance at an address. -/
def regAt (a : Nat) : Option RegInst :=
  Reg.all.findSome? (fun r => (r.instAt a).map (fun k => ⟨r, k.1, k.2⟩))

/-- What a 32-bit access reaches (R11, R12). -/
inductive Half where
  /-- A 32-bit register. -/
  | narrow (k : RegInst)
  | low (k : RegInst)
  | high (k : RegInst)
  | nothing
  deriving DecidableEq, Repr

/-- What the 32 bits at an address are. -/
def halfAt (a : Nat) : Half :=
  match regAt a with
  | some k => if k.reg.spec.wide then .low k else .narrow k
  | none =>
    match (if 4 ≤ a then regAt (a - 4) else none) with
    | some k => if k.reg.spec.wide then .high k else .nothing
    | none => .nothing

end Sys2Proof.Machine
end

