-- ==== Sys2Proof/Machine/Startup.lean ====
section
/-! DEFINITION. Start-up and reset: cold reset, secure boot, fuses and the configuration image, the stages of cold start, warm
reset and loss of power (R166, R244, R249, R309, R351, R353, R355 to R365, R371, R376). -/

namespace Sys2Proof.Machine

/-- Change the start-up state. -/
def Dev.updBoot (d : Dev) (g : Boot → Boot) : Dev := { d with boot := g d.boot }

/-- The device passes to a stage (Table 19.5). -/
def Dev.toStage (d : Dev) (n : Nat) : Dev := d.setF .DEV_STATUS_STAGE n

/-- Start-up halts in its stage with an error (R360). -/
def Dev.halt (d : Dev) (err : Nat) : Dev := (d.setF .DEV_STATUS_ERROR err).updBoot (fun b => { b with halted := true })

/-- Start-up is at a stage, and goes on. -/
def Dev.atStage (d : Dev) (n : Nat) : Bool := !d.boot.cold && !d.boot.halted && d.stage == n

/-! ## Cold reset and loss of power (R359, R365, R376) -/

/-- The device with COLD_RESET_N asserted: fuses, memory and flash stay, everything else is at its reset value (log 2,
log 31). -/
def Dev.coldState (d : Dev) : Dev :=
  { fuses := d.fuses, out := d.out, free := d.free, flash := d.flash
    mem := { hbm := d.mem.hbm, slab := d.mem.slab, hbmBad := d.mem.hbmBad, slabBad := d.mem.slabBad } }

/-- A metrology command in progress ends: the Scaler region is left undefined if its KIND is 3 and its write had begun, which
nothing before METROLOGY_COMMAND_DONE shows (Table 18.7; log 115). -/
def Dev.tearRegion (d : Dev) : Dev :=
  match d.scl.met with
  | none => d
  | some _ =>
    let (k, d) := d.fresh
    let writing := (Config.freeWord k).getLsbD 0
    { d with flash := { d.flash with regionTorn := d.flash.regionTorn || writing } }

/-- COLD_RESET_ASSERT: it ends everything in progress. -/
def Dev.coldAssert (d : Dev) : Dev := if d.boot.cold then d else d.tearRegion.coldState

/-- COLD_RESET_RELEASE: SLOT_ID is sampled and verification begins. -/
def Dev.coldRelease (d : Dev) (slot : Nat) : Dev :=
  if !d.boot.cold then d
  else (d.coldState.updBoot (fun b => { b with cold := false, slotId := slot })).toStage 1

/-- A flash write in progress ends: its range is left undefined (R376). -/
def Dev.tearFlash (d : Dev) : Dev :=
  match d.sec.flash with
  | none => d
  | some (off, len, _) => { d with flash := { d.flash with torn := some (off, len) } }

/-- POWER_LOSS: every rail is lost, and memory with it; a flash write in progress leaves its range undefined (R376). -/
def Dev.powerLoss (d : Dev) : Dev := { d.tearFlash.tearRegion.coldState with mem := {} }

/-! ## VERIFY (R351, R353, R356) -/

/-- SPAN_LEN of an image. -/
def imageSpan (img : List Byte) : Nat := leAt img 8 4

/-- A key record: its 576 bytes hash to a fused hash (R356). -/
def keyHashes (img : List Byte) (off : Nat) (hash : List Byte) : Bool := sha512 (slice img off 576) == hash

/-- A signature over the signed span, by the key of a record (R353, R356): modulus and exponent little-endian, the signature
an octet string. -/
def imageSigned (img : List Byte) (key sig : Nat) : Bool :=
  rsaVerify (leAt img key 512) (leAt img (key + 512) 4) (beNat (slice img sig 512)) (img.take (imageSpan img))

/-- The step of R353 that fails, if one does. -/
def Dev.imageFails (d : Dev) (img : List Byte) : Option Nat :=
  let n := imageSpan img
  let header := decide (leAt img 0 4 = 0x51533610 ∧ leAt img 4 2 = 1 ∧ n % 64 = 0 ∧ 256 ≤ n ∧ n ≤ 16774592 ∧ n + 2176 ≤ img.length)
  let sec := leAt img 6 1
  if !header || !keyHashes img n d.fuses.vendorHash then some 1
  else if !imageSigned img n (n + 576) then some 2
  else if d.fuses.ownerHash.any (fun h => !keyHashes img (n + 1088) h || !imageSigned img (n + 1088) (n + 1664)) then some 3
  else if 64 < sec || sec < d.fuses.rollback then some 4
  else none

/-- The step of R353 that fails on an image that an interrupted write touches: the first whose bytes it touches (R376;
log 115). -/
def Dev.tornFails (d : Dev) (img : List Byte) : Option Nat :=
  match d.flash.torn with
  | none => none
  | some (off, len) =>
    let n := imageSpan img
    let hits := fun (a b : Nat) => decide (0 < len ∧ off < b ∧ a < off + len)
    if hits 0 256 || hits n (n + 576) then some 1
    else if hits 256 n || hits (n + 576) (n + 1088) then some 2
    else if hits (n + 1088) (n + 2176) then some 3
    else none

/-- A Scaler region is signed with the metrology key (R351; log 8). -/
def Dev.regionOk (d : Dev) (r : ScalerRegion) : Bool :=
  sha512 (leBytes 512 r.modulus ++ leBytes 4 r.exponent ++ List.replicate 60 0) == d.fuses.metHash &&
    rsaVerify r.modulus r.exponent r.signature r.span

/-- The Scaler verifies its region: its settings hold, or it is UNSEALED and reports (R351); a region that an interrupted
write has left undefined fails (R376). -/
def Dev.verifyRegion (d : Dev) (region : Option ScalerRegion) : Dev :=
  let torn := d.flash.regionTorn
  let d := { d with flash := { d.flash with regionTorn := false } }
  match region with
  | some r =>
    if !torn && d.regionOk r then
      let d := ((d.setF .SCL_STATUS_STATE 1).setF .SCL_VERSION_VERSION r.version.toNat).setF .SCL_VERSION_RULE r.rule.toNat
      let d := (d.setReg .SCL_PERIOD r.period).updScl (fun s =>
        { s with region := some r, gain := r.gain, offset := r.offset, perGrant := r.perGrant })
      d.drawNonce
    else (d.setF .SCL_STATUS_STATE 2).post .SCL_REGION_BAD
  | none => (d.setF .SCL_STATUS_STATE 2).post .SCL_REGION_BAD

/-- VERIFY: the SC's checks of the image, and the Scaler's of its region (R351, R353). -/
def Dev.verify (d : Dev) (img : List Byte) (region : Option ScalerRegion) : Dev :=
  if !d.atStage 1 then d
  else
    let fails := (d.tornFails img).orElse (fun _ => d.imageFails img)
    let d := { d with flash := { d.flash with torn := none } }
    match fails with
    | some k => (d.halt k).updBoot (fun b => { b with bootByte := k })
    | none =>
      let sec := leAt img 6 1
      let flags := leAt img 7 1
      let d := { d with fuses := { d.fuses with
        rollback := if bit flags 0 then max sec d.fuses.rollback else d.fuses.rollback } }
      let d := d.updBoot (fun b => { b with image := img.take (imageSpan img), digest := sha512 (img.take (imageSpan img)) })
      let d := ((d.setF .DEV_IMAGE_IMAGE_VERSION (leAt img 16 4)).setF .DEV_IMAGE_SEC_VERSION sec).setF .DEV_IMAGE_OWNER_SIGNED
        (b2n (bit flags 1))
      (d.verifyRegion region).toStage 2

/-! ## FUSES and the image (R166, R244, R249, R357, R358) -/

/-- The section directory: type, offset and length of each section (R357). -/
def imageSections (img : List Byte) : List (Nat × Nat × Nat) :=
  (List.range (leAt img 12 4)).map (fun i => (leAt img (256 + 16 * i) 2, leAt img (260 + 16 * i) 4, leAt img (264 + 16 * i) 4))

/-- The entries of a section, of n bytes each. -/
def sectionEntries (img : List Byte) (off len n : Nat) : List (List Byte) :=
  (List.range (len / n)).map (fun i => slice img (off + n * i) n)

/-- The directory is sound: 1 to 64 sections within the span, of known types, none but type 1 repeated (R357, R358; log 32). -/
def sectionsOk (img : List Byte) : Bool :=
  let n := leAt img 12 4
  let s := imageSections img
  1 ≤ n && n ≤ 64 && decide (256 + 16 * n ≤ img.length) &&
  s.all (fun e => 1 ≤ e.1 && e.1 ≤ 5 && decide (e.2.1 + e.2.2 ≤ img.length)) &&
  ([2, 3, 4, 5].all (fun t => decide ((s.filter (fun e => e.1 == t)).length ≤ 1)))

/-- A register entry: its "image" fields take the value; none for an entry that R358 refuses. -/
def Dev.imageReg (d : Dev) (e : List Byte) : Option Dev :=
  match regAt (leAt e 0 4) with
  | none => none
  | some k =>
    let v := BitVec.ofNat 64 (leAt e 8 8)
    let img := BitVec.ofNat 64 k.reg.spec.img
    if img = 0 ∨ v &&& ~~~img ≠ 0 then none
    else
      let new := (d.reg k.reg k.i k.j &&& ~~~img) ||| v
      some ((d.setReg k.reg new k.i k.j).updBoot (fun b =>
        { b with settings := SMap.set k.reg.dflt b.settings (k.reg.code k.i k.j) new }))

/-- A retired-array entry: the array is retired as by a DISABLE, then the substitute takes its place (R358). -/
def Dev.imageArray (d : Dev) (e : List Byte) : Option Dev :=
  let n := leAt e 0 2
  let s := leAt e 2 2
  if 151 < n then none
  else
    let d := d.retireArray n
    if s = 0xFFFF then some d
    else if s < 152 ∧ d.arrState s = 1 ∧ d.arrState n = 3 then some (d.substitute s n)
    else none

/-- A retired lane, unless fewer than two would be left, as by a DISABLE of KIND 2 (R249). -/
def Dev.imageLane (d : Dev) (l lane : Nat) : Dev :=
  if popCount (setBit (d.lanesOf l) lane false) 4 < 2 then d
  else d.setF .FAB_LINK_STATUS_RETIRED (setBit (d.f .FAB_LINK_STATUS_RETIRED l) lane true) l

/-- A retired lanes entry; an entry of no link retires nothing (R249). -/
def Dev.imageLink (d : Dev) (e : List Byte) : Option Dev :=
  let l := leAt e 0 1
  let m := leAt e 1 1 % 16
  if 35 < l then some d
  else if m = 15 then some (d.disableLink l)
  else some ((bitList m 4).foldl (fun d lane => d.imageLane l lane) d)

/-- A retired frame, as by a DISABLE of KIND 3 (R220, R358). -/
def Dev.imageFrame (d : Dev) (e : List Byte) : Option Dev :=
  let a := leAt e 0 8
  let f := a / 65536
  if 0x2FFFFF0000 < a then none
  else if d.mem.frames.contains f || decide (4096 ≤ d.mem.frames.length) then some d
  else
    let d := { d with mem := { d.mem with frames := d.mem.frames ++ [f] } }
    some (d.setF .TIER_RETIRED_FRAMES d.mem.frames.length)

/-- Entries applied in order. -/
def Dev.applyEntries (g : Dev → List Byte → Option Dev) (d : Dev) : List (List Byte) → Option Dev
  | [] => some d
  | e :: es =>
    match g d e with
    | none => none
    | some d => Dev.applyEntries g d es

/-- One section. -/
def Dev.applySection (d : Dev) (img : List Byte) (s : Nat × Nat × Nat) : Option Dev :=
  let es := sectionEntries img s.2.1 s.2.2
  match s.1 with
  | 1 => Dev.applyEntries Dev.imageReg d (es 16)
  | 2 => some (d.setF .FAB_NODE_NODE (leAt img s.2.1 2 / 8 * 8 + d.boot.slotId))
  | 3 => Dev.applyEntries Dev.imageArray d (es 4)
  | 4 => Dev.applyEntries Dev.imageLink d (es 2)
  | _ => Dev.applyEntries Dev.imageFrame d (es 8)

/-- Every section, in the directory's order. -/
def Dev.applySections (d : Dev) (img : List Byte) : List (Nat × Nat × Nat) → Option Dev
  | [] => some d
  | s :: ss =>
    match d.applySection img s with
    | none => none
    | some d => d.applySections img ss

/-- The fuses' fields: serial, array states, fingerprint, seal counter and the VDD_CORE target (R165, R319, R371). -/
def Dev.readFuses (d : Dev) : Dev :=
  let d := d.setF .SEC_ID_SERIAL d.fuses.serial
  let d := (List.range 5).foldl (fun d i =>
    d.setReg .MA_TESTED (BitVec.ofNat 64 (ofBitList (((d.fuses.tested.filter (fun n => n / 32 == i)).map (· % 32))))) i) d
  let d := (List.range 152).foldl (fun d n => (d.setF .MA_ARR_STATE_SKIDDER (n / 8) n).setF .MA_ARR_STATE_STATE
    (d.fuses.factory.getD n 2) n) d
  let d := (List.range 152).foldl (fun d n => d.setArrState n (d.arrState n)) d
  let d := ((d.setF .DEV_FINGERPRINT_STEPPING d.fuses.stepping).setF .DEV_FINGERPRINT_GRADE d.fuses.grade).setF
    .DEV_FINGERPRINT_SRGEN d.fuses.srgen
  let d := (d.setF .SCL_SEAL_COUNT d.fuses.seals).setF .FAB_NODE_NODE d.boot.slotId
  d.updBoot (fun b => { b with vdd := max 680 (min 800 d.fuses.vddTarget) })

/-- FUSES: the fuses are read and the image applied, or start-up halts (R358). -/
def Dev.fuseStage (d : Dev) (ok : Bool) : Dev :=
  if !d.atStage 2 then d
  else if !ok then d.halt 0x28
  else
    let d := d.readFuses
    let img := d.boot.image
    if !sectionsOk img then d.halt 0x20
    else
      match d.applySections img (imageSections img) with
      | none => d.halt 0x20
      | some d =>
        let d := (List.range 8).foldl Dev.lndPlace d
        let d := (d.setF .FAB_SHARED_LOW d.sharedFree).noteShared
        (d.reseed.checkNode.toStage 3).noteReasons

/-! ## The later stages (R359 to R362) -/

/-- CLOCKS: the PLLs lock, or start-up halts. -/
def Dev.clockStage (d : Dev) (ok : Bool) : Dev := if !d.atStage 3 then d else if ok then d.toStage 4 else d.halt 0x30

/-- HBM: the stacks train, or start-up halts with the failed one. -/
def Dev.hbmStage (d : Dev) (failed : Option Nat) : Dev :=
  if !d.atStage 4 then d
  else match failed with
    | none => d.toStage 5
    | some s => d.halt (0x40 + s)

/-- A link is settled for the end of stage 5: held down, retired, UP, MISWIRED or DOWN (R361). -/
def Dev.linkSettled (d : Dev) (l : Nat) : Bool := d.linkHeld l || [0, 3, 4, 5].contains (d.linkState l)

/-- LINKS: every link is settled, or the time of 467 ms has run out, which on a stopped count the command processor clock
measures; the root begins its acquisition (R29, R361, R365, Table 19.5). -/
def Dev.linkStage (d : Dev) : Dev :=
  if !d.atStage 5 then d
  else if !(List.range 36).all d.linkSettled && d.ring.running && decide (d.count < 46700000) then d
  else
    let d := (d.updBoot (fun b => { b with stage6 := d.count })).toStage 6
    d.rootAcquire false

/-- RING: the device is ALIGNED, or the stage's time has run out; on a stopped count the command processor clock measures it
(R361, R365). -/
def Dev.ringStage (d : Dev) : Dev :=
  if !d.atStage 6 then d
  else if d.f .RING_STATUS_STATE = 1 then d.toStage 7
  else if d.boot.stage6 + 2 ^ 25 ≤ d.count ∨ d.ring.running = false then (d.setF .DEV_STATUS_UNALIGNED_START 1).toStage 7
  else d

/-- HOST: the UCIe link comes up and the device is READY, or the attempt is repeated (R359, R362). -/
def Dev.hostStage (d : Dev) (up : Bool) (micros : Nat) : Dev :=
  if !d.atStage 7 then d
  else if !up then d.setF .DEV_STATUS_ERROR 0x60
  else
    let d := ((d.setF .DEV_STATUS_ERROR 0).setF .DEV_BOOT_MICROSECONDS micros).toStage 8
    ({ d with link := { d.link with up := true } }).openSession

/-! ## The management registers (R360, R371, R372) -/

/-- What the board manager reads at I3C address 0x4A: a byte of Table 20.3, the same in a halted device, from the release of
COLD_RESET_N on. Every register is read-only, so no command writes one; 0x14 to 0x1F read 0 before stage 2, and so does a
byte that the table does not list. -/
def Dev.management (d : Dev) (reg : Nat) : Byte :=
  let early := decide (d.stage < 2)
  BitVec.ofNat 8
    (if d.boot.cold then 0
     else if reg = 0 then d.boot.bootByte
     else if reg = 1 then d.stage
     else if reg = 2 then d.f .DEV_STATUS_ERROR
     else if reg = 0x10 then d.boot.vdd % 256
     else if reg = 0x11 then d.boot.vdd / 256
     else if early then 0
     else if reg = 0x14 then d.f .ERR_THERM_TEMP
     else if reg = 0x15 then d.f .ERR_THERM_MAX
     else if reg = 0x16 then b2n d.pins.therm + b2n d.pins.replace * 2 + b2n d.pins.alert * 4
     else if 0x18 ≤ reg ∧ reg < 0x20 then bits (d.reg .SEC_ID).toNat (8 * (reg - 0x18)) 8
     else 0)

/-! ## Warm reset (R38, R363, R364) -/

/-- Everything that a warm reset ends: commands, jobs, gates, schedules, queues, engines' contexts, Landing buffers, Borer slots
and windows; every link goes down (Table 19.6, Table 19.7). -/
def Dev.warmClear (d : Dev) : Dev :=
  let live := (d.cmds.filter (fun c => !c.ended)).map Cmd.id
  let d := live.foldl (fun d id => d.failCmd id .killedPreempt) d
  let d := live.foldl (fun d id => d.killCmd id) d
  let d := ((List.range 16).filter d.valid).foldl Dev.releaseJob d
  let d := (List.range 16).foldl (fun d p => ((d.xeRelease p).collRelease p).gateRelease p) d
  let d := (List.range 16).foldl (fun d p => ((d.setReg .RING_NEXT 0 p).setReg .RING_ORIG 0 p).setReg .RING_PERIOD 0 p) d
  let d := (List.range 64).foldl (fun d q => (d.setF .CMD_SQ_CTRL_ENABLE 0 q).setF .CMD_SQ_CTRL_HALTED 0 q) d
  let d := (List.range 64).foldl Dev.brDrop d
  let d := (d.winReset.lndReturnIf (fun _ => true))
  (List.range 36).foldl (fun d l => d.linkGoDown l 6) d

/-- WARM_RESET begins, or is extended: from the pin until it is released, from DEV_CTRL for 1,000 counts (Table 19.6). -/
def Dev.warmBegin (d : Dev) (pin : Bool) : Dev :=
  let until_ := if pin then d.boot.warmRelease else some (max (d.boot.warmRelease.getD 0) (d.count + 1000))
  let d := d.updBoot (fun b => { b with warmLow := b.warmLow || pin, warmRelease := until_ })
  if d.flag .DEV_STATUS_WARM_BUSY then d
  else
    let d := (d.setF .DEV_STATUS_WARM_BUSY 1).addF .DEV_STATUS_WARMS 1
    d.warmClear

/-- WARM_RESET: the pin is sampled only in READY; DEV_CTRL is written through the Owner aperture (R363). -/
def Dev.warmReset (d : Dev) : WarmSource → Dev
  | .pin => if d.atStage 8 then d.warmBegin true else d
  | .ctrl ap => d.hostWrite ap .DEV_CTRL 0 0 (fun d => d.warmBegin false)

/-- WARM_RESET_N returns high. -/
def Dev.warmPinHigh (d : Dev) : Dev :=
  if !d.boot.warmLow then d
  else d.updBoot (fun b => { b with warmLow := false, warmRelease := some (max (b.warmRelease.getD 0) d.count) })

/-- WARM_RESET_DONE: 2,000 counts after the release, the LFSRs are reseeded and the device is READY (Table 19.6). -/
def Dev.warmDone (d : Dev) : Dev :=
  match d.boot.warmRelease with
  | none => d
  | some r =>
    if !d.flag .DEV_STATUS_WARM_BUSY || d.boot.warmLow || decide (d.count < r + 2000) then d
    else
      (d.reseed.setF .DEV_STATUS_WARM_BUSY 0).updBoot (fun b => { b with warmRelease := none })

/-! ## Meanings -/

/-- COLD_RESET_RELEASE. -/
def execColdResetRelease (slot : Fin 8) (s : State) : Host.Outcome State Fault Refusal := s.act (fun d => d.coldRelease slot)

/-- COLD_RESET_ASSERT. -/
def execColdResetAssert (s : State) : Host.Outcome State Fault Refusal := s.act Dev.coldAssert

/-- VERIFY. -/
def execVerify (image : List Byte) (region : Option ScalerRegion) (s : State) : Host.Outcome State Fault Refusal :=
  s.act (fun d => d.verify image region)

/-- FUSES. -/
def execFuses (ok : Bool) (s : State) : Host.Outcome State Fault Refusal := s.act (fun d => d.fuseStage ok)

/-- CLOCKS. -/
def execClocks (ok : Bool) (s : State) : Host.Outcome State Fault Refusal := s.act (fun d => d.clockStage ok)

/-- HBM. -/
def execHbm (failed : Option (Fin 8)) (s : State) : Host.Outcome State Fault Refusal :=
  s.act (fun d => d.hbmStage (failed.map Fin.val))

/-- LINKS. -/
def execLinks (s : State) : Host.Outcome State Fault Refusal := s.act Dev.linkStage

/-- RING. -/
def execRing (s : State) : Host.Outcome State Fault Refusal := s.act Dev.ringStage

/-- HOST. -/
def execHost (up : Bool) (micros : BitVec 32) (s : State) : Host.Outcome State Fault Refusal :=
  s.act (fun d => d.hostStage up micros.toNat)

/-- WARM_RESET. -/
def execWarmReset (src : WarmSource) (s : State) : Host.Outcome State Fault Refusal := s.act (fun d => d.warmReset src)

/-- WARM_RESET_N_RELEASE. -/
def execWarmResetNRelease (s : State) : Host.Outcome State Fault Refusal := s.act Dev.warmPinHigh

/-- WARM_RESET_DONE. -/
def execWarmResetDone (s : State) : Host.Outcome State Fault Refusal := s.act Dev.warmDone

/-- POWER_LOSS. -/
def execPowerLoss (s : State) : Host.Outcome State Fault Refusal := s.act Dev.powerLoss

end Sys2Proof.Machine
end

