-- ==== Sys2Proof/Machine/Control.lean ====
section
/-! DEFINITION. The host's reads and writes of control space: which register an access reaches, in halves or whole, its
checks and its action (R10 to R13, R42). -/

namespace Sys2Proof.Machine

/-! ## Writes that a register's own rule may refuse -/

/-- PART_ARRAYS, and the registers that a partition's job locks: discarded and reported while it holds one (R65, R221). -/
def Dev.jobLocked (d : Dev) (ap : Aperture) (r : Reg) (p j : Nat) (v : BitVec 64) : Dev :=
  if d.valid p then d.refuseReg ap r p j else d.plainWrite r v p j

/-- TIER_PART_CFG: while the partition holds a job, a write that would change STAGE_64K is discarded whole (R212). -/
def Dev.tierPartCfg (d : Dev) (ap : Aperture) (p : Nat) (v : BitVec 64) : Dev :=
  if d.valid p && decide (Fld.TIER_PART_CFG_STAGE_64K.of v ≠ d.f .TIER_PART_CFG_STAGE_64K p) then d.refuseReg ap .TIER_PART_CFG p
  else d.plainWrite .TIER_PART_CFG v p

/-- FAB_BUF_MIN: discarded and reported while any link is UP. -/
def Dev.bufMinWrite (d : Dev) (ap : Aperture) (v : BitVec 64) : Dev :=
  if (List.range 36).any d.linkUp then d.refuseReg ap .FAB_BUF_MIN else d.plainWrite .FAB_BUF_MIN v

/-- A write of a register that has passed the aperture check, as each register's description says (R13). -/
def Dev.regWrite (d : Dev) (ap : Aperture) (k : RegInst) (v : BitVec 64) : Dev :=
  let i := k.i
  let w := v.truncate 32
  match k.reg with
  | .RING_NEXT => d.setNext i v
  | .RING_PERIOD => (d.settlePart i).plainWrite .RING_PERIOD v i
  | .RING_CFG => d.ringCfg v
  | .FAB_SW_CFG => (d.plainWrite .FAB_SW_CFG v).grantAll
  | .RING_CTRL => d.ringCtrl (v.getLsbD 0) (v.getLsbD 1)
  | .CMD_SQ_BASE => d.sqBase ap i v
  | .CMD_SQ_CFG => d.sqCfg ap i v
  | .CMD_SQ_TAIL => d.sqTail i v.toNat
  | .CMD_SQ_CTRL => d.sqCtrl ap i (v.getLsbD 0) (v.getLsbD 1)
  | .CMD_CQ_BASE => d.cqLocked ap .CMD_CQ_BASE i v
  | .CMD_CQ_NOTIFY => d.cqLocked ap .CMD_CQ_NOTIFY i v
  | .CMD_CQ_CFG => d.cqCfg ap i w
  | .CMD_CQ_HEAD => d.cqHead i v.toNat
  | .PART_CTRL => d.partCtrl ap i w
  | .PART_ARRAYS | .MA_FMT_PART | .MA_PART_MODE | .SK_PART_CFG | .COLL_DEDUP => d.jobLocked ap k.reg i k.j v
  | .SV_RPT_BASE => d.rptBase ap i v
  | .SV_RPT_CFG => d.rptCfg ap i w
  | .SV_RPT_HEAD => d.rptHead i v.toNat
  | .XE_XID_CTRL => d.xidCtrl i w
  | .MA_BR_CFG => d.brCfg ap i v
  | .TIER_PART_CFG => d.tierPartCfg ap i v
  | .TIER_OBJTAB => d.objtab ap i v
  | .TIER_LND_POOL => d.lndPool ap i v
  | .TIER_LND_PART => d.lndPart ap i k.j w
  | .FAB_BUF_MIN => d.bufMinWrite ap v
  | .WIN_RING_BASE => d.winLocked ap .WIN_RING_BASE i v
  | .WIN_RING_CFG => d.winLocked ap .WIN_RING_CFG i v
  | .WIN_RING_CTRL => d.winCtrl ap i w
  | .WIN_RING_TAIL => d.winTail i v.toNat
  | .COLL_CID_CTRL => d.cidCtrl i w
  | .ERR_Q_BASE => d.errBase ap v
  | .ERR_Q_CFG => d.errCfg ap w
  | .ERR_Q_HEAD => d.errHead v.toNat
  | .SEC_DBG_CFG => d.dbgCfg v
  | .SEC_TALLY_BASE => d.tallyBase ap v
  | .SEC_TALLY_CFG => d.tallyCfg ap w
  | .SEC_TALLY_HEAD => d.tallyHead v.toNat
  | .SEC_MET_CMD => d.metStart v
  | .SEC_QUOTE_CTRL => d.quoteCtrl v
  | .SEC_FLASH_CTRL => d.flashCtrl ap v
  | .DEV_CTRL => if v.getLsbD 0 then d.warmBegin false else d
  | r => d.plainWrite r v i k.j

/-! ## Halves (R11) -/

/-- The key of a register instance among the held and latched halves. -/
def RegInst.key (k : RegInst) : Nat := k.reg.code k.i k.j

/-- A list of halves with one key's value, or without it. -/
def setHalf (l : List (Nat × BitVec 32)) (key : Nat) : Option (BitVec 32) → List (Nat × BitVec 32)
  | some v => l.filter (fun e => e.1 != key) ++ [(key, v)]
  | none => l.filter (fun e => e.1 != key)

/-- A held half. -/
def getHalf (l : List (Nat × BitVec 32)) (key : Nat) : Option (BitVec 32) := (l.find? (fun e => e.1 == key)).map Prod.snd

/-- FAULT_PROT reports posted since the first n records name the high half, the access refused (R11, Table 17.2). -/
def Dev.highReports (d : Dev) (n : Nat) : Dev :=
  let up : Held → Held := fun h => match h with
    | .report r => .report (if r.code = .FAULT_PROT then { r with address := r.address + 4 } else r)
    | .completion c => .completion c
  { d with link := { d.link with held := d.link.held.take n ++ (d.link.held.drop n).map up } }

/-- The low half that a write of the high half goes with: the held one; else the values its fields have, SEC_MET_CMD.ADDR
among them, with no action of the low half (R11). -/
def Dev.lowHalf (d : Dev) (k : RegInst) : BitVec 32 :=
  let kept := if k.reg = .SEC_MET_CMD then ~~~0 else k.reg.rwBits k.j
  (getHalf d.lo k.key).getD ((d.reg k.reg k.i k.j &&& kept).truncate 32)

/-- A 32-bit write. -/
def Dev.write32 (d : Dev) (ap : Aperture) (addr : Nat) (v : BitVec 32) : Dev :=
  match halfAt addr with
  | .narrow k => d.hostWrite ap k.reg k.i k.j (fun d => d.regWrite ap k (v.zeroExtend 64))
  | .low k => d.hostWrite ap k.reg k.i k.j (fun d => { d with lo := setHalf d.lo k.key (some v) })
  | .high k =>
    let n := d.link.held.length
    (d.hostWrite ap k.reg k.i k.j (fun d =>
      let w : BitVec 64 := v ++ d.lowHalf k
      ({ d with lo := setHalf d.lo k.key none }).regWrite ap k w)).highReports n
  | .nothing => d

/-- A write of control space: a 64-bit register whole, any other 64 bits as two 32-bit writes, the lower first (R11). -/
def Dev.csWrite (d : Dev) (ap : Aperture) (addr : Nat) (wide : Bool) (v : BitVec 64) : Dev :=
  if !wide then d.write32 ap addr (v.truncate 32)
  else
    match halfAt addr with
    | .low k => d.hostWrite ap k.reg k.i k.j (fun d => d.regWrite ap k v)
    | _ => (d.write32 ap addr (v.truncate 32)).write32 ap (addr + 4) ((v >>> 32).truncate 32)

/-- A 32-bit read's value and side effect, once its block may be read: a low half latches its high half, and the next read
of the high half returns what was latched (R11). -/
def Dev.readHalf (d : Dev) : Half → Dev × BitVec 64
  | .narrow k => d.readReg k.reg k.i k.j
  | .low k =>
    let (d, v) := d.readReg k.reg k.i k.j
    ({ d with hi := setHalf d.hi k.key (some ((v >>> 32).truncate 32)) }, (v.truncate 32).zeroExtend 64)
  | .high k =>
    match getHalf d.hi k.key with
    | some v => ({ d with hi := setHalf d.hi k.key none }, v.zeroExtend 64)
    | none => let (d, v) := d.readReg k.reg k.i k.j; (d, v >>> 32)
  | .nothing => (d, 0)

/-- A 32-bit access of a read with its own check: refused, it returns zero and is reported; an offset that no register
occupies reads zero without report (R12, R42). -/
def Dev.read32 (d : Dev) (ap : Aperture) (addr : Nat) : Dev × BitVec 64 :=
  match halfAt addr with
  | .nothing => (d, 0)
  | h =>
    if d.flag .DEV_STATUS_WARM_BUSY && decide (1048576 ≤ addr) then (d, 0)
    else if !mayRead ap addr then (d.refuse ap addr false, 0)
    else d.readHalf h

/-- A read of control space, answered in one message (R11, R42). -/
def Dev.csRead (d : Dev) (ap : Aperture) (addr : Nat) (wide : Bool) : Dev :=
  if !wide then
    if !d.hostUp then d else let (d, v) := d.read32 ap addr; d.emit (.readData 4 v)
  else
    match halfAt addr with
    | .low k => d.hostRead ap addr 8 (fun d => d.readReg k.reg k.i k.j)
    | _ =>
      if !d.hostUp then d
      else
        let (d, a) := d.read32 ap addr
        let (d, b) := d.read32 ap (addr + 4)
        d.emit (.readData 8 (a ||| b <<< 32))

/-- The access is aligned to its width, as R11 requires. -/
def aligned (addr : Nat) (wide : Bool) : Bool := addr % (if wide then 8 else 4) == 0

/-- An access off its natural alignment meets no register, since each is aligned to its width (R11): as at an offset that no
register occupies, a write is discarded and a read returns zero, without report (R12; log 11). -/
def Dev.csReadOff (d : Dev) (wide : Bool) : Dev := if d.hostUp then d.emit (.readData (if wide then 8 else 4) 0) else d

/-! ## Meanings -/

/-- CS_WRITE. -/
def execCsWrite (ap : Aperture) (addr : BitVec 28) (wide : Bool) (v : BitVec 64) (s : State) :
    Host.Outcome State Fault Refusal :=
  s.act (fun d => if aligned addr.toNat wide then d.csWrite ap addr.toNat wide v else d)

/-- CS_READ. -/
def execCsRead (ap : Aperture) (addr : BitVec 28) (wide : Bool) (s : State) : Host.Outcome State Fault Refusal :=
  s.act (fun d => if aligned addr.toNat wide then d.csRead ap addr.toNat wide else d.csReadOff wide)

end Sys2Proof.Machine
end

