-- ==== Sys2Proof/Machine/Dispatch.lean ====
section
/-! DEFINITION. One arm for each command: a direct call of its meaning. -/

namespace Sys2Proof.Machine

/-- A command's effect on everything but the queue. -/
def exec (i : Instr) (s : State) : Host.Outcome State Fault Refusal :=
  match i with
  | .csWrite ap addr wide v => Sys2Proof.Machine.execCsWrite ap addr wide v s
  | .cmdSqTail ap q v => Sys2Proof.Machine.execCmdSqTail ap q v s
  | .cmdSqCfg ap q v => Sys2Proof.Machine.execCmdSqCfg ap q v s
  | .sqEnable ap q on => Sys2Proof.Machine.execSqEnable ap q on s
  | .sqResume ap q enable => Sys2Proof.Machine.execSqResume ap q enable s
  | .cqEnable ap c v => Sys2Proof.Machine.execCqEnable ap c v s
  | .cmdCqHead ap c v => Sys2Proof.Machine.execCmdCqHead ap c v s
  | .descriptorFetch q desc => Sys2Proof.Machine.execDescriptorFetch q desc s
  | .commandLaunch q => Sys2Proof.Machine.execCommandLaunch q s
  | .commit id => Sys2Proof.Machine.execCommit id s
  | .kill id => Sys2Proof.Machine.execKill id s
  | .completionRecordWrite c => Sys2Proof.Machine.execCompletionRecordWrite c s
  | .versionRelease p obj buf => Sys2Proof.Machine.execVersionRelease p obj buf s
  | .hostLinkDown => Sys2Proof.Machine.execHostLinkDown s
  | .hostLinkUp => Sys2Proof.Machine.execHostLinkUp s
  | .layer id => Sys2Proof.Machine.execLayer id s
  | .sieve id => Sys2Proof.Machine.execSieve id s
  | .exchange id => Sys2Proof.Machine.execExchange id s
  | .combine id => Sys2Proof.Machine.execCombine id s
  | .collective id => Sys2Proof.Machine.execCollective id s
  | .addMsg id => Sys2Proof.Machine.execAddMsg id s
  | .copy id data => Sys2Proof.Machine.execCopy id data s
  | .copyStream id data => Sys2Proof.Machine.execCopyStream id data s
  | .place id => Sys2Proof.Machine.execPlace id s
  | .swap id => Sys2Proof.Machine.execSwap id s
  | .loadProgram id data => Sys2Proof.Machine.execLoadProgram id data s
  | .fence id => Sys2Proof.Machine.execFence id s
  | .preempt id => Sys2Proof.Machine.execPreempt id s
  | .disable id => Sys2Proof.Machine.execDisable id s
  | .enableSpare id => Sys2Proof.Machine.execEnableSpare id s
  | .stepGrant id => Sys2Proof.Machine.execStepGrant id s
  | .partCtrlValid ap p v => Sys2Proof.Machine.execPartCtrlValid ap p v s
  | .partitionRelease ap p v => Sys2Proof.Machine.execPartitionRelease ap p v s
  | .quarantineExpiry job => Sys2Proof.Machine.execQuarantineExpiry job s
  | .ringNextWrite ap p v => Sys2Proof.Machine.execRingNextWrite ap p v s
  | .boundaryTaken p => Sys2Proof.Machine.execBoundaryTaken p s
  | .boundaryIn => Sys2Proof.Machine.execBoundaryIn s
  | .boundaryBillet => Sys2Proof.Machine.execBoundaryBillet s
  | .stallReport w => Sys2Proof.Machine.execStallReport w s
  | .fetchDeadline id => Sys2Proof.Machine.execFetchDeadline id s
  | .alignmentBillet => Sys2Proof.Machine.execAlignmentBillet s
  | .alignmentSend => Sys2Proof.Machine.execAlignmentSend s
  | .holdoverTimeout => Sys2Proof.Machine.execHoldoverTimeout s
  | .ringAlign => Sys2Proof.Machine.execRingAlign s
  | .rootAcquireTimeout => Sys2Proof.Machine.execRootAcquireTimeout s
  | .reacquire ap => Sys2Proof.Machine.execReacquire ap s
  | .clearMax ap => Sys2Proof.Machine.execClearMax ap s
  | .ringRefLost => Sys2Proof.Machine.execRingRefLost s
  | .ringRefReturn => Sys2Proof.Machine.execRingRefReturn s
  | .scoreTile ctx => Sys2Proof.Machine.execScoreTile ctx s
  | .tokenSelect ctx => Sys2Proof.Machine.execTokenSelect ctx s
  | .sieveTail ctx => Sys2Proof.Machine.execSieveTail ctx s
  | .stepReport ctx => Sys2Proof.Machine.execStepReport ctx s
  | .svRptCfg ap p v => Sys2Proof.Machine.execSvRptCfg ap p v s
  | .svRptHead ap p v => Sys2Proof.Machine.execSvRptHead ap p v s
  | .xeBillet => Sys2Proof.Machine.execXeBillet s
  | .segmentHeader ctx src => Sys2Proof.Machine.execSegmentHeader ctx src s
  | .vectorWrite ctx src idx => Sys2Proof.Machine.execVectorWrite ctx src idx s
  | .xeXidCtrl ap p v => Sys2Proof.Machine.execXeXidCtrl ap p v s
  | .arrayTile id arr unit fault => Sys2Proof.Machine.execArrayTile id arr unit fault s
  | .compaction id unit => Sys2Proof.Machine.execCompaction id unit s
  | .transposeBlock id unit => Sys2Proof.Machine.execTransposeBlock id unit s
  | .weightChunkStage id arr unit => Sys2Proof.Machine.execWeightChunkStage id arr unit s
  | .borerSample slot => Sys2Proof.Machine.execBorerSample slot s
  | .maBrCfgEnable ap slot v => Sys2Proof.Machine.execMaBrCfgEnable ap slot v s
  | .maBrHdata ap => Sys2Proof.Machine.execMaBrHdata ap s
  | .nmaFold id obj => Sys2Proof.Machine.execNmaFold id obj s
  | .xuFault id part va write => Sys2Proof.Machine.execXuFault id part va write s
  | .tierHbmUe id part addr => Sys2Proof.Machine.execTierHbmUe id part addr s
  | .tierSlabUe id part arr off => Sys2Proof.Machine.execTierSlabUe id part arr off s
  | .tierPhysRange id part addr => Sys2Proof.Machine.execTierPhysRange id part addr s
  | .scrub stack found => Sys2Proof.Machine.execScrub stack found s
  | .landingAlloc p k id => Sys2Proof.Machine.execLandingAlloc p k id s
  | .landingReturn k idx => Sys2Proof.Machine.execLandingReturn k idx s
  | .tierLndPool ap k v => Sys2Proof.Machine.execTierLndPool ap k v s
  | .tierLndPart ap p k v => Sys2Proof.Machine.execTierLndPart ap p k v s
  | .tierObjtabClear ap p v => Sys2Proof.Machine.execTierObjtabClear ap p v s
  | .objtabClearDone p => Sys2Proof.Machine.execObjtabClearDone p s
  | .weightBillet => Sys2Proof.Machine.execWeightBillet s
  | .swapVerify ctx entry => Sys2Proof.Machine.execSwapVerify ctx entry s
  | .linkTrained l lanes t => Sys2Proof.Machine.execLinkTrained l lanes t s
  | .discovery t => Sys2Proof.Machine.execDiscovery t s
  | .linkDown l cause => Sys2Proof.Machine.execLinkDown l cause s
  | .billetReceive l b stamp sinceEdge => Sys2Proof.Machine.execBilletReceive l b stamp sinceEdge s
  | .switchOutputGrant turn => Sys2Proof.Machine.execSwitchOutputGrant turn s
  | .linkControlWord l w => Sys2Proof.Machine.execLinkControlWord l w s
  | .internalDelivery port => Sys2Proof.Machine.execInternalDelivery port s
  | .winRingTail ap r v => Sys2Proof.Machine.execWinRingTail ap r v s
  | .winEntryFetch r entry data bad => Sys2Proof.Machine.execWinEntryFetch r entry data bad s
  | .winRequest => Sys2Proof.Machine.execWinRequest s
  | .winResponse => Sys2Proof.Machine.execWinResponse s
  | .winEntryComplete r => Sys2Proof.Machine.execWinEntryComplete r s
  | .winRingEnable ap r v => Sys2Proof.Machine.execWinRingEnable ap r v s
  | .abort ap r v => Sys2Proof.Machine.execAbort ap r v s
  | .collBillet ce => Sys2Proof.Machine.execCollBillet ce s
  | .collStageChunk id step chunk fault => Sys2Proof.Machine.execCollStageChunk id step chunk fault s
  | .credit ce => Sys2Proof.Machine.execCredit ce s
  | .close ce => Sys2Proof.Machine.execClose ce s
  | .suspectNotice ce => Sys2Proof.Machine.execSuspectNotice ce s
  | .collCidCtrl ap p v => Sys2Proof.Machine.execCollCidCtrl ap p v s
  | .add turn => Sys2Proof.Machine.execAdd turn s
  | .ack ce => Sys2Proof.Machine.execAck ce s
  | .lotteryDraw arb active => Sys2Proof.Machine.execLotteryDraw arb active s
  | .emergencyGrant arb trst => Sys2Proof.Machine.execEmergencyGrant arb trst s
  | .watchdogBite bite => Sys2Proof.Machine.execWatchdogBite bite s
  | .slabAccess trst arr off write line => Sys2Proof.Machine.execSlabAccess trst arr off write line s
  | .switchCapture trst port => Sys2Proof.Machine.execSwitchCapture trst port s
  | .secDbgOpen ap v => Sys2Proof.Machine.execSecDbgOpen ap v s
  | .meshCrc stop id read => Sys2Proof.Machine.execMeshCrc stop id read s
  | .errorReportWrite => Sys2Proof.Machine.execErrorReportWrite s
  | .errQCfg ap v => Sys2Proof.Machine.execErrQCfg ap v s
  | .errQHead ap v => Sys2Proof.Machine.execErrQHead ap v s
  | .errReplaceClear ap v => Sys2Proof.Machine.execErrReplaceClear ap v s
  | .conservationCheck => Sys2Proof.Machine.execConservationCheck s
  | .errRate kind item n => Sys2Proof.Machine.execErrRate kind item n s
  | .rateWindowEnd => Sys2Proof.Machine.execRateWindowEnd s
  | .replaceReq => Sys2Proof.Machine.execReplaceReq s
  | .droopStretch dom excess => Sys2Proof.Machine.execDroopStretch dom excess s
  | .tempHigh t => Sys2Proof.Machine.execTempHigh t s
  | .thermTrip t => Sys2Proof.Machine.execThermTrip t s
  | .vddCoreTargetStep t up => Sys2Proof.Machine.execVddCoreTargetStep t up s
  | .scalerSample rail current voltage outOfRange => Sys2Proof.Machine.execScalerSample rail current voltage outOfRange s
  | .tallyPeriodEnd => Sys2Proof.Machine.execTallyPeriodEnd s
  | .tallySigned => Sys2Proof.Machine.execTallySigned s
  | .tallyRecordWrite => Sys2Proof.Machine.execTallyRecordWrite s
  | .secTallyCfg ap v => Sys2Proof.Machine.execSecTallyCfg ap v s
  | .secTallyHead ap v => Sys2Proof.Machine.execSecTallyHead ap v s
  | .secMetCmd ap v => Sys2Proof.Machine.execSecMetCmd ap v s
  | .metrologyCommandDone bytes region => Sys2Proof.Machine.execMetrologyCommandDone bytes region s
  | .secQuoteCtrlGo ap v => Sys2Proof.Machine.execSecQuoteCtrlGo ap v s
  | .quoteDone nonce => Sys2Proof.Machine.execQuoteDone nonce s
  | .secCert ap => Sys2Proof.Machine.execSecCert ap s
  | .secFlashGo ap v => Sys2Proof.Machine.execSecFlashGo ap v s
  | .flashWriteDone data => Sys2Proof.Machine.execFlashWriteDone data s
  | .coldResetRelease slot => Sys2Proof.Machine.execColdResetRelease slot s
  | .coldResetAssert => Sys2Proof.Machine.execColdResetAssert s
  | .verify image region => Sys2Proof.Machine.execVerify image region s
  | .fuses ok => Sys2Proof.Machine.execFuses ok s
  | .clocks ok => Sys2Proof.Machine.execClocks ok s
  | .hbm failed => Sys2Proof.Machine.execHbm failed s
  | .links => Sys2Proof.Machine.execLinks s
  | .ring => Sys2Proof.Machine.execRing s
  | .host up micros => Sys2Proof.Machine.execHost up micros s
  | .warmReset src => Sys2Proof.Machine.execWarmReset src s
  | .warmResetDone => Sys2Proof.Machine.execWarmResetDone s
  | .powerLoss => Sys2Proof.Machine.execPowerLoss s
  | .csRead ap addr wide => Sys2Proof.Machine.execCsRead ap addr wide s
  | .ringRefEdge => Sys2Proof.Machine.execRingRefEdge s
  | .linkTrainingStart l => Sys2Proof.Machine.execLinkTrainingStart l s
  | .warmResetNRelease => Sys2Proof.Machine.execWarmResetNRelease s
  | .tempBelowWarn t => Sys2Proof.Machine.execTempBelowWarn t s
  | .emergencyRelease arb => Sys2Proof.Machine.execEmergencyRelease arb s

end Sys2Proof.Machine
end

