-- ==== Sys2Proof/Safety.lean ====
section
/-! DEFINITION. The terms in which the statements speak: what a completed command is, what is left unchanged, and when the
output balls agree with what drives them. -/

namespace Sys2Proof.Machine

/-- The command completes: its meaning answers a next state, with the queue as it was and a device of which P holds. -/
def Completes (i : Instr) (s : State) (P : Dev → Prop) : Prop :=
  ∃ t, exec i s = .next t ∧ t.pending = s.pending ∧ P t.dev

/-- Every register instance but those of the listed codes holds what it held. -/
def Dev.regsBut (d e : Dev) (l : List Nat) : Prop := ∀ r i j, Reg.code r i j ∉ l → e.reg r i j = d.reg r i j

/-- Nothing but registers and output balls has changed: not memory, commands, queues, engines, records or messages out. -/
def Dev.restSame (d e : Dev) : Prop := e = { d with regs := e.regs, pins := e.pins }

/-- Nothing but the output balls has changed. -/
def Dev.same (d e : Dev) : Prop := e = { d with pins := e.pins }

/-- A host write of a register reaches its own rule: control space can be reached, no warm reset is in progress, and the
aperture suffices (R13, R359, R363). -/
def Dev.accepts (d : Dev) (ap : Aperture) (r : Reg) (i : Nat) : Bool :=
  d.hostUp && !d.flag .DEV_STATUS_WARM_BUSY && d.mayWrite ap r i

/-- A host read may be made at an address (R42, R359, R363). -/
def Dev.answers (d : Dev) (ap : Aperture) (addr : Nat) : Bool :=
  d.hostUp && !d.flag .DEV_STATUS_WARM_BUSY && mayRead ap addr

/-- One report of a code joined the held records, with the next SEQ and the count. -/
def Dev.posted (d e : Dev) (c : Code) (P : Report → Prop) : Prop :=
  ∃ r : Report, e.link.held = d.link.held ++ [.report r] ∧ r.code = c ∧ r.seq = d.link.seq ∧ r.count = d.count ∧ P r

/-- Nothing but registers, output balls and the reports held has changed. -/
def Dev.restTold (d e : Dev) : Prop :=
  e = { d with regs := e.regs, pins := e.pins, link := { d.link with held := e.link.held, seq := e.link.seq } }

/-- A saturating counter has gone up by n. -/
def Dev.bumped (d e : Dev) (f : Fld) (n : Nat) (i : Nat := 0) (j : Nat := 0) : Prop :=
  e.f f i j = min (d.f f i j + n) (2 ^ f.width - 1)

/-- A cause of failure has reached the command with a number. -/
def Dev.failing (e : Dev) (id : Nat) (st : Status) : Prop := ∃ k, e.cmd? id = some k ∧ st ∈ k.causes

/-- Some cause of failure has reached the command with a number. -/
def Dev.failed (e : Dev) (id : Nat) : Prop := ∃ k, e.cmd? id = some k ∧ k.causes ≠ []

/-- The command with a number is ready to commit. -/
def Dev.readied (e : Dev) (id : Nat) : Prop := ∃ k, e.cmd? id = some k ∧ k.ready = true

/-- No command has been committed or killed, no version superseded or released, and the count stands. -/
def Dev.noneEnds (d e : Dev) : Prop :=
  e.cmds.map (fun c => (c.id, c.ended, c.claims)) = d.cmds.map (fun c => (c.id, c.ended, c.claims)) ∧
  e.mem.superseded = d.mem.superseded ∧ e.mem.charges = d.mem.charges ∧ e.count = d.count

/-- No command has changed, nothing has been reported, and no byte of memory has changed: what an engine's work that meets no
failure leaves as it was. -/
def Dev.quietly (d e : Dev) : Prop :=
  e.cmds = d.cmds ∧ e.link = d.link ∧ e.mem.hbm = d.mem.hbm ∧ e.mem.slab = d.mem.slab ∧ e.count = d.count

/-- No other command in flight has the command's number. -/
def Dev.sole (d : Dev) (k : Cmd) : Prop := k ∈ d.cmds ∧ ∀ x ∈ d.cmds, x.id = k.id → x = k

/-- The record of a command's end joined the held records. -/
def Dev.recorded (d e : Dev) (c : Cmd) (st : Status) (parts : Nat) : Prop :=
  e.link.held = d.link.held ++ [.completion
    { cmd := c.id, status := st, opcode := c.opcode, job := c.job, tag := c.tag, count := d.count, parts := parts
      queue := c.queue, seq := c.firstSeq, notify := c.notify }] ∧
  ∃ k, e.cmd? c.id = some k ∧ k.ended = true

/-- The device after an engine has taken a delivered billet from the inbox: its copy has left its slot (R115, R264). -/
def Dev.taken (d : Dev) (a : Arrival) : Dev := (d.updFab (fun f => { f with inbox := f.inbox.erase a })).consume a

/-- The messages of Table 3.1 that read n bytes of host memory. -/
def memReads (addr n : Nat) : List Out := (messageSizes n).map (fun m => .memRead (addr + m.1) m.2)

/-- The messages of Table 3.1 that write bytes to host memory. -/
def memWrites (addr : Nat) (bytes : List Byte) : List Out :=
  (messageSizes bytes.length).map (fun m => .memWrite (addr + m.1) (slice bytes m.1 m.2))

/-- The root time, in alignment units, that a received alignment billet gives (R28). -/
def Dev.billetTime (d : Dev) (a : Arrival) : Int :=
  rootTime (bPay a.b 8 0 64) (toSigned 16 (bPay a.b 6 0 16)) ((a.link.map (fun l => SMap.get 0 d.ring.delay l)).getD 0 - 1) a.since
    (d.ring.edges - a.edge)

/-- An alignment billet is one to adopt or check: at a root that waits for a neighbour's, any; at another device, one from the
parent link (R28, R29). -/
def Dev.billetCounts (d : Dev) (a : Arrival) : Bool :=
  if d.isRoot then d.rootWaits else a.link.isSome && a.link == d.parentLink

/-- An engine's work, started from a device, meets no failure. -/
def Op.succeeds {α : Type} (d : Dev) (m : Op α) : Bool :=
  match (m.run.run d).1 with
  | .ok _ => true
  | .error _ => false

/-- The output balls show what they must: ALERT_N its level, REPLACE_REQ_N only with an enabled reason, and none asserted
while COLD_RESET_N is (R329, R335, R377). -/
def Dev.pinsOk (d : Dev) : Prop :=
  d.pins.alert = (!d.boot.cold && d.alertLevel) ∧ (d.pins.replace = true → d.boot.cold = false ∧ d.reasons ≠ 0) ∧
  (d.pins.therm = true → d.boot.cold = false)

/-- What a plain write leaves in a register: RW bits as written, W1C bits cleared by a 1, all other bits as they were
(Table 0.4). -/
def written (r : Reg) (old v : BitVec 64) : BitVec 64 :=
  ((old &&& ~~~(BitVec.ofNat 64 r.spec.rw)) ||| (v &&& BitVec.ofNat 64 r.spec.rw)) &&& ~~~(v &&& BitVec.ofNat 64 r.spec.w1c)

end Sys2Proof.Machine
end

