-- ==== Sys2Proof/WellFormed.lean ====
section
/-! DEFINITION. Which commands a sender can give: operands within the ranges of the spec. A meaning is total and leaves the
device unchanged where such an operand names nothing (log 9); these checks say what no sender produces. -/

namespace Sys2Proof

open Machine

/-- A wait of a stall report names an existing partition or window ring. -/
def Wait.wf : Wait → Bool
  | .grant p => p < 16
  | .window r => r < 16
  | _ => true

/-- The items of each rate kind (Table 17.4). -/
def rateItems : Nat → Nat
  | 0 => 8
  | 1 => 152
  | 2 => 8
  | 3 => 1
  | 4 => 36
  | 5 => 152
  | 6 => 36
  | _ => 1

/-- The inputs of a lottery request are those of one arbiter: no input twice. -/
def drawOk (l : List ArbReq) : Bool := (l.map ArbReq.input).Nodup

/-- A command is well-formed. -/
def Instr.wf : Instr → Bool
  | .csWrite _ addr wide _ => aligned addr.toNat wide
  | .csRead _ addr wide => aligned addr.toNat wide
  | .quarantineExpiry job => job != 0
  | .versionRelease _ obj _ => obj != 0
  | .stallReport w => w.wf
  | .segmentHeader _ src => src < 65536
  | .vectorWrite _ src idx => src < 65536 && idx < 2 ^ 24
  | .nmaFold _ obj => obj != 0 && obj < 2 ^ 24
  | .xuFault _ part _ _ => part < 16
  | .tierHbmUe _ part addr => part < 16 && addr.toNat < hbmEnd
  | .tierSlabUe _ part _ _ => part < 16
  | .tierPhysRange _ part addr => part < 16 && hbmEnd ≤ addr.toNat
  | .lotteryDraw arb active => arbExists arb.toNat && drawOk active
  | .emergencyGrant arb _ => arbExists arb.toNat
  | .emergencyRelease arb => arbExists arb.toNat
  | .watchdogBite b => arbExists b.arb.toNat && drawOk b.active
  | .meshCrc _ _ read => read.all (fun n => n.val == 4 || n.val == 8)
  | .errRate kind item _ => item < rateItems kind
  | .winEntryFetch _ _ data _ => data.length ≤ 4096
  | .tempHigh t => t < 256
  | .thermTrip t => t < 256
  | .vddCoreTargetStep t _ => t < 256
  | .tempBelowWarn t => t < 256
  | _ => true

end Sys2Proof
end

