-- ==== Sys2Proof/Certificates/Slice0/Obligations.lean ====
section
/-! DEFINITION. The statements for the provers. Each names the rules of spec/ it rests on in OBLIGATIONS.json. -/

open Sys2Proof Sys2Proof.Machine

/-! ## The queue, the output balls and reset -/

/-- For every state and every command, a step of the state with that command at the front of its queue is exec of the
command on the state with the rest of the queue; on an empty queue the step answers the state unchanged (log 90, the model's
choice). -/
def Obligations.StepRunsFrontCommand : Prop :=
  ∀ (s : State) (c : Instr), step { s with pending := c :: s.pending } = exec c s ∧ (s.pending = [] → step s = .next s)

/-- No command's meaning changes the queue: whenever exec of a command answers a next state, that state's queue is the one it
was given; so of two runs that differ only in what waits behind the command, the devices agree. -/
def Obligations.ExecKeepsQueue : Prop :=
  ∀ (i : Instr) (s t : State), exec i s = .next t →
    t.pending = s.pending ∧ ∀ q, exec i { s with pending := q } = .next { t with pending := q }

/-- At reset the output balls are all released, and the invariant of the output balls holds; every register instance reads
its reset value; no byte of memory is listed, and the listing has its canonical form; no command waits or is in flight, no
record is held for the host, no job ID is in quarantine and no Landing buffer is held; the arrays, the Sieve, the Exchange
Engine, the window, the collective engines, the Switch Core and the arbiters hold no work, and nothing has been sent (that
memory and the other hidden state are empty at reset is the model's choice, logs 2 and 3). -/
def Obligations.ResetState : Prop :=
  State.reset.dev.pinsOk ∧ State.reset.dev.pins = {} ∧ (∀ r i j, State.reset.dev.reg r i j = r.dflt) ∧
  State.reset.dev.mem = {} ∧ Memory.wf State.reset.dev.mem = true ∧ State.reset.pending = [] ∧
  (let d := State.reset.dev
   d.cmds = [] ∧ d.link.held = [] ∧ d.quarantine = [] ∧ d.lnd = {} ∧ d.hi = [] ∧ d.lo = [] ∧ d.arr.runs = [] ∧
   d.arr.scores = [] ∧ d.arr.chunks = [] ∧ d.borer.hists = [] ∧ d.borer.waiting = [] ∧ d.sv.ctxs = [] ∧ d.sv.grants = [] ∧
   d.xe.ctxs = [] ∧ d.xe.held = [] ∧ d.swaps = [] ∧ d.win.entries = [] ∧ d.coll.ctxs = [] ∧ d.coll.held = [] ∧
   d.coll.adds = [] ∧ d.fab.slots = [] ∧ d.fab.inject = [] ∧ d.fab.arrivals = [] ∧ d.fab.inbox = [] ∧ d.arb.grants = [] ∧
   d.arb.emergency = [] ∧ d.scl.records = [] ∧ d.stalls = [] ∧ d.out = [])

/-- Every step keeps the output balls right, from any state in which they are: after it ALERT_N is asserted exactly while a
report at or above ALERT_MIN is held or lies in the ring at or beyond its head, REPLACE_REQ_N is asserted only while an
enabled reason is set, and none of the three is asserted while COLD_RESET_N is. -/
def Obligations.StepKeepsPins : Prop :=
  ∀ s t : State, s.dev.pinsOk → step s = .next t → t.dev.pinsOk

/-! ## Control space -/

/-- A 32-bit write through an aperture that does not suffice changes no register and no other state, and posts one FAULT_PROT
report with the offset of the refused register, the aperture's number and the write bit, from the register's block. -/
def Obligations.RefusedWriteReported : Prop :=
  ∀ (s : State) (ap : Aperture) (addr : BitVec 28) (v : BitVec 64) (k : RegInst),
    addr.toNat % 4 = 0 → halfAt addr.toNat = .narrow k → s.dev.hostUp = true → s.dev.flag .DEV_STATUS_WARM_BUSY = false →
    s.dev.mayWrite ap k.reg k.i = false →
    ∃ t, exec (.csWrite ap addr false v) s = .next t ∧ t.dev = { s.dev with link := t.dev.link, pins := t.dev.pins } ∧
      t.pending = s.pending ∧ s.dev.posted t.dev .FAULT_PROT (fun r => r.address = addr.toNat ∧ r.index = apNum ap + 256 ∧
        r.source = blockOf addr.toNat)

/-- CS_WRITE completes: a 32-bit write of a register without a rule of its own, through an aperture that suffices, sets its RW
bits, clears W1C bits where a 1 is written and leaves every other bit, every other register and everything else as it was.
FAB_SW_CFG is written so too, and its write may grant shared slots. -/
def Obligations.PlainWriteActsByField : Prop :=
  ∀ (s : State) (ap : Aperture) (addr : BitVec 28) (v : BitVec 64) (k : RegInst),
    addr.toNat % 4 = 0 → halfAt addr.toNat = .narrow k →
    k.reg ∈ [.RING_DELAY_SEL, .RING_BIN_CFG, .PART_SHARE, .PART_STATUS, .SV_CTRL, .SV_MODEL, .XE_STALL, .MA_BR_HSEL,
      .TIER_SCRUB, .TIER_DEADLINE, .FAB_SW_CFG, .WIN_STALL, .COLL_STALL, .ARB_TICKETS, .PART_DET_EVENTS, .ERR_REPLACE,
      .SEC_CERT_SEL] →
    s.dev.accepts ap k.reg k.i = true →
    ∃ t, exec (.csWrite ap addr false v) s = .next t ∧ t.pending = s.pending ∧
      t.dev.reg k.reg k.i k.j = written k.reg (s.dev.reg k.reg k.i k.j) ((v.truncate 32).zeroExtend 64) ∧
      (k.reg ≠ .FAB_SW_CFG → s.dev.regsBut t.dev [k.reg.code k.i k.j] ∧ s.dev.restSame t.dev)

/-- CS_READ completes: a 32-bit read of a 32-bit register answers its value, zero-extended, and has no other effect (but for
MA_BR_HDATA and SEC_CERT, which have statements of their own); a 32-bit read of the low half of a 64-bit register answers the
low half and latches the high half, and a read of a latched high half answers what was latched, whatever the register holds
by then; of a high half that is not latched, the register's own high half. A 64-bit read of a 64-bit register answers it
whole and latches nothing; one of two 32-bit registers answers both, the one at the lower offset in the lower half. -/
def Obligations.ReadsAnswer : Prop :=
  ∀ (s : State) (ap : Aperture) (addr : BitVec 28) (k : RegInst),
    addr.toNat % 4 = 0 → s.dev.answers ap addr.toNat = true →
    (halfAt addr.toNat = .narrow k → k.reg ≠ .MA_BR_HDATA → k.reg ≠ .SEC_CERT →
      ∃ t, exec (.csRead ap addr false) s = .next t ∧ t.pending = s.pending ∧
        t.dev = { s.dev with pins := t.dev.pins, out := s.dev.out ++ [.readData 4 (s.dev.view k.reg k.i k.j)] }) ∧
    (halfAt addr.toNat = .low k → k.reg ≠ .MA_BR_HDATA → k.reg ≠ .SEC_CERT →
      ∃ t, exec (.csRead ap addr false) s = .next t ∧ t.pending = s.pending ∧
        getHalf t.dev.hi k.key = some ((s.dev.view k.reg k.i k.j >>> 32).truncate 32) ∧
        t.dev = { s.dev with pins := t.dev.pins, hi := t.dev.hi,
                             out := s.dev.out ++ [.readData 4 (((s.dev.view k.reg k.i k.j).truncate 32).zeroExtend 64)] }) ∧
    (∀ v, halfAt addr.toNat = .high k → getHalf s.dev.hi k.key = some v →
      ∃ t, exec (.csRead ap addr false) s = .next t ∧ t.pending = s.pending ∧ getHalf t.dev.hi k.key = none ∧
        t.dev = { s.dev with pins := t.dev.pins, hi := t.dev.hi, out := s.dev.out ++ [.readData 4 (v.zeroExtend 64)] }) ∧
    (halfAt addr.toNat = .high k → getHalf s.dev.hi k.key = none → k.reg ≠ .MA_BR_HDATA → k.reg ≠ .SEC_CERT →
      ∃ t, exec (.csRead ap addr false) s = .next t ∧ t.pending = s.pending ∧
        t.dev = { s.dev with pins := t.dev.pins, out := s.dev.out ++ [.readData 4 (s.dev.view k.reg k.i k.j >>> 32)] }) ∧
    (addr.toNat % 8 = 0 → halfAt addr.toNat = .low k → k.reg ≠ .MA_BR_HDATA → k.reg ≠ .SEC_CERT →
      ∃ t, exec (.csRead ap addr true) s = .next t ∧ t.pending = s.pending ∧
        t.dev = { s.dev with pins := t.dev.pins, out := s.dev.out ++ [.readData 8 (s.dev.view k.reg k.i k.j)] }) ∧
    (∀ m : RegInst, addr.toNat % 8 = 0 → halfAt addr.toNat = .narrow k → halfAt (addr.toNat + 4) = .narrow m →
      s.dev.answers ap (addr.toNat + 4) = true → (∀ r ∈ [k.reg, m.reg], r ≠ .MA_BR_HDATA ∧ r ≠ .SEC_CERT) →
      ∃ t, exec (.csRead ap addr true) s = .next t ∧ t.pending = s.pending ∧
        t.dev = { s.dev with pins := t.dev.pins, out := s.dev.out ++
          [.readData 8 (s.dev.view k.reg k.i k.j ||| s.dev.view m.reg m.i m.j <<< 32)] })

/-- At an offset that no register occupies, a read returns zero, a write is discarded, and neither posts a report, whatever
the aperture. -/
def Obligations.UnoccupiedOffsets : Prop :=
  ∀ (s : State) (ap : Aperture) (addr : BitVec 28) (v : BitVec 64), addr.toNat % 4 = 0 → halfAt addr.toNat = .nothing →
    (∃ t, exec (.csWrite ap addr false v) s = .next t ∧ t.pending = s.pending ∧ s.dev.same t.dev) ∧
    (s.dev.hostUp = true → ∃ t, exec (.csRead ap addr false) s = .next t ∧ t.pending = s.pending ∧
      t.dev = { s.dev with pins := t.dev.pins, out := s.dev.out ++ [.readData 4 0] })

/-- A 64-bit access off an 8-byte boundary, or a 32-bit one off a 4-byte boundary, meets no register, as at an offset that
none occupies (the model's choice, log 11): a write changes nothing, a read answers zero, and neither is reported. On every
aligned access both answer a next state too. -/
def Obligations.MisalignedAccessMeetsNoRegister : Prop :=
  ∀ (s : State) (ap : Aperture) (addr : BitVec 28) (wide : Bool) (v : BitVec 64),
    (addr.toNat % (if wide then 8 else 4) ≠ 0 →
      Completes (.csWrite ap addr wide v) s (fun e => s.dev.same e) ∧
      (s.dev.hostUp = true → Completes (.csRead ap addr wide) s (fun e =>
        e = { s.dev with pins := e.pins, out := s.dev.out ++ [.readData (if wide then 8 else 4) 0] }))) ∧
    (addr.toNat % (if wide then 8 else 4) = 0 →
      (∃ t, exec (.csWrite ap addr wide v) s = .next t) ∧ ∃ t, exec (.csRead ap addr wide) s = .next t)

/-- Two 32-bit writes of a 64-bit register, the low half first, do what one 64-bit write does: after the second the register
holds the joined value written by its fields' access types, and the first changes no register; the 64-bit write itself leaves
the same value in it. A write of the high half alone leaves the low half as it was. A 64-bit write of two 32-bit registers
writes both, each by its own fields. -/
def Obligations.HalfWritesJoin : Prop :=
  ∀ (s : State) (ap : Aperture) (addr next : BitVec 28) (lo hi : BitVec 64) (k : RegInst),
    addr.toNat % 8 = 0 → next.toNat = addr.toNat + 4 → halfAt addr.toNat = .low k → halfAt next.toNat = .high k →
    k.reg ∈ [.RING_BFWD_MASK_LO, .MA_FMT_SEED, .TIER_QUOTA, .XU_ROOT, .XU_FAULT, .FAB_RANKTAB, .WIN_TAB, .ERR_THRESH0,
      .ARB_BITE_LAST, .COLL_SUSP_LAST, .SEC_FLASH_SRC] →
    s.dev.accepts ap k.reg k.i = true →
    let joined := written k.reg (s.dev.reg k.reg k.i k.j) (hi.truncate 32 ++ lo.truncate 32)
    (∃ t u, exec (.csWrite ap addr false lo) s = .next t ∧ exec (.csWrite ap next false hi) t = .next u ∧
      t.dev.regs = s.dev.regs ∧ u.pending = s.pending ∧ u.dev.reg k.reg k.i k.j = joined ∧
      s.dev.regsBut u.dev [k.reg.code k.i k.j] ∧ getHalf u.dev.lo k.key = none) ∧
    Completes (.csWrite ap addr true (hi.truncate 32 ++ lo.truncate 32)) s (fun e =>
      e.reg k.reg k.i k.j = joined ∧ s.dev.regsBut e [k.reg.code k.i k.j] ∧ s.dev.restSame e) ∧
    (getHalf s.dev.lo k.key = none → Completes (.csWrite ap next false hi) s (fun e =>
      (e.reg k.reg k.i k.j).truncate 32 = (s.dev.reg k.reg k.i k.j).truncate 32 ∧ e.reg k.reg k.i k.j >>> 32 = joined >>> 32 ∧
      s.dev.regsBut e [k.reg.code k.i k.j])) ∧
    (∀ (pair : BitVec 28) (m n : RegInst) (v : BitVec 64), pair.toNat % 8 = 0 → halfAt pair.toNat = .narrow m →
      halfAt (pair.toNat + 4) = .narrow n → (∀ x ∈ [m, n], x.reg ∈ [.PART_SHARE, .PART_STATUS, .SV_CTRL, .SV_GRANT_STALL,
        .FAB_ROUTE_CFG, .FAB_TRAY_VIA, .ARB_CFG, .ARB_SEED, .ARB_TICKETS, .ARB_FIXED, .ARB_WDOG_MEM, .ARB_WDOG_ENG] ∧
        s.dev.accepts ap x.reg x.i = true) → m.reg.code m.i m.j ≠ n.reg.code n.i n.j →
      Completes (.csWrite ap pair true v) s (fun e =>
        e.reg m.reg m.i m.j = written m.reg (s.dev.reg m.reg m.i m.j) ((v.truncate 32).zeroExtend 64) ∧
        e.reg n.reg n.i n.j = written n.reg (s.dev.reg n.reg n.i n.j) (((v >>> 32).truncate 32).zeroExtend 64) ∧
        s.dev.regsBut e [m.reg.code m.i m.j, n.reg.code n.i n.j] ∧ s.dev.restSame e))

/-! ## Queues, rings and records -/

/-- Each doorbell and each head register completes: CMD_SQ_TAIL, CMD_CQ_HEAD, SV_RPT_HEAD, WIN_RING_TAIL, ERR_Q_HEAD and
SEC_TALLY_HEAD take the low 16 bits of the value modulo the ring's size, and no other register changes; only the report
ring's head also lets go of the reports it has passed: as many of the oldest severities that count for ALERT_N as it has
moved, round the ring. -/
def Obligations.DoorbellsAndHeads : Prop :=
  ∀ (s : State) (ap : Aperture) (v : BitVec 32),
    (∀ q : Fin 64, s.dev.accepts ap .CMD_SQ_TAIL q = true → Completes (.cmdSqTail ap q v) s (fun e =>
      e.f .CMD_SQ_TAIL_TAIL q = v.toNat % 65536 % 2 ^ s.dev.f .CMD_SQ_CFG_SIZE_LOG2 q ∧
      s.dev.regsBut e [Reg.code .CMD_SQ_TAIL q 0] ∧ s.dev.restSame e)) ∧
    (∀ c : Fin 16, s.dev.accepts ap .CMD_CQ_HEAD c = true → Completes (.cmdCqHead ap c v) s (fun e =>
      e.f .CMD_CQ_HEAD_HEAD c = v.toNat % 65536 % 2 ^ s.dev.f .CMD_CQ_CFG_SIZE_LOG2 c ∧
      s.dev.regsBut e [Reg.code .CMD_CQ_HEAD c 0] ∧ s.dev.restSame e)) ∧
    (∀ p : Fin 16, s.dev.accepts ap .SV_RPT_HEAD p = true → Completes (.svRptHead ap p v) s (fun e =>
      e.f .SV_RPT_HEAD_HEAD p = v.toNat % 65536 % 2 ^ s.dev.f .SV_RPT_CFG_SIZE_LOG2 p ∧
      s.dev.regsBut e [Reg.code .SV_RPT_HEAD p 0] ∧ s.dev.restSame e)) ∧
    (∀ r : Fin 16, s.dev.accepts ap .WIN_RING_TAIL r = true → Completes (.winRingTail ap r v) s (fun e =>
      e.f .WIN_RING_TAIL_TAIL r = v.toNat % 65536 % 2 ^ s.dev.f .WIN_RING_CFG_SIZE_LOG2 r ∧
      s.dev.regsBut e [Reg.code .WIN_RING_TAIL r 0] ∧ s.dev.restSame e)) ∧
    (s.dev.accepts ap .ERR_Q_HEAD 0 = true → Completes (.errQHead ap v) s (fun e =>
      e.f .ERR_Q_HEAD_HEAD = v.toNat % 65536 % 2 ^ s.dev.f .ERR_Q_CFG_SIZE_LOG2 ∧
      s.dev.regsBut e [Reg.code .ERR_Q_HEAD 0 0] ∧
      (let passed := (v.toNat % 65536 % s.dev.errSize + s.dev.errSize - s.dev.f .ERR_Q_HEAD_HEAD % s.dev.errSize) % s.dev.errSize
       e = { s.dev with regs := e.regs, pins := e.pins,
                        link := { s.dev.link with ringSev := s.dev.link.ringSev.drop passed } }))) ∧
    (s.dev.accepts ap .SEC_TALLY_HEAD 0 = true → Completes (.secTallyHead ap v) s (fun e =>
      e.f .SEC_TALLY_HEAD_HEAD = v.toNat % 65536 % 2 ^ s.dev.f .SEC_TALLY_CFG_SIZE_LOG2 ∧
      s.dev.regsBut e [Reg.code .SEC_TALLY_HEAD 0 0] ∧ s.dev.restSame e))

/-- CMD_SQ_CFG completes on a disabled queue with an allowed PRIV: the fields take the written values (on queue 0 PRIV stays
3), the queue's accounting counters clear, and no other register changes; while the queue is enabled, or with PRIV 3 on a
queue of 1 to 63, the whole write is discarded and reported. -/
def Obligations.QueueBinding : Prop :=
  ∀ (s : State) (ap : Aperture) (q : Fin 64) (v : BitVec 64), s.dev.accepts ap .CMD_SQ_CFG q = true →
    (s.dev.flag .CMD_SQ_CTRL_ENABLE q = false → (q.val ≠ 0 → Fld.CMD_SQ_CFG_PRIV.of v ≠ 3) →
      Completes (.cmdSqCfg ap q v) s (fun e =>
        (∀ f ∈ [Fld.CMD_SQ_CFG_SIZE_LOG2, .CMD_SQ_CFG_CQ, .CMD_SQ_CFG_PARTITION, .CMD_SQ_CFG_JOB, .CMD_SQ_CFG_MAX_INFLIGHT],
          e.f f q = f.of v) ∧
        e.f .CMD_SQ_CFG_PRIV q = (if q.val = 0 then 3 else Fld.CMD_SQ_CFG_PRIV.of v) ∧
        e.reg .CMD_ACCT_WAIT q = 0 ∧ e.reg .CMD_ACCT_ENGINE q = 0 ∧ e.reg .CMD_ACCT_CMDS q = 0 ∧
        s.dev.regsBut e [Reg.code .CMD_SQ_CFG q 0, Reg.code .CMD_ACCT_WAIT q 0, Reg.code .CMD_ACCT_ENGINE q 0,
          Reg.code .CMD_ACCT_CMDS q 0] ∧ s.dev.restSame e)) ∧
    (s.dev.flag .CMD_SQ_CTRL_ENABLE q = true ∨ (q.val ≠ 0 ∧ Fld.CMD_SQ_CFG_PRIV.of v = 3) →
      Completes (.cmdSqCfg ap q v) s (fun e =>
        e.regs = s.dev.regs ∧ s.dev.posted e .FAULT_PROT (fun r => r.address = Reg.CMD_SQ_CFG.addrOf q 0)))

/-- Enabling completes: SQ_ENABLE by the Owner, with a size of 2^4 to 2^15 and an enabled completion queue, sets ENABLE and
sets HEAD and TAIL to 0; CQ_ENABLE on a disabled completion queue with a valid size sets ENABLE, HEAD and TAIL to 0 and PHASE
to 1. No register of another queue changes. -/
def Obligations.QueueEnables : Prop :=
  ∀ (s : State),
    (∀ q : Fin 64, s.dev.accepts .owner .CMD_SQ_CTRL q = true → s.dev.flag .CMD_SQ_CTRL_ENABLE q = false →
      4 ≤ s.dev.f .CMD_SQ_CFG_SIZE_LOG2 q → s.dev.f .CMD_SQ_CFG_SIZE_LOG2 q ≤ 15 →
      s.dev.flag .CMD_CQ_CFG_ENABLE (s.dev.f .CMD_SQ_CFG_CQ q) = true →
      Completes (.sqEnable .owner q true) s (fun e =>
        e.flag .CMD_SQ_CTRL_ENABLE q = true ∧ e.f .CMD_SQ_HEAD_HEAD q = 0 ∧ e.f .CMD_SQ_TAIL_TAIL q = 0 ∧
        s.dev.regsBut e [Reg.code .CMD_SQ_CTRL q 0, Reg.code .CMD_SQ_HEAD q 0, Reg.code .CMD_SQ_TAIL q 0] ∧
        s.dev.restSame e)) ∧
    (∀ (ap : Aperture) (c : Fin 16) (v : BitVec 32), s.dev.accepts ap .CMD_CQ_CFG c = true →
      s.dev.flag .CMD_CQ_CFG_ENABLE c = false → Fld.CMD_CQ_CFG_ENABLE.of (v.zeroExtend 64) = 1 →
      4 ≤ Fld.CMD_CQ_CFG_SIZE_LOG2.of (v.zeroExtend 64) → Fld.CMD_CQ_CFG_SIZE_LOG2.of (v.zeroExtend 64) ≤ 15 →
      Completes (.cqEnable ap c v) s (fun e =>
        e.flag .CMD_CQ_CFG_ENABLE c = true ∧ e.f .CMD_CQ_CFG_SIZE_LOG2 c = Fld.CMD_CQ_CFG_SIZE_LOG2.of (v.zeroExtend 64) ∧
        e.f .CMD_CQ_HEAD_HEAD c = 0 ∧ e.f .CMD_CQ_TAIL_TAIL c = 0 ∧ e.f .CMD_CQ_TAIL_PHASE c = 1 ∧
        s.dev.regsBut e [Reg.code .CMD_CQ_CFG c 0, Reg.code .CMD_CQ_HEAD c 0, Reg.code .CMD_CQ_TAIL c 0] ∧
        s.dev.restSame e))

/-- SQ_RESUME completes: a write of 1 to HALTED with ENABLE at its current value, through any aperture that the queue's
binding lets in, clears the halt and changes nothing else; through an aperture below Owner with ENABLE at the other value, the
whole write is discarded and reported. -/
def Obligations.QueueResume : Prop :=
  ∀ (s : State) (ap : Aperture) (q : Fin 64), s.dev.accepts ap .CMD_SQ_CTRL q = true →
    Completes (.sqResume ap q (s.dev.flag .CMD_SQ_CTRL_ENABLE q)) s (fun e =>
      e.flag .CMD_SQ_CTRL_HALTED q = false ∧ e.f .CMD_SQ_CTRL_ENABLE q = s.dev.f .CMD_SQ_CTRL_ENABLE q ∧
      s.dev.regsBut e [Reg.code .CMD_SQ_CTRL q 0] ∧ s.dev.restSame e) ∧
    (ap ≠ .owner → Completes (.sqResume ap q (!s.dev.flag .CMD_SQ_CTRL_ENABLE q)) s (fun e =>
      e.regs = s.dev.regs ∧ s.dev.posted e .FAULT_PROT (fun r => r.address = Reg.CMD_SQ_CTRL.addrOf q 0)))

/-- The other rings' enables complete: SV_RPT_CFG, ERR_Q_CFG and SEC_TALLY_CFG on a disabled ring with a valid size, and
WIN_RING_ENABLE with a valid size and the bound partition holding the bound job, set ENABLE and set the head and the tail to
0; the report ring and the tally ring also set their phase to 1. -/
def Obligations.RingEnables : Prop :=
  ∀ (s : State) (ap : Aperture) (v : BitVec 32),
    (∀ p : Fin 16, s.dev.accepts ap .SV_RPT_CFG p = true → s.dev.flag .SV_RPT_CFG_ENABLE p = false →
      Fld.SV_RPT_CFG_ENABLE.of (v.zeroExtend 64) = 1 → rptSizeOk (v.zeroExtend 64) = true →
      Completes (.svRptCfg ap p v) s (fun e =>
        e.flag .SV_RPT_CFG_ENABLE p = true ∧ e.f .SV_RPT_HEAD_HEAD p = 0 ∧ e.f .SV_RPT_TAIL_TAIL p = 0 ∧
        s.dev.regsBut e [Reg.code .SV_RPT_CFG p 0, Reg.code .SV_RPT_HEAD p 0, Reg.code .SV_RPT_TAIL p 0] ∧
        s.dev.restSame e)) ∧
    (s.dev.accepts ap .ERR_Q_CFG 0 = true → s.dev.flag .ERR_Q_CFG_ENABLE = false →
      Fld.ERR_Q_CFG_ENABLE.of (v.zeroExtend 64) = 1 → sizeOk (Fld.ERR_Q_CFG_SIZE_LOG2.of (v.zeroExtend 64)) = true →
      Completes (.errQCfg ap v) s (fun e =>
        e.flag .ERR_Q_CFG_ENABLE = true ∧ e.f .ERR_Q_HEAD_HEAD = 0 ∧ e.f .ERR_Q_TAIL_TAIL = 0 ∧ e.f .ERR_Q_TAIL_PHASE = 1 ∧
        e.link.held = s.dev.link.held ∧
        s.dev.regsBut e [Reg.code .ERR_Q_CFG 0 0, Reg.code .ERR_Q_HEAD 0 0, Reg.code .ERR_Q_TAIL 0 0])) ∧
    (s.dev.accepts ap .SEC_TALLY_CFG 0 = true → s.dev.flag .SEC_TALLY_CFG_ENABLE = false →
      Fld.SEC_TALLY_CFG_ENABLE.of (v.zeroExtend 64) = 1 → 2 ≤ Fld.SEC_TALLY_CFG_SIZE_LOG2.of (v.zeroExtend 64) →
      Fld.SEC_TALLY_CFG_SIZE_LOG2.of (v.zeroExtend 64) ≤ 12 →
      Completes (.secTallyCfg ap v) s (fun e =>
        e.flag .SEC_TALLY_CFG_ENABLE = true ∧ e.f .SEC_TALLY_HEAD_HEAD = 0 ∧ e.f .SEC_TALLY_TAIL_TAIL = 0 ∧
        e.f .SEC_TALLY_TAIL_PHASE = 1 ∧
        s.dev.regsBut e [Reg.code .SEC_TALLY_CFG 0 0, Reg.code .SEC_TALLY_HEAD 0 0, Reg.code .SEC_TALLY_TAIL 0 0] ∧
        s.dev.restSame e)) ∧
    (∀ r : Fin 16, s.dev.accepts ap .WIN_RING_CTRL r = true → s.dev.flag .WIN_RING_CTRL_ENABLE r = false →
      v.getLsbD 0 = true → v.getLsbD 1 = false → 4 ≤ s.dev.f .WIN_RING_CFG_SIZE_LOG2 r →
      s.dev.f .WIN_RING_CFG_SIZE_LOG2 r ≤ 12 → s.dev.valid (s.dev.f .WIN_RING_CFG_PARTITION r) = true →
      s.dev.f .PART_CTRL_JOB (s.dev.f .WIN_RING_CFG_PARTITION r) = s.dev.f .WIN_RING_CFG_JOB r →
      Completes (.winRingEnable ap r v) s (fun e =>
        e.flag .WIN_RING_CTRL_ENABLE r = true ∧ e.f .WIN_RING_HEAD_HEAD r = 0 ∧ e.f .WIN_RING_TAIL_TAIL r = 0 ∧
        s.dev.regsBut e [Reg.code .WIN_RING_CTRL r 0, Reg.code .WIN_RING_HEAD r 0, Reg.code .WIN_RING_TAIL r 0] ∧
        s.dev.restSame e))

/-- COMPLETION_RECORD_WRITE completes: with the host reachable, the ring enabled and not full, and no older record held for
it, the record goes to BASE + 32 x TAIL with the current phase and TAIL moves on (PHASE inverts at the wrap), and where the
queue and the command ask for it a SIGNAL of the slot follows; the command is in flight no more; its queue counts it in DONE,
and in PREEMPTED or KILLED by its status; and records bound for other rings stay held in order. -/
def Obligations.CompletionRecordWritten : Prop :=
  ∀ (s : State) (c : Fin 16) (k : Completion) (before after : List Held),
    s.dev.canWriteHost = true → s.dev.flag .CMD_CQ_CFG_ENABLE c = true → s.dev.cqFull c = false →
    s.dev.link.held = before ++ .completion k :: after → before.any (s.dev.heldFor c) = false →
    s.dev.cqOf k.queue = c.val → k.queue < 64 →
    Completes (.completionRecordWrite c) s (fun e =>
      e.out = s.dev.out ++ [.memWrite (s.dev.f .CMD_CQ_BASE_BASE c * 32 + s.dev.f .CMD_CQ_TAIL_TAIL c * 32)
        (k.bytes (s.dev.f .CMD_CQ_TAIL_PHASE c))] ++
        (if s.dev.flag .CMD_CQ_CFG_NOTIFY_EN c && k.notify then
          [.signal (s.dev.f .CMD_CQ_NOTIFY_ADDR c * 8) (BitVec.ofNat 64 (s.dev.f .CMD_CQ_TAIL_TAIL c))] else []) ∧
      e.link = { s.dev.link with held := before ++ after } ∧ e.cmds = s.dev.cmds.filter (fun x => x.id != k.cmd) ∧
      s.dev.bumped e .CMD_ACCT_CMDS_DONE 1 k.queue ∧
      (k.status = .killedPreempt → s.dev.bumped e .CMD_ACCT_CMDS_PREEMPTED 1 k.queue ∧
        e.f .CMD_ACCT_CMDS_KILLED k.queue = s.dev.f .CMD_ACCT_CMDS_KILLED k.queue) ∧
      (k.status ≠ .killedPreempt → e.f .CMD_ACCT_CMDS_PREEMPTED k.queue = s.dev.f .CMD_ACCT_CMDS_PREEMPTED k.queue) ∧
      (k.status = .ok ∨ k.status = .suspect → e.f .CMD_ACCT_CMDS_KILLED k.queue = s.dev.f .CMD_ACCT_CMDS_KILLED k.queue) ∧
      (k.status ≠ .ok ∧ k.status ≠ .suspect ∧ k.status ≠ .killedPreempt → s.dev.bumped e .CMD_ACCT_CMDS_KILLED 1 k.queue) ∧
      (s.dev.f .CMD_CQ_TAIL_TAIL c + 1 < 2 ^ s.dev.f .CMD_CQ_CFG_SIZE_LOG2 c →
        e.f .CMD_CQ_TAIL_TAIL c = s.dev.f .CMD_CQ_TAIL_TAIL c + 1 ∧ e.f .CMD_CQ_TAIL_PHASE c = s.dev.f .CMD_CQ_TAIL_PHASE c) ∧
      (s.dev.f .CMD_CQ_TAIL_TAIL c + 1 = 2 ^ s.dev.f .CMD_CQ_CFG_SIZE_LOG2 c →
        e.f .CMD_CQ_TAIL_TAIL c = 0 ∧ e.f .CMD_CQ_TAIL_PHASE c = 1 - s.dev.f .CMD_CQ_TAIL_PHASE c) ∧
      s.dev.regsBut e [Reg.code .CMD_CQ_TAIL c 0, Reg.code .CMD_ACCT_CMDS k.queue 0] ∧ e.mem = s.dev.mem)

/-- ERROR_REPORT_WRITE completes: with the host reachable and the report ring enabled and not full, the held report of the
lowest place in SEQ order goes to BASE + 64 x TAIL with the current phase, its severity then counting for ALERT_N from the
ring; TAIL moves on, and PHASE inverts where it wraps; and completion records held before it stay held. -/
def Obligations.ErrorReportWritten : Prop :=
  ∀ (s : State) (r : Report) (before after : List Held),
    s.dev.canWriteHost = true → s.dev.flag .ERR_Q_CFG_ENABLE = true → s.dev.errFull = false →
    s.dev.link.held = before ++ .report r :: after → before.any isReport = false →
    Completes .errorReportWrite s (fun e =>
      e.out = s.dev.out ++ [.memWrite (s.dev.f .ERR_Q_BASE_BASE * 64 + s.dev.f .ERR_Q_TAIL_TAIL * 64)
        (r.bytes (s.dev.f .ERR_Q_TAIL_PHASE))] ∧
      e.link = { s.dev.link with held := before ++ after, ringSev := s.dev.link.ringSev ++ [r.code.severity] } ∧
      (s.dev.f .ERR_Q_TAIL_TAIL + 1 < s.dev.errSize →
        e.f .ERR_Q_TAIL_TAIL = s.dev.f .ERR_Q_TAIL_TAIL + 1 ∧ e.f .ERR_Q_TAIL_PHASE = s.dev.f .ERR_Q_TAIL_PHASE) ∧
      (s.dev.f .ERR_Q_TAIL_TAIL + 1 = s.dev.errSize →
        e.f .ERR_Q_TAIL_TAIL = 0 ∧ e.f .ERR_Q_TAIL_PHASE = 1 - s.dev.f .ERR_Q_TAIL_PHASE) ∧
      s.dev.regsBut e [Reg.code .ERR_Q_TAIL 0 0] ∧ e.cmds = s.dev.cmds ∧ e.mem = s.dev.mem)

/-- HOST_LINK_DOWN and HOST_LINK_UP complete: going down posts HOST_LINK_DOWN, which is held with every other record, in
order; coming up in READY lets records be written again. Neither drops a record or a command. While 1,024 records are held, the
rows of the engines that can produce records wait, changing nothing. -/
def Obligations.HostLinkHoldsRecords : Prop :=
  ∀ (s : State),
    (s.dev.link.up = true → Completes .hostLinkDown s (fun e =>
      e.link.up = false ∧ s.dev.posted e .HOST_LINK_DOWN (fun _ => True) ∧ e.cmds = s.dev.cmds ∧ e.mem = s.dev.mem ∧
      e.canWriteHost = false ∧ ∀ q, e.mayFetch q = false)) ∧
    (s.dev.stage = 8 → s.dev.boot.cold = false → s.dev.boot.halted = false → Completes .hostLinkUp s (fun e =>
      e.link.up = true ∧ e.link.held = s.dev.link.held ∧ e.cmds = s.dev.cmds ∧ e.regs = s.dev.regs)) ∧
    (∀ (id k n : Nat) (q : Fin 64) (ce : Fin 4) (x : Fin 2) (y : Fin 4) (r : Fin 16) (data : List Byte),
      1024 ≤ s.dev.link.held.length →
      ∀ i ∈ [Instr.commandLaunch q, .commit id, .kill id, .fence id, .preempt id, .disable id, .enableSpare id, .stepGrant id,
        .stepReport x, .layer id, .compaction id n, .transposeBlock id n, .fetchDeadline id, .sieve id, .scoreTile x,
        .tokenSelect x, .sieveTail x, .exchange id, .combine id, .xeBillet, .segmentHeader k n, .vectorWrite k n id,
        .copy id data, .copyStream id data, .place id, .loadProgram id data, .swap id, .weightBillet, .swapVerify y n,
        .nmaFold id n, .collective id, .collBillet ce, .credit ce, .close ce, .suspectNotice ce, .addMsg id, .ack ce,
        .winRequest, .winResponse, .winEntryComplete r], Completes i s (fun e => s.dev.same e))

/-! ## Partitions, steps and stalls -/

/-- PART_CTRL_VALID completes when R65's checks pass: the partition is valid with the written JOB and DET, its counters and step
clear, and no other register, nor memory, nor a command changes. When a check fails VALID stays 0, REFUSED is set and
FAULT_PROT is reported. -/
def Obligations.PartitionGetsJob : Prop :=
  ∀ (s : State) (ap : Aperture) (p : Fin 16) (v : BitVec 32), s.dev.accepts ap .PART_CTRL p = true → s.dev.valid p = false →
    (s.dev.jobOk p (v.toNat % 65536) = true → Completes (.partCtrlValid ap p v) s (fun e =>
      e.valid p = true ∧ e.jobOf p = v.toNat % 65536 ∧ e.f .PART_CTRL_DET p = bits v.toNat 17 1 ∧
      (∀ r ∈ jobClears, e.reg r p = 0) ∧ (∀ i < 4, e.reg .COLL_OCC p i = 0) ∧
      s.dev.regsBut e (Reg.code .PART_CTRL p 0 :: jobClears.map (fun r => r.code p 0) ++
        (List.range 4).map (Reg.code .COLL_OCC p)) ∧
      e.cmds = s.dev.cmds ∧ e.mem = s.dev.mem ∧ e.link = s.dev.link ∧ e.quarantine = s.dev.quarantine)) ∧
    (s.dev.jobOk p (v.toNat % 65536) = false → Completes (.partCtrlValid ap p v) s (fun e =>
      e.valid p = false ∧ e.flag .PART_STATUS_REFUSED p = true ∧
      s.dev.posted e .FAULT_PROT (fun r => r.address = Reg.PART_CTRL.addrOf p 0) ∧
      s.dev.regsBut e [Reg.code .PART_CTRL p 0, Reg.code .PART_STATUS p 0] ∧ s.dev.restTold e))

/-- PARTITION_RELEASE completes on a valid partition without a live command: VALID becomes 0, every submission queue bound to
the partition is disabled, the job ID enters quarantine at the count, so that no partition may be given it for 2^20 counts,
and no command changes. QUARANTINE_EXPIRY completes: it drops exactly the job's entries whose 2^20 counts are over, and changes
nothing else. -/
def Obligations.JobsReleasedAndQuarantined : Prop :=
  ∀ (s : State),
    (∀ (ap : Aperture) (p : Fin 16) (v : BitVec 32), s.dev.accepts ap .PART_CTRL p = true → s.dev.valid p = true →
      (∀ c ∈ s.dev.cmds, c.part = p → c.ended = true) →
      Completes (.partitionRelease ap p v) s (fun e =>
        e.valid p = false ∧ e.count = s.dev.count ∧ e.cmds = s.dev.cmds ∧
        (∀ q < 64, s.dev.boundTo q p = true → e.flag .CMD_SQ_CTRL_ENABLE q = false) ∧
        e.quarantine = s.dev.quarantine ++ [(s.dev.f .PART_CTRL_JOB p, s.dev.count)] ∧
        (∀ q, e.jobOk q (s.dev.f .PART_CTRL_JOB p) = false) ∧ e.mem.hbm = s.dev.mem.hbm ∧ e.mem.slab = s.dev.mem.slab)) ∧
    (∀ job : BitVec 16, Completes (.quarantineExpiry job) s (fun e =>
      (∀ x, x ∈ e.quarantine ↔ x ∈ s.dev.quarantine ∧ ¬(x.1 = job.toNat ∧ x.2 + 2 ^ 20 ≤ s.dev.count)) ∧
      e = { s.dev with quarantine := e.quarantine, pins := e.pins }))

/-- RING_NEXT_WRITE completes, when no boundary is due: RING_NEXT and RING_ORIG take the value, no other register changes, and
a value already passed is not taken before the next count. BOUNDARY_TAKEN completes, when a boundary is due and no SWAP
switches at it: RING_STEP increments, RING_NEXT and RING_ORIG both become S + RING_PERIOD, or 0 where the period is 0, the step
that begins has S as its start count, and the conservation check of the boundary is counted. -/
def Obligations.BoundarySchedule : Prop :=
  ∀ (s : State) (p : Fin 16),
    (∀ (ap : Aperture) (v : BitVec 64), s.dev.accepts ap .RING_NEXT p = true → s.dev.boundaryDue p = false →
      Completes (.ringNextWrite ap p v) s (fun e =>
        e.reg .RING_NEXT p = v ∧ e.reg .RING_ORIG p = v ∧ e.boundaryDue p = false ∧
        s.dev.regsBut e [Reg.code .RING_NEXT p 0, Reg.code .RING_ORIG p 0] ∧
        e = { s.dev with regs := e.regs, pins := e.pins,
                         ring := { s.dev.ring with nextFrom := e.ring.nextFrom, wrote := e.ring.wrote } })) ∧
    (s.dev.boundaryDue p = true → s.dev.switching p (s.dev.f .RING_ORIG_ORIG p) = [] →
      Completes (.boundaryTaken p) s (fun e =>
        e.f .RING_STEP_STEP p = (s.dev.f .RING_STEP_STEP p + 1) % 2 ^ 32 ∧
        (let next := if s.dev.f .RING_PERIOD_PERIOD p = 0 then 0
          else (s.dev.f .RING_NEXT_NEXT p + s.dev.f .RING_PERIOD_PERIOD p) % 2 ^ 64
         e.f .RING_NEXT_NEXT p = next ∧ e.f .RING_ORIG_ORIG p = next) ∧
        SMap.get 0 e.ring.stepStart p = s.dev.f .RING_NEXT_NEXT p + 1 ∧ e.count = s.dev.count ∧
        (∀ q : Fin 16, q ≠ p → e.f .RING_STEP_STEP q = s.dev.f .RING_STEP_STEP q ∧
          e.f .RING_NEXT_NEXT q = s.dev.f .RING_NEXT_NEXT q) ∧
        (s.dev.boot.cold = false → s.dev.bumped e .ERR_CONS_STAT_CHECKS 1) ∧ e.cmds = s.dev.cmds ∧ e.mem = s.dev.mem))

/-- BOUNDARY_IN and BOUNDARY_BILLET complete: a request for a partition's next boundary is accepted exactly where its schedule
is armed, a billet's STEP is the step to begin, and the target lies within 4,096 counts of RING_ORIG, the schedule as it stood
before a host write of the same count. An accepted one counts in ACCEPTED and moves RING_NEXT, unless a host write of this
count, or for an edge an accepted billet of this count, has set it (Table 2.7), with BOUNDARY_LATE where the target has been
reached; a refused one moves nothing, counts in REFUSED and is reported. BOUNDARY_IN asks so of every masked partition and
moves no other's boundary; with FWD_EN 0 it sends nothing, and with FWD_EN 1 an accepted move of the only masked partition is
forwarded: a boundary billet takes a slot with the copies of its route. On a stopped count it is lost. -/
def Obligations.BoundaryMoves : Prop :=
  ∀ (s : State),
    let set := fun (p : Nat) => s.dev.ring.wrote.any (fun w => w.1 == p && w.2.1 == s.dev.count)
    (∀ (p : Fin 16) (a : Arrival),
      s.dev.fab.inbox.find? (fun a => a.port == 43 && bType a.b == 1 && bPay a.b 0 0 16 == 2) = some a →
      s.dev.partOf (bJob a.b) = some p.val → s.dev.boundaryDue p = false →
      let d := s.dev.taken a
      let target := bPay a.b 8 0 64
      let ok := (s.dev.schedule p).1 ≠ 0 ∧ bPay a.b 4 0 32 = (s.dev.f .RING_STEP_STEP p + 1) % 2 ^ 32 ∧
        apart target (s.dev.schedule p).2 ≤ 4096
      Completes .boundaryBillet s (fun e =>
        (ok → e.f .RING_NEXT_NEXT p = (if set p then s.dev.f .RING_NEXT_NEXT p else target) ∧
          s.dev.bumped e .RING_MOVES_ACCEPTED 1 p ∧
          (target ≤ s.dev.count → s.dev.posted e .BOUNDARY_LATE (fun r => r.part = some p.val)) ∧
          (s.dev.count < target → e.link = s.dev.link)) ∧
        (¬ok → e.f .RING_NEXT_NEXT p = s.dev.f .RING_NEXT_NEXT p ∧ s.dev.bumped e .RING_MOVES_REFUSED 1 p ∧
          s.dev.posted e .BOUNDARY_REFUSED (fun r => r.part = some p.val)) ∧
        d.regsBut e [Reg.code .RING_NEXT p 0, Reg.code .RING_MOVES p 0] ∧ e.fab = d.fab ∧ e.cmds = s.dev.cmds)) ∧
    (s.dev.ring.running = true → s.dev.boot.cold = false → s.dev.boot.halted = false → s.dev.settleDue = s.dev →
      let target := s.dev.count + s.dev.f .RING_BIN_CFG_DELAY
      let masked := fun (p : Nat) => bit (s.dev.f .RING_BIN_CFG_PART_MASK) p
      let ok := fun (p : Nat) => (s.dev.schedule p).1 ≠ 0 ∧ apart target (s.dev.schedule p).2 ≤ 4096
      Completes .boundaryIn s (fun e => (∃ l, e.link.held = s.dev.link.held ++ l ∧ ∀ p : Fin 16,
          let later := set p || SMap.get 0 s.dev.ring.moved p == s.dev.count + 1
          let tells := fun (code : Code) => ∃ r : Report, .report r ∈ l ∧ r.code = code ∧ r.part = some p.val
          (masked p = true ∧ ok p →
            e.f .RING_NEXT_NEXT p = (if later then s.dev.f .RING_NEXT_NEXT p else target % 2 ^ 64) ∧
            s.dev.bumped e .RING_MOVES_ACCEPTED 1 p ∧ (target ≤ s.dev.count → tells .BOUNDARY_LATE)) ∧
          (masked p = true ∧ ¬ok p → e.f .RING_NEXT_NEXT p = s.dev.f .RING_NEXT_NEXT p ∧
            s.dev.bumped e .RING_MOVES_REFUSED 1 p ∧ tells .BOUNDARY_REFUSED) ∧
          (masked p = false → e.reg .RING_NEXT p = s.dev.reg .RING_NEXT p ∧ e.reg .RING_MOVES p = s.dev.reg .RING_MOVES p)) ∧
        (s.dev.flag .RING_BIN_CFG_FWD_EN = false → e.fab = s.dev.fab) ∧
        (∀ p : Fin 16, s.dev.flag .RING_BIN_CFG_FWD_EN = true → (∀ q : Fin 16, masked q = true ↔ q = p) → ok p →
          s.dev.fab.inject = [] →
          let b := s.dev.boundaryBillet p target
          s.dev.malformed b = false → s.dev.place? 43 (bTc b) (bVc b) = some false →
          (s.dev.route 43 b).filterMap (fun x => x) ≠ [] → ∃ x, e.fab.slots = s.dev.fab.slots ++ [x] ∧ x.input = 43 ∧
            x.cls = bTc b ∧ x.vc = bVc b ∧ x.job = bJob b ∧ x.copies = (s.dev.route 43 b).filterMap (fun x => x)))) ∧
    (s.dev.ring.running = false → Completes .boundaryIn s (fun e => s.dev.same e))

/-- STALL_REPORT completes for a wait of any kind: with T the owning chapter's threshold, measured from the count at which the
wait began, the report of the next multiple n of T is posted at that count + n x T, not before, with status STEP_STALL and the
number n of thresholds elapsed, and again for n + 1; with T = 0 nothing is reported. A report kills nothing: it changes no
command but for the sequence number of its first report. -/
def Obligations.StallsReported : Prop :=
  ∀ (s : State) (w : Wait) (st : Stall), s.dev.stall? w = some st → s.dev.ring.running = true →
    s.dev.stalled = false →
    let n := s.dev.stallsDone w st.start + 1
    (st.threshold ≠ 0 ∧ st.start + n * st.threshold ≤ s.dev.count → Completes (.stallReport w) s (fun e =>
      s.dev.posted e st.code (fun r => r.status = Status.stepStall.num ∧ r.elapsed = n ∧ r.index = st.index) ∧
      e.stallsDone w st.start = n ∧ e.count = s.dev.count ∧
      e.cmds.map (fun c => { c with firstSeq := 0 }) = s.dev.cmds.map (fun c => { c with firstSeq := 0 }))) ∧
    (st.threshold = 0 ∨ s.dev.count < st.start + n * st.threshold →
      Completes (.stallReport w) s (fun e => s.dev.same e))

/-! ## The ring count and its alignment -/

/-- RING_REF_EDGE completes: while the reference runs, RING_COUNT increments by one, whatever accrues with the count, and no
memory, report or alignment state changes; with no command in flight and no metering, no other register but the replacement
reasons changes, and nothing else but the hold of a slab port that the debug port gives up. RING_REF_LOST completes: the count
stops, REF_LOST is set and a FAULT is reported; while it is stopped a RING_REF_EDGE changes nothing. RING_REF_RETURN completes:
the count runs on from the stopped value, UNALIGNED. -/
def Obligations.CountRunsStopsAndReturns : Prop :=
  ∀ (s : State), s.dev.boot.cold = false →
    (s.dev.ring.running = true →
      Completes .ringRefEdge s (fun e =>
        e.reg .RING_COUNT = s.dev.reg .RING_COUNT + 1 ∧ e.mem = s.dev.mem ∧ e.link = s.dev.link ∧
        e.reg .RING_STATUS = s.dev.reg .RING_STATUS ∧ e.ring = { s.dev.ring with edges := s.dev.ring.edges + 1 } ∧
        (s.dev.arb.emergency = [] → e.arb = s.dev.arb) ∧
        (s.dev.cmds = [] → s.dev.metering = false →
          s.dev.regsBut e [Reg.code .RING_COUNT 0 0, Reg.code .ERR_REPLACE 0 0] ∧
          e = { s.dev with regs := e.regs, pins := e.pins, ring := e.ring, arb := e.arb,
                           scl := { s.dev.scl with before := s.dev.scl.tally } })) ∧
      Completes .ringRefLost s (fun e =>
        e.ring = { s.dev.ring with running := false } ∧ e.flag .RING_STATUS_REF_LOST = true ∧
        s.dev.posted e .RING_REF_LOST (fun _ => True) ∧ e.flag .ERR_STATUS_FAULT_SEEN = true ∧
        s.dev.regsBut e [Reg.code .RING_STATUS 0 0, Reg.code .ERR_STATUS 0 0] ∧ e.cmds = s.dev.cmds ∧ e.mem = s.dev.mem)) ∧
    (s.dev.ring.running = false →
      Completes .ringRefEdge s (fun e => s.dev.same e) ∧
      Completes .ringRefReturn s (fun e =>
        e.ring.running = true ∧ e.f .RING_STATUS_STATE = 0 ∧ e.count = s.dev.count ∧
        (s.dev.isRoot = true → 6 ≤ s.dev.stage → e.ring.rootWait = some (s.dev.count, false)) ∧
        s.dev.regsBut e [Reg.code .RING_STATUS 0 0] ∧ e.cmds = s.dev.cmds ∧ e.mem = s.dev.mem ∧ e.link = s.dev.link))

/-- The alignment's own events complete. HOLDOVER_TIMEOUT after 2^22 counts without a billet from the parent takes ALIGNED or
SLIPPED to HOLDOVER; ROOT_ACQUIRE_TIMEOUT after 2^21 counts ends the root's wait; RING_ALIGN at the root, after that wait in
cold-start acquisition, sets the count to 0 and enters ALIGNED, and in service never steps the count: an edge off the mark sets
SLIPPED, counted and reported, and one on the mark returns from it. REACQUIRE marks re-acquire as pending and CLEAR_MAX clears
MAX_ERR, and neither changes more. -/
def Obligations.AlignmentStates : Prop :=
  ∀ (s : State),
    (s.dev.isRoot = false → (s.dev.f .RING_STATUS_STATE = 1 ∨ s.dev.f .RING_STATUS_STATE = 3) →
      s.dev.ring.lastParent + 2 ^ 22 ≤ s.dev.count → Completes .holdoverTimeout s (fun e =>
        e.f .RING_STATUS_STATE = 2 ∧ e.count = s.dev.count ∧ s.dev.regsBut e [Reg.code .RING_STATUS 0 0] ∧
        e.f .RING_STATUS_FRACTION = s.dev.f .RING_STATUS_FRACTION ∧ e.f .RING_STATUS_DEPTH = s.dev.f .RING_STATUS_DEPTH)) ∧
    (∀ t, s.dev.ring.rootWait = some (t, false) → t + 2 ^ 21 ≤ s.dev.count → Completes .rootAcquireTimeout s (fun e =>
      e = { s.dev with pins := e.pins, ring := { s.dev.ring with rootWait := some (t, true) } })) ∧
    (s.dev.boot.cold = false → s.dev.ring.running = true → s.dev.isRoot = true → 6 ≤ s.dev.stage →
      (∀ t, s.dev.ring.rootWait = some (t, true) → s.dev.ring.rootAgain = false → s.dev.anyValid = false →
        Completes .ringAlign s (fun e => e.reg .RING_COUNT = 0 ∧ e.f .RING_STATUS_STATE = 1 ∧
          e.f .RING_STATUS_FRACTION = 0 ∧ e.f .RING_STATUS_DEPTH = 0 ∧ e.ring.rootWait = none)) ∧
      (s.dev.ring.rootWait = none → onMark s.dev.count = false →
        (s.dev.f .RING_STATUS_STATE = 1 ∨ s.dev.f .RING_STATUS_STATE = 2) → Completes .ringAlign s (fun e =>
          e.f .RING_STATUS_STATE = 3 ∧ s.dev.bumped e .RING_MISMATCH_SLIPS 1 ∧ s.dev.posted e .RING_SLIP (fun _ => True) ∧
          e.reg .RING_COUNT = s.dev.reg .RING_COUNT)) ∧
      (s.dev.ring.rootWait = none → onMark s.dev.count = true → s.dev.f .RING_STATUS_STATE = 3 →
        Completes .ringAlign s (fun e => e.f .RING_STATUS_STATE = 1 ∧ e.reg .RING_COUNT = s.dev.reg .RING_COUNT ∧
          s.dev.regsBut e [Reg.code .RING_STATUS 0 0]))) ∧
    (∀ ap : Aperture, s.dev.accepts ap .RING_CTRL 0 = true →
      Completes (.reacquire ap) s (fun e =>
        e = { s.dev with pins := e.pins, ring := { s.dev.ring with reacquire := true } }) ∧
      Completes (.clearMax ap) s (fun e =>
        e.f .RING_ERR_MAX_ERR = 0 ∧ e.f .RING_ERR_LAST_ERR = s.dev.f .RING_ERR_LAST_ERR ∧
        s.dev.regsBut e [Reg.code .RING_ERR 0 0] ∧ s.dev.restSame e))

/-- ALIGNMENT_BILLET completes from stage 6 on, by Table 2.4. A billet of a foreign ROOT, or one from another link more than 3
counts off, is counted in PEER and changes no count. One to be adopted sets the count to the nearest integer to the root time
and enters ALIGNED with DEPTH one more than the sender's (0 at the root), unless it would move the count back while a partition
holds a job: then it is refused and reported. One to be checked leaves the count and enters ALIGNED within 3 counts, and
SLIPPED beyond them. -/
def Obligations.AlignmentBilletTable : Prop :=
  ∀ (s : State) (a : Arrival),
    s.dev.fab.inbox.find? (fun a => a.port == 43 && bType a.b == 1 && bPay a.b 0 0 16 == 1) = some a → 6 ≤ s.dev.stage →
    let t := s.dev.billetTime a
    let c := ((t + alignUnit / 2) / alignUnit).toNat
    (bPay a.b 2 0 16 ≠ s.dev.f .RING_CFG_ROOT_NODE ∨
        (s.dev.billetCounts a = false ∧ within3 (s.dev.localTime - t) = false) →
      Completes .alignmentBillet s (fun e => s.dev.bumped e .RING_MISMATCH_PEER 1 ∧
        (s.dev.taken a).regsBut e [Reg.code .RING_MISMATCH 0 0] ∧ e.fab = (s.dev.taken a).fab ∧ e.ring = s.dev.ring)) ∧
    (bPay a.b 2 0 16 = s.dev.f .RING_CFG_ROOT_NODE → s.dev.billetCounts a = true →
      (s.dev.f .RING_STATUS_STATE = 0 ∨ s.dev.ring.reacquire = true →
        (¬(c < s.dev.count ∧ s.dev.anyValid = true) → Completes .alignmentBillet s (fun e =>
          e.reg .RING_COUNT = BitVec.ofNat 64 c ∧ e.f .RING_STATUS_STATE = 1 ∧
          e.f .RING_STATUS_DEPTH = (if s.dev.isRoot then 0 else bPay a.b 4 0 8 + 1) % 256 ∧ e.ring.reacquire = false)) ∧
        (c < s.dev.count ∧ s.dev.anyValid = true → Completes .alignmentBillet s (fun e =>
          e.reg .RING_COUNT = s.dev.reg .RING_COUNT ∧ e.f .RING_STATUS_STATE = s.dev.f .RING_STATUS_STATE ∧
          e.flag .RING_STATUS_BACKSTEP = true ∧ s.dev.posted e .RING_BACKSTEP (fun _ => True) ∧ e.ring.reacquire = false))) ∧
      (s.dev.f .RING_STATUS_STATE ≠ 0 → s.dev.ring.reacquire = false →
        (within3 (s.dev.localTime - t) = true → Completes .alignmentBillet s (fun e =>
          e.reg .RING_COUNT = s.dev.reg .RING_COUNT ∧ e.f .RING_STATUS_STATE = 1 ∧ e.link = s.dev.link)) ∧
        (within3 (s.dev.localTime - t) = false → s.dev.f .RING_STATUS_STATE ≠ 3 → Completes .alignmentBillet s (fun e =>
          e.reg .RING_COUNT = s.dev.reg .RING_COUNT ∧ e.f .RING_STATUS_STATE = 3 ∧
          s.dev.posted e .RING_SLIP (fun _ => True)))))

/-- ALIGNMENT_SEND completes at a count whose bits [19:0] are zero, once for the count: an UNALIGNED device sends nothing; a
device that is not UNALIGNED, with one link UP and room at the control port, has one alignment billet for that link take a slot,
with its ROOT and DEPTH, and no other link gets one. At any other count, or a second time at the same, nothing changes. -/
def Obligations.AlignmentSent : Prop :=
  ∀ (s : State),
    (s.dev.count % 2 ^ 20 ≠ 0 ∨ s.dev.ring.sentAt = s.dev.count + 1 → Completes .alignmentSend s (fun e => s.dev.same e)) ∧
    (s.dev.count % 2 ^ 20 = 0 → s.dev.f .RING_STATUS_STATE = 0 → Completes .alignmentSend s (fun e =>
      e = { s.dev with pins := e.pins, ring := { s.dev.ring with sentAt := s.dev.count + 1 } })) ∧
    (∀ l : Fin 36, s.dev.count % 2 ^ 20 = 0 → s.dev.ring.sentAt ≠ s.dev.count + 1 → s.dev.f .RING_STATUS_STATE ≠ 0 →
      (List.range 36).filter s.dev.linkUp = [l.val] → s.dev.fab.inject = [] →
      let b := mkBillet { type := 1, tc := 4, job := 0, dest := s.dev.f .FAB_LINK_STATUS_PEER l, src := s.dev.node }
        (leBytes 2 1 ++ leBytes 2 (s.dev.f .RING_CFG_ROOT_NODE) ++ leBytes 1 (s.dev.f .RING_STATUS_DEPTH))
      s.dev.malformed b = false → s.dev.place? 43 (bTc b) (bVc b) = some false →
      Completes .alignmentSend s (fun e =>
        e.fab.slots = s.dev.fab.slots ++ [{ serial := s.dev.fab.serial, input := 43, cls := bTc b, vc := bVc b,
                                            shared := false, job := bJob b, copies := [⟨l.val, b⟩],
                                            edge := s.dev.ring.edges, since := 0, owner := none }] ∧
        e.fab.inject = [] ∧ s.dev.regsBut e [Reg.code .FAB_SHARED 0 0] ∧ e.link = s.dev.link ∧ e.cmds = s.dev.cmds ∧
        e.ring = { s.dev.ring with sentAt := s.dev.count + 1 }))

/-! ## Start-up and reset -/

/-- The stages of cold start complete. COLD_RESET_RELEASE samples SLOT_ID and enters stage 1 with every other register at its
reset value; COLD_RESET_ASSERT and POWER_LOSS put every register at its reset value and end every command, and only POWER_LOSS
loses memory; fuses stay. CLOCKS, HBM, LINKS, RING and HOST pass to the next stage, or halt with the error of their stage, or,
for HOST, note the error and try again. LINKS passes once every link is settled, or the count has run for the stage's time or
stopped, and RING once the device is ALIGNED, or its time has run out or the count has stopped; until then neither changes
anything. -/
def Obligations.ColdStartStages : Prop :=
  ∀ (s : State),
    (s.dev.boot.cold = true → ∀ slot : Fin 8, Completes (.coldResetRelease slot) s (fun e =>
      e.boot.cold = false ∧ e.stage = 1 ∧ e.boot.slotId = slot.val ∧
      (∀ r i j, Reg.code r i j ≠ Reg.code .DEV_STATUS 0 0 → e.reg r i j = r.dflt) ∧ e.cmds = [] ∧ e.fuses = s.dev.fuses)) ∧
    (s.dev.boot.cold = false → Completes .coldResetAssert s (fun e =>
      e.boot.cold = true ∧ (∀ r i j, e.reg r i j = r.dflt) ∧ e.cmds = [] ∧ e.pins = {} ∧ e.fuses = s.dev.fuses ∧
      e.mem.hbm = s.dev.mem.hbm ∧ e.mem.slab = s.dev.mem.slab)) ∧
    Completes .powerLoss s (fun e =>
      e.boot.cold = true ∧ (∀ r i j, e.reg r i j = r.dflt) ∧ e.cmds = [] ∧ e.mem = {} ∧ e.fuses = s.dev.fuses) ∧
    (s.dev.atStage 3 = true →
      Completes (.clocks true) s (fun e => e.stage = 4 ∧ s.dev.regsBut e [Reg.code .DEV_STATUS 0 0] ∧ s.dev.restSame e) ∧
      Completes (.clocks false) s (fun e => e.boot.halted = true ∧ e.f .DEV_STATUS_ERROR = 0x30 ∧ e.stage = 3)) ∧
    (s.dev.atStage 4 = true →
      Completes (.hbm none) s (fun e => e.stage = 5 ∧ s.dev.regsBut e [Reg.code .DEV_STATUS 0 0] ∧ s.dev.restSame e) ∧
      ∀ k : Fin 8, Completes (.hbm (some k)) s (fun e =>
        e.boot.halted = true ∧ e.f .DEV_STATUS_ERROR = 0x40 + k.val ∧ e.stage = 4)) ∧
    (s.dev.atStage 5 = true →
      let over_ := (∀ l < 36, s.dev.linkSettled l = true) ∨ s.dev.ring.running = false ∨ 46700000 ≤ s.dev.count
      (over_ → Completes .links s (fun e => e.stage = 6 ∧ e.boot.stage6 = s.dev.count ∧
        (s.dev.isRoot = true → e.ring.rootWait = some (s.dev.count, false)) ∧
        s.dev.regsBut e [Reg.code .DEV_STATUS 0 0] ∧
        e = { s.dev with regs := e.regs, pins := e.pins, boot := { s.dev.boot with stage6 := s.dev.count }, ring := e.ring })) ∧
      (¬over_ → Completes .links s (fun e => s.dev.same e))) ∧
    (s.dev.atStage 6 = true →
      (s.dev.f .RING_STATUS_STATE = 1 → Completes .ring s (fun e => e.stage = 7 ∧
        e.f .DEV_STATUS_UNALIGNED_START = s.dev.f .DEV_STATUS_UNALIGNED_START ∧ s.dev.restSame e)) ∧
      (s.dev.f .RING_STATUS_STATE ≠ 1 → s.dev.boot.stage6 + 2 ^ 25 ≤ s.dev.count ∨ s.dev.ring.running = false →
        Completes .ring s (fun e => e.stage = 7 ∧ e.flag .DEV_STATUS_UNALIGNED_START = true ∧ s.dev.restSame e)) ∧
      (s.dev.f .RING_STATUS_STATE ≠ 1 → s.dev.count < s.dev.boot.stage6 + 2 ^ 25 → s.dev.ring.running = true →
        Completes .ring s (fun e => s.dev.same e))) ∧
    (s.dev.atStage 7 = true → ∀ us : BitVec 32,
      Completes (.host true us) s (fun e => e.stage = 8 ∧ e.f .DEV_STATUS_ERROR = 0 ∧ e.link.up = true ∧
        e.f .DEV_BOOT_MICROSECONDS = us.toNat ∧ (s.dev.f .SCL_STATUS_STATE = 1 → e.metering = true)) ∧
      Completes (.host false us) s (fun e => e.stage = 7 ∧ e.f .DEV_STATUS_ERROR = 0x60 ∧ e.boot.halted = false))

/-- VERIFY completes. Where a step of R353 fails, or an interrupted write of the flash makes one fail (log 115), start-up halts
in stage 1 with that step's number in DEV_STATUS.ERROR and nothing of the image is kept. Where none fails, the device passes to stage 2, holds the signed span and its digest, shows the
image's version and security version, advances the rollback counter only where the image asks it to, and the Scaler without
a valid region is UNSEALED and reports it. FUSES completes: it passes to stage 3 with every setting of the image applied on top
of the fuses, the LFSRs loaded from the seed and the Landing pools placed; fuses that fail halt it in stage 2 with 0x28, and an
image whose directory is not sound or whose entries cannot be applied with 0x20. -/
def Obligations.SecureBoot : Prop :=
  ∀ (s : State),
    (s.dev.atStage 1 = true → ∀ (img : List Byte) (region : Option ScalerRegion),
      let fails := (s.dev.tornFails img).orElse (fun _ => s.dev.imageFails img)
      let good := region.any s.dev.regionOk && !s.dev.flash.regionTorn
      (∀ k, fails = some k → Completes (.verify img region) s (fun e =>
        e.boot.halted = true ∧ e.stage = 1 ∧ e.f .DEV_STATUS_ERROR = k ∧ e.boot.image = s.dev.boot.image ∧
        e.fuses = s.dev.fuses ∧ s.dev.regsBut e [Reg.code .DEV_STATUS 0 0])) ∧
      (fails = none → Completes (.verify img region) s (fun e =>
        e.stage = 2 ∧ e.boot.image = img.take (leAt img 8 4) ∧ e.boot.digest = sha512 (img.take (leAt img 8 4)) ∧
        e.f .DEV_IMAGE_SEC_VERSION = leAt img 6 1 ∧ e.f .DEV_IMAGE_IMAGE_VERSION = leAt img 16 4 % 2 ^ Fld.DEV_IMAGE_IMAGE_VERSION.width ∧
        e.fuses = { s.dev.fuses with
          rollback := if bit (leAt img 7 1) 0 then max (leAt img 6 1) s.dev.fuses.rollback else s.dev.fuses.rollback } ∧
        (good = false →
          e.f .SCL_STATUS_STATE = 2 ∧ s.dev.posted e .SCL_REGION_BAD (fun _ => True)) ∧
        (good = true → e.f .SCL_STATUS_STATE = 1 ∧ e.link = s.dev.link)))) ∧
    (s.dev.atStage 2 = true →
      Completes (.fuses false) s (fun e => e.boot.halted = true ∧ e.stage = 2 ∧ e.f .DEV_STATUS_ERROR = 0x28) ∧
      (sectionsOk s.dev.boot.image = false → Completes (.fuses true) s (fun e =>
        e.boot.halted = true ∧ e.stage = 2 ∧ e.f .DEV_STATUS_ERROR = 0x20)) ∧
      (sectionsOk s.dev.boot.image = true →
        s.dev.readFuses.applySections s.dev.boot.image (imageSections s.dev.boot.image) = none →
        Completes (.fuses true) s (fun e => e.boot.halted = true ∧ e.stage = 2 ∧ e.f .DEV_STATUS_ERROR = 0x20)) ∧
      (∀ x, sectionsOk s.dev.boot.image = true →
        s.dev.readFuses.applySections s.dev.boot.image (imageSections s.dev.boot.image) = some x →
        Completes (.fuses true) s (fun e =>
          e.stage = 3 ∧ e.arb.seed = e.f .ARB_SEED_SEED ∧ (∀ a, e.lfsr a = lfsrLoad (e.f .ARB_SEED_SEED) a) ∧
          e.boot = x.boot ∧ (∀ k < 8, e.f .TIER_LND_FREE_FREE k = e.f .TIER_LND_FREE_LOW k) ∧
          ∀ r i j, r ∉ [Reg.DEV_STATUS, .FAB_NODE, .ERR_REPLACE, .ERR_STATUS, .TIER_LND_FREE, .ERR_LND_RETIRED, .FAB_SHARED] →
            e.reg r i j = x.reg r i j)))

/-- WARM_RESET completes, from the pin in READY or through the Owner aperture, with no live command: WARM_BUSY is set and
counted, every partition is released, every schedule and queue is cleared, every link is down, and the host link and the count
stay. A second one extends it. WARM_RESET_N_RELEASE ends the pin's hold at the count; WARM_RESET_DONE, 2,000 counts after the
release, loads every LFSR from ARB_SEED by its own number and clears WARM_BUSY. -/
def Obligations.WarmReset : Prop :=
  ∀ (s : State),
    (∀ src : WarmSource, (src = .pin ∧ s.dev.atStage 8 = true ∨ src = .ctrl .owner ∧ s.dev.accepts .owner .DEV_CTRL 0 = true) →
      s.dev.flag .DEV_STATUS_WARM_BUSY = false → (∀ c ∈ s.dev.cmds, c.ended = true) →
      Completes (.warmReset src) s (fun e =>
        e.flag .DEV_STATUS_WARM_BUSY = true ∧ s.dev.bumped e .DEV_STATUS_WARMS 1 ∧ e.stage = s.dev.stage ∧
        (∀ p < 16, e.valid p = false ∧ e.reg .RING_NEXT p = 0 ∧ e.reg .RING_ORIG p = 0 ∧ e.reg .RING_PERIOD p = 0) ∧
        (∀ q < 64, e.flag .CMD_SQ_CTRL_ENABLE q = false ∧ e.flag .CMD_SQ_CTRL_HALTED q = false) ∧
        (∀ l < 36, e.linkUp l = false) ∧ e.link.up = s.dev.link.up ∧ e.count = s.dev.count)) ∧
    (s.dev.atStage 8 = true → s.dev.flag .DEV_STATUS_WARM_BUSY = true → Completes (.warmReset .pin) s (fun e =>
      e = { s.dev with pins := e.pins, boot := { s.dev.boot with warmLow := true } })) ∧
    (s.dev.boot.warmLow = true → Completes .warmResetNRelease s (fun e =>
      e = { s.dev with pins := e.pins, boot := { s.dev.boot with
              warmLow := false, warmRelease := some (max (s.dev.boot.warmRelease.getD 0) s.dev.count) } })) ∧
    (∀ r, s.dev.boot.warmRelease = some r → r + 2000 ≤ s.dev.count → s.dev.boot.warmLow = false →
      s.dev.flag .DEV_STATUS_WARM_BUSY = true → Completes .warmResetDone s (fun e =>
        e.flag .DEV_STATUS_WARM_BUSY = false ∧ (∀ a, e.lfsr a = lfsrLoad (s.dev.f .ARB_SEED_SEED) a) ∧
        s.dev.regsBut e [Reg.code .DEV_STATUS 0 0] ∧ e.cmds = s.dev.cmds ∧ e.mem = s.dev.mem))

/-! ## The Scaler and the security controller -/

/-- SCALER_SAMPLE completes: while metering, the energy of the product of the pair (free below its operands), with what was short
of a whole uJ before, joins its rail and the session's total, and its remainder stays; a sample out of range, of current or of
voltage, is taken at full scale, counted and marked; TALLY_PERIOD_END, when an end falls due, closes the period into one
unsigned record of what it had counted when the count began, after the others while fewer than 8 are held, and defers it,
marked EXTENDED, while 8 are; TALLY_SIGNED signs the oldest unsigned record, chained to the digest before it; TALLY_RECORD_WRITE puts the oldest record,
once signed, into the next slot of the ring. No record is dropped. -/
def Obligations.ScalerTallies : Prop :=
  ∀ (s : State),
    (∀ (rail : Fin 8) (i v : BitVec 16) (iOut vOut : Bool), s.dev.metering = true →
      let e0 := Config.sampleEnergy (s.dev.scl.gain.getD rail 0) (s.dev.scl.offset.getD rail 0)
        (adcCode i iOut * adcCode v vOut) + SMap.get 0 s.dev.scl.part rail
      Completes (.scalerSample rail i v ⟨iOut, vOut⟩) s (fun e =>
        e.reg .SCL_RAIL rail = s.dev.reg .SCL_RAIL rail + BitVec.ofNat 64 (e0 / 2 ^ 32) ∧
        e.reg .SCL_ENERGY = s.dev.reg .SCL_ENERGY + BitVec.ofNat 64 (e0 / 2 ^ 32) ∧
        SMap.get 0 e.scl.part rail = e0 % 2 ^ 32 ∧
        s.dev.regsBut e [Reg.code .SCL_RAIL rail 0, Reg.code .SCL_ENERGY 0 0, Reg.code .SCL_STATUS 0 0] ∧
        e.scl = { s.dev.scl with part := e.scl.part, range := s.dev.scl.range || iOut || vOut } ∧
        ((iOut || vOut) = true → s.dev.bumped e .SCL_STATUS_RANGE (b2n iOut + b2n vOut)) ∧
        ((iOut || vOut) = false → e.reg .SCL_STATUS = s.dev.reg .SCL_STATUS))) ∧
    (s.dev.periodDue s.dev.count = true →
      let m := s.dev.count / s.dev.f .SCL_PERIOD_PERIOD * s.dev.f .SCL_PERIOD_PERIOD
      (s.dev.scl.records.length < 8 → Completes .tallyPeriodEnd s (fun e =>
        e.scl.records = s.dev.scl.records ++ [⟨s.dev.recordBytes s.dev.scl.before (m - 1) false, false⟩] ∧ e.scl.start = m ∧
        e.scl.seqNo = s.dev.scl.seqNo + 1 ∧ e.scl.pairs = (s.dev.scl.tally.since s.dev.scl.before).pairs ∧ (∀ r < 8, e.reg .SCL_RAIL r = 0) ∧
        e.reg .SCL_ENERGY = s.dev.reg .SCL_ENERGY)) ∧
      (8 ≤ s.dev.scl.records.length → Completes .tallyPeriodEnd s (fun e =>
        e.scl.records = s.dev.scl.records ∧ e.scl.extended = true ∧ e.scl.pairs = s.dev.scl.pairs ∧ e.regs = s.dev.regs))) ∧
    (∀ (done rest : List SclRecord) (b : List Byte), s.dev.scl.records = done ++ ⟨b, false⟩ :: rest → done.all SclRecord.signed = true →
      let body := patch b 48 s.dev.scl.prev
      let whole := body ++ rsaSign s.dev.fuses.sclKey.n s.dev.fuses.sclKey.d body
      Completes .tallySigned s (fun e =>
        e = { s.dev with pins := e.pins, scl := { s.dev.scl with records := done ++ ⟨whole, true⟩ :: rest, prev := sha512 whole } })) ∧
    (∀ (b : List Byte) (rest : List SclRecord), s.dev.scl.records = ⟨b, true⟩ :: rest → s.dev.canWriteHost = true →
      s.dev.flag .SEC_TALLY_CFG_ENABLE = true → s.dev.tallyFull = false → Completes .tallyRecordWrite s (fun e =>
        e.out = s.dev.out ++ [.memWrite (s.dev.f .SEC_TALLY_BASE_BASE * 4096 + s.dev.f .SEC_TALLY_TAIL_TAIL * 4096) b] ∧
        e.scl = { s.dev.scl with records := rest } ∧ s.dev.regsBut e [Reg.code .SEC_TALLY_TAIL 0 0]))

/-- SEC_MET_CMD completes: it starts the fetch of a metrology command with the nonce of that moment, or refuses it with cause 4
while one is in progress. METROLOGY_COMMAND_DONE completes: a command that a check refuses changes no seal and is reported with
its cause; an accepted one rewrites the Scaler region of the flash, with its payload or with the new setting, advances the seal
counter by one and is reported. Each draws a new nonce. -/
def Obligations.MetrologyCommands : Prop :=
  ∀ (s : State),
    (∀ (ap : Aperture) (v : BitVec 64), s.dev.accepts ap .SEC_MET_CMD 0 = true →
      (s.dev.flag .SCL_STATUS_MET_BUSY = false → Completes (.secMetCmd ap v) s (fun e =>
        e.flag .SCL_STATUS_MET_BUSY = true ∧
        e.scl.met = some (Fld.SEC_MET_CMD_ADDR.of v, Fld.SEC_MET_CMD_LEN_64.of v * 64, s.dev.nonce) ∧
        e.out = s.dev.out ++ memReads (Fld.SEC_MET_CMD_ADDR.of v) (Fld.SEC_MET_CMD_LEN_64.of v * 64) ∧
        s.dev.regsBut e [Reg.code .SCL_STATUS 0 0, Reg.code .SEC_MET_CMD 0 0])) ∧
      (s.dev.flag .SCL_STATUS_MET_BUSY = true → Completes (.secMetCmd ap v) s (fun e =>
        s.dev.posted e .SCL_MET_REFUSED (fun r => r.index = 4) ∧ e.scl = s.dev.scl ∧
        e.nonce = Config.random256 s.dev.free ∧ e.free = s.dev.free + 1))) ∧
    (∀ (bytes : List Byte) (region : Option ScalerRegion) (a len : Nat) (n : BitVec 256), s.dev.scl.met = some (a, len, n) →
      s.dev.stalled = false →
      let b := padTo len (bytes.take len)
      (∀ cause, s.dev.metCheck n b region = some cause → Completes (.metrologyCommandDone bytes region) s (fun e =>
        e.flag .SCL_STATUS_MET_BUSY = false ∧ e.scl = { s.dev.scl with met := none } ∧ e.fuses = s.dev.fuses ∧
        s.dev.posted e .SCL_MET_REFUSED (fun r => r.index = cause) ∧ e.nonce = Config.random256 s.dev.free)) ∧
      (s.dev.metCheck n b region = none → Completes (.metrologyCommandDone bytes region) s (fun e =>
        e.flag .SCL_STATUS_MET_BUSY = false ∧ e.scl.met = none ∧
        e.fuses = { s.dev.fuses with seals := s.dev.fuses.seals + 1 } ∧
        e.out = s.dev.out ++ [if leAt b 2 1 = 3 then .flashWrite 0x07F00000 (slice b 64 (len - 1088))
          else .regionWrite (leAt b 2 1) (slice b 64 (len - 1088))] ∧
        s.dev.posted e .SCL_SEAL_EVENT (fun _ => True) ∧ e.nonce = Config.random256 s.dev.free ∧
        (leAt b 2 1 = 1 → e.scl.nextPeriod = some (leAt b 64 8)))))

/-- SEC_QUOTE_CTRL_GO, QUOTE_DONE, SEC_CERT, SEC_FLASH_GO and FLASH_WRITE_DONE complete: GO starts a quote and its nonce's read,
or is reported while one is in progress; the quote's bytes with the identity key's signature are written after the nonce and
DONE is set; a read of SEC_CERT returns the chain's length, then its words, and moves on; a flash GO starts the write of a range
outside the Scaler region, or is refused and reported; the write's end sets DONE with the range written. -/
def Obligations.SecurityController : Prop :=
  ∀ (s : State),
    (∀ (ap : Aperture) (v : BitVec 64), s.dev.accepts ap .SEC_QUOTE_CTRL 0 = true → Fld.SEC_QUOTE_CTRL_GO.of v = 1 →
      (s.dev.flag .SEC_QUOTE_CTRL_BUSY = false → Completes (.secQuoteCtrlGo ap v) s (fun e =>
        e.sec.quote = some (Fld.SEC_QUOTE_CTRL_ADDR.of v * 64) ∧ e.flag .SEC_QUOTE_CTRL_BUSY = true ∧
        e.out = s.dev.out ++ [.memRead (Fld.SEC_QUOTE_CTRL_ADDR.of v * 64) 64] ∧
        s.dev.regsBut e [Reg.code .SEC_QUOTE_CTRL 0 0])) ∧
      (s.dev.flag .SEC_QUOTE_CTRL_BUSY = true → Completes (.secQuoteCtrlGo ap v) s (fun e =>
        s.dev.posted e .SEC_QUOTE_REFUSED (fun _ => True) ∧ e.sec = s.dev.sec ∧ e.out = s.dev.out))) ∧
    (∀ (nonce : Line) (a : Nat), s.dev.sec.quote = some a → s.dev.link.up = true → s.dev.stalled = false →
      Completes (.quoteDone nonce) s (fun e =>
      e.sec = { s.dev.sec with quote := none } ∧ e.flag .SEC_QUOTE_CTRL_BUSY = false ∧ e.flag .SEC_QUOTE_CTRL_DONE = true ∧
      e.out = s.dev.out ++ [.memWrite (a + 64) (s.dev.quoteBytes nonce ++
        rsaSign s.dev.fuses.idKey.n s.dev.fuses.idKey.d (s.dev.quoteBytes nonce))] ∧
      s.dev.regsBut e [Reg.code .SEC_QUOTE_CTRL 0 0])) ∧
    (∀ ap : Aperture, s.dev.answers ap (Reg.SEC_CERT.addrOf 0 0) = true → Completes (.secCert ap) s (fun e =>
      e.out = s.dev.out ++ [.readData 4 (BitVec.ofNat 64 (if s.dev.f .SEC_CERT_SEL_WORD = 0 then s.dev.fuses.cert.length
        else leAt s.dev.fuses.cert (4 * (s.dev.f .SEC_CERT_SEL_WORD - 1)) 4))] ∧
      e.f .SEC_CERT_SEL_WORD = (s.dev.f .SEC_CERT_SEL_WORD + 1) % 8192 ∧ s.dev.regsBut e [Reg.code .SEC_CERT_SEL 0 0])) ∧
    (∀ (ap : Aperture) (v : BitVec 64), s.dev.accepts ap .SEC_FLASH_CTRL 0 = true → Fld.SEC_FLASH_CTRL_GO.of v = 1 →
      let off := Fld.SEC_FLASH_CTRL_DEST_64.of v * 64
      let len := Fld.SEC_FLASH_CTRL_LEN_64.of v * 64
      (s.dev.flag .SEC_FLASH_CTRL_BUSY = false → flashBad off len = false → Completes (.secFlashGo ap v) s (fun e =>
        e.sec.flash = some (off, len, s.dev.f .SEC_FLASH_SRC_ADDR * 64) ∧ e.flag .SEC_FLASH_CTRL_BUSY = true ∧
        e.out = s.dev.out ++ memReads (s.dev.f .SEC_FLASH_SRC_ADDR * 64) len ∧
        s.dev.regsBut e [Reg.code .SEC_FLASH_CTRL 0 0])) ∧
      (s.dev.flag .SEC_FLASH_CTRL_BUSY = true ∨ flashBad off len = true → Completes (.secFlashGo ap v) s (fun e =>
        e.flag .SEC_FLASH_CTRL_REFUSED = true ∧ e.sec = s.dev.sec ∧ e.out = s.dev.out ∧
        s.dev.posted e .FAULT_PROT (fun r => r.address = Reg.SEC_FLASH_CTRL.addrOf 0 0)))) ∧
    (∀ (data : List Byte) (off len src : Nat), s.dev.sec.flash = some (off, len, src) →
      Completes (.flashWriteDone data) s (fun e =>
        e.sec = { s.dev.sec with flash := none } ∧ e.flag .SEC_FLASH_CTRL_BUSY = false ∧ e.flag .SEC_FLASH_CTRL_DONE = true ∧
        e.out = s.dev.out ++ [.flashWrite off (padTo len (data.take len))] ∧ s.dev.regsBut e [Reg.code .SEC_FLASH_CTRL 0 0]))

/-- SEC_DBG_OPEN completes: setting OPEN from 0 to 1 is reported. SLAB_ACCESS and SWITCH_CAPTURE complete through a usable debug
port: it takes the array's slab port, suspending and counting an owner in its unit, a write of a line changes exactly its 64
bytes, a read answers the line without an error in it, each is counted in OPS, and it gives the slab port up again; a capture
holds the output and waits for its next billet. Through a port that is not usable they change nothing; TRST_N low gives up
every capture and every hold but those of HBM refresh. -/
def Obligations.DebugPort : Prop :=
  ∀ (s : State),
    (∀ (ap : Aperture) (v : BitVec 64), s.dev.accepts ap .SEC_DBG_CFG 0 = true → s.dev.flag .SEC_DBG_CFG_OPEN = false →
      Fld.SEC_DBG_CFG_OPEN.of v = 1 → Completes (.secDbgOpen ap v) s (fun e =>
        e.flag .SEC_DBG_CFG_OPEN = true ∧ e.f .SEC_DBG_CFG_ALLOW = s.dev.f .SEC_DBG_CFG_ALLOW ∧
        s.dev.posted e .SEC_DEBUG_OPEN (fun _ => True) ∧ s.dev.regsBut e [Reg.code .SEC_DBG_CFG 0 0] ∧ s.dev.restTold e)) ∧
    (∀ (arr : Fin 152) (off : BitVec 22) (line : Line) (w : Bool) (port : Fin 44),
      let counted := fun (e : Dev) (a : Nat) => s.dev.bumped e .SEC_DBG_CFG_OPS 1 ∧
        s.dev.regsBut e [Reg.code .SEC_DBG_CFG 0 0, Reg.code .ARB_EMERG 0 0] ∧
        (∀ b, b ≠ a → e.grantOf b = s.dev.grantOf b) ∧ e.arb.lfsr = s.dev.arb.lfsr ∧
        (∀ g, s.dev.arbHeld a = false → s.dev.owner? a = some g → s.dev.bumped e .ARB_EMERG_DEBUG 1) ∧
        (s.dev.arbHeld a = true ∨ s.dev.owner? a = none → e.reg .ARB_EMERG = s.dev.reg .ARB_EMERG)
      (s.dev.dbgUsable true = true →
        let a := slabKey arr (off.toNat / 64 * 64)
        let slab := 2 * 4096 + arr.val
        let output := 6 * 4096 + port.val
        Completes (.slabAccess true arr off true line) s (fun e =>
          readBytes e.mem.slab a 64 = leBytes 64 line.toNat ∧
          (∀ k, k < a ∨ a + 64 ≤ k → SMap.get 0 e.mem.slab k = SMap.get 0 s.dev.mem.slab k) ∧ e.mem.hbm = s.dev.mem.hbm ∧
          counted e slab ∧ e.arbHeld slab = false) ∧
        (s.dev.mem.slabBad = [] → Completes (.slabAccess true arr off false line) s (fun e =>
          e.out = s.dev.out ++ [.slabLine (readBytes s.dev.mem.slab a 64)] ∧ e.mem = s.dev.mem ∧
          counted e slab ∧ e.arbHeld slab = false)) ∧
        Completes (.switchCapture true port) s (fun e =>
          e.arb.capture = s.dev.arb.capture.filter (· != port.val) ++ [port.val] ∧ counted e output ∧
          e.arbHeld output = true ∧ e.mem = s.dev.mem)) ∧
      (s.dev.dbgUsable true = false →
        Completes (.slabAccess true arr off w line) s (fun e => s.dev.same e) ∧
        Completes (.switchCapture true port) s (fun e => s.dev.same e)) ∧
      ∀ i ∈ [Instr.slabAccess false arr off w line, .switchCapture false port], Completes i s (fun e =>
        e = { s.dev with pins := e.pins, arb := e.arb } ∧ e.arb.capture = [] ∧ e.arb.lfsr = s.dev.arb.lfsr ∧
        ∀ x, x ∈ e.arb.emergency ↔ x ∈ s.dev.arb.emergency ∧ arbClass x.1 = 1))

/-! ## Arbitration -/

/-- LOTTERY_DRAW completes at an arbiter that no emergency requester holds, among the inputs Table 15.1 gives it that request, in
ascending input number. With two or more, its LFSR advances once, and the grant goes to the first input at which the sum of
tickets exceeds (x T) / 2^32, so exactly to the one whose share of T holds that number; with one, the parked owner is granted
without an LFSR step, and any other with one; with none the grant stays parked. The unit of the input that wins begins. No other
arbiter's LFSR or grant changes, and no command. -/
def Obligations.LotteryGrantsByTickets : Prop :=
  ∀ (s : State) (a : BitVec 16) (active : List ArbReq), arbExists a.toNat = true → s.dev.arbHeld a.toNat = false →
    s.dev.lfsr a.toNat < 2 ^ 32 →
    let reqs := s.dev.requests a.toNat active
    let x := lfsrStep (s.dev.lfsr a.toNat)
    let frame := fun (e : Dev) => (∀ b, b ≠ a.toNat → e.lfsr b = s.dev.lfsr b ∧ e.grantOf b = s.dev.grantOf b) ∧
      e.cmds = s.dev.cmds ∧ e.mem = s.dev.mem ∧ e.link = s.dev.link
    let granted := fun (e : Dev) (w : ArbReq) => e.grantOf a.toNat = some ⟨a.toNat, w.input, w.cmd, true, false⟩
    (2 ≤ reqs.length → (reqs.map ArbReq.input).Pairwise (· < ·) → Completes (.lotteryDraw a active) s (fun e =>
      let tick := fun (l : List ArbReq) => sumNat (l.map (s.dev.ticket (arbClass a.toNat)))
      let r := x * tick reqs / 2 ^ 32
      e.lfsr a.toNat = x ∧ frame e ∧
      ∃ before w after, reqs = before ++ w :: after ∧ tick before ≤ r ∧ r < tick (before ++ [w]) ∧ granted e w)) ∧
    (∀ w, reqs = [w] → (∀ g, s.dev.grantOf a.toNat = some g → g.input ≠ w.input) →
      Completes (.lotteryDraw a active) s (fun e => frame e ∧ granted e w ∧ e.lfsr a.toNat = x)) ∧
    (∀ w g, reqs = [w] → s.dev.grantOf a.toNat = some g → g.input = w.input →
      Completes (.lotteryDraw a active) s (fun e => frame e ∧ granted e w ∧ e.arb.lfsr = s.dev.arb.lfsr)) ∧
    (reqs = [] → Completes (.lotteryDraw a active) s (fun e => frame e ∧ e.arb.lfsr = s.dev.arb.lfsr ∧
      e.grantOf a.toNat = (s.dev.grantOf a.toNat).map (fun g => { g with busy := false })))

/-- EMERGENCY_GRANT completes: HBM refresh takes an HBM stop, and the debug port, where usable, a slab port or a switch output;
an owner in its unit is suspended, keeps its grant and its command, and the event is counted; where there is none the resource
is held all the same, uncounted. EMERGENCY_RELEASE completes: the owner is suspended no more, and no draw is made for it.
WATCHDOG_BITE completes on a grant whose unit is in progress, its class not disabled: the grant is revoked, counted and reported,
and the command it was made for, if it has not ended, is to be killed with KILLED_WATCHDOG; a request of no command is counted
as abandoned; the first bite is captured; and the remaining inputs draw, so that no grant of the bitten input stays. -/
def Obligations.EmergencyAndWatchdog : Prop :=
  ∀ (s : State) (a : BitVec 16),
    (∀ trst cnt, arbExists a.toNat = true → s.dev.arbHeld a.toNat = false →
      (arbClass a.toNat = 1 ∧ cnt = Fld.ARB_EMERG_REFRESH ∨
        (arbClass a.toNat = 2 ∨ arbClass a.toNat = 6) ∧ s.dev.dbgUsable trst = true ∧ cnt = Fld.ARB_EMERG_DEBUG) →
      (∀ g, s.dev.owner? a.toNat = some g → Completes (.emergencyGrant a trst) s (fun e =>
        e.grantOf a.toNat = some { g with suspended := true } ∧ e.arbHeld a.toNat = true ∧
        s.dev.bumped e cnt 1 ∧ s.dev.regsBut e [Reg.code .ARB_EMERG 0 0] ∧ e.cmds = s.dev.cmds)) ∧
      (s.dev.owner? a.toNat = none → Completes (.emergencyGrant a trst) s (fun e =>
        e.grantOf a.toNat = s.dev.grantOf a.toNat ∧ e.arbHeld a.toNat = true ∧ e.regs = s.dev.regs ∧ e.cmds = s.dev.cmds))) ∧
    (∀ trst, s.dev.dbgUsable trst = false → arbClass a.toNat ≠ 1 →
      Completes (.emergencyGrant a trst) s (fun e => s.dev.same e)) ∧
    (s.dev.arbHeld a.toNat = true → Completes (.emergencyRelease a) s (fun e =>
      e.grantOf a.toNat = (s.dev.grantOf a.toNat).map (fun g => { g with suspended := false }) ∧ e.arbHeld a.toNat = false ∧
      e.arb.lfsr = s.dev.arb.lfsr ∧ e.regs = s.dev.regs ∧ e.cmds = s.dev.cmds)) ∧
    (∀ (active : List ArbReq) (g : Grant), s.dev.owner? a.toNat = some g → s.dev.wdog (arbClass a.toNat) ≠ 0 →
      let cmd := (s.dev.grantCmd g).bind s.dev.cmd?
      Completes (.watchdogBite ⟨a, active⟩) s (fun e =>
        s.dev.bumped e .ARB_BITES_BITES 1 ∧
        s.dev.posted e .ARB_WATCHDOG (fun r => r.index = a.toNat + g.input % 256 * 2 ^ 16) ∧
        (∀ c, cmd = some c → c.ended = false → e.failing c.id .killedWatchdog) ∧
        (cmd = none → s.dev.bumped e .ARB_BITES_ABANDONED 1 ∧ e.cmds = s.dev.cmds) ∧
        (∀ h, e.grantOf a.toNat = some h → h.input ≠ g.input) ∧
        ((∀ r ∈ active, r.input = g.input) → e.grantOf a.toNat = none) ∧
        (s.dev.flag .ARB_BITE_LAST_VALID = true → e.reg .ARB_BITE_LAST = s.dev.reg .ARB_BITE_LAST) ∧
        (s.dev.flag .ARB_BITE_LAST_VALID = false → e.flag .ARB_BITE_LAST_VALID = true)))

/-! ## Errors, conservation and repair -/

/-- ERR_REPLACE_CLEAR, CONSERVATION_CHECK, ERR_RATE, RATE_WINDOW_END and REPLACE_REQ complete. A write of ERR_REPLACE clears the
reasons written 1. A check is counted and changes no register beside its own, no command and no memory. An event of a
rate kind joins its item's count, and the count that reaches the threshold for the first time in the window posts one ERR_RATE
and sets the reason. The window's end restarts every count. REPLACE_REQ_N is asserted, and reported, where an enabled reason
is set. -/
def Obligations.RatesAndReasons : Prop :=
  ∀ (s : State),
    (∀ (ap : Aperture) (v : BitVec 32), s.dev.accepts ap .ERR_REPLACE 0 = true → Completes (.errReplaceClear ap v) s (fun e =>
      e.reg .ERR_REPLACE = written .ERR_REPLACE (s.dev.reg .ERR_REPLACE) (v.zeroExtend 64) ∧
      s.dev.regsBut e [Reg.code .ERR_REPLACE 0 0] ∧ s.dev.restSame e)) ∧
    (s.dev.count % 2 ^ 20 = 0 → s.dev.boot.cold = false → s.dev.stalled = false → Completes .conservationCheck s (fun e =>
      s.dev.bumped e .ERR_CONS_STAT_CHECKS 1 ∧ s.dev.regsBut e [Reg.code .ERR_CONS_STAT 0 0, Reg.code .ERR_CONS_FAIL 0 0,
        Reg.code .ERR_REPLACE 0 0, Reg.code .ERR_STATUS 0 0] ∧
      e = { s.dev with regs := e.regs, pins := e.pins, scl := { s.dev.scl with unchecked := e.scl.unchecked },
                       link := { s.dev.link with held := e.link.held, seq := e.link.seq } })) ∧
    (∀ (kind : Fin 8) (item n it i : Nat) (cnt : Fld),
      (kind = 0 ∧ item < 8 ∧ it = item ∧ cnt = .TIER_HBM_ERR_CORRECTED ∧ i = item) ∨
      (kind = 1 ∧ item < 152 ∧ it = item ∧ cnt = .TIER_SLAB_ERR_CORRECTED ∧ i = 0) ∨
      (kind = 3 ∧ it = 0 ∧ cnt = .WIN_CACHE_STAT_CORRECTED ∧ i = 0) ∨ (kind = 7 ∧ it = 0 ∧ cnt = .ERR_MESH_CRC ∧ i = 0) →
      let key := kind.val * 65536 + it
      let c := SMap.get 0 s.dev.err.rates key + n
      let over_ := s.dev.rateLimit kind ≠ 0 ∧ s.dev.rateLimit kind ≤ c ∧ key ∉ s.dev.err.rated
      Completes (.errRate kind item n) s (fun e =>
        s.dev.bumped e cnt n i ∧ SMap.get 0 e.err.rates key = c ∧
        (over_ → s.dev.posted e .ERR_RATE (fun r => r.index = kind.val + 256 * it) ∧
          bit (e.f .ERR_REPLACE_REASON) 3 = true ∧ key ∈ e.err.rated) ∧
        (¬over_ → e.link = s.dev.link ∧ e.reg .ERR_REPLACE = s.dev.reg .ERR_REPLACE) ∧ e.cmds = s.dev.cmds)) ∧
    (s.dev.err.rateStart + s.dev.rateWindow ≤ s.dev.count → Completes .rateWindowEnd s (fun e =>
      e.err = { s.dev.err with rates := [], rated := [], rateStart := s.dev.err.rateStart + s.dev.rateWindow } ∧
      e.regs = s.dev.regs ∧ e.link = s.dev.link)) ∧
    (s.dev.pins.replace = false → s.dev.boot.cold = false → s.dev.reasons ≠ 0 → Completes .replaceReq s (fun e =>
      e.pins.replace = true ∧ s.dev.posted e .REPLACE_REQ (fun r => r.index = s.dev.f .ERR_REPLACE_REASON) ∧
      e.regs = s.dev.regs ∧ e.cmds = s.dev.cmds))

/-- DROOP_STRETCH, TEMP_HIGH, TEMP_BELOW_WARN, THERM_TRIP and VDD_CORE_TARGET_STEP complete. A stretch event is counted, for the
device and for its domain, and one beyond the allowance also in OVER. The hottest sensor at WARN posts TEMP_HIGH once, until it
has fallen 5 degrees below; at 115 degrees THERMTRIP_N is asserted and a FAULT posted; each shows the temperature and its highest.
A crossing of a multiple of 10 degrees steps the VDD_CORE target by 5 mV, at most once in 2^20 counts and within 680 to 800 mV.
None of them touches a command. -/
def Obligations.DroopAndTemperature : Prop :=
  ∀ (s : State),
    (∀ (dom : Fin 231) (x : Bool), Completes (.droopStretch dom x) s (fun e =>
      s.dev.bumped e .ERR_DROOP_EVENTS 1 ∧
      SMap.get 0 e.err.droop dom = min (SMap.get 0 s.dev.err.droop dom + 1) (2 ^ 32 - 1) ∧
      (x = true → s.dev.bumped e .ERR_DROOP_OVER 1) ∧
      (x = false → e.f .ERR_DROOP_OVER = s.dev.f .ERR_DROOP_OVER ∧ e.link = s.dev.link) ∧ e.cmds = s.dev.cmds)) ∧
    (∀ t : Nat,
      (s.dev.f .ERR_THERM_WARN ≤ t → s.dev.err.tempArmed = true → Completes (.tempHigh t) s (fun e =>
        s.dev.posted e .TEMP_HIGH (fun _ => True) ∧ e.err.tempArmed = false ∧ e.f .ERR_THERM_TEMP = min t 255 ∧
        e.f .ERR_THERM_MAX = max (min t 255) (s.dev.f .ERR_THERM_MAX) ∧ s.dev.regsBut e [Reg.code .ERR_THERM 0 0] ∧
        e.cmds = s.dev.cmds)) ∧
      (s.dev.err.tempArmed = false → Completes (.tempHigh t) s (fun e => e.link = s.dev.link ∧ e.err = s.dev.err)) ∧
      (t + 5 ≤ s.dev.f .ERR_THERM_WARN → Completes (.tempBelowWarn t) s (fun e =>
        e.err.tempArmed = true ∧ e.link = s.dev.link ∧ s.dev.regsBut e [Reg.code .ERR_THERM 0 0])) ∧
      (115 ≤ t → s.dev.pins.therm = false → s.dev.boot.cold = false → Completes (.thermTrip t) s (fun e =>
        e.pins.therm = true ∧ s.dev.posted e .THERM_TRIP (fun _ => True) ∧ e.flag .ERR_STATUS_FAULT_SEEN = true ∧
        s.dev.regsBut e [Reg.code .ERR_THERM 0 0, Reg.code .ERR_STATUS 0 0] ∧ e.cmds = s.dev.cmds)) ∧
      (∀ up : Bool,
        let new := if up then s.dev.boot.vdd + 5 else s.dev.boot.vdd - 5
        (s.dev.f .ERR_THERM_TEMP / 10 ≠ t / 10 → 3 ≤ s.dev.stage →
          (∀ c, s.dev.boot.vddAt = some c → c + 2 ^ 20 ≤ s.dev.count) → 680 ≤ new → new ≤ 800 →
          Completes (.vddCoreTargetStep t up) s (fun e =>
            e.boot = { s.dev.boot with vdd := new, vddAt := some s.dev.count } ∧
            e.f .ERR_THERM_TEMP = min t 255 ∧ s.dev.regsBut e [Reg.code .ERR_THERM 0 0] ∧ e.link = s.dev.link)) ∧
        (new < 680 ∨ 800 < new → Completes (.vddCoreTargetStep t up) s (fun e => e.boot = s.dev.boot))) ∧
      (∀ (up : Bool) (c : Nat), s.dev.boot.vddAt = some c → s.dev.count < c + 2 ^ 20 →
        Completes (.vddCoreTargetStep t up) s (fun e => e.boot = s.dev.boot)))

/-- MESH_CRC completes: the failure is counted and reported with its stop, a live command it belongs to is to be killed with
FAULT_DATA, and a control-space read returns zero. SCRUB completes on the next line of a stack, outside retired frames: it moves
on to the line after; a clean line changes no register, a corrected one is counted, an uncorrectable one is marked, latched and
reported with its address as a read's is; no command is killed and no byte changes. -/
def Obligations.MeshAndScrub : Prop :=
  ∀ (s : State),
    (∀ (stop : Fin 256) (id : Option Nat) (read : Option (Fin 9)), Completes (.meshCrc stop id read) s (fun e =>
      s.dev.bumped e .ERR_MESH_CRC 1 ∧
      (∃ l r, e.link.held = s.dev.link.held ++ l ++ [.report r] ∧ r.code = .MESH_CRC ∧ r.index = stop.val) ∧
      (∀ i c, id = some i → s.dev.cmd? i = some c → c.ended = false → e.failing i .faultData) ∧
      (id = none → e.cmds = s.dev.cmds) ∧
      e.out = s.dev.out ++ (match read with | some n => [Out.readData n.val 0] | none => []))) ∧
    (∀ stack : Fin 8, s.dev.flag .TIER_SCRUB_ENABLE = true → 8 ≤ s.dev.stage → s.dev.stalled = false →
      let k := SMap.get 0 s.dev.mem.scrub stack
      let a := stackLine stack k
      a / 65536 ∉ s.dev.mem.frames → a ∉ s.dev.mem.hbmBad →
      Completes (.scrub stack .clean) s (fun e =>
        SMap.get 0 e.mem.scrub stack = (k + 1) % stackLines ∧ e.regs = s.dev.regs ∧ e.link = s.dev.link ∧
        e.mem.hbm = s.dev.mem.hbm ∧ e.mem.hbmBad = s.dev.mem.hbmBad ∧ e.cmds = s.dev.cmds) ∧
      Completes (.scrub stack .corrected) s (fun e =>
        SMap.get 0 e.mem.scrub stack = (k + 1) % stackLines ∧ s.dev.bumped e .TIER_HBM_ERR_CORRECTED 1 stack ∧
        e.mem.hbm = s.dev.mem.hbm ∧ e.cmds = s.dev.cmds) ∧
      Completes (.scrub stack .uncorrectable) s (fun e =>
        a ∈ e.mem.hbmBad ∧ s.dev.bumped e .TIER_HBM_ERR_UNCORRECTABLE 1 stack ∧
        (∃ l r, e.link.held = s.dev.link.held ++ l ++ [.report r] ∧ r.code = .TIER_HBM_UE ∧ r.address = a) ∧
        e.mem.hbm = s.dev.mem.hbm ∧ e.cmds = s.dev.cmds))

/-! ## Commands: fetch, launch, commit and kill -/

/-- DESCRIPTOR_FETCH completes on a queue that may fetch: the descriptor is read from HEAD's slot, HEAD increments modulo the
ring size and no other register changes. A descriptor that passes R51's checks becomes a command in flight, unlaunched and
alive, that waits for the command its WAIT_TAG names; one that fails them ends at once with a BAD_DESCRIPTOR record. Neither
reaches memory. -/
def Obligations.DescriptorFetched : Prop :=
  ∀ (s : State) (q : Fin 64) (desc : Line), s.dev.mayFetch q = true →
    let head := s.dev.f .CMD_SQ_HEAD_HEAD q
    Completes (.descriptorFetch q desc) s (fun e =>
      e.f .CMD_SQ_HEAD_HEAD q = (head + 1) % s.dev.sqSize q ∧
      e.out = s.dev.out ++ [.memRead (s.dev.f .CMD_SQ_BASE_BASE q * 64 + head * 64) 64] ∧
      e.nextId = s.dev.nextId + 1 ∧ e.cmds.length = s.dev.cmds.length + 1 ∧
      s.dev.regsBut e [Reg.code .CMD_SQ_HEAD q 0] ∧ e.mem = s.dev.mem ∧ e.fab = s.dev.fab ∧
      (let fetched := (s.dev.setF .CMD_SQ_HEAD_HEAD ((head + 1) % s.dev.sqSize q) q).accept q desc
       let ok := fetched.descOk q (newCmd s.dev.nextId q desc)
       (ok = true → e.link = s.dev.link ∧ ∃ k ∈ e.cmds, k.id = s.dev.nextId ∧ k.queue = q ∧ k.desc = desc ∧
         k.launched = false ∧ k.ended = false ∧ k.causes = [] ∧ k.waitOn = (s.dev.named q k.waitTag).map Cmd.id) ∧
       (ok = false → ∃ k : Completion, e.link.held = s.dev.link.held ++ [.completion k] ∧ k.status = .badDescriptor ∧
         k.cmd = s.dev.nextId ∧ k.count = s.dev.count ∧ k.parts = 0 ∧
         (s.dev.cmd? s.dev.nextId = none → k.queue = q ∧ k.opcode = field desc.toNat 0 0 8 ∧ k.tag = field desc.toNat 8 0 32))))

/-- COMMAND_LAUNCH completes, with no boundary, deadline or release due: an eligible command without handles whose opcode needs
no engine's room (LOAD_PROGRAM to STEP_GRANT) launches, with the count and the step of its launch, and its wait since its
eligibility is added to the queue's WAIT. A command whose conditions do not hold stays as it is, and one that the grant gate
holds is noted eligible and not launched. -/
def Obligations.CommandLaunches : Prop :=
  ∀ (s : State) (q : Fin 64) (c : Cmd), s.dev.nextLaunch q = some c → s.dev.cmd? c.id = some c →
    s.dev.ring.running = true → s.dev.stalled = false → s.dev.settleDue = s.dev → s.dev.mem.superseded = [] →
    (s.dev.eligibleNow c = true → 0x0A ≤ c.opcode → c.opcode ≤ 0x0F → c.noHandles = true → c.inputs = [] → c.claims = [] →
      s.dev.launchDue c = false →
      Completes (.commandLaunch q) s (fun e =>
        (∃ k, e.cmd? c.id = some k ∧ k.launched = true ∧ k.launchAt = s.dev.count ∧
          k.step = s.dev.f .RING_STEP_STEP c.part ∧ k.causes = [] ∧ k.inputs = [] ∧ k.claims = []) ∧
        s.dev.bumped e .CMD_ACCT_WAIT_WAIT (s.dev.count - c.eligible.getD s.dev.count) c.queue ∧
        s.dev.regsBut e [Reg.code .CMD_ACCT_WAIT c.queue 0] ∧ e.link = s.dev.link ∧ e.mem = s.dev.mem)) ∧
    (s.dev.eligibleNow c = false → Completes (.commandLaunch q) s (fun e => s.dev.same e)) ∧
    (s.dev.eligibleNow c = true → c.gated = true → s.dev.flag .SV_GATE_AWAITING c.part = true →
      Completes (.commandLaunch q) s (fun e =>
        (∃ k, e.cmd? c.id = some k ∧ k.launched = false ∧ k.eligible = some (c.eligible.getD s.dev.count)) ∧
        e = { s.dev with cmds := e.cmds, pins := e.pins }))

/-- The ends of a command complete. COMMIT of a command that may commit, of any opcode but SIEVE and SWAP, which commit with
their Step Report and at their boundary: its record is held with OK, or SUSPECT, and memory is what its tables' commit leaves.
A claim that it holds takes effect in the object table: CUR is the claimed buffer, HAS_CUR is set and GEN increments, and the
version that was current is superseded. A FENCE with PROTECT empties the translation, rank and window table caches, and one
without leaves them. KILL of a command that a cause has reached, of any opcode: its record is held with the first of its causes
in R54's order and, for PART_FAILED, the mask of its failed parts, and no object in memory changes. VERSION_RELEASE of a
superseded version that no launched command reads: it is released, and a placement that is no longer live and of which no other
version is held is charged no more; memory keeps its bytes. -/
def Obligations.CommitKillRelease : Prop :=
  ∀ (s : State) (id : Nat) (c : Cmd),
    (∀ d, s.dev.cmd? id = some c → c.opcode ≠ 2 → c.opcode ≠ 9 → s.dev.canCommit c = true → s.dev.stalled = false →
      s.dev.commitTables c = .ok d →
      Completes (.commit id) s (fun e =>
        s.dev.recorded e c (if c.suspect then .suspect else .ok) 0 ∧ e.mem.hbm = d.mem.hbm ∧ e.mem.slab = s.dev.mem.slab ∧
        e.mem.superseded = d.mem.superseded ∧
        (∀ k e0, c.claims = [k] → s.dev.placesOf id = [] → k.ver.buf < 4 →
          s.dev.entry k.ver.part k.ver.obj = .ok (some e0) → e0.same k.ver.entry = true →
          e.entry k.ver.part k.ver.obj = .ok (some { e0 with cur := k.ver.buf, hasCur := true, gen := (e0.gen + 1) % 2 ^ 32 }) ∧
          e.mem.superseded = s.dev.mem.superseded ++
            (if e0.hasCur then [⟨⟨k.ver.part, k.ver.obj, e0, e0.cur⟩⟩] else [])) ∧
        (c.opcode = 0x0B →
          if c.arg 0 0 1 = 1 then e.mem.xu = [] ∧ e.fab.ranks = [] ∧ e.win.table = []
          else e.mem.xu = s.dev.mem.xu ∧ e.fab.ranks = s.dev.fab.ranks ∧ e.win.table = s.dev.win.table))) ∧
    (∀ st, s.dev.cmd? id = some c → c.killStatus = some st → c.ended = false → s.dev.stalled = false →
      Completes (.kill id) s (fun e =>
        s.dev.recorded e c st (if st = .partFailed then partsMask c.failed else 0) ∧
        e.mem.hbm = s.dev.mem.hbm ∧ e.mem.slab = s.dev.mem.slab ∧ e.mem.charges = s.dev.mem.charges ∧
        e.mem.superseded = s.dev.mem.superseded)) ∧
    (∀ (p : Fin 16) (obj : BitVec 24) (buf : Fin 4) (x : Superseded),
      s.dev.mem.superseded.find? (fun y => y.ver.part == p.val && y.ver.obj == obj.toNat && y.ver.buf == buf.val &&
        !s.dev.readBy y.ver) = some x →
      let rest := s.dev.mem.superseded.erase x
      let held := fun (k : Charge) => rest.any (fun y => y.ver.part == k.part && y.ver.obj == k.obj && y.ver.entry.same k.entry)
      Completes (.versionRelease p obj buf) s (fun e =>
        e.mem.superseded = rest ∧ e.mem.charges = s.dev.mem.charges.filter (fun k => k.live || held k) ∧
        (∀ k ∈ s.dev.mem.charges, k.part = p → k.live = false → held k = false → k ∉ e.mem.charges ∧
          e.useHbm p + k.hbm ≤ s.dev.useHbm p ∧ e.useSlab p + k.slab ≤ s.dev.useSlab p) ∧
        e.f .TIER_USE_HBM_64K p = ceilDiv (e.useHbm p) 65536 % 2 ^ Fld.TIER_USE_HBM_64K.width ∧
        e.f .TIER_USE_SLAB_KIB p = ceilDiv (e.useSlab p) 1024 % 2 ^ Fld.TIER_USE_SLAB_KIB.width ∧
        e.mem.hbm = s.dev.mem.hbm ∧ e.mem.slab = s.dev.mem.slab ∧ e.cmds = s.dev.cmds ∧ e.link = s.dev.link))

/-! ## Commands that control others, and the grant gate -/

/-- The control commands complete. FENCE is ready exactly when every command fetched earlier from its queue has completed.
PREEMPT gives KILLED_PREEMPT to every other live command of its partition or queue, halts the queues if asked, and is ready
at once where there is none. DISABLE kills the commands that use an enabled array, or whose billets are queued for a link it
disables or whose lane it retires (refused where fewer than two would be left), or retires a frame of HBM; it is ready at once
where it kills none. ENABLE_SPARE is ready where the one array is SPARE and the other RETIRED, and is otherwise refused with
BAD_DESCRIPTOR. -/
def Obligations.ControlCommandsAct : Prop :=
  ∀ (s : State) (id : Nat) (c : Cmd), s.dev.cmd? id = some c → c.running = true → c.ready = false →
    s.dev.stalled = false →
    (c.opcode = 0x0B →
      ((∀ e ∈ s.dev.cmds, e.queue = c.queue → c.id ≤ e.id) →
        Completes (.fence id) s (fun e => e.readied id ∧ e = { s.dev with cmds := e.cmds, pins := e.pins })) ∧
      ((∃ e ∈ s.dev.cmds, e.queue = c.queue ∧ e.id < c.id) → Completes (.fence id) s (fun e => s.dev.same e))) ∧
    (c.opcode = 0x0C → c.passed = [] →
      let t := c.arg 1 0 8
      let hit := fun (k : Cmd) => k.id ≠ id ∧ k.ended = false ∧ (if c.arg 0 0 8 = 0 then k.part = t else k.queue = t)
      Completes (.preempt id) s (fun e =>
        (∀ k, s.dev.sole k → hit k → e.failing k.id .killedPreempt) ∧
        (∀ k, s.dev.sole k → ¬hit k → k.id ≠ id → e.cmd? k.id = some k) ∧
        (c.arg 2 0 1 = 1 → ∀ q : Fin 64, (if c.arg 0 0 8 = 0 then s.dev.boundTo q t = true else q.val = t) →
          e.flag .CMD_SQ_CTRL_HALTED q = true) ∧
        (c.arg 2 0 1 = 0 → e.regs = s.dev.regs) ∧
        ((∀ k ∈ s.dev.cmds, ¬hit k) → e.readied id) ∧ e.mem = s.dev.mem ∧ e.link = s.dev.link)) ∧
    (c.opcode = 0x0D → c.passed = [] →
      let i := c.arg 2 0 16
      (c.arg 0 0 8 = 0 → Completes (.disable id) s (fun e =>
        (∀ k, s.dev.sole k → s.dev.arrState i = 0 → k.id ≠ id → s.dev.usesArray k i = true → e.failing k.id .killedDisable) ∧
        (s.dev.arrState i ≠ 0 → e.readied id) ∧ e.mem = s.dev.mem)) ∧
      (c.arg 0 0 8 = 1 → Completes (.disable id) s (fun e => e.linkState i = 5 ∧
        (∀ k, s.dev.sole k → k.id ∈ s.dev.linkUsers id i → e.failing k.id .killedDisable) ∧
        (s.dev.linkUsers id i = [] → e.readied id))) ∧
      (c.arg 0 0 8 = 2 → i < 36 → c.arg 4 0 8 < 4 →
        let left := setBit (s.dev.lanesOf i) (c.arg 4 0 8) false
        Completes (.disable id) s (fun e =>
          (2 ≤ popCount left 4 → bit (e.f .FAB_LINK_STATUS_RETIRED i) (c.arg 4 0 8) = true ∧ e.linkState i ≠ 3 ∧
            (∀ k, s.dev.sole k → k.id ∈ s.dev.linkUsers id i → e.failing k.id .killedDisable) ∧
            (s.dev.linkUsers id i = [] → e.readied id)) ∧
          (popCount left 4 < 2 → e.failing id .badDescriptor ∧
            e.f .FAB_LINK_STATUS_RETIRED i = s.dev.f .FAB_LINK_STATUS_RETIRED i))) ∧
      (c.arg 0 0 8 = 3 → s.dev.mem.frames.contains (c.arg 8 0 64 / 65536) = false → s.dev.mem.frames.length < 4096 →
        Completes (.disable id) s (fun e =>
          e.mem = { s.dev.mem with frames := s.dev.mem.frames ++ [c.arg 8 0 64 / 65536] } ∧
          e.f .TIER_RETIRED_FRAMES = s.dev.mem.frames.length + 1 ∧ e.readied id))) ∧
    (c.opcode = 0x0E →
      let ok := s.dev.arrState (c.arg 0 0 16) = 1 ∧ s.dev.arrState (c.arg 2 0 16) = 3
      (ok → Completes (.enableSpare id) s (fun e => e.readied id ∧ e = { s.dev with cmds := e.cmds, pins := e.pins })) ∧
      (¬ok → Completes (.enableSpare id) s (fun e => e.failing id .badDescriptor ∧ e.regs = s.dev.regs)))

/-- STEP_GRANT completes once its tables have been read, by Table 4.14: a SEQ already released is stale, counted and
reported; one of a SIEVE to come is stored, the fifth of a partition refused with QUOTA; one within its bounds opens the gate
and becomes the released SEQ; one beyond them is reported and leaves the gate as it is. One whose tables cannot be read fails
and changes nothing of the gate. STEP_REPORT completes on a SIEVE whose tail is done and whose ring has a slot: SV_SEQ and the
ring's tail move on, the report goes to its slot, the record is held with OK, the context is free, and with no grant stored for
it the gate closes. -/
def Obligations.GrantGateAndReport : Prop :=
  ∀ (s : State) (id : Nat) (c : Cmd), s.dev.stalled = false →
    (s.dev.cmd? id = some c → c.running = true → c.ready = false → c.opcode = 0x0F → c.parts = 1 →
      let p := c.part
      (∀ g d, (readGrant c).run.run s.dev = (.ok g, d) →
        let stored := s.dev.sv.grants.filter (fun h => h.part == p && h.seq != g.seq)
        Completes (.stepGrant id) s (fun e =>
          g.part = p ∧ g.seq = c.grantSeq ∧ s.dev.noneEnds e ∧
          (g.seq ≤ s.dev.f .SV_REL_SEQ_REL_SEQ p → s.dev.bumped e .SV_GRANTS_STALE 1 p ∧
            s.dev.posted e .SV_GRANT_STALE (fun r => r.index = g.seq) ∧ e.sv = s.dev.sv ∧ e.readied id) ∧
          (s.dev.f .SV_REL_SEQ_REL_SEQ p < g.seq → s.dev.f .SV_SEQ_SEQ p < g.seq →
            (4 ≤ stored.length → e.failing id .quota ∧ e.sv = s.dev.sv) ∧
            (stored.length < 4 → g ∈ e.sv.grants ∧ e.readied id)) ∧
          (s.dev.f .SV_REL_SEQ_REL_SEQ p < g.seq → g.seq ≤ s.dev.f .SV_SEQ_SEQ p →
            (s.dev.withinBounds g = true → e.f .SV_REL_SEQ_REL_SEQ p = g.seq ∧ e.flag .SV_GATE_AWAITING p = false ∧
              e.readied id) ∧
            (s.dev.withinBounds g = false → s.dev.posted e .SV_BOUNDS (fun r => r.index = g.seq) ∧ e.sv = s.dev.sv ∧
              e.reg .SV_GATE p = s.dev.reg .SV_GATE p ∧ e.readied id)))) ∧
      (Op.succeeds s.dev (readGrant c) = false → Completes (.stepGrant id) s (fun e => e.failed id ∧ e.sv = s.dev.sv ∧
        e.reg .SV_GATE p = s.dev.reg .SV_GATE p ∧ s.dev.noneEnds e))) ∧
    (∀ (k : Fin 2) (x : SvCtx) d, s.dev.sv? k = some x → s.dev.cmd? x.id = some c → c.running = true → x.tailDone = true →
      s.dev.rptReady c.part = true → s.dev.commitTables c = .ok d →
      let p := c.part
      let seq := (s.dev.f .SV_SEQ_SEQ p + 1) % 2 ^ 32
      Completes (.stepReport k) s (fun e =>
        e.f .SV_SEQ_SEQ p = seq ∧ e.f .SV_RPT_TAIL_TAIL p = (s.dev.f .SV_RPT_TAIL_TAIL p + 1) % s.dev.rptSize p ∧
        (∃ bs, e.out = s.dev.out ++ memWrites (s.dev.f .SV_RPT_BASE_BASE p * 4096 + s.dev.f .SV_RPT_TAIL_TAIL p *
          2 ^ s.dev.f .SV_RPT_CFG_SLOT_LOG2 p) bs ∧ leAt bs 8 4 = seq ∧ leAt bs 12 4 = c.tag) ∧
        (∃ r : Completion, .completion r ∈ e.link.held ∧ r.cmd = x.id ∧ r.status = .ok ∧ r.tag = c.tag) ∧
        (∃ h, e.cmd? c.id = some h ∧ h.ended = true) ∧ e.mem.hbm = d.mem.hbm ∧
        e.sv.ctxs = s.dev.sv.ctxs.filter (fun y => y.id != c.id) ∧
        (s.dev.sv.grants.all (fun g => g.part != p || g.seq != seq) = true → e.flag .SV_GATE_AWAITING p = true ∧
          SMap.get 0 e.sv.closedAt p = s.dev.count)))

/-! ## The Sieve and the arrays -/

/-- The Sieve's own commands complete. SIEVE ends its load: the context holds the map's entries, and no byte of memory changes,
or the SIEVE fails. SCORE_TILE takes the next tile of the paired LAYER off the score path and counts it: its rows join the
context, or the SIEVE fails, as it does after the last tile where a token's row has a gap. TOKEN_SELECT processes the next token
in order: one more token is counted, a grain for each choice follows those before, in the order of the choices, and its row is
chosen, or the SIEVE fails. SIEVE_TAIL writes the tables and marks the tail done, or the SIEVE fails, as it does where a token
has a gap. None of them ends or commits a command, touches a claim, a superseded version or a charge, or moves the count. -/
def Obligations.SieveCommandsAct : Prop :=
  ∀ (s : State) (id : Nat) (c : Cmd) (x : SvCtx), s.dev.cmd? id = some c → c.running = true → x.id = id →
    s.dev.sv? x.ctx = some x → s.dev.stalled = false →
    (s.dev.sv.ctxs.find? (fun y => y.id == id) = some x → x.loaded = false →
      (Op.succeeds s.dev (sieveLoad c x) = true → Completes (.sieve id) s (fun e => s.dev.noneEnds e ∧ s.dev.quietly e ∧
        ∃ y, e.sv? x.ctx = some y ∧ y.loaded = true ∧ y.head = x.head ∧
          y.map.length = (if c.stage = 1 then 0 else mapExperts x.head.toNat))) ∧
      (Op.succeeds s.dev (sieveLoad c x) = false → Completes (.sieve id) s (fun e => s.dev.noneEnds e ∧ e.failed id))) ∧
    (∀ k : Fin 2, x.ctx = k → x.loaded = true →
      (∀ t, s.dev.arr.scores.find? (fun t => c.pair == some t.layer) = some t →
        let d := { s.dev with arr := { s.dev.arr with scores := s.dev.arr.scores.erase t } }
        Completes (.scoreTile k) s (fun e =>
          e.arr = d.arr ∧ s.dev.bumped e .SV_TILES_TILES 1 ∧ e.mem = s.dev.mem ∧ s.dev.noneEnds e ∧
          (∀ y, x.takeAll c.stage t (List.range t.rows) = .ok y →
            (∃ z, e.sv? k = some z ∧ z.rows = y.rows ∧ z.tokens = x.tokens) ∧
            ((d.scoresDone c y && y.gap c.stage) = false → e.cmds = s.dev.cmds ∧ e.link = s.dev.link) ∧
            ((d.scoresDone c y && y.gap c.stage) = true → e.failed id ∧
              s.dev.posted e .SV_SCORE_GAP (fun r => r.status = Status.faultData.num))) ∧
          (∀ code, x.takeAll c.stage t (List.range t.rows) = .error code →
            e.failed id ∧ s.dev.posted e code (fun r => r.status = Status.faultData.num) ∧ e.sv = s.dev.sv))) ∧
      (∀ t r, ((x.order c.stage).drop x.tokens).head? = some t →
        x.rows.find? (fun r => r.slot == t.1 && r.token == t.2 && !r.chosen) = some r → x.complete c.stage r = true →
        (Op.succeeds s.dev (selectToken c x r) = true → Completes (.tokenSelect k) s (fun e => s.dev.noneEnds e ∧
          ∃ y, e.sv? k = some y ∧ y.tokens = x.tokens + 1 ∧ x.grains <+: y.grains ∧
            (y.grains.drop x.grains.length).map Grain.expert = (x.select c r).1.map Prod.fst ∧
            (∀ z ∈ y.rows, z.slot = t.1 → z.token = t.2 → z.chosen = true))) ∧
        (Op.succeeds s.dev (selectToken c x r) = false →
          Completes (.tokenSelect k) s (fun e => s.dev.noneEnds e ∧ e.failed id))) ∧
      (x.tailDone = false → s.dev.scoresDone c x = true →
        (x.gap c.stage = true → Completes (.sieveTail k) s (fun e => s.dev.noneEnds e ∧ e.failed id ∧
          s.dev.posted e .SV_SCORE_GAP (fun r => r.status = Status.faultData.num) ∧ e.mem = s.dev.mem)) ∧
        ((x.order c.stage).length = x.tokens →
          (Op.succeeds s.dev (Sys2Proof.Machine.sieveTail c x) = true → Completes (.sieveTail k) s (fun e =>
            s.dev.noneEnds e ∧ e.cmds = s.dev.cmds ∧
            ∃ y, e.sv? k = some y ∧ y.tailDone = true ∧ y.grains = x.grains)) ∧
          (Op.succeeds s.dev (Sys2Proof.Machine.sieveTail c x) = false →
            Completes (.sieveTail k) s (fun e => s.dev.noneEnds e ∧ e.failed id)))))

/-- A LAYER's work completes while the records held leave room. LAYER, once every unit and block is done and the Sieve and the
Borer have taken what it sent, is ready to commit, or fails. ARRAY_TILE runs the tile whose turn it is: the array's tile and
busy counters advance, and unless an operand fails the unit streams on or is done; where no check is on that could find a
fault, nothing is counted or reported. A check that fails is counted, captured if no capture is held, and kills the LAYER with
FAULT_DATA, reported once for its kind and array. COMPACTION examines one more stored tile, TRANSPOSE_BLOCK fills the half
whose turn it is and then drains it, WEIGHT_CHUNK_STAGE puts one more chunk into a free half, or the LAYER fails.
FETCH_DEADLINE on a running count, with Coppice service off, posts TIER_FETCH_LATE once, and every entry without its first
chunks waits. None of them ends a command. -/
def Obligations.LayerWorkRuns : Prop :=
  (∀ (s : State) (id : Nat) (c : Cmd) (r : LayerRun), s.dev.cmd? id = some c → s.dev.run? id = some r →
    s.dev.stalled = false → c.parts = 1 →
    (c.running = true → c.ready = false → r.units.all LUnit.done = true → r.blocks.all TBlock.done = true →
      (∀ t ∈ s.dev.arr.scores, t.layer ≠ id) → (∀ x ∈ s.dev.borer.waiting, x.cmd ≠ id) →
      Completes (.layer id) s (fun e => s.dev.noneEnds e ∧
        (Op.succeeds s.dev (layerFinish id c r) = true → e.readied id ∧ e.link = s.dev.link) ∧
        (Op.succeeds s.dev (layerFinish id c r) = false → e.failed id))) ∧
    (∀ (arr : Fin 152) (i : Nat) (u : LUnit) (f : Option ArrayFault), s.dev.tile? id i = some (c, r, u) →
      s.dev.tileReady c r i arr = true →
      let (w, shape, fl) := (s.dev.tileWidth c.part, s.dev.shape c.part, s.dev.flush c.part)
      let n := ((u.positions.drop u.at_).take w).length
      let tiles := if u.positions.length ≤ u.at_ ∧ u.what ≠ 2 then 0 else 1
      let cycles := loadCycles (r.pace c u) r.src.scaled + (if shape then 192 else 288) + streamCycles (r.pace c u) u.cols.length
      let d := (s.dev.addF .MA_ARR_TILES_TILES tiles arr).addF .MA_ARR_BUSY_CYCLES (tiles * cycles) arr
      let work := if u.what = 2 then coppiceTile id i c r u fl shape w f else productTile id i c r u fl shape w f
      Completes (.arrayTile id arr i f) s (fun e => s.dev.noneEnds e ∧
        s.dev.bumped e .MA_ARR_TILES_TILES tiles arr ∧ s.dev.bumped e .MA_ARR_BUSY_CYCLES (tiles * cycles) arr ∧
        (Op.succeeds d work = true → u.what ≠ 2 → ∃ q v, e.run? id = some q ∧ q.units[i]? = some v ∧
          (n = 0 ∨ (r.whole u = true ∧ u.positions.length ≤ u.at_ + n) → v.done = true) ∧
          (n ≠ 0 → v.at_ = u.at_ + n ∧ v.ran = u.ran + 1)) ∧
        (Op.succeeds d work = true → s.dev.flag .MA_PART_MODE_CHK_EN c.part = false →
          (f = none ∨ s.dev.flag .MA_PART_MODE_SHD_EN c.part = false) →
          e.cmds = s.dev.cmds ∧ e.link = s.dev.link ∧ e.reg .MA_ARR_CHECKS arr = s.dev.reg .MA_ARR_CHECKS arr) ∧
        (Op.succeeds d work = false → e.failed id))) ∧
    (∀ (i : Nat) (u : LUnit) (g : Region), s.dev.unit? id i = some (c, r, u) → r.tiled u = some g →
      u.seen < r.storedCols u → u.done = false → s.dev.skMay u.arr c.part = true →
      Completes (.compaction id i) s (fun e => s.dev.noneEnds e ∧
        (Op.succeeds s.dev (compactTile id i c r u g) = true → e.cmds = s.dev.cmds ∧ e.link = s.dev.link ∧
          ∃ q v, e.run? id = some q ∧ q.units[i]? = some v ∧ v.seen = u.seen + 1 ∧ u.positions <+: v.positions) ∧
        (Op.succeeds s.dev (compactTile id i c r u g) = false → e.failed id))) ∧
    (∀ (arr : Fin 152) (i : Nat) (g : Region) (h : Fin 2) (u0 : LUnit) (q : LayerRun) (u : LUnit),
      s.dev.unit? id i = some (c, r, u0) → s.dev.stageNext c r arr i = some (h, q, u) →
      (r.entries[u.entry]?).bind LEntry.weights = some g →
      let (w, shape) := (s.dev.tileWidth c.part, s.dev.shape c.part)
      Completes (.weightChunkStage id arr i) s (fun e => s.dev.noneEnds e ∧
        (Op.succeeds s.dev (stageWeights id i c q u g h shape w) = true → e.cmds = s.dev.cmds ∧ e.link = s.dev.link ∧
          (∃ k : Chunk, e.arr.chunks = s.dev.arr.chunks ++ [k] ∧ k.id = id ∧ k.arr = u.arr ∧ k.half = h ∧
            k.positions = u.window u.ran w ∧ k.cols = q.away u) ∧
          ∃ p v, e.run? id = some p ∧ p.units[i]? = some v ∧ v.staged = u0.staged + 1) ∧
        (Op.succeeds s.dev (stageWeights id i c q u g h shape w) = false → e.failed id))) ∧
    (∀ (i : Nat) (b : TBlock), c.running = true → r.blocks[i]? = some b → b.done = false →
      let k := skOf b.arr
      (b.half = none → (s.dev.tbufs k).contains (s.dev.nextHalf k) = false → s.dev.skMay b.arr c.part = true →
        Completes (.transposeBlock id i) s (fun e => s.dev.noneEnds e ∧
          (Op.succeeds s.dev (fillBlock id i c r b) = true → e.cmds = s.dev.cmds ∧ e.link = s.dev.link ∧
            e.nextHalf k ≠ s.dev.nextHalf k ∧
            ∃ q v, e.run? id = some q ∧ q.blocks[i]? = some v ∧ v.half = some (s.dev.nextHalf k) ∧ v.done = false) ∧
          (Op.succeeds s.dev (fillBlock id i c r b) = false → e.failed id))) ∧
      (∀ h, b.half = some h → (s.dev.tbufs k).length ≠ 2 ∨ h = s.dev.nextHalf k →
        Completes (.transposeBlock id i) s (fun e => s.dev.quietly e ∧ s.dev.bumped e .SK_TRANSPOSE_BLOCKS 1 k ∧
          ∃ q v, e.run? id = some q ∧ q.blocks[i]? = some v ∧ v.done = true ∧ v.data = b.data))) ∧
    (∀ t, c.running = true → s.dev.ring.running = true → r.deadline = some t → t ≤ s.dev.count →
      s.dev.flag .TIER_PART_CFG_COPPICE_EN c.part = false → r.waits = [] →
      let missed := (List.range r.entries.length).filter (fun e =>
        r.units.any (fun u => u.entry == e && u.what == 0) && !r.met c e)
      Completes (.fetchDeadline id) s (fun e =>
        (∃ q, e.run? id = some q ∧ q.deadline = none ∧ q.waits = missed ∧ q.units = r.units ∧
          q.missAt = (if missed = [] then r.missAt else some t)) ∧
        s.dev.bumped e .TIER_FETCH_STAT_WAITED missed.length c.part ∧
        (missed ≠ [] → s.dev.posted e .TIER_FETCH_LATE (fun _ => True)) ∧
        (missed = [] → e.link = s.dev.link) ∧ e.mem = s.dev.mem ∧ s.dev.noneEnds e))) ∧
  (∀ (d : Dev) (id : Nat) (arr : Fin 152) (shadow : Bool) (column row outCol : Nat) (k : Cmd),
    d.cmd? id = some k → k.ended = false →
    let e := d.checkFails id arr shadow column row outCol
    let first := !(d.run? id).any (fun r => r.faults.contains (arr.val, shadow))
    d.bumped e (if shadow then .MA_ARR_CHECKS_SHD_FAIL else .MA_ARR_CHECKS_CHK_FAIL) 1 arr ∧ e.failing id .faultData ∧
    e.flag .MA_ARR_FAULT_VALID arr = true ∧
    (d.flag .MA_ARR_FAULT_VALID arr = true → e.reg .MA_ARR_FAULT arr = d.reg .MA_ARR_FAULT arr) ∧
    (d.flag .MA_ARR_FAULT_VALID arr = false → e.f .MA_ARR_FAULT_KIND arr = b2n shadow ∧ e.f .MA_ARR_FAULT_ROW arr = row % 64 ∧
      e.f .MA_ARR_FAULT_COLUMN arr = (if shadow then column % 256 else 255)) ∧
    (first = true → ∃ x : Report, .report x ∈ e.link.held.drop d.link.held.length ∧
      x.code = (if shadow then .MA_SHADOW else .MA_CHECKSUM) ∧ x.status = Status.faultData.num ∧
      x.index = arr.val * 2 ^ 40 + (e.reg .MA_ARR_FAULT arr).toNat % 2 ^ 40) ∧
    (first = false → ∀ x : Report, .report x ∈ e.link.held.drop d.link.held.length → x.code = .ERR_RATE))

/-- The Borer's commands complete. BORER_SAMPLE, while the records held leave room, takes the first waiting sample of a slot: on
a slot that is off nothing else changes; a sample for a sealed step is counted as late, and reported for the first of a step; any
other goes up by one in its step's histogram, or is lost where that step was never opened. MA_BR_CFG_ENABLE enables a slot: its
settings are as written, its window and waiting samples are gone, it begins the histogram of the step in progress and it proposes
the fallback; disabling leaves what it holds, and the commands in flight feed it no more; other changes while enabled are
refused. A read of MA_BR_HDATA answers the selected count and advances BIN unless ZEROS is set. -/
def Obligations.BorerCommandsAct : Prop :=
  ∀ (s : State) (slot : Fin 64),
    (∀ x, s.dev.stalled = false → s.dev.borer.waiting.find? (fun x => x.slot == slot.val) = some x →
      let step := s.dev.f .RING_STEP_STEP x.part
      Completes (.borerSample slot) s (fun e =>
        e.borer.waiting = s.dev.borer.waiting.erase x ∧ e.mem = s.dev.mem ∧ e.cmds = s.dev.cmds ∧
        (s.dev.brOn slot x.part = false → e.regs = s.dev.regs ∧ e.borer.hists = s.dev.borer.hists ∧ e.link = s.dev.link) ∧
        (s.dev.brOn slot x.part = true → s.dev.brSealed x.part x.step = true →
          s.dev.bumped e .MA_BR_STAT_LATE 1 slot ∧ e.flag .PART_DET_EVENTS_BORER_LATE x.part = true ∧
          e.borer.hists = s.dev.borer.hists ∧
          (SMap.get 0 s.dev.borer.late slot = step + 1 → e.link = s.dev.link) ∧
          (SMap.get 0 s.dev.borer.late slot ≠ step + 1 → SMap.get 0 e.borer.late slot = step + 1 ∧
            s.dev.posted e .BORER_LATE (fun r => r.part = some x.part))) ∧
        (s.dev.brOn slot x.part = true → s.dev.brSealed x.part x.step = false → e.regs = s.dev.regs ∧ e.link = s.dev.link ∧
          (s.dev.hist? slot x.step = none → e.borer.hists = s.dev.borer.hists) ∧
          (∀ h, s.dev.hist? slot x.step = some h → ∃ g, e.hist? slot x.step = some g ∧ g.closed = h.closed ∧
            (∀ b, x.expo = some b → SMap.get 0 g.bins b = min (SMap.get 0 h.bins b + 1) (2 ^ 32 - 1) ∧ g.zeros = h.zeros ∧
              ∀ a, a ≠ b → SMap.get 0 g.bins a = SMap.get 0 h.bins a) ∧
            (x.expo = none → g.zeros = min (h.zeros + 1) (2 ^ 32 - 1) ∧ g.bins = h.bins))))) ∧
    (∀ (ap : Aperture) (v : BitVec 64), s.dev.accepts ap .MA_BR_CFG slot = true →
      let kept := Fld.MA_BR_CFG_ENABLE.put (v &&& 0xFFFFFFFF#64 &&& BitVec.ofNat 64 Reg.MA_BR_CFG.spec.rw) 1
      (s.dev.flag .MA_BR_CFG_ENABLE slot = false → v.getLsbD 0 = true →
        Completes (.maBrCfgEnable ap slot v) s (fun e =>
          e.reg .MA_BR_CFG slot = written .MA_BR_CFG (s.dev.reg .MA_BR_CFG slot) (v &&& 0xFFFFFFFF#64) ∧
          (∀ h, h ∈ e.borer.hists ∧ h.slot = slot ↔
            h = ⟨slot, e.f .RING_STEP_STEP (e.f .MA_BR_CFG_PARTITION slot), false, [], 0, false⟩) ∧
          (∀ h, h.slot ≠ slot.val → (h ∈ e.borer.hists ↔ h ∈ s.dev.borer.hists)) ∧ (∀ x ∈ e.borer.waiting, x.slot ≠ slot) ∧
          e.f .MA_BR_PROP_FORMAT slot = e.f .MA_BR_CFG_FALLBACK slot ∧ e.flag .MA_BR_PROP_FALLBACK_USED slot = true ∧
          e.f .MA_BR_PROP_D slot = 0 ∧ e.mem = s.dev.mem ∧ e.link = s.dev.link ∧
          s.dev.regsBut e [Reg.code .MA_BR_CFG slot 0, Reg.code .MA_BR_PROP slot 0])) ∧
      (s.dev.flag .MA_BR_CFG_ENABLE slot = true → kept = s.dev.reg .MA_BR_CFG slot → v.getLsbD 0 = true →
        Completes (.maBrCfgEnable ap slot v) s (fun e => s.dev.same e)) ∧
      (s.dev.flag .MA_BR_CFG_ENABLE slot = true → kept = s.dev.reg .MA_BR_CFG slot → v.getLsbD 0 = false →
        Completes (.maBrCfgEnable ap slot v) s (fun e =>
          e.flag .MA_BR_CFG_ENABLE slot = false ∧ e.borer = s.dev.borer ∧
          (∀ r ∈ e.arr.runs, ∀ c, s.dev.cmd? r.id = some c → c.bslot = slot → r.feed = false) ∧
          s.dev.regsBut e [Reg.code .MA_BR_CFG slot 0] ∧ e.mem = s.dev.mem ∧ e.link = s.dev.link)) ∧
      (s.dev.flag .MA_BR_CFG_ENABLE slot = true → kept ≠ s.dev.reg .MA_BR_CFG slot →
        Completes (.maBrCfgEnable ap slot v) s (fun e =>
          s.dev.posted e .FAULT_PROT (fun r => r.address = Reg.MA_BR_CFG.addrOf slot 0) ∧ s.dev.restTold e ∧
          e.reg .MA_BR_CFG slot = s.dev.reg .MA_BR_CFG slot))) ∧
    (∀ ap : Aperture, s.dev.answers ap (Reg.MA_BR_HDATA.addrOf 0 0) = true →
      Completes (.maBrHdata ap) s (fun e =>
        e.out = s.dev.out ++ [.readData 4 (BitVec.ofNat 64 s.dev.brHdata)] ∧
        e.f .MA_BR_HSEL_BIN = (if s.dev.flag .MA_BR_HSEL_ZEROS = true then s.dev.f .MA_BR_HSEL_BIN
          else (s.dev.f .MA_BR_HSEL_BIN + 1) % 256) ∧
        s.dev.regsBut e [Reg.code .MA_BR_HSEL 0 0] ∧ e.mem = s.dev.mem ∧ e.link = s.dev.link ∧ e.borer = s.dev.borer))

/-! ## The Exchange Engine -/

/-- The Exchange Engine's commands complete while the records held leave room, and none of them ends a command. EXCHANGE and
COMBINE hand over the next member's share in rotated order; once every part is complete they write their object and are ready
unless a cause of failure is met. XE_BILLET lets a held billet that can go on go first, holds a delivered one for which no
context is free, counts one of a closed exchange as late and reports the first, opens an early context for a new exchange, and
stores a billet at its place in its message's buffer, whose failing store fails the message. SEGMENT_HEADER accepts a source's
whole header, VECTOR_WRITE takes the next vector of a message, which a whole message always has, or the part fails. XE_XID_CTRL
clears just one closed bit. -/
def Obligations.ExchangeCommandsAct : Prop :=
  ∀ (s : State), (s.dev.stalled = false →
    (∀ (id : Nat) (c : Cmd) (x : XCtx), s.dev.cmd? id = some c → s.dev.xeOf id = some x → c.running = true → c.ready = false →
      (∀ r, x.sent.length < c.members → (rotated c).find? (fun r => !x.sent.contains r) = some r →
        let sends := fun (e : Dev) => s.dev.noneEnds e ∧ ∃ y, e.xeOf id = some y ∧ y.sent = x.sent ++ [r]
        (c.dir = 0 → Completes (.exchange id) s sends) ∧ (c.dir = 1 → Completes (.combine id) s sends)) ∧
      (c.members ≤ x.sent.length → (List.range c.members).all (s.dev.partDone c x) = true →
        (c.dir = 0 → Completes (.exchange id) s (fun e => s.dev.noneEnds e ∧
          (∃ k, e.cmd? id = some k ∧ (k.ready = true ↔ k.causes = [])) ∧
          (Op.succeeds s.dev (receivePlan c x) = false → e.failed id))) ∧
        (c.dir = 1 → Completes (.combine id) s (fun e => s.dev.noneEnds e ∧
          (Op.succeeds s.dev (combineWrite c x) = true → e.readied id) ∧
          (Op.succeeds s.dev (combineWrite c x) = false → e.failed id))))) ∧
    (∀ a, s.dev.xe.held.find? (fun a => s.dev.xeCanTake a.b) = some a → Completes .xeBillet s (fun e =>
      e.xe.held = s.dev.xe.held.erase a ∧ e.fab.inbox = s.dev.fab.inbox ∧ s.dev.noneEnds e)) ∧
    (∀ (a : Arrival), s.dev.xe.held.find? (fun a => s.dev.xeCanTake a.b) = none →
      s.dev.fab.inbox.find? (fun a => a.port == 36) = some a →
      let dir := bits (bTag a.b) 23 1
      let xid := bits (bTag a.b) 14 9
      let index := bits (bTag a.b) 0 14
      let d := ((s.dev.updFab (fun f => { f with inbox := f.inbox.erase a })).addF .XE_BILLETS_RX_RX 1).consume a
      Completes .xeBillet s (fun e =>
        e.fab.inbox = s.dev.fab.inbox.erase a ∧ s.dev.bumped e .XE_BILLETS_RX_RX 1 ∧ s.dev.noneEnds e ∧
        (s.dev.xeCanTake a.b = false → e.xe = { s.dev.xe with held := s.dev.xe.held ++ [a] } ∧
          e.fab.slots = s.dev.fab.slots ∧ s.dev.bumped e .XE_HELD_EVENTS 1 ∧ e.mem = s.dev.mem ∧ e.cmds = s.dev.cmds) ∧
        (s.dev.xeCanTake a.b = true → e.fab = d.fab) ∧
        (s.dev.partOf (bJob a.b) = none → s.dev.bumped e .XE_LATE_LATE 1 ∧ e.xe = s.dev.xe ∧ e.mem = s.dev.mem) ∧
        (∀ p, s.dev.partOf (bJob a.b) = some p → s.dev.xeCanTake a.b = true →
          (s.dev.xidClosed p dir xid = true → s.dev.bumped e .XE_LATE_LATE 1 ∧ e.xe.ctxs = s.dev.xe.ctxs ∧
            e.mem = s.dev.mem ∧ e.cmds = s.dev.cmds ∧
            ((p, dir, xid) ∈ s.dev.xe.lates → e.link = s.dev.link) ∧
            ((p, dir, xid) ∉ s.dev.xe.lates → s.dev.posted e .XE_LATE (fun r => r.part = some p))) ∧
          (s.dev.xidClosed p dir xid = false → s.dev.xe? p dir xid = none → ∃ y, e.xe? p dir xid = some y ∧
            y.cmd = none ∧ y.since = s.dev.count ∧ y.serial = s.dev.xe.serial) ∧
          (∀ x src, s.dev.xidClosed p dir xid = false → s.dev.xe? p dir xid = some x →
            d.nodeRank x.part (bSrc a.b) = some src → (∀ c, x.cmd.bind s.dev.cmd? = some c → src < c.members) →
            let mine := fun (m : XMsg) => m.src == src && m.index == index
            (x.msgs.find? mine = none → ∃ y, e.xe? p dir xid = some y ∧
              y.msgs.map (fun m => (m.src, m.index)) = x.msgs.map (fun m => (m.src, m.index)) ++ [(src, index)]) ∧
            (∀ m, x.msgs.find? mine = some m → (m.buf = none ∨ bSeq a.b ∈ m.got) → e.xe = s.dev.xe ∧ e.mem = s.dev.mem) ∧
            (∀ m buf, x.msgs.find? mine = some m → m.buf = some buf → bSeq a.b ∉ m.got →
              (∀ g, d.lndStore buf (64 * bSeq a.b) (bPayload a.b) = .ok g → e.mem = g.mem ∧
                ∃ y, e.xe? p dir xid = some y ∧ { m with got := m.got ++ [bSeq a.b] } ∈ y.msgs) ∧
              (∀ er, d.lndStore buf (64 * bSeq a.b) (bPayload a.b) = .error er →
                ∃ y, e.xe? p dir xid = some y ∧ { m with buf := none, got := [] } ∈ y.msgs)))))) ∧
    (∀ (k src : Nat) (x : XCtx) (c : Cmd) (m : XMsg), s.dev.xe.ctxs.find? (fun x => x.serial == k) = some x →
      x.cmd = some c.id → s.dev.cmd? c.id = some c → c.running = true → m.buf ≠ none →
      (x.msgs.find? (fun m => m.src == src && m.index == 0) = some m → m.complete = true → (∀ h ∈ x.heads, h.src ≠ src) →
        Completes (.segmentHeader k src) s (fun e => s.dev.noneEnds e ∧
          (Op.succeeds s.dev (takeHeader k src c m) = true → ∃ y h, e.xe.ctxs.find? (fun x => x.serial == k) = some y ∧
            y.heads = x.heads ++ [h] ∧ h.src = src ∧
            (c.dir = 0 → c.members ≤ y.heads.length → e.flag .XE_LOCAL_VALID c.part = true ∧
              e.f .XE_LOCAL_LAYER c.part = c.xeLayer)) ∧
          (Op.succeeds s.dev (takeHeader k src c m) = false → e.failed c.id))) ∧
      (∀ (idx : Nat) (h : XHead), x.msgs.find? (fun m => m.src == src && m.index == idx) = some m →
        x.heads.find? (fun h => h.src == src) = some h → idx ≠ 0 → idx ≤ h.nData →
        Completes (.vectorWrite k src idx) s (fun e => s.dev.noneEnds e ∧
          (Op.succeeds s.dev (takeVector k src idx c m h) = true → ∃ y vs,
            e.xe.ctxs.find? (fun x => x.serial == k) = some y ∧ y.rows = x.rows ++ vs ∧ vs.length ≤ 1 ∧
            (m.complete = true → vs.length = 1) ∧
            ∀ v ∈ vs, v.1 = src ∧ v.2.1 = perMessage h.form.v * (idx - 1) + m.done) ∧
          (Op.succeeds s.dev (takeVector k src idx c m h) = false → e.failed c.id))))) ∧
    (∀ (ap : Aperture) (p : Fin 16) (v : BitVec 32), s.dev.accepts ap .XE_XID_CTRL p = true →
      let dir := bits v.toNat 9 1
      let xid := bits v.toNat 0 9
      (bit v.toNat 10 = true → Completes (.xeXidCtrl ap p v) s (fun e =>
        e.xidClosed p dir xid = false ∧
        (∀ d' x', d' < 2 → x' < 512 → (d', x') ≠ (dir, xid) → e.xidClosed p d' x' = s.dev.xidClosed p d' x') ∧
        s.dev.regsBut e [Reg.code .XE_XID_CLOSED p (dir * 8 + xid / 64)] ∧ e.xe.ctxs = s.dev.xe.ctxs)) ∧
      (bit v.toNat 10 = false → Completes (.xeXidCtrl ap p v) s (fun e => s.dev.same e)))

/-! ## Copies, placements and model swap -/

/-- The copy engine's commands complete while the records held leave room, and none of them ends a command. COPY moves bytes
between objects and host memory, naming the host's bytes in messages of Table 3.1, and is ready, or fails; COPY_STREAM hands its
segments to the Switch Core and is ready once all are accepted; LOAD_PROGRAM of a good image whose objects have buffers makes each
entry one part and is ready to commit, and one without a free buffer stays at its launch; PLACE is ready once its versions have
moved, and without MOVE it changes nothing else. -/
def Obligations.CopiesAndPlacementsRun : Prop :=
  ∀ (s : State) (id : Nat) (c : Cmd) (data : List Byte), s.dev.cmd? id = some c → c.running = true → c.ready = false →
    s.dev.stalled = false →
    (c.opcode = 7 → c.mode = 0 → Completes (.copy id data) s (fun e => s.dev.noneEnds e ∧
      (Op.succeeds s.dev (copyObject id c) = true → e.readied id ∧ e.out = s.dev.out ∧ e.link = s.dev.link) ∧
      (Op.succeeds s.dev (copyObject id c) = false → e.failed id))) ∧
    (c.opcode = 7 → c.mode = 1 → s.dev.canWriteHost = true → data.length = c.copyNeeds →
      let asked := s.dev.emitRead c.copyHost data.length
      Completes (.copy id data) s (fun e => s.dev.noneEnds e ∧ e.out = s.dev.out ++ memReads c.copyHost data.length ∧
        (Op.succeeds asked (copyIn id c data) = true → e.readied id ∧ e.link = s.dev.link) ∧
        (Op.succeeds asked (copyIn id c data) = false → e.failed id))) ∧
    (c.opcode = 7 → c.mode = 2 → s.dev.canWriteHost = true → Completes (.copy id data) s (fun e => s.dev.noneEnds e ∧
      e.mem.hbm = s.dev.mem.hbm ∧ e.mem.slab = s.dev.mem.slab ∧
      (Op.succeeds s.dev (copyOut id c) = true → e.readied id ∧ ∃ bs, e.out = s.dev.out ++ memWrites c.copyHost bs) ∧
      (Op.succeeds s.dev (copyOut id c) = false → e.failed id ∧ e.out = s.dev.out))) ∧
    (c.opcode = 7 → c.mode = 3 → c.passed = [] → s.dev.canWriteHost = true → data.length = c.streamBytes →
      let asked := s.dev.emitRead c.copyHost data.length
      Completes (.copyStream id data) s (fun e => s.dev.noneEnds e ∧ e.out = s.dev.out ++ memReads c.copyHost data.length ∧
        (Op.succeeds asked (streamOut id c data) = true → ∃ k, e.cmd? id = some k ∧ k.passed = [0] ∧
          (e.accepted id 0 = true → k.ready = true)) ∧
        (Op.succeeds asked (streamOut id c data) = false → e.failed id))) ∧
    (c.opcode = 7 → c.mode = 4 → c.passed = [] → Completes (.copyStream id data) s (fun e =>
      s.dev.noneEnds e ∧ e.out = s.dev.out ∧
      (Op.succeeds s.dev (streamOut id c data) = true → ∃ k, e.cmd? id = some k ∧ k.passed = [0] ∧
        (e.accepted id 0 = true → k.ready = true)) ∧
      (Op.succeeds s.dev (streamOut id c data) = false → e.failed id))) ∧
    (c.opcode = 7 → 3 ≤ c.mode → 0 ∈ c.passed → s.dev.accepted id 0 = true → Completes (.copyStream id data) s (fun e =>
      e.readied id ∧ e = { s.dev with cmds := e.cmds, pins := e.pins })) ∧
    (c.opcode = 10 → s.dev.canWriteHost = true → data.length = c.loadBytes →
      (imageEntries data = none → Completes (.loadProgram id data) s (fun e => e.failed id ∧ s.dev.noneEnds e ∧
        s.dev.posted e .TIER_SIZE (fun r => r.status = Status.faultData.num) ∧ e.mem = s.dev.mem ∧
        e.out = s.dev.out ++ memReads c.loadHost data.length)) ∧
      (∀ es, imageEntries data = some es →
        (es.any (fun x => s.dev.loadWaits id c.part x.1) = true → Completes (.loadProgram id data) s (fun e =>
          (∃ k, e.cmd? id = some k ∧ k.heldAt = some (c.heldAt.getD s.dev.count)) ∧
          e = { s.dev with cmds := e.cmds, pins := e.pins })) ∧
        (es.any (fun x => s.dev.loadWaits id c.part x.1) = false → Completes (.loadProgram id data) s (fun e =>
          (∃ k, e.cmd? id = some k ∧ k.ready = true ∧ k.parts = es.length ∧ k.heldAt = none) ∧ e.count = s.dev.count ∧
          e.mem.superseded = s.dev.mem.superseded ∧ e.mem.charges = s.dev.mem.charges ∧
          s.dev.bumped e .CMD_ACCT_WAIT_WAIT (s.dev.count - c.launchAt) c.queue ∧
          e.out = s.dev.out ++ memReads c.loadHost data.length)))) ∧
    (c.opcode = 8 → Completes (.place id) s (fun e => e.readied id ∧ s.dev.noneEnds e ∧ e.mem.places = s.dev.mem.places ∧
      (c.placeMove = false → e = { s.dev with cmds := e.cmds, pins := e.pins })))

/-- Model swap's commands complete while the records held leave room, and none of them ends a command. SWAP opens its context to
weight billets when its list passes R237, and fails with SWAP_LIST when it does not. WEIGHT_BILLET takes its billet from its
slot: it counts one that matches no context as an orphan and one already received as a duplicate, and records any other in its
segment. SWAP_VERIFY of an object whose segments have all arrived marks it verified, and the context ready with the last, or
fails the part. -/
def Obligations.SwapBuilds : Prop :=
  ∀ (s : State), s.dev.stalled = false →
    (∀ (id : Nat) (c : Cmd) (x : SwapCtx), s.dev.cmd? id = some c → c.running = true →
      s.dev.swaps.find? (fun x => x.id == id) = some x → x.open_ = false → s.dev.swap? x.ctx = some x →
      let bad := x.badEntry (c.outp 0) (s.dev.swaps.filter (fun y => y.id != id))
      (bad = none → Completes (.swap id) s (fun e => e.swap? x.ctx = some { x with open_ := true } ∧
        e = { s.dev with swaps := e.swaps, pins := e.pins })) ∧
      (∀ i, bad = some i → Completes (.swap id) s (fun e => e.failing id .faultData ∧ e.swaps = s.dev.swaps ∧
        s.dev.noneEnds e ∧ e.mem = s.dev.mem ∧ s.dev.posted e .SWAP_LIST (fun r => r.index = i)))) ∧
    (∀ a, s.dev.fab.inbox.find? (fun a => a.port == 42 && s.dev.weightReady a.b) = some a →
      Completes .weightBillet s (fun e => e.fab = (s.dev.taken a).fab ∧ s.dev.noneEnds e ∧
        (s.dev.swapFor a.b = none → s.dev.bumped e .TIER_SWAP_ORPHAN_ORPHAN 1 ∧ e.swaps = s.dev.swaps ∧
          e.mem = s.dev.mem ∧ e.cmds = s.dev.cmds) ∧
        (∀ x, s.dev.swapFor a.b = some x → s.dev.swap? x.ctx = some x →
          let key := (wStream a.b, wSeg a.b)
          let byte := wSeg a.b * 2097152 + 64 * bSeq a.b
          let got := ((x.segs.find? (fun g => g.stream == key.1 && g.seg == key.2)).map SwapSeg.got).getD []
          ((x.full.contains key || got.contains (bSeq a.b)) = true →
            s.dev.bumped e .TIER_SWAP_DUP_DUP 1 x.ctx ∧ e.swaps = s.dev.swaps ∧ e.mem = s.dev.mem ∧ e.cmds = s.dev.cmds) ∧
          ((x.full.contains key || got.contains (bSeq a.b)) = false → (∃ y, e.swap? x.ctx = some y ∧
            (got.length + 1 = bTotal a.b → y.full = x.full ++ [key] ∧ ∀ g ∈ y.segs, (g.stream, g.seg) ≠ key) ∧
            (got.length + 1 ≠ bTotal a.b → y.full = x.full ∧
              (⟨key.1, key.2, got ++ [bSeq a.b]⟩ : SwapSeg) ∈ y.segs)) ∧
            ((∀ n ∈ x.entries, ¬(n.stream = key.1 ∧ n.offset ≤ byte ∧ byte < n.offset + n.range.2)) →
              e.mem = s.dev.mem ∧ e.cmds = s.dev.cmds))))) ∧
    (∀ (k : Fin 4) (i : Nat) (x : SwapCtx) (n : SwapEntry) (c : Cmd), s.dev.swap? k = some x → x.entries[i]? = some n →
      s.dev.cmd? x.id = some c → c.running = true → x.open_ = true → n.verified = false → x.arrived n = true →
      Completes (.swapVerify k i) s (fun e => s.dev.noneEnds e ∧
        (Op.succeeds s.dev (verifyEntry k i n) = true → e.cmds = s.dev.cmds ∧ e.link = s.dev.link ∧
          ∃ y, e.swap? k = some y ∧
          y.entries[i]? = some { n with verified := true } ∧ s.dev.bumped e .TIER_SWAP_CTX_VERIFIED 1 k ∧
          (y.ready = true → e.flag .TIER_SWAP_CTX_READY k = true)) ∧
        (Op.succeeds s.dev (verifyEntry k i n) = false → e.failed x.id ∧ e.swaps = s.dev.swaps)))

/-! ## The memory tiers -/

/-- Failed accesses complete while the records held leave room. XU_FAULT of an address that does not translate is counted and
latched and fails the command, one that translates fails nothing. TIER_HBM_UE and TIER_SLAB_UE leave the line or word bad, count
and latch its address and fail the command they are made for; TIER_PHYS_RANGE reports an address beyond HBM and fails the
command. No byte of memory changes, and none ends a command. -/
def Obligations.FailedAccessesReported : Prop :=
  ∀ (s : State), s.dev.stalled = false →
    (∀ (id part : Nat) (va : BitVec 48) (write : Bool) (c : Cmd), s.dev.cmd? id = some c → c.running = true →
      Completes (.xuFault id part va write) s (fun e => e.mem.hbm = s.dev.mem.hbm ∧ e.mem.slab = s.dev.mem.slab ∧
        s.dev.noneEnds e ∧
        (∀ p v k w, (s.dev.translate c.part va.toNat write).2 = .error (.xlat p v k w) →
          s.dev.bumped e .XU_FAULT_CNT_FAULTS 1 p ∧ e.flag .XU_FAULT_VALID p = true ∧ e.failed id) ∧
        (∀ x, (s.dev.translate c.part va.toNat write).2 = .error x → e.failed id) ∧
        (∀ a, (s.dev.translate c.part va.toNat write).2 = .ok a → e.cmds = s.dev.cmds ∧ e.link = s.dev.link))) ∧
    (∀ (id : Option Nat) (part : Nat) (addr : BitVec 40), s.dev.alive id = true →
      (let line := addr.toNat / 64 * 64
       s.dev.physCheck line 64 = none → Completes (.tierHbmUe id part addr) s (fun e => s.dev.noneEnds e ∧
         line ∈ e.mem.hbmBad ∧ e.mem.hbm = s.dev.mem.hbm ∧ e.mem.slab = s.dev.mem.slab ∧
         s.dev.bumped e .TIER_HBM_ERR_UNCORRECTABLE 1 (bits line 12 3) ∧
         e.reg .TIER_UE_ADDR = BitVec.ofNat 64 line ∧ (∀ i, id = some i → e.failed i))) ∧
      (hbmEnd ≤ addr.toNat → Completes (.tierPhysRange id part addr) s (fun e => s.dev.noneEnds e ∧
         s.dev.posted e .TIER_PHYS_RANGE (fun r => r.address = addr.toNat) ∧ e.mem = s.dev.mem ∧
         (∀ i, id = some i → e.failed i))) ∧
      (addr.toNat < hbmEnd → Completes (.tierPhysRange id part addr) s (fun e => s.dev.same e))) ∧
    (∀ (id : Option Nat) (part : Nat) (arr : Fin 152) (off : BitVec 22), s.dev.alive id = true → s.dev.arrRetired arr = false →
      let at_ := off.toNat / 8 * 8
      Completes (.tierSlabUe id part arr off) s (fun e => s.dev.noneEnds e ∧
        slabKey arr at_ ∈ e.mem.slabBad ∧ e.mem.hbm = s.dev.mem.hbm ∧ e.mem.slab = s.dev.mem.slab ∧
        s.dev.bumped e .TIER_SLAB_ERR_UNCORRECTABLE 1 ∧
        e.reg .TIER_UE_ADDR = BitVec.ofNat 64 (2 ^ 40 + arr * 4194304 + at_) ∧ (∀ i, id = some i → e.failed i)))

/-- The Landing pools' commands complete. LANDING_ALLOC, while the records held leave room, grants the buffer that R231's rule
gives: it is held, FREE falls and USED rises; a refusal is counted, holds nothing and fails the part. LANDING_RETURN of a buffer that its user is done with
frees it, or, over a retired frame, retires it; one still in use stays. TIER_LND_POOL places a pool anew with every buffer free
but those over retired frames, and is refused while any partition is valid; TIER_LND_PART is refused where the reservations
would exceed the pool. -/
def Obligations.LandingPools : Prop :=
  ∀ (s : State) (k : Fin 8),
    (∀ (p : Fin 16) (id : Nat) (c : Cmd), s.dev.stalled = false → s.dev.cmd? id = some c → c.running = true → c.part = p →
      (∀ i, s.dev.lndRule p k = .ok i → Completes (.landingAlloc p k id) s (fun e =>
        e.lnd.held = s.dev.lnd.held ++ [⟨k, i, p, .command id, false⟩] ∧
        e.f .TIER_LND_FREE_FREE k = s.dev.f .TIER_LND_FREE_FREE k - 1 ∧ s.dev.bumped e .TIER_LND_USE_USED 1 p k ∧
        s.dev.regsBut e [Reg.code .TIER_LND_FREE k 0, Reg.code .TIER_LND_USE p k] ∧ s.dev.restSame { e with lnd := s.dev.lnd })) ∧
      (∀ st, s.dev.lndRule p k = .error st → Completes (.landingAlloc p k id) s (fun e =>
        e.lnd = s.dev.lnd ∧ s.dev.bumped e .TIER_LND_USE_FAILS 1 p k ∧ e.failed id ∧
        e.f .TIER_LND_FREE_FREE k = s.dev.f .TIER_LND_FREE_FREE k ∧
        s.dev.posted e (if st = .quota then .LND_QUOTA else .LND_EMPTY) (fun r => r.status = st.num ∧ r.index = k)))) ∧
    (∀ (idx : Nat) (b : LndBuf), s.dev.lnd.held.find? (fun b => b.pool == k.val && b.idx == idx) = some b →
      (s.dev.lndDone b = true → Completes (.landingReturn k idx) s (fun e =>
        e.lnd.held = s.dev.lnd.held.erase b ∧
        e.f .TIER_LND_USE_USED b.part k = s.dev.f .TIER_LND_USE_USED b.part k - 1 ∧
        (b.retiring = false → e.f .TIER_LND_FREE_FREE k = (s.dev.f .TIER_LND_FREE_FREE k + 1) % 2 ^ 17 ∧
          e.lnd.retired = s.dev.lnd.retired) ∧
        (b.retiring = true → e.f .TIER_LND_FREE_FREE k = s.dev.f .TIER_LND_FREE_FREE k ∧
          s.dev.bumped e .ERR_LND_RETIRED_RETIRED 1 k ∧ e.lnd.retired = s.dev.lnd.retired ++ [(k.val, idx)]))) ∧
      (s.dev.lndDone b = false → Completes (.landingReturn k idx) s (fun e => s.dev.same e))) ∧
    (∀ (ap : Aperture) (v : BitVec 64), s.dev.accepts ap .TIER_LND_POOL k = true →
      (s.dev.anyValid = false → Completes (.tierLndPool ap k v) s (fun e =>
        e.reg .TIER_LND_POOL k = written .TIER_LND_POOL (s.dev.reg .TIER_LND_POOL k) v ∧
        e.f .TIER_LND_FREE_FREE k = e.lndCount k - (e.lnd.retired.filter (fun b => b.1 == k.val)).length ∧
        e.f .TIER_LND_FREE_LOW k = e.f .TIER_LND_FREE_FREE k ∧
        s.dev.regsBut e [Reg.code .TIER_LND_POOL k 0, Reg.code .TIER_LND_FREE k 0, Reg.code .ERR_LND_RETIRED k 0])) ∧
      (s.dev.anyValid = true → Completes (.tierLndPool ap k v) s (fun e =>
        s.dev.posted e .FAULT_PROT (fun r => r.address = Reg.TIER_LND_POOL.addrOf k 0) ∧ s.dev.restTold e ∧
        e.reg .TIER_LND_POOL k = s.dev.reg .TIER_LND_POOL k))) ∧
    (∀ (ap : Aperture) (p : Fin 16) (v : BitVec 32), s.dev.accepts ap .TIER_LND_PART p = true →
      let others := sumNat (((List.range 16).filter (· ≠ p.val)).map (fun q => s.dev.f .TIER_LND_PART_RESV q k))
      (others + v.toNat % 65536 ≤ s.dev.lndCount k → Completes (.tierLndPart ap p k v) s (fun e =>
        e.reg .TIER_LND_PART p k = written .TIER_LND_PART (s.dev.reg .TIER_LND_PART p k) (v.zeroExtend 64) ∧
        s.dev.regsBut e [Reg.code .TIER_LND_PART p k] ∧ s.dev.restSame e)) ∧
      (s.dev.lndCount k < others + v.toNat % 65536 → Completes (.tierLndPart ap p k v) s (fun e =>
        s.dev.posted e .FAULT_PROT (fun r => r.address = Reg.TIER_LND_PART.addrOf p k) ∧ s.dev.restTold e ∧
        e.reg .TIER_LND_PART p k = s.dev.reg .TIER_LND_PART p k)))

/-- TIER_OBJTAB_CLEAR completes on a partition without a job: its placements stop being charged and BUSY is set until the
clear is done; on a valid partition it is refused. OBJTAB_CLEAR_DONE completes: every byte of the table outside retired frames
reads zero, every other byte as before, and BUSY is 0. NMA_FOLD of a ready command's delta completes while the records held
leave room: the delta is folded into the claimed buffer, or the command fails; it never commits. -/
def Obligations.ObjectTablesAndFolds : Prop :=
  ∀ (s : State),
    (∀ (ap : Aperture) (p : Fin 16) (v : BitVec 64), s.dev.accepts ap .TIER_OBJTAB p = true →
      (s.dev.valid p = false → bit v.toNat 45 = true → Completes (.tierObjtabClear ap p v) s (fun e =>
        e.flag .TIER_OBJTAB_BUSY p = true ∧ (p.val, e.entryAddr p 0, e.tableSize p * 32) ∈ e.mem.clearing ∧
        (∀ c ∈ e.mem.charges, c.part ≠ p) ∧ e.mem.hbm = s.dev.mem.hbm ∧ e.mem.slab = s.dev.mem.slab ∧
        s.dev.regsBut e [Reg.code .TIER_OBJTAB p 0])) ∧
      (s.dev.valid p = true → Completes (.tierObjtabClear ap p v) s (fun e =>
        s.dev.posted e .FAULT_PROT (fun r => r.address = Reg.TIER_OBJTAB.addrOf p 0) ∧ s.dev.restTold e ∧
        e.reg .TIER_OBJTAB p = s.dev.reg .TIER_OBJTAB p))) ∧
    (∀ (p : Fin 16) (q base n : Nat), s.dev.mem.clearing.find? (fun c => c.1 == p.val) = some (q, base, n) →
      Completes (.objtabClearDone p) s (fun e =>
        (∀ a, base ≤ a → a < base + n → a / 65536 ∉ s.dev.mem.frames → SMap.get 0 e.mem.hbm a = 0) ∧
        (∀ a, (a < base ∨ base + n ≤ a ∨ a / 65536 ∈ s.dev.mem.frames) →
          SMap.get 0 e.mem.hbm a = SMap.get 0 s.dev.mem.hbm a) ∧
        e.flag .TIER_OBJTAB_BUSY p = false ∧ (∀ c ∈ e.mem.clearing, c.1 ≠ p.val) ∧ e.mem.slab = s.dev.mem.slab ∧
        s.dev.regsBut e [Reg.code .TIER_OBJTAB p 0, Reg.code .TIER_USE p 0])) ∧
    (∀ (id obj : Nat) (c : Cmd) (x : Delta), s.dev.stalled = false → s.dev.cmd? id = some c → c.running = true →
      c.ready = true → c.deltas.find? (fun x => x.obj == obj && !x.folded) = some x → s.dev.foldBlocked c obj = false →
      Completes (.nmaFold id obj) s (fun e => s.dev.noneEnds e ∧
        (Op.succeeds s.dev (foldDelta c x) = true → ∃ k, e.cmd? id = some k ∧ ∀ y ∈ k.deltas, y.obj = obj → y.folded = true) ∧
        (Op.succeeds s.dev (foldDelta c x) = false → e.failed id)))

/-! ## The links and the Switch Core -/

/-- The link commands complete. LINK_TRAINING_START takes a DOWN or MISWIRED link to TRAINING, from stage 5 on and outside a warm
reset, and changes no link in another state; LINK_TRAINED goes on to DISCOVERY with the lanes in service, or back to DOWN where
fewer than two are left; DISCOVERY measures the delay from an echo, takes a link whose far end is not the one R243 requires to
MISWIRED, and brings a matched and measured link UP. LINK_DOWN of an UP link sets its cause, counts it, and leaves no billet that
came by it or waits for it; a link that trains goes DOWN with its cause and nothing reported, and a MISWIRED one whose far end
retrains goes to TRAINING. -/
def Obligations.LinksTrainAndFail : Prop :=
  ∀ (s : State),
    (∀ l : Fin 36,
      (s.dev.boot.cold = false → s.dev.boot.halted = false → 5 ≤ s.dev.stage → s.dev.flag .DEV_STATUS_WARM_BUSY = false →
        s.dev.linkHeld l = false → (s.dev.linkState l = 0 ∨ s.dev.linkState l = 4) →
        Completes (.linkTrainingStart l) s (fun e =>
          e.linkState l = 1 ∧ (∀ k : Fin 36, k ≠ l → e.linkState k = s.dev.linkState k) ∧ e.link = s.dev.link ∧
          e.cmds = s.dev.cmds ∧ e.mem = s.dev.mem)) ∧
      (s.dev.stage < 5 ∨ s.dev.flag .DEV_STATUS_WARM_BUSY = true ∨ s.dev.linkHeld l = true ∨
        (s.dev.linkState l ≠ 0 ∧ s.dev.linkState l ≠ 4) → Completes (.linkTrainingStart l) s (fun e => s.dev.same e))) ∧
    (∀ (l : Fin 36) (lanes : BitVec 4) (t : BitVec 64), s.dev.linkState l = 1 →
      let ok := Nat.land lanes.toNat (15 - s.dev.f .FAB_LINK_STATUS_RETIRED l)
      Completes (.linkTrained l lanes t) s (fun e =>
        (2 ≤ popCount ok 4 → e.linkState l = 2 ∧ e.f .FAB_LINK_STATUS_LANES l = ok ∧
          s.dev.bumped e .FAB_LINK_TX_TX 1 l ∧ ∃ b, e.out = s.dev.out ++ [.billet l b]) ∧
        (popCount ok 4 < 2 → e.linkState l = 0 ∧ e.f .FAB_LINK_STATUS_LANES l = 0 ∧ s.dev.restSame e) ∧
        e.link = s.dev.link ∧ e.mem = s.dev.mem)) ∧
    (∀ (t : BitVec 64) (b : DiscIn) (rest : List DiscIn), s.dev.fab.disc = b :: rest → s.dev.linkState b.link = 2 →
      let far := bPay b.b 0 0 16
      let wired := far = s.dev.linkPeer b.link ∧ s.dev.wiredTo b.link (bPay b.b 2 0 8) (bPay b.b 3 0 3) = true
      Completes (.discovery t) s (fun e => e.f .FAB_LINK_STATUS_PEER b.link = far ∧
        (bPay b.b 3 7 1 = 1 → SMap.get 0 e.ring.delay b.link = (b.stamp - bPay b.b 12 0 64) / 2 % 2 ^ 20 + 1 ∧
          e.linkState b.link = (if b.link ∈ s.dev.fab.matched then 3 else 2)) ∧
        (bPay b.b 3 7 1 = 0 → ¬wired → e.linkState b.link = 4 ∧ s.dev.posted e .FAB_MISWIRE (fun r => r.address = far)) ∧
        (bPay b.b 3 7 1 = 0 → wired → b.link ∈ e.fab.matched ∧
          e.linkState b.link = (if SMap.get 0 s.dev.ring.delay b.link = 0 then 2 else 3)))) ∧
    (∀ (l : Fin 36) (cause : Fin 8),
      (cause.val = 7 ∨ s.dev.linkState l = 5 → Completes (.linkDown l cause) s (fun e => s.dev.same e)) ∧
      (cause.val ≠ 7 → s.dev.linkState l = 3 → Completes (.linkDown l cause) s (fun e =>
        e.linkState l = 0 ∧ e.f .FAB_LINK_STATUS_CAUSE l = cause ∧ s.dev.bumped e .FAB_LINK_ERR_DOWNS 1 l ∧
        (∀ x ∈ e.fab.slots, x.input ≠ l ∧ ∀ k ∈ x.copies, k.port ≠ l) ∧
        (∃ r : Report, .report r ∈ e.link.held ∧ r.code = .FAB_LINK_DOWN ∧ r.index = cause) ∧
        e.cmds = s.dev.cmds ∧ e.mem = s.dev.mem)) ∧
      (cause.val ≠ 7 → s.dev.linkState l = 1 ∨ s.dev.linkState l = 2 ∨ (s.dev.linkState l = 4 ∧ cause.val ≠ 4) →
        Completes (.linkDown l cause) s (fun e => e.linkState l = 0 ∧ e.f .FAB_LINK_STATUS_CAUSE l = cause ∧
          e.link = s.dev.link ∧ e.cmds = s.dev.cmds ∧ e.mem = s.dev.mem)) ∧
      (cause.val = 4 → s.dev.linkState l = 4 → Completes (.linkDown l cause) s (fun e => e.linkState l = 1 ∧
        e.link = s.dev.link ∧ e.cmds = s.dev.cmds ∧ e.mem = s.dev.mem)))

/-- The Switch Core's commands complete. BILLET_RECEIVE on an UP link: an idle billet is nothing, one whose CRC fails takes the
link down, a malformed one is counted and stored nowhere, and any other takes a slot with the copies of its route; a link in
DISCOVERY takes DISCOVERY billets. SWITCH_OUTPUT_GRANT passes the billet that R266 picks over the link, spending a credit, or to
the internal port, where it keeps its slot; each eleventh slot of a link is followed by a control word, and an idle slot counts
as one. LINK_CONTROL_WORD returns the credits that RUNNING has advanced by. INTERNAL_DELIVERY, while the records held leave room,
passes a billet to its engine where its job is held here, and otherwise rejects and counts it, and its slot is free. -/
def Obligations.SwitchCoreMovesBillets : Prop :=
  ∀ (s : State),
    (∀ (l : Fin 36) (b : Billet) (stamp : BitVec 64) (since : BitVec 16),
      (b = 0 → Completes (.billetReceive l b stamp since) s (fun e => s.dev.same e)) ∧
      (b ≠ 0 → bits b.toNat 160 32 ≠ bCrc b →
        (s.dev.linkState l = 2 ∨ s.dev.linkState l = 3 → Completes (.billetReceive l b stamp since) s (fun e =>
          e.linkState l = 0 ∧ e.f .FAB_LINK_STATUS_CAUSE l = 2)) ∧
        (s.dev.linkState l ≠ 2 → s.dev.linkState l ≠ 3 → Completes (.billetReceive l b stamp since) s (fun e => s.dev.same e))) ∧
      (b ≠ 0 → bits b.toNat 160 32 = bCrc b →
        (s.dev.malformed b = true ∨ (bType b = 2 ∧ s.dev.linkState l ≠ 2) →
          Completes (.billetReceive l b stamp since) s (fun e => s.dev.bumped e .FAB_DROP_MALFORMED 1 ∧
            s.dev.bumped e .FAB_LINK_RX_RX 1 l ∧ e.linkState l = s.dev.linkState l ∧ e.fab.disc = s.dev.fab.disc ∧
            (∀ x ∈ e.fab.slots, ∃ y ∈ s.dev.fab.slots, x = { y with shared := x.shared }) ∧
            (s.dev.linkState l ≠ 3 → e.fab = s.dev.fab))) ∧
        (s.dev.malformed b = false → bType b = 2 → s.dev.linkState l = 2 →
          Completes (.billetReceive l b stamp since) s (fun e => s.dev.bumped e .FAB_LINK_RX_RX 1 l ∧
            e.fab = { s.dev.fab with disc := s.dev.fab.disc ++ [⟨l, b, stamp.toNat⟩] } ∧ e.link = s.dev.link)) ∧
        (s.dev.malformed b = false → bType b ≠ 2 → s.dev.linkState l ≠ 3 →
          Completes (.billetReceive l b stamp since) s (fun e => s.dev.bumped e .FAB_LINK_RX_RX 1 l ∧
            e.fab = s.dev.fab ∧ e.link = s.dev.link)) ∧
        (∀ shared, s.dev.malformed b = false → bType b ≠ 2 → s.dev.linkState l = 3 →
          s.dev.place? l (bTc b) (bVc b) = some shared → (s.dev.route l b).filterMap (fun x => x) ≠ [] →
          Completes (.billetReceive l b stamp since) s (fun e => s.dev.bumped e .FAB_LINK_RX_RX 1 l ∧
            ∃ x, e.fab.slots = s.dev.fab.slots ++ [x] ∧ x.input = l.val ∧ x.cls = bTc b ∧ x.vc = bVc b ∧
              x.shared = shared ∧ x.job = bJob b ∧ x.copies = (s.dev.route l b).filterMap (fun x => x) ∧
              x.edge = s.dev.ring.edges ∧ x.since = since.toNat)))) ∧
    (∀ (port : Fin 44) (since : BitVec 16), s.dev.fab.inject = [] →
      let a := 6 * 4096 + port.val
      let n := SMap.get 0 s.dev.fab.blk port + 1
      let sel := (n / 11 - 1) % 15
      let ctrl := fun (e : Dev) => if n % 11 = 0 then
          [Out.controlWord port (BitVec.ofNat 64 (ctrlWord sel (SMap.get 0 e.fab.released (port * 16 + sel))))]
        else []
      (s.dev.arbHeld a = true → port.val ∉ s.dev.arb.capture →
        Completes (.switchOutputGrant ⟨port, since⟩) s (fun e => e.fab = s.dev.fab ∧ e.out = s.dev.out)) ∧
      (s.dev.arbHeld a = false ∨ port.val ∈ s.dev.arb.capture →
        (∀ (x : Slot) (k : Copy), ((s.dev.beginCycle port).pickOutput port).2 = some (x, k) →
          Completes (.switchOutputGrant ⟨port, since⟩) s (fun e =>
            (∀ y ∈ e.fab.slots, y.serial = x.serial → ∀ z ∈ y.copies, z.port ≠ port) ∧ port.val ∉ e.arb.capture ∧
            (port.val < 36 → s.dev.bumped e .FAB_LINK_TX_TX 1 port ∧ SMap.get 0 e.fab.blk port = n ∧
              ∃ b, e.out = s.dev.out ++ .billet port b :: ctrl e ∧ (bType k.b = 0 → b = k.b) ∧
                SMap.get 0 e.fab.sent (selKey port (bTc b) (bVc b)) =
                  SMap.get 0 s.dev.fab.sent (selKey port (bTc b) (bVc b)) + 1) ∧
            (36 ≤ port.val → e.out = s.dev.out ∧ e.fab.arrivals = s.dev.fab.arrivals ++
              [⟨port, k.b, if x.input < 36 then some x.input else none, x.edge, x.since, x.serial⟩]))) ∧
        (((s.dev.beginCycle port).pickOutput port).2 = none → port.val < 36 → s.dev.linkUp port = true →
          Completes (.switchOutputGrant ⟨port, since⟩) s (fun e => e.fab.slots = s.dev.fab.slots ∧ e.regs = s.dev.regs ∧
            SMap.get 0 e.fab.blk port = n ∧ e.out = s.dev.out ++ ctrl e)))) ∧
    (∀ (l : Fin 36) (w : BitVec 64), s.dev.linkUp l = true →
      let sel := bits w.toNat 0 4
      let key := l * 16 + sel
      let diff := (bits w.toNat 4 12 + 4096 - SMap.get 0 s.dev.fab.lastRun key) % 4096
      (bits w.toNat 56 8 ≠ crc8 w.toNat → Completes (.linkControlWord l w) s (fun e =>
        e.linkState l = 0 ∧ e.f .FAB_LINK_STATUS_CAUSE l = 3)) ∧
      (bits w.toNat 56 8 = crc8 w.toNat → Completes (.linkControlWord l w) s (fun e =>
        SMap.get 0 e.fab.lastRun key = bits w.toNat 4 12 ∧ e.regs = s.dev.regs ∧ e.fab.slots = s.dev.fab.slots ∧
        (sel < 14 → SMap.get 0 e.fab.sent key = SMap.get 0 s.dev.fab.sent key - diff) ∧
        (sel = 14 → SMap.get 0 e.fab.grantsIn l = SMap.get 0 s.dev.fab.grantsIn l + diff ∧
          e.fab.sent = s.dev.fab.sent)))) ∧
    (∀ (port : Fin 44) (a : Arrival), s.dev.stalled = false →
      s.dev.fab.arrivals.find? (fun a => a.port == port.val) = some a →
      let own := (s.dev.partOf (bJob a.b)).isSome || (bJob a.b == 0 && (bTc a.b == 4 || bTc a.b == 6))
      let d := (s.dev.updFab (fun f => { f with arrivals := f.arrivals.erase a })).consume a
      Completes (.internalDelivery port) s (fun e => e.fab.arrivals = s.dev.fab.arrivals.erase a ∧ s.dev.noneEnds e ∧
        (badControl a.b = true → s.dev.bumped e .FAB_DROP_MALFORMED 1 ∧ e.fab = d.fab) ∧
        (badControl a.b = false → own = true → e.fab.inbox = s.dev.fab.inbox ++ [a] ∧ e.fab.slots = s.dev.fab.slots ∧
          e.regs = s.dev.regs ∧ e.link = s.dev.link) ∧
        (badControl a.b = false → own = false → s.dev.bumped e .FAB_DROP_REJECT_JOB 1 ∧ e.fab = d.fab)))

/-! ## The tray memory window -/

/-- The window requester's commands complete while the records held leave room. WIN_ENTRY_FETCH of an entry whose OP is 3, whose
LINES is 0 or above 64, whose OFFSET is not 64-byte aligned or whose reserved fields are not zero (R273) reads it and takes it
out of the ring, complete with BAD_DESCRIPTOR and DONE 0, and sends nothing; of any other that may issue, it reads the entry and a
STORE's lines from the host and puts every line in progress, those of an uncached LOAD or a STORE each awaiting a slot.
WIN_RESPONSE takes its billet from its slot and finishes the line that awaits it, or is counted as late. WIN_ENTRY_COMPLETE
writes the result of the oldest complete entry and forgets it. ABORT leaves no line of the ring waiting. -/
def Obligations.WindowRequester : Prop :=
  ∀ (s : State), (s.dev.stalled = false →
    (∀ (r : Fin 16) (raw : Line) (data : List Byte) (bad : List (Fin 64)), s.dev.ready = true → s.dev.link.up = true →
      s.dev.flag .WIN_RING_CTRL_ENABLE r = true → s.dev.f .WIN_RING_HEAD_HEAD r ≠ s.dev.f .WIN_RING_TAIL_TAIL r →
      let head := s.dev.f .WIN_RING_HEAD_HEAD r
      let w : WinEntry :=
        { ring := r, job := s.dev.f .WIN_RING_CFG_JOB r, part := s.dev.f .WIN_RING_CFG_PARTITION r, entry := raw
          host := s.dev.f .WIN_RING_BASE_BASE r * 64 + head * 64, issued := s.dev.count, lines := [] }
      let failed : WinEntry := { w with lines := [⟨none, some Status.badDescriptor.num, []⟩] }
      (w.op = 3 ∨ w.count = 0 ∨ 64 < w.count ∨ w.offset 0 % 64 ≠ 0 ∨
        w.arg 0 5 3 ≠ 0 ∨ w.arg 1 3 5 ≠ 0 ∨ w.arg 3 7 1 ≠ 0 ∨ w.arg 24 0 64 ≠ 0 ∨ (w.op = 2 ∧ w.arg 16 0 64 ≠ 0) →
        Completes (.winEntryFetch r raw data bad) s (fun e =>
          e.f .WIN_RING_HEAD_HEAD r = (head + 1) % s.dev.winSize r ∧ e.fab = s.dev.fab ∧ e.mem = s.dev.mem ∧
          e.out = s.dev.out ++ [.memRead w.host 64] ∧ e.win.entries = s.dev.win.entries ++ [failed] ∧
          failed.complete = true ∧ s.dev.noneEnds e ∧
          failed.result s.dev.count = leBytes 1 Status.badDescriptor.num ++ [1] ++ leBytes 6 0 ++ leBytes 8 0 ++
            leBytes 8 s.dev.count ++ leBytes 8 0)) ∧
      (∀ slots, w.bad = false → w.op < 2 → (w.op = 1 → data.length = 64 * w.count) → w.cached = false →
        s.dev.winFree w.count = some slots →
        (w.ordered = true → ∀ x ∈ s.dev.win.entries, x.ring = r → x.complete = true) →
        Completes (.winEntryFetch r raw data bad) s (fun e =>
          e.f .WIN_RING_HEAD_HEAD r = (head + 1) % s.dev.winSize r ∧ e.mem = s.dev.mem ∧ s.dev.noneEnds e ∧
          e.out = s.dev.out ++ [.memRead w.host 64] ++ (if w.op = 1 then memReads (w.hostAddr 0) data.length else []) ∧
          ∃ ls, e.win.entries = s.dev.win.entries ++ [{ w with lines := ls }] ∧ ls.map WinLine.slot = slots.map some))) ∧
    (∀ a, s.dev.fab.inbox.find? (fun a => a.port == 41 && bTc a.b == 3) = some a →
      let slot := bits (bTag a.b) 0 12
      (bits (bTag a.b) 16 6 ≠ s.dev.winGen slot ∨ s.dev.winLine? slot = none → Completes .winResponse s (fun e =>
        s.dev.bumped e .WIN_REFUSED_LATE 1 ∧ e.win = s.dev.win ∧ e.fab = (s.dev.taken a).fab ∧
        e.out = s.dev.out ∧ s.dev.noneEnds e ∧ e.cmds = s.dev.cmds ∧ e.link = s.dev.link)) ∧
      (∀ w i, bits (bTag a.b) 16 6 = s.dev.winGen slot → s.dev.winLine? slot = some (w, i) →
        Completes .winResponse s (fun e => e.winLine? slot = none ∧ e.fab = (s.dev.taken a).fab ∧
          e.win.entries.length = s.dev.win.entries.length ∧ s.dev.noneEnds e ∧ e.cmds = s.dev.cmds ∧ e.link = s.dev.link ∧
          (bits (bTag a.b) 22 2 = 2 → s.dev.link.up = true → e.out = s.dev.out ++ [.memWrite (w.hostAddr i) (bPayload a.b)]) ∧
          (bits (bTag a.b) 22 2 ≠ 2 → e.out = s.dev.out)))) ∧
    (∀ (r : Fin 16) (w : WinEntry), s.dev.ready = true → s.dev.link.up = true →
      s.dev.win.entries.find? (fun w => w.ring == r.val && w.complete) = some w →
      Completes (.winEntryComplete r) s (fun e => e.win.entries = s.dev.win.entries.erase w ∧
        e.out.getLast? = some (.memWrite (w.host + 32) (w.result s.dev.count)) ∧ e.regs = s.dev.regs ∧
        e.mem = s.dev.mem ∧ e.cmds = s.dev.cmds))) ∧
    (∀ (ap : Aperture) (r : Fin 16) (v : BitVec 32), s.dev.accepts ap .WIN_RING_CTRL r = true →
      Completes (.abort ap r v) s (fun e => (∀ w ∈ e.win.entries, w.ring = r → w.complete = true) ∧
        e.f .WIN_RING_HEAD_OUTSTANDING r = 0 ∧ e.win.entries.length = s.dev.win.entries.length ∧
        (v.getLsbD 0 = false → e.flag .WIN_RING_CTRL_ENABLE r = false) ∧ e.mem = s.dev.mem))

/-- WIN_REQUEST completes at the owner while the records held leave room: by the checks of Table 13.4 a LOAD or a STORE is
served, counted, and a STORE marked for determinism; a refused one is counted under its check and no byte of memory changes; a
LOAD changes none in any case. The request's billets leave their slots, and one whose job holds no partition any more, or whose
KIND is no request's, changes nothing else. -/
def Obligations.WindowOwner : Prop :=
  ∀ (s : State) (a : Arrival), s.dev.stalled = false → s.dev.fab.inbox.find? s.dev.winWhole = some a →
    let kind := bits (bTag a.b) 22 2
    let d := s.dev.taken a
    (kind ≠ 1 → Completes .winRequest s (fun e => e.fab.inbox = s.dev.fab.inbox.erase a ∧ e.mem.hbm = s.dev.mem.hbm ∧
      e.mem.slab = s.dev.mem.slab ∧ s.dev.noneEnds e ∧ e.cmds = s.dev.cmds ∧
      (∀ p, kind = 0 → s.dev.partOf (bJob a.b) = some p →
        let res := (d.winServe p (bJob a.b) (coord (bSrc a.b) .x) (bPay a.b 0 0 8) (bPay a.b 8 0 64) none).2
        (∀ bs, res = .ok bs → s.dev.bumped e .WIN_SERVED_LOADS 1) ∧
        (res = .error .faultProt → s.dev.bumped e .WIN_REFUSED_PROT 1) ∧
        (res = .error .faultXlat → s.dev.bumped e .WIN_REFUSED_XLAT 1)) ∧
      (s.dev.partOf (bJob a.b) = none ∨ 1 < kind → e.regs = d.regs ∧ e.fab = d.fab))) ∧
    (∀ m, kind = 1 → (s.dev.fab.inbox.erase a).find? (winMate a.b) = some m →
      let d := d.taken m
      Completes .winRequest s (fun e => e.fab.inbox = (s.dev.fab.inbox.erase a).erase m ∧ s.dev.noneEnds e ∧
        (s.dev.partOf (bJob a.b) = none → e.regs = d.regs ∧ e.mem = s.dev.mem) ∧
        (∀ p, s.dev.partOf (bJob a.b) = some p →
          let r := d.winServe p (bJob a.b) (coord (bSrc a.b) .x) (bPay a.b 0 0 8) (bPay a.b 8 0 64) (some (bPayload m.b))
          (∀ bs, r.2 = .ok bs → s.dev.bumped e .WIN_SERVED_STORES 1 ∧ e.flag .PART_DET_EVENTS_WIN_STORE p = true) ∧
          (r.2 = .error .faultProt → s.dev.bumped e .WIN_REFUSED_PROT 1 ∧ e.mem.hbm = s.dev.mem.hbm) ∧
          e.mem.hbm = r.1.mem.hbm)))

/-! ## Collectives and remote adds -/

/-- The collective engines' commands complete while the records held leave room, and none of them ends a command. COLLECTIVE is
ready, with the flag of any suspicion it has met, once every chunk has gone through its steps and its close rounds are over.
COLL_STAGE_CHUNK does a step that can be done, or the command fails; without a fault no check finds a mismatch, and a fault of an
addition's significands is found unless it is a multiple of 7 (R298). COLL_BILLET discards a billet of KIND 6 or 7, holds one
for which no context is free, counts one of a closed CID as late and adds one to its message. CREDIT and CLOSE are recorded in
their context, SUSPECT_NOTICE sets its flag or is late, and COLL_CID_CTRL clears just one closed bit. -/
def Obligations.CollectivesRun : Prop :=
  (∀ (s : State), s.dev.stalled = false →
    (∀ (id : Nat) (c : Cmd) (x : CollCtx), s.dev.cmd? id = some c → c.running = true → s.dev.collOf id = some x →
      (c.opcode = 5 → c.ready = false → x.written = true → x.rounds = c.closeStages.length →
        (∀ g, c.closeStages.getLast? = some g → x.roundDone g = true) →
        (∀ k ∈ x.chunks, k.done = c.cSteps.length ∧ k.freed = k.done ∧ c.toSend x k = []) →
        Completes (.collective id) s (fun e => s.dev.noneEnds e ∧ e.mem = s.dev.mem ∧
          ∃ k, e.cmd? id = some k ∧ k.ready = true ∧ k.suspect = x.flagged)) ∧
      (∀ (k : Fin 7) (chunk : Fin 2048) (f : Option AdderFault) (ch : CChunk),
        x.chunks.find? (fun y => y.chunk == chunk.val) = some ch → x.canStep c k ch = true →
        Completes (.collStageChunk id k chunk f) s (fun e => s.dev.noneEnds e ∧
          (f = none → e.f .COLL_EVENTS_RESIDUE c.part = s.dev.f .COLL_EVENTS_RESIDUE c.part) ∧
          (Op.succeeds s.dev (collStep c x ch k f) = true → ∃ y z, e.collOf id = some y ∧ z ∈ y.chunks ∧
            z.chunk = chunk.val ∧ z.done = k.val + 1 ∧ (f = none → y.suspect = x.suspect)) ∧
          (Op.succeeds s.dev (collStep c x ch k f) = false → e.failed id)))) ∧
    (∀ ce : Fin 4,
      (∀ a, s.dev.fab.inbox.find? (fun a => a.port == 37 + ce.val && bType a.b != 1 && decide (6 ≤ bKind a.b)) = some a →
        Completes (.collBillet ce) s (fun e => s.dev.bumped e .FAB_DROP_MALFORMED 1 ∧ e.coll = s.dev.coll ∧
          e.fab = (s.dev.taken a).fab ∧ e.mem = s.dev.mem ∧ s.dev.noneEnds e)) ∧
      (∀ (a : Arrival) (p : Nat), s.dev.coll.held = [] → s.dev.partOf (bJob a.b) = some p →
        let d := s.dev.taken a
        (s.dev.fab.inbox.find? (fun a => a.port == 37 + ce.val && bType a.b != 1 && decide (6 ≤ bKind a.b)) = none →
          s.dev.fab.inbox.find? (fun a => a.port == 37 + ce.val && (bType a.b != 1 && decide (bKind a.b ≤ 1))) = some a →
          Completes (.collBillet ce) s (fun e => e.fab.inbox = s.dev.fab.inbox.erase a ∧ s.dev.noneEnds e ∧
            (s.dev.collCanTake a.b = false → s.dev.bumped e .COLL_HELD_EVENTS 1 ∧ e.fab.slots = s.dev.fab.slots ∧
              e.coll = { s.dev.coll with held := [a] } ∧ e.mem = s.dev.mem ∧ e.cmds = s.dev.cmds) ∧
            (s.dev.collCanTake a.b = true → e.fab = d.fab) ∧
            (s.dev.cidClosed p (bCid a.b) = true → s.dev.bumped e .COLL_LATE_LATE 1 ∧ e.coll.ctxs = s.dev.coll.ctxs ∧
              e.mem = s.dev.mem ∧ e.cmds = s.dev.cmds) ∧
            (s.dev.cidClosed p (bCid a.b) = false → s.dev.coll? p (bCid a.b) = none → s.dev.collCanTake a.b = true →
              ∃ y, e.coll? p (bCid a.b) = some y ∧ y.cmd = none ∧ y.since = s.dev.count) ∧
            (∀ x m, s.dev.cidClosed p (bCid a.b) = false → s.dev.coll? p (bCid a.b) = some x →
              x.msgs.find? (fun m => m.down == (bKind a.b == 1) && m.stage == bStage a.b && m.chunk == bChunk a.b &&
                m.src == bSrc a.b) = some m →
              ((∃ g ∈ m.got, g.1 = bSeq a.b) → e.coll = s.dev.coll ∧ e.mem = s.dev.mem) ∧
              ((∀ g ∈ m.got, g.1 ≠ bSeq a.b) →
                (m.buf = none → e.mem = s.dev.mem ∧ ∃ y, e.coll? p (bCid a.b) = some y ∧
                  { m with got := m.got ++ [(bSeq a.b, bPayload a.b)] } ∈ y.msgs) ∧
                (∀ b g, m.buf = some b → d.lndStore b (64 * bSeq a.b) (bPayload a.b) = .ok g → e.mem = g.mem ∧
                  ∃ y, e.coll? p (bCid a.b) = some y ∧ { m with got := m.got ++ [(bSeq a.b, [])] } ∈ y.msgs))))) ∧
        (∀ x, s.dev.fab.inbox.find? (fun a => a.port == 37 + ce.val && (bType a.b != 1 && bKind a.b == 2)) = some a →
          s.dev.cidClosed p (bCid a.b) = false → s.dev.coll? p (bCid a.b) = some x →
          Completes (.credit ce) s (fun e => s.dev.noneEnds e ∧ ∃ y, e.coll? p (bCid a.b) = some y ∧
            y.credits = x.credits ++ [(bStage a.b, bChunk a.b, bSrc a.b)])) ∧
        (∀ x, s.dev.fab.inbox.find? (fun a => a.port == 37 + ce.val && (bType a.b != 1 && bKind a.b == 3)) = some a →
          s.dev.cidClosed p (bCid a.b) = false → s.dev.coll? p (bCid a.b) = some x →
          Completes (.close ce) s (fun e => s.dev.noneEnds e ∧ ∃ y, e.coll? p (bCid a.b) = some y ∧
            y.closes = x.closes ++ [(bStage a.b, bSrc a.b, bPay a.b 0 0 1 == 1)])) ∧
        (s.dev.fab.inbox.find? (fun a => a.port == 37 + ce.val && bType a.b == 1) = some a →
          let cid := bPay a.b 2 0 8
          Completes (.suspectNotice ce) s (fun e => s.dev.noneEnds e ∧ e.cmds = s.dev.cmds ∧ e.mem.hbm = s.dev.mem.hbm ∧
            (∀ x, s.dev.cidClosed p cid = false → s.dev.coll? p cid = some x → ∃ y, e.coll? p cid = some y ∧
              y.suspect = true) ∧
            (s.dev.coll? p cid = none ∨ s.dev.cidClosed p cid = true →
              s.dev.bumped e .COLL_LATE_LATE 1 ∧ e.coll.ctxs = s.dev.coll.ctxs))))) ∧
    (∀ (ap : Aperture) (p : Fin 16) (v : BitVec 32), s.dev.accepts ap .COLL_CID_CTRL p = true →
      let cid := Fld.COLL_CID_CTRL_CID.of (v.zeroExtend 64)
      (Fld.COLL_CID_CTRL_CLEAR.of (v.zeroExtend 64) = 1 → Completes (.collCidCtrl ap p v) s (fun e =>
        e.cidClosed p cid = false ∧ (∀ x < 256, x ≠ cid → e.cidClosed p x = s.dev.cidClosed p x) ∧
        s.dev.regsBut e [Reg.code .COLL_CID_CLOSED p (cid / 64)] ∧ e.coll.ctxs = s.dev.coll.ctxs)) ∧
      (Fld.COLL_CID_CTRL_CLEAR.of (v.zeroExtend 64) = 0 → Completes (.collCidCtrl ap p v) s (fun e => s.dev.same e)))) ∧
  (∀ (fl : Bool) (err x y e : Int) (a b : F32), alignedSigs (flush32 fl a) (flush32 fl b) = some (x, y, e) →
    ((addChecked fl (some (.sum err)) a b).2.2 = true ↔ err % 7 ≠ 0)) ∧
  (∀ (err : Int) (a b : BitVec 32), (satChecked (some (.sum err)) a b).2.2 = true ↔ err % 7 ≠ 0)

/-- Remote add's commands complete while the records held leave room, and none of them ends a command. ADD_MSG sends its message
once, or fails. ACK completes the ADD_MSG that holds its slot in its generation, with OK ready to commit and any other status a
failure; one that names no such slot is counted as late. ADD at the owner takes in the CE's billets from their slots; a whole
message from a node that its rank does not name changes no memory, a duplicate is counted and changes none, and one that is
applied is counted; a message that is not whole yet waits. -/
def Obligations.RemoteAdds : Prop :=
  ∀ (s : State), s.dev.stalled = false →
    (∀ (id : Nat) (c : Cmd) (x : AddSlot), s.dev.cmd? id = some c → s.dev.coll.adds.find? (fun a => a.id == id) = some x →
      c.running = true → c.opcode = 6 → x.sent = false →
      let d := s.dev.updColl (fun y => { y with adds := mapIf (fun b => b.id == id) (fun b => { b with sent := true }) y.adds })
      Completes (.addMsg id) s (fun e => e.coll = d.coll ∧ s.dev.noneEnds e ∧
        (Op.succeeds d (sendAdd c x.slot (s.dev.addGen x.slot)) = true → e.cmds = s.dev.cmds) ∧
        (Op.succeeds d (sendAdd c x.slot (s.dev.addGen x.slot)) = false → e.failed id))) ∧
    (∀ (ce : Fin 4) (a : Arrival),
      s.dev.fab.inbox.find? (fun a => a.port == 37 + ce.val && bType a.b != 1 && bKind a.b == 5) = some a →
      let slot := bits (bTag a.b) 0 8
      (∀ x c, s.dev.coll.adds.find? (fun x => x.slot == slot && x.sent) = some x → s.dev.cmd? x.id = some c →
        c.ended = false → bits (bTag a.b) 8 8 = s.dev.addGen slot →
        Completes (.ack ce) s (fun e => e.regs = (s.dev.taken a).regs ∧ e.fab = (s.dev.taken a).fab ∧ s.dev.noneEnds e ∧
          e.mem = s.dev.mem ∧
          (bPay a.b 0 0 8 = Status.ok.num → e.readied x.id) ∧
          (bPay a.b 0 0 8 ≠ Status.ok.num → e.failed x.id))) ∧
      (s.dev.coll.adds.find? (fun x => x.slot == slot && x.sent) = none ∨ bits (bTag a.b) 8 8 ≠ s.dev.addGen slot →
        Completes (.ack ce) s (fun e => s.dev.bumped e .COLL_LATE_LATE 1 ∧ e.cmds = s.dev.cmds ∧ e.mem = s.dev.mem ∧
          e.fab = (s.dev.taken a).fab))) ∧
    (∀ (ce : Fin 4) (f : Option AdderFault),
      let d := s.dev.addIntake ce
      let whole := fun (a : Arrival) => a.port == 37 + ce.val && (d.addBillets ce a.b).length == bTotal a.b
      (∀ x ∈ d.fab.inbox, ¬(x.port = 37 + ce.val ∧ bType x.b ≠ 1 ∧ bKind x.b = 4)) ∧
      (d.coll.addIn.find? whole = none → Completes (.add ⟨ce, f⟩) s (fun e => e.coll = d.coll ∧ e.fab = d.fab ∧
        e.mem = s.dev.mem ∧ e.cmds = s.dev.cmds ∧ s.dev.noneEnds e)) ∧
      (∀ (a : Arrival) (p : Nat), d.coll.addIn.find? whole = some a → s.dev.partOf (bJob a.b) = some p →
        let ms := d.addBillets ce a.b
        let g := d.updColl (fun x => { x with addIn := x.addIn.filter (fun y => !ms.contains y) })
        let m := addMsgOf p (bSrc a.b) (ms.flatMap (fun m => bPayload m.b))
        Completes (.add ⟨ce, f⟩) s (fun e => e.fab.inbox = d.fab.inbox ∧ e.coll.addIn = g.coll.addIn ∧ e.cmds = s.dev.cmds ∧
          s.dev.noneEnds e ∧
          (g.rankNames p m.rank m.src = .ok false → e.mem.hbm = s.dev.mem.hbm ∧
            e.reg .COLL_ADD_STAT p = s.dev.reg .COLL_ADD_STAT p) ∧
          (g.rankNames p m.rank m.src = .ok true → g.dedup p m.rank m.opId = .ok .duplicate →
            s.dev.bumped e .COLL_ADD_STAT_DUP 1 p ∧ e.mem.hbm = s.dev.mem.hbm) ∧
          ((g.applyAdd m f).2 = (.ok, false) → s.dev.bumped e .COLL_ADD_STAT_APPLIED 1 p ∧
            e.mem.hbm = (g.applyAdd m f).1.mem.hbm))))

/-! ## Isolation -/

/-- Work on behalf of a job never reaches what is not a job's: in every next state after the work commands of the Sieve, the
arrays, the Exchange Engine, the copy engine, model swap, the collective engines and remote add, the fuses, start-up, the
security controller, the Scaler, the arbiters' draws, the quarantine of job IDs, the ring count and its alignment, the
partitions' jobs and the numbering of commands are as before; only COMPACTION and TRANSPOSE_BLOCK end a grant's unit. -/
def Obligations.WorkStaysInItsJob : Prop :=
  ∀ (s t : State) (i : Instr) (id k n : Nat) (data : List Byte) (ce : Fin 4) (x : Fin 2) (y : Fin 4) (arr : Fin 152)
    (f : Option ArrayFault) (m : Option AdderFault) (w : Fin 7) (h : Fin 2048),
    i ∈ [Instr.layer id, .arrayTile id arr n f, .compaction id n, .transposeBlock id n, .weightChunkStage id arr n,
      .fetchDeadline id, .sieve id, .scoreTile x, .tokenSelect x, .sieveTail x, .exchange id, .combine id, .xeBillet,
      .segmentHeader k n, .vectorWrite k n id, .copy id data, .copyStream id data, .place id, .loadProgram id data, .swap id,
      .weightBillet, .swapVerify y n, .nmaFold id n, .collective id, .collStageChunk id w h m, .collBillet ce, .credit ce,
      .close ce, .suspectNotice ce, .addMsg id, .add ⟨ce, m⟩, .ack ce] →
    exec i s = .next t →
    t.dev.fuses = s.dev.fuses ∧ t.dev.boot = s.dev.boot ∧ t.dev.sec = s.dev.sec ∧ t.dev.scl = s.dev.scl ∧
    t.dev.arb = { s.dev.arb with grants := t.dev.arb.grants } ∧
    (i = .compaction id n ∨ i = .transposeBlock id n ∨ t.dev.arb.grants = s.dev.arb.grants) ∧
    t.dev.quarantine = s.dev.quarantine ∧ t.dev.ring = s.dev.ring ∧ t.dev.nextId = s.dev.nextId ∧
    t.dev.count = s.dev.count ∧ t.dev.reg .RING_STATUS = s.dev.reg .RING_STATUS ∧ t.dev.link.up = s.dev.link.up ∧
    ∀ p, t.dev.reg .PART_CTRL p = s.dev.reg .PART_CTRL p ∧ t.dev.reg .RING_STEP p = s.dev.reg .RING_STEP p
end

