-- ==== Sys2Proof/Laws/State.lean ====
section
/-! SUPPORT. What each update of the device leaves as it was, field by field: true by rfl. -/

namespace Sys2Proof.Machine

variable (d : Dev)

@[simp] theorem Dev.setReg_hi (r : Reg) (v : BitVec 64) (i j : Nat) : (d.setReg r v i j).hi = d.hi := rfl
@[simp] theorem Dev.setReg_lo (r : Reg) (v : BitVec 64) (i j : Nat) : (d.setReg r v i j).lo = d.lo := rfl
@[simp] theorem Dev.setReg_pins (r : Reg) (v : BitVec 64) (i j : Nat) : (d.setReg r v i j).pins = d.pins := rfl
@[simp] theorem Dev.setReg_fuses (r : Reg) (v : BitVec 64) (i j : Nat) : (d.setReg r v i j).fuses = d.fuses := rfl
@[simp] theorem Dev.setReg_boot (r : Reg) (v : BitVec 64) (i j : Nat) : (d.setReg r v i j).boot = d.boot := rfl
@[simp] theorem Dev.setReg_flash (r : Reg) (v : BitVec 64) (i j : Nat) : (d.setReg r v i j).flash = d.flash := rfl
@[simp] theorem Dev.setReg_ring (r : Reg) (v : BitVec 64) (i j : Nat) : (d.setReg r v i j).ring = d.ring := rfl
@[simp] theorem Dev.setReg_link (r : Reg) (v : BitVec 64) (i j : Nat) : (d.setReg r v i j).link = d.link := rfl
@[simp] theorem Dev.setReg_cmds (r : Reg) (v : BitVec 64) (i j : Nat) : (d.setReg r v i j).cmds = d.cmds := rfl
@[simp] theorem Dev.setReg_nextId (r : Reg) (v : BitVec 64) (i j : Nat) : (d.setReg r v i j).nextId = d.nextId := rfl
@[simp] theorem Dev.setReg_quarantine (r : Reg) (v : BitVec 64) (i j : Nat) : (d.setReg r v i j).quarantine = d.quarantine := rfl
@[simp] theorem Dev.setReg_mem (r : Reg) (v : BitVec 64) (i j : Nat) : (d.setReg r v i j).mem = d.mem := rfl
@[simp] theorem Dev.setReg_lnd (r : Reg) (v : BitVec 64) (i j : Nat) : (d.setReg r v i j).lnd = d.lnd := rfl
@[simp] theorem Dev.setReg_err (r : Reg) (v : BitVec 64) (i j : Nat) : (d.setReg r v i j).err = d.err := rfl
@[simp] theorem Dev.setReg_stalls (r : Reg) (v : BitVec 64) (i j : Nat) : (d.setReg r v i j).stalls = d.stalls := rfl
@[simp] theorem Dev.setReg_fab (r : Reg) (v : BitVec 64) (i j : Nat) : (d.setReg r v i j).fab = d.fab := rfl
@[simp] theorem Dev.setReg_arb (r : Reg) (v : BitVec 64) (i j : Nat) : (d.setReg r v i j).arb = d.arb := rfl
@[simp] theorem Dev.setReg_scl (r : Reg) (v : BitVec 64) (i j : Nat) : (d.setReg r v i j).scl = d.scl := rfl
@[simp] theorem Dev.setReg_sec (r : Reg) (v : BitVec 64) (i j : Nat) : (d.setReg r v i j).sec = d.sec := rfl
@[simp] theorem Dev.setReg_borer (r : Reg) (v : BitVec 64) (i j : Nat) : (d.setReg r v i j).borer = d.borer := rfl
@[simp] theorem Dev.setReg_arr (r : Reg) (v : BitVec 64) (i j : Nat) : (d.setReg r v i j).arr = d.arr := rfl
@[simp] theorem Dev.setReg_sv (r : Reg) (v : BitVec 64) (i j : Nat) : (d.setReg r v i j).sv = d.sv := rfl
@[simp] theorem Dev.setReg_xe (r : Reg) (v : BitVec 64) (i j : Nat) : (d.setReg r v i j).xe = d.xe := rfl
@[simp] theorem Dev.setReg_swaps (r : Reg) (v : BitVec 64) (i j : Nat) : (d.setReg r v i j).swaps = d.swaps := rfl
@[simp] theorem Dev.setReg_win (r : Reg) (v : BitVec 64) (i j : Nat) : (d.setReg r v i j).win = d.win := rfl
@[simp] theorem Dev.setReg_coll (r : Reg) (v : BitVec 64) (i j : Nat) : (d.setReg r v i j).coll = d.coll := rfl
@[simp] theorem Dev.setReg_out (r : Reg) (v : BitVec 64) (i j : Nat) : (d.setReg r v i j).out = d.out := rfl
@[simp] theorem Dev.setReg_free (r : Reg) (v : BitVec 64) (i j : Nat) : (d.setReg r v i j).free = d.free := rfl

@[simp] theorem Dev.setF_hi (f : Fld) (n i j : Nat) : (d.setF f n i j).hi = d.hi := rfl
@[simp] theorem Dev.setF_lo (f : Fld) (n i j : Nat) : (d.setF f n i j).lo = d.lo := rfl
@[simp] theorem Dev.setF_pins (f : Fld) (n i j : Nat) : (d.setF f n i j).pins = d.pins := rfl
@[simp] theorem Dev.setF_fuses (f : Fld) (n i j : Nat) : (d.setF f n i j).fuses = d.fuses := rfl
@[simp] theorem Dev.setF_boot (f : Fld) (n i j : Nat) : (d.setF f n i j).boot = d.boot := rfl
@[simp] theorem Dev.setF_flash (f : Fld) (n i j : Nat) : (d.setF f n i j).flash = d.flash := rfl
@[simp] theorem Dev.setF_ring (f : Fld) (n i j : Nat) : (d.setF f n i j).ring = d.ring := rfl
@[simp] theorem Dev.setF_link (f : Fld) (n i j : Nat) : (d.setF f n i j).link = d.link := rfl
@[simp] theorem Dev.setF_cmds (f : Fld) (n i j : Nat) : (d.setF f n i j).cmds = d.cmds := rfl
@[simp] theorem Dev.setF_nextId (f : Fld) (n i j : Nat) : (d.setF f n i j).nextId = d.nextId := rfl
@[simp] theorem Dev.setF_quarantine (f : Fld) (n i j : Nat) : (d.setF f n i j).quarantine = d.quarantine := rfl
@[simp] theorem Dev.setF_mem (f : Fld) (n i j : Nat) : (d.setF f n i j).mem = d.mem := rfl
@[simp] theorem Dev.setF_lnd (f : Fld) (n i j : Nat) : (d.setF f n i j).lnd = d.lnd := rfl
@[simp] theorem Dev.setF_err (f : Fld) (n i j : Nat) : (d.setF f n i j).err = d.err := rfl
@[simp] theorem Dev.setF_stalls (f : Fld) (n i j : Nat) : (d.setF f n i j).stalls = d.stalls := rfl
@[simp] theorem Dev.setF_fab (f : Fld) (n i j : Nat) : (d.setF f n i j).fab = d.fab := rfl
@[simp] theorem Dev.setF_arb (f : Fld) (n i j : Nat) : (d.setF f n i j).arb = d.arb := rfl
@[simp] theorem Dev.setF_scl (f : Fld) (n i j : Nat) : (d.setF f n i j).scl = d.scl := rfl
@[simp] theorem Dev.setF_sec (f : Fld) (n i j : Nat) : (d.setF f n i j).sec = d.sec := rfl
@[simp] theorem Dev.setF_borer (f : Fld) (n i j : Nat) : (d.setF f n i j).borer = d.borer := rfl
@[simp] theorem Dev.setF_arr (f : Fld) (n i j : Nat) : (d.setF f n i j).arr = d.arr := rfl
@[simp] theorem Dev.setF_sv (f : Fld) (n i j : Nat) : (d.setF f n i j).sv = d.sv := rfl
@[simp] theorem Dev.setF_xe (f : Fld) (n i j : Nat) : (d.setF f n i j).xe = d.xe := rfl
@[simp] theorem Dev.setF_swaps (f : Fld) (n i j : Nat) : (d.setF f n i j).swaps = d.swaps := rfl
@[simp] theorem Dev.setF_win (f : Fld) (n i j : Nat) : (d.setF f n i j).win = d.win := rfl
@[simp] theorem Dev.setF_coll (f : Fld) (n i j : Nat) : (d.setF f n i j).coll = d.coll := rfl
@[simp] theorem Dev.setF_out (f : Fld) (n i j : Nat) : (d.setF f n i j).out = d.out := rfl
@[simp] theorem Dev.setF_free (f : Fld) (n i j : Nat) : (d.setF f n i j).free = d.free := rfl

@[simp] theorem Dev.addF_hi (f : Fld) (n i j : Nat) : (d.addF f n i j).hi = d.hi := rfl
@[simp] theorem Dev.addF_lo (f : Fld) (n i j : Nat) : (d.addF f n i j).lo = d.lo := rfl
@[simp] theorem Dev.addF_pins (f : Fld) (n i j : Nat) : (d.addF f n i j).pins = d.pins := rfl
@[simp] theorem Dev.addF_fuses (f : Fld) (n i j : Nat) : (d.addF f n i j).fuses = d.fuses := rfl
@[simp] theorem Dev.addF_boot (f : Fld) (n i j : Nat) : (d.addF f n i j).boot = d.boot := rfl
@[simp] theorem Dev.addF_flash (f : Fld) (n i j : Nat) : (d.addF f n i j).flash = d.flash := rfl
@[simp] theorem Dev.addF_ring (f : Fld) (n i j : Nat) : (d.addF f n i j).ring = d.ring := rfl
@[simp] theorem Dev.addF_link (f : Fld) (n i j : Nat) : (d.addF f n i j).link = d.link := rfl
@[simp] theorem Dev.addF_cmds (f : Fld) (n i j : Nat) : (d.addF f n i j).cmds = d.cmds := rfl
@[simp] theorem Dev.addF_nextId (f : Fld) (n i j : Nat) : (d.addF f n i j).nextId = d.nextId := rfl
@[simp] theorem Dev.addF_quarantine (f : Fld) (n i j : Nat) : (d.addF f n i j).quarantine = d.quarantine := rfl
@[simp] theorem Dev.addF_mem (f : Fld) (n i j : Nat) : (d.addF f n i j).mem = d.mem := rfl
@[simp] theorem Dev.addF_lnd (f : Fld) (n i j : Nat) : (d.addF f n i j).lnd = d.lnd := rfl
@[simp] theorem Dev.addF_err (f : Fld) (n i j : Nat) : (d.addF f n i j).err = d.err := rfl
@[simp] theorem Dev.addF_stalls (f : Fld) (n i j : Nat) : (d.addF f n i j).stalls = d.stalls := rfl
@[simp] theorem Dev.addF_fab (f : Fld) (n i j : Nat) : (d.addF f n i j).fab = d.fab := rfl
@[simp] theorem Dev.addF_arb (f : Fld) (n i j : Nat) : (d.addF f n i j).arb = d.arb := rfl
@[simp] theorem Dev.addF_scl (f : Fld) (n i j : Nat) : (d.addF f n i j).scl = d.scl := rfl
@[simp] theorem Dev.addF_sec (f : Fld) (n i j : Nat) : (d.addF f n i j).sec = d.sec := rfl
@[simp] theorem Dev.addF_borer (f : Fld) (n i j : Nat) : (d.addF f n i j).borer = d.borer := rfl
@[simp] theorem Dev.addF_arr (f : Fld) (n i j : Nat) : (d.addF f n i j).arr = d.arr := rfl
@[simp] theorem Dev.addF_sv (f : Fld) (n i j : Nat) : (d.addF f n i j).sv = d.sv := rfl
@[simp] theorem Dev.addF_xe (f : Fld) (n i j : Nat) : (d.addF f n i j).xe = d.xe := rfl
@[simp] theorem Dev.addF_swaps (f : Fld) (n i j : Nat) : (d.addF f n i j).swaps = d.swaps := rfl
@[simp] theorem Dev.addF_win (f : Fld) (n i j : Nat) : (d.addF f n i j).win = d.win := rfl
@[simp] theorem Dev.addF_coll (f : Fld) (n i j : Nat) : (d.addF f n i j).coll = d.coll := rfl
@[simp] theorem Dev.addF_out (f : Fld) (n i j : Nat) : (d.addF f n i j).out = d.out := rfl
@[simp] theorem Dev.addF_free (f : Fld) (n i j : Nat) : (d.addF f n i j).free = d.free := rfl

@[simp] theorem Dev.subF_hi (f : Fld) (n i j : Nat) : (d.subF f n i j).hi = d.hi := rfl
@[simp] theorem Dev.subF_lo (f : Fld) (n i j : Nat) : (d.subF f n i j).lo = d.lo := rfl
@[simp] theorem Dev.subF_pins (f : Fld) (n i j : Nat) : (d.subF f n i j).pins = d.pins := rfl
@[simp] theorem Dev.subF_fuses (f : Fld) (n i j : Nat) : (d.subF f n i j).fuses = d.fuses := rfl
@[simp] theorem Dev.subF_boot (f : Fld) (n i j : Nat) : (d.subF f n i j).boot = d.boot := rfl
@[simp] theorem Dev.subF_flash (f : Fld) (n i j : Nat) : (d.subF f n i j).flash = d.flash := rfl
@[simp] theorem Dev.subF_ring (f : Fld) (n i j : Nat) : (d.subF f n i j).ring = d.ring := rfl
@[simp] theorem Dev.subF_link (f : Fld) (n i j : Nat) : (d.subF f n i j).link = d.link := rfl
@[simp] theorem Dev.subF_cmds (f : Fld) (n i j : Nat) : (d.subF f n i j).cmds = d.cmds := rfl
@[simp] theorem Dev.subF_nextId (f : Fld) (n i j : Nat) : (d.subF f n i j).nextId = d.nextId := rfl
@[simp] theorem Dev.subF_quarantine (f : Fld) (n i j : Nat) : (d.subF f n i j).quarantine = d.quarantine := rfl
@[simp] theorem Dev.subF_mem (f : Fld) (n i j : Nat) : (d.subF f n i j).mem = d.mem := rfl
@[simp] theorem Dev.subF_lnd (f : Fld) (n i j : Nat) : (d.subF f n i j).lnd = d.lnd := rfl
@[simp] theorem Dev.subF_err (f : Fld) (n i j : Nat) : (d.subF f n i j).err = d.err := rfl
@[simp] theorem Dev.subF_stalls (f : Fld) (n i j : Nat) : (d.subF f n i j).stalls = d.stalls := rfl
@[simp] theorem Dev.subF_fab (f : Fld) (n i j : Nat) : (d.subF f n i j).fab = d.fab := rfl
@[simp] theorem Dev.subF_arb (f : Fld) (n i j : Nat) : (d.subF f n i j).arb = d.arb := rfl
@[simp] theorem Dev.subF_scl (f : Fld) (n i j : Nat) : (d.subF f n i j).scl = d.scl := rfl
@[simp] theorem Dev.subF_sec (f : Fld) (n i j : Nat) : (d.subF f n i j).sec = d.sec := rfl
@[simp] theorem Dev.subF_borer (f : Fld) (n i j : Nat) : (d.subF f n i j).borer = d.borer := rfl
@[simp] theorem Dev.subF_arr (f : Fld) (n i j : Nat) : (d.subF f n i j).arr = d.arr := rfl
@[simp] theorem Dev.subF_sv (f : Fld) (n i j : Nat) : (d.subF f n i j).sv = d.sv := rfl
@[simp] theorem Dev.subF_xe (f : Fld) (n i j : Nat) : (d.subF f n i j).xe = d.xe := rfl
@[simp] theorem Dev.subF_swaps (f : Fld) (n i j : Nat) : (d.subF f n i j).swaps = d.swaps := rfl
@[simp] theorem Dev.subF_win (f : Fld) (n i j : Nat) : (d.subF f n i j).win = d.win := rfl
@[simp] theorem Dev.subF_coll (f : Fld) (n i j : Nat) : (d.subF f n i j).coll = d.coll := rfl
@[simp] theorem Dev.subF_out (f : Fld) (n i j : Nat) : (d.subF f n i j).out = d.out := rfl
@[simp] theorem Dev.subF_free (f : Fld) (n i j : Nat) : (d.subF f n i j).free = d.free := rfl

@[simp] theorem Dev.emit_regs (o : Out) : (d.emit o).regs = d.regs := rfl
@[simp] theorem Dev.emit_hi (o : Out) : (d.emit o).hi = d.hi := rfl
@[simp] theorem Dev.emit_lo (o : Out) : (d.emit o).lo = d.lo := rfl
@[simp] theorem Dev.emit_pins (o : Out) : (d.emit o).pins = d.pins := rfl
@[simp] theorem Dev.emit_fuses (o : Out) : (d.emit o).fuses = d.fuses := rfl
@[simp] theorem Dev.emit_boot (o : Out) : (d.emit o).boot = d.boot := rfl
@[simp] theorem Dev.emit_flash (o : Out) : (d.emit o).flash = d.flash := rfl
@[simp] theorem Dev.emit_ring (o : Out) : (d.emit o).ring = d.ring := rfl
@[simp] theorem Dev.emit_link (o : Out) : (d.emit o).link = d.link := rfl
@[simp] theorem Dev.emit_cmds (o : Out) : (d.emit o).cmds = d.cmds := rfl
@[simp] theorem Dev.emit_nextId (o : Out) : (d.emit o).nextId = d.nextId := rfl
@[simp] theorem Dev.emit_quarantine (o : Out) : (d.emit o).quarantine = d.quarantine := rfl
@[simp] theorem Dev.emit_mem (o : Out) : (d.emit o).mem = d.mem := rfl
@[simp] theorem Dev.emit_lnd (o : Out) : (d.emit o).lnd = d.lnd := rfl
@[simp] theorem Dev.emit_err (o : Out) : (d.emit o).err = d.err := rfl
@[simp] theorem Dev.emit_stalls (o : Out) : (d.emit o).stalls = d.stalls := rfl
@[simp] theorem Dev.emit_fab (o : Out) : (d.emit o).fab = d.fab := rfl
@[simp] theorem Dev.emit_arb (o : Out) : (d.emit o).arb = d.arb := rfl
@[simp] theorem Dev.emit_scl (o : Out) : (d.emit o).scl = d.scl := rfl
@[simp] theorem Dev.emit_sec (o : Out) : (d.emit o).sec = d.sec := rfl
@[simp] theorem Dev.emit_borer (o : Out) : (d.emit o).borer = d.borer := rfl
@[simp] theorem Dev.emit_arr (o : Out) : (d.emit o).arr = d.arr := rfl
@[simp] theorem Dev.emit_sv (o : Out) : (d.emit o).sv = d.sv := rfl
@[simp] theorem Dev.emit_xe (o : Out) : (d.emit o).xe = d.xe := rfl
@[simp] theorem Dev.emit_swaps (o : Out) : (d.emit o).swaps = d.swaps := rfl
@[simp] theorem Dev.emit_win (o : Out) : (d.emit o).win = d.win := rfl
@[simp] theorem Dev.emit_coll (o : Out) : (d.emit o).coll = d.coll := rfl
@[simp] theorem Dev.emit_free (o : Out) : (d.emit o).free = d.free := rfl

@[simp] theorem Dev.updCmd_regs (id : Nat) (g : Cmd → Cmd) : (d.updCmd id g).regs = d.regs := rfl
@[simp] theorem Dev.updCmd_hi (id : Nat) (g : Cmd → Cmd) : (d.updCmd id g).hi = d.hi := rfl
@[simp] theorem Dev.updCmd_lo (id : Nat) (g : Cmd → Cmd) : (d.updCmd id g).lo = d.lo := rfl
@[simp] theorem Dev.updCmd_pins (id : Nat) (g : Cmd → Cmd) : (d.updCmd id g).pins = d.pins := rfl
@[simp] theorem Dev.updCmd_fuses (id : Nat) (g : Cmd → Cmd) : (d.updCmd id g).fuses = d.fuses := rfl
@[simp] theorem Dev.updCmd_boot (id : Nat) (g : Cmd → Cmd) : (d.updCmd id g).boot = d.boot := rfl
@[simp] theorem Dev.updCmd_flash (id : Nat) (g : Cmd → Cmd) : (d.updCmd id g).flash = d.flash := rfl
@[simp] theorem Dev.updCmd_ring (id : Nat) (g : Cmd → Cmd) : (d.updCmd id g).ring = d.ring := rfl
@[simp] theorem Dev.updCmd_link (id : Nat) (g : Cmd → Cmd) : (d.updCmd id g).link = d.link := rfl
@[simp] theorem Dev.updCmd_nextId (id : Nat) (g : Cmd → Cmd) : (d.updCmd id g).nextId = d.nextId := rfl
@[simp] theorem Dev.updCmd_quarantine (id : Nat) (g : Cmd → Cmd) : (d.updCmd id g).quarantine = d.quarantine := rfl
@[simp] theorem Dev.updCmd_mem (id : Nat) (g : Cmd → Cmd) : (d.updCmd id g).mem = d.mem := rfl
@[simp] theorem Dev.updCmd_lnd (id : Nat) (g : Cmd → Cmd) : (d.updCmd id g).lnd = d.lnd := rfl
@[simp] theorem Dev.updCmd_err (id : Nat) (g : Cmd → Cmd) : (d.updCmd id g).err = d.err := rfl
@[simp] theorem Dev.updCmd_stalls (id : Nat) (g : Cmd → Cmd) : (d.updCmd id g).stalls = d.stalls := rfl
@[simp] theorem Dev.updCmd_fab (id : Nat) (g : Cmd → Cmd) : (d.updCmd id g).fab = d.fab := rfl
@[simp] theorem Dev.updCmd_arb (id : Nat) (g : Cmd → Cmd) : (d.updCmd id g).arb = d.arb := rfl
@[simp] theorem Dev.updCmd_scl (id : Nat) (g : Cmd → Cmd) : (d.updCmd id g).scl = d.scl := rfl
@[simp] theorem Dev.updCmd_sec (id : Nat) (g : Cmd → Cmd) : (d.updCmd id g).sec = d.sec := rfl
@[simp] theorem Dev.updCmd_borer (id : Nat) (g : Cmd → Cmd) : (d.updCmd id g).borer = d.borer := rfl
@[simp] theorem Dev.updCmd_arr (id : Nat) (g : Cmd → Cmd) : (d.updCmd id g).arr = d.arr := rfl
@[simp] theorem Dev.updCmd_sv (id : Nat) (g : Cmd → Cmd) : (d.updCmd id g).sv = d.sv := rfl
@[simp] theorem Dev.updCmd_xe (id : Nat) (g : Cmd → Cmd) : (d.updCmd id g).xe = d.xe := rfl
@[simp] theorem Dev.updCmd_swaps (id : Nat) (g : Cmd → Cmd) : (d.updCmd id g).swaps = d.swaps := rfl
@[simp] theorem Dev.updCmd_win (id : Nat) (g : Cmd → Cmd) : (d.updCmd id g).win = d.win := rfl
@[simp] theorem Dev.updCmd_coll (id : Nat) (g : Cmd → Cmd) : (d.updCmd id g).coll = d.coll := rfl
@[simp] theorem Dev.updCmd_out (id : Nat) (g : Cmd → Cmd) : (d.updCmd id g).out = d.out := rfl
@[simp] theorem Dev.updCmd_free (id : Nat) (g : Cmd → Cmd) : (d.updCmd id g).free = d.free := rfl

@[simp] theorem Dev.failCmd_regs (id : Nat) (st : Status) : (d.failCmd id st).regs = d.regs := rfl
@[simp] theorem Dev.failCmd_hi (id : Nat) (st : Status) : (d.failCmd id st).hi = d.hi := rfl
@[simp] theorem Dev.failCmd_lo (id : Nat) (st : Status) : (d.failCmd id st).lo = d.lo := rfl
@[simp] theorem Dev.failCmd_pins (id : Nat) (st : Status) : (d.failCmd id st).pins = d.pins := rfl
@[simp] theorem Dev.failCmd_fuses (id : Nat) (st : Status) : (d.failCmd id st).fuses = d.fuses := rfl
@[simp] theorem Dev.failCmd_boot (id : Nat) (st : Status) : (d.failCmd id st).boot = d.boot := rfl
@[simp] theorem Dev.failCmd_flash (id : Nat) (st : Status) : (d.failCmd id st).flash = d.flash := rfl
@[simp] theorem Dev.failCmd_ring (id : Nat) (st : Status) : (d.failCmd id st).ring = d.ring := rfl
@[simp] theorem Dev.failCmd_link (id : Nat) (st : Status) : (d.failCmd id st).link = d.link := rfl
@[simp] theorem Dev.failCmd_nextId (id : Nat) (st : Status) : (d.failCmd id st).nextId = d.nextId := rfl
@[simp] theorem Dev.failCmd_quarantine (id : Nat) (st : Status) : (d.failCmd id st).quarantine = d.quarantine := rfl
@[simp] theorem Dev.failCmd_mem (id : Nat) (st : Status) : (d.failCmd id st).mem = d.mem := rfl
@[simp] theorem Dev.failCmd_lnd (id : Nat) (st : Status) : (d.failCmd id st).lnd = d.lnd := rfl
@[simp] theorem Dev.failCmd_err (id : Nat) (st : Status) : (d.failCmd id st).err = d.err := rfl
@[simp] theorem Dev.failCmd_stalls (id : Nat) (st : Status) : (d.failCmd id st).stalls = d.stalls := rfl
@[simp] theorem Dev.failCmd_fab (id : Nat) (st : Status) : (d.failCmd id st).fab = d.fab := rfl
@[simp] theorem Dev.failCmd_arb (id : Nat) (st : Status) : (d.failCmd id st).arb = d.arb := rfl
@[simp] theorem Dev.failCmd_scl (id : Nat) (st : Status) : (d.failCmd id st).scl = d.scl := rfl
@[simp] theorem Dev.failCmd_sec (id : Nat) (st : Status) : (d.failCmd id st).sec = d.sec := rfl
@[simp] theorem Dev.failCmd_borer (id : Nat) (st : Status) : (d.failCmd id st).borer = d.borer := rfl
@[simp] theorem Dev.failCmd_arr (id : Nat) (st : Status) : (d.failCmd id st).arr = d.arr := rfl
@[simp] theorem Dev.failCmd_sv (id : Nat) (st : Status) : (d.failCmd id st).sv = d.sv := rfl
@[simp] theorem Dev.failCmd_xe (id : Nat) (st : Status) : (d.failCmd id st).xe = d.xe := rfl
@[simp] theorem Dev.failCmd_swaps (id : Nat) (st : Status) : (d.failCmd id st).swaps = d.swaps := rfl
@[simp] theorem Dev.failCmd_win (id : Nat) (st : Status) : (d.failCmd id st).win = d.win := rfl
@[simp] theorem Dev.failCmd_coll (id : Nat) (st : Status) : (d.failCmd id st).coll = d.coll := rfl
@[simp] theorem Dev.failCmd_out (id : Nat) (st : Status) : (d.failCmd id st).out = d.out := rfl
@[simp] theorem Dev.failCmd_free (id : Nat) (st : Status) : (d.failCmd id st).free = d.free := rfl

@[simp] theorem Dev.failPart_regs (id j : Nat) (st : Status) : (d.failPart id j st).regs = d.regs := rfl
@[simp] theorem Dev.failPart_hi (id j : Nat) (st : Status) : (d.failPart id j st).hi = d.hi := rfl
@[simp] theorem Dev.failPart_lo (id j : Nat) (st : Status) : (d.failPart id j st).lo = d.lo := rfl
@[simp] theorem Dev.failPart_pins (id j : Nat) (st : Status) : (d.failPart id j st).pins = d.pins := rfl
@[simp] theorem Dev.failPart_fuses (id j : Nat) (st : Status) : (d.failPart id j st).fuses = d.fuses := rfl
@[simp] theorem Dev.failPart_boot (id j : Nat) (st : Status) : (d.failPart id j st).boot = d.boot := rfl
@[simp] theorem Dev.failPart_flash (id j : Nat) (st : Status) : (d.failPart id j st).flash = d.flash := rfl
@[simp] theorem Dev.failPart_ring (id j : Nat) (st : Status) : (d.failPart id j st).ring = d.ring := rfl
@[simp] theorem Dev.failPart_link (id j : Nat) (st : Status) : (d.failPart id j st).link = d.link := rfl
@[simp] theorem Dev.failPart_nextId (id j : Nat) (st : Status) : (d.failPart id j st).nextId = d.nextId := rfl
@[simp] theorem Dev.failPart_quarantine (id j : Nat) (st : Status) : (d.failPart id j st).quarantine = d.quarantine := rfl
@[simp] theorem Dev.failPart_mem (id j : Nat) (st : Status) : (d.failPart id j st).mem = d.mem := rfl
@[simp] theorem Dev.failPart_lnd (id j : Nat) (st : Status) : (d.failPart id j st).lnd = d.lnd := rfl
@[simp] theorem Dev.failPart_err (id j : Nat) (st : Status) : (d.failPart id j st).err = d.err := rfl
@[simp] theorem Dev.failPart_stalls (id j : Nat) (st : Status) : (d.failPart id j st).stalls = d.stalls := rfl
@[simp] theorem Dev.failPart_fab (id j : Nat) (st : Status) : (d.failPart id j st).fab = d.fab := rfl
@[simp] theorem Dev.failPart_arb (id j : Nat) (st : Status) : (d.failPart id j st).arb = d.arb := rfl
@[simp] theorem Dev.failPart_scl (id j : Nat) (st : Status) : (d.failPart id j st).scl = d.scl := rfl
@[simp] theorem Dev.failPart_sec (id j : Nat) (st : Status) : (d.failPart id j st).sec = d.sec := rfl
@[simp] theorem Dev.failPart_borer (id j : Nat) (st : Status) : (d.failPart id j st).borer = d.borer := rfl
@[simp] theorem Dev.failPart_arr (id j : Nat) (st : Status) : (d.failPart id j st).arr = d.arr := rfl
@[simp] theorem Dev.failPart_sv (id j : Nat) (st : Status) : (d.failPart id j st).sv = d.sv := rfl
@[simp] theorem Dev.failPart_xe (id j : Nat) (st : Status) : (d.failPart id j st).xe = d.xe := rfl
@[simp] theorem Dev.failPart_swaps (id j : Nat) (st : Status) : (d.failPart id j st).swaps = d.swaps := rfl
@[simp] theorem Dev.failPart_win (id j : Nat) (st : Status) : (d.failPart id j st).win = d.win := rfl
@[simp] theorem Dev.failPart_coll (id j : Nat) (st : Status) : (d.failPart id j st).coll = d.coll := rfl
@[simp] theorem Dev.failPart_out (id j : Nat) (st : Status) : (d.failPart id j st).out = d.out := rfl
@[simp] theorem Dev.failPart_free (id j : Nat) (st : Status) : (d.failPart id j st).free = d.free := rfl

@[simp] theorem Dev.finish_regs (id : Nat) : (d.finish id).regs = d.regs := rfl
@[simp] theorem Dev.finish_hi (id : Nat) : (d.finish id).hi = d.hi := rfl
@[simp] theorem Dev.finish_lo (id : Nat) : (d.finish id).lo = d.lo := rfl
@[simp] theorem Dev.finish_pins (id : Nat) : (d.finish id).pins = d.pins := rfl
@[simp] theorem Dev.finish_fuses (id : Nat) : (d.finish id).fuses = d.fuses := rfl
@[simp] theorem Dev.finish_boot (id : Nat) : (d.finish id).boot = d.boot := rfl
@[simp] theorem Dev.finish_flash (id : Nat) : (d.finish id).flash = d.flash := rfl
@[simp] theorem Dev.finish_ring (id : Nat) : (d.finish id).ring = d.ring := rfl
@[simp] theorem Dev.finish_link (id : Nat) : (d.finish id).link = d.link := rfl
@[simp] theorem Dev.finish_nextId (id : Nat) : (d.finish id).nextId = d.nextId := rfl
@[simp] theorem Dev.finish_quarantine (id : Nat) : (d.finish id).quarantine = d.quarantine := rfl
@[simp] theorem Dev.finish_mem (id : Nat) : (d.finish id).mem = d.mem := rfl
@[simp] theorem Dev.finish_lnd (id : Nat) : (d.finish id).lnd = d.lnd := rfl
@[simp] theorem Dev.finish_err (id : Nat) : (d.finish id).err = d.err := rfl
@[simp] theorem Dev.finish_stalls (id : Nat) : (d.finish id).stalls = d.stalls := rfl
@[simp] theorem Dev.finish_fab (id : Nat) : (d.finish id).fab = d.fab := rfl
@[simp] theorem Dev.finish_arb (id : Nat) : (d.finish id).arb = d.arb := rfl
@[simp] theorem Dev.finish_scl (id : Nat) : (d.finish id).scl = d.scl := rfl
@[simp] theorem Dev.finish_sec (id : Nat) : (d.finish id).sec = d.sec := rfl
@[simp] theorem Dev.finish_borer (id : Nat) : (d.finish id).borer = d.borer := rfl
@[simp] theorem Dev.finish_arr (id : Nat) : (d.finish id).arr = d.arr := rfl
@[simp] theorem Dev.finish_sv (id : Nat) : (d.finish id).sv = d.sv := rfl
@[simp] theorem Dev.finish_xe (id : Nat) : (d.finish id).xe = d.xe := rfl
@[simp] theorem Dev.finish_swaps (id : Nat) : (d.finish id).swaps = d.swaps := rfl
@[simp] theorem Dev.finish_win (id : Nat) : (d.finish id).win = d.win := rfl
@[simp] theorem Dev.finish_coll (id : Nat) : (d.finish id).coll = d.coll := rfl
@[simp] theorem Dev.finish_out (id : Nat) : (d.finish id).out = d.out := rfl
@[simp] theorem Dev.finish_free (id : Nat) : (d.finish id).free = d.free := rfl

@[simp] theorem Dev.settle_regs : (d.settle).regs = d.regs := rfl
@[simp] theorem Dev.settle_hi : (d.settle).hi = d.hi := rfl
@[simp] theorem Dev.settle_lo : (d.settle).lo = d.lo := rfl
@[simp] theorem Dev.settle_fuses : (d.settle).fuses = d.fuses := rfl
@[simp] theorem Dev.settle_boot : (d.settle).boot = d.boot := rfl
@[simp] theorem Dev.settle_flash : (d.settle).flash = d.flash := rfl
@[simp] theorem Dev.settle_ring : (d.settle).ring = d.ring := rfl
@[simp] theorem Dev.settle_link : (d.settle).link = d.link := rfl
@[simp] theorem Dev.settle_cmds : (d.settle).cmds = d.cmds := rfl
@[simp] theorem Dev.settle_nextId : (d.settle).nextId = d.nextId := rfl
@[simp] theorem Dev.settle_quarantine : (d.settle).quarantine = d.quarantine := rfl
@[simp] theorem Dev.settle_mem : (d.settle).mem = d.mem := rfl
@[simp] theorem Dev.settle_lnd : (d.settle).lnd = d.lnd := rfl
@[simp] theorem Dev.settle_err : (d.settle).err = d.err := rfl
@[simp] theorem Dev.settle_stalls : (d.settle).stalls = d.stalls := rfl
@[simp] theorem Dev.settle_fab : (d.settle).fab = d.fab := rfl
@[simp] theorem Dev.settle_arb : (d.settle).arb = d.arb := rfl
@[simp] theorem Dev.settle_scl : (d.settle).scl = d.scl := rfl
@[simp] theorem Dev.settle_sec : (d.settle).sec = d.sec := rfl
@[simp] theorem Dev.settle_borer : (d.settle).borer = d.borer := rfl
@[simp] theorem Dev.settle_arr : (d.settle).arr = d.arr := rfl
@[simp] theorem Dev.settle_sv : (d.settle).sv = d.sv := rfl
@[simp] theorem Dev.settle_xe : (d.settle).xe = d.xe := rfl
@[simp] theorem Dev.settle_swaps : (d.settle).swaps = d.swaps := rfl
@[simp] theorem Dev.settle_win : (d.settle).win = d.win := rfl
@[simp] theorem Dev.settle_coll : (d.settle).coll = d.coll := rfl
@[simp] theorem Dev.settle_out : (d.settle).out = d.out := rfl
@[simp] theorem Dev.settle_free : (d.settle).free = d.free := rfl

@[simp] theorem Dev.updRing_regs (g : RingSt → RingSt) : (d.updRing g).regs = d.regs := rfl
@[simp] theorem Dev.updRing_hi (g : RingSt → RingSt) : (d.updRing g).hi = d.hi := rfl
@[simp] theorem Dev.updRing_lo (g : RingSt → RingSt) : (d.updRing g).lo = d.lo := rfl
@[simp] theorem Dev.updRing_pins (g : RingSt → RingSt) : (d.updRing g).pins = d.pins := rfl
@[simp] theorem Dev.updRing_fuses (g : RingSt → RingSt) : (d.updRing g).fuses = d.fuses := rfl
@[simp] theorem Dev.updRing_boot (g : RingSt → RingSt) : (d.updRing g).boot = d.boot := rfl
@[simp] theorem Dev.updRing_flash (g : RingSt → RingSt) : (d.updRing g).flash = d.flash := rfl
@[simp] theorem Dev.updRing_link (g : RingSt → RingSt) : (d.updRing g).link = d.link := rfl
@[simp] theorem Dev.updRing_cmds (g : RingSt → RingSt) : (d.updRing g).cmds = d.cmds := rfl
@[simp] theorem Dev.updRing_nextId (g : RingSt → RingSt) : (d.updRing g).nextId = d.nextId := rfl
@[simp] theorem Dev.updRing_quarantine (g : RingSt → RingSt) : (d.updRing g).quarantine = d.quarantine := rfl
@[simp] theorem Dev.updRing_mem (g : RingSt → RingSt) : (d.updRing g).mem = d.mem := rfl
@[simp] theorem Dev.updRing_lnd (g : RingSt → RingSt) : (d.updRing g).lnd = d.lnd := rfl
@[simp] theorem Dev.updRing_err (g : RingSt → RingSt) : (d.updRing g).err = d.err := rfl
@[simp] theorem Dev.updRing_stalls (g : RingSt → RingSt) : (d.updRing g).stalls = d.stalls := rfl
@[simp] theorem Dev.updRing_fab (g : RingSt → RingSt) : (d.updRing g).fab = d.fab := rfl
@[simp] theorem Dev.updRing_arb (g : RingSt → RingSt) : (d.updRing g).arb = d.arb := rfl
@[simp] theorem Dev.updRing_scl (g : RingSt → RingSt) : (d.updRing g).scl = d.scl := rfl
@[simp] theorem Dev.updRing_sec (g : RingSt → RingSt) : (d.updRing g).sec = d.sec := rfl
@[simp] theorem Dev.updRing_borer (g : RingSt → RingSt) : (d.updRing g).borer = d.borer := rfl
@[simp] theorem Dev.updRing_arr (g : RingSt → RingSt) : (d.updRing g).arr = d.arr := rfl
@[simp] theorem Dev.updRing_sv (g : RingSt → RingSt) : (d.updRing g).sv = d.sv := rfl
@[simp] theorem Dev.updRing_xe (g : RingSt → RingSt) : (d.updRing g).xe = d.xe := rfl
@[simp] theorem Dev.updRing_swaps (g : RingSt → RingSt) : (d.updRing g).swaps = d.swaps := rfl
@[simp] theorem Dev.updRing_win (g : RingSt → RingSt) : (d.updRing g).win = d.win := rfl
@[simp] theorem Dev.updRing_coll (g : RingSt → RingSt) : (d.updRing g).coll = d.coll := rfl
@[simp] theorem Dev.updRing_out (g : RingSt → RingSt) : (d.updRing g).out = d.out := rfl
@[simp] theorem Dev.updRing_free (g : RingSt → RingSt) : (d.updRing g).free = d.free := rfl

@[simp] theorem Dev.updFab_regs (g : FabSt → FabSt) : (d.updFab g).regs = d.regs := rfl
@[simp] theorem Dev.updFab_hi (g : FabSt → FabSt) : (d.updFab g).hi = d.hi := rfl
@[simp] theorem Dev.updFab_lo (g : FabSt → FabSt) : (d.updFab g).lo = d.lo := rfl
@[simp] theorem Dev.updFab_pins (g : FabSt → FabSt) : (d.updFab g).pins = d.pins := rfl
@[simp] theorem Dev.updFab_fuses (g : FabSt → FabSt) : (d.updFab g).fuses = d.fuses := rfl
@[simp] theorem Dev.updFab_boot (g : FabSt → FabSt) : (d.updFab g).boot = d.boot := rfl
@[simp] theorem Dev.updFab_flash (g : FabSt → FabSt) : (d.updFab g).flash = d.flash := rfl
@[simp] theorem Dev.updFab_ring (g : FabSt → FabSt) : (d.updFab g).ring = d.ring := rfl
@[simp] theorem Dev.updFab_link (g : FabSt → FabSt) : (d.updFab g).link = d.link := rfl
@[simp] theorem Dev.updFab_cmds (g : FabSt → FabSt) : (d.updFab g).cmds = d.cmds := rfl
@[simp] theorem Dev.updFab_nextId (g : FabSt → FabSt) : (d.updFab g).nextId = d.nextId := rfl
@[simp] theorem Dev.updFab_quarantine (g : FabSt → FabSt) : (d.updFab g).quarantine = d.quarantine := rfl
@[simp] theorem Dev.updFab_mem (g : FabSt → FabSt) : (d.updFab g).mem = d.mem := rfl
@[simp] theorem Dev.updFab_lnd (g : FabSt → FabSt) : (d.updFab g).lnd = d.lnd := rfl
@[simp] theorem Dev.updFab_err (g : FabSt → FabSt) : (d.updFab g).err = d.err := rfl
@[simp] theorem Dev.updFab_stalls (g : FabSt → FabSt) : (d.updFab g).stalls = d.stalls := rfl
@[simp] theorem Dev.updFab_arb (g : FabSt → FabSt) : (d.updFab g).arb = d.arb := rfl
@[simp] theorem Dev.updFab_scl (g : FabSt → FabSt) : (d.updFab g).scl = d.scl := rfl
@[simp] theorem Dev.updFab_sec (g : FabSt → FabSt) : (d.updFab g).sec = d.sec := rfl
@[simp] theorem Dev.updFab_borer (g : FabSt → FabSt) : (d.updFab g).borer = d.borer := rfl
@[simp] theorem Dev.updFab_arr (g : FabSt → FabSt) : (d.updFab g).arr = d.arr := rfl
@[simp] theorem Dev.updFab_sv (g : FabSt → FabSt) : (d.updFab g).sv = d.sv := rfl
@[simp] theorem Dev.updFab_xe (g : FabSt → FabSt) : (d.updFab g).xe = d.xe := rfl
@[simp] theorem Dev.updFab_swaps (g : FabSt → FabSt) : (d.updFab g).swaps = d.swaps := rfl
@[simp] theorem Dev.updFab_win (g : FabSt → FabSt) : (d.updFab g).win = d.win := rfl
@[simp] theorem Dev.updFab_coll (g : FabSt → FabSt) : (d.updFab g).coll = d.coll := rfl
@[simp] theorem Dev.updFab_out (g : FabSt → FabSt) : (d.updFab g).out = d.out := rfl
@[simp] theorem Dev.updFab_free (g : FabSt → FabSt) : (d.updFab g).free = d.free := rfl

@[simp] theorem Dev.updArb_regs (g : ArbSt → ArbSt) : (d.updArb g).regs = d.regs := rfl
@[simp] theorem Dev.updArb_hi (g : ArbSt → ArbSt) : (d.updArb g).hi = d.hi := rfl
@[simp] theorem Dev.updArb_lo (g : ArbSt → ArbSt) : (d.updArb g).lo = d.lo := rfl
@[simp] theorem Dev.updArb_pins (g : ArbSt → ArbSt) : (d.updArb g).pins = d.pins := rfl
@[simp] theorem Dev.updArb_fuses (g : ArbSt → ArbSt) : (d.updArb g).fuses = d.fuses := rfl
@[simp] theorem Dev.updArb_boot (g : ArbSt → ArbSt) : (d.updArb g).boot = d.boot := rfl
@[simp] theorem Dev.updArb_flash (g : ArbSt → ArbSt) : (d.updArb g).flash = d.flash := rfl
@[simp] theorem Dev.updArb_ring (g : ArbSt → ArbSt) : (d.updArb g).ring = d.ring := rfl
@[simp] theorem Dev.updArb_link (g : ArbSt → ArbSt) : (d.updArb g).link = d.link := rfl
@[simp] theorem Dev.updArb_cmds (g : ArbSt → ArbSt) : (d.updArb g).cmds = d.cmds := rfl
@[simp] theorem Dev.updArb_nextId (g : ArbSt → ArbSt) : (d.updArb g).nextId = d.nextId := rfl
@[simp] theorem Dev.updArb_quarantine (g : ArbSt → ArbSt) : (d.updArb g).quarantine = d.quarantine := rfl
@[simp] theorem Dev.updArb_mem (g : ArbSt → ArbSt) : (d.updArb g).mem = d.mem := rfl
@[simp] theorem Dev.updArb_lnd (g : ArbSt → ArbSt) : (d.updArb g).lnd = d.lnd := rfl
@[simp] theorem Dev.updArb_err (g : ArbSt → ArbSt) : (d.updArb g).err = d.err := rfl
@[simp] theorem Dev.updArb_stalls (g : ArbSt → ArbSt) : (d.updArb g).stalls = d.stalls := rfl
@[simp] theorem Dev.updArb_fab (g : ArbSt → ArbSt) : (d.updArb g).fab = d.fab := rfl
@[simp] theorem Dev.updArb_scl (g : ArbSt → ArbSt) : (d.updArb g).scl = d.scl := rfl
@[simp] theorem Dev.updArb_sec (g : ArbSt → ArbSt) : (d.updArb g).sec = d.sec := rfl
@[simp] theorem Dev.updArb_borer (g : ArbSt → ArbSt) : (d.updArb g).borer = d.borer := rfl
@[simp] theorem Dev.updArb_arr (g : ArbSt → ArbSt) : (d.updArb g).arr = d.arr := rfl
@[simp] theorem Dev.updArb_sv (g : ArbSt → ArbSt) : (d.updArb g).sv = d.sv := rfl
@[simp] theorem Dev.updArb_xe (g : ArbSt → ArbSt) : (d.updArb g).xe = d.xe := rfl
@[simp] theorem Dev.updArb_swaps (g : ArbSt → ArbSt) : (d.updArb g).swaps = d.swaps := rfl
@[simp] theorem Dev.updArb_win (g : ArbSt → ArbSt) : (d.updArb g).win = d.win := rfl
@[simp] theorem Dev.updArb_coll (g : ArbSt → ArbSt) : (d.updArb g).coll = d.coll := rfl
@[simp] theorem Dev.updArb_out (g : ArbSt → ArbSt) : (d.updArb g).out = d.out := rfl
@[simp] theorem Dev.updArb_free (g : ArbSt → ArbSt) : (d.updArb g).free = d.free := rfl

@[simp] theorem Dev.updScl_regs (g : SclSt → SclSt) : (d.updScl g).regs = d.regs := rfl
@[simp] theorem Dev.updScl_hi (g : SclSt → SclSt) : (d.updScl g).hi = d.hi := rfl
@[simp] theorem Dev.updScl_lo (g : SclSt → SclSt) : (d.updScl g).lo = d.lo := rfl
@[simp] theorem Dev.updScl_pins (g : SclSt → SclSt) : (d.updScl g).pins = d.pins := rfl
@[simp] theorem Dev.updScl_fuses (g : SclSt → SclSt) : (d.updScl g).fuses = d.fuses := rfl
@[simp] theorem Dev.updScl_boot (g : SclSt → SclSt) : (d.updScl g).boot = d.boot := rfl
@[simp] theorem Dev.updScl_flash (g : SclSt → SclSt) : (d.updScl g).flash = d.flash := rfl
@[simp] theorem Dev.updScl_ring (g : SclSt → SclSt) : (d.updScl g).ring = d.ring := rfl
@[simp] theorem Dev.updScl_link (g : SclSt → SclSt) : (d.updScl g).link = d.link := rfl
@[simp] theorem Dev.updScl_cmds (g : SclSt → SclSt) : (d.updScl g).cmds = d.cmds := rfl
@[simp] theorem Dev.updScl_nextId (g : SclSt → SclSt) : (d.updScl g).nextId = d.nextId := rfl
@[simp] theorem Dev.updScl_quarantine (g : SclSt → SclSt) : (d.updScl g).quarantine = d.quarantine := rfl
@[simp] theorem Dev.updScl_mem (g : SclSt → SclSt) : (d.updScl g).mem = d.mem := rfl
@[simp] theorem Dev.updScl_lnd (g : SclSt → SclSt) : (d.updScl g).lnd = d.lnd := rfl
@[simp] theorem Dev.updScl_err (g : SclSt → SclSt) : (d.updScl g).err = d.err := rfl
@[simp] theorem Dev.updScl_stalls (g : SclSt → SclSt) : (d.updScl g).stalls = d.stalls := rfl
@[simp] theorem Dev.updScl_fab (g : SclSt → SclSt) : (d.updScl g).fab = d.fab := rfl
@[simp] theorem Dev.updScl_arb (g : SclSt → SclSt) : (d.updScl g).arb = d.arb := rfl
@[simp] theorem Dev.updScl_sec (g : SclSt → SclSt) : (d.updScl g).sec = d.sec := rfl
@[simp] theorem Dev.updScl_borer (g : SclSt → SclSt) : (d.updScl g).borer = d.borer := rfl
@[simp] theorem Dev.updScl_arr (g : SclSt → SclSt) : (d.updScl g).arr = d.arr := rfl
@[simp] theorem Dev.updScl_sv (g : SclSt → SclSt) : (d.updScl g).sv = d.sv := rfl
@[simp] theorem Dev.updScl_xe (g : SclSt → SclSt) : (d.updScl g).xe = d.xe := rfl
@[simp] theorem Dev.updScl_swaps (g : SclSt → SclSt) : (d.updScl g).swaps = d.swaps := rfl
@[simp] theorem Dev.updScl_win (g : SclSt → SclSt) : (d.updScl g).win = d.win := rfl
@[simp] theorem Dev.updScl_coll (g : SclSt → SclSt) : (d.updScl g).coll = d.coll := rfl
@[simp] theorem Dev.updScl_out (g : SclSt → SclSt) : (d.updScl g).out = d.out := rfl
@[simp] theorem Dev.updScl_free (g : SclSt → SclSt) : (d.updScl g).free = d.free := rfl

@[simp] theorem Dev.updBorer_regs (g : BorerSt → BorerSt) : (d.updBorer g).regs = d.regs := rfl
@[simp] theorem Dev.updBorer_hi (g : BorerSt → BorerSt) : (d.updBorer g).hi = d.hi := rfl
@[simp] theorem Dev.updBorer_lo (g : BorerSt → BorerSt) : (d.updBorer g).lo = d.lo := rfl
@[simp] theorem Dev.updBorer_pins (g : BorerSt → BorerSt) : (d.updBorer g).pins = d.pins := rfl
@[simp] theorem Dev.updBorer_fuses (g : BorerSt → BorerSt) : (d.updBorer g).fuses = d.fuses := rfl
@[simp] theorem Dev.updBorer_boot (g : BorerSt → BorerSt) : (d.updBorer g).boot = d.boot := rfl
@[simp] theorem Dev.updBorer_flash (g : BorerSt → BorerSt) : (d.updBorer g).flash = d.flash := rfl
@[simp] theorem Dev.updBorer_ring (g : BorerSt → BorerSt) : (d.updBorer g).ring = d.ring := rfl
@[simp] theorem Dev.updBorer_link (g : BorerSt → BorerSt) : (d.updBorer g).link = d.link := rfl
@[simp] theorem Dev.updBorer_cmds (g : BorerSt → BorerSt) : (d.updBorer g).cmds = d.cmds := rfl
@[simp] theorem Dev.updBorer_nextId (g : BorerSt → BorerSt) : (d.updBorer g).nextId = d.nextId := rfl
@[simp] theorem Dev.updBorer_quarantine (g : BorerSt → BorerSt) : (d.updBorer g).quarantine = d.quarantine := rfl
@[simp] theorem Dev.updBorer_mem (g : BorerSt → BorerSt) : (d.updBorer g).mem = d.mem := rfl
@[simp] theorem Dev.updBorer_lnd (g : BorerSt → BorerSt) : (d.updBorer g).lnd = d.lnd := rfl
@[simp] theorem Dev.updBorer_err (g : BorerSt → BorerSt) : (d.updBorer g).err = d.err := rfl
@[simp] theorem Dev.updBorer_stalls (g : BorerSt → BorerSt) : (d.updBorer g).stalls = d.stalls := rfl
@[simp] theorem Dev.updBorer_fab (g : BorerSt → BorerSt) : (d.updBorer g).fab = d.fab := rfl
@[simp] theorem Dev.updBorer_arb (g : BorerSt → BorerSt) : (d.updBorer g).arb = d.arb := rfl
@[simp] theorem Dev.updBorer_scl (g : BorerSt → BorerSt) : (d.updBorer g).scl = d.scl := rfl
@[simp] theorem Dev.updBorer_sec (g : BorerSt → BorerSt) : (d.updBorer g).sec = d.sec := rfl
@[simp] theorem Dev.updBorer_arr (g : BorerSt → BorerSt) : (d.updBorer g).arr = d.arr := rfl
@[simp] theorem Dev.updBorer_sv (g : BorerSt → BorerSt) : (d.updBorer g).sv = d.sv := rfl
@[simp] theorem Dev.updBorer_xe (g : BorerSt → BorerSt) : (d.updBorer g).xe = d.xe := rfl
@[simp] theorem Dev.updBorer_swaps (g : BorerSt → BorerSt) : (d.updBorer g).swaps = d.swaps := rfl
@[simp] theorem Dev.updBorer_win (g : BorerSt → BorerSt) : (d.updBorer g).win = d.win := rfl
@[simp] theorem Dev.updBorer_coll (g : BorerSt → BorerSt) : (d.updBorer g).coll = d.coll := rfl
@[simp] theorem Dev.updBorer_out (g : BorerSt → BorerSt) : (d.updBorer g).out = d.out := rfl
@[simp] theorem Dev.updBorer_free (g : BorerSt → BorerSt) : (d.updBorer g).free = d.free := rfl

@[simp] theorem Dev.updSvSt_regs (g : SvSt → SvSt) : (d.updSvSt g).regs = d.regs := rfl
@[simp] theorem Dev.updSvSt_hi (g : SvSt → SvSt) : (d.updSvSt g).hi = d.hi := rfl
@[simp] theorem Dev.updSvSt_lo (g : SvSt → SvSt) : (d.updSvSt g).lo = d.lo := rfl
@[simp] theorem Dev.updSvSt_pins (g : SvSt → SvSt) : (d.updSvSt g).pins = d.pins := rfl
@[simp] theorem Dev.updSvSt_fuses (g : SvSt → SvSt) : (d.updSvSt g).fuses = d.fuses := rfl
@[simp] theorem Dev.updSvSt_boot (g : SvSt → SvSt) : (d.updSvSt g).boot = d.boot := rfl
@[simp] theorem Dev.updSvSt_flash (g : SvSt → SvSt) : (d.updSvSt g).flash = d.flash := rfl
@[simp] theorem Dev.updSvSt_ring (g : SvSt → SvSt) : (d.updSvSt g).ring = d.ring := rfl
@[simp] theorem Dev.updSvSt_link (g : SvSt → SvSt) : (d.updSvSt g).link = d.link := rfl
@[simp] theorem Dev.updSvSt_cmds (g : SvSt → SvSt) : (d.updSvSt g).cmds = d.cmds := rfl
@[simp] theorem Dev.updSvSt_nextId (g : SvSt → SvSt) : (d.updSvSt g).nextId = d.nextId := rfl
@[simp] theorem Dev.updSvSt_quarantine (g : SvSt → SvSt) : (d.updSvSt g).quarantine = d.quarantine := rfl
@[simp] theorem Dev.updSvSt_mem (g : SvSt → SvSt) : (d.updSvSt g).mem = d.mem := rfl
@[simp] theorem Dev.updSvSt_lnd (g : SvSt → SvSt) : (d.updSvSt g).lnd = d.lnd := rfl
@[simp] theorem Dev.updSvSt_err (g : SvSt → SvSt) : (d.updSvSt g).err = d.err := rfl
@[simp] theorem Dev.updSvSt_stalls (g : SvSt → SvSt) : (d.updSvSt g).stalls = d.stalls := rfl
@[simp] theorem Dev.updSvSt_fab (g : SvSt → SvSt) : (d.updSvSt g).fab = d.fab := rfl
@[simp] theorem Dev.updSvSt_arb (g : SvSt → SvSt) : (d.updSvSt g).arb = d.arb := rfl
@[simp] theorem Dev.updSvSt_scl (g : SvSt → SvSt) : (d.updSvSt g).scl = d.scl := rfl
@[simp] theorem Dev.updSvSt_sec (g : SvSt → SvSt) : (d.updSvSt g).sec = d.sec := rfl
@[simp] theorem Dev.updSvSt_borer (g : SvSt → SvSt) : (d.updSvSt g).borer = d.borer := rfl
@[simp] theorem Dev.updSvSt_arr (g : SvSt → SvSt) : (d.updSvSt g).arr = d.arr := rfl
@[simp] theorem Dev.updSvSt_xe (g : SvSt → SvSt) : (d.updSvSt g).xe = d.xe := rfl
@[simp] theorem Dev.updSvSt_swaps (g : SvSt → SvSt) : (d.updSvSt g).swaps = d.swaps := rfl
@[simp] theorem Dev.updSvSt_win (g : SvSt → SvSt) : (d.updSvSt g).win = d.win := rfl
@[simp] theorem Dev.updSvSt_coll (g : SvSt → SvSt) : (d.updSvSt g).coll = d.coll := rfl
@[simp] theorem Dev.updSvSt_out (g : SvSt → SvSt) : (d.updSvSt g).out = d.out := rfl
@[simp] theorem Dev.updSvSt_free (g : SvSt → SvSt) : (d.updSvSt g).free = d.free := rfl

@[simp] theorem Dev.updXe_regs (g : XeSt → XeSt) : (d.updXe g).regs = d.regs := rfl
@[simp] theorem Dev.updXe_hi (g : XeSt → XeSt) : (d.updXe g).hi = d.hi := rfl
@[simp] theorem Dev.updXe_lo (g : XeSt → XeSt) : (d.updXe g).lo = d.lo := rfl
@[simp] theorem Dev.updXe_pins (g : XeSt → XeSt) : (d.updXe g).pins = d.pins := rfl
@[simp] theorem Dev.updXe_fuses (g : XeSt → XeSt) : (d.updXe g).fuses = d.fuses := rfl
@[simp] theorem Dev.updXe_boot (g : XeSt → XeSt) : (d.updXe g).boot = d.boot := rfl
@[simp] theorem Dev.updXe_flash (g : XeSt → XeSt) : (d.updXe g).flash = d.flash := rfl
@[simp] theorem Dev.updXe_ring (g : XeSt → XeSt) : (d.updXe g).ring = d.ring := rfl
@[simp] theorem Dev.updXe_link (g : XeSt → XeSt) : (d.updXe g).link = d.link := rfl
@[simp] theorem Dev.updXe_cmds (g : XeSt → XeSt) : (d.updXe g).cmds = d.cmds := rfl
@[simp] theorem Dev.updXe_nextId (g : XeSt → XeSt) : (d.updXe g).nextId = d.nextId := rfl
@[simp] theorem Dev.updXe_quarantine (g : XeSt → XeSt) : (d.updXe g).quarantine = d.quarantine := rfl
@[simp] theorem Dev.updXe_mem (g : XeSt → XeSt) : (d.updXe g).mem = d.mem := rfl
@[simp] theorem Dev.updXe_lnd (g : XeSt → XeSt) : (d.updXe g).lnd = d.lnd := rfl
@[simp] theorem Dev.updXe_err (g : XeSt → XeSt) : (d.updXe g).err = d.err := rfl
@[simp] theorem Dev.updXe_stalls (g : XeSt → XeSt) : (d.updXe g).stalls = d.stalls := rfl
@[simp] theorem Dev.updXe_fab (g : XeSt → XeSt) : (d.updXe g).fab = d.fab := rfl
@[simp] theorem Dev.updXe_arb (g : XeSt → XeSt) : (d.updXe g).arb = d.arb := rfl
@[simp] theorem Dev.updXe_scl (g : XeSt → XeSt) : (d.updXe g).scl = d.scl := rfl
@[simp] theorem Dev.updXe_sec (g : XeSt → XeSt) : (d.updXe g).sec = d.sec := rfl
@[simp] theorem Dev.updXe_borer (g : XeSt → XeSt) : (d.updXe g).borer = d.borer := rfl
@[simp] theorem Dev.updXe_arr (g : XeSt → XeSt) : (d.updXe g).arr = d.arr := rfl
@[simp] theorem Dev.updXe_sv (g : XeSt → XeSt) : (d.updXe g).sv = d.sv := rfl
@[simp] theorem Dev.updXe_swaps (g : XeSt → XeSt) : (d.updXe g).swaps = d.swaps := rfl
@[simp] theorem Dev.updXe_win (g : XeSt → XeSt) : (d.updXe g).win = d.win := rfl
@[simp] theorem Dev.updXe_coll (g : XeSt → XeSt) : (d.updXe g).coll = d.coll := rfl
@[simp] theorem Dev.updXe_out (g : XeSt → XeSt) : (d.updXe g).out = d.out := rfl
@[simp] theorem Dev.updXe_free (g : XeSt → XeSt) : (d.updXe g).free = d.free := rfl

@[simp] theorem Dev.updColl_regs (g : CollSt → CollSt) : (d.updColl g).regs = d.regs := rfl
@[simp] theorem Dev.updColl_hi (g : CollSt → CollSt) : (d.updColl g).hi = d.hi := rfl
@[simp] theorem Dev.updColl_lo (g : CollSt → CollSt) : (d.updColl g).lo = d.lo := rfl
@[simp] theorem Dev.updColl_pins (g : CollSt → CollSt) : (d.updColl g).pins = d.pins := rfl
@[simp] theorem Dev.updColl_fuses (g : CollSt → CollSt) : (d.updColl g).fuses = d.fuses := rfl
@[simp] theorem Dev.updColl_boot (g : CollSt → CollSt) : (d.updColl g).boot = d.boot := rfl
@[simp] theorem Dev.updColl_flash (g : CollSt → CollSt) : (d.updColl g).flash = d.flash := rfl
@[simp] theorem Dev.updColl_ring (g : CollSt → CollSt) : (d.updColl g).ring = d.ring := rfl
@[simp] theorem Dev.updColl_link (g : CollSt → CollSt) : (d.updColl g).link = d.link := rfl
@[simp] theorem Dev.updColl_cmds (g : CollSt → CollSt) : (d.updColl g).cmds = d.cmds := rfl
@[simp] theorem Dev.updColl_nextId (g : CollSt → CollSt) : (d.updColl g).nextId = d.nextId := rfl
@[simp] theorem Dev.updColl_quarantine (g : CollSt → CollSt) : (d.updColl g).quarantine = d.quarantine := rfl
@[simp] theorem Dev.updColl_mem (g : CollSt → CollSt) : (d.updColl g).mem = d.mem := rfl
@[simp] theorem Dev.updColl_lnd (g : CollSt → CollSt) : (d.updColl g).lnd = d.lnd := rfl
@[simp] theorem Dev.updColl_err (g : CollSt → CollSt) : (d.updColl g).err = d.err := rfl
@[simp] theorem Dev.updColl_stalls (g : CollSt → CollSt) : (d.updColl g).stalls = d.stalls := rfl
@[simp] theorem Dev.updColl_fab (g : CollSt → CollSt) : (d.updColl g).fab = d.fab := rfl
@[simp] theorem Dev.updColl_arb (g : CollSt → CollSt) : (d.updColl g).arb = d.arb := rfl
@[simp] theorem Dev.updColl_scl (g : CollSt → CollSt) : (d.updColl g).scl = d.scl := rfl
@[simp] theorem Dev.updColl_sec (g : CollSt → CollSt) : (d.updColl g).sec = d.sec := rfl
@[simp] theorem Dev.updColl_borer (g : CollSt → CollSt) : (d.updColl g).borer = d.borer := rfl
@[simp] theorem Dev.updColl_arr (g : CollSt → CollSt) : (d.updColl g).arr = d.arr := rfl
@[simp] theorem Dev.updColl_sv (g : CollSt → CollSt) : (d.updColl g).sv = d.sv := rfl
@[simp] theorem Dev.updColl_xe (g : CollSt → CollSt) : (d.updColl g).xe = d.xe := rfl
@[simp] theorem Dev.updColl_swaps (g : CollSt → CollSt) : (d.updColl g).swaps = d.swaps := rfl
@[simp] theorem Dev.updColl_win (g : CollSt → CollSt) : (d.updColl g).win = d.win := rfl
@[simp] theorem Dev.updColl_out (g : CollSt → CollSt) : (d.updColl g).out = d.out := rfl
@[simp] theorem Dev.updColl_free (g : CollSt → CollSt) : (d.updColl g).free = d.free := rfl

@[simp] theorem Dev.updWin_regs (g : WinSt → WinSt) : (d.updWin g).regs = d.regs := rfl
@[simp] theorem Dev.updWin_hi (g : WinSt → WinSt) : (d.updWin g).hi = d.hi := rfl
@[simp] theorem Dev.updWin_lo (g : WinSt → WinSt) : (d.updWin g).lo = d.lo := rfl
@[simp] theorem Dev.updWin_pins (g : WinSt → WinSt) : (d.updWin g).pins = d.pins := rfl
@[simp] theorem Dev.updWin_fuses (g : WinSt → WinSt) : (d.updWin g).fuses = d.fuses := rfl
@[simp] theorem Dev.updWin_boot (g : WinSt → WinSt) : (d.updWin g).boot = d.boot := rfl
@[simp] theorem Dev.updWin_flash (g : WinSt → WinSt) : (d.updWin g).flash = d.flash := rfl
@[simp] theorem Dev.updWin_ring (g : WinSt → WinSt) : (d.updWin g).ring = d.ring := rfl
@[simp] theorem Dev.updWin_link (g : WinSt → WinSt) : (d.updWin g).link = d.link := rfl
@[simp] theorem Dev.updWin_cmds (g : WinSt → WinSt) : (d.updWin g).cmds = d.cmds := rfl
@[simp] theorem Dev.updWin_nextId (g : WinSt → WinSt) : (d.updWin g).nextId = d.nextId := rfl
@[simp] theorem Dev.updWin_quarantine (g : WinSt → WinSt) : (d.updWin g).quarantine = d.quarantine := rfl
@[simp] theorem Dev.updWin_mem (g : WinSt → WinSt) : (d.updWin g).mem = d.mem := rfl
@[simp] theorem Dev.updWin_lnd (g : WinSt → WinSt) : (d.updWin g).lnd = d.lnd := rfl
@[simp] theorem Dev.updWin_err (g : WinSt → WinSt) : (d.updWin g).err = d.err := rfl
@[simp] theorem Dev.updWin_stalls (g : WinSt → WinSt) : (d.updWin g).stalls = d.stalls := rfl
@[simp] theorem Dev.updWin_fab (g : WinSt → WinSt) : (d.updWin g).fab = d.fab := rfl
@[simp] theorem Dev.updWin_arb (g : WinSt → WinSt) : (d.updWin g).arb = d.arb := rfl
@[simp] theorem Dev.updWin_scl (g : WinSt → WinSt) : (d.updWin g).scl = d.scl := rfl
@[simp] theorem Dev.updWin_sec (g : WinSt → WinSt) : (d.updWin g).sec = d.sec := rfl
@[simp] theorem Dev.updWin_borer (g : WinSt → WinSt) : (d.updWin g).borer = d.borer := rfl
@[simp] theorem Dev.updWin_arr (g : WinSt → WinSt) : (d.updWin g).arr = d.arr := rfl
@[simp] theorem Dev.updWin_sv (g : WinSt → WinSt) : (d.updWin g).sv = d.sv := rfl
@[simp] theorem Dev.updWin_xe (g : WinSt → WinSt) : (d.updWin g).xe = d.xe := rfl
@[simp] theorem Dev.updWin_swaps (g : WinSt → WinSt) : (d.updWin g).swaps = d.swaps := rfl
@[simp] theorem Dev.updWin_coll (g : WinSt → WinSt) : (d.updWin g).coll = d.coll := rfl
@[simp] theorem Dev.updWin_out (g : WinSt → WinSt) : (d.updWin g).out = d.out := rfl
@[simp] theorem Dev.updWin_free (g : WinSt → WinSt) : (d.updWin g).free = d.free := rfl

@[simp] theorem Dev.updBoot_regs (g : Boot → Boot) : (d.updBoot g).regs = d.regs := rfl
@[simp] theorem Dev.updBoot_hi (g : Boot → Boot) : (d.updBoot g).hi = d.hi := rfl
@[simp] theorem Dev.updBoot_lo (g : Boot → Boot) : (d.updBoot g).lo = d.lo := rfl
@[simp] theorem Dev.updBoot_pins (g : Boot → Boot) : (d.updBoot g).pins = d.pins := rfl
@[simp] theorem Dev.updBoot_fuses (g : Boot → Boot) : (d.updBoot g).fuses = d.fuses := rfl
@[simp] theorem Dev.updBoot_flash (g : Boot → Boot) : (d.updBoot g).flash = d.flash := rfl
@[simp] theorem Dev.updBoot_ring (g : Boot → Boot) : (d.updBoot g).ring = d.ring := rfl
@[simp] theorem Dev.updBoot_link (g : Boot → Boot) : (d.updBoot g).link = d.link := rfl
@[simp] theorem Dev.updBoot_cmds (g : Boot → Boot) : (d.updBoot g).cmds = d.cmds := rfl
@[simp] theorem Dev.updBoot_nextId (g : Boot → Boot) : (d.updBoot g).nextId = d.nextId := rfl
@[simp] theorem Dev.updBoot_quarantine (g : Boot → Boot) : (d.updBoot g).quarantine = d.quarantine := rfl
@[simp] theorem Dev.updBoot_mem (g : Boot → Boot) : (d.updBoot g).mem = d.mem := rfl
@[simp] theorem Dev.updBoot_lnd (g : Boot → Boot) : (d.updBoot g).lnd = d.lnd := rfl
@[simp] theorem Dev.updBoot_err (g : Boot → Boot) : (d.updBoot g).err = d.err := rfl
@[simp] theorem Dev.updBoot_stalls (g : Boot → Boot) : (d.updBoot g).stalls = d.stalls := rfl
@[simp] theorem Dev.updBoot_fab (g : Boot → Boot) : (d.updBoot g).fab = d.fab := rfl
@[simp] theorem Dev.updBoot_arb (g : Boot → Boot) : (d.updBoot g).arb = d.arb := rfl
@[simp] theorem Dev.updBoot_scl (g : Boot → Boot) : (d.updBoot g).scl = d.scl := rfl
@[simp] theorem Dev.updBoot_sec (g : Boot → Boot) : (d.updBoot g).sec = d.sec := rfl
@[simp] theorem Dev.updBoot_borer (g : Boot → Boot) : (d.updBoot g).borer = d.borer := rfl
@[simp] theorem Dev.updBoot_arr (g : Boot → Boot) : (d.updBoot g).arr = d.arr := rfl
@[simp] theorem Dev.updBoot_sv (g : Boot → Boot) : (d.updBoot g).sv = d.sv := rfl
@[simp] theorem Dev.updBoot_xe (g : Boot → Boot) : (d.updBoot g).xe = d.xe := rfl
@[simp] theorem Dev.updBoot_swaps (g : Boot → Boot) : (d.updBoot g).swaps = d.swaps := rfl
@[simp] theorem Dev.updBoot_win (g : Boot → Boot) : (d.updBoot g).win = d.win := rfl
@[simp] theorem Dev.updBoot_coll (g : Boot → Boot) : (d.updBoot g).coll = d.coll := rfl
@[simp] theorem Dev.updBoot_out (g : Boot → Boot) : (d.updBoot g).out = d.out := rfl
@[simp] theorem Dev.updBoot_free (g : Boot → Boot) : (d.updBoot g).free = d.free := rfl

@[simp] theorem Dev.setReg_regs (r : Reg) (v : BitVec 64) (i j : Nat) :
    (d.setReg r v i j).regs = SMap.set r.dflt d.regs (r.code i j) v := rfl
@[simp] theorem Dev.emit_out (o : Out) : (d.emit o).out = d.out ++ [o] := rfl
@[simp] theorem Dev.settle_reg (r : Reg) (i j : Nat) : d.settle.reg r i j = d.reg r i j := rfl
@[simp] theorem Dev.settle_f (f : Fld) (i j : Nat) : d.settle.f f i j = d.f f i j := rfl
@[simp] theorem Dev.emit_reg (o : Out) (r : Reg) (i j : Nat) : (d.emit o).reg r i j = d.reg r i j := rfl
@[simp] theorem Dev.emit_f (o : Out) (f : Fld) (i j : Nat) : (d.emit o).f f i j = d.f f i j := rfl
@[simp] theorem Dev.updCmd_reg (id : Nat) (g : Cmd → Cmd) (r : Reg) (i j : Nat) : (d.updCmd id g).reg r i j = d.reg r i j := rfl
@[simp] theorem Dev.updCmd_f (id : Nat) (g : Cmd → Cmd) (f : Fld) (i j : Nat) : (d.updCmd id g).f f i j = d.f f i j := rfl

@[simp] theorem Dev.updRing_ring (g : RingSt → RingSt) : (d.updRing g).ring = g d.ring := rfl
@[simp] theorem Dev.updFab_fab (g : FabSt → FabSt) : (d.updFab g).fab = g d.fab := rfl
@[simp] theorem Dev.updArb_arb (g : ArbSt → ArbSt) : (d.updArb g).arb = g d.arb := rfl
@[simp] theorem Dev.updScl_scl (g : SclSt → SclSt) : (d.updScl g).scl = g d.scl := rfl
@[simp] theorem Dev.updBorer_borer (g : BorerSt → BorerSt) : (d.updBorer g).borer = g d.borer := rfl
@[simp] theorem Dev.updSvSt_sv (g : SvSt → SvSt) : (d.updSvSt g).sv = g d.sv := rfl
@[simp] theorem Dev.updXe_xe (g : XeSt → XeSt) : (d.updXe g).xe = g d.xe := rfl
@[simp] theorem Dev.updColl_coll (g : CollSt → CollSt) : (d.updColl g).coll = g d.coll := rfl
@[simp] theorem Dev.updWin_win (g : WinSt → WinSt) : (d.updWin g).win = g d.win := rfl
@[simp] theorem Dev.updBoot_boot (g : Boot → Boot) : (d.updBoot g).boot = g d.boot := rfl

/-- A command's step is its effect followed by the output balls. -/
theorem State.act_eq (s : State) (g : Dev → Dev) : s.act g = .next { dev := (g s.dev).settle, pending := s.pending } := rfl

/-- A row of an engine changes nothing while 1,024 records are held (R43, R328). -/
theorem State.engine_stalled (s : State) (g : Dev → Dev) (h : s.dev.stalled = true) : s.engine g = s.act id := by
  simp [State.engine, State.act, h]

/-- A row of an engine is its effect followed by the output balls while fewer records are held. -/
theorem State.engine_eq (s : State) (g : Dev → Dev) (h : s.dev.stalled = false) : s.engine g = s.act g := by
  simp [State.engine, State.act, h]

end Sys2Proof.Machine
end

