-- ==== Sys2Proof/Laws/Regs.lean ====
section
/-! SUPPORT. Sorted maps, registers and their fields: a read after a write, and what a write leaves alone. -/

namespace Sys2Proof

/-! ## Sorted maps -/

theorem SMap.get_erase {α : Type} (dflt : α) (m : SMap α) (k k' : Nat) :
    SMap.get dflt (SMap.erase m k) k' = if k' = k then dflt else SMap.get dflt m k' := by
  induction m with
  | nil => simp [SMap.erase, SMap.get]
  | cons e m ih =>
    obtain ⟨a, v⟩ := e
    unfold SMap.erase at ih ⊢
    by_cases h : a = k
    · subst h
      simp only [ne_eq, decide_not, List.filter_cons, decide_true, Bool.not_true, Bool.false_eq_true, ite_false] at ih ⊢
      rw [ih]
      by_cases h' : k' = a
      · simp [h']
      · simp [h', SMap.get, Ne.symm h']
    · simp only [ne_eq, decide_not, List.filter_cons, h, decide_false, Bool.not_false, ite_true] at ih ⊢
      unfold SMap.get
      by_cases h' : a = k'
      · subst h'; simp [h]
      · simp only [h', ite_false]; exact ih

theorem SMap.get_insert {α : Type} (dflt : α) (m : SMap α) (k k' : Nat) (v : α) :
    SMap.get dflt (SMap.insert m k v) k' = if k' = k then v else SMap.get dflt m k' := by
  induction m with
  | nil => simp [SMap.insert, SMap.get, eq_comm]
  | cons e m ih =>
    obtain ⟨a, w⟩ := e
    unfold SMap.insert
    by_cases h : a = k
    · subst h
      by_cases h' : k' = a
      · subst h'; simp [SMap.get]
      · simp [SMap.get, h', Ne.symm h']
    · by_cases hlt : a < k
      · simp only [h, hlt, ite_true, ite_false]
        unfold SMap.get
        by_cases h' : a = k'
        · subst h'; simp [h]
        · simp only [h', ite_false]; exact ih
      · simp only [h, hlt, ite_false]
        by_cases h' : k' = k
        · subst h'; simp [SMap.get]
        · simp [SMap.get, h', Ne.symm h']

/-- A read after a write of a sorted map. -/
theorem SMap.get_set {α : Type} [DecidableEq α] (dflt : α) (m : SMap α) (k k' : Nat) (v : α) :
    SMap.get dflt (SMap.set dflt m k v) k' = if k' = k then v else SMap.get dflt m k' := by
  unfold SMap.set
  by_cases h : v = dflt
  · subst h; simp only [ite_true]; exact SMap.get_erase v m k k'
  · simp only [h, ite_false]; exact SMap.get_insert dflt m k k' v

namespace Machine

/-! ## Registers -/

theorem Reg.code_reg {r r' : Reg} {i j i' j' : Nat} (h : r.code i j = r'.code i' j') : r = r' := by
  have hc : r.ctorIdx = r'.ctorIdx := by unfold Reg.code at h; omega
  rw [← Reg.ofNat_ctorIdx r, ← Reg.ofNat_ctorIdx r', hc]

theorem Reg.code_inj {r r' : Reg} {i j i' j' : Nat} (hi : i < 65536) (hj : j < 65536) (hi' : i' < 65536) (hj' : j' < 65536) :
    r.code i j = r'.code i' j' ↔ r = r' ∧ i = i' ∧ j = j' := by
  constructor
  · intro h
    have hr := Reg.code_reg h
    subst hr
    refine ⟨rfl, ?_⟩
    unfold Reg.code at h
    omega
  · rintro ⟨rfl, rfl, rfl⟩; rfl

/-- A read of a register after a write of one. -/
theorem Dev.reg_setReg (d : Dev) (r r' : Reg) (v : BitVec 64) (i j i' j' : Nat) :
    (d.setReg r v i j).reg r' i' j' = if r'.code i' j' = r.code i j then v else d.reg r' i' j' := by
  unfold Dev.reg
  rw [Dev.setReg_regs]
  by_cases h : r'.code i' j' = r.code i j
  · have hr := Reg.code_reg h
    subst hr
    rw [SMap.get_set]
  · by_cases hd : r'.dflt = r.dflt
    · rw [hd, SMap.get_set]
    · simp only [h, ite_false]
      unfold SMap.set
      split
      · rw [SMap.get_erase]; simp [h]
      · rw [SMap.get_insert]; simp [h]

@[simp] theorem Dev.reg_setReg_same (d : Dev) (r : Reg) (v : BitVec 64) (i j : Nat) : (d.setReg r v i j).reg r i j = v := by
  simp [Dev.reg_setReg]

theorem Dev.reg_setReg_ne (d : Dev) {r r' : Reg} (v : BitVec 64) (i j i' j' : Nat) (h : r' ≠ r) :
    (d.setReg r v i j).reg r' i' j' = d.reg r' i' j' := by
  rw [Dev.reg_setReg]
  exact if_neg (fun hc => h (Reg.code_reg hc))

/-! ## Fields -/

theorem Fld.mask_bit (f : Fld) (k : Nat) (h : f.lo + f.width ≤ 64) :
    f.mask.getLsbD k = decide (f.lo ≤ k ∧ k < f.lo + f.width) := by
  unfold Fld.mask
  rw [BitVec.getLsbD_ofNat, Nat.testBit_mul_two_pow, Nat.testBit_two_pow_sub_one, Bool.eq_iff_iff]
  simp; omega

theorem Fld.put_bit (f : Fld) (v : BitVec 64) (n k : Nat) (h : f.lo + f.width ≤ 64) :
    (f.put v n).getLsbD k = if f.lo ≤ k ∧ k < f.lo + f.width then n.testBit (k - f.lo) else v.getLsbD k := by
  unfold Fld.put
  rw [BitVec.getLsbD_or, BitVec.getLsbD_and, BitVec.getLsbD_and, BitVec.getLsbD_not, Fld.mask_bit f k h,
    BitVec.getLsbD_ofNat, Nat.testBit_mul_two_pow, Nat.testBit_mod_two_pow]
  by_cases hk : f.lo ≤ k ∧ k < f.lo + f.width
  · have h1 : k < 64 := by omega
    have h2 : k - f.lo < f.width := by omega
    simp [hk, h1, h2]
  · by_cases h1 : k < 64
    · simp [hk, h1]
    · simp [hk, h1, BitVec.getLsbD_of_ge v k (by omega)]

theorem Fld.of_bit (f : Fld) (v : BitVec 64) (k : Nat) :
    (f.of v).testBit k = (decide (k < f.width) && v.getLsbD (f.lo + k)) := by
  unfold Fld.of bits
  rw [Nat.testBit_mod_two_pow, Nat.testBit_div_two_pow, BitVec.getLsbD]
  simp [Nat.add_comm]

/-- A field reads what was put in it, cut to its width. -/
theorem Fld.of_put_same (f : Fld) (v : BitVec 64) (n : Nat) (h : f.lo + f.width ≤ 64) :
    f.of (f.put v n) = n % 2 ^ f.width := by
  apply Nat.eq_of_testBit_eq
  intro k
  rw [Fld.of_bit, Fld.put_bit f v n _ h, Nat.testBit_mod_two_pow]
  by_cases hk : k < f.width
  · simp [hk]
  · simp [hk]

/-- A field keeps its value when another, apart from it, is put. -/
theorem Fld.of_put_ne (f g : Fld) (v : BitVec 64) (n : Nat) (h : f.lo + f.width ≤ 64)
    (hd : g.lo + g.width ≤ f.lo ∨ f.lo + f.width ≤ g.lo) : g.of (f.put v n) = g.of v := by
  apply Nat.eq_of_testBit_eq
  intro k
  rw [Fld.of_bit, Fld.of_bit, Fld.put_bit f v n _ h]
  by_cases hk : k < g.width
  · have : ¬ (f.lo ≤ g.lo + k ∧ g.lo + k < f.lo + f.width) := by omega
    simp [hk, this]
  · simp [hk]

/-- A field of a register after it has been set. -/
theorem Dev.f_setF_same (d : Dev) (f : Fld) (n i j : Nat) (h : f.lo + f.width ≤ 64) :
    (d.setF f n i j).f f i j = n % 2 ^ f.width := by
  unfold Dev.setF Dev.f
  rw [Dev.reg_setReg_same, Fld.of_put_same f _ n h]

/-- A field of another register, or of another instance, after a field has been set. -/
theorem Dev.f_setF_ne_code (d : Dev) (f g : Fld) (n i j i' j' : Nat) (h : g.reg.code i' j' ≠ f.reg.code i j) :
    (d.setF f n i j).f g i' j' = d.f g i' j' := by
  unfold Dev.setF Dev.f
  rw [Dev.reg_setReg, if_neg h]

theorem Dev.f_setF_ne_reg (d : Dev) (f g : Fld) (n i j i' j' : Nat) (h : g.reg ≠ f.reg) :
    (d.setF f n i j).f g i' j' = d.f g i' j' := Dev.f_setF_ne_code d f g n i j i' j' (fun hc => h (Reg.code_reg hc))

/-- Another field of the same instance after a field has been set. -/
theorem Dev.f_setF_apart (d : Dev) (f g : Fld) (n i j : Nat) (hr : g.reg = f.reg) (h : f.lo + f.width ≤ 64)
    (hd : g.lo + g.width ≤ f.lo ∨ f.lo + f.width ≤ g.lo) : (d.setF f n i j).f g i j = d.f g i j := by
  unfold Dev.setF Dev.f
  rw [hr, Dev.reg_setReg_same, Fld.of_put_ne f g _ n h hd]

/-- A register of another code after a field has been set. -/
theorem Dev.reg_setF_ne (d : Dev) (f : Fld) (r : Reg) (n i j i' j' : Nat) (h : r.code i' j' ≠ f.reg.code i j) :
    (d.setF f n i j).reg r i' j' = d.reg r i' j' := by
  unfold Dev.setF
  rw [Dev.reg_setReg, if_neg h]

/-! ## The host's writes -/

/-- A write that the register accepts has the register's own action. -/
theorem Dev.hostWrite_ok (d : Dev) (ap : Aperture) (r : Reg) (i j : Nat) (g : Dev → Dev) (h1 : d.hostUp = true)
    (h2 : d.flag .DEV_STATUS_WARM_BUSY = false) (h3 : d.mayWrite ap r i = true) : d.hostWrite ap r i j g = g d := by
  simp [Dev.hostWrite, h1, h2, h3]

/-- A read through an aperture that may read the block. -/
theorem Dev.hostRead_ok (d : Dev) (ap : Aperture) (addr bytes : Nat) (g : Dev → Dev × BitVec 64) (h1 : d.hostUp = true)
    (h2 : d.flag .DEV_STATUS_WARM_BUSY = false) (h3 : mayRead ap addr = true) :
    d.hostRead ap addr bytes g = (g d).1.emit (.readData bytes (g d).2) := by
  simp [Dev.hostRead, h1, h2, h3]

end Machine
end Sys2Proof
end

