-- ==== Sys2Proof/Laws/Memory.lean ====
section
/-! SUPPORT. The canonical form of memory is kept by every memory operation, and bytes read back as they were written. -/

namespace Sys2Proof

theorem SMap.wf_iff {α : Type} [DecidableEq α] (dflt : Nat → α) (m : SMap α) :
    SMap.wf dflt m = true ↔ m.Pairwise (fun a b => a.1 < b.1) ∧ ∀ e ∈ m, e.2 ≠ dflt e.1 := by
  induction m with
  | nil => simp [SMap.wf]
  | cons e m ih =>
    obtain ⟨a, v⟩ := e
    cases m with
    | nil => simp [SMap.wf]
    | cons f m =>
      obtain ⟨b, w⟩ := f
      rw [SMap.wf, Bool.and_eq_true, Bool.and_eq_true, ih]
      simp only [List.pairwise_cons, List.mem_cons, ne_eq, decide_not, Bool.not_eq_eq_eq_not, Bool.not_true,
        decide_eq_false_iff_not, decide_eq_true_eq, forall_eq_or_imp]
      constructor
      · rintro ⟨⟨h1, h2⟩, ⟨h3, h4⟩, h5, h6⟩
        exact ⟨⟨⟨h2, fun c hc => lt_trans h2 (h3 c hc)⟩, h3, h4⟩, h1, h5, h6⟩
      · rintro ⟨⟨⟨h2, _⟩, h3, h4⟩, h1, h5, h6⟩
        exact ⟨⟨h1, h2⟩, ⟨h3, h4⟩, h5, h6⟩

theorem SMap.mem_insert {α : Type} (m : SMap α) (k : Nat) (v : α) (e : Nat × α) (h : e ∈ SMap.insert m k v) :
    e = (k, v) ∨ e ∈ m := by
  induction m with
  | nil => simpa [SMap.insert] using h
  | cons f m ih =>
    obtain ⟨a, w⟩ := f
    unfold SMap.insert at h
    split at h
    · simp only [List.mem_cons] at h ⊢; tauto
    · split at h
      · simp only [List.mem_cons] at h ⊢
        rcases h with h | h
        · tauto
        · have := ih h; tauto
      · simp only [List.mem_cons] at h ⊢; tauto

theorem SMap.insert_sorted {α : Type} (m : SMap α) (k : Nat) (v : α) (h : m.Pairwise (fun a b => a.1 < b.1)) :
    (SMap.insert m k v).Pairwise (fun a b => a.1 < b.1) := by
  induction m with
  | nil => simp [SMap.insert]
  | cons f m ih =>
    obtain ⟨a, w⟩ := f
    rw [List.pairwise_cons] at h
    unfold SMap.insert
    split
    · rename_i hk; subst hk; exact List.pairwise_cons.mpr h
    · split
      · rename_i hlt
        refine List.pairwise_cons.mpr ⟨?_, ih h.2⟩
        intro e he
        rcases SMap.mem_insert m k v e he with rfl | he
        · exact hlt
        · exact h.1 e he
      · rename_i hne hlt
        have hk : k < a := by omega
        refine List.pairwise_cons.mpr ⟨?_, List.pairwise_cons.mpr h⟩
        intro e he
        rcases List.mem_cons.mp he with rfl | he
        · exact hk
        · exact lt_trans hk (h.1 e he)

/-- Giving a key a value keeps the canonical form. -/
theorem SMap.wf_set {α : Type} [DecidableEq α] (dflt : α) (m : SMap α) (k : Nat) (v : α)
    (h : SMap.wf (fun _ => dflt) m = true) : SMap.wf (fun _ => dflt) (SMap.set dflt m k v) = true := by
  rw [SMap.wf_iff] at h ⊢
  unfold SMap.set
  split
  · exact ⟨h.1.filter _, fun e he => h.2 e (List.mem_of_mem_filter he)⟩
  · rename_i hv
    refine ⟨SMap.insert_sorted m k v h.1, fun e he => ?_⟩
    rcases SMap.mem_insert m k v e he with rfl | he
    · exact hv
    · exact h.2 e he

/-- Dropping entries keeps the canonical form. -/
theorem SMap.wf_filter {α : Type} [DecidableEq α] (dflt : Nat → α) (m : SMap α) (p : Nat × α → Bool)
    (h : SMap.wf dflt m = true) : SMap.wf dflt (m.filter p) = true := by
  rw [SMap.wf_iff] at h ⊢
  exact ⟨h.1.filter _, fun e he => h.2 e (List.mem_of_mem_filter he)⟩

namespace Machine

theorem writeBytes_wf (m : SMap Byte) (a : Nat) (bs : List Byte) (h : SMap.wf (fun _ => 0) m = true) :
    SMap.wf (fun _ => 0) (writeBytes m a bs) = true := by
  induction bs generalizing m a with
  | nil => exact h
  | cons b bs ih => exact ih _ _ (SMap.wf_set 0 m a b h)

/-- A byte of a sparse memory after a write. -/
theorem get_writeBytes (m : SMap Byte) (a : Nat) (bs : List Byte) (k : Nat) :
    SMap.get 0 (writeBytes m a bs) k = if a ≤ k ∧ k < a + bs.length then bs.getD (k - a) 0 else SMap.get 0 m k := by
  induction bs generalizing m a with
  | nil => simp [writeBytes]
  | cons b bs ih =>
    unfold writeBytes
    rw [ih, SMap.get_set]
    by_cases h1 : k = a
    · subst h1; simp
    · by_cases h2 : a + 1 ≤ k ∧ k < a + 1 + bs.length
      · have h3 : a ≤ k ∧ k < a + (b :: bs).length := by simp; omega
        have h4 : k - a = (k - (a + 1)) + 1 := by omega
        rw [if_pos h2, if_pos h3, h4, List.getD_cons_succ]
      · have h3 : ¬ (a ≤ k ∧ k < a + (b :: bs).length) := by simp; omega
        rw [if_neg h2, if_neg h3, if_neg h1]

/-- What was written reads back. -/
theorem readBytes_writeBytes (m : SMap Byte) (a : Nat) (bs : List Byte) :
    readBytes (writeBytes m a bs) a bs.length = bs := by
  apply List.ext_getElem
  · simp [readBytes]
  · intro i h1 h2
    have h3 := get_writeBytes m a bs (a + i)
    rw [if_pos (by omega), Nat.add_sub_cancel_left, List.getD_eq_getElem _ _ h2] at h3
    simpa [readBytes] using h3

/-- Bytes apart from a write read as before. -/
theorem readBytes_writeBytes_apart (m : SMap Byte) (a b n : Nat) (bs : List Byte) (h : b + n ≤ a ∨ a + bs.length ≤ b) :
    readBytes (writeBytes m a bs) b n = readBytes m b n := by
  unfold readBytes
  apply List.map_congr_left
  intro i hi
  rw [List.mem_range] at hi
  rw [get_writeBytes, if_neg (by omega)]

theorem Dev.physWrite_wf (d e : Dev) (a : Nat) (bs : List Byte) (h : d.physWrite a bs = .ok e)
    (hw : Memory.wf d.mem = true) : Memory.wf e.mem = true := by
  unfold Dev.physWrite at h
  split at h
  · cases h
  · split at h
    · cases h
    · cases h
      simp only [Memory.wf, Bool.and_eq_true] at hw ⊢
      exact ⟨writeBytes_wf _ _ _ hw.1, hw.2⟩

theorem Dev.slabWrite_wf (d e : Dev) (arr off : Nat) (bs : List Byte) (h : d.slabWrite arr off bs = .ok e)
    (hw : Memory.wf d.mem = true) : Memory.wf e.mem = true := by
  unfold Dev.slabWrite at h
  split at h
  · cases h
  · dsimp only at h
    split at h
    · cases h
    · cases h
      simp only [Memory.wf, Bool.and_eq_true] at hw ⊢
      exact ⟨hw.1, writeBytes_wf _ _ _ hw.2⟩

/-- Filling a buffer with zeros keeps the canonical form. -/
theorem Dev.lndZero_wf (d e : Dev) (b : Nat × Nat) (n : Nat) (h : d.lndZero b n = .ok e)
    (hw : Memory.wf d.mem = true) : Memory.wf e.mem = true := by
  unfold Dev.lndZero at h
  dsimp only at h
  split at h
  · cases h
  · cases h
    simp only [Memory.wf, Bool.and_eq_true] at hw ⊢
    exact ⟨SMap.wf_filter _ _ _ hw.1, hw.2⟩

/-- A store into a Landing buffer is a physical write, and keeps the canonical form. -/
theorem Dev.lndStore_wf (d e : Dev) (b : Nat × Nat) (off : Nat) (bs : List Byte) (h : d.lndStore b off bs = .ok e)
    (hw : Memory.wf d.mem = true) : Memory.wf e.mem = true := Dev.physWrite_wf _ _ _ _ h hw

/-- An emergency requester that takes a resource touches no memory. -/
@[simp] theorem Dev.arbTake_mem (d : Dev) (a : Nat) : (d.arbTake a).mem = d.mem := by
  unfold Dev.arbTake
  dsimp only
  split
  · rfl
  · split <;> rfl

/-- One that releases it touches none. -/
@[simp] theorem Dev.arbRelease_mem (d : Dev) (a : Nat) : (d.arbRelease a).mem = d.mem := by
  unfold Dev.arbRelease
  split <;> rfl

/-- The debug port that gives up what it holds touches no memory. -/
@[simp] theorem Dev.dbgStop_mem (d : Dev) : d.dbgStop.mem = d.mem := by
  have h : ∀ (l : List Nat) (e : Dev), (l.foldl Dev.arbRelease e).mem = e.mem := by
    intro l
    induction l with
    | nil => intro e; rfl
    | cons a l ih => intro e; rw [List.foldl_cons, ih, Dev.arbRelease_mem]
  exact h _ _

/-- A line written through the debug port keeps the canonical form. -/
theorem Dev.slabLine_wf (d : Dev) (arr off : Nat) (line : Line) (hw : Memory.wf d.mem = true) :
    Memory.wf (d.slabLine arr off true line).mem = true := by
  simp only [Dev.slabLine, if_true, Memory.wf, Bool.and_eq_true] at hw ⊢
  exact ⟨hw.1, writeBytes_wf _ _ _ hw.2⟩

theorem Dev.slabAccess_wf (d : Dev) (trst : Bool) (arr off : Nat) (line : Line) (hw : Memory.wf d.mem = true) :
    Memory.wf (d.slabAccess trst arr off true line).mem = true := by
  unfold Dev.slabAccess
  split
  · simpa using hw
  · split
    · exact hw
    · simp only [Dev.arbRelease_mem]
      apply Dev.slabLine_wf
      split <;> simpa using hw

theorem Dev.objtabDone_wf (d : Dev) (p : Nat) (hw : Memory.wf d.mem = true) : Memory.wf (d.objtabDone p).mem = true := by
  unfold Dev.objtabDone
  split
  · exact hw
  · simp only [Memory.wf, Bool.and_eq_true] at hw ⊢
    exact ⟨SMap.wf_filter _ _ _ hw.1, hw.2⟩

/-- The memory of the reset state has the canonical form. -/
theorem reset_memory_wf : Memory.wf State.reset.dev.mem = true := by decide

/-- A read sees what a write to the same physical bytes stored. -/
theorem Dev.physRead_physWrite (d e : Dev) (a : Nat) (bs : List Byte) (h : d.physWrite a bs = .ok e)
    (hu : e.mem.hbmBad.all (fun l => !overlaps l 64 a bs.length) = true) :
    e.physRead a bs.length = .ok bs := by
  unfold Dev.physWrite at h
  split at h
  · cases h
  · rename_i hc
    split at h
    · cases h
    · cases h
      have hc' : Dev.physCheck { d with mem := { d.mem with
          hbm := writeBytes d.mem.hbm a bs
          hbmBad := d.mem.hbmBad.filter (fun l => !(decide (a ≤ l ∧ l + 64 ≤ a + bs.length))) } } a bs.length = none := hc
      unfold Dev.physRead
      rw [hc']
      have hf : (d.mem.hbmBad.filter (fun l => !(decide (a ≤ l ∧ l + 64 ≤ a + bs.length)))).find?
          (fun l => overlaps l 64 a bs.length) = none := by
        rw [List.find?_eq_none]
        intro l hl
        have := List.all_eq_true.mp hu l hl
        simpa using this
      simp only [hf, readBytes_writeBytes]

end Machine
end Sys2Proof
end

