-- ==== Sys2Proof/Laws/Ops.lean ====
section
/-! SUPPORT. What each shared operation can do, said once: accesses of the host, reports, commands in flight, billets taken,
engines' work, and Landing buffers. -/

namespace Sys2Proof.Machine

/-! ## Steps -/

/-- Every command's step that is an effect on the device completes. -/
theorem State.act_next (s : State) (g : Dev → Dev) : ∃ t, s.act g = .next t ∧ t.dev = (g s.dev).settle ∧ t.pending = s.pending :=
  ⟨_, rfl, rfl, rfl⟩

/-- The balls are a function of the rest of the device, so they settle at once. -/
theorem Dev.settle_settle (d : Dev) : d.settle.settle = d.settle := by
  unfold Dev.settle
  have h1 : ∀ p : Pins, Dev.alertLevel { d with pins := p } = d.alertLevel := fun _ => rfl
  have h2 : ∀ p : Pins, Dev.reasons { d with pins := p } = d.reasons := fun _ => rfl
  simp only [h1, h2]
  cases d.boot.cold <;> cases d.pins.replace <;> simp

/-! ## The host -/

/-- A host write is discarded, refused with a report, or has the register's own action (R13, R363). -/
theorem Dev.hostWrite_cases (d : Dev) (ap : Aperture) (r : Reg) (i j : Nat) (g : Dev → Dev) :
    d.hostWrite ap r i j g = d ∨ d.hostWrite ap r i j g = d.refuse ap (r.addrOf i j) true ∨
    (d.hostUp = true ∧ d.mayWrite ap r i = true ∧ d.hostWrite ap r i j g = g d) := by
  unfold Dev.hostWrite
  split
  · exact .inl rfl
  · split
    · exact .inl rfl
    · split
      · exact .inr (.inl rfl)
      · rename_i h1 h2 h3
        exact .inr (.inr ⟨by simpa using h1, by simpa using h3, rfl⟩)

/-- A host read finds no host, answers zero, is refused and answers zero, or answers the register's own value (R42, R363). -/
theorem Dev.hostRead_cases (d : Dev) (ap : Aperture) (addr bytes : Nat) (g : Dev → Dev × BitVec 64) :
    d.hostRead ap addr bytes g = d ∨ d.hostRead ap addr bytes g = d.emit (.readData bytes 0) ∨
    d.hostRead ap addr bytes g = (d.refuse ap addr false).emit (.readData bytes 0) ∨
    (d.hostUp = true ∧ mayRead ap addr = true ∧ d.hostRead ap addr bytes g = (g d).1.emit (.readData bytes (g d).2)) := by
  unfold Dev.hostRead
  split
  · exact .inl rfl
  · split
    · exact .inr (.inl rfl)
    · split
      · exact .inr (.inr (.inl rfl))
      · rename_i h1 h2 h3
        exact .inr (.inr (.inr ⟨by simpa using h1, by simpa using h3, rfl⟩))

/-! ## Reports -/

/-- A report joins the holding space, takes a SEQ, and with FAULT severity sets FAULT_SEEN: nothing else (R327, R330). -/
theorem Dev.postFrom_spec (d : Dev) (src : Nat) (c : Code) (addr index : Nat) (who : Who) (n : Nat) :
    ∃ r : Report, r.code = c ∧ r.seq = d.link.seq ∧ r.count = d.count ∧ r.address = addr ∧ r.index = index ∧ r.status = who.status ∧
      (d.postFrom src c addr index who n).link = { d.link with held := d.link.held ++ [.report r], seq := nextSeq d.link.seq } ∧
      ((d.postFrom src c addr index who n).regs = d.regs ∨
        (d.postFrom src c addr index who n).regs = (d.setF .ERR_STATUS_FAULT_SEEN 1).regs) := by
  refine ⟨⟨d.link.seq, c, src, who.status, who.job, who.part, who.queue, who.tag, d.count, addr, index, n⟩, rfl, rfl, rfl, rfl, rfl,
    rfl, ?_⟩
  unfold Dev.postFrom
  dsimp only
  split
  · exact ⟨rfl, .inr rfl⟩
  · exact ⟨rfl, .inl rfl⟩

/-- A report leaves memory, commands and every engine as they were. -/
theorem Dev.postFrom_rest (d : Dev) (src : Nat) (c : Code) (addr index : Nat) (who : Who) (n : Nat) :
    { d.postFrom src c addr index who n with link := d.link, regs := d.regs } = d := by
  unfold Dev.postFrom
  dsimp only
  split <;> rfl

@[simp] theorem Dev.post_hi (d : Dev) (c : Code) (addr index : Nat) (who : Who) (n : Nat) :
    (d.post c addr index who n).hi = d.hi := by unfold Dev.post Dev.postFrom; dsimp only; split <;> rfl
@[simp] theorem Dev.post_lo (d : Dev) (c : Code) (addr index : Nat) (who : Who) (n : Nat) :
    (d.post c addr index who n).lo = d.lo := by unfold Dev.post Dev.postFrom; dsimp only; split <;> rfl
@[simp] theorem Dev.post_pins (d : Dev) (c : Code) (addr index : Nat) (who : Who) (n : Nat) :
    (d.post c addr index who n).pins = d.pins := by unfold Dev.post Dev.postFrom; dsimp only; split <;> rfl
@[simp] theorem Dev.post_fuses (d : Dev) (c : Code) (addr index : Nat) (who : Who) (n : Nat) :
    (d.post c addr index who n).fuses = d.fuses := by unfold Dev.post Dev.postFrom; dsimp only; split <;> rfl
@[simp] theorem Dev.post_boot (d : Dev) (c : Code) (addr index : Nat) (who : Who) (n : Nat) :
    (d.post c addr index who n).boot = d.boot := by unfold Dev.post Dev.postFrom; dsimp only; split <;> rfl
@[simp] theorem Dev.post_flash (d : Dev) (c : Code) (addr index : Nat) (who : Who) (n : Nat) :
    (d.post c addr index who n).flash = d.flash := by unfold Dev.post Dev.postFrom; dsimp only; split <;> rfl
@[simp] theorem Dev.post_ring (d : Dev) (c : Code) (addr index : Nat) (who : Who) (n : Nat) :
    (d.post c addr index who n).ring = d.ring := by unfold Dev.post Dev.postFrom; dsimp only; split <;> rfl
@[simp] theorem Dev.post_cmds (d : Dev) (c : Code) (addr index : Nat) (who : Who) (n : Nat) :
    (d.post c addr index who n).cmds = d.cmds := by unfold Dev.post Dev.postFrom; dsimp only; split <;> rfl
@[simp] theorem Dev.post_nextId (d : Dev) (c : Code) (addr index : Nat) (who : Who) (n : Nat) :
    (d.post c addr index who n).nextId = d.nextId := by unfold Dev.post Dev.postFrom; dsimp only; split <;> rfl
@[simp] theorem Dev.post_quarantine (d : Dev) (c : Code) (addr index : Nat) (who : Who) (n : Nat) :
    (d.post c addr index who n).quarantine = d.quarantine := by unfold Dev.post Dev.postFrom; dsimp only; split <;> rfl
@[simp] theorem Dev.post_mem (d : Dev) (c : Code) (addr index : Nat) (who : Who) (n : Nat) :
    (d.post c addr index who n).mem = d.mem := by unfold Dev.post Dev.postFrom; dsimp only; split <;> rfl
@[simp] theorem Dev.post_lnd (d : Dev) (c : Code) (addr index : Nat) (who : Who) (n : Nat) :
    (d.post c addr index who n).lnd = d.lnd := by unfold Dev.post Dev.postFrom; dsimp only; split <;> rfl
@[simp] theorem Dev.post_err (d : Dev) (c : Code) (addr index : Nat) (who : Who) (n : Nat) :
    (d.post c addr index who n).err = d.err := by unfold Dev.post Dev.postFrom; dsimp only; split <;> rfl
@[simp] theorem Dev.post_stalls (d : Dev) (c : Code) (addr index : Nat) (who : Who) (n : Nat) :
    (d.post c addr index who n).stalls = d.stalls := by unfold Dev.post Dev.postFrom; dsimp only; split <;> rfl
@[simp] theorem Dev.post_fab (d : Dev) (c : Code) (addr index : Nat) (who : Who) (n : Nat) :
    (d.post c addr index who n).fab = d.fab := by unfold Dev.post Dev.postFrom; dsimp only; split <;> rfl
@[simp] theorem Dev.post_arb (d : Dev) (c : Code) (addr index : Nat) (who : Who) (n : Nat) :
    (d.post c addr index who n).arb = d.arb := by unfold Dev.post Dev.postFrom; dsimp only; split <;> rfl
@[simp] theorem Dev.post_scl (d : Dev) (c : Code) (addr index : Nat) (who : Who) (n : Nat) :
    (d.post c addr index who n).scl = d.scl := by unfold Dev.post Dev.postFrom; dsimp only; split <;> rfl
@[simp] theorem Dev.post_sec (d : Dev) (c : Code) (addr index : Nat) (who : Who) (n : Nat) :
    (d.post c addr index who n).sec = d.sec := by unfold Dev.post Dev.postFrom; dsimp only; split <;> rfl
@[simp] theorem Dev.post_borer (d : Dev) (c : Code) (addr index : Nat) (who : Who) (n : Nat) :
    (d.post c addr index who n).borer = d.borer := by unfold Dev.post Dev.postFrom; dsimp only; split <;> rfl
@[simp] theorem Dev.post_arr (d : Dev) (c : Code) (addr index : Nat) (who : Who) (n : Nat) :
    (d.post c addr index who n).arr = d.arr := by unfold Dev.post Dev.postFrom; dsimp only; split <;> rfl
@[simp] theorem Dev.post_sv (d : Dev) (c : Code) (addr index : Nat) (who : Who) (n : Nat) :
    (d.post c addr index who n).sv = d.sv := by unfold Dev.post Dev.postFrom; dsimp only; split <;> rfl
@[simp] theorem Dev.post_xe (d : Dev) (c : Code) (addr index : Nat) (who : Who) (n : Nat) :
    (d.post c addr index who n).xe = d.xe := by unfold Dev.post Dev.postFrom; dsimp only; split <;> rfl
@[simp] theorem Dev.post_swaps (d : Dev) (c : Code) (addr index : Nat) (who : Who) (n : Nat) :
    (d.post c addr index who n).swaps = d.swaps := by unfold Dev.post Dev.postFrom; dsimp only; split <;> rfl
@[simp] theorem Dev.post_win (d : Dev) (c : Code) (addr index : Nat) (who : Who) (n : Nat) :
    (d.post c addr index who n).win = d.win := by unfold Dev.post Dev.postFrom; dsimp only; split <;> rfl
@[simp] theorem Dev.post_coll (d : Dev) (c : Code) (addr index : Nat) (who : Who) (n : Nat) :
    (d.post c addr index who n).coll = d.coll := by unfold Dev.post Dev.postFrom; dsimp only; split <;> rfl
@[simp] theorem Dev.post_out (d : Dev) (c : Code) (addr index : Nat) (who : Who) (n : Nat) :
    (d.post c addr index who n).out = d.out := by unfold Dev.post Dev.postFrom; dsimp only; split <;> rfl
@[simp] theorem Dev.post_free (d : Dev) (c : Code) (addr index : Nat) (who : Who) (n : Nat) :
    (d.post c addr index who n).free = d.free := by unfold Dev.post Dev.postFrom; dsimp only; split <;> rfl

/-- A refused access changes the holding space alone: FAULT_PROT is no FAULT report (Table 17.2). -/
theorem Dev.refuse_regs (d : Dev) (ap : Aperture) (addr : Nat) (w : Bool) : (d.refuse ap addr w).regs = d.regs := rfl
theorem Dev.refuse_held (d : Dev) (ap : Aperture) (addr : Nat) (w : Bool) :
    (d.refuse ap addr w).link.held.length = d.link.held.length + 1 := by
  simp [Dev.refuse, Dev.postFrom, Code.severity]

/-! ## Jobs and commands -/

/-- The partition found for a job is valid, holds it, and the job is not 0 (R65). -/
theorem Dev.partOf_spec {d : Dev} {job p : Nat} (h : d.partOf job = some p) :
    p < 16 ∧ d.valid p = true ∧ d.f .PART_CTRL_JOB p = job ∧ job ≠ 0 := by
  have h1 := List.find?_some h
  have h2 := List.mem_of_find?_eq_some h
  simp only [Bool.and_eq_true, beq_iff_eq, bne_iff_ne, ne_eq] at h1
  exact ⟨by simpa using h2, h1.1.1, h1.1.2, h1.2⟩

/-- The command found has the number. -/
theorem Dev.cmd?_id {d : Dev} {id : Nat} {c : Cmd} (h : d.cmd? id = some c) : c.id = id ∧ c ∈ d.cmds := by
  have h1 := List.find?_some h
  exact ⟨by simpa using h1, List.mem_of_find?_eq_some h⟩

/-- Finding in a list with a changed element. -/
theorem find?_mapIf {α : Type} (p q : α → Bool) (f : α → α) (l : List α) (h : ∀ x, q (f x) = q x) :
    (mapIf p f l).find? q = (l.find? q).map (fun x => if p x then f x else x) := by
  induction l with
  | nil => rfl
  | cons a l ih =>
    simp only [mapIf, List.map_cons, List.find?_cons] at ih ⊢
    have hq : q (if p a then f a else a) = q a := by split <;> simp [h]
    rw [hq]
    cases q a with
    | true => rfl
    | false => exact ih

/-- A command's change is what is found under its number, and no other command changes. -/
theorem Dev.cmd?_updCmd (d : Dev) (id k : Nat) (g : Cmd → Cmd) (hg : ∀ c, (g c).id = c.id) :
    (d.updCmd id g).cmd? k = (d.cmd? k).map (fun c => if c.id == id then g c else c) :=
  find?_mapIf (fun (c : Cmd) => c.id == id) (fun (c : Cmd) => c.id == k) g d.cmds (fun c => by simp [hg c])

/-- The command is ready after its engine is done with it, and others are as they were. -/
theorem Dev.cmd?_finish (d : Dev) (id : Nat) {c : Cmd} (h : d.cmd? id = some c) :
    (d.finish id).cmd? id = some { c with ready := true } := by
  have e := Dev.cmd?_updCmd d id id (fun (k : Cmd) => { k with ready := true }) (fun _ => rfl)
  rw [h] at e
  simpa [Dev.finish, (Dev.cmd?_id h).1] using e

/-! ## Billets and work -/

/-- A billet taken from the inbox was in it and meets the test; it has left the inbox and its slot has been freed. -/
theorem Dev.takeInbox_some {d e : Dev} {p : Arrival → Bool} {a : Arrival} (h : d.takeInbox p = some (a, e)) :
    a ∈ d.fab.inbox ∧ p a = true ∧ d.fab.inbox.find? p = some a ∧
    e = (d.updFab (fun f => { f with inbox := f.inbox.erase a })).consume a := by
  unfold Dev.takeInbox at h
  split at h
  · cases h
  · rename_i b hb
    simp only [Option.some.injEq, Prod.mk.injEq] at h
    obtain ⟨rfl, rfl⟩ := h
    exact ⟨List.mem_of_find?_eq_some hb, List.find?_some hb, hb, rfl⟩

/-- None is taken just where none meets the test. -/
theorem Dev.takeInbox_none (d : Dev) (p : Arrival → Bool) : d.takeInbox p = none ↔ ∀ a ∈ d.fab.inbox, p a = false := by
  unfold Dev.takeInbox
  split
  · rename_i h
    simpa using h
  · rename_i a h
    have h1 := List.find?_some h
    have h2 := List.mem_of_find?_eq_some h
    constructor
    · intro h'
      cases h'
    · intro h'
      simp [h' a h2] at h1

/-- Work that succeeds leaves the device it answers; work that fails also fails its part. -/
theorem Dev.work_cases (d : Dev) (id j : Nat) (m : Op Unit) :
    (∃ e, m.run.run d = (.ok (), e) ∧ d.work id j m = e) ∨
    (∃ f e, m.run.run d = (.error f, e) ∧ d.work id j m = e.failWith id j f) := by
  unfold Dev.work
  split
  · rename_i h
    exact .inl ⟨_, h, rfl⟩
  · rename_i h
    exact .inr ⟨_, _, h, rfl⟩

/-! ## Landing buffers -/

/-- An allocation follows the rule: the buffer it gives is held, or a refusal is counted and holds nothing (R231). -/
theorem Dev.lndAlloc_held (d : Dev) (p k : Nat) (u : LndUser) :
    (∃ i, d.lndRule p k = .ok i ∧ (d.lndAlloc p k u).2 = .ok i ∧ (d.lndAlloc p k u).1.lnd.held = d.lnd.held ++ [⟨k, i, p, u, false⟩]) ∨
    (∃ st, d.lndRule p k = .error st ∧ (d.lndAlloc p k u).2 = .error st ∧ (d.lndAlloc p k u).1.lnd = d.lnd) := by
  unfold Dev.lndAlloc
  split
  · rename_i i h
    refine .inl ⟨i, h, rfl, ?_⟩
    unfold Dev.setFree
    dsimp only
    split <;> rfl
  · rename_i st h
    refine .inr ⟨st, h, rfl, ?_⟩
    cases u with
    | command id =>
      simp only [Dev.postCmd]
      split <;> simp
    | receive c => simp
    | collective c => simp
    | reserve q => simp

end Sys2Proof.Machine
end

