-- ==== Sys2Proof/Tests/Slice0.lean ====
section
/-! SUPPORT. The package's own tests: terms that each well-formedness check refuses, single steps whose results are worked out
from spec/, and for each statement states and operands that meet its hypotheses, clause by clause. -/

namespace Sys2Proof.Tests

set_option Elab.async false

open Sys2Proof.Machine

/-! ## Small states -/

/-- A device with fields at values: (field, value, instance). -/
def put (d : Dev) (l : List (Fld × Nat × Nat)) : Dev := l.foldl (fun d e => d.setF e.1 e.2.1 e.2.2) d

/-- A device in a stage of start-up. -/
def atStage (n : Nat) : Dev := put { State.reset.dev with boot := { cold := false } } [(.DEV_STATUS_STAGE, n, 0)]

/-- A device in READY with the host link up. -/
def on : Dev := { atStage 8 with link := { up := true } }

/-- A state with no command waiting. -/
def st (d : Dev) : State := ⟨d, []⟩

/-- The answer of a command: its next device, or the given one where it stops. -/
def after (i : Instr) (d : Dev) : Dev := match exec i (st d) with | .next t => t.dev | _ => d

/-- A little-endian number from (offset, value) pairs: a descriptor or ring entry. -/
def line (l : List (Nat × Nat)) : Line := BitVec.ofNat 512 (sumNat (l.map (fun e => e.2 * 256 ^ e.1)))

/-- A launched command of queue 1 and partition 0, job 7, with its opcode and further descriptor bytes. -/
def cmd (id op : Nat) (l : List (Nat × Nat)) : Cmd :=
  { newCmd id 1 (line ((0, op) :: (2, 7) :: l)) with launched := true }

/-- A device with commands in flight, partition 0 holding job 7. -/
def withCmds (l : List Cmd) : Dev := { put on [(.PART_CTRL_VALID, 1, 0), (.PART_CTRL_JOB, 7, 0)] with cmds := l }

/-- A billet delivered to an internal port. -/
def got (port : Nat) (b : Billet) : Arrival := ⟨port, b, none, 0, 0, 0⟩

/-- A device with delivered billets. -/
def withInbox (d : Dev) (l : List Arrival) : Dev := { d with fab := { d.fab with inbox := l } }

/-! ## Commands that no sender gives are refused by name -/

theorem test_wf_csWrite : Instr.wf (.csWrite .owner 2 false 0) = false := by decide
theorem test_wf_csRead : Instr.wf (.csRead .owner 4 true) = false := by decide
theorem test_wf_quarantineExpiry : Instr.wf (.quarantineExpiry 0) = false := by decide
theorem test_wf_versionRelease : Instr.wf (.versionRelease 0 0 0) = false := by decide
theorem test_wf_stallReport : Instr.wf (.stallReport (.grant 16)) = false := by decide
theorem test_wf_segmentHeader : Instr.wf (.segmentHeader 0 65536) = false := by decide
theorem test_wf_vectorWrite : Instr.wf (.vectorWrite 0 0 16777216) = false := by decide
theorem test_wf_nmaFold : Instr.wf (.nmaFold 0 0) = false := by decide
theorem test_wf_xuFault : Instr.wf (.xuFault 0 16 0 false) = false := by decide
theorem test_wf_tierHbmUe : Instr.wf (.tierHbmUe none 0 0x3000000000) = false := by decide
theorem test_wf_tierSlabUe : Instr.wf (.tierSlabUe none 16 0 0) = false := by decide
theorem test_wf_tierPhysRange : Instr.wf (.tierPhysRange none 0 0x2FFFFFFFFF) = false := by decide
theorem test_wf_lotteryDraw : Instr.wf (.lotteryDraw 0 [⟨1, [], none⟩, ⟨1, [], none⟩]) = false := by decide
theorem test_wf_emergencyGrant : Instr.wf (.emergencyGrant 0xFFFF false) = false := by decide
theorem test_wf_emergencyRelease : Instr.wf (.emergencyRelease 0xFFFF) = false := by decide
theorem test_wf_watchdogBite : Instr.wf (.watchdogBite ⟨0xFFFF, []⟩) = false := by decide
theorem test_wf_meshCrc : Instr.wf (.meshCrc 0 none (some 3)) = false := by decide
theorem test_wf_errRate : Instr.wf (.errRate 0 8 1) = false := by decide
theorem test_wf_winEntryFetch : Instr.wf (.winEntryFetch 0 0 (List.replicate 4097 0) []) = false := by
  decide +kernel
theorem test_wf_tempHigh : Instr.wf (.tempHigh 256) = false := by decide
theorem test_wf_thermTrip : Instr.wf (.thermTrip 256) = false := by decide
theorem test_wf_vddCoreTargetStep : Instr.wf (.vddCoreTargetStep 256 true) = false := by decide
theorem test_wf_tempBelowWarn : Instr.wf (.tempBelowWarn 256) = false := by decide
theorem test_wf_accepts : Instr.wf (.csWrite .owner 4 false 0) && Instr.wf (.lotteryDraw 0 [⟨1, [], none⟩, ⟨2, [], none⟩]) &&
    Instr.wf (.errRate 0 7 1) && Instr.wf (.meshCrc 0 none (some 8)) = true := by decide

/-- No word spells a command: the opcode table gives no row any bits. -/
theorem test_decode_nothing : decodeTableWord 64 0x123456789ABCDEF0 = none := by decide

/-! ## Control space: steps and hypotheses met -/

/-- StepRunsFrontCommand: a step runs the command at the front, and idles on an empty queue. -/
theorem test_step_front : step ⟨on, [.sqEnable .owner 5 false, .ringRefEdge]⟩ =
    exec (.sqEnable .owner 5 false) ⟨on, [.ringRefEdge]⟩ ∧ step (st on) = .next (st on) := ⟨rfl, rfl⟩

/-- StepKeepsPins: a state with ALERT_N asserted by a held FAULT report meets the invariant. -/
theorem hyp_StepKeepsPins : Dev.alertLevel (on.post .RING_REF_LOST) = true ∧
    Dev.pinsOk { (on.post .RING_REF_LOST) with pins := { alert := true } } := by
  refine ⟨by decide +kernel, by unfold Dev.pinsOk; decide +kernel⟩

/-- RefusedWriteReported: a User write of RING_CTRL. -/
theorem hyp_RefusedWriteReported : halfAt (Reg.RING_CTRL.addrOf 0 0) = .narrow ⟨.RING_CTRL, 0, 0⟩ ∧
    Reg.RING_CTRL.addrOf 0 0 % 4 = 0 ∧ on.hostUp = true ∧ on.flag .DEV_STATUS_WARM_BUSY = false ∧
    on.mayWrite .user .RING_CTRL 0 = false := by decide +kernel

/-- PlainWriteActsByField: the first and the last instance of PART_SHARE. -/
theorem hyp_PlainWriteActsByField : (∀ p ∈ [0, 15], halfAt (Reg.PART_SHARE.addrOf p 0) = .narrow ⟨.PART_SHARE, p, 0⟩ ∧
    on.accepts .owner .PART_SHARE p = true) := by decide +kernel

/-- ReadsAnswer: a 32-bit register, the two halves of RING_COUNT, latched and not, and two 32-bit registers side by side. -/
theorem hyp_ReadsAnswer : halfAt (Reg.RING_DELAY_SEL.addrOf 0 0) = .narrow ⟨.RING_DELAY_SEL, 0, 0⟩ ∧
    halfAt (Reg.RING_COUNT.addrOf 0 0) = .low ⟨.RING_COUNT, 0, 0⟩ ∧
    halfAt (Reg.RING_COUNT.addrOf 0 0 + 4) = .high ⟨.RING_COUNT, 0, 0⟩ ∧
    on.answers .user (Reg.RING_COUNT.addrOf 0 0 + 4) = true ∧ getHalf on.hi (RegInst.key ⟨.RING_COUNT, 0, 0⟩) = none ∧
    Reg.RING_COUNT.addrOf 0 0 % 8 = 0 ∧
    (let a := Reg.ARB_CFG.addrOf 0 0
     a % 8 = 0 ∧ halfAt a = .narrow ⟨.ARB_CFG, 0, 0⟩ ∧ halfAt (a + 4) = .narrow ⟨.ARB_SEED, 0, 0⟩ ∧ on.answers .user (a + 4)) ∧
    getHalf ({ on with hi := [(RegInst.key ⟨.RING_COUNT, 0, 0⟩, 5)] } : Dev).hi (RegInst.key ⟨.RING_COUNT, 0, 0⟩) = some 5 := by
  decide +kernel

/-- UnoccupiedOffsets: the last offset of control space. -/
theorem hyp_UnoccupiedOffsets : halfAt 0xFFFFFFC = .nothing ∧ 0xFFFFFFC % 4 = 0 ∧ on.hostUp = true := by decide +kernel

/-- MisalignedAccessMeetsNoRegister: offsets 4 and 2, and aligned ones. -/
theorem hyp_MisalignedAccessMeetsNoRegister : (4#28).toNat % 8 ≠ 0 ∧ (2#28).toNat % 4 ≠ 0 ∧ (8#28).toNat % 8 = 0 ∧
    (4#28).toNat % 4 = 0 ∧ on.hostUp = true := by decide +kernel

/-- HalfWritesJoin: the two halves of TIER_QUOTA of partition 15, no low half held, and two 32-bit registers side by side. -/
theorem hyp_HalfWritesJoin : (let a := Reg.TIER_QUOTA.addrOf 15 0
    a % 8 = 0 ∧ halfAt a = .low ⟨.TIER_QUOTA, 15, 0⟩ ∧ halfAt (a + 4) = .high ⟨.TIER_QUOTA, 15, 0⟩) ∧
    on.accepts .owner .TIER_QUOTA 15 = true ∧ getHalf on.lo (RegInst.key ⟨.TIER_QUOTA, 15, 0⟩) = none ∧
    (let a := Reg.ARB_CFG.addrOf 0 0
     a % 8 = 0 ∧ halfAt a = .narrow ⟨.ARB_CFG, 0, 0⟩ ∧ halfAt (a + 4) = .narrow ⟨.ARB_SEED, 0, 0⟩ ∧
     on.accepts .owner .ARB_CFG 0 ∧ on.accepts .owner .ARB_SEED 0 ∧ Reg.code .ARB_CFG 0 0 ≠ Reg.code .ARB_SEED 0 0) := by
  decide +kernel

/-- R11: a held low half is written with the high half. -/
theorem test_csWrite_halves : (let a := BitVec.ofNat 28 (Reg.TIER_QUOTA.addrOf 3 0)
    (after (.csWrite .owner (a + 4) false 2) (after (.csWrite .owner a false 1) on)).reg .TIER_QUOTA 3) = 0x200000001 := by
  decide +kernel

/-- R13: a write of the SCL block is refused through every aperture. -/
theorem test_csWrite_scl : (after (.csWrite .owner (BitVec.ofNat 28 (Reg.SCL_PERIOD.addrOf 0 0)) true 5) on).link.held.length = 1 := by
  decide +kernel

/-- R12: no register at the offset, so the read returns zero. -/
theorem test_csRead_nothing : (after (.csRead .user 0xFFFFFFC false) on).out = [.readData 4 0] := by decide +kernel

/-! ## Queues and rings -/

/-- A queue bound to partition 0 and job 7 with completion queue 2, both enabled, its ring holding one descriptor. -/
def queued : Dev := put on [(.PART_CTRL_VALID, 1, 0), (.PART_CTRL_JOB, 7, 0), (.CMD_SQ_CFG_SIZE_LOG2, 4, 1), (.CMD_SQ_CFG_CQ, 2, 1),
  (.CMD_SQ_CFG_PRIV, 1, 1), (.CMD_SQ_CFG_JOB, 7, 1), (.CMD_SQ_CFG_MAX_INFLIGHT, 8, 1), (.CMD_CQ_CFG_ENABLE, 1, 2), (.CMD_CQ_CFG_SIZE_LOG2, 4, 2),
  (.CMD_SQ_CTRL_ENABLE, 1, 1), (.CMD_SQ_TAIL_TAIL, 1, 1)]

/-- DoorbellsAndHeads: each doorbell's register accepts a write. -/
theorem hyp_DoorbellsAndHeads : on.accepts .owner .CMD_SQ_TAIL 63 ∧ queued.accepts .user .CMD_SQ_TAIL 1 ∧
    on.accepts .owner .CMD_CQ_HEAD 15 ∧ on.accepts .supervisor .SV_RPT_HEAD 15 ∧ on.accepts .owner .WIN_RING_TAIL 15 ∧
    on.accepts .owner .ERR_Q_HEAD 0 ∧ on.accepts .owner .SEC_TALLY_HEAD 0 := by decide +kernel

/-- R389: the doorbell is taken modulo the ring size, here 16. -/
theorem test_cmdSqTail_wraps : (after (.cmdSqTail .user 1 35) queued).f .CMD_SQ_TAIL_TAIL 1 = 3 := by decide +kernel

/-- QueueBinding: a disabled queue and an allowed PRIV; an enabled queue; PRIV 3 on queue 1. -/
theorem hyp_QueueBinding : on.accepts .owner .CMD_SQ_CFG 63 ∧ on.flag .CMD_SQ_CTRL_ENABLE 63 = false ∧
    Fld.CMD_SQ_CFG_PRIV.of 0 ≠ 3 ∧ queued.accepts .owner .CMD_SQ_CFG 1 ∧ queued.flag .CMD_SQ_CTRL_ENABLE 1 ∧
    Fld.CMD_SQ_CFG_PRIV.of (Fld.CMD_SQ_CFG_PRIV.put 0 3) = 3 := by decide +kernel

/-- QueueEnables: queue 1 and completion queue 15, each disabled and ready to be enabled. -/
theorem hyp_QueueEnables : (let d := put queued [(.CMD_SQ_CTRL_ENABLE, 0, 1)]
    d.accepts .owner .CMD_SQ_CTRL 1 ∧ d.flag .CMD_SQ_CTRL_ENABLE 1 = false ∧ 4 ≤ d.f .CMD_SQ_CFG_SIZE_LOG2 1 ∧
    d.f .CMD_SQ_CFG_SIZE_LOG2 1 ≤ 15 ∧ d.flag .CMD_CQ_CFG_ENABLE (d.f .CMD_SQ_CFG_CQ 1)) ∧
    on.accepts .owner .CMD_CQ_CFG 15 ∧ on.flag .CMD_CQ_CFG_ENABLE 15 = false ∧
    (let v := Fld.CMD_CQ_CFG_SIZE_LOG2.put (Fld.CMD_CQ_CFG_ENABLE.put 0 1) 15
     v.toNat < 2 ^ 32 ∧ Fld.CMD_CQ_CFG_ENABLE.of v = 1 ∧ Fld.CMD_CQ_CFG_SIZE_LOG2.of v = 15) := by decide +kernel

/-- QueueResume: through the User aperture that queue 1's binding lets in. -/
theorem hyp_QueueResume : queued.accepts .user .CMD_SQ_CTRL 1 ∧ Aperture.user ≠ .owner := by decide +kernel

/-- RingEnables: each ring disabled, with a valid size. -/
theorem hyp_RingEnables : on.accepts .owner .SV_RPT_CFG 15 ∧ on.flag .SV_RPT_CFG_ENABLE 15 = false ∧
    on.accepts .owner .ERR_Q_CFG 0 ∧ on.flag .ERR_Q_CFG_ENABLE = false ∧ on.accepts .owner .SEC_TALLY_CFG 0 ∧
    on.flag .SEC_TALLY_CFG_ENABLE = false ∧
    (let v := Fld.SV_RPT_CFG_SLOT_LOG2.put (Fld.SV_RPT_CFG_SIZE_LOG2.put (Fld.SV_RPT_CFG_ENABLE.put 0 1) 4) 12
     v.toNat < 2 ^ 32 ∧ Fld.SV_RPT_CFG_ENABLE.of v = 1 ∧ rptSizeOk v) ∧
    (let v := Fld.ERR_Q_CFG_SIZE_LOG2.put (Fld.ERR_Q_CFG_ENABLE.put 0 1) 4
     v.toNat < 2 ^ 32 ∧ Fld.ERR_Q_CFG_ENABLE.of v = 1 ∧ sizeOk (Fld.ERR_Q_CFG_SIZE_LOG2.of v)) ∧
    (let v := Fld.SEC_TALLY_CFG_SIZE_LOG2.put (Fld.SEC_TALLY_CFG_ENABLE.put 0 1) 12
     v.toNat < 2 ^ 32 ∧ Fld.SEC_TALLY_CFG_ENABLE.of v = 1 ∧ Fld.SEC_TALLY_CFG_SIZE_LOG2.of v = 12) ∧
    (let d := put queued [(.WIN_RING_CFG_SIZE_LOG2, 12, 3), (.WIN_RING_CFG_JOB, 7, 3)]
     d.accepts .owner .WIN_RING_CTRL 3 ∧ d.flag .WIN_RING_CTRL_ENABLE 3 = false ∧ (1#32).getLsbD 0 ∧ (1#32).getLsbD 1 = false ∧
     4 ≤ d.f .WIN_RING_CFG_SIZE_LOG2 3 ∧ d.f .WIN_RING_CFG_SIZE_LOG2 3 ≤ 12 ∧ d.valid (d.f .WIN_RING_CFG_PARTITION 3) ∧
     d.f .PART_CTRL_JOB (d.f .WIN_RING_CFG_PARTITION 3) = d.f .WIN_RING_CFG_JOB 3) := by decide +kernel

/-- A record for completion queue 2. -/
def rec2 : Completion := ⟨0, .ok, 0x0B, 7, 1, 5, 0, 1, 0, false⟩

/-- CompletionRecordWritten: one report and the record held; TAIL inside its ring, and at its last slot. -/
theorem hyp_CompletionRecordWritten : (let d := (queued.post .HOST_LINK_DOWN)
    let d := { d with link := { d.link with held := d.link.held ++ [.completion rec2] } }
    d.canWriteHost ∧ d.flag .CMD_CQ_CFG_ENABLE 2 ∧ d.cqFull 2 = false ∧ d.link.held.any (d.heldFor 2) ∧
    (d.link.held.take 1).any (d.heldFor 2) = false ∧ d.cqOf rec2.queue = 2 ∧ rec2.queue < 64 ∧ rec2.notify = false ∧
    d.f .CMD_CQ_TAIL_TAIL 2 + 1 < 2 ^ d.f .CMD_CQ_CFG_SIZE_LOG2 2 ∧
    (let e := put d [(.CMD_CQ_TAIL_TAIL, 15, 2), (.CMD_CQ_HEAD_HEAD, 8, 2)]
     e.cqFull 2 = false ∧ e.f .CMD_CQ_TAIL_TAIL 2 + 1 = 2 ^ e.f .CMD_CQ_CFG_SIZE_LOG2 2)) := by decide +kernel

/-- R48: the phase inverts where TAIL wraps. -/
theorem test_completionRecordWrite_wraps :
    (let d := put queued [(.CMD_CQ_TAIL_TAIL, 15, 2), (.CMD_CQ_HEAD_HEAD, 8, 2), (.CMD_CQ_TAIL_PHASE, 1, 2)]
     let e := after (.completionRecordWrite 2) { d with link := { d.link with held := [.completion rec2] } }
     (e.f .CMD_CQ_TAIL_TAIL 2, e.f .CMD_CQ_TAIL_PHASE 2, e.link.held)) = (0, 0, []) := by decide +kernel

/-- ErrorReportWritten: an enabled report ring with room, a record held before the report; TAIL inside the ring and at its
last slot. -/
theorem hyp_ErrorReportWritten : (let d := put on [(.ERR_Q_CFG_ENABLE, 1, 0), (.ERR_Q_CFG_SIZE_LOG2, 4, 0)]
    let d := { d with link := { d.link with held := [.completion rec2] } }.post .HOST_LINK_DOWN
    d.canWriteHost ∧ d.flag .ERR_Q_CFG_ENABLE ∧ d.errFull = false ∧ (d.link.held.take 1).any isReport = false ∧
    d.link.held.any isReport ∧ d.f .ERR_Q_TAIL_TAIL + 1 < d.errSize ∧
    (let e := put d [(.ERR_Q_TAIL_TAIL, 15, 0), (.ERR_Q_HEAD_HEAD, 8, 0)]
     e.errFull = false ∧ e.f .ERR_Q_TAIL_TAIL + 1 = e.errSize)) := by decide +kernel

/-- A device that holds 1,024 records. -/
def laden (d : Dev) : Dev := { d with link := { d.link with held := List.replicate 1024 (.completion rec2) } }

/-- HostLinkHoldsRecords: the link up, the link down in READY, and 1,024 records held. -/
theorem hyp_HostLinkHoldsRecords : on.link.up ∧ (atStage 8).stage = 8 ∧ (atStage 8).boot.cold = false ∧
    (atStage 8).boot.halted = false ∧ 1024 ≤ (laden on).link.held.length := by decide +kernel

/-- R43: with 1,024 records held, an empty object's placement waits; with none it ends its work. -/
theorem test_place_stalls : (let d := withCmds [cmd 3 8 []]
    [d, laden d].map (fun d => ((after (.place 3) d).cmd? 3).map Cmd.ready)) = [some true, some false] := by decide +kernel

/-! ## Partitions, steps and stalls -/

/-- PartitionGetsJob: partition 1 with one enabled array, job 7 free, and refused job 0. -/
theorem hyp_PartitionGetsJob : (let d := on.setReg .PART_ARRAYS 1 1 0
    d.accepts .owner .PART_CTRL 1 ∧ d.valid 1 = false ∧ d.jobOk 1 7 ∧ d.jobOk 1 0 = false) := by decide +kernel

/-- R65: the job is held, and its step counter cleared. -/
theorem test_partCtrlValid : (let d := put (on.setReg .PART_ARRAYS 1 1 0) [(.RING_STEP_STEP, 9, 1)]
    let e := after (.partCtrlValid .owner 1 7) d
    (e.partOf 7, e.f .RING_STEP_STEP 1)) = (some 1, 0) := by decide +kernel

/-- JobsReleasedAndQuarantined: a valid partition whose one command has ended. -/
theorem hyp_JobsReleasedAndQuarantined : (let d := withCmds [{ cmd 0 0x0B [] with ended := true }]
    d.accepts .owner .PART_CTRL 0 ∧ d.valid 0 ∧ ∀ c ∈ d.cmds, c.part = 0 → c.ended = true) := by decide +kernel

/-- R66: released at count 1,000, the job stays in quarantine until 2^20 counts later. -/
theorem test_quarantineExpiry : (let d := { on with quarantine := [(7, 1000)] }
    let at_ := fun n => (after (.quarantineExpiry 7) (d.setReg .RING_COUNT (BitVec.ofNat 64 n))).quarantine
    (at_ 1049575, at_ 1049576)) = ([(7, 1000)], []) := by decide +kernel

/-- BoundarySchedule: no boundary due, and one due with no SWAP to switch. -/
theorem hyp_BoundarySchedule : on.accepts .supervisor .RING_NEXT 15 ∧ on.boundaryDue 15 = false ∧
    (let d := put on [(.RING_NEXT_NEXT, 5, 2), (.RING_ORIG_ORIG, 5, 2), (.RING_PERIOD_PERIOD, 1000, 2), (.RING_COUNT_COUNT, 5, 0)]
     d.boundaryDue 2 ∧ d.switching 2 (d.f .RING_ORIG_ORIG 2) = []) := by decide +kernel

/-- R32: the boundary at 5 with period 1,000 begins step 1, and the next is at 1,005. -/
theorem test_boundaryTaken : (let d := put on [(.RING_NEXT_NEXT, 5, 2), (.RING_ORIG_ORIG, 5, 2), (.RING_PERIOD_PERIOD, 1000, 2),
      (.RING_COUNT_COUNT, 7, 0)]
    let e := after (.boundaryTaken 2) d
    (e.f .RING_STEP_STEP 2, e.f .RING_NEXT_NEXT 2, e.f .RING_ORIG_ORIG 2)) = (1, 1005, 1005) := by decide +kernel

/-- A boundary billet of job 7: its STEP and target. -/
def boundary (step target : Nat) : Billet :=
  mkBillet { type := 1, tc := 4, job := 7 } (leBytes 2 2 ++ leBytes 2 0 ++ leBytes 4 step ++ leBytes 8 target)

/-- A device whose partition 0 holds job 7, with its next boundary at 10,000. -/
def armed : Dev := put on [(.PART_CTRL_VALID, 1, 0), (.PART_CTRL_JOB, 7, 0), (.RING_NEXT_NEXT, 10000, 0), (.RING_ORIG_ORIG, 10000, 0)]

/-- BoundaryMoves: billets within the bounds, at their edge and outside, and a target already reached; BOUNDARY_IN while the
count runs and while it is stopped; a partition whose RING_NEXT a host write of this count has set. -/
theorem hyp_BoundaryMoves : (∀ t ∈ [0, 5904, 14096, 14097], let a := got 43 (boundary 1 t)
      let d := withInbox armed [a]
      d.fab.inbox.find? (fun a => a.port == 43 && bType a.b == 1 && bPay a.b 0 0 16 == 2) = some a ∧
      d.partOf (bJob a.b) = some 0 ∧ d.boundaryDue 0 = false ∧ (d.schedule 0).1 ≠ 0 ∧
      bPay a.b 4 0 32 = (d.f .RING_STEP_STEP 0 + 1) % 2 ^ 32 ∧ bPay a.b 8 0 64 = t ∧ d.count < 5904 ∧
      (apart (bPay a.b 8 0 64) (d.schedule 0).2 ≤ 4096 ↔ t = 5904 ∨ t = 14096)) ∧
    (bPay (boundary 1 5) 8 0 64 ≤ (put armed [(.RING_COUNT_COUNT, 6, 0)]).count) ∧
    armed.ring.running ∧ armed.boot.cold = false ∧ armed.boot.halted = false ∧ armed.settleDue = armed ∧
    ({ armed with ring := { armed.ring with running := false } } : Dev).ring.running = false ∧
    (let d := after (.ringNextWrite .owner 0 9000) armed
     d.ring.wrote.any (fun w => w.1 == 0 && w.2.1 == d.count) ∧ d.schedule 0 = (10000, 10000)) := by decide +kernel

/-- BoundaryMoves, forwarding: partition 0 alone is masked, its schedule is armed within 4,096 counts of the target, and its
route leads to link 0. -/
theorem hyp_BoundaryMoves_forward :
    (let d := put armed [(.RING_BIN_CFG_FWD_EN, 1, 0), (.RING_BIN_CFG_PART_MASK, 1, 0), (.RING_BIN_CFG_DELAY, 2000, 0),
       (.RING_COUNT_COUNT, 9000, 0), (.FAB_LINK_STATUS_STATE, 3, 0), (.RING_BFWD_MASK_LO_MASK_LO, 2 + 2 ^ 8 + 2 ^ 24 + 2 ^ 56, 0)]
     let target := d.count + d.f .RING_BIN_CFG_DELAY
     let b := d.boundaryBillet 0 target
     d.settleDue = d ∧ d.flag .RING_BIN_CFG_FWD_EN ∧ (∀ q : Fin 16, bit (d.f .RING_BIN_CFG_PART_MASK) q = true ↔ q = 0) ∧
     (d.schedule 0).1 ≠ 0 ∧ apart target (d.schedule 0).2 ≤ 4096 ∧ d.fab.inject = [] ∧ d.malformed b = false ∧
     d.place? 43 (bTc b) (bVc b) = some false ∧ (d.route 43 b).filterMap (fun x => x) ≠ []) := by decide +kernel

/-- Table 2.7: a host write of RING_NEXT overrides an accepted edge of the same count, in either order. -/
theorem test_boundaryIn_override : (let d := put armed [(.RING_BIN_CFG_PART_MASK, 1, 0), (.RING_BIN_CFG_DELAY, 2000, 0), (.RING_COUNT_COUNT, 9000, 0)]
    let a := after .boundaryIn (after (.ringNextWrite .owner 0 9500) d)
    let b := after (.ringNextWrite .owner 0 9500) (after .boundaryIn d)
    [a, b].map (fun e => (e.f .RING_NEXT_NEXT 0, e.f .RING_MOVES_ACCEPTED 0))) = [(9500, 1), (9500, 1)] := by decide +kernel

/-- R36: 4,096 counts from RING_ORIG the move is accepted, one more and it is refused. -/
theorem test_boundaryBillet_edge : (let e := fun t => after .boundaryBillet (withInbox armed [got 43 (boundary 1 t)])
    ((e 14096).f .RING_NEXT_NEXT 0, (e 14097).f .RING_NEXT_NEXT 0, (e 14097).f .RING_MOVES_REFUSED 0)) = (14096, 10000, 1) := by
  decide +kernel

/-- A device whose grant gate has been closed since count 100, with a threshold of 50 counts. -/
def gated (now : Nat) : Dev := let d := put on [(.SV_GATE_AWAITING, 1, 3), (.SV_GRANT_STALL_T, 50, 3), (.RING_COUNT_COUNT, now, 0)]
  { d with sv := { d.sv with closedAt := [(3, 100)] } }

/-- StallsReported: a wait at its threshold, before it, and with the threshold off. -/
theorem hyp_StallsReported : ((gated 150).stall? (.grant 3)).map (fun s => (s.threshold, s.start)) = some (50, 100) ∧
    (gated 150).stallsDone (.grant 3) 100 = 0 ∧ (gated 150).ring.running ∧ (gated 150).count = 150 ∧ (gated 149).count = 149 ∧
    ((put (gated 150) [(.SV_GRANT_STALL_T, 0, 3)]).stall? (.grant 3)).map Stall.threshold = some 0 ∧ (gated 150).stalled = false := by
  decide +kernel

/-- R34: nothing at 149, the first report at 150, and no second before 200. -/
theorem test_stallReport : (let r := fun n => (after (.stallReport (.grant 3)) (gated n)).link.held.length
    let e := after (.stallReport (.grant 3)) (gated 150)
    (r 149, r 150, (after (.stallReport (.grant 3)) (put e [(.RING_COUNT_COUNT, 199, 0)])).link.held.length,
      (after (.stallReport (.grant 3)) (put e [(.RING_COUNT_COUNT, 200, 0)])).link.held.length)) = (0, 1, 1, 2) := by decide +kernel

/-! ## The ring count and its alignment -/

/-- CountRunsStopsAndReturns: the reference running, with no command and no metering, and stopped at a root in service. -/
theorem hyp_CountRunsStopsAndReturns : on.boot.cold = false ∧ on.ring.running ∧ on.cmds = [] ∧ on.metering = false ∧
    on.arb.emergency = [] ∧ (let d : Dev := { on with ring := { on.ring with running := false } }
     d.ring.running = false ∧ d.isRoot ∧ 6 ≤ d.stage) := by decide +kernel

/-- R39: the count resumes from the stopped value. -/
theorem test_ringRefReturn : (let d := put on [(.RING_COUNT_COUNT, 900, 0)]
    (after .ringRefEdge (after .ringRefReturn (after .ringRefEdge (after .ringRefLost d)))).count) = 901 := by decide +kernel

/-- A device below a root at node 0x0008, aligned, its last billet from the parent at count 0. -/
def child (now : Nat) : Dev := put on [(.RING_CFG_ROOT_NODE, 8, 0), (.RING_STATUS_STATE, 1, 0), (.RING_COUNT_COUNT, now, 0)]

/-- AlignmentStates: a child out of contact; a root that waits, that has waited, and one in service off and on the mark. -/
theorem hyp_AlignmentStates : (let d := child (2 ^ 22)
      d.isRoot = false ∧ d.f .RING_STATUS_STATE = 1 ∧ d.ring.lastParent + 2 ^ 22 ≤ d.count) ∧
    (child (2 ^ 22 - 1)).ring.lastParent + 2 ^ 22 > (child (2 ^ 22 - 1)).count ∧
    (let d := { put on [(.RING_COUNT_COUNT, 2097152, 0)] with ring := { on.ring with rootWait := some (0, false) } }
     d.ring.rootWait = some (0, false) ∧ 0 + 2 ^ 21 ≤ d.count) ∧
    on.boot.cold = false ∧ on.ring.running ∧ on.isRoot ∧ 6 ≤ on.stage ∧ on.ring.rootAgain = false ∧ on.anyValid = false ∧
    on.ring.rootWait = none ∧ onMark (put on [(.RING_COUNT_COUNT, 524288, 0)]).count = false ∧
    onMark (put on [(.RING_COUNT_COUNT, 1048576, 0)]).count ∧ on.accepts .owner .RING_CTRL 0 := by decide +kernel

/-- R25: 2^22 counts without the parent's billet, and not one sooner. -/
theorem test_holdoverTimeout : ((after .holdoverTimeout (child (2 ^ 22 - 1))).f .RING_STATUS_STATE,
    (after .holdoverTimeout (child (2 ^ 22))).f .RING_STATUS_STATE) = (1, 2) := by decide +kernel

/-- An alignment billet: its ROOT, DEPTH and COUNT. -/
def alignment (root depth count : Nat) : Billet :=
  mkBillet { type := 1, tc := 4, job := 0 }
    (leBytes 2 1 ++ leBytes 2 root ++ leBytes 1 depth ++ leBytes 1 0 ++ leBytes 2 0 ++ leBytes 8 count)

/-- A device whose parent link is the overridden link 3, measured, and UP. -/
def tied (state now : Nat) : Dev :=
  let d := put on [(.RING_CFG_ROOT_NODE, 8, 0), (.RING_CFG_PARENT_OVR_EN, 1, 0), (.RING_CFG_PARENT_OVR, 3, 0),
    (.FAB_LINK_STATUS_STATE, 3, 3), (.RING_STATUS_STATE, state, 0), (.RING_COUNT_COUNT, now, 0)]
  { d with ring := { d.ring with delay := [(3, 1)] } }

/-- The billet of the root at a count, from the parent link. -/
def fromRoot (count : Nat) : Arrival := ⟨43, alignment 8 0 count, some 3, 0, 0, 0⟩

/-- AlignmentBilletTable: a foreign ROOT, a billet of another link, one to adopt, one that would step back, and ones to
check within 3 counts and beyond. -/
theorem hyp_AlignmentBilletTable : (∀ a ∈ [fromRoot 1000, ⟨43, alignment 9 0 1000, some 3, 0, 0, 0⟩, ⟨43, alignment 8 0 1000, some 4, 0, 0, 0⟩],
      [a].find? (fun a => a.port == 43 && bType a.b == 1 && bPay a.b 0 0 16 == 1) = some a) ∧ 6 ≤ (tied 0 5).stage ∧
    bPay (alignment 9 0 1000) 2 0 16 ≠ (tied 0 5).f .RING_CFG_ROOT_NODE ∧
    ((tied 0 5).billetCounts ⟨43, alignment 8 0 1000, some 4, 0, 0, 0⟩ = false ∧
      within3 ((tied 0 5).localTime - (tied 0 5).billetTime ⟨43, alignment 8 0 1000, some 4, 0, 0, 0⟩) = false) ∧
    bPay (fromRoot 1000).b 2 0 16 = (tied 0 5).f .RING_CFG_ROOT_NODE ∧ (tied 0 5).billetCounts (fromRoot 1000) ∧
    (tied 0 5).f .RING_STATUS_STATE = 0 ∧ (tied 1 5).f .RING_STATUS_STATE ≠ 0 ∧ (tied 1 5).ring.reacquire = false ∧
    ((((tied 0 5).billetTime (fromRoot 1000) + alignUnit / 2) / alignUnit).toNat, (tied 0 5).count) = (1000, 5) ∧
    (let d := put (tied 0 5000) [(.PART_CTRL_VALID, 1, 0)]
     (((d.billetTime (fromRoot 1000) + alignUnit / 2) / alignUnit).toNat < d.count ∧ d.anyValid)) ∧
    within3 ((tied 1 1003).localTime - (tied 1 1003).billetTime (fromRoot 1000)) ∧
    within3 ((tied 1 1004).localTime - (tied 1 1004).billetTime (fromRoot 1000)) = false := by decide +kernel

/-- R28: an unaligned device takes the root's count and is one deeper; 3 counts off is aligned, 4 counts off slips. -/
theorem test_alignmentBillet : (let e := fun s n => after .alignmentBillet (withInbox (tied s n) [fromRoot 1000])
    ((e 0 5).count, (e 0 5).f .RING_STATUS_DEPTH, (e 1 1003).f .RING_STATUS_STATE, (e 1 1004).f .RING_STATUS_STATE)) =
    (1000, 1, 1, 3) := by decide +kernel

/-- AlignmentSent: one link UP at a mark, aligned; unaligned; and off the mark. -/
theorem hyp_AlignmentSent : (let d := tied 1 1048576
      let b := mkBillet { type := 1, tc := 4, job := 0, dest := d.f .FAB_LINK_STATUS_PEER 3, src := d.node }
        (leBytes 2 1 ++ leBytes 2 (d.f .RING_CFG_ROOT_NODE) ++ leBytes 1 (d.f .RING_STATUS_DEPTH))
      d.count % 2 ^ 20 = 0 ∧ d.ring.sentAt ≠ d.count + 1 ∧ d.f .RING_STATUS_STATE ≠ 0 ∧ (List.range 36).filter d.linkUp = [3] ∧ d.fab.inject = [] ∧
      d.malformed b = false ∧ d.place? 43 (bTc b) (bVc b) = some false) ∧
    (tied 0 5).f .RING_STATUS_STATE = 0 ∧ (tied 1 5).count % 2 ^ 20 ≠ 0 ∧
    (let d := after .alignmentSend (tied 1 1048576); d.ring.sentAt = d.count + 1) := by decide +kernel

/-! ## Start-up, reset and security -/

/-- ColdStartStages: every stage, with a link that trains and without, in time, out of it and on a stopped count, and
COLD_RESET_N asserted. -/
theorem hyp_ColdStartStages : State.reset.dev.boot.cold ∧ (∀ n ∈ [1, 2, 3, 4, 5, 6, 7, 8], (atStage n).atStage n) ∧
    (atStage 5).isRoot ∧ (put (atStage 6) [(.RING_STATUS_STATE, 1, 0)]).f .RING_STATUS_STATE = 1 ∧
    (let d := put (atStage 6) [(.RING_COUNT_COUNT, 33554432, 0)]
     d.atStage 6 ∧ d.f .RING_STATUS_STATE ≠ 1 ∧ d.boot.stage6 + 2 ^ 25 ≤ d.count) ∧
    (∀ l : Fin 36, (atStage 5).linkSettled l) ∧
    (let d := put (atStage 5) [(.FAB_LINK_STATUS_STATE, 1, 0)]
     d.linkSettled 0 = false ∧ d.ring.running ∧ d.count < 46700000) ∧
    (put (atStage 5) [(.RING_COUNT_COUNT, 46700000, 0)]).count = 46700000 ∧
    (put (atStage 6) [(.RING_COUNT_COUNT, 33554431, 0)]).count < (atStage 6).boot.stage6 + 2 ^ 25 ∧ (atStage 6).ring.running ∧
    ({ atStage 5 with ring := { running := false } } : Dev).ring.running = false ∧
    (put (atStage 7) [(.SCL_STATUS_STATE, 1, 0)]).f .SCL_STATUS_STATE = 1 := by decide +kernel

/-- A signing key: 2^4096 - 2549 is prime, so RSA's identity holds for it. -/
def key : RsaKey := let n := 2 ^ 4096 - 2549; ⟨n, 65537, (1 + 25788 * (n - 1)) / 65537⟩

/-- The record of the key's modulus and exponent. -/
def keyRecord : List Byte := leBytes 512 key.n ++ leBytes 4 65537 ++ List.replicate 60 0

/-- The span of a small image: a 256-byte header of one section. -/
def span : List Byte := leBytes 4 0x51533610 ++ leBytes 2 1 ++ leBytes 1 3 ++ leBytes 1 1 ++ leBytes 4 256 ++ leBytes 4 1 ++
  leBytes 4 9 ++ List.replicate 236 0

/-- The signed image. -/
def image : List Byte := span ++ keyRecord ++ rsaSign key.n key.d span ++ List.replicate 1088 0

/-- A device in stage 1 whose vendor key is that key. -/
def vendored : Dev := let d := atStage 1; { d with fuses := { d.fuses with vendorHash := sha512 keyRecord, metHash := sha512 keyRecord } }

/-- A Scaler region's span, signed by the key. -/
def region : ScalerRegion :=
  let r : ScalerRegion := { span := [1], version := 1, rule := 1, period := 0, gain := [], offset := [], perGrant := []
                            modulus := key.n, exponent := 65537, signature := 0 }
  { r with signature := beNat (rsaSign key.n key.d [1]) }

/-- SecureBoot: an image that passes every step with and without a good region, one that fails step 2, one that an interrupted
write has touched, an unsound section directory, and sections that the fuses stage applies and refuses. -/
theorem hyp_SecureBoot : vendored.atStage 1 ∧ vendored.imageFails image = none ∧ vendored.tornFails image = none ∧
    vendored.imageFails (image.set 16 8) = some 2 ∧
    ({ vendored with flash := { torn := some (255, 64) } } : Dev).tornFails image = some 1 ∧ vendored.flash.regionTorn = false ∧
    (some region).any vendored.regionOk ∧ (none : Option ScalerRegion).any vendored.regionOk = false ∧
    (atStage 2).atStage 2 ∧ sectionsOk [] = false := by decide +kernel

/-- An image with one empty register section. -/
def plainImage : List Byte := List.replicate 12 0 ++ leBytes 4 1 ++ List.replicate 240 0 ++ leBytes 4 1 ++ leBytes 4 272 ++
  List.replicate 8 0

theorem hyp_SecureBoot_fuses : (let d := atStage 2
    let d := { d with boot := { d.boot with image := plainImage } }
    sectionsOk d.boot.image ∧ (d.readFuses.applySections d.boot.image (imageSections d.boot.image)).isSome ∧
    (let img := plainImage.set 264 16 ++ leBytes 4 0x300000 ++ List.replicate 12 0
     sectionsOk img ∧ d.readFuses.applySections img (imageSections img) = none)) := by decide +kernel

/-- Table 20.3: the stage, a failed verification's step, the VDD_CORE target's two bytes and the balls. -/
theorem test_management : (let d := { on with pins := { alert := true } }
    ([0x01, 0x10, 0x11, 0x16, 0x17].map d.management, ((atStage 1).halt 2).management 2, (atStage 1).management 0x16)) =
    ([8, 208, 2, 4, 0], 2, 0) := by decide +kernel

/-- WarmReset: the pin and the Owner in READY; a second reset while busy; the pin's release; the end after 2,000 counts. -/
theorem hyp_WarmReset : on.atStage 8 ∧ on.accepts .owner .DEV_CTRL 0 ∧ on.flag .DEV_STATUS_WARM_BUSY = false ∧
    (∀ c ∈ on.cmds, c.ended = true) ∧
    (let d := put on [(.DEV_STATUS_WARM_BUSY, 1, 0), (.RING_COUNT_COUNT, 2500, 0)]
     d.atStage 8 ∧ d.flag .DEV_STATUS_WARM_BUSY ∧
     ({ d with boot := { d.boot with warmLow := true } } : Dev).boot.warmLow ∧
     (let e := { d with boot := { d.boot with warmRelease := some 500 } }
      e.boot.warmRelease = some 500 ∧ 500 + 2000 ≤ e.count ∧ e.boot.warmLow = false)) := by decide +kernel

/-- A metering device with a period of 1,000 counts, at count 2,000. -/
def metered : Dev := let d := put on [(.SCL_STATUS_STATE, 1, 0), (.SCL_PERIOD_PERIOD, 1000, 0), (.RING_COUNT_COUNT, 2000, 0)]
  { d with scl := { d.scl with live := true, mark := 1000 } }

/-- ScalerTallies: metering; a period due with 7 records held and with 8; an unsigned record; a signed one and room. -/
theorem hyp_ScalerTallies : metered.metering ∧ metered.periodDue metered.count ∧
    (let d := fun n => { metered with scl := { metered.scl with records := List.replicate n ⟨[], false⟩ } }
     (d 7).periodDue (d 7).count ∧ (d 7).scl.records.length < 8 ∧ (d 8).periodDue (d 8).count ∧ 8 ≤ (d 8).scl.records.length) ∧
    (let d := put on [(.SEC_TALLY_CFG_ENABLE, 1, 0), (.SEC_TALLY_CFG_SIZE_LOG2, 2, 0)]
     d.canWriteHost ∧ d.flag .SEC_TALLY_CFG_ENABLE ∧ d.tallyFull = false) := by decide +kernel

/-- A metrology command of KIND 1, its period and nonce, signed. -/
def metrology (nonce period : Nat) : List Byte :=
  let body := leBytes 2 1 ++ leBytes 1 1 ++ List.replicate 29 0 ++ leBytes 32 nonce ++ leBytes 64 period
  body ++ leBytes 512 key.n ++ rsaSign key.n key.d body

/-- MetrologyCommands: idle and busy; a command that passes every check, and one with another nonce. -/
theorem hyp_MetrologyCommands : on.accepts .owner .SEC_MET_CMD 0 ∧ on.flag .SCL_STATUS_MET_BUSY = false ∧
    (put on [(.SCL_STATUS_MET_BUSY, 1, 0)]).flag .SCL_STATUS_MET_BUSY ∧
    (let b := metrology 5 10000000
     b.length = 1152 ∧ padTo 1152 (b.take 1152) = b ∧ vendored.metCheck 5 b none = none ∧
     vendored.metCheck 6 b none = some 1) := by decide +kernel

/-- SecurityController: a quote idle, busy and read; a certificate read; a flash write in range, across the Scaler region,
and under way. -/
theorem hyp_SecurityController : on.accepts .owner .SEC_QUOTE_CTRL 0 ∧ Fld.SEC_QUOTE_CTRL_GO.of (Fld.SEC_QUOTE_CTRL_GO.put 0 1) = 1 ∧
    on.flag .SEC_QUOTE_CTRL_BUSY = false ∧ (put on [(.SEC_QUOTE_CTRL_BUSY, 1, 0)]).flag .SEC_QUOTE_CTRL_BUSY ∧ on.link.up ∧
    on.answers .owner (Reg.SEC_CERT.addrOf 0 0) ∧ on.accepts .owner .SEC_FLASH_CTRL 0 ∧
    Fld.SEC_FLASH_CTRL_GO.of (Fld.SEC_FLASH_CTRL_GO.put 0 1) = 1 ∧ on.flag .SEC_FLASH_CTRL_BUSY = false ∧
    flashBad 0x07EFFFC0 64 = false ∧ flashBad 0x07EFFFC0 128 ∧ flashBad 0x08000000 64 := by decide +kernel

/-- A device with one grant. -/
def granting (d : Dev) (g : Grant) : Dev := { d with arb := { d.arb with grants := [g] } }

/-- DebugPort: an open, allowed port with TRST_N released, and one held in reset. -/
theorem hyp_DebugPort : on.accepts .owner .SEC_DBG_CFG 0 ∧ on.flag .SEC_DBG_CFG_OPEN = false ∧
    Fld.SEC_DBG_CFG_OPEN.of (Fld.SEC_DBG_CFG_OPEN.put 0 1) = 1 ∧
    (let d := put on [(.SEC_DBG_CFG_OPEN, 1, 0), (.SEC_DBG_CFG_ALLOW, 1, 0)]
     d.dbgUsable true ∧ d.dbgUsable false = false ∧ d.mem.slabBad = [] ∧ d.arbHeld 0x2000 = false ∧
     (granting d ⟨0x2000, 1, none, true, false⟩).owner? 0x2000 = some ⟨0x2000, 1, none, true, false⟩ ∧ d.owner? 0x2000 = none ∧
     (after (.switchCapture true 43) d).arbHeld 0x602B) := by decide +kernel

/-- R313, R314: an access through the debug port suspends the owner of the slab port, counts it and lets it go on. -/
theorem test_slabAccess : (let d := granting (put on [(.SEC_DBG_CFG_OPEN, 1, 0), (.SEC_DBG_CFG_ALLOW, 1, 0)]) ⟨0x2000, 1, none, true, false⟩
    let e := after (.slabAccess true 0 64 true 5) d
    (e.f .ARB_EMERG_DEBUG, e.f .SEC_DBG_CFG_OPS, (e.grantOf 0x2000).map Grant.suspended, SMap.get 0 e.mem.slab 64)) =
    (1, 1, some false, 5) := by decide +kernel

/-- FIPS 180-4's SHA-512 of "abc", the check values of CRC-32 and of CRC-16 with initial value 0xFFFF. -/
theorem test_digests : (sha512 [0x61, 0x62, 0x63]).take 8 = [0xdd, 0xaf, 0x35, 0xa1, 0x93, 0x61, 0x7a, 0xba] ∧
    crc32 ((List.range 9).map (fun i => BitVec.ofNat 8 (0x31 + i))) = 0xCBF43926 ∧
    crc16 ((List.range 9).map (fun i => BitVec.ofNat 8 (0x31 + i))) = 0x29B1 := by decide +kernel

/-! ## Arbitration, errors and repair -/

/-- LotteryGrantsByTickets: two requests at the last slab port, one, from another than the parked owner and from it, and none:
an input beyond Table 15.1 makes no request. -/
theorem hyp_LotteryGrantsByTickets : arbExists 0x2097 ∧ on.arbHeld 0x2097 = false ∧ on.lfsr 0x2097 < 2 ^ 32 ∧
    on.requests 0x2097 [⟨0, [], none⟩, ⟨3, [], some 4⟩] = [⟨0, [], none⟩, ⟨3, [], some 4⟩] ∧
    ([0, 3] : List Nat).Pairwise (· < ·) ∧ on.requests 0x2097 [⟨3, [], none⟩, ⟨4, [], none⟩] = [⟨3, [], none⟩] ∧
    on.grantOf 0x2097 = none ∧ ((granting on ⟨0x2097, 3, none, false, false⟩).grantOf 0x2097).map Grant.input = some 3 ∧
    on.requests 0x2097 [⟨4, [], none⟩] = [] := by decide +kernel

/-- R310: with 1 ticket each, the draw that follows LFSR 1 is 0x80200003, whose share of 2 is 1: the second input. -/
theorem test_lotteryDraw : ((after (.lotteryDraw 0x2000 [⟨0, [], none⟩, ⟨1, [], none⟩])
    { put on [(.ARB_TICKETS_ARRAY, 1, 0), (.ARB_TICKETS_STAGE, 1, 0)] with arb := { lfsr := [(0x2000, 1)] } }).grantOf 0x2000) =
    some ⟨0x2000, 1, none, true, false⟩ := by decide +kernel

/-- EmergencyAndWatchdog: a unit in progress at an HBM stop and none; a slab port through a usable debug port, and one that is
not usable; a held stop; a bite with a command that has not ended and with none, among requests of the bitten input only. -/
theorem hyp_EmergencyAndWatchdog : (let d := put (withCmds [cmd 4 0x0B []]) [(.ARB_WDOG_MEM_HBM, 1, 0)]
    let g : Grant := ⟨0x107F, 1, some 4, true, false⟩
    arbExists 0x107F ∧ arbClass 0x107F = 1 ∧ d.arbHeld 0x107F = false ∧ (granting d g).owner? 0x107F = some g ∧
    (granting d { g with busy := false }).owner? 0x107F = none ∧ arbExists 0x2097 ∧ arbClass 0x2097 = 2 ∧ arbClass 0x602B = 6 ∧
    (put d [(.SEC_DBG_CFG_OPEN, 1, 0), (.SEC_DBG_CFG_ALLOW, 1, 0)]).dbgUsable true ∧ d.dbgUsable true = false ∧
    (after (.emergencyGrant 0x107F false) (granting d g)).arbHeld 0x107F ∧ d.wdog (arbClass 0x107F) ≠ 0 ∧
    ((granting d g).grantCmd g).bind d.cmd? = some (cmd 4 0x0B []) ∧ (cmd 4 0x0B []).ended = false ∧
    ((granting d { g with cmd := none }).grantCmd { g with cmd := none }).bind d.cmd? = none) := by decide +kernel

/-- R315: a bite kills the owner's command; it counts and captures. -/
theorem test_watchdogBite : (let d := granting (put (withCmds [cmd 4 0x0B []]) [(.ARB_WDOG_MEM_HBM, 1, 0)]) ⟨0x1000, 1, some 4, true, false⟩
    let e := after (.watchdogBite ⟨0x1000, []⟩) d
    (e.f .ARB_BITES_BITES, e.flag .ARB_BITE_LAST_VALID, (e.cmd? 4).map Cmd.causes)) = (1, true, some [.killedWatchdog]) := by
  decide +kernel

/-- RatesAndReasons: each rate kind's item, over and under its threshold; a window's end; an enabled reason. -/
theorem hyp_RatesAndReasons : on.accepts .owner .ERR_REPLACE 0 ∧ on.count % 2 ^ 20 = 0 ∧ 8 ≤ on.stage ∧
    (let d := put on [(.ERR_THRESH0_HBM_CE, 2, 0), (.ERR_THRESH0_SLAB_CE, 2, 0), (.ERR_THRESH0_WCACHE_CE, 2, 0),
       (.ERR_THRESH1_MESH_CRC, 2, 0)]
     ∀ k ∈ [0, 1, 3, 7], d.rateLimit k = 2 ∧ d.err.rated = []) ∧
    (let d := put on [(.ERR_RATE_WIN_WINDOW, 1, 0), (.RING_COUNT_COUNT, 1073741824, 0)]
     d.err.rateStart + d.rateWindow ≤ d.count) ∧
    on.pins.replace = false ∧ (put on [(.ERR_REPLACE_REASON, 8, 0), (.ERR_REPLACE_CFG_MASK, 8, 0)]).reasons ≠ 0 := by decide +kernel

/-- Table 17.5: the second event reaches a threshold of 2 and posts one report; the third posts none. -/
theorem test_errRate : (let d := put on [(.ERR_THRESH0_HBM_CE, 2, 0)]
    let e := fun n => after (.errRate 0 3 n) d
    ((e 1).link.held.length, (e 2).link.held.length, (after (.errRate 0 3 1) (e 2)).link.held.length)) = (0, 1, 1) := by decide +kernel

/-- DroopAndTemperature: at WARN and armed, not armed, 5 degrees below, at 115, across a multiple of 10 and too soon. -/
theorem hyp_DroopAndTemperature : (let d := put on [(.ERR_THERM_WARN, 100, 0), (.ERR_THERM_TEMP, 99, 0)]
    d.f .ERR_THERM_WARN ≤ 100 ∧ d.err.tempArmed ∧ ({ d with err := { d.err with tempArmed := false } } : Dev).err.tempArmed = false ∧
    95 + 5 ≤ d.f .ERR_THERM_WARN ∧ d.pins.therm = false ∧ d.boot.cold = false ∧ d.f .ERR_THERM_TEMP / 10 ≠ 100 / 10 ∧
    3 ≤ d.stage ∧ d.boot.vddAt = none) ∧
    (let d := { put on [(.RING_COUNT_COUNT, 1048575, 0)] with boot := { on.boot with vddAt := some 0 } }
     d.boot.vddAt = some 0 ∧ d.count < 0 + 2 ^ 20) := by decide +kernel

/-- MeshAndScrub: a live command, and the next line of each stack outside retired frames. -/
theorem hyp_MeshAndScrub : ((withCmds [cmd 4 0x0B []]).cmd? 4).any (fun c => !c.ended) ∧
    (let d := put on [(.TIER_SCRUB_ENABLE, 1, 0)]
     d.flag .TIER_SCRUB_ENABLE ∧ 8 ≤ d.stage ∧ ∀ k ∈ [0, 7], stackLine k 0 / 65536 ∉ d.mem.frames ∧ stackLine k 0 ∉ d.mem.hbmBad) := by
  decide +kernel

/-! ## Commands: fetch, launch, ends and control -/

/-- What an answer holds, and why there is none. -/
def okOf {ε α : Type} : Except ε α → Option α
  | .ok a => some a
  | .error _ => none
def errOf {ε α : Type} : Except ε α → Option ε
  | .ok _ => none
  | .error e => some e

/-- A 64-byte-unit version in the slab of array 0. -/
def slabVer (obj n : Nat) : Version := ⟨0, obj, { tier := 2, size64 := n, base := 4096 * obj, members := [0] }, 0⟩

/-- DescriptorFetched: a queue that may fetch, with a good FENCE and with one whose ARGS hold a reserved bit. -/
theorem hyp_DescriptorFetched : queued.mayFetch 1 ∧
    (let ok := fun (l : List (Nat × Nat)) =>
       let desc := line ((0, 0x0B) :: (1, 1) :: (2, 7) :: l)
       ((queued.setF .CMD_SQ_HEAD_HEAD 1 1).accept 1 desc).descOk 1 (newCmd 0 1 desc)
     ok [] ∧ ok [(44, 2)] = false) ∧ queued.cmd? queued.nextId = none := by decide +kernel

/-- R51: an unknown opcode ends with BAD_DESCRIPTOR at fetch. -/
theorem test_descriptorFetch_bad : (after (.descriptorFetch 1 (line [(0, 0xFF), (2, 7)])) queued).link.held.map
    (fun h => match h with | .completion k => k.status | .report _ => .ok) = [.badDescriptor] := by decide +kernel

/-- The FENCE of queue 1, not launched. -/
def fence : Cmd := { cmd 0 0x0B [] with launched := false }

/-- CommandLaunches: an eligible FENCE; one that waits for another; an EXCHANGE behind the closed gate. -/
theorem hyp_CommandLaunches : (let d := withCmds [fence]
      d.nextLaunch 1 = some fence ∧ d.cmd? 0 = some fence ∧ d.ring.running ∧ d.stalled = false ∧ d.settleDue = d ∧
      d.mem.superseded = [] ∧ d.eligibleNow fence ∧ 0x0A ≤ fence.opcode ∧ fence.opcode ≤ 0x0F ∧ fence.noHandles ∧
      fence.inputs = [] ∧ fence.claims = [] ∧ d.launchDue fence = false ∧ d.eligibleNow { fence with waitOn := some 3 } = false) ∧
    (let c := { cmd 0 3 [] with launched := false }
     let d := put (withCmds [c]) [(.SV_GATE_AWAITING, 1, 0)]
     d.nextLaunch 1 = some c ∧ d.eligibleNow c ∧ c.gated ∧ d.flag .SV_GATE_AWAITING c.part ∧ d.settleDue = d) := by decide +kernel

/-- R47: the launch records the count. -/
theorem test_commandLaunch : ((after (.commandLaunch 1) (put (withCmds [fence]) [(.RING_COUNT_COUNT, 77, 0)])).cmd? 0).map
    (fun c => (c.launched, c.launchAt)) = some (true, 77) := by decide +kernel

/-- CommitKillRelease: a ready FENCE with PROTECT and without; a COPY with a claim; a command with causes, and with failed
parts; a superseded version that nothing reads. -/
theorem hyp_CommitKillRelease : (∀ l ∈ [[(44, 1)], []], let c := { cmd 0 0x0B l with ready := true }
      let d := withCmds [c]
      d.cmd? 0 = some c ∧ c.opcode = 0x0B ∧ d.canCommit c ∧ c.claims = [] ∧ d.placesOf 0 = [] ∧ c.suspect = false ∧
      d.stalled = false) ∧
    (let c := { cmd 0 7 [] with ready := true, claims := [⟨slabVer 5 1, false, false⟩] }
     let d := { put (withCmds [c]) [(.TIER_OBJTAB_SIZE_LOG2, 4, 0)] with mem := { hbm := writeBytes [] 160 (slabVer 5 1).entry.bytes } }
     d.cmd? 0 = some c ∧ d.canCommit c ∧ d.placesOf 0 = [] ∧ okOf (d.entry 0 5) = some (some (slabVer 5 1).entry) ∧
     ((okOf (d.commitTables c)).bind (fun e => (okOf (e.entry 0 5)).bind (fun x => x.map (fun x => (x.cur, x.hasCur, x.gen))))) = some (0, true, 1)) ∧
    ({ cmd 0 6 [] with causes := [.faultXlat, .killedDisable] } : Cmd).killStatus = some .killedDisable ∧
    ({ cmd 0 3 [] with causes := [.partFailed], failed := [2] } : Cmd).killStatus = some .partFailed ∧
    (let d := { on with mem := { on.mem with superseded := [⟨slabVer 5 1⟩] } }
     (d.mem.superseded.find? (fun y => y.ver.part == 0 && y.ver.obj == 5 && y.ver.buf == 0 && !d.readBy y.ver)).isSome) := by
  decide +kernel

/-- R209: the charge of a placement that is gone falls with its last version. -/
theorem test_versionRelease : (let x : Charge := ⟨0, 5, (slabVer 5 1).entry, 0, 2048, false⟩
    let d := { on with mem := { superseded := [⟨slabVer 5 1⟩], charges := [x] } }
    let e := after (.versionRelease 0 5 0) d
    (d.useSlab 0, e.useSlab 0, e.mem.charges)) = (2048, 0, []) := by decide +kernel

/-- R54: KILLED_DISABLE comes before FAULT_XLAT. -/
theorem test_kill_precedence : (after (.kill 0) (withCmds [{ cmd 0 6 [] with causes := [.faultXlat, .killedDisable] }])).link.held.map
    (fun h => match h with | .completion k => k.status | .report _ => .ok) = [.killedDisable] := by decide +kernel

/-- ControlCommandsAct: a FENCE alone and behind another; PREEMPT of a partition and of a queue; every KIND of DISABLE, with two
lanes left and with one; ENABLE_SPARE of a good and a bad pair. -/
theorem hyp_ControlCommandsAct : (let c := cmd 2 0x0B []
      (withCmds [c]).cmd? 2 = some c ∧ c.running ∧ c.ready = false ∧ (∀ e ∈ (withCmds [c]).cmds, e.queue = c.queue → c.id ≤ e.id) ∧
      (∃ e ∈ (withCmds [cmd 1 6 [], c]).cmds, e.queue = c.queue ∧ e.id < c.id)) ∧
    (∀ l ∈ [[(46, 1)], [(44, 1), (45, 1)]], let c := cmd 2 0x0C l
      c.opcode = 0x0C ∧ c.passed = [] ∧ c.running ∧
      (withCmds [cmd 1 6 [], c]).cmds.any (fun k => k.id != 2 && !k.ended &&
        (if c.arg 0 0 8 = 0 then k.part == c.arg 1 0 8 else k.queue == c.arg 1 0 8))) ∧
    (∀ k ∈ [0, 1, 2, 3], let c := cmd 2 0x0D [(44, k), (46, 35), (48, 3)]
      c.opcode = 0x0D ∧ c.arg 0 0 8 = k ∧ c.arg 2 0 16 = 35 ∧ c.arg 4 0 8 = 3 ∧ on.mem.frames.contains (c.arg 8 0 64 / 65536) = false) ∧
    (on.linkUsers 2 35 = [] ∧
     (let x : Slot := { serial := 0, input := 36, cls := 0, vc := 0, shared := false, job := 7, copies := [⟨35, 0⟩], edge := 0
                        since := 0, owner := some (1, 0) }
      let d := withCmds [cmd 1 3 [], cmd 2 0x0D []]
      ({ d with fab := { slots := [x] } } : Dev).linkUsers 2 35 = [1])) ∧
    on.mem.frames.length < 4096 ∧ 2 ≤ popCount (setBit (on.lanesOf 35) 3 false) 4 ∧
    popCount (setBit ((put on [(.FAB_LINK_STATUS_RETIRED, 3, 35)]).lanesOf 35) 3 false) 4 < 2 ∧
    (let c := cmd 2 0x0E [(44, 144), (46, 3)]
     let d := put on [(.MA_ARR_STATE_STATE, 1, 144), (.MA_ARR_STATE_STATE, 3, 3)]
     c.opcode = 0x0E ∧ d.arrState (c.arg 0 0 16) = 1 ∧ d.arrState (c.arg 2 0 16) = 3 ∧ on.arrState (c.arg 2 0 16) = 0) := by decide +kernel

/-- R62: PREEMPT kills the other command of its partition. -/
theorem test_preempt : ((after (.preempt 2) (withCmds [cmd 1 6 [], cmd 2 0x0C []])).cmd? 1).map Cmd.causes = some [.killedPreempt] := by
  decide +kernel

/-- What an engine's work answers. -/
def okVal {α : Type} (m : Op α) (d : Dev) : Option α := match (m.run.run d).1 with | .ok a => some a | .error _ => none

/-- A result that is no error. -/
def isOk {ε α : Type} : Except ε α → Bool
  | .ok _ => true
  | .error _ => false

/-- A STEP_GRANT of partition 0 with a SEQ. -/
def grant (seq : Nat) : Cmd := cmd 4 0x0F [(44, seq)]

/-- A Sieve context that has loaded, for the SIEVE with number 6: one slot of two tokens, one of them in assembly. -/
def sieveCtx : SvCtx :=
  { ctx := 0, id := 6, part := 0, head := 0, loaded := true, map := [0], caps := none, status := none, groups := []
    slots := some [(0, 2)], width := 1, last := true, rows := [⟨0, 0, [(0, [0x3F800000#32])], 0, false, false⟩]
    used := [], given := [], grains := [], tokens := 0, exited := [], pass := 0, miss := 0, nans := 0, runs := []
    tailDone := false, dirs := [] }

/-- A device with the context and its SIEVE, paired with LAYER 3. -/
def sieving (x : SvCtx) (l : List (Nat × Nat)) : Dev :=
  let d := withCmds [{ cmd 6 2 l with pair := some 3, claims := [⟨slabVer 9 64, false, false⟩] }]
  { d with sv := { d.sv with ctxs := [x] } }

/-- GrantGateAndReport: a grant read, whose SEQ is stale, to come with three and with four stored, within its bounds, and
beyond them; a SIEVE whose tail is done and whose ring has a slot. -/
theorem hyp_GrantGateAndReport : (∀ n ∈ [1, 2, 5], let c := grant n
      let d := withCmds [c]
      c.running ∧ c.ready = false ∧ c.opcode = 0x0F ∧ c.parts = 1 ∧ (okVal (readGrant c) d).isSome) ∧
    (let c := cmd 4 0x0F [(24, 1)]; Op.succeeds (withCmds [c]) (readGrant c) = false) ∧
    (let g := fun n => ({ withCmds [] with sv := { (withCmds []).sv with grants := (List.range n).map (fun i => ⟨0, i + 9, false, 0, 0, none, none⟩) } } : Dev)
     ((g 3).sv.grants.filter (fun h => h.part == 0 && h.seq != 5)).length = 3 ∧
     ((g 4).sv.grants.filter (fun h => h.part == 0 && h.seq != 5)).length = 4) ∧
    (put (withCmds []) [(.SV_REL_SEQ_REL_SEQ, 1, 0), (.SV_SEQ_SEQ, 2, 0)]).f .SV_REL_SEQ_REL_SEQ 0 = 1 ∧
    (let g : StoredGrant := ⟨0, 2, true, 5, 5, none, none⟩
     (withCmds []).withinBounds g ∧
     ({ withCmds [] with sv := { (withCmds []).sv with maxDest := [(0, 6)] } } : Dev).withinBounds g = false) ∧
    (let x := { sieveCtx with tailDone := true }
     let d := put (sieving x []) [(.SV_RPT_CFG_ENABLE, 1, 0), (.SV_RPT_CFG_SIZE_LOG2, 4, 0), (.SV_RPT_CFG_SLOT_LOG2, 12, 0)]
     d.sv? 0 = some x ∧ (d.cmd? 6).any Cmd.running ∧ d.rptReady 0 ∧ d.stalled = false ∧
     (d.cmd? 6).any (fun c => isOk (d.commitTables c))) := by decide +kernel

/-- Table 4.14: the grant of the SEQ that the closed gate awaits opens it; an older SEQ is stale. -/
theorem test_stepGrant : (let d := put (withCmds [grant 2]) [(.SV_REL_SEQ_REL_SEQ, 1, 0), (.SV_SEQ_SEQ, 2, 0), (.SV_GATE_AWAITING, 1, 0)]
    ((after (.stepGrant 4) d).flag .SV_GATE_AWAITING 0, (after (.stepGrant 4) (put d [(.SV_REL_SEQ_REL_SEQ, 2, 0)])).f .SV_GRANTS_STALE 0)) =
    (false, 1) := by decide +kernel

/-! ## The Sieve, the arrays and the Borer -/

/-- A score tile of LAYER 3 for the second token. -/
def tile : ScoreTile := ⟨3, 0, 1, 1, 0, 1, [0#32], [0]⟩

/-- SieveCommandsAct: a context not loaded, loaded with a tile that fits and one that does not, with a complete token, and
with its tail due; the load fails without a map. -/
theorem hyp_SieveCommandsAct : (let x := { sieveCtx with loaded := false }
      let d := sieving x []
      (d.cmd? 6).any Cmd.running ∧ d.sv? 0 = some x ∧ d.sv.ctxs.find? (fun y => y.id == 6) = some x ∧
      (d.cmd? 6).any (fun c => !Op.succeeds d (sieveLoad c x)) ∧
      (d.cmd? 6).any (fun c => let c := { c with inputs := [slabVer 0 64] }; Op.succeeds d (sieveLoad c x))) ∧
    (let d := sieving sieveCtx []
     let d := { d with arr := { d.arr with scores := [tile] } }
     d.sv? 0 = some sieveCtx ∧ (d.arr.scores.find? (fun t => (d.cmd? 6).any (fun c => c.pair == some t.layer))) = some tile ∧
     isOk (sieveCtx.takeAll 0 tile [0]) ∧ isOk (sieveCtx.takeAll 0 { tile with first := 2 } [0]) = false ∧
     (okOf (sieveCtx.takeAll 0 tile [0])).any (fun y => !y.gap 0) ∧
     (let x := { sieveCtx with rows := [] }
      (okOf (x.takeAll 0 tile [0])).any (fun y => (d.cmd? 6).any (fun c => d.scoresDone c y) && y.gap 0))) ∧
    ((sieveCtx.order 0).drop sieveCtx.tokens).head? = some (0, 0) ∧
    (sieveCtx.rows.find? (fun r => r.slot == 0 && r.token == 0 && !r.chosen)).any (sieveCtx.complete 0) ∧
    (let x := { sieveCtx with tokens := 2 }
     let d := sieving x []
     x.tailDone = false ∧ (d.cmd? 6).any (fun c => d.scoresDone c x) ∧ (x.order 0).length = x.tokens ∧
     (d.cmd? 6).any (fun c => !Op.succeeds d (sieveTail c x)) ∧ ({ sieveCtx with rows := [] } : SvCtx).gap 0) := by decide +kernel

/-- A SIEVE of STAGE 0 with an output and without: its one token is selected, and its tail is written. -/
theorem hyp_SieveCommandsAct_works : (let x := sieveCtx
    let d := sieving x [(36, 9)]
    (d.cmd? 6).any (fun c => Op.succeeds d (sieveTail c { x with tokens := 2 })) ∧
    (d.cmd? 6).any (fun c => x.rows.any (fun r => Op.succeeds d (selectToken c x r) &&
      !Op.succeeds (sieving x []) (selectToken { c with desc := 0 } x r))) ∧
    (d.cmd? 6).any (fun c => (x.select c (x.rows.getD 0 ⟨0, 0, [], 0, false, false⟩)).1.length = 1)) := by decide +kernel

/-- A unit of the product of entry 0 on array 0, and a run of LAYER 3 with it. -/
def unit : LUnit := { arr := 0, entry := 0, what := 0, rows := [0], cols := [0] }
def run (u : LUnit) (b : List TBlock) : LayerRun :=
  { id := 3, arrays := [0], seed := 0, prop := 0, margin := none, feed := false, k := 32, n := 1
    src := .reg ⟨slabVer 1 64, 0, 32, 1, 32, 1, false, false⟩, addend := none, recv := none, stashX := none, stashZ := none
    entries := [⟨0, 0, 0, 1, 0, 1, false, some ⟨slabVer 2 64, 0, 32, 32, 1, 1, false, true⟩, 0, none⟩], groups := [], units := [u], blocks := b
    out := [], z := [], waits := [], copper := [], deadline := none, missAt := none, noCoppice := false }
/-- A matrix of one tile in the slab of an array, its directory 32 bytes and its record 64 bytes from an offset on. -/
def withTile (m : SMap Byte) (arr off : Nat) (t : Tile) : SMap Byte :=
  let bs := t.encode.2
  writeBytes (writeBytes m (slabKey arr (off + 32)) (leBytes 4 1 ++ leBytes 4 bs.length)) (slabKey arr (off + 64)) bs

/-- A row of activations, and a column of weights in the slabs of arrays 0 and 1. -/
def operands : SMap Byte :=
  let w : Tile := ⟨32, 1, 1, false, true, List.replicate 32 0x3F80, []⟩
  withTile (withTile (withTile [] 0 4096 ⟨1, 32, 1, false, false, List.replicate 32 0x3F80, []⟩) 0 8192 w) 1 0 w

def layering (r : LayerRun) (l : List (Nat × Nat) := []) : Dev :=
  let d := withCmds [cmd 3 1 l]
  { d with arr := { d.arr with runs := [r] }, mem := { d.mem with slab := operands } }

/-- Weights of one column in the slab of array 1. -/
def far : Region := ⟨⟨0, 2, { tier := 2, size64 := 64, base := 0, members := [1] }, 0⟩, 0, 32, 32, 1, 1, false, true⟩

/-- LayerWorkRuns: a run that is done; a unit with a position to stream, with and without a fault and with checks on and off, that
succeeds and that reads a bad word; a stored tile column to examine; a chunk to stage; a block to fill, and one to drain; a
deadline that is due; and a failed check, the first of its array and a later one. -/
theorem hyp_LayerWorkRuns : (let r := run { unit with done := true } []
      let d := layering r
      (d.cmd? 3).any Cmd.running ∧ d.run? 3 = some r ∧ r.units.all LUnit.done ∧ r.blocks.all TBlock.done ∧ d.arr.scores = [] ∧
      d.borer.waiting = []) ∧
    (let r := run { unit with seen := 1, positions := [0], staged := 1 } []
     let d := layering r
     d.stalled = false ∧ (d.cmd? 3).any (fun c => c.parts = 1 ∧ d.tile? 3 0 = some (c, r, { unit with seen := 1, positions := [0], staged := 1 }) ∧
       d.tileReady c r 0 0 ∧ Op.succeeds d (productTile 3 0 c r { unit with seen := 1, positions := [0], staged := 1 } false false 64 none) ∧
       !Op.succeeds { d with mem := { d.mem with slabBad := [slabKey 0 8256] } } (productTile 3 0 c r { unit with seen := 1, positions := [0], staged := 1 } false false 64 none)) ∧
     d.flag .MA_PART_MODE_CHK_EN 0 = false ∧ (put d [(.MA_PART_MODE_SHD_EN, 1, 0)]).flag .MA_PART_MODE_SHD_EN 0 ∧
     (put d [(.MA_PART_MODE_CHK_EN, 1, 0)]).flag .MA_PART_MODE_CHK_EN 0) ∧
    (let r := run unit []
     let d := layering r
     (d.unit? 3 0).isSome ∧ (r.tiled unit).isSome ∧ unit.seen < r.storedCols unit ∧ unit.done = false ∧ d.skMay unit.arr 0 ∧
     (d.cmd? 3).any (fun c => (r.tiled unit).any (fun g => Op.succeeds d (compactTile 3 0 c r unit g)))) ∧
    (let u := { unit with seen := 1, positions := [0] }
     let r := { run u [] with entries := [⟨0, 0, 0, 1, 0, 1, false, some far, 0, none⟩] }
     let d := layering r [(44, 3)]
     (d.cmd? 3).any (fun c => (d.stageNext c r 0 0).any (fun x => x.1 == 0 && x.2.2 == u &&
       Op.succeeds d (stageWeights 3 0 c x.2.1 u far 0 false 64))) ∧ (r.entries[u.entry]?).bind LEntry.weights = some far) ∧
    (let b : TBlock := { arr := 151, entry := 0, stash := false, rows := [0], cols := [0] }
     let r := run unit [b]
     let d := layering r
     r.blocks[0]? = some b ∧ b.done = false ∧ b.half = none ∧ (d.tbufs 18).contains (d.nextHalf 18) = false ∧ d.skMay 151 0 ∧
     (d.cmd? 3).any (fun c => Op.succeeds d (fillBlock 3 0 c r b)) ∧
     (let e := layering (run unit [{ b with half := some 1 }])
      (e.tbufs 18).length ≠ 2) ∧
     (let e := layering (run unit [{ b with half := some 0 }, { b with half := some 1 }])
      (e.tbufs 18).length = 2 ∧ e.nextHalf 18 = 0)) ∧
    (let r := run unit []
     let d := layering r
     let e := d.checkFails 3 5 true 7 1 2
     (d.cmd? 3).any (fun c => !c.ended) ∧ (d.run? 3).any (fun r => !r.faults.contains (5, true)) ∧
     d.flag .MA_ARR_FAULT_VALID 5 = false ∧ (e.run? 3).any (fun r => r.faults.contains (5, true)) ∧ e.flag .MA_ARR_FAULT_VALID 5) ∧
    (let r := { run unit [] with deadline := some 5 }
     let d := put (layering r) [(.RING_COUNT_COUNT, 5, 0)]
     r.deadline = some 5 ∧ 5 ≤ d.count ∧ d.flag .TIER_PART_CFG_COPPICE_EN 0 = false ∧ r.waits = []) := by decide +kernel

/-- A waiting sample of slot 2 in step 4 of partition 0. -/
def sampled : Dev := let d := put on [(.MA_BR_CFG_ENABLE, 1, 2)]
  { d with borer := { d.borer with waiting := [⟨2, 4, 0, 3, some 120⟩] } }

/-- BorerCommandsAct: a slot off, on with its step open, on with the step sealed; CFG enabled, disabled and changed while
enabled; a histogram read with and without ZEROS. -/
theorem hyp_BorerCommandsAct : (sampled.borer.waiting.find? (fun x => x.slot == 2)).isSome ∧ sampled.brOn 2 0 ∧
    (put sampled [(.MA_BR_CFG_ENABLE, 0, 2)]).brOn 2 0 = false ∧
    sampled.stalled = false ∧ sampled.hist? 2 4 = none ∧
    (let h : Hist := ⟨2, 4, false, [], 0, false⟩
     ({ sampled with borer := { sampled.borer with hists := [h] } } : Dev).hist? 2 4 = some h) ∧ SMap.get 0 sampled.borer.late 2 ≠ 5 ∧
    SMap.get 0 ({ sampled with borer := { sampled.borer with late := [(2, 5)] } } : Dev).borer.late 2 = 5 ∧
    (put sampled [(.RING_STEP_STEP, 4, 0)]).brSealed 0 4 = false ∧ (put sampled [(.RING_STEP_STEP, 9, 0)]).brSealed 0 4 ∧
    on.accepts .owner .MA_BR_CFG 63 ∧ on.flag .MA_BR_CFG_ENABLE 63 = false ∧ (1#64).getLsbD 0 ∧ sampled.flag .MA_BR_CFG_ENABLE 2 ∧
    Fld.MA_BR_CFG_ENABLE.put (0x3000#64 &&& 0xFFFFFFFF#64 &&& BitVec.ofNat 64 Reg.MA_BR_CFG.spec.rw) 1 = sampled.reg .MA_BR_CFG 2 ∧
    Fld.MA_BR_CFG_ENABLE.put (0xFF#64 &&& 0xFFFFFFFF#64 &&& BitVec.ofNat 64 Reg.MA_BR_CFG.spec.rw) 1 ≠ sampled.reg .MA_BR_CFG 2 ∧
    on.answers .user (Reg.MA_BR_HDATA.addrOf 0 0) ∧ (put on [(.MA_BR_HSEL_ZEROS, 1, 0)]).flag .MA_BR_HSEL_ZEROS := by decide +kernel


/-! ## The Exchange Engine -/

/-- Bytes in the slab of array 0, from an offset on. -/
def slabAt (d : Dev) (off : Nat) (bs : List Byte) : Dev :=
  { d with mem := { d.mem with slab := d.mem.slab ++ bs.zipIdx.map (fun e => (off + e.2, e.1)) } }

/-- Rank 0 of partition 0 is node 0x0005, and rank 1 is node 0x0006. -/
def ranked (d : Dev) : Dev :=
  { put d [(.FAB_RANKTAB_ENTRIES_M1, 1, 0)] with mem := { d.mem with hbm := [(0, 5), (2, 1), (4, 6), (6, 1)] } }

/-- A receive context of XID 5 of partition 0, for a command or early. -/
def xctx (cmd : Option Nat) (dir : Nat) : XCtx :=
  { serial := 4, part := 0, job := 7, dir := dir, xid := 5, cmd := cmd, since := 0, msgs := [], heads := [], rows := []
    failed := [], sent := [], tokens := 0 }

/-- A whole message of one billet from rank 0, in buffer 0 of pool 0. -/
def xmsg (index : Nat) : XMsg := ⟨0, index, 1, false, [0], some (0, 0), 0⟩

/-- FP32 vectors of 16 elements. -/
def xform : XForm := ⟨0, false, 16⟩

/-- Bytes in HBM from address 0 on, where buffer 0 of pool 0 lies. -/
def landed (d : Dev) (bs : List Byte) : Dev := { d with mem := { d.mem with hbm := writeBytes d.mem.hbm 0 bs } }

/-- An EXCHANGE (opcode 3) or COMBINE (4) of one member, its objects in the slab: empty tables, and token rows of one
format whose rows are 64 bytes. -/
def xcmd (op : Nat) : Cmd :=
  { cmd 6 op [(24, 1), (28, 4), (32, 2), (36, 8), (44, 1), (52, 4)] with
    inputs := [slabVer 1 64, ⟨0, 4, { tier := 2, size64 := 130, base := 16384, members := [0] }, 0⟩, slabVer 2 64]
    claims := [⟨⟨0, 8, { tier := 2, size64 := 130, base := 32768, members := [0] }, 0⟩, false, false⟩] }
def xdev (op : Nat) (x : XCtx) : Dev :=
  slabAt { withCmds [xcmd op] with xe := { ctxs := [x] } } (16384 + 8194) [16, 0, 64]

/-- A TC0 billet of XID 5. -/
def xbillet (src : Nat) : Arrival := got 36 (mkBillet { tc := 0, job := 7, tag := xeTag 0 5 1, src := src } [])

/-- ExchangeCommandsAct: shares left and all complete, for both opcodes; a billet held, late, of a new exchange and of a
message; a header and a vector that are accepted and ones that fail; CLEAR set and not. -/
theorem hyp_ExchangeCommandsAct : (∀ op ∈ [3, 4], let x := xctx (some 6) (op - 3)
      let d := xdev op x
      let c := xcmd op
      d.cmd? 6 = some c ∧ d.xeOf 6 = some x ∧ c.running ∧ c.ready = false ∧ x.sent.length < c.members ∧
      (rotated c).find? (fun r => !x.sent.contains r) = some 0 ∧ c.dir = op - 3) ∧
    (let x := { xctx (some 6) 1 with sent := [0], heads := [⟨0, 0, 0, [], xform⟩] }
     (xcmd 4).members ≤ x.sent.length ∧ (List.range (xcmd 4).members).all ((xdev 4 x).partDone (xcmd 4) x) ∧
     Op.succeeds (withCmds [xcmd 4]) (combineWrite (xcmd 4) x) = false) ∧
    (let d := withInbox (withCmds []) [xbillet 5]
     d.xe.held.find? (fun a => d.xeCanTake a.b) = none ∧ d.fab.inbox.find? (fun a => a.port == 36) = some (xbillet 5) ∧
     d.partOf (bJob (xbillet 5).b) = some 0 ∧ d.xeCanTake (xbillet 5).b ∧ d.xidClosed 0 0 5 = false ∧ d.xe? 0 0 5 = none ∧
     (d.setReg .XE_XID_CLOSED 0x20 0 0).xidClosed 0 0 5 ∧
     ({ d with xe := { ctxs := List.replicate 64 { xctx none 0 with part := 1 } } } : Dev).xeCanTake (xbillet 5).b = false) ∧
    (let d := withInbox { withCmds [] with xe := { held := [xbillet 5] } } []
     d.xe.held.find? (fun a => d.xeCanTake a.b) = some (xbillet 5)) ∧
    on.partOf (bJob (xbillet 5).b) = none ∧
    (0, 0, 5) ∉ on.xe.lates ∧ (0, 0, 5) ∈ ({ on with xe := { lates := [(0, 0, 5)] } } : Dev).xe.lates ∧
    (let m := { xmsg 1 with got := [] }
     let x := { xctx none 0 with msgs := [m] }
     let d := ranked (withInbox { withCmds [] with xe := { ctxs := [x] } } [xbillet 5])
     (isOk (d.lndStore (0, 0) 0 (bPayload (xbillet 5).b)) ∧ d.stalled = false ∧
      isOk (({ d with mem := { d.mem with frames := [0] } } : Dev).lndStore (0, 0) 0 (bPayload (xbillet 5).b)) = false) ∧
     (xctx none 0).msgs.find? (fun m => m.src == 0 && m.index == 1) = none ∧
     bits (bTag (xbillet 5).b) 14 9 = 5 ∧ d.xe? 0 0 5 = some x ∧ d.nodeRank 0 (bSrc (xbillet 5).b) = some 0 ∧
     x.msgs.find? (fun m => m.src == 0 && m.index == bits (bTag (xbillet 5).b) 0 14) = some m ∧ m.buf ≠ none ∧ m.got = []) := by
  decide +kernel

theorem hyp_ExchangeCommandsAct_vectors : (let h : XHdr := ⟨0, 0, 0, false, 16, 0, 0, 64, []⟩
      let m := xmsg 0
      let x := { xctx (some 6) 0 with msgs := [m] }
      let d := landed (xdev 3 x) h.bytes
      d.xe.ctxs.find? (fun x => x.serial == 4) = some x ∧ (xcmd 3).running ∧ m.complete ∧ m.buf ≠ none ∧
      x.msgs.find? (fun m => m.src == 0 && m.index == 0) = some m ∧ (xcmd 3).dir = 0 ∧ (xcmd 3).members = 1 ∧
      Op.succeeds d (takeHeader 4 0 { xcmd 3 with desc := line [(0, 3), (24, 1), (28, 4), (32, 2), (44, 1), (46, 1)] } m) ∧
      Op.succeeds (landed (xdev 3 x) { h with width := 32 }.bytes) (takeHeader 4 0 (xcmd 3) m) = false) ∧
    (let m := xmsg 1
     let h : XHead := ⟨0, 1, 1, [], xform⟩
     let x := { xctx (some 6) 0 with msgs := [m], heads := [h] }
     let d := xdev 3 x
     x.msgs.find? (fun m => m.src == 0 && m.index == 1) = some m ∧ x.heads.find? (fun h => h.src == 0) = some h ∧ m.complete ∧
     1 ≤ h.nData ∧ Op.succeeds d (takeVector 4 0 1 (xcmd 3) m h) ∧
     Op.succeeds d (takeVector 4 0 1 (xcmd 3) { m with got := [], total := 2 } h) ∧
     Op.succeeds d (takeVector 4 0 1 (xcmd 3) { m with compressed := true } h) = false) ∧
    on.accepts .owner .XE_XID_CTRL 15 ∧ bit (1535#32).toNat 10 ∧ bit (511#32).toNat 10 = false := by decide +kernel

/-- R108: a vector that waits for no header goes to OUT0 at once. -/
theorem test_vectorWrite : (let h : XHead := ⟨0, 1, 1, [], xform⟩
    let x := { xctx (some 6) 0 with msgs := [xmsg 1], heads := [h] }
    ((after (.vectorWrite 4 0 1) (landed (xdev 3 x) [1])).xe.ctxs.map (fun x => x.rows.map (fun y => y.2.2.take 1)))) = [[[1]]] := by
  decide +kernel

theorem hyp_ExchangeCommandsAct_combine : (let x := { xctx (some 6) 1 with sent := [0], heads := [⟨0, 0, 0, [], xform⟩] }
    (xcmd 3).dir = 0 ∧ Op.succeeds (xdev 3 { x with dir := 0 }) (receivePlan { xcmd 3 with claims := [] } { x with dir := 0 }) = false ∧
    Op.succeeds (xdev 4 x) (combineWrite { xcmd 4 with desc := line [(0, 4), (24, 1), (28, 2), (36, 8), (44, 1), (52, 4)] } x)) := by
  decide +kernel

/-! ## Copies, placements and model swap -/

/-- A COPY of a mode between slab objects 1 and 2. -/
def copyCmd (mode : Nat) : Cmd :=
  { cmd 3 7 [(24, 1), (36, 2), (44, mode), (48, 1)] with inputs := [slabVer 1 2], claims := [⟨slabVer 2 2, false, false⟩] }

/-- A stream's COPY: its mask in IN1. -/
def streamCmd (mode : Nat) : Cmd :=
  { cmd 3 7 [(24, 1), (28, 2), (44, mode), (48, 1)] with inputs := [slabVer 1 2, slabVer 2 2] }

/-- A program image of one entry. -/
def program : List Byte := padTo 128 (leBytes 2 1 ++ leBytes 2 1 ++ List.replicate 60 0 ++ leBytes 4 1)

/-- CopiesAndPlacementsRun: each mode of COPY that succeeds and one that fails; streams; a LOAD_PROGRAM's image with and
without a good header, whose object must wait and not; a PLACE without MOVE. -/
theorem hyp_CopiesAndPlacementsRun : (let c := copyCmd 0
      let d := withCmds [c]
      d.cmd? 3 = some c ∧ c.running ∧ c.ready = false ∧ c.opcode = 7 ∧ c.mode = 0 ∧ Op.succeeds d (copyObject 3 c) ∧
      Op.succeeds d (copyObject 3 { c with inputs := [slabVer 1 3] }) = false) ∧
    (let c := copyCmd 1
     let d := withCmds [c]
     c.mode = 1 ∧ d.canWriteHost ∧ d.stalled = false ∧ (List.replicate 128 (0 : Byte)).length = c.copyNeeds ∧
     Op.succeeds (d.emitRead c.copyHost 128) (copyIn 3 c (List.replicate 128 0)) ∧
     Op.succeeds (d.emitRead c.copyHost 128) (copyIn 3 { c with claims := [] } (List.replicate 128 0)) = false ∧
     (copyCmd 2).mode = 2 ∧ Op.succeeds (withCmds [copyCmd 2]) (copyOut 3 (copyCmd 2)) ∧
     Op.succeeds (withCmds [copyCmd 2]) (copyOut 3 { copyCmd 2 with inputs := [] }) = false) ∧
    (let c := streamCmd 3
     let d := withCmds [c]
     c.mode = 3 ∧ c.passed = [] ∧ (List.replicate 64 (0 : Byte)).length = c.streamBytes ∧
     Op.succeeds (d.emitRead c.copyHost 64) (streamOut 3 c (List.replicate 64 0)) ∧ (streamCmd 4).mode = 4 ∧
     Op.succeeds (d.emitRead c.copyHost 64) (streamOut 3 { c with inputs := [] } (List.replicate 64 0)) = false ∧
     Op.succeeds d (streamOut 3 (streamCmd 4) []) ∧ Op.succeeds d (streamOut 3 { streamCmd 4 with inputs := [] } []) = false ∧
     (let c := { c with passed := [0] }; 3 ≤ c.mode ∧ 0 ∈ c.passed ∧ (withCmds [c]).accepted 3 0)) ∧
    (let c := cmd 3 10 [(52, 2)]
     let d := put (withCmds [c]) [(.TIER_OBJTAB_SIZE_LOG2, 4, 0)]
     c.opcode = 10 ∧ program.length = c.loadBytes ∧ imageEntries program = some [(1, 0)] ∧
     imageEntries (program.set 0 2) = none ∧ d.loadWaits 3 0 1 = false ∧
     ({ d with mem := { d.mem with hbm := [(32, 0x42)] } } : Dev).loadWaits 3 0 1) ∧
    (cmd 3 8 []).opcode = 8 ∧ (cmd 3 8 []).placeMove = false := by decide +kernel

/-- A load list entry for object 5, 64 bytes at the start of stream 2, whose digest is that of 64 zero bytes. -/
def swapEntry : SwapEntry := ⟨5, 2, 0, BitVec.ofNat 512 (leNat (sha512 (List.replicate 64 0))), slabVer 5 1, false⟩

/-- Context 1 with that entry, for the SWAP with number 3. -/
def swapCtx : SwapCtx := ⟨1, 3, 7, 0, [swapEntry], true, [], []⟩
def swapDev (x : SwapCtx) (l : List Arrival) : Dev := withInbox { withCmds [cmd 3 9 [(36, 9)]] with swaps := [x] } l

/-- A weight billet: its segment, SEQ and TOTAL. -/
def weight (seg seq total : Nat) : Arrival :=
  got 42 (mkBillet { tc := 5, job := 7, tag := 2 * 65536 + seg, seq := seq, total := total, mask := some 1 } [])

/-- SwapBuilds: a good list and one whose entry names the model; an orphan billet, a duplicate, the last of a segment and one
before the last; an object with the right digest and with another. -/
theorem hyp_SwapBuilds : (let x := { swapCtx with open_ := false }
      let d := swapDev x []
      d.cmd? 3 = some (cmd 3 9 [(36, 9)]) ∧ (cmd 3 9 []).running ∧ d.swaps.find? (fun x => x.id == 3) = some x ∧ d.swap? 1 = some x ∧
      x.badEntry ((cmd 3 9 [(36, 9)]).outp 0) (d.swaps.filter (fun y => y.id != 3)) = none ∧ x.badEntry 5 [] = some 0) ∧
    swapEntry.stream = 2 ∧ swapEntry.offset ≤ 0 ∧ 0 < swapEntry.offset + swapEntry.range.2 ∧
    ¬(swapEntry.offset ≤ 64 * 1 ∧ 64 * 1 < swapEntry.offset + swapEntry.range.2) ∧ (swapDev swapCtx []).stalled = false ∧
    (∀ a ∈ [weight 7 0 1, weight 0 0 1, weight 0 0 2], let d := swapDev swapCtx [a]
      d.fab.inbox.find? (fun a => a.port == 42 && d.weightReady a.b) = some a) ∧
    (swapDev swapCtx []).swapFor (weight 7 0 1).b = none ∧ (swapDev swapCtx []).swapFor (weight 0 0 1).b = some swapCtx ∧
    bTotal (weight 0 0 1).b = 1 ∧ bTotal (weight 0 0 2).b = 2 ∧
    (wStream (weight 0 0 1).b, wSeg (weight 0 0 1).b) = (2, 0) ∧ ({ swapCtx with full := [(2, 0)] } : SwapCtx).full.contains (2, 0) ∧
    (let x := { swapCtx with full := [(2, 0)] }
     let d := swapDev x []
     d.swap? 1 = some x ∧ x.entries[0]? = some swapEntry ∧ swapEntry.verified = false ∧ x.arrived swapEntry ∧
     Op.succeeds d (verifyEntry 1 0 swapEntry) ∧ Op.succeeds d (verifyEntry 1 0 { swapEntry with digest := 0 }) = false) := by
  decide +kernel

/-- Table 11.1: the last billet completes its segment. -/
theorem test_weightBillet : (after .weightBillet (swapDev swapCtx [weight 0 0 1])).swaps.map SwapCtx.full = [[(2, 0)]] := by
  decide +kernel

/-! ## The memory tiers -/

/-- An address that does not translate. -/
def isXlat : MemErr → Bool
  | .xlat _ _ _ _ => true
  | _ => false

/-- A command of partition 0 that accesses memory. -/
def access : Dev := withCmds [cmd 3 6 []]

/-- FailedAccessesReported: an address with no page table, one in the translation cache; the last line of HBM and the first
address beyond; a slab word. -/
theorem hyp_FailedAccessesReported : access.stalled = false ∧ access.cmd? 3 = some (cmd 3 6 []) ∧ (cmd 3 6 []).running ∧
    (errOf (access.translate 0 0xFFFFFFFF0000 true).2).any isXlat ∧
    okOf (({ access with mem := { access.mem with xu := [⟨0, 1, 2, true⟩] } } : Dev).translate 0 65536 true).2 = some 131072 ∧
    access.alive (some 3) ∧ access.physCheck (hbmEnd - 64) 64 = none ∧ (hbmEnd - 1) / 64 * 64 = hbmEnd - 64 ∧ hbmEnd < 2 ^ 40 ∧
    access.arrRetired 151 = false := by decide +kernel

/-- Pool 2 of 4 buffers, all free. -/
def pooled : Dev := put access [(.TIER_LND_POOL_COUNT_M1, 3, 2), (.TIER_LND_FREE_FREE, 4, 2)]

/-- LandingPools: a grant, a quota used up and an empty pool; a buffer whose user has ended, retired and not, and one in use;
pools while partitions are valid and not; reservations within the pool and one beyond. -/
theorem hyp_LandingPools : pooled.stalled = false ∧ pooled.cmd? 3 = some (cmd 3 6 []) ∧ (cmd 3 6 []).part = 0 ∧
    okOf (pooled.lndRule 0 2) = some 0 ∧
    errOf ((put pooled [(.TIER_LND_FREE_FREE, 0, 2)]).lndRule 0 2) = some .poolEmpty ∧
    (∀ r ∈ [false, true], let b : LndBuf := ⟨2, 1, 0, .command 9, r⟩
      let d := { pooled with lnd := { held := [b] } }
      d.lnd.held.find? (fun b => b.pool == 2 && b.idx == 1) = some b ∧ d.lndDone b) ∧
    (let b : LndBuf := ⟨2, 1, 0, .reserve 0, false⟩; pooled.lndDone b = false) ∧
    on.accepts .owner .TIER_LND_POOL 7 ∧ on.anyValid = false ∧ pooled.anyValid ∧ pooled.accepts .owner .TIER_LND_PART 15 ∧
    (let others := sumNat (((List.range 16).filter (· ≠ 15)).map (fun q => pooled.f .TIER_LND_PART_RESV q 2))
     others + 4 ≤ pooled.lndCount 2 ∧ pooled.lndCount 2 < others + 5) := by decide +kernel

/-- R231: the lowest free buffer is granted. -/
theorem test_landingAlloc : (after (.landingAlloc 0 2 3) { pooled with lnd := { held := [⟨2, 0, 0, .reserve 0, false⟩] } }).lnd.held.map
    LndBuf.idx = [0, 1] := by decide +kernel

/-- A ready command with a delta of one element for object 5. -/
def folding : Cmd :=
  { cmd 3 1 [] with ready := true, deltas := [⟨5, 1, 1, [(5, 0)], false⟩], claims := [⟨slabVer 5 64, true, false⟩] }

/-- ObjectTablesAndFolds: a table to clear, of a partition with and without a job; a clear under way; a delta to fold. -/
theorem hyp_ObjectTablesAndFolds : on.accepts .owner .TIER_OBJTAB 15 ∧ on.valid 15 = false ∧ bit (2 ^ 45) 45 ∧ armed.valid 0 ∧
    (let d := { on with mem := { on.mem with clearing := [(3, 4096, 64)] } }
     d.mem.clearing.find? (fun c => c.1 == 3) = some (3, 4096, 64) ∧ 4096 / 65536 ∉ d.mem.frames) ∧
    (let d := withCmds [folding]
     d.cmd? 3 = some folding ∧ folding.running ∧ folding.ready ∧
     folding.deltas.find? (fun x => x.obj == 5 && !x.folded) = some ⟨5, 1, 1, [(5, 0)], false⟩ ∧
     d.foldBlocked folding 5 = false ∧ Op.succeeds d (foldDelta folding ⟨5, 1, 1, [(5, 0)], false⟩) ∧
     Op.succeeds d (foldDelta { folding with claims := [] } ⟨5, 1, 1, [(5, 0)], false⟩) = false ∧ d.stalled = false) := by decide +kernel

/-! ## The links and the Switch Core -/

/-- Link 0 in a state, from slot 0 of the tray to slot 1. -/
def linked (state : Nat) : Dev := put on [(.FAB_LINK_STATUS_STATE, state, 0), (.FAB_LINK_STATUS_LANES, 15, 0)]

/-- The far end's DISCOVERY billet for link 0: its node, link and echo. -/
def disc (node link : Nat) (echo : Bool) : DiscIn :=
  ⟨0, mkBillet { type := 2, tc := 4, job := 0, src := node }
    (leBytes 2 node ++ leBytes 1 link ++ leBytes 1 (b2n echo * 128) ++ leBytes 8 0 ++ leBytes 8 10), 50⟩

/-- LinksTrainAndFail: links DOWN and MISWIRED; lanes enough and too few; an echo, a wired far end and another; a link in each
state that LINK_DOWN tells apart. -/
theorem hyp_LinksTrainAndFail : (∀ n ∈ [0, 4], (linked n).linkState 0 = n ∧ (linked n).linkHeld 0 = false) ∧ 5 ≤ (linked 0).stage ∧
    (linked 0).boot.cold = false ∧ (linked 0).boot.halted = false ∧ (linked 0).flag .DEV_STATUS_WARM_BUSY = false ∧
    (atStage 4).stage < 5 ∧ (put on [(.DEV_STATUS_WARM_BUSY, 1, 0)]).flag .DEV_STATUS_WARM_BUSY ∧ on.linkHeld 35 ∧
    (linked 1).linkState 0 = 1 ∧ 2 ≤ popCount (Nat.land 3 (15 - (linked 1).f .FAB_LINK_STATUS_RETIRED 0)) 4 ∧
    popCount (Nat.land 8 (15 - (linked 1).f .FAB_LINK_STATUS_RETIRED 0)) 4 < 2 ∧
    (let d := { linked 2 with fab := { (linked 2).fab with disc := [disc 1 0 false] } }
     d.fab.disc = disc 1 0 false :: [] ∧ d.linkState 0 = 2 ∧ bPay (disc 1 0 false).b 0 0 16 = d.linkPeer 0 ∧
     d.wiredTo 0 (bPay (disc 1 0 false).b 2 0 8) (bPay (disc 1 0 false).b 3 0 3) ∧
     bPay (disc 2 0 false).b 0 0 16 ≠ d.linkPeer 0 ∧ bPay (disc 1 0 true).b 3 7 1 = 1) ∧
    (∀ n ∈ [1, 2, 3, 4, 5], (linked n).linkState 0 = n) := by decide +kernel

/-- R248: the far end of a MISWIRED link retrains, and a link in training fails its CRC. -/
theorem test_linkDown_training : ((after (.linkDown 0 4) (linked 4)).linkState 0, (after (.linkDown 0 2) (linked 1)).linkState 0,
    (after (.linkDown 0 2) (linked 1)).f .FAB_LINK_STATUS_CAUSE 0) = (1, 0, 2) := by decide +kernel

/-- R245: the far end that R243 requires is matched, another is MISWIRED. -/
theorem test_discovery : (let e := fun b => after (.discovery 60) { linked 2 with fab := { (linked 2).fab with disc := [b] } }
    ((e (disc 1 0 false)).fab.matched, (e (disc 2 0 false)).linkState 0, (after (.discovery 60)
      { e (disc 1 0 false) with fab := { (e (disc 1 0 false)).fab with disc := [disc 1 0 true] } }).linkState 0)) = ([0], 4, 3) := by
  decide +kernel

/-- A TC0 billet of job 7 for this device. -/
def inbound : Billet := mkBillet { tc := 0, job := 7, tag := xeTag 0 5 1, dest := 0, src := 1 } [1]

/-- SwitchCoreMovesBillets: an idle billet, one with a bad CRC, a malformed one and one that is stored; an output with a billet
for an engine and one for a link; a control word with and without its CRC; deliveries to a job, to none, and a malformed one. -/
theorem hyp_SwitchCoreMovesBillets : (linked 3).linkState 0 = 3 ∧ (inbound ^^^ 1) ≠ 0 ∧
    bits (inbound ^^^ 1).toNat 160 32 ≠ bCrc (inbound ^^^ 1) ∧ bits inbound.toNat 160 32 = bCrc inbound ∧
    (let b := mkBillet { tc := 7, job := 7 } []
     bits b.toNat 160 32 = bCrc b ∧ (linked 3).malformed b) ∧
    ((linked 2).linkState 0 = 2 ∧ (linked 1).linkState 0 ≠ 2 ∧ (linked 1).linkState 0 ≠ 3 ∧ (linked 2).malformed (disc 1 0 false).b = false ∧
      bType (disc 1 0 false).b = 2 ∧ bits (disc 1 0 false).b.toNat 160 32 = bCrc (disc 1 0 false).b) ∧
    bType inbound ≠ 2 ∧ (linked 3).malformed inbound = false ∧ (linked 3).place? 0 0 0 = some false ∧
    ((linked 3).route 0 inbound).filterMap (fun x => x) ≠ [] ∧
    (let d := after (.billetReceive 0 inbound 0 0) (linked 3)
     d.fab.inject = [] ∧ d.arbHeld 0x6024 = false ∧ ((d.beginCycle 36).pickOutput 36).2.isSome) ∧
    (let d := after (.billetReceive 0 (setHdr inbound 88 16 1) 0 0) (linked 3)
     d.fab.inject = [] ∧ ((d.beginCycle 0).pickOutput 0).2.isSome ∧ SMap.get 0 d.fab.blk 0 + 1 = 1 ∧
     (let e := after (.switchCapture true 0) (put d [(.SEC_DBG_CFG_OPEN, 1, 0), (.SEC_DBG_CFG_ALLOW, 1, 0)])
      e.arbHeld 0x6000 ∧ 0 ∈ e.arb.capture ∧ ((e.beginCycle 0).pickOutput 0).2.isSome ∧
      (after (.emergencyGrant 0x6000 true) (put d [(.SEC_DBG_CFG_OPEN, 1, 0), (.SEC_DBG_CFG_ALLOW, 1, 0)])).arb.capture = [])) ∧
    (((linked 3).beginCycle 0).pickOutput 0).2 = none ∧
    ({ linked 3 with fab := { (linked 3).fab with blk := [(0, 10)] } } : Dev).linkUp 0 ∧
    (linked 3).linkUp 0 ∧ (let w := 0x30 + crc8 0x30 * 2 ^ 56
      bits w 56 8 = crc8 w ∧ bits (w + 2 ^ 56) 56 8 ≠ crc8 (w + 2 ^ 56)) ∧ bits 0x3E 0 4 = 14 ∧
    (let a := got 36 inbound
     let d := { withCmds [] with fab := { arrivals := [a] } }
     d.stalled = false ∧
     d.fab.arrivals.find? (fun a => a.port == 36) = some a ∧ badControl a.b = false ∧ d.partOf (bJob a.b) = some 0 ∧
     on.partOf (bJob a.b) = none ∧ bJob a.b ≠ 0 ∧
     badControl (mkBillet { type := 1, tc := 4, job := 7 } (leBytes 2 9))) := by decide +kernel

/-- R246, R247: the eleventh slot, idle too, ends a block, and the first control word is of SEL 0. -/
theorem test_switchOutputGrant_block : (after (.switchOutputGrant ⟨0, 0⟩)
    { linked 3 with fab := { (linked 3).fab with blk := [(0, 10)] } }).out = [.controlWord 0 (BitVec.ofNat 64 (ctrlWord 0 0))] := by
  decide +kernel

/-! ## The tray memory window -/

/-- Ring 2 of partition 0 and job 7, enabled, with one entry. -/
def windowed : Dev := put (withCmds []) [(.WIN_RING_CTRL_ENABLE, 1, 2), (.WIN_RING_CFG_SIZE_LOG2, 4, 2), (.WIN_RING_CFG_JOB, 7, 2),
  (.WIN_RING_TAIL_TAIL, 1, 2)]

/-- A LOAD of one line of window 3 at slot 1 of the tray. -/
def loadEntry1 : Line := line [(1, 1), (2, 3), (3, 1)]

/-- An entry in progress whose one line awaits slot 9. -/
def waiting : WinEntry := ⟨2, 7, 0, loadEntry1, 64, 5, [⟨some 9, none, []⟩]⟩

/-- A response for a slot and generation. -/
def response (kind gen slot : Nat) : Arrival := got 41 (mkBillet { tc := 3, job := 7, tag := winTag kind gen slot } [])

/-- WindowRequester: a bad entry and a good one; responses with data, with a status, and late; a complete entry; an ABORT. -/
theorem hyp_WindowRequester : windowed.ready ∧ windowed.link.up ∧ windowed.flag .WIN_RING_CTRL_ENABLE 2 ∧
    windowed.f .WIN_RING_HEAD_HEAD 2 ≠ windowed.f .WIN_RING_TAIL_TAIL 2 ∧ ({ waiting with entry := line [(0, 3)] } : WinEntry).op = 3 ∧
    waiting.bad = false ∧ waiting.op < 2 ∧ waiting.cached = false ∧ waiting.ordered = false ∧ windowed.winFree 0 = some [] ∧
    (windowed.winFree waiting.count).isSome ∧ windowed.stalled = false ∧
    (let w := { waiting with entry := line [(0, 1), (1, 1), (2, 3), (3, 1)] }
     w.bad = false ∧ w.op = 1 ∧ (List.replicate 64 (0 : Byte)).length = 64 * w.count) ∧
    (∀ l ∈ [[], [(1, 65)], [(1, 1), (8, 1)], [(1, 1), (24, 1)], [(0, 2), (1, 1), (16, 1)]], ({ waiting with entry := line l } : WinEntry).bad) ∧
    (∀ a ∈ [response 2 0 9, response 3 0 9, response 2 1 9], let d := { withInbox windowed [a] with win := { entries := [waiting] } }
      d.fab.inbox.find? (fun a => a.port == 41 && bTc a.b == 3) = some a ∧ d.winGen 9 = 0) ∧
    bits (bTag (response 2 1 9).b) 16 6 = 1 ∧ bits (bTag (response 2 0 9).b) 22 2 = 2 ∧ bits (bTag (response 3 0 9).b) 22 2 ≠ 2 ∧
    (({ windowed with win := { entries := [waiting] } } : Dev).winLine? 9) = some (waiting, 0) ∧
    (let w := { waiting with lines := [⟨none, none, []⟩] }
     [w].find? (fun w => w.ring == 2 && w.complete) = some w) ∧ windowed.accepts .owner .WIN_RING_CTRL 2 ∧ (2#32).getLsbD 0 = false := by
  decide +kernel

/-- R272: an uncached LOAD takes slot 0 and sends one request. -/
theorem test_winEntryFetch : (let e := after (.winEntryFetch 2 loadEntry1 [] []) windowed
    (e.f .WIN_RING_HEAD_HEAD 2, e.win.entries.map (fun w => w.lines.map WinLine.slot))) = (1, [[some 0]]) := by decide +kernel

/-- Window 3 covers 64 lines of job 7 from address 65,536 on, readable and writable from tray slot 1. -/
def owned (l : List Arrival) : Dev :=
  let d := withInbox (withCmds []) l
  { d with win := { table := [(3, 7 + 7 * 2 ^ 16 + 65536 * 2 ^ 64 + 64 * 2 ^ 128 + 2 ^ 9)] }
           mem := { d.mem with xu := [⟨0, 1, 2, true⟩] } }

/-- A request of the line at an offset of window 3, from tray slot 1: the parts of its message. -/
def request (kind off : Nat) : Arrival :=
  got 41 (mkBillet { tc := 2, job := 7, tag := winTag kind 0 4, total := kind + 1, dest := 0, src := 1 } (leBytes 8 3 ++ leBytes 8 off))
def stored : Arrival :=
  got 41 (mkBillet { tc := 2, job := 7, tag := winTag 1 0 4, seq := 1, total := 2, dest := 0, src := 1 } [0xAA])

/-- WindowOwner: a LOAD served and one that does not translate, one whose job is gone; a STORE served and one refused. -/
theorem hyp_WindowOwner : (owned []).stalled = false ∧ (∀ o ∈ [0, 64], let a := request 0 o
      let d := owned [a]
      d.fab.inbox.find? d.winWhole = some a ∧ bits (bTag a.b) 22 2 = 0 ∧ d.partOf (bJob a.b) = some 0) ∧
    isOk ((owned []).winServe 0 7 1 3 0 none).2 ∧
    errOf (({ owned [] with mem := (on : Dev).mem } : Dev).winServe 0 7 1 3 0 none).2 = some .faultXlat ∧
    (withInbox on [request 0 0]).partOf 7 = none ∧ bits (bTag (request 2 0).b) 22 2 = 2 ∧
    (owned [request 2 0]).fab.inbox.find? (owned [request 2 0]).winWhole = some (request 2 0) ∧
    (let a := request 1 0
     let d := owned [a, stored]
     d.fab.inbox.find? d.winWhole = some a ∧ bits (bTag a.b) 22 2 = 1 ∧
     (d.fab.inbox.erase a).find? (winMate a.b) = some stored ∧
     isOk ((owned []).winServe 0 7 1 3 0 (some (bPayload stored.b))).2) ∧
    errOf ((owned []).winServe 0 7 2 3 0 (some [])).2 = some .faultProt := by decide +kernel

/-! ## Collectives and remote adds -/

/-- The context of CID 6 of partition 0, for the COLLECTIVE with number 3. -/
def collCtx : CollCtx :=
  { serial := 2, part := 0, job := 7, cid := 6, cmd := some 3, since := 0, peers := [⟨1, 1, 1, 1⟩], msgs := []
    chunks := [⟨0, 0, 0, [], [], none⟩], credits := [], closes := [], rounds := 0, suspect := false, notices := [], failed := []
    out := [], written := false }

/-- An ALL_REDUCE of two members and 16 elements, its input and output in the slab. -/
def collCmd : Cmd :=
  { cmd 3 5 [(24, 1), (36, 2), (45, 6), (47, 1), (56, 16)] with inputs := [slabVer 1 1], claims := [⟨slabVer 2 1, false, false⟩] }
def collDev (x : CollCtx) (l : List Arrival) : Dev := withInbox { withCmds [collCmd] with coll := { ctxs := [x] } } l

/-- A TC1 billet of CID 6 from node 1, for the CE of the CID. -/
def collBillet (kind stage : Nat) : Arrival := got 39 (mkBillet { tc := 1, job := 7, tag := collTag kind stage 6 0, src := 1 } [1])

/-- A SUSPECT notice of CID 6. -/
def notice : Arrival := got 39 (mkBillet { type := 1, tc := 1, job := 7, tag := 6 * 2 ^ 11 } (leBytes 2 3 ++ leBytes 1 6 ++ [1]))

/-- CollectivesRun: a member done with its chunk and its close round; a step that can be done, and fails without an input;
billets of every KIND, for an open, an absent and a closed CID; CLEAR set and not. -/
theorem hyp_CollectivesRun : (let x := { collCtx with written := true, rounds := 1, closes := [(1, 1, true)], chunks := [⟨0, 3, 3, [], [], none⟩] }
      let d := collDev x []
      d.cmd? 3 = some collCmd ∧ collCmd.running ∧ d.collOf 3 = some x ∧ collCmd.opcode = 5 ∧ collCmd.ready = false ∧
      x.rounds = collCmd.closeStages.length ∧ collCmd.closeStages.getLast? = some 1 ∧ x.roundDone 1 ∧
      (∀ k ∈ x.chunks, k.done = collCmd.cSteps.length ∧ k.freed = k.done ∧ collCmd.toSend x k = [])) ∧
    (let d := collDev collCtx []
     d.stalled = false ∧ collCtx.chunks.find? (fun y => y.chunk == 0) = some ⟨0, 0, 0, [], [], none⟩ ∧
     collCtx.canStep collCmd 0 ⟨0, 0, 0, [], [], none⟩ ∧ Op.succeeds d (collStep collCmd collCtx ⟨0, 0, 0, [], [], none⟩ 0 none) ∧
     Op.succeeds { d with mem := { d.mem with slabBad := [slabKey 0 4096] } }
       (collStep collCmd collCtx ⟨0, 0, 0, [], [], none⟩ 0 none) = false) ∧
    (∀ k ∈ [6, 7], let a := collBillet k 1
      (collDev collCtx [a]).fab.inbox.find? (fun a => a.port == 37 + 2 && bType a.b != 1 && decide (6 ≤ bKind a.b)) = some a) ∧
    (∀ k ∈ [0, 1], let a := collBillet k 1
      let d := collDev collCtx [a]
      d.fab.inbox.find? (fun a => a.port == 37 + 2 && bType a.b != 1 && decide (6 ≤ bKind a.b)) = none ∧
      d.fab.inbox.find? (fun a => a.port == 37 + 2 && (bType a.b != 1 && decide (bKind a.b ≤ 1))) = some a ∧
      bCid a.b = 6 ∧ d.coll.held = [] ∧ d.partOf (bJob a.b) = some 0 ∧ d.collCanTake a.b ∧
      d.cidClosed 0 6 = false ∧ d.coll? 0 6 = some collCtx ∧ (d.setReg .COLL_CID_CLOSED 64 0 0).cidClosed 0 6 ∧
      (withInbox (withCmds []) [a]).coll? 0 6 = none ∧
      ({ d with coll := { ctxs := List.replicate 256 { collCtx with part := 1 } } } : Dev).collCanTake a.b = false) ∧
    (∀ k ∈ [2, 3], let a := collBillet k 1
      (collDev collCtx [a]).fab.inbox.find? (fun a => a.port == 37 + 2 && (bType a.b != 1 && bKind a.b == k)) = some a) ∧
    (let m : CMsg := ⟨false, 1, 0, 1, 2, [], none⟩
     [m].find? (fun m => m.down == (bKind (collBillet 0 1).b == 1) && m.stage == bStage (collBillet 0 1).b &&
       m.chunk == bChunk (collBillet 0 1).b && m.src == bSrc (collBillet 0 1).b) = some m ∧ m.got = [] ∧
     isOk ((collDev collCtx []).lndStore (0, 0) 0 (bPayload (collBillet 0 1).b))) ∧
    (collDev collCtx [notice]).fab.inbox.find? (fun a => a.port == 37 + 2 && bType a.b == 1) = some notice ∧
    (collDev collCtx []).cidClosed 0 6 = false ∧ bPay notice.b 2 0 8 = 6 ∧ (collDev collCtx []).coll? 0 5 = none ∧
    on.accepts .owner .COLL_CID_CTRL 15 ∧ Fld.COLL_CID_CTRL_CLEAR.of (Fld.COLL_CID_CTRL_CLEAR.put 0 1) = 1 := by decide +kernel

/-- CollectivesRun, the checks: significands that an addition aligns, and faults that are and are not multiples of 7. -/
theorem hyp_CollectivesRun_residue : (alignedSigs (flush32 false 0x3F800000#32) (flush32 false 0x40000000#32)).isSome ∧
    (∀ e ∈ [(7 : Int), 8], ((satChecked (some (.sum e)) 1#32 1#32).2.2 = true ↔ e = 8)) ∧
    (addChecked false (some (.sum 14)) 0x3F800000#32 0x40000000#32).2.2 = false := by decide +kernel

/-- R290: INT32 sums are held at the nearer limit, and MAX takes +0 above -0. -/
theorem test_collective_arithmetic : addSat 0x7FFFFFFF#32 1#32 = (0x7FFFFFFF#32, true) ∧
    addSat 0x80000000#32 0xFFFFFFFF#32 = (0x80000000#32, true) ∧ fmax32 0x80000000#32 0#32 = 0#32 := by decide +kernel

/-- An ADD_MSG of one INT32 element to rank 1, holding slot 4. -/
def addCmd : Cmd := { cmd 3 6 [(24, 1), (44, 1), (46, 2)] with inputs := [slabVer 1 1] }
def adding (sent : Bool) (l : List Arrival) : Dev :=
  ranked (withInbox { withCmds [addCmd] with coll := { adds := [⟨4, 3, 0, sent⟩] } } l)

/-- An ACK for a slot's generation with a status. -/
def ackFor (gen st : Nat) : Arrival := got 37 (mkBillet { tc := 1, job := 7, tag := 5 * 2 ^ 21 + gen * 2 ^ 8 + 4 } [BitVec.ofNat 8 st])

/-- An ADD of 5 to address 65,536 in two billets, said to be of rank 1, from a node. -/
def addBillet (seq src : Nat) (bs : List Byte) : Arrival :=
  got 37 (mkBillet { tc := 1, job := 7, tag := 4 * 2 ^ 21 + 4, seq := seq, total := 2, src := src } bs)
def addFrom (src : Nat) : Dev :=
  let head := leBytes 2 1 ++ leBytes 2 2 ++ leBytes 4 0 ++ leBytes 8 77 ++ leBytes 8 65536
  let d := adding true [addBillet 0 src head, addBillet 1 src (leBytes 4 5)]
  { d with mem := { d.mem with xu := [⟨0, 1, 2, true⟩] } }

/-- RemoteAdds: a message to send that succeeds and one that fails; an ACK with OK, with a failure and of another
generation; an ADD of the named node, of another, and a duplicate. -/
theorem hyp_RemoteAdds : (let d := adding false []
      d.cmd? 3 = some addCmd ∧ d.coll.adds.find? (fun a => a.id == 3) = some ⟨4, 3, 0, false⟩ ∧ addCmd.running ∧ addCmd.opcode = 6 ∧
      d.stalled = false ∧ Op.succeeds d (sendAdd addCmd 4 (d.addGen 4)) ∧
      Op.succeeds { d with mem := (on : Dev).mem } (sendAdd addCmd 4 (d.addGen 4)) = false) ∧
    (∀ a ∈ [ackFor 0 0, ackFor 0 5, ackFor 1 0], let d := adding true [a]
      d.fab.inbox.find? (fun a => a.port == 37 + 0 && bType a.b != 1 && bKind a.b == 5) = some a ∧
      d.coll.adds.find? (fun x => x.slot == bits (bTag a.b) 0 8 && x.sent) = some ⟨4, 3, 0, true⟩) ∧
    bits (bTag (ackFor 1 0).b) 8 8 ≠ (adding true []).addGen 4 ∧ bits (bTag (ackFor 0 0).b) 8 8 = (adding true []).addGen 4 ∧
    (∀ src ∈ [5, 6], let d := addFrom src
      let e := d.addIntake 0
      (e.coll.addIn.find? (fun a => a.port == 37 + 0 && (e.addBillets 0 a.b).length == bTotal a.b)).isSome ∧ d.partOf 7 = some 0 ∧
      okOf (e.rankNames 0 1 src) = some (src == 6)) ∧
    (let e := (adding true [addBillet 0 6 []]).addIntake 0
     e.coll.addIn.find? (fun a => a.port == 37 + 0 && (e.addBillets 0 a.b).length == bTotal a.b) = none) ∧
    (let d := addFrom 6
     let m : AddMsg := ⟨0, 1, 6, 2, 1, 77, 65536, leBytes 4 5⟩
     (d.applyAdd m none).2 = (.ok, false) ∧
     (let e := put d [(.COLL_DEDUP_ENTRIES, 2, 0), (.COLL_DEDUP_BASE, 64, 0)]
      let e := (e.applyAdd m none).1
      okOf (e.dedup 0 1 77) = some .duplicate)) := by decide +kernel

/-- R306: the element is added in memory. -/
theorem test_add : SMap.get 0 (after (.add ⟨0, none⟩) (addFrom 6)).mem.hbm 131072 = 5 := by decide +kernel

/-! ## Isolation and the queue -/

/-- WorkStaysInItsJob: the commands it names run: here a PLACE of job 7. -/
theorem hyp_WorkStaysInItsJob : ∃ t, exec (.place 3) (st (withCmds [cmd 3 8 []])) = .next t ∧
    Instr.place 3 ∈ [Instr.place 3] := ⟨_, rfl, by decide⟩

/-- ExecKeepsQueue: a command with two others waiting behind it. -/
theorem hyp_ExecKeepsQueue : ∃ t, exec .ringRefEdge ⟨on, [.ringRefEdge, .weightBillet]⟩ = .next t ∧
    t.pending = [.ringRefEdge, .weightBillet] := ⟨_, rfl, rfl⟩

end Sys2Proof.Tests
end

section
/-! PROOFS. Offsets of control space that no register occupies (R12). -/

namespace Sys2Proof.Machine

/-! ## The settling of the output balls -/

/-- The balls settle and nothing else does. -/
theorem Dev.same_settle (d : Dev) : d.same d.settle := rfl

/-! ## 32-bit accesses of control space -/

/-- CS_WRITE has its own meaning. -/
theorem exec_csWrite (s : State) (ap : Aperture) (addr : BitVec 28) (wide : Bool) (v : BitVec 64) :
    exec (.csWrite ap addr wide v) s = execCsWrite ap addr wide v s := rfl

/-- CS_READ has its own meaning. -/
theorem exec_csRead (s : State) (ap : Aperture) (addr : BitVec 28) (wide : Bool) :
    exec (.csRead ap addr wide) s = execCsRead ap addr wide s := rfl

/-- A 32-bit access is aligned on a 4-byte boundary. -/
theorem aligned_narrow {addr : Nat} (h : addr % 4 = 0) : aligned addr false = true := by
  simp [aligned, h]

/-- An aligned 32-bit CS_WRITE is a 32-bit write at its offset. -/
theorem exec_csWrite_narrow (s : State) (ap : Aperture) (addr : BitVec 28) (v : BitVec 64) (ha : addr.toNat % 4 = 0) :
    exec (.csWrite ap addr false v) s = s.act (fun d => d.write32 ap addr.toNat (v.truncate 32)) := by
  simp [exec_csWrite, execCsWrite, aligned_narrow ha, Dev.csWrite]

/-- An aligned 32-bit CS_READ while the host reaches control space answers what the 32-bit read at its offset gives. -/
theorem exec_csRead_narrow (s : State) (ap : Aperture) (addr : BitVec 28) (ha : addr.toNat % 4 = 0)
    (hup : s.dev.hostUp = true) :
    exec (.csRead ap addr false) s =
      s.act (fun d => (d.read32 ap addr.toNat).1.emit (.readData 4 (d.read32 ap addr.toNat).2)) := by
  simp [exec_csRead, execCsRead, State.act_eq, aligned_narrow ha, Dev.csRead, hup]

/-- A 32-bit write where no register is meets no aperture check: it is discarded. -/
theorem Dev.write32_nothing (d : Dev) (ap : Aperture) {addr : Nat} (v : BitVec 32) (h : halfAt addr = .nothing) :
    d.write32 ap addr v = d := by
  simp only [Dev.write32, h]

/-- A 32-bit read where no register is returns zero and has no side effect. -/
theorem Dev.read32_nothing (d : Dev) (ap : Aperture) {addr : Nat} (h : halfAt addr = .nothing) :
    d.read32 ap addr = (d, 0) := by
  simp only [Dev.read32, h]

/-! ## Accesses of an offset that no register occupies -/

/-- A write of an unoccupied offset moves no more than the output balls. -/
theorem csWrite_nothing_completes (s : State) (ap : Aperture) (addr : BitVec 28) (v : BitVec 64)
    (ha : addr.toNat % 4 = 0) (hn : halfAt addr.toNat = .nothing) :
    Completes (.csWrite ap addr false v) s s.dev.same := by
  obtain ⟨t, ht, hdev, hpend⟩ := State.act_next s (fun d => d.write32 ap addr.toNat (v.truncate 32))
  refine ⟨t, by rw [exec_csWrite_narrow s ap addr v ha, ht], hpend, ?_⟩
  rw [hdev, Dev.write32_nothing _ _ _ hn]
  exact Dev.same_settle s.dev

/-- A read of an unoccupied offset answers four bytes of zero, and moves no more than that and the output balls. -/
theorem csRead_nothing_completes (s : State) (ap : Aperture) (addr : BitVec 28)
    (ha : addr.toNat % 4 = 0) (hn : halfAt addr.toNat = .nothing) (hup : s.dev.hostUp = true) :
    Completes (.csRead ap addr false) s (s.dev.emit (.readData 4 0)).same := by
  obtain ⟨t, ht, hdev, hpend⟩ := State.act_next s
    (fun d => (d.read32 ap addr.toNat).1.emit (.readData 4 (d.read32 ap addr.toNat).2))
  refine ⟨t, by rw [exec_csRead_narrow s ap addr ha hup, ht], hpend, ?_⟩
  rw [hdev, Dev.read32_nothing _ _ hn]
  exact Dev.same_settle _

/-- Settles O8: where no register is, neither access reaches an aperture check, so neither can be refused and reported. -/
theorem unoccupiedOffsets : Obligations.UnoccupiedOffsets := by
  unfold Obligations.UnoccupiedOffsets
  intro s ap addr v ha hn
  exact ⟨csWrite_nothing_completes s ap addr v ha hn, csRead_nothing_completes s ap addr ha hn⟩

end Sys2Proof.Machine
end

section
/-! PROOFS. Stall reports: what a wait stands for, which threshold comes next, and what its report leaves (R34). -/

namespace Sys2Proof.Machine

/-! ## The ring count under shared operations -/

/-- The count is RING_COUNT's, so a field of another register leaves it. -/
theorem Dev.count_setF (d : Dev) (f : Fld) (n i j : Nat) (h : f.reg ≠ .RING_COUNT) : (d.setF f n i j).count = d.count := by
  unfold Dev.count Dev.setF
  rw [Dev.reg_setReg_ne _ _ _ _ _ _ h.symm]

/-- A counter of another register leaves the count. -/
theorem Dev.count_addF (d : Dev) (f : Fld) (n i j : Nat) (h : f.reg ≠ .RING_COUNT) : (d.addF f n i j).count = d.count :=
  d.count_setF f _ i j h

/-- The settling of the balls leaves the count. -/
@[simp] theorem Dev.settle_count (d : Dev) : d.settle.count = d.count := rfl

/-- A report leaves the count: of the registers it reaches ERR_STATUS alone. -/
@[simp] theorem Dev.post_count (d : Dev) (c : Code) (addr index : Nat) (who : Who) (n : Nat) :
    (d.post c addr index who n).count = d.count := by
  unfold Dev.post Dev.postFrom
  dsimp only
  split
  · exact Dev.count_setF _ _ _ _ _ (by decide)
  · rfl

/-! ## Reports -/

/-- Reports of two devices agree where their records, SEQ and count do. -/
theorem Dev.posted_congr {d d' e e' : Dev} {c : Code} {P : Report → Prop} (hlink : d'.link = d.link)
    (hcount : d'.count = d.count) (he : e'.link = e.link) (h : d'.posted e c P) : d.posted e' c P := by
  unfold Dev.posted at h ⊢
  rwa [he, ← hlink, ← hcount]

/-- A report holds the status of whom it concerns, its INDEX and its ELAPSED (Table 17.1). -/
theorem Dev.post_posted (d : Dev) (c : Code) (addr index : Nat) (who : Who) (n : Nat) :
    d.posted (d.post c addr index who n) c (fun r => r.status = who.status ∧ r.elapsed = n ∧ r.index = index) := by
  refine ⟨⟨d.link.seq, c, c.source, who.status, who.job, who.part, who.queue, who.tag, d.count, addr, index, n⟩,
    ?_, rfl, rfl, rfl, rfl, rfl, rfl⟩
  unfold Dev.post Dev.postFrom
  dsimp only
  split <;> rfl

/-- A change of one command that keeps what is compared keeps it in all. -/
theorem Dev.updCmd_map_cmds {α : Type} (d : Dev) (id : Nat) (g : Cmd → Cmd) (f : Cmd → α) (h : ∀ c, f (g c) = f c) :
    (d.updCmd id g).cmds.map f = d.cmds.map f := by
  simp only [Dev.updCmd, mapIf, List.map_map]
  refine List.map_congr_left (fun c _ => ?_)
  simp only [Function.comp_apply]
  split
  · exact h c
  · rfl

/-- The report of a command in flight concerns it. -/
theorem Dev.postCmd_posted (d : Dev) {id : Nat} {k : Cmd} (c : Code) (st addr index n : Nat) (hk : d.cmd? id = some k) :
    d.posted (d.postCmd id c st addr index n) c (fun r => r.status = st ∧ r.elapsed = n ∧ r.index = index) := by
  have h := d.post_posted c addr index (k.who st) n
  simp only [Dev.postCmd, hk]
  exact Dev.posted_congr rfl rfl rfl h

/-- A report about a command leaves the count. -/
theorem Dev.postCmd_count (d : Dev) (id : Nat) (c : Code) (st addr index n : Nat) :
    (d.postCmd id c st addr index n).count = d.count := by
  unfold Dev.postCmd
  split
  · exact Dev.post_count ..
  · exact Dev.post_count ..

/-- A report about a command leaves the thresholds noted for every wait. -/
theorem Dev.postCmd_stalls (d : Dev) (id : Nat) (c : Code) (st addr index n : Nat) :
    (d.postCmd id c st addr index n).stalls = d.stalls := by
  unfold Dev.postCmd
  split <;> simp

/-- A report about a command changes no command but for the sequence number of its first report (R52). -/
theorem Dev.postCmd_cmds (d : Dev) (id : Nat) (c : Code) (st addr index n : Nat) :
    (d.postCmd id c st addr index n).cmds.map (fun c => { c with firstSeq := 0 }) =
      d.cmds.map (fun c => { c with firstSeq := 0 }) := by
  unfold Dev.postCmd
  split
  · rw [Dev.post_cmds]
  · dsimp only
    rw [Dev.updCmd_map_cmds, Dev.post_cmds]
    exact fun _ => rfl

/-! ## What a wait stands for -/

/-- A stall has STEP_STALL as its status, and a wait of a command goes on only while the command is in flight. -/
theorem Dev.stall?_cases {d : Dev} {w : Wait} {st : Stall} (h : d.stall? w = some st) :
    st.who.status = Status.stepStall.num ∧
    (waitCmd w = none ∨ ∃ id c, waitCmd w = some id ∧ d.cmd? id = some c) := by
  cases w with
  | version id =>
    simp only [Dev.stall?, Dev.stallVersion, Option.bind_eq_bind, Option.bind_eq_some_iff,
      Option.ite_none_left_eq_some, Option.some.injEq] at h
    obtain ⟨c, hc, _, -, -, rfl⟩ := h
    exact ⟨rfl, .inr ⟨id, c, rfl, hc⟩⟩
  | fetch id =>
    simp only [Dev.stall?, Dev.stallFetch, Option.bind_eq_bind, Option.bind_eq_some_iff,
      Option.ite_none_right_eq_some, Option.some.injEq] at h
    obtain ⟨c, hc, _, -, _, -, -, rfl⟩ := h
    exact ⟨rfl, .inr ⟨id, c, rfl, hc⟩⟩
  | receive id | build id | collective id | addAck id =>
    simp only [Dev.stall?, Dev.stallReceive, Dev.stallBuild, Dev.stallColl, Dev.stallAdd, Option.bind_eq_bind,
      Option.bind_eq_some_iff, Option.ite_none_right_eq_some, Option.some.injEq] at h
    obtain ⟨c, hc, _, -, -, rfl⟩ := h
    exact ⟨rfl, .inr ⟨id, c, rfl, hc⟩⟩
  | grant p =>
    simp only [Dev.stall?, Option.ite_none_right_eq_some, Option.some.injEq] at h
    obtain ⟨-, rfl⟩ := h
    exact ⟨rfl, .inl rfl⟩
  | early | window | collEarly =>
    simp only [Dev.stall?, Dev.stallWindow, Option.bind_eq_bind, Option.bind_eq_some_iff, Option.some.injEq] at h
    obtain ⟨_, -, rfl⟩ := h
    exact ⟨rfl, .inl rfl⟩

/-! ## The thresholds reported -/

/-- The thresholds reported of a wait and, for a wait for a grant, its partition's count of stalls, before the report. -/
def Dev.noteStall (d : Dev) (w : Wait) (start n : Nat) : Dev :=
  let d := { d with stalls := d.stalls.filter (fun (e : Wait × Nat × Nat) => e.1 != w) ++ [(w, start, n)] }
  match w with
  | .grant p => d.addF .SV_GRANTS_STALLS 1 p
  | _ => d

/-- The report of a stall, about the wait's command if it has one. -/
def Dev.tellStall (d : Dev) (w : Wait) (st : Stall) (n : Nat) : Dev :=
  match waitCmd w with
  | some id => d.postCmd id st.code st.who.status 0 st.index n
  | none => d.post st.code 0 st.index st.who n

/-- At the next multiple of its threshold a stall is noted and reported (R34). -/
theorem Dev.stallReport_due {d : Dev} {w : Wait} {st : Stall} (h : d.stall? w = some st) (hrun : d.ring.running = true)
    (ht : st.threshold ≠ 0) (hdue : st.start + (d.stallsDone w st.start + 1) * st.threshold ≤ d.count) :
    d.stallReport w =
      (d.noteStall w st.start (d.stallsDone w st.start + 1)).tellStall w st (d.stallsDone w st.start + 1) := by
  have hlt : ¬ d.count < st.start + (d.stallsDone w st.start + 1) * st.threshold := Nat.not_lt.mpr hdue
  simp only [Dev.stallReport, h, hrun, ht, hlt, Bool.not_true, beq_iff_eq, decide_false, Bool.false_or,
    Bool.or_false, if_false]
  rfl

/-- Before the next multiple of its threshold, and with a threshold of 0, a stall reports nothing (R34). -/
theorem Dev.stallReport_not_due {d : Dev} {w : Wait} {st : Stall} (h : d.stall? w = some st)
    (hn : st.threshold = 0 ∨ d.count < st.start + (d.stallsDone w st.start + 1) * st.threshold) : d.stallReport w = d := by
  have hn' : (st.threshold == 0 || decide (d.count < st.start + (d.stallsDone w st.start + 1) * st.threshold)) = true := by
    simpa using hn
  simp only [Dev.stallReport, h, Bool.or_assoc, hn', Bool.or_true, if_true]

@[simp] theorem Dev.noteStall_link (d : Dev) (w : Wait) (start n : Nat) : (d.noteStall w start n).link = d.link := by
  cases w <;> rfl

@[simp] theorem Dev.noteStall_cmds (d : Dev) (w : Wait) (start n : Nat) : (d.noteStall w start n).cmds = d.cmds := by
  cases w <;> rfl

@[simp] theorem Dev.noteStall_stalls (d : Dev) (w : Wait) (start n : Nat) :
    (d.noteStall w start n).stalls = d.stalls.filter (fun e => e.1 != w) ++ [(w, start, n)] := by
  cases w <;> rfl

@[simp] theorem Dev.noteStall_count (d : Dev) (w : Wait) (start n : Nat) : (d.noteStall w start n).count = d.count := by
  cases w with
  | grant p => exact Dev.count_addF _ _ _ _ _ (by decide)
  | _ => rfl

/-- The number noted is the number read back: it has replaced the wait's earlier one. -/
theorem Dev.stallsDone_noted {d : Dev} {l : List (Wait × Nat × Nat)} {w : Wait} {start n : Nat}
    (h : d.stalls = l.filter (fun e => e.1 != w) ++ [(w, start, n)]) : d.stallsDone w start = n := by
  have hnone : (l.filter (fun e => e.1 != w)).find? (fun e => e.1 == w && e.2.1 == start) = none := by
    rw [List.find?_eq_none]
    intro x hx
    have hne : x.1 ≠ w := by simpa using (List.mem_filter.mp hx).2
    simp [hne]
  simp [Dev.stallsDone, h, List.find?_append, hnone]

/-- Telling of a stall posts one report, with its status, INDEX and number of thresholds (R34). -/
theorem Dev.tellStall_posted (d : Dev) {w : Wait} (st : Stall) (n : Nat)
    (hw : waitCmd w = none ∨ ∃ id c, waitCmd w = some id ∧ d.cmd? id = some c) :
    d.posted (d.tellStall w st n) st.code (fun r => r.status = st.who.status ∧ r.elapsed = n ∧ r.index = st.index) := by
  obtain hnone | ⟨id, c, hid, hc⟩ := hw
  · simpa only [Dev.tellStall, hnone] using d.post_posted st.code 0 st.index st.who n
  · simpa only [Dev.tellStall, hid] using d.postCmd_posted st.code st.who.status 0 st.index n hc

/-- Telling of a stall leaves the count. -/
theorem Dev.tellStall_count (d : Dev) (w : Wait) (st : Stall) (n : Nat) : (d.tellStall w st n).count = d.count := by
  unfold Dev.tellStall
  split
  · exact Dev.postCmd_count ..
  · exact Dev.post_count ..

/-- Telling of a stall leaves the thresholds noted. -/
theorem Dev.tellStall_stalls (d : Dev) (w : Wait) (st : Stall) (n : Nat) : (d.tellStall w st n).stalls = d.stalls := by
  unfold Dev.tellStall
  split
  · exact Dev.postCmd_stalls ..
  · exact Dev.post_stalls ..

/-- Telling of a stall kills nothing: it changes no command but for the sequence number of its first report (R34, R52). -/
theorem Dev.tellStall_cmds (d : Dev) (w : Wait) (st : Stall) (n : Nat) :
    (d.tellStall w st n).cmds.map (fun c => { c with firstSeq := 0 }) = d.cmds.map (fun c => { c with firstSeq := 0 }) := by
  unfold Dev.tellStall
  split
  · exact Dev.postCmd_cmds ..
  · rw [Dev.post_cmds]

/-! ## STALL_REPORT -/

/-- STALL_REPORT while fewer than 1,024 records are held is its effect followed by the output balls. -/
theorem stallReport_completes (s : State) (w : Wait) {P : Dev → Prop} (hstalled : s.dev.stalled = false)
    (h : P (s.dev.stallReport w).settle) : Completes (.stallReport w) s P := by
  have hexec : exec (.stallReport w) s = s.act (fun d => d.stallReport w) :=
    State.engine_eq s (fun d => d.stallReport w) hstalled
  obtain ⟨t, ht, hdev, hpend⟩ := State.act_next s (fun d => d.stallReport w)
  exact ⟨t, hexec.trans ht, hpend, hdev ▸ h⟩

/-- The report of a threshold reached: what it holds, the number noted, and what it leaves. -/
theorem stallReport_due_completes {s : State} {w : Wait} {st : Stall} (h : s.dev.stall? w = some st)
    (hrun : s.dev.ring.running = true) (hstalled : s.dev.stalled = false) (ht : st.threshold ≠ 0)
    (hdue : st.start + (s.dev.stallsDone w st.start + 1) * st.threshold ≤ s.dev.count) :
    Completes (.stallReport w) s (fun e =>
      s.dev.posted e st.code (fun r => r.status = Status.stepStall.num ∧ r.elapsed = s.dev.stallsDone w st.start + 1 ∧
        r.index = st.index) ∧
      e.stallsDone w st.start = s.dev.stallsDone w st.start + 1 ∧ e.count = s.dev.count ∧
      e.cmds.map (fun c => { c with firstSeq := 0 }) = s.dev.cmds.map (fun c => { c with firstSeq := 0 })) := by
  refine stallReport_completes s w hstalled ?_
  rw [Dev.stallReport_due h hrun ht hdue]
  generalize s.dev.stallsDone w st.start + 1 = n
  obtain ⟨hstatus, hwait⟩ := Dev.stall?_cases h
  have hcmd : ∀ id, (s.dev.noteStall w st.start n).cmd? id = s.dev.cmd? id := fun id => by simp [Dev.cmd?]
  have hposted := Dev.tellStall_posted (s.dev.noteStall w st.start n) st n (by simpa only [hcmd] using hwait)
  rw [hstatus] at hposted
  refine ⟨Dev.posted_congr (by simp) (by simp) (by simp) hposted, ?_, ?_, ?_⟩
  · exact Dev.stallsDone_noted (by rw [Dev.settle_stalls, Dev.tellStall_stalls, Dev.noteStall_stalls])
  · rw [Dev.settle_count, Dev.tellStall_count, Dev.noteStall_count]
  · rw [Dev.settle_cmds, Dev.tellStall_cmds, Dev.noteStall_cmds]

/-- Settles O23: a wait is a stall of a command in flight or of a partition, so its report has STEP_STALL and the number
noted; nothing is reported before the next multiple, nor with a threshold of 0. -/
theorem stallsReported : Obligations.StallsReported := by
  unfold Obligations.StallsReported
  intro s w st h hrun hstalled
  refine ⟨fun ⟨ht, hdue⟩ => stallReport_due_completes h hrun hstalled ht hdue, fun hn => ?_⟩
  refine stallReport_completes s w hstalled ?_
  rw [Dev.stallReport_not_due h hn]
  exact Dev.same_settle s.dev

end Sys2Proof.Machine
end

section
/-! PROOFS. What the Switch Core leaves as it was when billets take slots and leave them (R252, R259, R264, R265). -/

namespace Sys2Proof.Machine

/-- The registers that change as billets take slots and leave them, FAULT_SEEN's among them. -/
def switchRegs : List Reg := [.FAB_SHARED, .FAB_LINK_OCC, .FAB_PUSHOUT, .FAB_DROP, .XE_BILLETS_TX, .ERR_STATUS]

/-! ## Slots alone -/

/-- Nothing has changed but the Switch Core and the registers that go with its slots. -/
structure Dev.slotsMove (d e : Dev) : Prop where
  rest : { e with regs := d.regs, fab := d.fab } = d
  reg : ∀ r i j, r ∉ switchRegs → e.reg r i j = d.reg r i j

namespace Dev.slotsMove

variable {d m e : Dev}

theorem refl (d : Dev) : d.slotsMove d := ⟨rfl, fun _ _ _ _ => rfl⟩

theorem trans (h : d.slotsMove m) (h' : m.slotsMove e) : d.slotsMove e where
  rest := (congrArg (fun x : Dev => { x with regs := d.regs, fab := d.fab }) h'.rest).trans h.rest
  reg r i j hr := (h'.reg r i j hr).trans (h.reg r i j hr)

/-- A sequence of moves of slots is one. -/
theorem foldl {α : Type} {g : Dev → α → Dev} (hg : ∀ (d : Dev) a, d.slotsMove (g d a)) (l : List α) (d : Dev) :
    d.slotsMove (l.foldl g d) := by
  induction l generalizing d with
  | nil => exact refl d
  | cons a l ih => exact (hg d a).trans (ih _)

/-- A further move made only under a condition. -/
theorem ite_right {c : Prop} [Decidable c] (g : Dev → Dev) (hg : ∀ d : Dev, d.slotsMove (g d)) (h : d.slotsMove m) :
    d.slotsMove (if c then g m else m) := by
  split
  · exact h.trans (hg m)
  · exact h

/-- A field of the slots' registers is written. -/
theorem setF (d : Dev) (f : Fld) (n i j : Nat) (hf : f.reg ∈ switchRegs) : d.slotsMove (d.setF f n i j) where
  rest := rfl
  reg r _ _ hr := Dev.reg_setF_ne d f r n _ _ _ _ fun hc => hr (Reg.code_reg hc ▸ hf)

theorem updFab (d : Dev) (g : FabSt → FabSt) : d.slotsMove (d.updFab g) := ⟨rfl, fun _ _ _ _ => rfl⟩

theorem noteShared (d : Dev) : d.slotsMove d.noteShared := by
  have hfree : d.slotsMove (d.setF .FAB_SHARED_FREE d.sharedFree) := setF d _ _ _ _ (by decide)
  unfold Dev.noteShared
  dsimp only
  split
  · exact hfree.trans (setF _ _ _ _ _ (by decide))
  · exact hfree

theorem pushOut (d : Dev) : d.slotsMove d.pushOut := by
  unfold Dev.pushOut
  split
  · exact refl d
  · exact (updFab d _).trans (setF _ _ _ _ _ (by decide))

theorem pushOuts (n : Nat) (d : Dev) : d.slotsMove (d.pushOuts n) := by
  induction n generalizing d with
  | zero => exact refl d
  | succ n ih => exact (pushOut d).trans (ih _)

theorem grantShared (d : Dev) (l : Nat) : d.slotsMove (d.grantShared l) := by
  unfold Dev.grantShared
  split
  · exact refl d
  · exact (((pushOuts _ d).trans (setF _ _ _ _ _ (by decide))).trans (updFab _ _)).trans (noteShared _)

/-- Shared credits are granted on every link in turn (R264). -/
theorem grantAll (d : Dev) : d.slotsMove d.grantAll := (noteShared d).trans (foldl grantShared _ _)

/-- A slot empties: an internal port's or a TC6 billet's is simply free again, and any other's credit returns, its place
taken by a billet of the shared region where there is one (R264, R265). -/
theorem freeSlot (d : Dev) (s : Slot) : d.slotsMove (d.freeSlot s) := by
  unfold Dev.freeSlot
  dsimp only
  split
  · exact (updFab d _).trans (grantAll _)
  split
  · exact (updFab d _).trans (grantAll _)
  refine trans (ite_right (fun d => d.setF .FAB_LINK_OCC_SHARED_OUT (d.sharedOut s.input - 1) s.input)
    (fun d => setF d _ _ _ _ (by decide)) ?_) (grantAll _)
  split
  · exact (updFab d _).trans (updFab _ _)
  split
  · exact (updFab d _).trans (updFab _ _)
  · exact ((updFab d _).trans (updFab _ _)).trans (updFab _ _)

/-- A copy leaves its slot, which is freed with the last one (R262). -/
theorem leave (d : Dev) (s : Slot) (port : Nat) : d.slotsMove (d.leave s port) := by
  unfold Dev.leave
  dsimp only
  split
  · exact freeSlot d s
  · exact updFab d _

/-- A billet that its engine takes leaves its slot, and nothing but the Switch Core changes. -/
theorem consume (d : Dev) (a : Arrival) : d.slotsMove (d.consume a) := by
  unfold Dev.consume
  split
  · exact leave d _ _
  · exact refl d

theorem taken (d : Dev) (a : Arrival) : d.slotsMove (d.taken a) := (updFab d _).trans (consume _ a)

end Dev.slotsMove

/-! ## Slots and their reports -/

/-- Nothing has changed but the Switch Core, the registers that go with its slots, and reports. -/
structure Dev.switchMoves (d e : Dev) : Prop where
  rest : { e with regs := d.regs, fab := d.fab, link := d.link, err := d.err } = d
  reg : ∀ r i j, r ∉ switchRegs → e.reg r i j = d.reg r i j

/-- A move of slots is one without a report. -/
theorem Dev.slotsMove.switchMoves {d e : Dev} (h : d.slotsMove e) : d.switchMoves e :=
  ⟨congrArg (fun x : Dev => { x with link := d.link, err := d.err }) h.rest, h.reg⟩

namespace Dev.switchMoves

variable {d m e : Dev}

theorem refl (d : Dev) : d.switchMoves d := (slotsMove.refl d).switchMoves

theorem trans (h : d.switchMoves m) (h' : m.switchMoves e) : d.switchMoves e where
  rest := (congrArg (fun x : Dev => { x with regs := d.regs, fab := d.fab, link := d.link, err := d.err }) h'.rest).trans
    h.rest
  reg r i j hr := (h'.reg r i j hr).trans (h.reg r i j hr)

/-- A report sets FAULT_SEEN at most (R330). -/
theorem post (d : Dev) (c : Code) (addr index : Nat) (who : Who) (n : Nat) :
    d.switchMoves (d.post c addr index who n) where
  rest := congrArg (fun x : Dev => { x with fab := d.fab, err := d.err }) (d.postFrom_rest c.source c addr index who n)
  reg r _ _ hr := by
    unfold Dev.post Dev.postFrom
    dsimp only
    split
    · exact (slotsMove.setF _ .ERR_STATUS_FAULT_SEEN _ _ _ (by decide)).reg r _ _ hr
    · rfl

theorem postFirst (d : Dev) (c : Code) (item addr index : Nat) (who : Who) :
    d.switchMoves (d.postFirst c item addr index who) := by
  unfold Dev.postFirst
  dsimp only
  split
  · exact refl d
  · refine trans ?_ (post _ _ _ _ _ _)
    exact ⟨rfl, fun _ _ _ _ => rfl⟩

theorem dropMalformed (d : Dev) : d.switchMoves d.dropMalformed :=
  (slotsMove.setF d _ _ _ _ (by decide)).switchMoves.trans (postFirst _ _ _ _ _ _)

theorem unroutable (d : Dev) (b : Billet) (n : Nat) : d.switchMoves (d.unroutable b n) := by
  unfold Dev.unroutable
  split
  · exact refl d
  · exact (slotsMove.setF d _ _ _ _ (by decide)).switchMoves.trans (postFirst _ _ _ _ _ _)

/-- A billet takes a slot, or is discarded with a report where it has no way on (R259). -/
theorem enqueue (d : Dev) (input : Nat) (shared : Bool) (b : Billet) (since : Nat) (owner : Option (Nat × Nat))
    (copies : List (Option Copy)) : d.switchMoves (d.enqueue input shared b since owner copies) := by
  have hslot : ∀ g n, d.switchMoves ((d.updFab g).unroutable b n).noteShared := fun g n =>
    ((slotsMove.updFab d g).switchMoves.trans (unroutable _ b n)).trans (slotsMove.noteShared _).switchMoves
  unfold Dev.enqueue
  dsimp only
  split
  · exact (hslot _ _).trans (slotsMove.freeSlot _ _).switchMoves
  · exact hslot _ _

/-- One waiting billet is discarded as malformed, goes on waiting, or takes a slot (R252, R265). -/
theorem injectOne (d : Dev) (i : Inject) : d.switchMoves (d.injectOne i).1 := by
  unfold Dev.injectOne
  dsimp only
  split
  · exact dropMalformed d
  split
  · exact refl d
  refine trans (slotsMove.switchMoves ?_) (enqueue _ _ _ _ _ _ _)
  refine slotsMove.ite_right (fun d => d.addF .XE_BILLETS_TX_TX 1) (fun d => slotsMove.setF d _ _ _ _ (by decide)) ?_
  exact slotsMove.ite_right Dev.pushOut slotsMove.pushOut (slotsMove.refl d)

theorem pumpList (l : List Inject) (d : Dev) : d.switchMoves (d.pumpList l).1 := by
  induction l generalizing d with
  | nil => exact refl d
  | cons i l ih => exact (injectOne d i).trans (ih _)

/-- Billets that take slots change nothing but the Switch Core and what it reports. -/
theorem pump (d : Dev) : d.switchMoves d.pump := (pumpList d.fab.inject d).trans
  (slotsMove.updFab _ fun f => { f with inject := (d.pumpList d.fab.inject).2 }).switchMoves

variable (h : d.switchMoves e)
include h

theorem win : e.win = d.win := (congrArg Dev.win h.rest :)
theorem mem : e.mem = d.mem := (congrArg Dev.mem h.rest :)
theorem cmds : e.cmds = d.cmds := (congrArg Dev.cmds h.rest :)
theorem out : e.out = d.out := (congrArg Dev.out h.rest :)
theorem count : e.count = d.count := congrArg BitVec.toNat (h.reg .RING_COUNT 0 0 (by decide))

theorem f {f : Fld} (i j : Nat) (hf : f.reg ∉ switchRegs) : e.f f i j = d.f f i j := congrArg f.of (h.reg f.reg i j hf)

end Dev.switchMoves

/-- A move of slots leaves the host link and its reports. -/
theorem Dev.slotsMove.link {d e : Dev} (h : d.slotsMove e) : e.link = d.link := (congrArg Dev.link h.rest :)

end Sys2Proof.Machine
end

section
/-! PROOFS. The window requester: entries fetched, answered, completed and aborted (R272 to R274, R277, R282). -/

namespace Sys2Proof.Machine

/-! ## Steps -/

/-- A row of an engine completes with its effect while the records held leave room. -/
theorem Completes.of_engine {i : Instr} {s : State} {g : Dev → Dev} {P : Dev → Prop} (hexec : exec i s = s.engine g)
    (hstalled : s.dev.stalled = false) (h : P (g s.dev).settle) : Completes i s P :=
  ⟨_, (hexec.trans (State.engine_eq s g hstalled)).trans (State.act_eq s g), rfl, h⟩

/-- A host write that its register accepts completes with the register's own action. -/
theorem Completes.of_accepted {i : Instr} {s : State} {ap : Aperture} {r : Reg} {k j : Nat} {g : Dev → Dev} {P : Dev → Prop}
    (hexec : exec i s = s.act (fun d => d.hostWrite ap r k j g)) (hacc : s.dev.accepts ap r k = true)
    (h : P (g s.dev).settle) : Completes i s P := by
  simp only [Dev.accepts, Bool.and_eq_true, Bool.not_eq_true'] at hacc
  obtain ⟨⟨hup, hbusy⟩, hmay⟩ := hacc
  refine ⟨_, hexec.trans (State.act_eq s _), rfl, ?_⟩
  rwa [Dev.hostWrite_ok _ _ _ _ _ _ hup hbusy hmay]

/-- Commands, memory and the count as they were: no command has ended. -/
theorem Dev.noneEnds_of_eq {d e : Dev} (hcmds : e.cmds = d.cmds) (hmem : e.mem = d.mem) (hcount : e.count = d.count) :
    d.noneEnds e :=
  ⟨by rw [hcmds], by rw [hmem], by rw [hmem], hcount⟩

/-- Messages sent one after another. -/
theorem Dev.foldl_emit {α : Type} (g : α → Out) (l : List α) (d : Dev) :
    l.foldl (fun d m => d.emit (g m)) d = { d with out := d.out ++ l.map g } := by
  induction l generalizing d with
  | nil => simp
  | cons a l ih =>
    rw [List.foldl_cons, ih]
    simp [Dev.emit]

/-- A read of host memory sends its messages and changes nothing else. -/
theorem Dev.emitRead_eq (d : Dev) (addr n : Nat) : d.emitRead addr n = { d with out := d.out ++ memReads addr n } :=
  Dev.foldl_emit (fun m : Nat × Nat => Out.memRead (addr + m.1) m.2) (messageSizes n) d

/-- An entry is read in one message. -/
theorem memReads_entry (addr : Nat) : memReads addr 64 = [.memRead addr 64] := rfl

/-! ## The slots that an entry's lines await -/

/-- The line slots that an entry's lines await, first line to last. -/
def WinEntry.awaited (e : WinEntry) : List Nat := e.lines.filterMap WinLine.slot

/-- An entry is complete just when it awaits no slot (R272). -/
theorem WinEntry.complete_iff (e : WinEntry) : e.complete = true ↔ e.awaited = [] := by
  simp [WinEntry.complete, WinEntry.awaited, WinLine.waits, List.filterMap_eq_nil_iff]

/-- A complete entry has no line that awaits a response. -/
theorem WinEntry.waits_of_complete {e : WinEntry} (h : e.complete = true) : e.lines.filter WinLine.waits = [] := by
  simpa [WinEntry.complete] using h

/-- No place is found just where no element meets the test. -/
theorem findIdx?_eq_none {α : Type} (p : α → Bool) (l : List α) : findIdx? p l = none ↔ ∀ x ∈ l, p x = false := by
  simp only [findIdx?, Option.map_eq_none_iff, List.find?_eq_none, Bool.not_eq_true]
  constructor
  · intro h x hx
    obtain ⟨i, hi, rfl⟩ := List.getElem_of_mem hx
    exact h (l[i], i) (by simp [List.mem_zipIdx_iff_getElem?, hi])
  · exact fun h x hx => h x.1 (List.fst_mem_of_mem_zipIdx hx)

/-- No line awaits a slot just when no entry does. -/
theorem Dev.winLine?_eq_none (d : Dev) (slot : Nat) : d.winLine? slot = none ↔ ∀ e ∈ d.win.entries, slot ∉ e.awaited := by
  simp [Dev.winLine?, findIdx?_eq_none, WinEntry.awaited]

/-- A line that awaits no slot takes the place of the one that awaits a slot: the entry awaits its other slots. -/
theorem filterMap_slot_mapIf (slot : Nat) {l : WinLine} (hl : l.slot = none) (ls : List WinLine) :
    (mapIf (fun x => x.slot == some slot) (fun _ => l) ls).filterMap WinLine.slot =
      (ls.filterMap WinLine.slot).filter (fun t => t != slot) := by
  rw [mapIf, List.filterMap_map, List.filter_filterMap]
  refine List.filterMap_congr (fun x _ => ?_)
  cases hx : x.slot with
  | none => simp [hx]
  | some t => by_cases ht : t = slot <;> simp [hx, ht, hl, Option.filter]

/-- What matters of the entries in progress to who awaits what: each one's ring and the slots it awaits. -/
def Dev.winAwaited (d : Dev) : List (Nat × List Nat) := d.win.entries.map (fun e => (e.ring, e.awaited))

/-- A line is finished: its slot is awaited no more, and every entry keeps its ring and awaits its other slots. -/
theorem Dev.winSetLine_winAwaited (d : Dev) (slot : Nat) {l : WinLine} (hl : l.slot = none) :
    (d.winSetLine slot l).winAwaited = d.winAwaited.map (fun x => (x.1, x.2.filter (fun t => t != slot))) := by
  simp [Dev.winAwaited, Dev.winSetLine, WinEntry.awaited, filterMap_slot_mapIf slot hl]

/-- The line that awaited a slot is found no more once it is finished. -/
theorem Dev.winLine?_winSetLine (d : Dev) (slot : Nat) {l : WinLine} (hl : l.slot = none) :
    (d.winSetLine slot l).winLine? slot = none := by
  rw [Dev.winLine?_eq_none]
  intro e he
  have hmem : (e.ring, e.awaited) ∈ (d.winSetLine slot l).winAwaited := List.mem_map_of_mem he
  rw [Dev.winSetLine_winAwaited d slot hl] at hmem
  obtain ⟨x, -, hx⟩ := List.mem_map.mp hmem
  obtain ⟨-, hx⟩ := Prod.mk.inj hx
  simp [← hx]

/-! ## ABORT -/

/-- ABORT's effect on the line that awaits one slot. -/
def Dev.winAbortSlot (d : Dev) (slot : Nat) : Dev :=
  (d.winSetLine slot ⟨none, some Status.killedPreempt.num, []⟩).winNextGen slot

/-- The slots that a ring's lines await. -/
def Dev.ringSlots (d : Dev) (r : Nat) : List Nat :=
  (d.win.entries.filter (fun e => e.ring == r)).flatMap WinEntry.awaited

/-- ABORT fails the line of each slot that its ring awaits. -/
theorem Dev.winAbort_eq (d : Dev) (r : Nat) :
    d.winAbort r = ((d.ringSlots r).foldl Dev.winAbortSlot d).noteWin r := rfl

/-- Aborting lines changes the Window unit alone. -/
theorem Dev.foldl_winAbortSlot_rest (l : List Nat) (d : Dev) : { l.foldl Dev.winAbortSlot d with win := d.win } = d := by
  induction l generalizing d with
  | nil => rfl
  | cons s l ih => exact congrArg (fun x : Dev => { x with win := d.win }) (ih (d.winAbortSlot s))

/-- Aborting the lines of some slots leaves every entry with its ring and its other slots. -/
theorem Dev.foldl_winAbortSlot_winAwaited (l : List Nat) (d : Dev) :
    (l.foldl Dev.winAbortSlot d).winAwaited = d.winAwaited.map (fun x => (x.1, x.2.filter (fun t => t ∉ l))) := by
  induction l generalizing d with
  | nil => simp
  | cons s l ih =>
    have hone : (d.winAbortSlot s).winAwaited = d.winAwaited.map (fun x => (x.1, x.2.filter (fun t => t != s))) :=
      d.winSetLine_winAwaited s rfl
    rw [List.foldl_cons, ih, hone, List.map_map]
    refine List.map_congr_left (fun x _ => Prod.ext rfl ?_)
    rw [Function.comp_apply, List.filter_filter]
    refine List.filter_congr (fun t _ => ?_)
    rw [Bool.eq_iff_iff]
    simp [and_comm]

/-- After an ABORT every entry of the ring is complete (R282). -/
theorem Dev.winAbort_complete (d : Dev) (r : Nat) : ∀ w ∈ (d.winAbort r).win.entries, w.ring = r → w.complete = true := by
  intro w hw hr
  have hmem : (w.ring, w.awaited) ∈ ((d.ringSlots r).foldl Dev.winAbortSlot d).winAwaited := List.mem_map_of_mem hw
  rw [Dev.foldl_winAbortSlot_winAwaited, Dev.winAwaited, List.map_map] at hmem
  obtain ⟨e, he, hew⟩ := List.mem_map.mp hmem
  obtain ⟨hring, hslots⟩ := Prod.mk.inj hew
  rw [WinEntry.complete_iff, ← hslots, List.filter_eq_nil_iff]
  intro t ht
  have hin : t ∈ d.ringSlots r :=
    List.mem_flatMap.mpr ⟨e, List.mem_filter.mpr ⟨he, by simpa using hring.trans hr⟩, ht⟩
  simpa using hin

/-- An ABORT forgets no entry. -/
theorem Dev.winAbort_length (d : Dev) (r : Nat) : (d.winAbort r).win.entries.length = d.win.entries.length := by
  have h := congrArg List.length (d.foldl_winAbortSlot_winAwaited (d.ringSlots r))
  simpa [Dev.winAwaited, Dev.winAbort_eq, Dev.noteWin] using h

/-- An ABORT leaves memory. -/
theorem Dev.winAbort_mem (d : Dev) (r : Nat) : (d.winAbort r).mem = d.mem :=
  (congrArg Dev.mem (d.foldl_winAbortSlot_rest (d.ringSlots r)) :)

/-- A ring whose entries are all complete awaits no line. -/
theorem Dev.winOut_eq_zero {d : Dev} {r : Nat} (h : ∀ w ∈ d.win.entries, w.ring = r → w.complete = true) : d.winOut r = 0 := by
  rw [Dev.winOut, sumNat, ← List.sum_eq_foldl, List.sum_eq_zero]
  intro n hn
  obtain ⟨e, he, rfl⟩ := List.mem_map.mp hn
  obtain ⟨hmem, hring⟩ := List.mem_filter.mp he
  rw [WinEntry.waits_of_complete (h e hmem (by simpa using hring)), List.length_nil]

/-- A ring shows no awaited line after its ABORT. -/
theorem Dev.winAbort_outstanding (d : Dev) (r : Nat) : (d.winAbort r).f .WIN_RING_HEAD_OUTSTANDING r = 0 := by
  have hout : ((d.ringSlots r).foldl Dev.winAbortSlot d).winOut r = 0 := Dev.winOut_eq_zero (d.winAbort_complete r)
  rw [Dev.winAbort_eq, Dev.noteWin, hout, Dev.f_setF_same _ _ _ _ _ (by decide), Nat.zero_mod]

/-- A write of WIN_RING_CTRL with ABORT set is the ABORT, and then changes only the ring's HEAD, TAIL and ENABLE or posts a
refusal; with ENABLE 0 the ring is disabled. -/
theorem Dev.winCtrl_abort (d : Dev) (ap : Aperture) (r : Nat) {v : BitVec 32} (hv : v.getLsbD 1 = true) :
    (d.winCtrl ap r v).win = (d.winAbort r).win ∧ (d.winCtrl ap r v).mem = (d.winAbort r).mem ∧
    (d.winCtrl ap r v).f .WIN_RING_HEAD_OUTSTANDING r = (d.winAbort r).f .WIN_RING_HEAD_OUTSTANDING r ∧
    (v.getLsbD 0 = false → (d.winCtrl ap r v).flag .WIN_RING_CTRL_ENABLE r = false) := by
  simp only [Dev.winCtrl, hv, if_true]
  generalize d.winAbort r = a
  cases h0 : v.getLsbD 0 with
  | false =>
    refine ⟨rfl, rfl, Dev.f_setF_ne_reg _ _ _ _ _ _ _ _ (by decide), fun _ => ?_⟩
    simp [Dev.flag, Dev.f_setF_same]
  | true =>
    simp only [Bool.not_true, Bool.false_eq_true, if_false]
    split
    · simp
    split
    · simp
    split
    · exact ⟨rfl, rfl, rfl, by simp⟩
    · refine ⟨rfl, rfl, ?_, by simp⟩
      rw [Dev.f_setF_ne_reg _ _ _ _ _ _ _ _ (by decide),
        Dev.f_setF_apart _ .WIN_RING_HEAD_HEAD .WIN_RING_HEAD_OUTSTANDING _ _ _ rfl (by decide) (by decide),
        Dev.f_setF_ne_reg _ _ _ _ _ _ _ _ (by decide)]

/-- ABORT completes the ring's entries and shows none of its lines awaited, whatever ENABLE asks for. -/
theorem abort_completes (s : State) (ap : Aperture) (r : Fin 16) (v : BitVec 32)
    (hacc : s.dev.accepts ap .WIN_RING_CTRL r = true) :
    Completes (.abort ap r v) s (fun e => (∀ w ∈ e.win.entries, w.ring = r → w.complete = true) ∧
      e.f .WIN_RING_HEAD_OUTSTANDING r = 0 ∧ e.win.entries.length = s.dev.win.entries.length ∧
      (v.getLsbD 0 = false → e.flag .WIN_RING_CTRL_ENABLE r = false) ∧ e.mem = s.dev.mem) := by
  refine Completes.of_accepted (g := fun d => d.winCtrl ap r (v ||| 2)) rfl hacc ?_
  obtain ⟨hwin, hmem, hout, hen⟩ := s.dev.winCtrl_abort ap r (v := v ||| 2) (by simp)
  rw [Dev.settle_win, Dev.settle_mem, Dev.settle_f, hwin, hmem, hout]
  refine ⟨s.dev.winAbort_complete r, s.dev.winAbort_outstanding r, s.dev.winAbort_length r, fun h0 => hen ?_,
    s.dev.winAbort_mem r⟩
  simpa using h0

/-! ## WIN_ENTRY_COMPLETE -/

/-- The loaded bytes that an entry has kept go to host memory, and nothing else changes. -/
theorem Dev.foldl_winKept_rest (e : WinEntry) (l : List (WinLine × Nat)) (d : Dev) :
    { l.foldl (fun d l => if l.1.data.isEmpty then d else d.emit (.memWrite (e.hostAddr l.2) l.1.data)) d with
      out := d.out } = d := by
  induction l generalizing d with
  | nil => rfl
  | cons x l ih =>
    rw [List.foldl_cons]
    split
    · exact ih d
    · exact (congrArg (fun x : Dev => { x with out := d.out }) (ih (d.emit _)) :)

/-- The oldest complete entry of a ring is forgotten and its result is the last message sent (R272). -/
theorem Dev.winComplete_of_find {d : Dev} {r : Nat} {w : WinEntry} (hready : d.ready = true) (hup : d.link.up = true)
    (hw : d.win.entries.find? (fun e => e.ring == r && e.complete) = some w) :
    { d.winComplete r with out := d.out } = d.updWin (fun x => { x with entries := x.entries.erase w }) ∧
    (d.winComplete r).out.getLast? = some (.memWrite (w.host + 32) (w.result d.count)) := by
  have hkept := d.foldl_winKept_rest w w.numbered
  simp only [Dev.winComplete, hup, hready, hw, Bool.not_true, Bool.or_false, Bool.false_eq_true, if_false]
  generalize w.numbered.foldl _ d = m at hkept ⊢
  have hcount : m.count = d.count := (congrArg Dev.count hkept :)
  refine ⟨congrArg (fun x : Dev => x.updWin (fun x => { x with entries := x.entries.erase w })) hkept, ?_⟩
  rw [hcount, Dev.emit_out, List.getLast?_concat]

/-- WIN_ENTRY_COMPLETE writes the result of the oldest complete entry and forgets it. -/
theorem winEntryComplete_completes (s : State) (r : Fin 16) (w : WinEntry) (hstalled : s.dev.stalled = false)
    (hready : s.dev.ready = true) (hup : s.dev.link.up = true)
    (hw : s.dev.win.entries.find? (fun w => w.ring == r.val && w.complete) = some w) :
    Completes (.winEntryComplete r) s (fun e => e.win.entries = s.dev.win.entries.erase w ∧
      e.out.getLast? = some (.memWrite (w.host + 32) (w.result s.dev.count)) ∧ e.regs = s.dev.regs ∧
      e.mem = s.dev.mem ∧ e.cmds = s.dev.cmds) := by
  refine Completes.of_engine (g := fun d => d.winComplete r) rfl hstalled ?_
  obtain ⟨hrest, hout⟩ := Dev.winComplete_of_find hready hup hw
  exact ⟨(congrArg (fun x : Dev => x.win.entries) hrest :), hout, (congrArg Dev.regs hrest :), (congrArg Dev.mem hrest :),
    (congrArg Dev.cmds hrest :)⟩

/-! ## The Window Cache -/

/-- Nothing has changed in the device but what the Window unit keeps beside its entries. -/
structure Dev.cacheMoves (d e : Dev) : Prop where
  rest : { e with win := d.win } = d
  entries : e.win.entries = d.win.entries

theorem Dev.cacheMoves.refl (d : Dev) : d.cacheMoves d := ⟨rfl, rfl⟩

/-- A line used or filled is moved within the cache alone (R279). -/
theorem Dev.cacheMoves.winTouch (d : Dev) (c : WinCached) : d.cacheMoves (d.winTouch c) := ⟨rfl, rfl⟩

/-! ## WIN_RESPONSE -/

/-- The billets that WIN_RESPONSE takes: line responses, of TC 3 at the Window unit's port. -/
def isWinResponse (a : Arrival) : Bool := a.port == 41 && bTc a.b == 3

/-- The billet found is taken, and has left its slot. -/
theorem Dev.takeInbox_of_find {d : Dev} {p : Arrival → Bool} {a : Arrival} (h : d.fab.inbox.find? p = some a) :
    d.takeInbox p = some (a, d.taken a) := by
  rw [Dev.takeInbox, h]
  rfl

/-- A billet taken has left the Window unit as it was. -/
theorem Dev.taken_win (d : Dev) (a : Arrival) : (d.taken a).win = d.win := (slotsMove.taken d a).switchMoves.win

theorem Dev.taken_winGen (d : Dev) (a : Arrival) (slot : Nat) : (d.taken a).winGen slot = d.winGen slot := by
  rw [Dev.winGen, d.taken_win a, Dev.winGen]

theorem Dev.taken_winLine? (d : Dev) (a : Arrival) (slot : Nat) : (d.taken a).winLine? slot = d.winLine? slot := by
  rw [Dev.winLine?, d.taken_win a, Dev.winLine?]

/-- A response whose generation is not its slot's, or whose slot no line awaits, is counted as late (R277). -/
theorem Dev.winResponse_late {d : Dev} {a : Arrival} (ha : d.fab.inbox.find? isWinResponse = some a)
    (hlate : bits (bTag a.b) 16 6 ≠ d.winGen (bits (bTag a.b) 0 12) ∨ d.winLine? (bits (bTag a.b) 0 12) = none) :
    d.winResponse = (d.taken a).addF .WIN_REFUSED_LATE 1 := by
  have htake : d.takeInbox (fun a => a.port == 41 && bTc a.b == 3) = some (a, d.taken a) := d.takeInbox_of_find ha
  simp only [Dev.winResponse, htake, d.taken_winGen, d.taken_winLine?]
  split
  · rfl
  · next hsame => rw [hlate.resolve_left hsame]

/-- A line whose response has come awaits nothing: the cache may keep it, and its bytes go to host memory at once while the
host link is up (R272, R277, R279). -/
theorem Dev.winResponse_line {d : Dev} {a : Arrival} {w : WinEntry} {i : Nat}
    (ha : d.fab.inbox.find? isWinResponse = some a)
    (hgen : bits (bTag a.b) 16 6 = d.winGen (bits (bTag a.b) 0 12))
    (hline : d.winLine? (bits (bTag a.b) 0 12) = some (w, i)) :
    ∃ (m : Dev) (l : WinLine), (d.taken a).cacheMoves m ∧ l.slot = none ∧
      d.winResponse = Dev.noteWin { m.winSetLine (bits (bTag a.b) 0 12) l with
        out := m.out ++ if bits (bTag a.b) 22 2 = 2 ∧ m.link.up = true then [.memWrite (w.hostAddr i) (bPayload a.b)] else [] }
        w.ring := by
  have htake : d.takeInbox (fun a => a.port == 41 && bTc a.b == 3) = some (a, d.taken a) := d.takeInbox_of_find ha
  simp only [Dev.winResponse, htake, d.taken_winGen, d.taken_winLine?, hgen, hline, ne_eq, not_true_eq_false, if_false]
  by_cases hcode : bits (bTag a.b) 22 2 = 2
  · have hm : (d.taken a).cacheMoves
        (if w.cached then (d.taken a).winTouch { w.tag i with data := bPayload a.b } else d.taken a) := by
      split
      · exact .winTouch _ _
      · exact .refl _
    rw [if_pos hcode]
    generalize (if w.cached then (d.taken a).winTouch { w.tag i with data := bPayload a.b } else d.taken a) = m at hm ⊢
    cases hup : m.link.up with
    | true => exact ⟨m, ⟨none, none, []⟩, hm, rfl, by rw [if_pos rfl, if_pos ⟨hcode, hup⟩]; rfl⟩
    | false =>
      refine ⟨m, ⟨none, none, bPayload a.b⟩, hm, rfl, ?_⟩
      simp only [hup, Bool.false_eq_true, and_false, if_false, List.append_nil]
      rfl
  · refine ⟨d.taken a, ⟨none, if bPay a.b 0 0 8 = 0 then none else some (bPay a.b 0 0 8), []⟩, .refl _, rfl, ?_⟩
    simp only [hcode, if_false, false_and, List.append_nil]
    rfl

/-- A counter advances, saturating at its largest value. -/
theorem Dev.bumped_addF (d : Dev) (f : Fld) (n i j : Nat) (h : f.lo + f.width ≤ 64) : d.bumped (d.addF f n i j) f n i j := by
  rw [Dev.bumped, Dev.addF, Dev.f_setF_same _ _ _ _ _ h]
  exact Nat.mod_eq_of_lt (Nat.lt_of_le_of_lt (min_le_right _ _) (Nat.sub_lt (Nat.two_pow_pos _) Nat.one_pos))

/-- WIN_RESPONSE counts a late response and leaves the Window unit as it was. -/
theorem winResponse_late_completes {s : State} {a : Arrival} (hstalled : s.dev.stalled = false)
    (ha : s.dev.fab.inbox.find? isWinResponse = some a)
    (hlate : bits (bTag a.b) 16 6 ≠ s.dev.winGen (bits (bTag a.b) 0 12) ∨ s.dev.winLine? (bits (bTag a.b) 0 12) = none) :
    Completes .winResponse s (fun e => s.dev.bumped e .WIN_REFUSED_LATE 1 ∧ e.win = s.dev.win ∧
      e.fab = (s.dev.taken a).fab ∧ e.out = s.dev.out ∧ s.dev.noneEnds e ∧ e.cmds = s.dev.cmds ∧
      e.link = s.dev.link) := by
  refine Completes.of_engine (g := Dev.winResponse) rfl hstalled ?_
  have hslots := Dev.slotsMove.taken s.dev a
  have htaken := hslots.switchMoves
  rw [Dev.winResponse_late ha hlate]
  refine ⟨?_, htaken.win, rfl, htaken.out, Dev.noneEnds_of_eq htaken.cmds htaken.mem ?_, htaken.cmds, hslots.link⟩
  · rw [Dev.bumped, ← htaken.f _ _ (by decide)]
    exact (s.dev.taken a).bumped_addF .WIN_REFUSED_LATE 1 0 0 (by decide)
  · exact (Dev.count_addF _ _ _ _ _ (by decide)).trans htaken.count

/-- WIN_RESPONSE finishes the line that awaits the response. -/
theorem winResponse_line_completes {s : State} {a : Arrival} {w : WinEntry} {i : Nat} (hstalled : s.dev.stalled = false)
    (ha : s.dev.fab.inbox.find? isWinResponse = some a)
    (hgen : bits (bTag a.b) 16 6 = s.dev.winGen (bits (bTag a.b) 0 12))
    (hline : s.dev.winLine? (bits (bTag a.b) 0 12) = some (w, i)) :
    Completes .winResponse s (fun e => e.winLine? (bits (bTag a.b) 0 12) = none ∧ e.fab = (s.dev.taken a).fab ∧
      e.win.entries.length = s.dev.win.entries.length ∧ s.dev.noneEnds e ∧ e.cmds = s.dev.cmds ∧ e.link = s.dev.link ∧
      (bits (bTag a.b) 22 2 = 2 → s.dev.link.up = true →
        e.out = s.dev.out ++ [.memWrite (w.hostAddr i) (bPayload a.b)]) ∧
      (bits (bTag a.b) 22 2 ≠ 2 → e.out = s.dev.out)) := by
  refine Completes.of_engine (g := Dev.winResponse) rfl hstalled ?_
  have hslots := Dev.slotsMove.taken s.dev a
  have htaken := hslots.switchMoves
  obtain ⟨m, l, hm, hl, heq⟩ := Dev.winResponse_line ha hgen hline
  rw [heq]
  have hout : m.out = s.dev.out := (congrArg Dev.out hm.rest :).trans htaken.out
  have hlink : m.link = s.dev.link := (congrArg Dev.link hm.rest :).trans hslots.link
  have hcmds : m.cmds = s.dev.cmds := (congrArg Dev.cmds hm.rest :).trans htaken.cmds
  refine ⟨m.winLine?_winSetLine _ hl, (congrArg Dev.fab hm.rest :), ?_, Dev.noneEnds_of_eq hcmds ?_ ?_, hcmds, hlink, ?_, ?_⟩
  · exact (List.length_map _).trans (congrArg List.length (hm.entries.trans (congrArg WinSt.entries htaken.win)))
  · exact (congrArg Dev.mem hm.rest :).trans htaken.mem
  · exact (Dev.count_setF _ _ _ _ _ (by decide)).trans ((congrArg Dev.count hm.rest :).trans htaken.count)
  · intro hcode hup
    simp [Dev.noteWin, hcode, hup, hlink, hout]
  · intro hcode
    simp [Dev.noteWin, hcode, hout]

/-! ## WIN_ENTRY_FETCH -/

/-- The entry at a ring's head, with the bytes that the host answers (Table 13.3). -/
def Dev.winNext (d : Dev) (r : Nat) (raw : Line) : WinEntry :=
  { ring := r, job := d.f .WIN_RING_CFG_JOB r, part := d.f .WIN_RING_CFG_PARTITION r, entry := raw
    host := d.f .WIN_RING_BASE_BASE r * 64 + d.f .WIN_RING_HEAD_HEAD r * 64, issued := d.count, lines := [] }

/-- A ring from which an entry may be fetched: enabled, with an entry at its head, in READY with the host link up. -/
def Dev.winHas (d : Dev) (r : Nat) : Prop :=
  d.ready = true ∧ d.link.up = true ∧ d.flag .WIN_RING_CTRL_ENABLE r = true ∧
    d.f .WIN_RING_HEAD_HEAD r ≠ d.f .WIN_RING_TAIL_TAIL r

/-- The entry at a ring's head is read from the host and leaves the ring. -/
def Dev.winPop (d : Dev) (r : Nat) : Dev :=
  { d with out := d.out ++ [Out.memRead (d.f .WIN_RING_BASE_BASE r * 64 + d.f .WIN_RING_HEAD_HEAD r * 64) 64] }.setF
    .WIN_RING_HEAD_HEAD ((d.f .WIN_RING_HEAD_HEAD r + 1) % d.winSize r) r

/-- The entry at a ring's head leaves the ring: it is read from the host, and a STORE's lines with it. -/
def Dev.winPopAll (d : Dev) (r : Nat) (raw : Line) (data : List Byte) : Dev :=
  { d.winPop r with out := (d.winPop r).out ++
      if (d.winNext r raw).op = 1 then memReads ((d.winNext r raw).hostAddr 0) data.length else [] }

/-- A bad entry, with its one failure (R273). -/
def WinEntry.rejected (e : WinEntry) : WinEntry := { e with lines := [⟨none, some Status.badDescriptor.num, []⟩] }

/-- The cases of R273. -/
theorem WinEntry.bad_iff (e : WinEntry) : e.bad = true ↔ e.op = 3 ∨ e.count = 0 ∨ 64 < e.count ∨ e.offset 0 % 64 ≠ 0 ∨
    e.arg 0 5 3 ≠ 0 ∨ e.arg 1 3 5 ≠ 0 ∨ e.arg 3 7 1 ≠ 0 ∨ e.arg 24 0 64 ≠ 0 ∨ (e.op = 2 ∧ e.arg 16 0 64 ≠ 0) := by
  simp [WinEntry.bad, or_assoc]

/-- A bad entry is taken from its ring complete (R273). -/
theorem Dev.winFetch_bad {d : Dev} {r : Nat} {raw : Line} (data : List Byte) (bad : List Nat) (hr : d.winHas r)
    (hbad : (d.winNext r raw).bad = true) :
    d.winFetch r raw data bad = (d.winPop r).winAdd (d.winNext r raw).rejected := by
  obtain ⟨hready, hup, hen, hne⟩ := hr
  unfold Dev.winFetch
  dsimp only
  rw [← Dev.winNext, if_neg (by simp [hready, hup, hen, hne]), if_neg (by simp [hbad]), if_pos hbad, Dev.emitRead_eq,
    memReads_entry]
  rfl

/-- An uncached LOAD or a STORE that may issue and whose lines find slots is taken from its ring, a STORE's lines are read
from the host, and every line is issued (R272). -/
theorem Dev.winFetch_issue {d : Dev} {r : Nat} {raw : Line} {data : List Byte} (bad : List Nat) {slots : List Nat}
    (hr : d.winHas r) (hgood : (d.winNext r raw).bad = false) (hop : (d.winNext r raw).op < 2)
    (hdata : (d.winNext r raw).op = 1 → data.length = 64 * (d.winNext r raw).count)
    (hcached : (d.winNext r raw).cached = false) (hslots : d.winFree (d.winNext r raw).count = some slots)
    (hord : (d.winNext r raw).ordered = true → ∀ x ∈ d.win.entries, x.ring = r → x.complete = true) :
    d.winFetch r raw data bad =
      let x := (d.winPopAll r raw data).winIssueAll (d.winNext r raw) data bad (List.range (d.winNext r raw).count) slots
      (x.1.winAdd { d.winNext r raw with lines := x.2 }).pump := by
  obtain ⟨hready, hup, hen, hne⟩ := hr
  have hissue : ¬(((d.winNext r raw).ordered || (d.winNext r raw).op == 2) &&
      d.win.entries.any (fun x => x.ring == r && !x.complete)) = true := by
    rw [beq_eq_false_iff_ne.mpr (by omega : (d.winNext r raw).op ≠ 2), Bool.or_false]
    simpa using hord
  unfold Dev.winFetch Dev.winPopAll
  dsimp only
  rw [← Dev.winNext, if_neg (by simp [hready, hup, hen, hne]), if_neg (fun ⟨hstore, _, hlen⟩ => hlen (hdata hstore)),
    if_neg (by simp [hgood]), if_neg hissue]
  simp only [show (d.winNext r raw).op ≠ 2 by omega, if_false, false_and, Dev.winHits, hcached, Bool.false_eq_true,
    List.length_nil, Nat.sub_zero, hslots]
  by_cases hstore : (d.winNext r raw).op = 1
  · simp only [hstore, if_true, Dev.emitRead_eq, memReads_entry]
    rfl
  · simp only [hstore, if_false, Dev.emitRead_eq, memReads_entry, List.append_nil]
    rfl

/-- A ring's head moves to the next place, modulo the ring's size. -/
theorem Dev.winPop_head (d : Dev) (r : Nat) :
    (d.winPop r).f .WIN_RING_HEAD_HEAD r = (d.f .WIN_RING_HEAD_HEAD r + 1) % d.winSize r := by
  have hlog : d.f .WIN_RING_CFG_SIZE_LOG2 r < 2 ^ 4 := Nat.mod_lt _ (by decide)
  have hsize : d.winSize r ≤ 2 ^ 15 := Nat.pow_le_pow_right (by decide) (by omega)
  have hpos : 0 < d.winSize r := Nat.two_pow_pos _
  rw [Dev.winPop, Dev.f_setF_same _ _ _ _ _ (by decide)]
  exact Nat.mod_eq_of_lt ((Nat.mod_lt _ hpos).trans_le (hsize.trans (by decide)))

/-- Entries put in progress and shown in OUTSTANDING leave the ring's head. -/
theorem Dev.winAdd_head (d : Dev) (w : WinEntry) :
    (d.winAdd w).f .WIN_RING_HEAD_HEAD w.ring = d.f .WIN_RING_HEAD_HEAD w.ring :=
  Dev.f_setF_apart _ .WIN_RING_HEAD_OUTSTANDING .WIN_RING_HEAD_HEAD _ _ _ rfl (by decide) (by decide)

/-- An entry put in progress leaves the count. -/
theorem Dev.winAdd_count (d : Dev) (w : WinEntry) : (d.winAdd w).count = d.count := Dev.count_setF _ _ _ _ _ (by decide)

/-- An entry's reading leaves the count. -/
theorem Dev.winPop_count (d : Dev) (r : Nat) : (d.winPop r).count = d.count := Dev.count_setF _ _ _ _ _ (by decide)

/-- Requests have joined the billets that wait for the Switch Core, cached copies may have been dropped, and nothing else has
changed. -/
structure Dev.requestsLeft (d e : Dev) : Prop where
  rest : { e with fab := d.fab, win := d.win } = d
  entries : e.win.entries = d.win.entries

theorem Dev.requestsLeft.trans {d m e : Dev} (h : d.requestsLeft m) (h' : m.requestsLeft e) : d.requestsLeft e where
  rest := (congrArg (fun x : Dev => { x with fab := d.fab, win := d.win }) h'.rest).trans h.rest
  entries := h'.entries.trans h.entries

/-- A line of an uncached LOAD or a STORE takes the next slot, and its request waits for the Switch Core (R272, R277). -/
theorem Dev.winIssue_uncached {d : Dev} {e : WinEntry} (data : List Byte) (bad : List Nat) (i slot : Nat) (slots : List Nat)
    (hcached : e.cached = false) (hop : e.op < 2) :
    d.requestsLeft (d.winIssue e data bad i (slot :: slots)).1 ∧
    (d.winIssue e data bad i (slot :: slots)).2 = (⟨some slot, none, []⟩, slots) := by
  have hne : e.op ≠ 2 := by omega
  simp only [Dev.winIssue, hcached, Bool.false_eq_true, if_false, hne]
  by_cases hstore : e.op = 1
  · rw [if_pos hstore]
    exact ⟨⟨rfl, rfl⟩, trivial⟩
  · rw [if_neg hstore]
    exact ⟨⟨rfl, rfl⟩, trivial⟩

/-- Every line of an uncached LOAD or a STORE takes a slot of its own, first line first (R272). -/
theorem Dev.winIssueAll_uncached {e : WinEntry} (data : List Byte) (bad : List Nat) (hcached : e.cached = false)
    (hop : e.op < 2) (is slots : List Nat) (hlen : slots.length = is.length) (d : Dev) :
    d.requestsLeft (d.winIssueAll e data bad is slots).1 ∧
    (d.winIssueAll e data bad is slots).2.map WinLine.slot = slots.map some := by
  induction is generalizing slots d with
  | nil =>
    obtain rfl := List.length_eq_zero_iff.mp hlen
    exact ⟨⟨rfl, rfl⟩, rfl⟩
  | cons i is ih =>
    cases slots with
    | nil => cases hlen
    | cons slot slots =>
      obtain ⟨hone, hline⟩ := d.winIssue_uncached data bad i slot slots hcached hop
      obtain ⟨hrest, hlines⟩ := ih slots (Nat.succ.inj hlen) (d.winIssue e data bad i (slot :: slots)).1
      simp only [Dev.winIssueAll, hline]
      exact ⟨hone.trans hrest, by rw [List.map_cons, List.map_cons, hlines]⟩

/-- The slots found for an entry's lines are as many as the lines. -/
theorem Dev.winFree_length {d : Dev} {n : Nat} {slots : List Nat} (h : d.winFree n = some slots) : slots.length = n := by
  unfold Dev.winFree at h
  split at h
  · next hn =>
    cases h
    exact hn.symm
  · dsimp only at h
    split at h
    · next hn =>
      cases h
      exact hn
    · cases h

/-- A bad entry's result: BAD_DESCRIPTOR, DONE 0 (R273). -/
theorem WinEntry.rejected_result (e : WinEntry) (count : Nat) :
    e.rejected.result count = leBytes 1 Status.badDescriptor.num ++ [1] ++ leBytes 6 0 ++ leBytes 8 0 ++ leBytes 8 count ++
      leBytes 8 0 := rfl

/-- WIN_ENTRY_FETCH of a bad entry completes it with nothing sent (R273). -/
theorem winEntryFetch_bad_completes {s : State} {r : Fin 16} {raw : Line} (data : List Byte) (bad : List (Fin 64))
    (hstalled : s.dev.stalled = false) (hr : s.dev.winHas r) (hbad : (s.dev.winNext r raw).bad = true) :
    Completes (.winEntryFetch r raw data bad) s (fun e =>
      e.f .WIN_RING_HEAD_HEAD r = (s.dev.f .WIN_RING_HEAD_HEAD r + 1) % s.dev.winSize r ∧ e.fab = s.dev.fab ∧
      e.mem = s.dev.mem ∧ e.out = s.dev.out ++ [.memRead (s.dev.winNext r raw).host 64] ∧
      e.win.entries = s.dev.win.entries ++ [(s.dev.winNext r raw).rejected] ∧
      (s.dev.winNext r raw).rejected.complete = true ∧ s.dev.noneEnds e ∧
      (s.dev.winNext r raw).rejected.result s.dev.count = leBytes 1 Status.badDescriptor.num ++ [1] ++ leBytes 6 0 ++
        leBytes 8 0 ++ leBytes 8 s.dev.count ++ leBytes 8 0) := by
  refine Completes.of_engine (g := fun d => d.winFetch r raw data (bad.map Fin.val)) rfl hstalled ?_
  rw [Dev.winFetch_bad data _ hr hbad]
  refine ⟨?_, rfl, rfl, rfl, rfl, rfl, Dev.noneEnds_of_eq rfl rfl ?_, WinEntry.rejected_result _ _⟩
  · exact (Dev.winAdd_head _ (s.dev.winNext r raw).rejected).trans (s.dev.winPop_head r)
  · exact (Dev.winAdd_count _ _).trans (s.dev.winPop_count r)

/-- WIN_ENTRY_FETCH of an uncached LOAD or a STORE puts it in progress, each line awaiting a slot (R272). -/
theorem winEntryFetch_issue_completes {s : State} {r : Fin 16} {raw : Line} {data : List Byte} (bad : List (Fin 64))
    {slots : List Nat} (hstalled : s.dev.stalled = false) (hr : s.dev.winHas r)
    (hgood : (s.dev.winNext r raw).bad = false) (hop : (s.dev.winNext r raw).op < 2)
    (hdata : (s.dev.winNext r raw).op = 1 → data.length = 64 * (s.dev.winNext r raw).count)
    (hcached : (s.dev.winNext r raw).cached = false) (hslots : s.dev.winFree (s.dev.winNext r raw).count = some slots)
    (hord : (s.dev.winNext r raw).ordered = true → ∀ x ∈ s.dev.win.entries, x.ring = r → x.complete = true) :
    Completes (.winEntryFetch r raw data bad) s (fun e =>
      e.f .WIN_RING_HEAD_HEAD r = (s.dev.f .WIN_RING_HEAD_HEAD r + 1) % s.dev.winSize r ∧ e.mem = s.dev.mem ∧
      s.dev.noneEnds e ∧
      e.out = s.dev.out ++ [.memRead (s.dev.winNext r raw).host 64] ++
        (if (s.dev.winNext r raw).op = 1 then memReads ((s.dev.winNext r raw).hostAddr 0) data.length else []) ∧
      ∃ ls, e.win.entries = s.dev.win.entries ++ [{ s.dev.winNext r raw with lines := ls }] ∧
        ls.map WinLine.slot = slots.map some) := by
  refine Completes.of_engine (g := fun d => d.winFetch r raw data (bad.map Fin.val)) rfl hstalled ?_
  rw [Dev.winFetch_issue _ hr hgood hop hdata hcached hslots hord]
  obtain ⟨hmoves, hlines⟩ := Dev.winIssueAll_uncached data (bad.map Fin.val) hcached hop
    (List.range (s.dev.winNext r raw).count) slots ((s.dev.winFree_length hslots).trans List.length_range.symm)
    (s.dev.winPopAll r raw data)
  generalize (s.dev.winPopAll r raw data).winIssueAll _ data _ _ slots = x at hmoves hlines ⊢
  obtain ⟨m, ls⟩ := x
  dsimp only at hmoves hlines ⊢
  have hpump := Dev.switchMoves.pump (m.winAdd { s.dev.winNext r raw with lines := ls })
  have hcmds : m.cmds = s.dev.cmds := (congrArg Dev.cmds hmoves.rest :)
  have hmem : m.mem = s.dev.mem := (congrArg Dev.mem hmoves.rest :)
  have hcount : m.count = s.dev.count := (congrArg Dev.count hmoves.rest :).trans (s.dev.winPop_count r)
  have hhead : m.f .WIN_RING_HEAD_HEAD r = (s.dev.f .WIN_RING_HEAD_HEAD r + 1) % s.dev.winSize r :=
    (congrArg (fun d => d.f .WIN_RING_HEAD_HEAD r) hmoves.rest :).trans (s.dev.winPop_head r)
  refine ⟨?_, hpump.mem.trans hmem, Dev.noneEnds_of_eq (hpump.cmds.trans hcmds) (hpump.mem.trans hmem) ?_, ?_, ls, ?_, hlines⟩
  · exact (hpump.f _ _ (by decide)).trans ((m.winAdd_head _).trans hhead)
  · exact hpump.count.trans ((m.winAdd_count _).trans hcount)
  · exact hpump.out.trans (congrArg Dev.out hmoves.rest :)
  · rw [Dev.settle_win, hpump.win]
    exact congrArg (fun es => es ++ [{ s.dev.winNext r raw with lines := ls }]) hmoves.entries

/-! ## The requester's commands -/

/-- Settles O56: R273's cases are those that the fetch checks, an issued line's slot leaves only with its response or its
ring's ABORT, and the Switch Core's own moves reach none of what the statement speaks of. -/
theorem windowRequester : Obligations.WindowRequester := by
  unfold Obligations.WindowRequester
  intro s
  refine ⟨fun hstalled => ⟨?_, ?_, ?_⟩, abort_completes s⟩
  · intro r raw data bad hready hup hen hne
    have hr : s.dev.winHas r := ⟨hready, hup, hen, hne⟩
    refine ⟨fun hbad => ?_, fun slots hgood hop hdata hcached hslots hord => ?_⟩
    · exact winEntryFetch_bad_completes data bad hstalled hr ((WinEntry.bad_iff _).mpr hbad)
    · exact winEntryFetch_issue_completes bad hstalled hr hgood hop hdata hcached hslots hord
  · exact fun a ha => ⟨winResponse_late_completes hstalled ha, fun w i => winResponse_line_completes hstalled ha⟩
  · exact fun r w => winEntryComplete_completes s r w hstalled

end Sys2Proof.Machine
end

section
/-! PROOFS. What every step does: an effect on the device followed by the output balls, whatever waits (logs 90, 118). -/

namespace Sys2Proof.Machine

/-- The device after a command on an empty queue; a command that answered no next state would leave it. -/
def Instr.effect (i : Instr) (d : Dev) : Dev :=
  match exec i { dev := d, pending := [] } with
  | .next t => t.dev
  | _ => d

/-- Every command's meaning is its effect on the device alone, whatever waits behind it. -/
theorem exec_eq_effect (i : Instr) (s : State) : exec i s = .next { dev := Instr.effect i s.dev, pending := s.pending } := by
  cases i <;> rfl

/-- Every command ends with the settling of the output balls. -/
theorem effect_settled (i : Instr) (d : Dev) : ∃ e : Dev, Instr.effect i d = e.settle := by
  cases i <;> exact ⟨_, rfl⟩

/-- Settled output balls show what they must. -/
theorem Dev.settle_pinsOk (d : Dev) : d.settle.pinsOk := by
  refine ⟨rfl, fun h => ?_, fun h => ?_⟩
  · simp only [Dev.settle, Bool.and_eq_true, Bool.not_eq_true', decide_eq_true_eq] at h
    exact ⟨h.1.1, h.2⟩
  · simp only [Dev.settle, Bool.and_eq_true, Bool.not_eq_true'] at h
    exact h.1

/-- A command leaves the output balls right, whatever they were. -/
theorem exec_pinsOk {i : Instr} {s t : State} (h : exec i s = .next t) : t.dev.pinsOk := by
  rw [exec_eq_effect] at h
  obtain ⟨e, he⟩ := effect_settled i s.dev
  cases h
  exact he ▸ e.settle_pinsOk

/-- Settles O4: every command ends with the settling of the balls, and an idle step keeps them. -/
theorem stepKeepsPins : Obligations.StepKeepsPins := by
  unfold Obligations.StepKeepsPins
  intro s t hs h
  unfold step at h
  split at h
  · cases h
    exact hs
  · exact exec_pinsOk h

/-- Settles O2: a command's effect is on the device alone, so the queue behind it neither changes nor matters. -/
theorem execKeepsQueue : Obligations.ExecKeepsQueue := by
  unfold Obligations.ExecKeepsQueue
  intro i s t h
  rw [exec_eq_effect] at h
  cases h
  exact ⟨rfl, fun q => exec_eq_effect i _⟩

/-- Settles O1: a step takes the front command off the queue and runs it, and an empty queue idles. -/
theorem stepRunsFrontCommand : Obligations.StepRunsFrontCommand := by
  unfold Obligations.StepRunsFrontCommand
  intro s c
  refine ⟨rfl, fun h => ?_⟩
  unfold step
  rw [h]

/-- Settles O3: nothing is listed at reset, so every register reads its reset value. -/
theorem resetState : Obligations.ResetState := by
  unfold Obligations.ResetState
  refine ⟨⟨rfl, ?_, ?_⟩, rfl, fun _ _ _ => rfl, rfl, reset_memory_wf, rfl, ?_⟩
  · exact fun h => by cases h
  · exact fun h => by cases h
  · exact ⟨rfl, rfl, rfl, rfl, rfl, rfl, rfl, rfl, rfl, rfl, rfl, rfl, rfl, rfl, rfl, rfl, rfl, rfl, rfl, rfl, rfl, rfl, rfl, rfl,
      rfl, rfl, rfl, rfl, rfl⟩

/-- A row completes with its effect, followed by the output balls. -/
theorem Completes.of_act {i : Instr} {s : State} {g : Dev → Dev} {P : Dev → Prop} (hexec : exec i s = s.act g)
    (h : P (g s.dev).settle) : Completes i s P :=
  ⟨_, hexec.trans (State.act_eq s g), rfl, h⟩

/-- A misaligned write meets no register (log 11). -/
theorem csWrite_misaligned_completes (s : State) (ap : Aperture) (addr : BitVec 28) (wide : Bool) (v : BitVec 64)
    (h : aligned addr.toNat wide = false) : Completes (.csWrite ap addr wide v) s (fun e => s.dev.same e) := by
  refine ⟨_, rfl, rfl, ?_⟩
  simp only [h]
  exact Dev.same_settle s.dev

/-- A misaligned read answers zero, of the access's width (log 11). -/
theorem csRead_misaligned_completes (s : State) (ap : Aperture) (addr : BitVec 28) (wide : Bool)
    (h : aligned addr.toNat wide = false) (hup : s.dev.hostUp = true) :
    Completes (.csRead ap addr wide) s (fun e =>
      e = { s.dev with pins := e.pins, out := s.dev.out ++ [.readData (if wide then 8 else 4) 0] }) := by
  refine ⟨_, rfl, rfl, ?_⟩
  simp only [h, Dev.csReadOff, hup]
  rfl

/-- Settles O9: an access off its boundary is tested before control space is reached. -/
theorem misalignedAccessMeetsNoRegister : Obligations.MisalignedAccessMeetsNoRegister := by
  unfold Obligations.MisalignedAccessMeetsNoRegister
  intro s ap addr wide v
  refine ⟨fun h => ?_, fun _ => ⟨⟨_, exec_eq_effect _ s⟩, _, exec_eq_effect _ s⟩⟩
  have hoff : aligned addr.toNat wide = false := by simpa [aligned] using h
  exact ⟨csWrite_misaligned_completes s ap addr wide v hoff, csRead_misaligned_completes s ap addr wide hoff⟩

end Sys2Proof.Machine
end

section
/-! PROOFS. Registers and their fields under the operations of control space: frames, plain writes and fields written. -/

namespace Sys2Proof.Machine

/-! ## What registers are left as they were -/

/-- No register has changed. -/
theorem Dev.regsBut.refl (d : Dev) (l : List Nat) : d.regsBut d l := fun _ _ _ _ => rfl

/-- A register of the list is set. -/
theorem Dev.regsBut.setReg {d e : Dev} {l : List Nat} (h : d.regsBut e l) {r : Reg} (v : BitVec 64) {i j : Nat}
    (hm : r.code i j ∈ l) : d.regsBut (e.setReg r v i j) l := by
  intro r' i' j' hn
  have hc : r'.code i' j' ≠ r.code i j := fun hc => hn (by rwa [hc])
  rw [Dev.reg_setReg, if_neg hc, h r' i' j' hn]

/-- A field of a register of the list is set. -/
theorem Dev.regsBut.setF {d e : Dev} {l : List Nat} (h : d.regsBut e l) {f : Fld} (n : Nat) {i j : Nat}
    (hm : f.reg.code i j ∈ l) : d.regsBut (e.setF f n i j) l := h.setReg _ hm

/-- A counter of a register of the list is advanced. -/
theorem Dev.regsBut.addF {d e : Dev} {l : List Nat} (h : d.regsBut e l) {f : Fld} (n : Nat) {i j : Nat}
    (hm : f.reg.code i j ∈ l) : d.regsBut (e.addF f n i j) l := h.setReg _ hm

/-- A register of the list is written plainly. -/
theorem Dev.regsBut.plainWrite {d e : Dev} {l : List Nat} (h : d.regsBut e l) {r : Reg} (v : BitVec 64) {i j : Nat}
    (hm : r.code i j ∈ l) : d.regsBut (e.plainWrite r v i j) l := h.setReg _ hm

/-- Frames with the same registers agree. -/
theorem Dev.regsBut.congr {d e e' : Dev} {l : List Nat} (h : d.regsBut e l) (he : e'.regs = e.regs) : d.regsBut e' l := by
  intro r i j hn
  have hr : e'.reg r i j = e.reg r i j := by unfold Dev.reg; rw [he]
  rw [hr, h r i j hn]

/-- The settling of the balls changes no register. -/
theorem Dev.regsBut.settle {d e : Dev} {l : List Nat} (h : d.regsBut e l) : d.regsBut e.settle l := h

theorem Dev.regsBut.trans {d m e : Dev} {l : List Nat} (h : d.regsBut m l) (h' : m.regsBut e l) : d.regsBut e l :=
  fun r i j hn => (h' r i j hn).trans (h r i j hn)

theorem Dev.regsBut.mono {d e : Dev} {l l' : List Nat} (h : d.regsBut e l) (hl : l ⊆ l') : d.regsBut e l' :=
  fun r i j hn => h r i j (fun hm => hn (hl hm))

/-! ## Accesses that a register accepts -/

/-- A register takes the writes of an aperture where control space can be reached, no warm reset is in progress and the
aperture suffices. -/
theorem Dev.accepts_iff {d : Dev} {ap : Aperture} {r : Reg} {i : Nat} :
    d.accepts ap r i = true ↔ d.hostUp = true ∧ d.flag .DEV_STATUS_WARM_BUSY = false ∧ d.mayWrite ap r i = true := by
  simp [Dev.accepts, and_assoc]

/-- An accepted write has the register's own action. -/
theorem Dev.hostWrite_accepted {d : Dev} {ap : Aperture} {r : Reg} {i j : Nat} {g : Dev → Dev}
    (h : d.accepts ap r i = true) : d.hostWrite ap r i j g = g d := by
  obtain ⟨hup, hbusy, hmay⟩ := Dev.accepts_iff.mp h
  exact d.hostWrite_ok ap r i j g hup hbusy hmay

/-- A write through an aperture that does not suffice is refused. -/
theorem Dev.hostWrite_refused {d : Dev} {ap : Aperture} {r : Reg} {i j : Nat} {g : Dev → Dev} (hup : d.hostUp = true)
    (hbusy : d.flag .DEV_STATUS_WARM_BUSY = false) (hmay : d.mayWrite ap r i = false) :
    d.hostWrite ap r i j g = d.refuse ap (r.addrOf i j) true := by
  simp [Dev.hostWrite, hup, hbusy, hmay]

/-- Which accesses are accepted depends on start-up, the host link and the registers of start-up and of the submission
queues' bindings. -/
theorem Dev.accepts_congr {d e : Dev} (ap : Aperture) (r : Reg) (i : Nat) (hboot : e.boot = d.boot)
    (hlink : e.link.up = d.link.up)
    (hreg : ∀ r ∈ [Reg.DEV_STATUS, .CMD_SQ_CFG, .CMD_SQ_CTRL], ∀ i j, e.reg r i j = d.reg r i j) :
    e.accepts ap r i = d.accepts ap r i := by
  have hf : ∀ f : Fld, f.reg ∈ [Reg.DEV_STATUS, .CMD_SQ_CFG, .CMD_SQ_CTRL] → ∀ i j, e.f f i j = d.f f i j :=
    fun f hm i j => congrArg f.of (hreg _ hm i j)
  have hflag : ∀ f : Fld, f.reg ∈ [Reg.DEV_STATUS, .CMD_SQ_CFG, .CMD_SQ_CTRL] → ∀ i j, e.flag f i j = d.flag f i j :=
    fun f hm i j => by simp only [Dev.flag, hf f hm]
  have haq : e.sqAperture = d.sqAperture := funext fun q => by
    simp only [Dev.sqAperture, hf .CMD_SQ_CFG_PRIV (by decide)]
  have hac : e.cqAperture = d.cqAperture := funext fun q => by
    simp only [Dev.cqAperture, hflag .CMD_SQ_CTRL_ENABLE (by decide), hf .CMD_SQ_CFG_CQ (by decide), haq]
  have hmay : e.mayWrite ap r i = d.mayWrite ap r i := by
    unfold Dev.mayWrite
    rw [haq, hac]
  have hup : e.hostUp = d.hostUp := by
    have hstage : e.stage = d.stage := hf .DEV_STATUS_STAGE (by decide) 0 0
    simp only [Dev.hostUp, hstage, hboot, hlink]
  rw [Dev.accepts, Dev.accepts, hup, hmay, hflag .DEV_STATUS_WARM_BUSY (by decide)]

/-- A change of a register that no check reads leaves which accesses are accepted. -/
theorem Dev.accepts_setReg (d : Dev) (ap : Aperture) (r r' : Reg) (v : BitVec 64) (i j k : Nat)
    (h : r' ∉ [Reg.DEV_STATUS, .CMD_SQ_CFG, .CMD_SQ_CTRL]) : (d.setReg r' v i j).accepts ap r k = d.accepts ap r k :=
  Dev.accepts_congr ap r k rfl rfl fun _ hr _ _ => Dev.reg_setReg_ne d v _ _ _ _ (fun he => h (he ▸ hr))

/-! ## Plain writes -/

/-- A plain write acts by the fields' access types (Table 0.4). -/
theorem Dev.plainWrite_eq (d : Dev) {r : Reg} (v : BitVec 64) (i j : Nat) (h : r ≠ .PART_ARRAYS) :
    d.plainWrite r v i j = d.setReg r (written r (d.reg r i j) v) i j := by
  simp [Dev.plainWrite, Reg.rwBits, h, written]

@[simp] theorem Dev.plainWrite_link (d : Dev) (r : Reg) (v : BitVec 64) (i j : Nat) : (d.plainWrite r v i j).link = d.link :=
  rfl

/-- A field's bits are bits lo to lo + width of its register. -/
theorem Fld.of_congr (f : Fld) {v w : BitVec 64} (h : ∀ k, f.lo ≤ k → k < f.lo + f.width → v.getLsbD k = w.getLsbD k) :
    f.of v = f.of w := by
  apply Nat.eq_of_testBit_eq
  intro k
  rw [Fld.of_bit, Fld.of_bit]
  by_cases hk : k < f.width
  · rw [h (f.lo + k) (by omega) (by omega)]
  · simp [hk]

/-- A field lies within a mask. -/
def Fld.within (f : Fld) (m : BitVec 64) : Bool := f.lo + f.width ≤ 64 && f.mask &&& m == f.mask

theorem Fld.within_bit {f : Fld} {m : BitVec 64} (h : f.within m = true) {k : Nat} (hlo : f.lo ≤ k) (hk : k < f.lo + f.width) :
    m.getLsbD k = true := by
  simp only [Fld.within, Bool.and_eq_true, decide_eq_true_eq, beq_iff_eq] at h
  have hm := f.mask_bit k h.1
  have hand := congrArg (fun x => x.getLsbD k) h.2
  simp only [BitVec.getLsbD_and, hm, hlo, hk, and_self, decide_true, Bool.true_and] at hand
  exact hand

/-- A field of RW bits takes the written value. -/
theorem Fld.of_written (f : Fld) (r : Reg) (old v : BitVec 64)
    (h : f.within (BitVec.ofNat 64 r.spec.rw &&& ~~~(BitVec.ofNat 64 r.spec.w1c)) = true) : f.of (written r old v) = f.of v := by
  refine f.of_congr fun k hlo hk => ?_
  have hb := Fld.within_bit h hlo hk
  simp only [BitVec.getLsbD_and, BitVec.getLsbD_not, Bool.and_eq_true, Bool.not_eq_true'] at hb
  obtain ⟨hrw, hlt, hw1c⟩ := hb
  have hlt : k < 64 := by simpa using hlt
  simp [written, BitVec.getLsbD_and, BitVec.getLsbD_or, BitVec.getLsbD_not, hrw, hw1c, hlt, -BitVec.getLsbD_eq_getElem]

/-- A field of RW bits of a register written plainly takes the written value. -/
theorem Dev.f_plainWrite (d : Dev) (f : Fld) (v : BitVec 64) (i j : Nat) (hr : f.reg ≠ .PART_ARRAYS)
    (h : f.within (BitVec.ofNat 64 f.reg.spec.rw &&& ~~~(BitVec.ofNat 64 f.reg.spec.w1c)) = true) :
    (d.plainWrite f.reg v i j).f f i j = f.of v := by
  rw [Dev.plainWrite_eq d v i j hr, Dev.f, Dev.reg_setReg_same, f.of_written _ _ _ h]

/-- A plain write leaves the fields of other registers. -/
theorem Dev.f_plainWrite_ne (d : Dev) {r : Reg} (g : Fld) (v : BitVec 64) (i j i' j' : Nat) (h : g.reg ≠ r) :
    (d.plainWrite r v i j).f g i' j' = d.f g i' j' :=
  congrArg g.of (Dev.reg_setReg_ne d _ i j i' j' h)

/-- A flag set to 1. -/
theorem Dev.flag_of_one {d : Dev} {f : Fld} {i j : Nat} (h : d.f f i j = 1) : d.flag f i j = true := by
  simp [Dev.flag, h]

/-- A flag set to 0. -/
theorem Dev.flag_of_zero {d : Dev} {f : Fld} {i j : Nat} (h : d.f f i j = 0) : d.flag f i j = false := by
  simp [Dev.flag, h]

/-- A field takes a value that fits it. -/
theorem Dev.f_setF_fit (d : Dev) (f : Fld) {n : Nat} (i j : Nat) (h : f.lo + f.width ≤ 64) (hn : n < 2 ^ f.width) :
    (d.setF f n i j).f f i j = n := by
  rw [Dev.f_setF_same d f n i j h, Nat.mod_eq_of_lt hn]

/-- A field's value fits it. -/
theorem Dev.f_lt (d : Dev) (f : Fld) (i j : Nat) : d.f f i j < 2 ^ f.width := Nat.mod_lt _ (Nat.two_pow_pos _)

/-! ## Nothing but registers and output balls -/

theorem Dev.restSame.refl (d : Dev) : d.restSame d := rfl

/-- A register is set. -/
theorem Dev.restSame.setReg {d e : Dev} (h : d.restSame e) (r : Reg) (v : BitVec 64) (i j : Nat) :
    d.restSame (e.setReg r v i j) :=
  (congrArg (fun x : Dev => { x with regs := (e.setReg r v i j).regs }) h :)

/-- A field is set. -/
theorem Dev.restSame.setF {d e : Dev} (h : d.restSame e) (f : Fld) (n i j : Nat) : d.restSame (e.setF f n i j) :=
  h.setReg _ _ _ _

/-- A register is written plainly. -/
theorem Dev.restSame.plainWrite {d e : Dev} (h : d.restSame e) (r : Reg) (v : BitVec 64) (i j : Nat) :
    d.restSame (e.plainWrite r v i j) := h.setReg _ _ _ _

/-- The balls settle. -/
theorem Dev.restSame.settle {d e : Dev} (h : d.restSame e) : d.restSame e.settle :=
  (congrArg (fun x : Dev => { x with pins := e.settle.pins }) h :)

/-- A refusal by a register's own rule reports the register's offset and changes no register. -/
theorem Dev.refuse_posted (d : Dev) (ap : Aperture) (addr : Nat) (w : Bool) :
    d.posted (d.refuse ap addr w) .FAULT_PROT (fun r => r.address = addr ∧ r.index = apNum ap + 256 * b2n w ∧
      r.source = blockOf addr) :=
  ⟨_, rfl, rfl, rfl, rfl, rfl, rfl, rfl⟩

theorem Dev.posted.mono {d e : Dev} {c : Code} {P Q : Report → Prop} (h : d.posted e c P) (hpq : ∀ r, P r → Q r) :
    d.posted e c Q := by
  obtain ⟨r, hheld, hcode, hseq, hcount, hp⟩ := h
  exact ⟨r, hheld, hcode, hseq, hcount, hpq r hp⟩

/-- The settling of the balls leaves what has been posted. -/
theorem Dev.posted.settle {d e : Dev} {c : Code} {P : Report → Prop} (h : d.posted e c P) : d.posted e.settle c P := h

end Sys2Proof.Machine
end

section
/-! PROOFS. Reads and writes of control space: refused, plain, in halves and wide (R10, R11, R13, R42). -/

namespace Sys2Proof.Machine

/-! ## What an address names -/

/-- The register found at an address has the address. -/
theorem Reg.addrOf_instAt {r : Reg} {a : Nat} {x : Nat × Nat} (h : r.instAt a = some x) : r.addrOf x.1 x.2 = a := by
  simp only [Reg.instAt, Option.ite_none_right_eq_some, Option.some.injEq] at h
  obtain ⟨⟨hle, -, -, hoff⟩, rfl⟩ := h
  simp only [Reg.addrOf]
  omega

/-- The place found is one of the register's. -/
theorem Reg.instAt_lt {r : Reg} {a : Nat} {x : Nat × Nat} (h : r.instAt a = some x) : x.1 < r.spec.n1 ∧ x.2 < r.spec.n2 := by
  simp only [Reg.instAt, Option.ite_none_right_eq_some, Option.some.injEq] at h
  obtain ⟨⟨-, hi, hj, -⟩, rfl⟩ := h
  exact ⟨hi, hj⟩

theorem regAt_instAt {a : Nat} {k : RegInst} (h : regAt a = some k) : k.reg.instAt a = some (k.i, k.j) := by
  obtain ⟨r, -, hr⟩ := List.exists_of_findSome?_eq_some h
  obtain ⟨x, hx, rfl⟩ := Option.map_eq_some_iff.mp hr
  exact hx

/-- A 32-bit register, or a low half, is found at its own address. -/
theorem halfAt_regAt {a : Nat} {k : RegInst} (h : halfAt a = .narrow k ∨ halfAt a = .low k) : regAt a = some k := by
  unfold halfAt at h
  cases hk : regAt a with
  | none =>
    simp only [hk] at h
    obtain h | h := h <;> split at h <;> (try split at h) <;> cases h
  | some m =>
    simp only [hk] at h
    obtain h | h := h <;> split at h <;> cases h <;> rfl

/-! ## Accesses -/

/-- An aligned write is the access of its width. -/
theorem exec_csWrite_aligned (s : State) (ap : Aperture) (addr : BitVec 28) (wide : Bool) (v : BitVec 64)
    (ha : addr.toNat % (if wide then 8 else 4) = 0) :
    exec (.csWrite ap addr wide v) s = s.act (fun d => d.csWrite ap addr.toNat wide v) := by
  simp [exec_csWrite, execCsWrite, aligned, ha]

/-- An aligned read is the access of its width. -/
theorem exec_csRead_aligned (s : State) (ap : Aperture) (addr : BitVec 28) (wide : Bool)
    (ha : addr.toNat % (if wide then 8 else 4) = 0) :
    exec (.csRead ap addr wide) s = s.act (fun d => d.csRead ap addr.toNat wide) := by
  simp [exec_csRead, execCsRead, aligned, ha]

/-- A read may be made where control space can be reached, no warm reset is in progress and the aperture may read. -/
theorem Dev.answers_iff {d : Dev} {ap : Aperture} {addr : Nat} :
    d.answers ap addr = true ↔ d.hostUp = true ∧ d.flag .DEV_STATUS_WARM_BUSY = false ∧ mayRead ap addr = true := by
  simp [Dev.answers, and_assoc]

/-! ## Refused writes -/

/-- A refusal changes the reports alone. -/
theorem Dev.refuse_rest (d : Dev) (ap : Aperture) (addr : Nat) (w : Bool) :
    d.refuse ap addr w = { d with link := (d.refuse ap addr w).link } := rfl

/-- Settles O5: the aperture check comes before the register's own action, and its refusal is a report at the address that
named the register. -/
theorem refusedWriteReported : Obligations.RefusedWriteReported := by
  unfold Obligations.RefusedWriteReported
  intro s ap addr v k ha hk hup hbusy hmay
  have haddr := Reg.addrOf_instAt (regAt_instAt (halfAt_regAt (.inl hk)))
  have hw : s.dev.write32 ap addr.toNat (v.truncate 32) = s.dev.refuse ap addr.toNat true := by
    simp only [Dev.write32, hk, Dev.hostWrite_refused hup hbusy hmay, haddr]
  refine ⟨_, exec_csWrite_narrow s ap addr v ha, ?_, rfl, ?_⟩
  · simp only [hw]
    rfl
  · simp only [hw]
    exact (s.dev.refuse_posted ap addr.toNat true).settle

/-! ## Plain writes -/

/-- The registers without a rule of their own that 32-bit and joined writes are shown on. -/
def plainRegs : List Reg :=
  [.RING_DELAY_SEL, .RING_BIN_CFG, .PART_SHARE, .PART_STATUS, .SV_CTRL, .SV_MODEL, .XE_STALL, .MA_BR_HSEL, .TIER_SCRUB,
    .TIER_DEADLINE, .WIN_STALL, .COLL_STALL, .ARB_TICKETS, .PART_DET_EVENTS, .ERR_REPLACE, .SEC_CERT_SEL, .RING_BFWD_MASK_LO,
    .MA_FMT_SEED, .TIER_QUOTA, .XU_ROOT, .XU_FAULT, .FAB_RANKTAB, .WIN_TAB, .ERR_THRESH0, .ARB_BITE_LAST, .COLL_SUSP_LAST,
    .SEC_FLASH_SRC, .SV_GRANT_STALL, .FAB_ROUTE_CFG, .FAB_TRAY_VIA, .ARB_CFG, .ARB_SEED, .ARB_FIXED, .ARB_WDOG_MEM,
    .ARB_WDOG_ENG]

/-- No bit of a plain register is both RW and W1C. -/
theorem plainRegs_apart : ∀ r ∈ plainRegs, BitVec.ofNat 64 r.spec.rw &&& BitVec.ofNat 64 r.spec.w1c = 0 := by decide

/-- A register without a rule of its own acts by its fields' access types. -/
theorem Dev.regWrite_plain (d : Dev) (ap : Aperture) {k : RegInst} (v : BitVec 64) (h : k.reg ∈ plainRegs) :
    d.regWrite ap k v = d.setReg k.reg (written k.reg (d.reg k.reg k.i k.j) v) k.i k.j := by
  have hne : k.reg ≠ .PART_ARRAYS := fun he => absurd (he ▸ h) (by decide)
  rw [← Dev.plainWrite_eq d v k.i k.j hne]
  obtain ⟨r, i, j⟩ := k
  simp only [plainRegs, List.mem_cons, List.not_mem_nil, or_false] at h
  rcases h with rfl | rfl | rfl | rfl | rfl | rfl | rfl | rfl | rfl | rfl | rfl | rfl | rfl | rfl | rfl | rfl | rfl | rfl | rfl |
    rfl | rfl | rfl | rfl | rfl | rfl | rfl | rfl | rfl | rfl | rfl | rfl | rfl | rfl | rfl | rfl <;> rfl

/-- A 32-bit write of a 32-bit register that accepts it has the register's own action. -/
theorem Dev.write32_narrow {d : Dev} {ap : Aperture} {addr : Nat} {k : RegInst} (v : BitVec 32) (hk : halfAt addr = .narrow k)
    (hacc : d.accepts ap k.reg k.i = true) : d.write32 ap addr v = d.regWrite ap k (v.zeroExtend 64) := by
  simp only [Dev.write32, hk, Dev.hostWrite_accepted hacc]

/-- A 32-bit write of a plain register sets it alone. -/
theorem Dev.write32_plain {d : Dev} {ap : Aperture} {addr : Nat} {k : RegInst} (v : BitVec 32) (hk : halfAt addr = .narrow k)
    (hacc : d.accepts ap k.reg k.i = true) (h : k.reg ∈ plainRegs) :
    d.write32 ap addr v = d.setReg k.reg (written k.reg (d.reg k.reg k.i k.j) (v.zeroExtend 64)) k.i k.j := by
  rw [Dev.write32_narrow v hk hacc, Dev.regWrite_plain d ap _ h]

/-- A register of one place is found as place 0. -/
theorem RegInst.zero {a : Nat} {k : RegInst} (h : regAt a = some k) (h1 : k.reg.spec.n1 = 1) (h2 : k.reg.spec.n2 = 1) :
    k.i = 0 ∧ k.j = 0 := by
  obtain ⟨hi, hj⟩ := Reg.instAt_lt (regAt_instAt h)
  dsimp only at hi hj
  omega

/-- A write of FAB_SW_CFG is plain, and may then grant shared slots (R264). -/
theorem Dev.regWrite_swCfg (d : Dev) (ap : Aperture) {a : Nat} {k : RegInst} (v : BitVec 64) (hk : regAt a = some k)
    (h : k.reg = .FAB_SW_CFG) :
    (d.regWrite ap k v).reg k.reg k.i k.j = written k.reg (d.reg k.reg k.i k.j) v := by
  obtain ⟨hi, hj⟩ := RegInst.zero hk (by rw [h]; rfl) (by rw [h]; rfl)
  obtain ⟨r, i, j⟩ := k
  obtain rfl : r = .FAB_SW_CFG := h
  obtain rfl : i = 0 := hi
  obtain rfl : j = 0 := hj
  have hgrant := (Dev.slotsMove.grantAll (d.plainWrite .FAB_SW_CFG v)).reg .FAB_SW_CFG 0 0 (by decide)
  exact hgrant.trans (by rw [Dev.plainWrite_eq d v 0 0 (by decide), Dev.reg_setReg_same])

/-- The registers of the statement on plain writes, FAB_SW_CFG among them. -/
def plainListed : List Reg :=
  [.RING_DELAY_SEL, .RING_BIN_CFG, .PART_SHARE, .PART_STATUS, .SV_CTRL, .SV_MODEL, .XE_STALL, .MA_BR_HSEL, .TIER_SCRUB,
    .TIER_DEADLINE, .FAB_SW_CFG, .WIN_STALL, .COLL_STALL, .ARB_TICKETS, .PART_DET_EVENTS, .ERR_REPLACE, .SEC_CERT_SEL]

/-- All of them but FAB_SW_CFG are plain. -/
theorem plain_of_listed {r : Reg} (h : r ∈ plainListed) (hne : r ≠ .FAB_SW_CFG) : r ∈ plainRegs :=
  (by decide : ∀ r ∈ plainListed, r ≠ .FAB_SW_CFG → r ∈ plainRegs) r h hne

/-- Settles O6: a register without a rule of its own is set to what its fields' access types leave of it. -/
theorem plainWriteActsByField : Obligations.PlainWriteActsByField := by
  unfold Obligations.PlainWriteActsByField
  intro s ap addr v k ha hk hreg hacc
  refine ⟨_, exec_csWrite_narrow s ap addr v ha, rfl, ?_, fun hne => ?_⟩
  · by_cases hsw : k.reg = .FAB_SW_CFG
    · dsimp only
      rw [Dev.settle_reg, Dev.write32_narrow _ hk hacc, Dev.regWrite_swCfg _ _ _ (halfAt_regAt (.inl hk)) hsw]
    · have hplain : k.reg ∈ plainRegs := plain_of_listed hreg hsw
      dsimp only
      rw [Dev.settle_reg, Dev.write32_plain _ hk hacc hplain, Dev.reg_setReg_same]
  · have hplain : k.reg ∈ plainRegs := plain_of_listed hreg hne
    dsimp only
    rw [Dev.write32_plain _ hk hacc hplain]
    exact ⟨((Dev.regsBut.refl s.dev _).setReg _ List.mem_cons_self).congr rfl, rfl⟩

/-! ## Reads -/

/-- A read without a side effect answers the register's view. -/
theorem Dev.readReg_view (d : Dev) {r : Reg} (i j : Nat) (h1 : r ≠ .MA_BR_HDATA) (h2 : r ≠ .SEC_CERT) :
    d.readReg r i j = (d, d.view r i j) := by
  unfold Dev.readReg
  split
  · exact absurd rfl h2
  · exact absurd rfl h1
  · rfl

/-- A 32-bit read that may be made reaches what is at the address. -/
theorem Dev.read32_answers {d : Dev} {ap : Aperture} {addr : Nat} (h : d.answers ap addr = true) :
    d.read32 ap addr = d.readHalf (halfAt addr) := by
  obtain ⟨-, hbusy, hmay⟩ := Dev.answers_iff.mp h
  unfold Dev.read32
  split
  · next hn => simp only [hn, Dev.readHalf]
  · simp [hbusy, hmay]

/-- A half kept under a key is found there. -/
theorem getHalf_setHalf_some (l : List (Nat × BitVec 32)) (key : Nat) (v : BitVec 32) :
    getHalf (setHalf l key (some v)) key = some v := by
  have hnone : (l.filter (fun e => e.1 != key)).find? (fun e => e.1 == key) = none := by
    rw [List.find?_eq_none]
    intro x hx
    simpa using (List.mem_filter.mp hx).2
  simp [getHalf, setHalf, List.find?_append, hnone]

/-- A half dropped is found no more. -/
theorem getHalf_setHalf_none (l : List (Nat × BitVec 32)) (key : Nat) : getHalf (setHalf l key none) key = none := by
  simp only [getHalf, setHalf, Option.map_eq_none_iff, List.find?_eq_none]
  intro x hx
  simpa using (List.mem_filter.mp hx).2

/-- A 32-bit read that may be made answers what is at the address. -/
theorem exec_csRead_answers {s : State} {ap : Aperture} {addr : BitVec 28} (ha : addr.toNat % 4 = 0)
    (h : s.dev.answers ap addr.toNat = true) :
    exec (.csRead ap addr false) s =
      s.act (fun d => (d.readHalf (halfAt addr.toNat)).1.emit (.readData 4 (d.readHalf (halfAt addr.toNat)).2)) := by
  rw [exec_csRead_narrow s ap addr ha (Dev.answers_iff.mp h).1, State.act_eq, State.act_eq, Dev.read32_answers h]

/-- A 64-bit read of a 64-bit register answers it whole. -/
theorem exec_csRead_wide {s : State} {ap : Aperture} {addr : BitVec 28} {k : RegInst} (ha : addr.toNat % 8 = 0)
    (h : s.dev.answers ap addr.toNat = true) (hk : halfAt addr.toNat = .low k) (h1 : k.reg ≠ .MA_BR_HDATA)
    (h2 : k.reg ≠ .SEC_CERT) :
    exec (.csRead ap addr true) s = s.act (fun d => d.emit (.readData 8 (d.view k.reg k.i k.j))) := by
  obtain ⟨hup, hbusy, hmay⟩ := Dev.answers_iff.mp h
  rw [exec_csRead_aligned s ap addr true ha, State.act_eq, State.act_eq]
  simp [Dev.csRead, hk, Dev.hostRead_ok _ _ _ _ _ hup hbusy hmay, Dev.readReg_view _ _ _ h1 h2]

/-- A 64-bit read of two 32-bit registers answers both, the one at the lower offset in the lower half. -/
theorem exec_csRead_pair {s : State} {ap : Aperture} {addr : BitVec 28} {k m : RegInst} (ha : addr.toNat % 8 = 0)
    (h : s.dev.answers ap addr.toNat = true) (hk : halfAt addr.toNat = .narrow k) (hm : halfAt (addr.toNat + 4) = .narrow m)
    (h' : s.dev.answers ap (addr.toNat + 4) = true) (hr : ∀ r ∈ [k.reg, m.reg], r ≠ .MA_BR_HDATA ∧ r ≠ .SEC_CERT) :
    exec (.csRead ap addr true) s =
      s.act (fun d => d.emit (.readData 8 (d.view k.reg k.i k.j ||| d.view m.reg m.i m.j <<< 32))) := by
  obtain ⟨hk1, hk2⟩ := hr k.reg (by simp)
  obtain ⟨hm1, hm2⟩ := hr m.reg (by simp)
  rw [exec_csRead_aligned s ap addr true ha, State.act_eq, State.act_eq]
  simp [Dev.csRead, hk, (Dev.answers_iff.mp h).1, Dev.read32_answers h, Dev.read32_answers h', hm, Dev.readHalf,
    Dev.readReg_view _ _ _ hk1 hk2, Dev.readReg_view _ _ _ hm1 hm2]

/-- Settles O7: a read has an effect only on the latched halves. -/
theorem readsAnswer : Obligations.ReadsAnswer := by
  unfold Obligations.ReadsAnswer
  intro s ap addr k ha h
  refine ⟨fun hk h1 h2 => ?_, fun hk h1 h2 => ?_, fun v hk hv => ?_, fun hk hv h1 h2 => ?_, fun h8 hk h1 h2 => ?_,
    fun m h8 hk hm h' hr => ?_⟩
  · refine ⟨_, exec_csRead_answers ha h, rfl, ?_⟩
    simp only [hk, Dev.readHalf, Dev.readReg_view _ _ _ h1 h2]
    rfl
  · refine ⟨_, exec_csRead_answers ha h, rfl, ?_, ?_⟩
    · simp only [hk, Dev.readHalf, Dev.readReg_view _ _ _ h1 h2]
      exact getHalf_setHalf_some _ _ _
    · simp only [hk, Dev.readHalf, Dev.readReg_view _ _ _ h1 h2]
      rfl
  · refine ⟨_, exec_csRead_answers ha h, rfl, ?_, ?_⟩
    · simp only [hk, Dev.readHalf, hv]
      exact getHalf_setHalf_none _ _
    · simp only [hk, Dev.readHalf, hv]
      rfl
  · refine ⟨_, exec_csRead_answers ha h, rfl, ?_⟩
    simp only [hk, Dev.readHalf, hv, Dev.readReg_view _ _ _ h1 h2]
    rfl
  · exact ⟨_, exec_csRead_wide h8 h hk h1 h2, rfl, rfl⟩
  · exact ⟨_, exec_csRead_pair h8 h hk hm h' hr, rfl, rfl⟩

/-! ## Writes in halves -/

/-- The 64-bit registers of the statement on half writes. -/
def halfRegs : List Reg :=
  [.RING_BFWD_MASK_LO, .MA_FMT_SEED, .TIER_QUOTA, .XU_ROOT, .XU_FAULT, .FAB_RANKTAB, .WIN_TAB, .ERR_THRESH0, .ARB_BITE_LAST,
    .COLL_SUSP_LAST, .SEC_FLASH_SRC]

theorem halfRegs_plain {r : Reg} (h : r ∈ halfRegs) : r ∈ plainRegs := (by decide : ∀ r ∈ halfRegs, r ∈ plainRegs) r h

/-- No report of the access leaves the reports as they were. -/
theorem Dev.highReports_of_none {d : Dev} {n : Nat} (h : d.link.held.length ≤ n) : d.highReports n = d := by
  unfold Dev.highReports
  dsimp only
  rw [List.take_of_length_le h, List.drop_eq_nil_of_le h, List.map_nil, List.append_nil]

/-- A write of a low half is held, and changes no register (R11). -/
theorem Dev.write32_low {d : Dev} {ap : Aperture} {addr : Nat} {k : RegInst} (v : BitVec 32) (hk : halfAt addr = .low k)
    (hacc : d.accepts ap k.reg k.i = true) : d.write32 ap addr v = { d with lo := setHalf d.lo k.key (some v) } := by
  simp only [Dev.write32, hk, Dev.hostWrite_accepted hacc]

/-- A write of the high half of a plain register goes with the low half held for it, which is held no more (R11). -/
theorem Dev.write32_high {d : Dev} {ap : Aperture} {addr : Nat} {k : RegInst} (v : BitVec 32) (hk : halfAt addr = .high k)
    (hacc : d.accepts ap k.reg k.i = true) (hr : k.reg ∈ plainRegs) :
    d.write32 ap addr v = ({ d with lo := setHalf d.lo k.key none }).setReg k.reg
      (written k.reg (d.reg k.reg k.i k.j) (v ++ d.lowHalf k)) k.i k.j := by
  simp only [Dev.write32, hk, Dev.hostWrite_accepted hacc, Dev.regWrite_plain _ ap _ hr]
  exact Dev.highReports_of_none (le_refl _)

/-- A 64-bit write of a 64-bit plain register sets it alone. -/
theorem Dev.csWrite_wide {d : Dev} {ap : Aperture} {addr : Nat} {k : RegInst} (v : BitVec 64) (hk : halfAt addr = .low k)
    (hacc : d.accepts ap k.reg k.i = true) (hr : k.reg ∈ plainRegs) :
    d.csWrite ap addr true v = d.setReg k.reg (written k.reg (d.reg k.reg k.i k.j) v) k.i k.j := by
  simp [Dev.csWrite, hk, Dev.hostWrite_accepted hacc, Dev.regWrite_plain _ ap _ hr]

/-- A 64-bit write of two 32-bit plain registers writes both, the one at the lower offset first. -/
theorem Dev.csWrite_pair {d : Dev} {ap : Aperture} {addr : Nat} {m n : RegInst} (v : BitVec 64)
    (hm : halfAt addr = .narrow m) (hn : halfAt (addr + 4) = .narrow n) (hmr : m.reg ∈ plainRegs) (hnr : n.reg ∈ plainRegs)
    (hmacc : d.accepts ap m.reg m.i = true) (hnacc : d.accepts ap n.reg n.i = true)
    (hne : m.reg.code m.i m.j ≠ n.reg.code n.i n.j) :
    d.csWrite ap addr true v =
      (d.setReg m.reg (written m.reg (d.reg m.reg m.i m.j) ((v.truncate 32).zeroExtend 64)) m.i m.j).setReg n.reg
        (written n.reg (d.reg n.reg n.i n.j) (((v >>> 32).truncate 32).zeroExtend 64)) n.i n.j := by
  have hchecked : m.reg ∉ [Reg.DEV_STATUS, .CMD_SQ_CFG, .CMD_SQ_CTRL] :=
    (by decide : ∀ r ∈ plainRegs, r ∉ [Reg.DEV_STATUS, .CMD_SQ_CFG, .CMD_SQ_CTRL]) m.reg hmr
  have hpair : d.csWrite ap addr true v =
      (d.write32 ap addr (v.truncate 32)).write32 ap (addr + 4) ((v >>> 32).truncate 32) := by
    simp only [Dev.csWrite, Bool.not_true, Bool.false_eq_true, if_false, hm]
  rw [hpair, Dev.write32_plain _ hm hmacc hmr,
    Dev.write32_plain _ hn (by rwa [Dev.accepts_setReg d ap n.reg m.reg _ _ _ _ hchecked]) hnr,
    Dev.reg_setReg, if_neg hne.symm]

/-- The bits of two joined halves. -/
theorem getLsbD_join (a b : BitVec 32) (i : Nat) :
    (a ++ b : BitVec 64).getLsbD i = if i < 32 then b.getLsbD i else a.getLsbD (i - 32) := by
  simpa using BitVec.getLsbD_append (x := a) (y := b) (i := i)

/-- The bits of a written value (Table 0.4). -/
theorem getLsbD_written (r : Reg) (old v : BitVec 64) (i : Nat) :
    (written r old v).getLsbD i = (decide (i < 64) &&
      ((old.getLsbD i && !(BitVec.ofNat 64 r.spec.rw).getLsbD i || v.getLsbD i && (BitVec.ofNat 64 r.spec.rw).getLsbD i) &&
        !(v.getLsbD i && (BitVec.ofNat 64 r.spec.w1c).getLsbD i))) := by
  unfold written
  rw [BitVec.getLsbD_and, BitVec.getLsbD_not, BitVec.getLsbD_and, BitVec.getLsbD_or, BitVec.getLsbD_and, BitVec.getLsbD_and,
    BitVec.getLsbD_not]
  by_cases hi : i < 64
  · simp only [hi, decide_true, Bool.true_and]
  · simp [hi]

/-- The low half of a written value, where the low half is written with the RW bits that it has. -/
theorem written_keeps_low {r : Reg} (hr : r ∈ plainRegs) (old : BitVec 64) (v : BitVec 32) :
    (written r old (v ++ (old &&& BitVec.ofNat 64 r.spec.rw).truncate 32)).truncate 32 = old.truncate 32 := by
  have hapart := plainRegs_apart r hr
  apply BitVec.eq_of_getLsbD_eq
  intro i hi
  have hi' : i < 64 := by omega
  have hbit : ((BitVec.ofNat 64 r.spec.rw).getLsbD i && (BitVec.ofNat 64 r.spec.w1c).getLsbD i) = false := by
    simpa using congrArg (fun x => x.getLsbD i) hapart
  simp only [BitVec.truncate_eq_setWidth, BitVec.getLsbD_setWidth, getLsbD_written, getLsbD_join, hi, hi', if_true, decide_true,
    Bool.true_and, BitVec.getLsbD_and]
  cases hrw : (BitVec.ofNat 64 r.spec.rw).getLsbD i
  · simp
  · rw [hrw, Bool.true_and] at hbit
    simp [hbit]

/-- The high half of a written value comes from the high half of what is written. -/
theorem written_high (r : Reg) (old : BitVec 64) (v a b : BitVec 32) :
    written r old (v ++ a) >>> 32 = written r old (v ++ b) >>> 32 := by
  apply BitVec.eq_of_getLsbD_eq
  intro i _
  simp only [BitVec.getLsbD_ushiftRight, getLsbD_written, getLsbD_join, Nat.not_lt.mpr (Nat.le_add_right 32 i), if_false]

/-- Settles O10: the high half's write joins the half held before it, and each access sets its register alone. -/
theorem halfWritesJoin : Obligations.HalfWritesJoin := by
  unfold Obligations.HalfWritesJoin
  intro s ap addr next lo hi k ha hnext hlow hhigh hreg hacc joined
  have hplain : k.reg ∈ plainRegs := halfRegs_plain hreg
  have ha4 : addr.toNat % 4 = 0 := by omega
  have hn4 : next.toNat % 4 = 0 := by omega
  refine ⟨?_, ?_, fun hnone => ?_, ?_⟩
  · refine ⟨_, _, exec_csWrite_narrow s ap addr lo ha4, exec_csWrite_narrow _ ap next hi hn4, ?_, rfl, ?_⟩
    · dsimp only
      rw [Dev.write32_low _ hlow hacc]
      rfl
    · dsimp only
      have hkept : ({ s.dev with lo := setHalf s.dev.lo k.key (some (lo.truncate 32)) } : Dev).settle.lowHalf k =
          lo.truncate 32 := by
        show (getHalf (setHalf s.dev.lo k.key (some (lo.truncate 32))) k.key).getD _ = _
        rw [getHalf_setHalf_some, Option.getD_some]
      have hacc' : ({ s.dev with lo := setHalf s.dev.lo k.key (some (lo.truncate 32)) } : Dev).settle.accepts ap k.reg k.i =
          true := (Dev.accepts_congr ap k.reg k.i rfl rfl fun _ _ _ _ => rfl).trans hacc
      rw [Dev.write32_low _ hlow hacc, Dev.write32_high _ hhigh hacc' hplain, hkept]
      refine ⟨Dev.reg_setReg_same _ _ _ _ _, ?_, getHalf_setHalf_none _ _⟩
      exact ((Dev.regsBut.refl s.dev [k.reg.code k.i k.j]).congr (e' := { s.dev with lo := _ }) rfl).setReg _ List.mem_cons_self
  · refine ⟨_, exec_csWrite_aligned s ap addr true _ ha, rfl, ?_⟩
    dsimp only
    rw [Dev.csWrite_wide _ hlow hacc hplain]
    exact ⟨Dev.reg_setReg_same _ _ _ _ _, (Dev.regsBut.refl s.dev _).setReg _ List.mem_cons_self, rfl⟩
  · refine ⟨_, exec_csWrite_narrow s ap next hi hn4, rfl, ?_⟩
    dsimp only
    have hkept : s.dev.lowHalf k = (s.dev.reg k.reg k.i k.j &&& BitVec.ofNat 64 k.reg.spec.rw).truncate 32 := by
      have hmet : k.reg ≠ .SEC_MET_CMD := fun he => absurd (he ▸ hreg) (by decide)
      have harr : k.reg ≠ .PART_ARRAYS := fun he => absurd (he ▸ hreg) (by decide)
      simp [Dev.lowHalf, hnone, hmet, Reg.rwBits, harr]
    rw [Dev.write32_high _ hhigh hacc hplain, hkept, Dev.settle_reg, Dev.reg_setReg_same]
    exact ⟨written_keeps_low hplain _ _, written_high _ _ _ _ _,
      ((Dev.regsBut.refl s.dev [k.reg.code k.i k.j]).congr (e' := { s.dev with lo := _ }) rfl).setReg _ List.mem_cons_self⟩
  · intro pair m n v hp hm hn hmn hne
    have hnarrow : ∀ r ∈ [Reg.PART_SHARE, .PART_STATUS, .SV_CTRL, .SV_GRANT_STALL, .FAB_ROUTE_CFG, .FAB_TRAY_VIA, .ARB_CFG,
        .ARB_SEED, .ARB_TICKETS, .ARB_FIXED, .ARB_WDOG_MEM, .ARB_WDOG_ENG], r ∈ plainRegs := by decide
    obtain ⟨hmr, hmacc⟩ := hmn m (by simp)
    obtain ⟨hnr, hnacc⟩ := hmn n (by simp)
    refine ⟨_, exec_csWrite_aligned s ap pair true v hp, rfl, ?_⟩
    dsimp only
    rw [Dev.csWrite_pair v hm hn (hnarrow _ hmr) (hnarrow _ hnr) hmacc hnacc hne]
    refine ⟨?_, Dev.reg_setReg_same _ _ _ _ _, ?_, rfl⟩
    · rw [Dev.settle_reg, Dev.reg_setReg, if_neg hne, Dev.reg_setReg_same]
    · exact ((Dev.regsBut.refl s.dev _).setReg _ (by simp)).setReg _ (by simp)

end Sys2Proof.Machine
end

section
/-! PROOFS. The registers of the queues and the rings: doorbells, heads, bindings and enables (R44 to R49, R389). -/

namespace Sys2Proof.Machine

/-! ## Doorbells and heads -/

/-- A place in a ring of 2^n slots fits 16 bits. -/
theorem place_fits (v n : Nat) : v % 65536 % 2 ^ n < 2 ^ 16 :=
  (Nat.mod_le _ _).trans_lt (Nat.mod_lt _ (by decide))

/-- A write whose action sets one field to a value that fits completes with that value, and changes nothing else. -/
theorem Completes.of_setF {i : Instr} {s : State} {ap : Aperture} {f : Fld} {k n : Nat} {g : Dev → Dev}
    (hexec : exec i s = s.act (fun d => d.hostWrite ap f.reg k 0 g)) (hacc : s.dev.accepts ap f.reg k = true)
    (hg : g s.dev = s.dev.setF f n k) (hf : f.lo + f.width ≤ 64) (hn : n < 2 ^ f.width) :
    Completes i s (fun e => e.f f k = n ∧ s.dev.regsBut e [f.reg.code k 0] ∧ s.dev.restSame e) := by
  refine Completes.of_accepted hexec hacc ?_
  rw [hg]
  exact ⟨s.dev.f_setF_fit f k 0 hf hn, (Dev.regsBut.refl s.dev _).setF n List.mem_cons_self, rfl⟩

/-- Settles O11: each of them sets one field; the report ring's head also drops the severities that it has passed. -/
theorem doorbellsAndHeads : Obligations.DoorbellsAndHeads := by
  unfold Obligations.DoorbellsAndHeads
  intro s ap v
  refine ⟨fun q hacc => ?_, fun c hacc => ?_, fun p hacc => ?_, fun r hacc => ?_, fun hacc => ?_, fun hacc => ?_⟩
  · exact Completes.of_setF (f := .CMD_SQ_TAIL_TAIL) rfl hacc rfl (by decide) (place_fits _ _)
  · exact Completes.of_setF (f := .CMD_CQ_HEAD_HEAD) rfl hacc rfl (by decide) (place_fits _ _)
  · exact Completes.of_setF (f := .SV_RPT_HEAD_HEAD) rfl hacc rfl (by decide) (place_fits _ _)
  · exact Completes.of_setF (f := .WIN_RING_TAIL_TAIL) rfl hacc rfl (by decide) (place_fits _ _)
  · refine Completes.of_accepted rfl hacc ⟨?_, ?_, rfl⟩
    · exact Dev.f_setF_fit _ .ERR_Q_HEAD_HEAD 0 0 (by decide) (place_fits _ _)
    · exact ((Dev.regsBut.refl s.dev _).congr (e' := { s.dev with link := _ }) rfl).setF _ List.mem_cons_self
  · exact Completes.of_setF (f := .SEC_TALLY_HEAD_HEAD) rfl hacc rfl (by decide) (place_fits _ _)

/-! ## CMD_SQ_CFG -/

/-- A disabled queue with an allowed PRIV is bound: its fields are written, on queue 0 PRIV stays 3, and its accounting
clears (R44, R68). -/
theorem Dev.sqCfg_bound {d : Dev} (ap : Aperture) {q : Nat} {v : BitVec 64} (hoff : d.flag .CMD_SQ_CTRL_ENABLE q = false)
    (hpriv : q ≠ 0 → Fld.CMD_SQ_CFG_PRIV.of v ≠ 3) :
    d.sqCfg ap q v =
      let b := if q = 0 then (d.plainWrite .CMD_SQ_CFG v q).setF .CMD_SQ_CFG_PRIV 3 q else d.plainWrite .CMD_SQ_CFG v q
      ((b.setReg .CMD_ACCT_WAIT 0 q).setReg .CMD_ACCT_ENGINE 0 q).setReg .CMD_ACCT_CMDS 0 q := by
  unfold Dev.sqCfg
  rw [if_neg (by simp [hoff]), if_neg (fun ⟨hq, h⟩ => hpriv hq h)]

/-- The binding of an enabled queue, or with PRIV 3 on a queue of 1 to 63, is refused (R44). -/
theorem Dev.sqCfg_refused {d : Dev} (ap : Aperture) {q : Nat} {v : BitVec 64}
    (h : d.flag .CMD_SQ_CTRL_ENABLE q = true ∨ (q ≠ 0 ∧ Fld.CMD_SQ_CFG_PRIV.of v = 3)) :
    d.sqCfg ap q v = d.refuseReg ap .CMD_SQ_CFG q := by
  unfold Dev.sqCfg
  obtain h | h := h
  · rw [if_pos h]
  · rw [if_pos h, ite_self]

/-- The fields of a bound queue. -/
theorem Dev.sqCfg_fields (d : Dev) (q : Nat) (v : BitVec 64) :
    let b := if q = 0 then (d.plainWrite .CMD_SQ_CFG v q).setF .CMD_SQ_CFG_PRIV 3 q else d.plainWrite .CMD_SQ_CFG v q
    (∀ f ∈ [Fld.CMD_SQ_CFG_SIZE_LOG2, .CMD_SQ_CFG_CQ, .CMD_SQ_CFG_PARTITION, .CMD_SQ_CFG_JOB, .CMD_SQ_CFG_MAX_INFLIGHT],
      b.f f q = f.of v) ∧ b.f .CMD_SQ_CFG_PRIV q = (if q = 0 then 3 else Fld.CMD_SQ_CFG_PRIV.of v) := by
  have hwritten : ∀ f ∈ [Fld.CMD_SQ_CFG_SIZE_LOG2, .CMD_SQ_CFG_CQ, .CMD_SQ_CFG_PARTITION, .CMD_SQ_CFG_JOB,
      .CMD_SQ_CFG_MAX_INFLIGHT], (d.plainWrite .CMD_SQ_CFG v q).f f q = f.of v := by
    intro f hf
    have hreg : f.reg = .CMD_SQ_CFG := (by decide : ∀ f ∈ [Fld.CMD_SQ_CFG_SIZE_LOG2, .CMD_SQ_CFG_CQ, .CMD_SQ_CFG_PARTITION,
      .CMD_SQ_CFG_JOB, .CMD_SQ_CFG_MAX_INFLIGHT], f.reg = .CMD_SQ_CFG) f hf
    have hin := (by decide : ∀ f ∈ [Fld.CMD_SQ_CFG_SIZE_LOG2, .CMD_SQ_CFG_CQ, .CMD_SQ_CFG_PARTITION, .CMD_SQ_CFG_JOB,
      .CMD_SQ_CFG_MAX_INFLIGHT], f.within (BitVec.ofNat 64 f.reg.spec.rw &&& ~~~(BitVec.ofNat 64 f.reg.spec.w1c)) = true) f hf
    rw [← hreg]
    exact d.f_plainWrite f v q 0 (by rw [hreg]; decide) hin
  dsimp only
  split
  · refine ⟨fun f hf => ?_, Dev.f_setF_same _ _ _ _ _ (by decide)⟩
    have happ := (by decide : ∀ f ∈ [Fld.CMD_SQ_CFG_SIZE_LOG2, .CMD_SQ_CFG_CQ, .CMD_SQ_CFG_PARTITION, .CMD_SQ_CFG_JOB,
      .CMD_SQ_CFG_MAX_INFLIGHT], f.reg = .CMD_SQ_CFG ∧ (f.lo + f.width ≤ 8 ∨ 10 ≤ f.lo)) f hf
    rw [Dev.f_setF_apart _ .CMD_SQ_CFG_PRIV f _ _ _ happ.1 (by decide) happ.2]
    exact hwritten f hf
  · exact ⟨hwritten, d.f_plainWrite .CMD_SQ_CFG_PRIV v q 0 (by decide) (by decide)⟩

/-- A refusal by the register's own rule, as a completed write. -/
theorem Completes.of_refused {i : Instr} {s : State} {ap : Aperture} {r : Reg} {k : Nat} {g : Dev → Dev}
    (hexec : exec i s = s.act (fun d => d.hostWrite ap r k 0 g)) (hacc : s.dev.accepts ap r k = true)
    (hg : g s.dev = s.dev.refuseReg ap r k) :
    Completes i s (fun e => e.regs = s.dev.regs ∧ s.dev.posted e .FAULT_PROT (fun x => x.address = r.addrOf k 0)) := by
  refine Completes.of_accepted hexec hacc ?_
  rw [hg]
  exact ⟨rfl, ((s.dev.refuse_posted ap (r.addrOf k 0) true).mono fun _ h => h.1).settle⟩

/-- Settles O12: the binding's own fields are written as RW fields, and what it clears are other registers. -/
theorem queueBinding : Obligations.QueueBinding := by
  unfold Obligations.QueueBinding
  intro s ap q v hacc
  refine ⟨fun hoff hpriv => ?_, fun h => Completes.of_refused rfl hacc (Dev.sqCfg_refused ap h)⟩
  refine Completes.of_accepted rfl hacc ?_
  rw [Dev.sqCfg_bound ap hoff hpriv]
  obtain ⟨hfields, hp⟩ := s.dev.sqCfg_fields q v
  have hframe : ∀ l, Reg.code .CMD_SQ_CFG q 0 ∈ l → s.dev.regsBut (if q.val = 0 then
      (s.dev.plainWrite .CMD_SQ_CFG v q).setF .CMD_SQ_CFG_PRIV 3 q else s.dev.plainWrite .CMD_SQ_CFG v q) l := by
    intro l hl
    have hw := (Dev.regsBut.refl s.dev l).plainWrite v hl
    split
    · exact hw.setF 3 hl
    · exact hw
  have hrest : s.dev.restSame (if q.val = 0 then (s.dev.plainWrite .CMD_SQ_CFG v q).setF .CMD_SQ_CFG_PRIV 3 q
      else s.dev.plainWrite .CMD_SQ_CFG v q) := by
    split <;> rfl
  dsimp only at hfields hp ⊢
  generalize (if q.val = 0 then (s.dev.plainWrite .CMD_SQ_CFG v q).setF .CMD_SQ_CFG_PRIV 3 q
      else s.dev.plainWrite .CMD_SQ_CFG v q) = b at *
  have hkeep : ∀ f : Fld, f.reg = .CMD_SQ_CFG → ∀ w x y : BitVec 64,
      (((b.setReg .CMD_ACCT_WAIT w q).setReg .CMD_ACCT_ENGINE x q).setReg .CMD_ACCT_CMDS y q).f f q = b.f f q := by
    intro f hf w x y
    simp only [Dev.f, hf]
    rw [Dev.reg_setReg_ne _ _ _ _ _ _ (by decide), Dev.reg_setReg_ne _ _ _ _ _ _ (by decide),
      Dev.reg_setReg_ne _ _ _ _ _ _ (by decide)]
  refine ⟨fun f hf => ?_, ?_, ?_, ?_, ?_, ?_, ?_⟩
  · have hreg : f.reg = .CMD_SQ_CFG := (by decide : ∀ f ∈ [Fld.CMD_SQ_CFG_SIZE_LOG2, .CMD_SQ_CFG_CQ, .CMD_SQ_CFG_PARTITION,
      .CMD_SQ_CFG_JOB, .CMD_SQ_CFG_MAX_INFLIGHT], f.reg = .CMD_SQ_CFG) f hf
    exact (Dev.settle_f _ _ _ _).trans <| (hkeep f hreg _ _ _).trans (hfields f hf)
  · exact (Dev.settle_f _ _ _ _).trans <| (hkeep _ rfl _ _ _).trans hp
  · rw [Dev.settle_reg, Dev.reg_setReg_ne _ _ _ _ _ _ (by decide), Dev.reg_setReg_ne _ _ _ _ _ _ (by decide),
      Dev.reg_setReg_same]
  · rw [Dev.settle_reg, Dev.reg_setReg_ne _ _ _ _ _ _ (by decide), Dev.reg_setReg_same]
  · rw [Dev.settle_reg, Dev.reg_setReg_same]
  · refine Dev.regsBut.settle (Dev.regsBut.setReg (Dev.regsBut.setReg (Dev.regsBut.setReg (hframe _ ?_) 0 ?_) 0 ?_) 0 ?_) <;>
      simp
  · exact (Dev.restSame.setReg (.setReg (.setReg hrest ..) ..) ..).settle

/-! ## CMD_SQ_CTRL -/

/-- Enabling a disabled queue with a valid size and an enabled completion queue (R49). -/
theorem Dev.sqCtrl_enable {d : Dev} {q : Nat} (hoff : d.flag .CMD_SQ_CTRL_ENABLE q = false)
    (h4 : 4 ≤ d.f .CMD_SQ_CFG_SIZE_LOG2 q) (h15 : d.f .CMD_SQ_CFG_SIZE_LOG2 q ≤ 15)
    (hcq : d.flag .CMD_CQ_CFG_ENABLE (d.f .CMD_SQ_CFG_CQ q) = true) :
    d.sqCtrl .owner q true false = ((d.setF .CMD_SQ_CTRL_ENABLE 1 q).setF .CMD_SQ_HEAD_HEAD 0 q).setF .CMD_SQ_TAIL_TAIL 0 q := by
  simp [Dev.sqCtrl, Dev.sqSetEnable, apNum, hoff, sizeOk, h4, h15, hcq]

/-- A write of 1 to HALTED with ENABLE as it is clears the halt and is nothing else, through any aperture (R45). -/
theorem Dev.sqCtrl_resume (d : Dev) (ap : Aperture) (q : Nat) :
    d.sqCtrl ap q (d.flag .CMD_SQ_CTRL_ENABLE q) true = d.setF .CMD_SQ_CTRL_HALTED 0 q ∨
    (d.flag .CMD_SQ_CTRL_ENABLE q = false ∧ d.sqCtrl ap q (d.flag .CMD_SQ_CTRL_ENABLE q) true =
      (d.setF .CMD_SQ_CTRL_HALTED 0 q).setF .CMD_SQ_CTRL_ENABLE 0 q) := by
  have hkeep : (d.setF .CMD_SQ_CTRL_HALTED 0 q).flag .CMD_SQ_CTRL_ENABLE q = d.flag .CMD_SQ_CTRL_ENABLE q := by
    simp [Dev.flag, Dev.f_setF_apart]
  cases hon : d.flag .CMD_SQ_CTRL_ENABLE q with
  | true => exact .inl (by simp [Dev.sqCtrl, Dev.sqSetEnable, hkeep, hon])
  | false =>
    by_cases hap : apNum ap = 0
    · exact .inr ⟨rfl, by simp [Dev.sqCtrl, Dev.sqSetEnable, hap]⟩
    · exact .inl (by simp [Dev.sqCtrl, hap, hon])

/-- Settles O14: a resume sets HALTED to 0, and ENABLE to the value that it has. -/
theorem queueResume : Obligations.QueueResume := by
  unfold Obligations.QueueResume
  intro s ap q hacc
  refine ⟨?_, fun hap => Completes.of_refused rfl hacc ?_⟩
  · refine Completes.of_accepted rfl hacc ?_
    obtain h | ⟨hoff, h⟩ := s.dev.sqCtrl_resume ap q
    · rw [h]
      refine ⟨Dev.flag_of_zero ?_, ?_, (Dev.regsBut.refl s.dev _).setF 0 List.mem_cons_self, rfl⟩
      · rw [Dev.settle_f]
        simp [Dev.f_setF_same]
      · rw [Dev.settle_f]
        simp [Dev.f_setF_apart]
    · have hzero : s.dev.f .CMD_SQ_CTRL_ENABLE q = 0 := by simpa [Dev.flag] using hoff
      rw [h]
      refine ⟨Dev.flag_of_zero ?_, ?_, Dev.regsBut.settle (.setF (.setF (.refl _ _) 0 List.mem_cons_self) 0 List.mem_cons_self),
        rfl⟩
      · rw [Dev.settle_f]
        simp [Dev.f_setF_same, Dev.f_setF_apart]
      · rw [Dev.settle_f]
        simp [Dev.f_setF_same, hzero]
  · have hnum : apNum ap ≠ 0 := by cases ap <;> simp_all [apNum]
    simp [Dev.sqCtrl, hnum]

/-! ## Enables -/

/-- Enabling a disabled completion queue with a valid size (R49). -/
theorem Dev.cqCfg_enable {d : Dev} (ap : Aperture) {c : Nat} {v : BitVec 32} (hoff : d.flag .CMD_CQ_CFG_ENABLE c = false)
    (hon : Fld.CMD_CQ_CFG_ENABLE.of (v.zeroExtend 64) = 1) (h4 : 4 ≤ Fld.CMD_CQ_CFG_SIZE_LOG2.of (v.zeroExtend 64))
    (h15 : Fld.CMD_CQ_CFG_SIZE_LOG2.of (v.zeroExtend 64) ≤ 15) :
    d.cqCfg ap c v = (((((d.plainWrite .CMD_CQ_CFG (v.zeroExtend 64) c).setF .CMD_CQ_CFG_ENABLE 0 c).setF
      .CMD_CQ_CFG_ENABLE 1 c).setF .CMD_CQ_HEAD_HEAD 0 c).setF .CMD_CQ_TAIL_TAIL 0 c).setF .CMD_CQ_TAIL_PHASE 1 c := by
  have hsize : ((d.plainWrite .CMD_CQ_CFG (v.zeroExtend 64) c).setF .CMD_CQ_CFG_ENABLE 0 c).f .CMD_CQ_CFG_SIZE_LOG2 c =
      Fld.CMD_CQ_CFG_SIZE_LOG2.of (v.zeroExtend 64) :=
    (Dev.f_setF_apart _ .CMD_CQ_CFG_ENABLE .CMD_CQ_CFG_SIZE_LOG2 _ _ _ rfl (by decide) (by decide)).trans
      (d.f_plainWrite .CMD_CQ_CFG_SIZE_LOG2 _ c 0 (by decide) (by decide))
  unfold Dev.cqCfg
  dsimp only
  rw [if_neg (by simp [hoff]), if_neg (by simp [hon]), if_neg (by simp [hsize, sizeOk, h4, h15])]

/-- Settles O13: enabling sets ENABLE after the written fields, and resets the positions. -/
theorem queueEnables : Obligations.QueueEnables := by
  unfold Obligations.QueueEnables
  intro s
  refine ⟨fun q hacc hoff h4 h15 hcq => ?_, fun ap c v hacc hoff hon h4 h15 => ?_⟩
  · refine Completes.of_accepted rfl hacc ?_
    rw [Dev.sqCtrl_enable hoff h4 h15 hcq]
    refine ⟨Dev.flag_of_one ?_, ?_, ?_, ?_, (((Dev.restSame.refl _).setF _ _ _ _).setF _ _ _ _).setF _ _ _ _ |>.settle⟩
    · rw [Dev.settle_f]
      simp [Dev.f_setF_same, Dev.f_setF_ne_reg]
    · rw [Dev.settle_f]
      simp [Dev.f_setF_same, Dev.f_setF_ne_reg]
    · rw [Dev.settle_f]
      simp [Dev.f_setF_same]
    · refine (Dev.regsBut.setF (.setF (.setF (.refl _ _) 1 ?_) 0 ?_) 0 ?_).settle <;> simp
  · refine Completes.of_accepted rfl hacc ?_
    rw [Dev.cqCfg_enable ap hoff hon h4 h15]
    have hsize := s.dev.f_plainWrite .CMD_CQ_CFG_SIZE_LOG2 (v.zeroExtend 64) c 0 (by decide) (by decide)
    refine ⟨Dev.flag_of_one ?_, ?_, ?_, ?_, ?_, ?_, ?_⟩
    · rw [Dev.settle_f]
      simp [Dev.f_setF_same, Dev.f_setF_ne_reg]
    · rw [Dev.settle_f]
      simpa [Dev.f_setF_apart, Dev.f_setF_ne_reg] using hsize
    · rw [Dev.settle_f]
      simp [Dev.f_setF_same, Dev.f_setF_ne_reg]
    · rw [Dev.settle_f]
      simp [Dev.f_setF_same, Dev.f_setF_apart]
    · rw [Dev.settle_f]
      simp [Dev.f_setF_same]
    · refine (Dev.regsBut.setF (.setF (.setF (.setF (.setF (.plainWrite (.refl _ _) _ ?_) 0 ?_) 1 ?_) 0 ?_) 0 ?_) 1 ?_).settle <;>
        simp
    · exact (Dev.restSame.setF (.setF (.setF (.setF (.setF (.plainWrite (.refl _) ..) ..) ..) ..) ..) ..).settle

/-- Enabling a disabled report ring with a valid size (R389). -/
theorem Dev.rptCfg_enable {d : Dev} (ap : Aperture) {p : Nat} {v : BitVec 32} (hoff : d.flag .SV_RPT_CFG_ENABLE p = false)
    (hon : Fld.SV_RPT_CFG_ENABLE.of (v.zeroExtend 64) = 1) (hsize : rptSizeOk (v.zeroExtend 64) = true) :
    d.rptCfg ap p v = ((((d.plainWrite .SV_RPT_CFG (v.zeroExtend 64) p).setF .SV_RPT_CFG_ENABLE 0 p).setF
      .SV_RPT_CFG_ENABLE 1 p).setF .SV_RPT_HEAD_HEAD 0 p).setF .SV_RPT_TAIL_TAIL 0 p := by
  unfold Dev.rptCfg
  dsimp only
  rw [if_neg (by simp [hoff]), if_neg (by simp [hon]), if_neg (by simp [hsize])]

/-- Enabling the disabled error report ring with a valid size: nothing counts for ALERT_N from the ring any more (R329). -/
theorem Dev.errCfg_enable {d : Dev} (ap : Aperture) {v : BitVec 32} (hoff : d.flag .ERR_Q_CFG_ENABLE = false)
    (hon : Fld.ERR_Q_CFG_ENABLE.of (v.zeroExtend 64) = 1)
    (hsize : sizeOk (Fld.ERR_Q_CFG_SIZE_LOG2.of (v.zeroExtend 64)) = true) :
    d.errCfg ap v =
      { (((((d.plainWrite .ERR_Q_CFG (v.zeroExtend 64)).setF .ERR_Q_CFG_ENABLE 0).setF .ERR_Q_CFG_ENABLE 1).setF
        .ERR_Q_HEAD_HEAD 0).setF .ERR_Q_TAIL_TAIL 0).setF .ERR_Q_TAIL_PHASE 1 with link := { d.link with ringSev := [] } } := by
  have hread : ((d.plainWrite .ERR_Q_CFG (v.zeroExtend 64)).setF .ERR_Q_CFG_ENABLE 0).f .ERR_Q_CFG_SIZE_LOG2 =
      Fld.ERR_Q_CFG_SIZE_LOG2.of (v.zeroExtend 64) :=
    (Dev.f_setF_apart _ .ERR_Q_CFG_ENABLE .ERR_Q_CFG_SIZE_LOG2 _ _ _ rfl (by decide) (by decide)).trans
      (d.f_plainWrite .ERR_Q_CFG_SIZE_LOG2 _ 0 0 (by decide) (by decide))
  unfold Dev.errCfg
  dsimp only
  rw [if_neg (by simp [hoff]), if_neg (by simp [hon]), if_neg (by simp [hread, hsize])]
  simp only [Dev.setF_link, Dev.plainWrite_link]

/-- Enabling the disabled tally ring with a valid size (R349; log 101). -/
theorem Dev.tallyCfg_enable {d : Dev} (ap : Aperture) {v : BitVec 32} (hoff : d.flag .SEC_TALLY_CFG_ENABLE = false)
    (hon : Fld.SEC_TALLY_CFG_ENABLE.of (v.zeroExtend 64) = 1) (h2 : 2 ≤ Fld.SEC_TALLY_CFG_SIZE_LOG2.of (v.zeroExtend 64))
    (h12 : Fld.SEC_TALLY_CFG_SIZE_LOG2.of (v.zeroExtend 64) ≤ 12) :
    d.tallyCfg ap v = (((((d.plainWrite .SEC_TALLY_CFG (v.zeroExtend 64)).setF .SEC_TALLY_CFG_ENABLE 0).setF
      .SEC_TALLY_CFG_ENABLE 1).setF .SEC_TALLY_HEAD_HEAD 0).setF .SEC_TALLY_TAIL_TAIL 0).setF .SEC_TALLY_TAIL_PHASE 1 := by
  unfold Dev.tallyCfg
  dsimp only
  rw [if_neg (by simp [hoff]), if_neg (by simp [hon, h2, h12])]

/-- Enabling a disabled window ring with a valid size, whose partition holds its job (R271). -/
theorem Dev.winCtrl_enable {d : Dev} (ap : Aperture) {r : Nat} {v : BitVec 32} (hoff : d.flag .WIN_RING_CTRL_ENABLE r = false)
    (h0 : v.getLsbD 0 = true) (h1 : v.getLsbD 1 = false) (h4 : 4 ≤ d.f .WIN_RING_CFG_SIZE_LOG2 r)
    (h12 : d.f .WIN_RING_CFG_SIZE_LOG2 r ≤ 12) (hvalid : d.valid (d.f .WIN_RING_CFG_PARTITION r) = true)
    (hjob : d.f .PART_CTRL_JOB (d.f .WIN_RING_CFG_PARTITION r) = d.f .WIN_RING_CFG_JOB r) :
    d.winCtrl ap r v =
      ((d.setF .WIN_RING_CTRL_ENABLE 1 r).setF .WIN_RING_HEAD_HEAD 0 r).setF .WIN_RING_TAIL_TAIL 0 r := by
  have hsize : ¬(d.f .WIN_RING_CFG_SIZE_LOG2 r < 4 ∨ 12 < d.f .WIN_RING_CFG_SIZE_LOG2 r) := by omega
  simp only [Dev.winCtrl, h0, h1, hoff, hsize, hvalid, hjob, ne_eq, not_true_eq_false, decide_false, Bool.not_true, Bool.or_false,
    Bool.false_eq_true, if_false]

/-- SV_RPT_CFG enables a disabled report ring. -/
theorem svRptCfg_enable_completes (s : State) (ap : Aperture) (p : Fin 16) (v : BitVec 32)
    (hacc : s.dev.accepts ap .SV_RPT_CFG p = true) (hoff : s.dev.flag .SV_RPT_CFG_ENABLE p = false)
    (hon : Fld.SV_RPT_CFG_ENABLE.of (v.zeroExtend 64) = 1) (hsize : rptSizeOk (v.zeroExtend 64) = true) :
    Completes (.svRptCfg ap p v) s (fun e =>
      e.flag .SV_RPT_CFG_ENABLE p = true ∧ e.f .SV_RPT_HEAD_HEAD p = 0 ∧ e.f .SV_RPT_TAIL_TAIL p = 0 ∧
      s.dev.regsBut e [Reg.code .SV_RPT_CFG p 0, Reg.code .SV_RPT_HEAD p 0, Reg.code .SV_RPT_TAIL p 0] ∧
      s.dev.restSame e) := by
  refine Completes.of_accepted rfl hacc ?_
  rw [Dev.rptCfg_enable ap hoff hon hsize]
  refine ⟨Dev.flag_of_one ?_, ?_, ?_, ?_, ?_⟩
  · rw [Dev.settle_f]
    simp [Dev.f_setF_same, Dev.f_setF_ne_reg]
  · rw [Dev.settle_f]
    simp [Dev.f_setF_same, Dev.f_setF_ne_reg]
  · rw [Dev.settle_f]
    simp [Dev.f_setF_same]
  · refine (Dev.regsBut.setF (.setF (.setF (.setF (.plainWrite (.refl _ _) _ ?_) 0 ?_) 1 ?_) 0 ?_) 0 ?_).settle <;> simp
  · exact (Dev.restSame.setF (.setF (.setF (.setF (.plainWrite (.refl _) ..) ..) ..) ..) ..).settle

/-- ERR_Q_CFG enables the disabled error report ring. -/
theorem errQCfg_enable_completes (s : State) (ap : Aperture) (v : BitVec 32) (hacc : s.dev.accepts ap .ERR_Q_CFG 0 = true)
    (hoff : s.dev.flag .ERR_Q_CFG_ENABLE = false) (hon : Fld.ERR_Q_CFG_ENABLE.of (v.zeroExtend 64) = 1)
    (hsize : sizeOk (Fld.ERR_Q_CFG_SIZE_LOG2.of (v.zeroExtend 64)) = true) :
    Completes (.errQCfg ap v) s (fun e =>
      e.flag .ERR_Q_CFG_ENABLE = true ∧ e.f .ERR_Q_HEAD_HEAD = 0 ∧ e.f .ERR_Q_TAIL_TAIL = 0 ∧ e.f .ERR_Q_TAIL_PHASE = 1 ∧
      e.link.held = s.dev.link.held ∧
      s.dev.regsBut e [Reg.code .ERR_Q_CFG 0 0, Reg.code .ERR_Q_HEAD 0 0, Reg.code .ERR_Q_TAIL 0 0]) := by
  refine Completes.of_accepted rfl hacc ?_
  rw [Dev.errCfg_enable ap hoff hon hsize]
  have hframe : s.dev.regsBut ((((((s.dev.plainWrite .ERR_Q_CFG (v.zeroExtend 64)).setF .ERR_Q_CFG_ENABLE 0).setF
      .ERR_Q_CFG_ENABLE 1).setF .ERR_Q_HEAD_HEAD 0).setF .ERR_Q_TAIL_TAIL 0).setF .ERR_Q_TAIL_PHASE 1)
      [Reg.code .ERR_Q_CFG 0 0, Reg.code .ERR_Q_HEAD 0 0, Reg.code .ERR_Q_TAIL 0 0] := by
    refine .setF (.setF (.setF (.setF (.setF (.plainWrite (.refl _ _) _ ?_) 0 ?_) 1 ?_) 0 ?_) 0 ?_) 1 ?_ <;> simp
  generalize hb : (((((s.dev.plainWrite .ERR_Q_CFG (v.zeroExtend 64)).setF .ERR_Q_CFG_ENABLE 0).setF .ERR_Q_CFG_ENABLE 1).setF
    .ERR_Q_HEAD_HEAD 0).setF .ERR_Q_TAIL_TAIL 0).setF .ERR_Q_TAIL_PHASE 1 = b at hframe ⊢
  have hen : b.f .ERR_Q_CFG_ENABLE = 1 := by simp [← hb, Dev.f_setF_same, Dev.f_setF_ne_reg]
  have hhead : b.f .ERR_Q_HEAD_HEAD = 0 := by simp [← hb, Dev.f_setF_same, Dev.f_setF_ne_reg]
  have htail : b.f .ERR_Q_TAIL_TAIL = 0 := by simp [← hb, Dev.f_setF_same, Dev.f_setF_apart]
  have hphase : b.f .ERR_Q_TAIL_PHASE = 1 := by simp [← hb, Dev.f_setF_same]
  exact ⟨Dev.flag_of_one hen, hhead, htail, hphase, rfl, hframe⟩

/-- SEC_TALLY_CFG enables the disabled tally ring. -/
theorem secTallyCfg_enable_completes (s : State) (ap : Aperture) (v : BitVec 32)
    (hacc : s.dev.accepts ap .SEC_TALLY_CFG 0 = true) (hoff : s.dev.flag .SEC_TALLY_CFG_ENABLE = false)
    (hon : Fld.SEC_TALLY_CFG_ENABLE.of (v.zeroExtend 64) = 1) (h2 : 2 ≤ Fld.SEC_TALLY_CFG_SIZE_LOG2.of (v.zeroExtend 64))
    (h12 : Fld.SEC_TALLY_CFG_SIZE_LOG2.of (v.zeroExtend 64) ≤ 12) :
    Completes (.secTallyCfg ap v) s (fun e =>
      e.flag .SEC_TALLY_CFG_ENABLE = true ∧ e.f .SEC_TALLY_HEAD_HEAD = 0 ∧ e.f .SEC_TALLY_TAIL_TAIL = 0 ∧
      e.f .SEC_TALLY_TAIL_PHASE = 1 ∧
      s.dev.regsBut e [Reg.code .SEC_TALLY_CFG 0 0, Reg.code .SEC_TALLY_HEAD 0 0, Reg.code .SEC_TALLY_TAIL 0 0] ∧
      s.dev.restSame e) := by
  refine Completes.of_accepted rfl hacc ?_
  rw [Dev.tallyCfg_enable ap hoff hon h2 h12]
  refine ⟨Dev.flag_of_one ?_, ?_, ?_, ?_, ?_, ?_⟩
  · rw [Dev.settle_f]
    simp [Dev.f_setF_same, Dev.f_setF_ne_reg]
  · rw [Dev.settle_f]
    simp [Dev.f_setF_same, Dev.f_setF_ne_reg]
  · rw [Dev.settle_f]
    simp [Dev.f_setF_same, Dev.f_setF_apart]
  · rw [Dev.settle_f]
    simp [Dev.f_setF_same]
  · refine (Dev.regsBut.setF (.setF (.setF (.setF (.setF (.plainWrite (.refl _ _) _ ?_) 0 ?_) 1 ?_) 0 ?_) 0 ?_) 1 ?_).settle <;>
      simp
  · exact (Dev.restSame.setF (.setF (.setF (.setF (.setF (.plainWrite (.refl _) ..) ..) ..) ..) ..) ..).settle

/-- WIN_RING_ENABLE enables a disabled window ring whose partition holds its job. -/
theorem winRingEnable_completes (s : State) (ap : Aperture) (r : Fin 16) (v : BitVec 32)
    (hacc : s.dev.accepts ap .WIN_RING_CTRL r = true) (hoff : s.dev.flag .WIN_RING_CTRL_ENABLE r = false)
    (h0 : v.getLsbD 0 = true) (h1 : v.getLsbD 1 = false) (h4 : 4 ≤ s.dev.f .WIN_RING_CFG_SIZE_LOG2 r)
    (h12 : s.dev.f .WIN_RING_CFG_SIZE_LOG2 r ≤ 12) (hvalid : s.dev.valid (s.dev.f .WIN_RING_CFG_PARTITION r) = true)
    (hjob : s.dev.f .PART_CTRL_JOB (s.dev.f .WIN_RING_CFG_PARTITION r) = s.dev.f .WIN_RING_CFG_JOB r) :
    Completes (.winRingEnable ap r v) s (fun e =>
      e.flag .WIN_RING_CTRL_ENABLE r = true ∧ e.f .WIN_RING_HEAD_HEAD r = 0 ∧ e.f .WIN_RING_TAIL_TAIL r = 0 ∧
      s.dev.regsBut e [Reg.code .WIN_RING_CTRL r 0, Reg.code .WIN_RING_HEAD r 0, Reg.code .WIN_RING_TAIL r 0] ∧
      s.dev.restSame e) := by
  refine Completes.of_accepted rfl hacc ?_
  rw [Dev.winCtrl_enable ap hoff h0 h1 h4 h12 hvalid hjob]
  refine ⟨Dev.flag_of_one ?_, ?_, ?_, ?_, ?_⟩
  · rw [Dev.settle_f]
    simp [Dev.f_setF_same, Dev.f_setF_ne_reg]
  · rw [Dev.settle_f]
    simp [Dev.f_setF_same, Dev.f_setF_ne_reg]
  · rw [Dev.settle_f]
    simp [Dev.f_setF_same]
  · refine (Dev.regsBut.setF (.setF (.setF (.refl _ _) 1 ?_) 0 ?_) 0 ?_).settle <;> simp
  · exact (Dev.restSame.setF (.setF (.setF (.refl _) ..) ..) ..).settle

/-- Settles O15: each enable sets ENABLE after the written fields, and resets the positions. -/
theorem ringEnables : Obligations.RingEnables := by
  unfold Obligations.RingEnables
  exact fun s ap v => ⟨fun p => svRptCfg_enable_completes s ap p v, errQCfg_enable_completes s ap v,
    secTallyCfg_enable_completes s ap v, fun r => winRingEnable_completes s ap r v⟩

end Sys2Proof.Machine
end

section
/-! PROOFS. Records for the host: completion records, error reports, and the host link (R43, R48, R52, R327 to R329). -/

namespace Sys2Proof.Machine

/-! ## Held records -/

/-- The first held record that meets a test is the one with none before it. -/
theorem takeFirst_append {p : Held → Bool} {before : List Held} {h : Held} (after : List Held)
    (hbefore : before.any p = false) (hp : p h = true) : takeFirst p (before ++ h :: after) = some (h, before ++ after) := by
  induction before with
  | nil => simp [takeFirst, hp]
  | cons b before ih =>
    simp only [List.any_cons, Bool.or_eq_false_iff] at hbefore
    simp [takeFirst, hbefore.1, ih hbefore.2]

/-- A tail before the ring's end moves on, and one at it wraps and inverts the phase (R48). -/
theorem nextTail_cases (size tail phase : Nat) :
    (tail + 1 < size → nextTail size tail phase = (tail + 1, phase)) ∧
    (tail + 1 = size → nextTail size tail phase = (0, 1 - phase)) := by
  refine ⟨fun h => ?_, fun h => ?_⟩
  · rw [nextTail, if_neg (by omega)]
  · rw [nextTail, if_pos h]

/-- A counter field after another of its register has been advanced. -/
theorem Dev.f_addF_apart (d : Dev) (f g : Fld) (n i j : Nat) (hr : g.reg = f.reg) (h : f.lo + f.width ≤ 64)
    (hd : g.lo + g.width ≤ f.lo ∨ f.lo + f.width ≤ g.lo) : (d.addF f n i j).f g i j = d.f g i j :=
  d.f_setF_apart f g _ i j hr h hd

/-- A field of another register after a counter has been advanced. -/
theorem Dev.f_addF_ne_reg (d : Dev) (f g : Fld) (n i j i' j' : Nat) (h : g.reg ≠ f.reg) :
    (d.addF f n i j).f g i' j' = d.f g i' j' := d.f_setF_ne_reg f g _ i j i' j' h

/-! ## Completion records -/

/-- The queue's count of a record's status: neither where the command succeeded (R68). -/
def Dev.statusCounted (d : Dev) (k : Completion) : Dev :=
  match k.status with
  | .ok | .suspect => d
  | .killedPreempt => d.addF .CMD_ACCT_CMDS_PREEMPTED 1 k.queue
  | _ => d.addF .CMD_ACCT_CMDS_KILLED 1 k.queue

theorem Dev.recordWritten_eq (d : Dev) (k : Completion) :
    d.recordWritten k = { (d.addF .CMD_ACCT_CMDS_DONE 1 k.queue).statusCounted k with
      cmds := d.cmds.filter (fun c => c.id != k.cmd) } := by
  unfold Dev.recordWritten Dev.statusCounted
  cases k.status <;> rfl

/-- What a status counts, and that it counts nothing else. -/
theorem Dev.statusCounted_counts (d : Dev) (k : Completion) :
    (k.status = .killedPreempt → d.bumped (d.statusCounted k) .CMD_ACCT_CMDS_PREEMPTED 1 k.queue) ∧
    (k.status ≠ .killedPreempt →
      (d.statusCounted k).f .CMD_ACCT_CMDS_PREEMPTED k.queue = d.f .CMD_ACCT_CMDS_PREEMPTED k.queue) ∧
    (k.status = .ok ∨ k.status = .suspect ∨ k.status = .killedPreempt →
      (d.statusCounted k).f .CMD_ACCT_CMDS_KILLED k.queue = d.f .CMD_ACCT_CMDS_KILLED k.queue) ∧
    (k.status ≠ .ok ∧ k.status ≠ .suspect ∧ k.status ≠ .killedPreempt →
      d.bumped (d.statusCounted k) .CMD_ACCT_CMDS_KILLED 1 k.queue) ∧
    (d.statusCounted k).f .CMD_ACCT_CMDS_DONE k.queue = d.f .CMD_ACCT_CMDS_DONE k.queue ∧
    d.regsBut (d.statusCounted k) [Reg.code .CMD_ACCT_CMDS k.queue 0] ∧ d.statusCounted k = { d with regs := (d.statusCounted k).regs } := by
  have hkilled : d.regsBut (d.addF .CMD_ACCT_CMDS_KILLED 1 k.queue) [Reg.code .CMD_ACCT_CMDS k.queue 0] :=
    (Dev.regsBut.refl d _).addF 1 List.mem_cons_self
  unfold Dev.statusCounted
  split
  · next h => simp [h, Dev.regsBut.refl]
  · next h => simp [h, Dev.regsBut.refl]
  · next h =>
    refine ⟨fun _ => d.bumped_addF _ _ _ _ (by decide), fun hn => absurd h hn, fun _ => ?_, fun hn => absurd h hn.2.2, ?_, ?_, rfl⟩
    · exact d.f_addF_apart _ _ _ _ _ rfl (by decide) (by decide)
    · exact d.f_addF_apart _ _ _ _ _ rfl (by decide) (by decide)
    · exact (Dev.regsBut.refl d _).addF 1 List.mem_cons_self
  · next h1 h2 h3 =>
    refine ⟨fun h => absurd h h3, fun _ => ?_, fun h => ?_, fun _ => d.bumped_addF _ _ _ _ (by decide), ?_, hkilled, rfl⟩
    · exact d.f_addF_apart _ _ _ _ _ rfl (by decide) (by decide)
    · obtain h | h | h := h
      · exact absurd h h1
      · exact absurd h h2
      · exact absurd h h3
    · exact d.f_addF_apart _ _ _ _ _ rfl (by decide) (by decide)

/-- The messages of a completion record and its SIGNAL (R48). -/
def Dev.recordOut (d : Dev) (c : Nat) (k : Completion) : List Out :=
  [.memWrite (d.f .CMD_CQ_BASE_BASE c * 32 + d.f .CMD_CQ_TAIL_TAIL c * 32) (k.bytes (d.f .CMD_CQ_TAIL_PHASE c))] ++
  (if d.flag .CMD_CQ_CFG_NOTIFY_EN c && k.notify then
    [.signal (d.f .CMD_CQ_NOTIFY_ADDR c * 8) (BitVec.ofNat 64 (d.f .CMD_CQ_TAIL_TAIL c))] else [])

/-- Messages are sent, in order. -/
def Dev.emits (d : Dev) (l : List Out) : Dev := { d with out := d.out ++ l }

/-- The host's records held are those of a list. -/
def Dev.holding (d : Dev) (l : List Held) : Dev := { d with link := { d.link with held := l } }

@[simp] theorem Dev.holding_f (d : Dev) (l : List Held) (f : Fld) (i j : Nat) : (d.holding l).f f i j = d.f f i j := rfl
@[simp] theorem Dev.holding_reg (d : Dev) (l : List Held) (r : Reg) (i j : Nat) : (d.holding l).reg r i j = d.reg r i j := rfl
@[simp] theorem Dev.emits_f (d : Dev) (l : List Out) (f : Fld) (i j : Nat) : (d.emits l).f f i j = d.f f i j := rfl
@[simp] theorem Dev.emits_reg (d : Dev) (l : List Out) (r : Reg) (i j : Nat) : (d.emits l).reg r i j = d.reg r i j := rfl
@[simp] theorem Dev.holding_flag (d : Dev) (l : List Held) (f : Fld) (i j : Nat) : (d.holding l).flag f i j = d.flag f i j := rfl
@[simp] theorem Dev.emits_flag (d : Dev) (l : List Out) (f : Fld) (i j : Nat) : (d.emits l).flag f i j = d.flag f i j := rfl
@[simp] theorem Dev.emit_flag (d : Dev) (o : Out) (f : Fld) (i j : Nat) : (d.emit o).flag f i j = d.flag f i j := rfl

theorem Dev.holding_eq (d : Dev) (l : List Held) : { d with link := { d.link with held := l } } = d.holding l := rfl

/-- A ring's tail and phase move on (R48). -/
def Dev.tailMoved (d : Dev) (ft fp : Fld) (size i : Nat) : Dev :=
  (d.setF ft (nextTail size (d.f ft i) (d.f fp i)).1 i).setF fp (nextTail size (d.f ft i) (d.f fp i)).2 i

/-- A tail of 16 bits and the phase beside it, after they have moved on in a ring of at most 2^16 slots. -/
theorem Dev.tailMoved_fields {d : Dev} {r : Reg} {size i : Nat} (hsize : size ≤ 2 ^ 16) :
    let e := d.tailMoved ⟨r, 0, 16⟩ ⟨r, 16, 1⟩ size i
    (d.f ⟨r, 0, 16⟩ i + 1 < size → e.f ⟨r, 0, 16⟩ i = d.f ⟨r, 0, 16⟩ i + 1 ∧ e.f ⟨r, 16, 1⟩ i = d.f ⟨r, 16, 1⟩ i) ∧
    (d.f ⟨r, 0, 16⟩ i + 1 = size → e.f ⟨r, 0, 16⟩ i = 0 ∧ e.f ⟨r, 16, 1⟩ i = 1 - d.f ⟨r, 16, 1⟩ i) := by
  have hphase : d.f ⟨r, 16, 1⟩ i < 2 := d.f_lt ⟨r, 16, 1⟩ i 0
  obtain ⟨hon, hwrap⟩ := nextTail_cases size (d.f ⟨r, 0, 16⟩ i) (d.f ⟨r, 16, 1⟩ i)
  have hfields : ∀ t p : Nat, t < 2 ^ 16 → p < 2 →
      ((d.setF ⟨r, 0, 16⟩ t i).setF ⟨r, 16, 1⟩ p i).f ⟨r, 0, 16⟩ i = t ∧
      ((d.setF ⟨r, 0, 16⟩ t i).setF ⟨r, 16, 1⟩ p i).f ⟨r, 16, 1⟩ i = p := by
    intro t p ht hp
    refine ⟨?_, Dev.f_setF_fit _ ⟨r, 16, 1⟩ _ _ (by simp) hp⟩
    rw [Dev.f_setF_apart _ ⟨r, 16, 1⟩ ⟨r, 0, 16⟩ _ _ _ rfl (by simp) (by simp)]
    exact Dev.f_setF_fit _ ⟨r, 0, 16⟩ _ _ (by simp) ht
  refine ⟨fun h => ?_, fun h => ?_⟩
  · simp only [Dev.tailMoved, hon h]
    exact hfields _ _ (by omega) hphase
  · simp only [Dev.tailMoved, hwrap h]
    exact hfields _ _ (by decide) (by omega)

theorem Dev.tailMoved_regsBut (d : Dev) (r : Reg) (size i : Nat) :
    d.regsBut (d.tailMoved ⟨r, 0, 16⟩ ⟨r, 16, 1⟩ size i) [r.code i 0] :=
  ((Dev.regsBut.refl d _).setF _ List.mem_cons_self).setF _ List.mem_cons_self

/-- A completion ring's tail moves on. -/
def Dev.cqMoved (d : Dev) (c : Nat) : Dev := d.tailMoved .CMD_CQ_TAIL_TAIL .CMD_CQ_TAIL_PHASE (d.cqSize c) c

/-- The oldest held record for a ring with room is written to its tail (R48). -/
theorem Dev.writeCompletion_eq {d : Dev} {c : Nat} {k : Completion} {before after : List Held} (hhost : d.canWriteHost = true)
    (hon : d.flag .CMD_CQ_CFG_ENABLE c = true) (hroom : d.cqFull c = false)
    (hheld : d.link.held = before ++ .completion k :: after) (hbefore : before.any (d.heldFor c) = false)
    (hcq : d.cqOf k.queue = c) :
    d.writeCompletion c = (((d.holding (before ++ after)).emits (d.recordOut c k)).cqMoved c).recordWritten k := by
  have hfirst : takeFirst (d.heldFor c) d.link.held = some (.completion k, before ++ after) := by
    rw [hheld]
    exact takeFirst_append after hbefore (by simp [Dev.heldFor, hcq])
  unfold Dev.writeCompletion
  rw [if_neg (by simp [hhost, hon, hroom])]
  simp only [hfirst, Dev.holding_eq]
  refine congrArg (fun x : Dev => x.recordWritten k) ?_
  have hmoved : ∀ e : Dev, (∀ f i j, e.f f i j = d.f f i j) →
      (e.setF .CMD_CQ_TAIL_TAIL (nextTail (e.cqSize c) (d.f .CMD_CQ_TAIL_TAIL c) (d.f .CMD_CQ_TAIL_PHASE c)).1 c).setF
        .CMD_CQ_TAIL_PHASE (nextTail (e.cqSize c) (d.f .CMD_CQ_TAIL_TAIL c) (d.f .CMD_CQ_TAIL_PHASE c)).2 c = e.cqMoved c := by
    intro e he
    simp only [Dev.cqMoved, Dev.tailMoved, he]
  rw [hmoved]
  swap
  · exact fun f i j => (apply_ite (fun x : Dev => x.f f i j) _ _ _).trans (ite_self (d.f f i j))
  refine congrArg (fun x : Dev => x.cqMoved c) ?_
  simp only [Dev.emit_flag, Dev.holding_flag, Dev.emit_f, Dev.holding_f]
  by_cases hn : (d.flag .CMD_CQ_CFG_NOTIFY_EN c && k.notify) = true
  · simp only [hn, if_true, Dev.recordOut]
    simp [Dev.emit, Dev.emits, Dev.holding]
  · simp only [hn, Dev.recordOut]
    simp [Dev.emit, Dev.emits, Dev.holding]

/-- A ring has at most 2^15 slots. -/
theorem Dev.size_le (d : Dev) (f : Fld) (i j : Nat) (hf : f.width = 4) : 2 ^ d.f f i j ≤ 2 ^ 16 :=
  Nat.pow_le_pow_right (by decide) (by have := d.f_lt f i j; rw [hf] at this; omega)

/-- A record written, and its ring's tail moved on: what its queue's counters say, and what else has changed. -/
theorem Dev.recordWritten_counts (d : Dev) (k : Completion) :
    let e := d.recordWritten k
    d.bumped e .CMD_ACCT_CMDS_DONE 1 k.queue ∧
    (k.status = .killedPreempt → d.bumped e .CMD_ACCT_CMDS_PREEMPTED 1 k.queue) ∧
    (k.status ≠ .killedPreempt → e.f .CMD_ACCT_CMDS_PREEMPTED k.queue = d.f .CMD_ACCT_CMDS_PREEMPTED k.queue) ∧
    (k.status = .ok ∨ k.status = .suspect ∨ k.status = .killedPreempt →
      e.f .CMD_ACCT_CMDS_KILLED k.queue = d.f .CMD_ACCT_CMDS_KILLED k.queue) ∧
    (k.status ≠ .ok ∧ k.status ≠ .suspect ∧ k.status ≠ .killedPreempt → d.bumped e .CMD_ACCT_CMDS_KILLED 1 k.queue) ∧
    d.regsBut e [Reg.code .CMD_ACCT_CMDS k.queue 0] ∧
    e = { d with regs := e.regs, cmds := d.cmds.filter (fun c => c.id != k.cmd) } := by
  have hpre : (d.addF .CMD_ACCT_CMDS_DONE 1 k.queue).f .CMD_ACCT_CMDS_PREEMPTED k.queue = d.f .CMD_ACCT_CMDS_PREEMPTED k.queue :=
    d.f_addF_apart _ _ _ _ _ rfl (by decide) (by decide)
  have hkil : (d.addF .CMD_ACCT_CMDS_DONE 1 k.queue).f .CMD_ACCT_CMDS_KILLED k.queue = d.f .CMD_ACCT_CMDS_KILLED k.queue :=
    d.f_addF_apart _ _ _ _ _ rfl (by decide) (by decide)
  have hdone := d.bumped_addF .CMD_ACCT_CMDS_DONE 1 k.queue 0 (by decide)
  have hframe := (Dev.regsBut.refl d [Reg.code .CMD_ACCT_CMDS k.queue 0]).addF (f := .CMD_ACCT_CMDS_DONE) 1 List.mem_cons_self
  have hrest : d.addF .CMD_ACCT_CMDS_DONE 1 k.queue = { d with regs := (d.addF .CMD_ACCT_CMDS_DONE 1 k.queue).regs } := rfl
  rw [Dev.recordWritten_eq]
  generalize d.addF .CMD_ACCT_CMDS_DONE 1 k.queue = m at *
  obtain ⟨h1, h2, h3, h4, h5, h6, h7⟩ := m.statusCounted_counts k
  unfold Dev.bumped at *
  rw [hpre] at h1 h2
  rw [hkil] at h3 h4
  refine ⟨h5.trans hdone, h1, h2, h3, h4, hframe.trans h6, ?_⟩
  dsimp only
  rw [h7, hrest]

/-- Settles O16: the record taken is the first bound for the ring, and the counters are of another register than the tail. -/
theorem completionRecordWritten : Obligations.CompletionRecordWritten := by
  unfold Obligations.CompletionRecordWritten
  intro s c k before after hhost hon hroom hheld hbefore hcq hq
  refine Completes.of_act (g := fun d => d.writeCompletion c) rfl ?_
  rw [Dev.writeCompletion_eq hhost hon hroom hheld hbefore hcq]
  obtain ⟨hnext, hwrap⟩ := Dev.tailMoved_fields (d := (s.dev.holding (before ++ after)).emits (s.dev.recordOut c k))
    (r := .CMD_CQ_TAIL) (i := c) (s.dev.size_le .CMD_CQ_CFG_SIZE_LOG2 c 0 rfl)
  have hframe : s.dev.regsBut (((s.dev.holding (before ++ after)).emits (s.dev.recordOut c k)).cqMoved c)
      [Reg.code .CMD_CQ_TAIL c 0] :=
    ((s.dev.holding (before ++ after)).emits (s.dev.recordOut c k)).tailMoved_regsBut .CMD_CQ_TAIL (s.dev.cqSize c) c
  have hother : ∀ f : Fld, f.reg ≠ .CMD_CQ_TAIL → ∀ i,
      (((s.dev.holding (before ++ after)).emits (s.dev.recordOut c k)).cqMoved c).f f i = s.dev.f f i :=
    fun f hf i => congrArg f.of (hframe f.reg i 0 (by simpa using fun hc => hf (Reg.code_reg hc)))
  have hrest : ((s.dev.holding (before ++ after)).emits (s.dev.recordOut c k)).cqMoved c =
      { (s.dev.holding (before ++ after)).emits (s.dev.recordOut c k) with
        regs := (((s.dev.holding (before ++ after)).emits (s.dev.recordOut c k)).cqMoved c).regs } := rfl
  change _ → (((s.dev.holding (before ++ after)).emits (s.dev.recordOut c k)).cqMoved c).f _ c = _ ∧
    (((s.dev.holding (before ++ after)).emits (s.dev.recordOut c k)).cqMoved c).f _ c = _ at hnext hwrap
  generalize ((s.dev.holding (before ++ after)).emits (s.dev.recordOut c k)).cqMoved c = m at *
  obtain ⟨hdone, hpre, hnpre, hok, hkilled, hregs, hall⟩ := m.recordWritten_counts k
  generalize m.recordWritten k = e at *
  have htail : ∀ f : Fld, f.reg = .CMD_CQ_TAIL → e.f f c = m.f f c := fun f hf =>
    congrArg f.of (hregs f.reg c 0 (by simpa [hf] using fun hc => absurd (Reg.code_reg hc) (by decide)))
  unfold Dev.bumped at *
  rw [hother _ (by decide)] at hdone hpre hnpre hok hkilled
  refine ⟨?_, ?_, ?_, hdone, fun h => ⟨hpre h, hok (.inr (.inr h))⟩, hnpre, fun h => hok (h.imp_right .inl), hkilled, fun h => ?_,
    fun h => ?_, ?_, ?_⟩
  · rw [hall, hrest, List.append_assoc]
    rfl
  · rw [hall, hrest]
    rfl
  · rw [hall, hrest]
    rfl
  · rw [Dev.settle_f, Dev.settle_f, htail _ rfl, htail _ rfl]
    exact hnext h
  · rw [Dev.settle_f, Dev.settle_f, htail _ rfl, htail _ rfl]
    exact hwrap h
  · exact ((hframe.mono (by simp)).trans (hregs.mono (by simp))).settle
  · rw [hall, hrest]
    rfl

/-! ## Error reports -/

/-- The oldest held report is written to the tail of the report ring, and its severity counts from there (R328, R329). -/
theorem Dev.writeReport_eq {d : Dev} {r : Report} {before after : List Held} (hhost : d.canWriteHost = true)
    (hon : d.flag .ERR_Q_CFG_ENABLE = true) (hroom : d.errFull = false) (hheld : d.link.held = before ++ .report r :: after)
    (hbefore : before.any isReport = false) :
    d.writeReport = ({ d with
        link := { d.link with held := before ++ after, ringSev := d.link.ringSev ++ [r.code.severity] }
        out := d.out ++ [.memWrite (d.f .ERR_Q_BASE_BASE * 64 + d.f .ERR_Q_TAIL_TAIL * 64) (r.bytes (d.f .ERR_Q_TAIL_PHASE))] }
      : Dev).tailMoved .ERR_Q_TAIL_TAIL .ERR_Q_TAIL_PHASE d.errSize 0 := by
  have hfirst : takeFirst isReport d.link.held = some (.report r, before ++ after) := by
    rw [hheld]
    exact takeFirst_append after hbefore rfl
  unfold Dev.writeReport
  rw [if_neg (by simp [hhost, hon, hroom])]
  simp only [hfirst]
  rfl

/-- Settles O17: the report taken is the first one held, and only the ring's tail register changes. -/
theorem errorReportWritten : Obligations.ErrorReportWritten := by
  unfold Obligations.ErrorReportWritten
  intro s r before after hhost hon hroom hheld hbefore
  refine Completes.of_act (g := Dev.writeReport) rfl ?_
  rw [Dev.writeReport_eq hhost hon hroom hheld hbefore]
  have hmoved := fun m : Dev => Dev.tailMoved_fields (d := m) (r := .ERR_Q_TAIL) (i := 0)
    (s.dev.size_le .ERR_Q_CFG_SIZE_LOG2 0 0 rfl)
  refine ⟨rfl, rfl, fun h => ?_, fun h => ?_, ?_, rfl, rfl⟩
  · exact (hmoved { s.dev with link := _, out := _ }).1 h
  · exact (hmoved { s.dev with link := _, out := _ }).2 h
  · exact (((Dev.regsBut.refl s.dev _).congr (e' := { s.dev with link := _, out := _ }) rfl).trans
      (Dev.tailMoved_regsBut _ .ERR_Q_TAIL _ _)).settle

/-! ## The host link -/

/-- HOST_LINK_DOWN is reported, and the link no longer up (R43). -/
theorem hostLinkDown_completes {s : State} (hup : s.dev.link.up = true) : Completes .hostLinkDown s (fun e =>
    e.link.up = false ∧ s.dev.posted e .HOST_LINK_DOWN (fun _ => True) ∧ e.cmds = s.dev.cmds ∧ e.mem = s.dev.mem ∧
    e.canWriteHost = false ∧ ∀ q, e.mayFetch q = false) := by
  refine Completes.of_act (g := Dev.linkGoesDown) rfl ?_
  have hdown : s.dev.linkGoesDown = { s.dev with link := (s.dev.linkGoesDown).link } ∧ s.dev.linkGoesDown.link.up = false ∧
      s.dev.posted s.dev.linkGoesDown .HOST_LINK_DOWN (fun _ => True) := by
    rw [Dev.linkGoesDown, if_pos hup]
    exact ⟨rfl, rfl, _, rfl, rfl, rfl, rfl, trivial⟩
  generalize s.dev.linkGoesDown = e at *
  obtain ⟨hrest, hlow, hposted⟩ := hdown
  refine ⟨hlow, hposted.settle, ?_, ?_, ?_, fun q => ?_⟩
  · rw [hrest]
    rfl
  · rw [hrest]
    rfl
  · simp [Dev.canWriteHost, hlow]
  · simp [Dev.mayFetch, hlow]

/-- While 1,024 records are held, a row of an engine changes nothing (R43; log 130). -/
theorem Completes.of_stalled {i : Instr} {s : State} {e : Dev}
    (hexec : exec i s = .next { dev := (if s.dev.stalled then s.dev else e).settle, pending := s.pending })
    (hfull : 1024 ≤ s.dev.link.held.length) : Completes i s (fun e => s.dev.same e) := by
  have hstalled : s.dev.stalled = true := by simpa [Dev.stalled] using hfull
  rw [if_pos hstalled] at hexec
  exact ⟨_, hexec, rfl, Dev.same_settle _⟩

/-- Settles O18: the host link's rows change the link alone, and each listed row is an engine's. -/
theorem hostLinkHoldsRecords : Obligations.HostLinkHoldsRecords := by
  unfold Obligations.HostLinkHoldsRecords
  intro s
  refine ⟨hostLinkDown_completes, fun hstage hcold hhalted => ?_, fun id k n q ce x y r data hfull i hi => ?_⟩
  · refine Completes.of_act (g := Dev.linkComesUp) rfl ?_
    rw [Dev.linkComesUp, if_pos ⟨hstage, hcold, hhalted⟩]
    exact ⟨rfl, rfl, rfl, rfl⟩
  · simp only [List.mem_cons, List.not_mem_nil, or_false] at hi
    rcases hi with rfl | rfl | rfl | rfl | rfl | rfl | rfl | rfl | rfl | rfl | rfl | rfl | rfl | rfl | rfl | rfl | rfl | rfl | rfl |
      rfl | rfl | rfl | rfl | rfl | rfl | rfl | rfl | rfl | rfl | rfl | rfl | rfl | rfl | rfl | rfl | rfl | rfl | rfl | rfl | rfl <;>
      exact Completes.of_stalled rfl hfull

end Sys2Proof.Machine
end

section
/-! PROOFS. What work on behalf of a job never reaches: the shared part of the device, and the rules by which an operation
keeps it. -/

namespace Sys2Proof.Machine

/-! ## The part of the device that work does not reach -/

/-- The registers of the count and of the partitions' jobs. -/
@[simp] def keptRegs : List Reg := [.RING_COUNT, .RING_STATUS, .PART_CTRL, .RING_STEP]

/-- What work on behalf of a job leaves as it was: fuses, start-up, metering, security, the arbiters, the ring count, the
partitions' jobs, the ends and claims of commands, the superseded versions and the charges. -/
structure Kept where
  fuses : Fuses
  boot : Boot
  sec : SecSt
  scl : SclSt
  arb : ArbSt
  quarantine : List (Nat × Nat)
  ring : RingSt
  nextId : Nat
  up : Bool
  ends : List (Nat × Bool × List Claim)
  superseded : List Superseded
  charges : List Charge
  reg : Reg → Nat → Nat → BitVec 64

/-- The kept part of a device. -/
def Dev.kept (d : Dev) : Kept where
  fuses := d.fuses
  boot := d.boot
  sec := d.sec
  scl := d.scl
  arb := d.arb
  quarantine := d.quarantine
  ring := d.ring
  nextId := d.nextId
  up := d.link.up
  ends := d.cmds.map (fun c => (c.id, c.ended, c.claims))
  superseded := d.mem.superseded
  charges := d.mem.charges
  reg := fun r i j => if r ∈ keptRegs then d.reg r i j else 0

/-- The kept part but for the arbiters' grants. -/
def Kept.butGrants (k : Kept) : Kept := { k with arb := { k.arb with grants := [] } }

/-- The kept part but for the ends and claims of commands. -/
def Kept.butEnds (k : Kept) : Kept := { k with ends := [] }

variable (d : Dev)

/-- Only a register of the count or of a partition's job is kept. -/
theorem Dev.kept_setReg (r : Reg) (v : BitVec 64) (i j : Nat) (h : r ∉ keptRegs) : (d.setReg r v i j).kept = d.kept := by
  have hreg (q : Reg) (a b : Nat) :
      (if q ∈ keptRegs then (d.setReg r v i j).reg q a b else 0) = if q ∈ keptRegs then d.reg q a b else 0 := by
    split
    · rename_i hq
      exact d.reg_setReg_ne v i j a b (fun hc => h (hc ▸ hq))
    · rfl
  exact congrArg (Kept.mk d.fuses d.boot d.sec d.scl d.arb d.quarantine d.ring d.nextId d.link.up _ _ _)
    (funext fun q => funext fun a => funext fun b => hreg q a b)

@[simp] theorem Dev.setReg_kept (r : Reg) (v : BitVec 64) (i j : Nat) (h : r ∉ keptRegs) :
    (d.setReg r v i j).kept = d.kept := d.kept_setReg r v i j h

@[simp] theorem Dev.setF_kept (f : Fld) (n i j : Nat) (h : f.reg ∉ keptRegs) : (d.setF f n i j).kept = d.kept :=
  d.kept_setReg f.reg _ i j h

@[simp] theorem Dev.addF_kept (f : Fld) (n i j : Nat) (h : f.reg ∉ keptRegs) : (d.addF f n i j).kept = d.kept :=
  d.setF_kept f _ i j h

@[simp] theorem Dev.subF_kept (f : Fld) (n i j : Nat) (h : f.reg ∉ keptRegs) : (d.subF f n i j).kept = d.kept :=
  d.setF_kept f _ i j h

/-- Two devices that differ only in fields of which nothing is kept. -/
theorem Dev.kept_congr {d e : Dev} (h : e = { d with
    hi := e.hi, lo := e.lo, pins := e.pins, flash := e.flash, lnd := e.lnd, err := e.err, stalls := e.stalls, fab := e.fab,
    borer := e.borer, arr := e.arr, sv := e.sv, xe := e.xe, swaps := e.swaps, win := e.win, coll := e.coll, out := e.out,
    free := e.free }) : e.kept = d.kept := by
  rw [h]
  rfl

/-- The fields of the device of which nothing is kept. -/
@[simp] theorem Dev.set_hi_kept (x) : Dev.kept { d with hi := x } = d.kept := Dev.kept_congr rfl
@[simp] theorem Dev.set_lo_kept (x) : Dev.kept { d with lo := x } = d.kept := Dev.kept_congr rfl
@[simp] theorem Dev.set_pins_kept (x) : Dev.kept { d with pins := x } = d.kept := Dev.kept_congr rfl
@[simp] theorem Dev.set_lnd_kept (x) : Dev.kept { d with lnd := x } = d.kept := Dev.kept_congr rfl
@[simp] theorem Dev.set_err_kept (x) : Dev.kept { d with err := x } = d.kept := Dev.kept_congr rfl
@[simp] theorem Dev.set_fab_kept (x) : Dev.kept { d with fab := x } = d.kept := Dev.kept_congr rfl
@[simp] theorem Dev.set_borer_kept (x) : Dev.kept { d with borer := x } = d.kept := Dev.kept_congr rfl
@[simp] theorem Dev.set_arr_kept (x) : Dev.kept { d with arr := x } = d.kept := Dev.kept_congr rfl
@[simp] theorem Dev.set_sv_kept (x) : Dev.kept { d with sv := x } = d.kept := Dev.kept_congr rfl
@[simp] theorem Dev.set_xe_kept (x) : Dev.kept { d with xe := x } = d.kept := Dev.kept_congr rfl
@[simp] theorem Dev.set_swaps_kept (x) : Dev.kept { d with swaps := x } = d.kept := Dev.kept_congr rfl
@[simp] theorem Dev.set_coll_kept (x) : Dev.kept { d with coll := x } = d.kept := Dev.kept_congr rfl
@[simp] theorem Dev.set_out_kept (x) : Dev.kept { d with out := x } = d.kept := Dev.kept_congr rfl
@[simp] theorem Dev.set_free_kept (x) : Dev.kept { d with free := x } = d.kept := Dev.kept_congr rfl

/-- Of memory the superseded versions and the charges are kept. -/
@[simp] theorem Dev.set_mem_kept (m : MemSt) (hs : m.superseded = d.mem.superseded) (hc : m.charges = d.mem.charges) :
    Dev.kept { d with mem := m } = d.kept := by
  simp [Dev.kept, hs, hc, Dev.reg]

/-- Of the host link it is kept whether it is up. -/
@[simp] theorem Dev.set_link_kept (l : LinkSt) (h : l.up = d.link.up) : Dev.kept { d with link := l } = d.kept := by
  simp [Dev.kept, h, Dev.reg]

@[simp] theorem Dev.updFab_kept (g : FabSt → FabSt) : (d.updFab g).kept = d.kept := Dev.kept_congr rfl
@[simp] theorem Dev.updXe_kept (g : XeSt → XeSt) : (d.updXe g).kept = d.kept := Dev.kept_congr rfl
@[simp] theorem Dev.updColl_kept (g : CollSt → CollSt) : (d.updColl g).kept = d.kept := Dev.kept_congr rfl
@[simp] theorem Dev.updBorer_kept (g : BorerSt → BorerSt) : (d.updBorer g).kept = d.kept := Dev.kept_congr rfl
@[simp] theorem Dev.emit_kept (o : Out) : (d.emit o).kept = d.kept := Dev.kept_congr rfl
@[simp] theorem Dev.settle_kept : d.settle.kept = d.kept := Dev.kept_congr rfl
@[simp] theorem Dev.fresh_kept : d.fresh.2.kept = d.kept := by simp [Dev.fresh]

variable {d}

@[simp] theorem Dev.foldl_kept {α : Type} {g : Dev → α → Dev} (hg : ∀ d a, (g d a).kept = d.kept) (l : List α) :
    (l.foldl g d).kept = d.kept := by
  induction l generalizing d with
  | nil => rfl
  | cons a l ih => rw [List.foldl_cons, ih, hg]

variable (d)

@[simp] theorem Dev.emitRead_kept (addr n : Nat) : (d.emitRead addr n).kept = d.kept := by simp [Dev.emitRead]

@[simp] theorem Dev.emitWrite_kept (addr : Nat) (bytes : List Byte) : (d.emitWrite addr bytes).kept = d.kept := by
  simp [Dev.emitWrite]

@[simp] theorem Dev.postFrom_kept (source : Nat) (c : Code) (addr index : Nat) (who : Who) (elapsed : Nat) :
    (d.postFrom source c addr index who elapsed).kept = d.kept := by
  simp only [Dev.postFrom]
  split
  · rw [Dev.setF_kept _ _ _ _ _ (by decide)]; exact d.set_link_kept _ rfl
  · exact d.set_link_kept _ rfl

@[simp] theorem Dev.post_kept (c : Code) (addr index : Nat) (who : Who) (elapsed : Nat) :
    (d.post c addr index who elapsed).kept = d.kept := d.postFrom_kept ..

@[simp] theorem Dev.postFirst_kept (c : Code) (item addr index : Nat) (who : Who) :
    (d.postFirst c item addr index who).kept = d.kept := by
  simp only [Dev.postFirst]
  split <;> simp

@[simp] theorem Dev.rateEvent_kept (kind item n : Nat) : (d.rateEvent kind item n).kept = d.kept := by
  simp only [Dev.rateEvent]
  split
  · rw [Dev.post_kept, Dev.setF_kept _ _ _ _ _ (by decide)]; rfl
  · rfl

/-- Of a command its number, its end and its claims are kept. -/
@[simp] theorem Dev.updCmd_kept (id : Nat) {g : Cmd → Cmd}
    (h : ∀ c, ((g c).id, (g c).ended, (g c).claims) = (c.id, c.ended, c.claims)) : (d.updCmd id g).kept = d.kept := by
  have hends := d.updCmd_map_cmds id g (fun c => (c.id, c.ended, c.claims)) h
  exact congrArg (fun l => { d.kept with ends := l }) hends

@[simp] theorem Dev.postCmd_kept (id : Nat) (c : Code) (st addr index elapsed : Nat) :
    (d.postCmd id c st addr index elapsed).kept = d.kept := by
  simp only [Dev.postCmd]
  split
  · simp
  · rw [Dev.updCmd_kept, Dev.post_kept]
    exact fun _ => rfl

@[simp] theorem Dev.failCmd_kept (id : Nat) (st : Status) : (d.failCmd id st).kept = d.kept :=
  d.updCmd_kept id (fun c => by split <;> rfl)

@[simp] theorem Dev.failPart_kept (id j : Nat) (st : Status) : (d.failPart id j st).kept = d.kept :=
  d.updCmd_kept id (fun c => by split_ifs <;> rfl)

@[simp] theorem Dev.passPart_kept (id j : Nat) : (d.passPart id j).kept = d.kept := d.updCmd_kept id (fun _ => rfl)

@[simp] theorem Dev.finish_kept (id : Nat) : (d.finish id).kept = d.kept := d.updCmd_kept id (fun _ => rfl)

@[simp] theorem Dev.failReport_kept (id j : Nat) (st : Status) (c : Code) (addr index : Nat) :
    (d.failReport id j st c addr index).kept = d.kept := by simp [Dev.failReport]

/-! ## The rules for operations -/

section
variable {κ α β : Type} {π : Dev → κ}

/-- A sequence runs its first part, and its second where that succeeds. -/
theorem Op.run_bind_ok {m : Op α} {d e : Dev} {a : α} (h : m.run.run d = (.ok a, e)) (f : α → Op β) :
    (m >>= f).run.run d = (f a).run.run e := by
  rw [ExceptT.run_bind, StateT.run_bind, h]
  rfl

theorem Op.run_bind_error {m : Op α} {d e : Dev} {x : Fail} (h : m.run.run d = (.error x, e)) (f : α → Op β) :
    (m >>= f).run.run d = (.error x, e) := by
  rw [ExceptT.run_bind, StateT.run_bind, h]
  rfl

/-- An operation keeps a part of the device, whether it succeeds or fails. -/
structure Op.keeps (π : Dev → κ) (m : Op α) : Prop where
  after (d : Dev) : π (m.run.run d).2 = π d

namespace Op.keeps

theorem run {m : Op α} (h : Op.keeps π m) {d e : Dev} {r : Except Fail α} (hr : m.run.run d = (r, e)) : π e = π d := by
  simpa [hr] using h.after d

/-- What keeps a part keeps each part of it. -/
theorem weaken {μ : Type} {m : Op α} (h : Op.keeps π m) (g : κ → μ) : Op.keeps (fun d => g (π d)) m :=
  ⟨fun d => congrArg g (h.after d)⟩

theorem bind {m : Op α} {f : α → Op β} (hm : Op.keeps π m) (hf : ∀ a, Op.keeps π (f a)) : Op.keeps π (m >>= f) := by
  constructor
  intro d
  have h := hm.after d
  rcases hr : m.run.run d with ⟨x | a, e⟩ <;> rw [hr] at h
  · rw [Op.run_bind_error hr]
    exact h
  · rw [Op.run_bind_ok hr]
    exact ((hf a).after e).trans h

@[simp] theorem pure (a : α) : Op.keeps π (Pure.pure a : Op α) := ⟨fun _ => rfl⟩

@[simp] theorem throw (x : Fail) : Op.keeps π (MonadExcept.throw x : Op α) := ⟨fun _ => rfl⟩

@[simp] theorem get : Op.keeps π (MonadState.get : Op Dev) := ⟨fun _ => rfl⟩

@[simp] theorem act {g : Dev → Dev} (h : ∀ d, π (g d) = π d) : Op.keeps π (Op.act g) := ⟨h⟩

@[simp] theorem modify {g : Dev → Dev} (h : ∀ d, π (g d) = π d) : Op.keeps π (modifyGet fun s => (⟨⟩, g s) : Op PUnit) := ⟨h⟩

/-- An access of memory. -/
@[simp] theorem mem {g : Dev → Dev × Except MemErr α} (h : ∀ d, π (g d).1 = π d) : Op.keeps π (Op.mem g) := by
  constructor
  intro d
  have hrun : ((Op.mem g).run.run d).2 = (g d).1 := by
    unfold Op.mem
    rw [Op.run_bind_ok (m := MonadState.get) (a := d) (e := d) rfl]
    rcases g d with ⟨e, _ | _⟩ <;> rfl
  rw [hrun, h]

/-- After the device has been set, what follows keeps what it was set to. -/
theorem after_set {d e : Dev} {f : PUnit → Op α} (h : Op.keeps π (f ⟨⟩)) : π ((set e >>= f).run.run d).2 = π e := by
  rw [Op.run_bind_ok (m := (set e : Op PUnit)) (a := ⟨⟩) (e := e) rfl]
  exact h.after e

/-- What an operation does may hang on the device it finds. -/
theorem of_get {f : Dev → Op α} (h : ∀ d, π ((f d).run.run d).2 = π d) : Op.keeps π (MonadState.get >>= f) := by
  constructor
  intro d
  rw [Op.run_bind_ok (m := MonadState.get) (a := d) (e := d) rfl]
  exact h d

@[simp] theorem map {m : Op α} (h : Op.keeps π m) (f : α → β) : Op.keeps π (f <$> m) := by
  rw [map_eq_pure_bind]
  exact bind h fun _ => pure _

@[simp] theorem forM {f : α → Op PUnit} (h : ∀ a, Op.keeps π (f a)) (l : List α) : Op.keeps π (l.forM f) := by
  induction l with
  | nil => exact pure _
  | cons a l ih => exact bind (h a) fun _ => ih

@[simp] theorem mapM {f : α → Op β} (h : ∀ a, Op.keeps π (f a)) (l : List α) : Op.keeps π (l.mapM f) := by
  induction l with
  | nil => exact pure _
  | cons a l ih =>
    rw [List.mapM_cons]
    exact bind (h a) fun _ => bind ih fun _ => pure _

@[simp] theorem foldlM {f : β → α → Op β} (h : ∀ b a, Op.keeps π (f b a)) (l : List α) (b : β) : Op.keeps π (l.foldlM f b) := by
  induction l generalizing b with
  | nil => exact pure _
  | cons a l ih => exact bind (h b a) fun b => ih b

end Op.keeps
end

end Sys2Proof.Machine
end

section
/-! PROOFS. Memory, Landing, the Borer and failures leave the kept part of the device as it was. -/

namespace Sys2Proof.Machine

variable (d : Dev)

/-! ## Failed accesses -/

@[simp] theorem Dev.hbmUe_kept (id : Option Nat) (addr : Nat) : (d.hbmUe id addr).kept = d.kept := by
  unfold Dev.hbmUe
  split <;> simp

@[simp] theorem Dev.slabUe_kept (id : Option Nat) (arr off : Nat) : (d.slabUe id arr off).kept = d.kept := by
  unfold Dev.slabUe
  split <;> simp

@[simp] theorem Dev.xuFault_kept (id : Option Nat) (p va kind : Nat) (write : Bool) :
    (d.xuFault id p va kind write).kept = d.kept := by
  simp only [Dev.xuFault]
  split <;> simp [apply_ite Dev.kept]

@[simp] theorem Dev.memReport_kept (id : Option Nat) (e : MemErr) : (d.memReport id e).kept = d.kept := by
  cases e <;> cases id <;> simp [Dev.memReport]

@[simp] theorem Dev.memFail_kept (id j : Nat) (e : MemErr) : (d.memFail id j e).kept = d.kept := by
  simp [Dev.memFail]

@[simp] theorem Dev.tileFails_kept (id : Nat) (crc : Bool) (index : Nat) : (d.tileFails id crc index).kept = d.kept := by
  have hcount : ∀ e : Dev, e.kept = d.kept → (if (e.cmd? id).any Cmd.tileBad then e.failCmd id .faultData
      else ((e.postCmd id (if crc then .SK_TILE_CRC else .SK_TILE_GEOM) Status.faultData.num 0 index).failCmd id
        .faultData).updCmd id (fun k => { k with tileBad := true })).kept = d.kept := by
    intro e he
    split
    · simpa using he
    · rw [Dev.updCmd_kept _ _ (by simp)]
      simpa using he
  refine hcount (if crc then d.addF .SK_ERR_CRC 1 else d.addF .SK_ERR_GEOM 1) ?_
  simp [apply_ite Dev.kept]

@[simp] theorem Dev.failWith_kept (id j : Nat) (f : Fail) : (d.failWith id j f).kept = d.kept := by
  cases f <;> simp [Dev.failWith]

/-! ## Memory -/

variable {d}

theorem Dev.physWrite_kept {e : Dev} {a : Nat} {bs : List Byte} (h : d.physWrite a bs = .ok e) : e.kept = d.kept := by
  unfold Dev.physWrite at h
  split at h
  · cases h
  · split at h <;> cases h
    simp

theorem Dev.slabWrite_kept {e : Dev} {arr off : Nat} {bs : List Byte} (h : d.slabWrite arr off bs = .ok e) :
    e.kept = d.kept := by
  simp only [Dev.slabWrite] at h
  split at h
  · cases h
  · split at h <;> cases h
    simp

theorem Dev.lndStore_kept {e : Dev} {b : Nat × Nat} {off : Nat} {bs : List Byte} (h : d.lndStore b off bs = .ok e) :
    e.kept = d.kept := Dev.physWrite_kept h

variable (d)

@[simp] theorem Dev.translate_kept (p va : Nat) (write : Bool) : (d.translate p va write).1.kept = d.kept := by
  unfold Dev.translate
  split
  · split <;> rfl
  · simp only
    split
    · simp
    · split
      · simp
      · exact (Dev.set_mem_kept _ _ rfl rfl).trans (by simp)

@[simp] theorem Dev.pieces_kept (p : Nat) (write : Bool) (fuel va n : Nat) : (d.pieces p write fuel va n).1.kept = d.kept := by
  induction fuel generalizing d va n with
  | zero => rfl
  | succ fuel ih =>
    unfold Dev.pieces
    split
    · rfl
    · have ht := d.translate_kept p va write
      simp only
      split
      · simp_all
      · rename_i e pa h
        have hp := ih e (va + min n (65536 - va % 65536)) (n - min n (65536 - va % 65536))
        split <;> simp_all

@[simp] theorem Dev.writePieces_kept (ps : List (Nat × Nat)) (bs : List Byte) : (d.writePieces ps bs).1.kept = d.kept := by
  induction ps generalizing d bs with
  | nil => rfl
  | cons p ps ih =>
    unfold Dev.writePieces
    split
    · rfl
    · rename_i e h
      exact (ih e _).trans (Dev.physWrite_kept h)

theorem Dev.writePieces_run {d e : Dev} {ps : List (Nat × Nat)} {bs : List Byte} {r : Except MemErr Unit}
    (h : d.writePieces ps bs = (e, r)) : e.kept = d.kept := by
  simpa [h] using d.writePieces_kept ps bs

@[simp] theorem Dev.vaRead_kept (p va n : Nat) : (d.vaRead p va n).1.kept = d.kept := by
  have h := d.pieces_kept p false (n / 65536 + 2) va n
  unfold Dev.vaRead
  split <;> simp_all

@[simp] theorem Dev.vaWrite_kept (p va : Nat) (bs : List Byte) : (d.vaWrite p va bs).1.kept = d.kept := by
  have h := d.pieces_kept p true (bs.length / 65536 + 2) va bs.length
  unfold Dev.vaWrite
  split <;> simp_all

@[simp] theorem Dev.verReadM_kept (v : Version) (m off n : Nat) : (d.verReadM v m off n).1.kept = d.kept := by
  unfold Dev.verReadM
  split <;> simp

@[simp] theorem Dev.verRead_kept (v : Version) (off n : Nat) : (d.verRead v off n).1.kept = d.kept := d.verReadM_kept ..

@[simp] theorem Dev.verWriteM_kept (v : Version) (m off : Nat) (bs : List Byte) :
    (d.verWriteM v m off bs).1.kept = d.kept := by
  unfold Dev.verWriteM
  split
  · split
    · rfl
    · exact Dev.slabWrite_kept ‹_›
  · simp

@[simp] theorem Dev.verWrite_kept (v : Version) (off : Nat) (bs : List Byte) : (d.verWrite v off bs).1.kept = d.kept :=
  d.verWriteM_kept ..

/-! ## Landing -/

@[simp] theorem Dev.setFree_kept (k n : Nat) : (d.setFree k n).kept = d.kept := by
  simp [Dev.setFree, apply_ite Dev.kept]

@[simp] theorem Dev.lndAlloc_kept (p k : Nat) (user : LndUser) : (d.lndAlloc p k user).1.kept = d.kept := by
  unfold Dev.lndAlloc
  split
  · exact (Dev.set_lnd_kept _ _).trans (by simp)
  · simp only
    split <;> simp

@[simp] theorem Dev.lndReturn_kept (b : LndBuf) : (d.lndReturn b).kept = d.kept := by
  have hheld : ({ d.subF .TIER_LND_USE_USED 1 b.part b.pool with lnd :=
      { d.lnd with held := d.lnd.held.erase b } } : Dev).kept = d.kept :=
    (Dev.set_lnd_kept _ _).trans (by simp)
  simp only [Dev.lndReturn]
  split
  · rw [Dev.addF_kept _ _ _ _ _ (by simp)]
    exact (Dev.set_lnd_kept _ _).trans hheld
  · rw [Dev.setF_kept _ _ _ _ _ (by simp)]
    exact hheld

/-! ## The Borer -/

@[simp] theorem Dev.updHist_kept (s step : Nat) (g : Hist → Hist) : (d.updHist s step g).kept = d.kept := by
  simp [Dev.updHist]

@[simp] theorem Dev.feedBorer_kept (s p cmd step : Nat) (vals : List (Nat × F32)) :
    (d.feedBorer s p cmd step vals).kept = d.kept := by
  simp [Dev.feedBorer]

@[simp] theorem Dev.brUnclean_kept (s p step : Nat) (ev : Ev) : (d.brUnclean s p step ev).kept = d.kept := by
  simp [Dev.brUnclean, apply_ite Dev.kept]

/-! ## Operations on a command's behalf -/

/-- What an operation keeps, it keeps for the command it works for, whether it succeeds or fails the command. -/
@[simp] theorem Dev.work_kept {id j : Nat} {m : Op Unit} (hm : Op.keeps Dev.kept m) : (d.work id j m).kept = d.kept := by
  have h := hm.after d
  unfold Dev.work
  split <;> simp_all

theorem Dev.work_butGrants {id j : Nat} {m : Op Unit} (hm : Op.keeps (fun d => d.kept.butGrants) m) :
    (d.work id j m).kept.butGrants = d.kept.butGrants := by
  have h := hm.after d
  unfold Dev.work
  split <;> simp_all

theorem Dev.work_butEnds {id j : Nat} {m : Op Unit} (hm : Op.keeps (fun d => d.kept.butEnds) m) :
    (d.work id j m).kept.butEnds = d.kept.butEnds := by
  have h := hm.after d
  unfold Dev.work
  split <;> simp_all

@[simp] theorem Op.keeps.forPart {α : Type} {id j : Nat} {m : Op α} (hm : Op.keeps Dev.kept m) :
    Op.keeps Dev.kept (Machine.forPart id j m) := by
  refine Op.keeps.of_get fun d => ?_
  have h := hm.after d
  split
  · rename_i hr
    rw [hr] at h
    exact h
  · rename_i f e hr
    rw [hr] at h
    exact (e.failWith_kept id j f).trans h

@[simp] theorem need_keeps (b : Bool) (f : Fail) : Op.keeps Dev.kept (need b f) := by
  cases b
  · exact .throw f
  · exact .pure ()

@[simp] theorem rd_keeps (v : Version) (off n : Nat) : Op.keeps Dev.kept (rd v off n) := by simp [rd]

@[simp] theorem rdNat_keeps (v : Version) (off n : Nat) : Op.keeps Dev.kept (rdNat v off n) :=
  (rd_keeps v off n).bind fun _ => .pure _

@[simp] theorem wr_keeps (v : Version) (off : Nat) (bs : List Byte) : Op.keeps Dev.kept (wr v off bs) := by simp [wr]

end Sys2Proof.Machine
end

section
/-! PROOFS. The operations on matrices, tables and the arrays' work leave the kept part of the device as it was. -/

namespace Sys2Proof.Machine

theorem Dev.lndStores_kept {d e : Dev} {bufs : List (Nat × Nat)} {off : Nat} {bs : List Byte}
    (h : d.lndStores bufs off bs = .ok e) : e.kept = d.kept := by
  have hstores (l : List ((Nat × Nat) × Nat × Nat)) (a b : Dev × List Byte) (hl : l.foldlM (fun a e => do
      return (← a.1.lndStore e.1 e.2.1 (a.2.take e.2.2), a.2.drop e.2.2)) a = (.ok b : Except MemErr (Dev × List Byte))) :
      b.1.kept = a.1.kept := by
    induction l generalizing a with
    | nil => cases hl; rfl
    | cons x l ih =>
      rw [List.foldlM_cons] at hl
      rcases hs : a.1.lndStore x.1 x.2.1 (a.2.take x.2.2) with _ | d' <;> rw [hs] at hl
      · cases hl
      · exact (ih _ hl).trans (Dev.lndStore_kept hs)
  unfold Dev.lndStores at h
  rcases hf : (spanOf bufs off bs.length).foldlM (fun (a : Dev × List Byte) e => do
      return (← a.1.lndStore e.1 e.2.1 (a.2.take e.2.2), a.2.drop e.2.2)) (d, bs) with _ | r <;> rw [hf] at h
  · cases h
  · cases h
    exact hstores _ _ _ hf

@[simp] theorem Region.rd_keeps (g : Region) (j off n : Nat) : Op.keeps Dev.kept (Region.rd g j off n) := by
  simp [Region.rd]

@[simp] theorem Region.entry_keeps (g : Region) (i j : Nat) : Op.keeps Dev.kept (Region.entry g i j) := by
  simp [Region.entry]

@[simp] theorem Region.record_keeps (g : Region) (i j : Nat) (own : Bool) :
    Op.keeps Dev.kept (Region.record g i j own) := by
  unfold Region.record
  repeat' first | with_reducible apply Op.keeps.bind | intro _
  all_goals simp

@[simp] theorem Region.tile_keeps (g : Region) (i j : Nat) (own : Bool) :
    Op.keeps Dev.kept (Region.tile g i j own) := by
  simp [Region.tile]

@[simp] theorem matrixAt_keeps (v : Version) (off : Nat) : Op.keeps Dev.kept (matrixAt v off) := by
  simp [matrixAt]

@[simp] theorem writeObject_keeps (v : Version) (bs : List Byte) (full : Code) (matrix : Bool) :
    Op.keeps Dev.kept (writeObject v bs full matrix) := by
  unfold writeObject
  repeat' first | with_reducible apply Op.keeps.bind | intro _
  all_goals simp

@[simp] theorem stripeWrite_keeps (v : Version) (rows cols fmt : Nat) (scaled colblk : Bool) (records : List
    (List Byte)) :
    Op.keeps Dev.kept (stripeWrite v rows cols fmt scaled colblk records) := by
  unfold stripeWrite
  repeat' first | with_reducible apply Op.keeps.bind | with_reducible apply Op.keeps.forM | intro _ | split
  all_goals simp

@[simp] theorem writeMatrix_keeps (v : Version) (rows cols fmt : Nat) (scaled colblk : Bool) (records : List
    (List Byte)) :
    Op.keeps Dev.kept (writeMatrix v rows cols fmt scaled colblk records) := by
  unfold writeMatrix
  repeat' first | with_reducible apply Op.keeps.bind | intro _ | split
  all_goals simp

@[simp] theorem Dev.countStored_kept (d : Dev) (dense : List Bool) : (d.countStored dense).kept = d.kept := by
  simp [Dev.countStored]

@[simp] theorem tokenRows_keeps (v : Version) : Op.keeps Dev.kept (tokenRows v) := by
  unfold tokenRows
  repeat' first | with_reducible apply Op.keeps.bind | intro _
  all_goals simp

@[simp] theorem TokenRows.row_keeps (t : TokenRows) (e : Nat) : Op.keeps Dev.kept (TokenRows.row t e) := by
  simp [TokenRows.row]

@[simp] theorem recvObject_keeps (v : Version) (bad : Fail) : Op.keeps Dev.kept (recvObject v bad) := by
  unfold recvObject
  repeat' first | with_reducible apply Op.keeps.bind | intro _
  all_goals simp

@[simp] theorem Region.rowVec_keeps (g : Region) (r : Nat) : Op.keeps Dev.kept (Region.rowVec g r) := by
  simp [Region.rowVec]

@[simp] theorem grainTable_keeps (v : Version) (bad : Fail) : Op.keeps Dev.kept (grainTable v bad) := by
  unfold grainTable
  repeat' first | with_reducible apply Op.keeps.bind | intro _
  all_goals simp

@[simp] theorem rowTarget_keeps (v : Version) : Op.keeps Dev.kept (rowTarget v) := by
  unfold rowTarget
  repeat' first | with_reducible apply Op.keeps.bind | intro _
  all_goals simp

@[simp] theorem Region.tilesFor_keeps (g : Region) (rows cols : List Nat) (own : Nat → Bool) :
    Op.keeps Dev.kept (Region.tilesFor g rows cols own) := by
  unfold Region.tilesFor
  repeat' first | with_reducible apply Op.keeps.bind | with_reducible apply Op.keeps.mapM | intro _ | split
  all_goals simp

@[simp] theorem Region.els_keeps (g : Region) (rows cols : List Nat) (own : Nat → Bool) :
    Op.keeps Dev.kept (Region.els g rows cols own) := by
  simp [Region.els]

@[simp] theorem ActSrc.els_keeps (a : ActSrc) (rows positions : List Nat) :
    Op.keeps Dev.kept (ActSrc.els a rows positions) := by
  unfold ActSrc.els
  repeat' first | with_reducible apply Op.keeps.bind | intro _ | split
  all_goals simp

@[simp] theorem Dev.arrFault_kept (d : Dev) (id arr : Nat) (first shadow : Bool) (column row outCol : Nat) :
    (d.arrFault id arr first shadow column row outCol).kept = d.kept := by
  simp [Dev.arrFault, apply_ite Dev.kept]

@[simp] theorem Dev.skIntake_kept (d : Dev) (arr n : Nat) : (d.skIntake arr n).kept = d.kept := by
  simp [Dev.skIntake]

@[simp] theorem Dev.fmtEvents_kept (d : Dev) (p : Nat) (ev : Ev) : (d.fmtEvents p ev).kept = d.kept := by
  simp [Dev.fmtEvents]

@[simp] theorem inVer_keeps (c : Cmd) (obj : Nat) : Op.keeps Dev.kept (inVer c obj) := by
  unfold inVer
  repeat' first | with_reducible apply Op.keeps.bind | intro _ | split
  all_goals simp

@[simp] theorem takeBuffers_keeps (id p k n : Nat) : Op.keeps Dev.kept (takeBuffers id p k n) := by
  induction n with
  | zero => exact .pure _
  | succ n ih =>
    refine .of_get fun d => ?_
    have h := d.lndAlloc_kept p k (.command id)
    split
    · refine (Op.keeps.after_set (ih.bind fun _ => .pure _)).trans ?_
      simp_all
    · refine (Op.keeps.after_set (.throw _)).trans ?_
      simp_all

@[simp] theorem Dev.updRun_kept (d : Dev) (id : Nat) (g : LayerRun → LayerRun) : (d.updRun id g).kept = d.kept := by
  simp [Dev.updRun]

@[simp] theorem Dev.updUnit_kept (d : Dev) (id i : Nat) (g : LUnit → LUnit) : (d.updUnit id i g).kept = d.kept := by
  simp [Dev.updUnit]

@[simp] theorem LayerRun.dzRows_keeps (r : LayerRun) (c : Cmd) (fl : Bool) (tokens ns : List Nat) :
    Op.keeps Dev.kept (LayerRun.dzRows r c fl tokens ns) := by
  unfold LayerRun.dzRows
  repeat' first | with_reducible apply Op.keeps.bind | intro _ | split
  all_goals simp

@[simp] theorem LayerRun.narrowEvents_keeps (r : LayerRun) (c : Cmd) (ev : Ev) :
    Op.keeps Dev.kept (LayerRun.narrowEvents r c ev) := by
  unfold LayerRun.narrowEvents
  repeat' first | with_reducible apply Op.keeps.bind | intro _ | split
  all_goals simp

@[simp] theorem Dev.skFrom_kept (d : Dev) (v : Version) (arr n : Nat) : (d.skFrom v arr n).kept = d.kept := by
  simp [Dev.skFrom, apply_ite Dev.kept]

@[simp] theorem Dev.skActs_kept (d : Dev) (a : ActSrc) (arr rows n : Nat) :
    (d.skActs a arr rows n).kept = d.kept := by
  simp [Dev.skActs]

@[simp] theorem formDz_keeps (id : Nat) (c : Cmd) (r : LayerRun) (fl : Bool) (arr : Nat) (tokens : List Nat) :
    Op.keeps Dev.kept (formDz id c r fl arr tokens) := by
  unfold formDz
  dsimp only
  repeat' first
    | with_reducible apply Op.keeps.bind
    | with_reducible apply Op.keeps.forM
    | with_reducible apply Op.keeps.mapM
    | with_reducible apply Op.keeps.map
    | intro _
    | split
  all_goals simp

@[simp] theorem LayerRun.weightRows_keeps (r : LayerRun) (u : LUnit) (g : Region) (ps : List Nat) :
    Op.keeps Dev.kept (LayerRun.weightRows r u g ps) := by
  unfold LayerRun.weightRows
  repeat' first | with_reducible apply Op.keeps.bind | intro _ | split
  all_goals simp

@[simp] theorem LayerRun.streamed_keeps (r : LayerRun) (c : Cmd) (fl : Bool) (u : LUnit) (ps : List Nat) :
    Op.keeps Dev.kept (LayerRun.streamed r c fl u ps) := by
  unfold LayerRun.streamed
  repeat' first | with_reducible apply Op.keeps.bind | intro _ | split
  all_goals simp

@[simp] theorem LayerRun.stationary_keeps (r : LayerRun) (c : Cmd) (fl : Bool) (u : LUnit) (ps : List Nat) :
    Op.keeps Dev.kept (LayerRun.stationary r c fl u ps) := by
  unfold LayerRun.stationary
  repeat' first | with_reducible apply Op.keeps.bind | intro _ | split
  all_goals simp

@[simp] theorem LayerRun.entering_keeps (r : LayerRun) (c : Cmd) (fl : Bool) (u : LUnit) :
    Op.keeps Dev.kept (LayerRun.entering r c fl u) := by
  unfold LayerRun.entering
  repeat' first | with_reducible apply Op.keeps.bind | intro _ | split
  all_goals simp

@[simp] theorem LayerRun.results_keeps (r : LayerRun) (c : Cmd) (fl : Bool) (u : LUnit) (acc : List (BitVec 32)) :
    Op.keeps Dev.kept (LayerRun.results r c fl u acc) := by
  unfold LayerRun.results
  repeat' first | with_reducible apply Op.keeps.bind | intro _ | split
  all_goals simp

@[simp] theorem LayerRun.keys_keeps (r : LayerRun) (u : LUnit) : Op.keeps Dev.kept (LayerRun.keys r u) := by
  unfold LayerRun.keys
  repeat' first | with_reducible apply Op.keeps.bind | intro _ | split
  all_goals simp

@[simp] theorem Delta.addRow_keeps (x : Delta) (fl : Bool) (row : Nat) (vs : List (Nat × F32)) :
    Op.keeps Dev.kept (x.addRow fl row vs) := by
  unfold Delta.addRow
  refine .bind (by simp) fun bs => .bind (.mem fun d => ?_) fun _ => .pure _
  split
  · exact Dev.lndStores_kept ‹_›
  · rfl

@[simp] theorem endUnit_keeps (id i : Nat) (c : Cmd) (r : LayerRun) (u : LUnit) (acc : List (BitVec 32)) (fl : Bool) :
    Op.keeps Dev.kept (endUnit id i c r u acc fl) := by
  unfold endUnit
  repeat' first | with_reducible apply Op.keeps.bind | intro _ | split
  all_goals simp

@[simp] theorem Dev.checkFails_kept (d : Dev) (id arr : Nat) (shadow : Bool) (column row outCol : Nat) :
    (d.checkFails id arr shadow column row outCol).kept = d.kept := by
  simp [Dev.checkFails]

@[simp] theorem castTile_keeps (id : Nat) (c : Cmd) (u : LUnit) (fmt : Nat) (t : TileWork) (enter : List
    (BitVec 32)) :
    Op.keeps Dev.kept (castTile id c u fmt t enter) := by
  unfold castTile
  repeat' first | with_reducible apply Op.keeps.bind | with_reducible apply Op.keeps.forM | intro _ | split
  all_goals simp

@[simp] theorem coppiceParts_keeps (v : Version) : Op.keeps Dev.kept (coppiceParts v) := by
  unfold coppiceParts
  repeat' first | with_reducible apply Op.keeps.bind | intro _
  all_goals simp

@[simp] theorem coppiceMid_keeps (c : Cmd) (r : LayerRun) (u : LUnit) (fl : Bool) (rk : Nat) (acc : List
    (BitVec 32)) :
    Op.keeps Dev.kept (coppiceMid c r u fl rk acc) := by
  simp [coppiceMid]

@[simp] theorem coppiceTile_keeps (id i : Nat) (c : Cmd) (r : LayerRun) (u : LUnit) (fl shape : Bool) (w : Nat)
    (f : Option ArrayFault) : Op.keeps Dev.kept (coppiceTile id i c r u fl shape w f) := by
  unfold coppiceTile
  split
  · simp
  · refine .bind (by simp) fun ab => ?_
    dsimp only
    split
    · refine .bind (by simp) fun x => .bind (by simp) fun _ => .bind (by simp) fun wts => .bind (by simp) fun o =>
        .bind (by simp) fun _ => ?_
      split
      · exact .bind (by simp) fun mid => by simp
      · simp
    · split <;>
        exact .bind (by simp) fun acts => .bind (by simp) fun wts => .bind (castTile_keeps ..) fun o => endUnit_keeps ..

@[simp] theorem Dev.useChunk_kept (d : Dev) (id : Nat) (u : LUnit) (ps : List Nat) :
    (d.useChunk id u ps).kept = d.kept := by
  unfold Dev.useChunk
  split <;> simp

@[simp] theorem productTile_keeps (id i : Nat) (c : Cmd) (r : LayerRun) (u : LUnit) (fl shape : Bool) (w : Nat)
    (f : Option ArrayFault) :
    Op.keeps Dev.kept (productTile id i c r u fl shape w f) := by
  unfold productTile
  repeat' first | with_reducible apply Op.keeps.bind | intro _ | split
  all_goals simp

@[simp] theorem Dev.arrayTile_kept (d : Dev) (id arr i : Nat) (fault : Option ArrayFault) :
    (d.arrayTile id arr i fault).kept = d.kept := by
  unfold Dev.arrayTile
  repeat' split
  all_goals simp

/-- A column part's grant may be parked; nothing else of the kept part changes. -/
@[simp] theorem Dev.skEnd_butGrants (d : Dev) (arr : Nat) : (d.skEnd arr).kept.butGrants = d.kept.butGrants := by
  unfold Dev.skEnd
  split <;> rfl

/-- COMPACTION may end a grant's unit. -/
theorem compactTile_keeps (id i : Nat) (c : Cmd) (r : LayerRun) (u : LUnit) (g : Region) :
    Op.keeps (fun d => d.kept.butGrants) (compactTile id i c r u g) := by
  unfold compactTile
  refine .bind .get fun d => .bind (.mapM (fun t => (g.record_keeps t u.seen false).weaken Kept.butGrants) _) fun recs => ?_
  refine .act fun d => ?_
  simp [apply_ite Dev.kept]

theorem Dev.compact_butGrants (d : Dev) (id i : Nat) : (d.compact id i).kept.butGrants = d.kept.butGrants := by
  unfold Dev.compact
  split
  · rfl
  · split
    · rfl
    · split
      · rfl
      · exact Dev.work_butGrants _ (compactTile_keeps ..)

@[simp] theorem Dev.updBlock_kept (d : Dev) (id i : Nat) (g : TBlock → TBlock) :
    (d.updBlock id i g).kept = d.kept := by
  simp [Dev.updBlock]

@[simp] theorem blockData_keeps (r : LayerRun) (b : TBlock) (fl : Bool) : Op.keeps Dev.kept (blockData r b fl) := by
  unfold blockData
  repeat' first | with_reducible apply Op.keeps.bind | intro _ | split
  all_goals simp

@[simp] theorem blockBytes_keeps (r : LayerRun) (b : TBlock) : Op.keeps Dev.kept (blockBytes r b) := by
  have hstored (js : List Nat) (g : Region) (k : Nat) : Op.keeps Dev.kept (do
      let recs ← ((b.rows.map (· / 32)).dedup).mapM (fun i => js.mapM (fun j => g.record i j false))
      return sumNat (recs.flatten.map (fun x => ceilDiv (x.2.length * k) (max 1 x.1.cols)))) :=
    .bind (.mapM (fun i => .mapM (fun j => g.record_keeps i j false) js) _) fun _ => .pure _
  unfold blockBytes
  dsimp only
  split
  · cases (r.entries[b.entry]?).bind LEntry.weights with
    | none => exact .pure 0
    | some g => exact hstored _ g _
  · split
    · exact hstored _ _ _
    · exact .pure _

/-- TRANSPOSE_BLOCK may end a grant's unit. -/
theorem fillBlock_keeps (id i : Nat) (c : Cmd) (r : LayerRun) (b : TBlock) :
    Op.keeps (fun d => d.kept.butGrants) (fillBlock id i c r b) := by
  unfold fillBlock
  refine .bind .get fun d => .bind ((blockData_keeps ..).weaken Kept.butGrants) fun x => .bind
    ((blockBytes_keeps ..).weaken Kept.butGrants) fun n => .bind ((LayerRun.narrowEvents_keeps ..).weaken Kept.butGrants)
    fun _ => .bind (.act fun d => ?_) fun _ => .bind (.act fun d => ?_) fun _ => .act fun d => ?_ <;> simp

@[simp] theorem Dev.drainBlock_kept (d : Dev) (id i : Nat) (b : TBlock) : (d.drainBlock id i b).kept = d.kept := by
  simp [Dev.drainBlock]

theorem Dev.transpose_butGrants (d : Dev) (id i : Nat) : (d.transpose id i).kept.butGrants = d.kept.butGrants := by
  unfold Dev.transpose
  split
  · dsimp only
    split
    · rfl
    · split
      · rfl
      · split
        · split
          · rfl
          · exact Dev.work_butGrants _ (fillBlock_keeps ..)
        · split <;> simp
  · rfl

@[simp] theorem stageWeights_keeps (id i : Nat) (c : Cmd) (q : LayerRun) (u : LUnit) (g : Region) (h : Fin 2)
    (shape : Bool) (w : Nat) :
    Op.keeps Dev.kept (stageWeights id i c q u g h shape w) := by
  unfold stageWeights
  repeat' first | with_reducible apply Op.keeps.bind | intro _
  all_goals simp

@[simp] theorem Dev.stageChunk_kept (d : Dev) (id arr i : Nat) : (d.stageChunk id arr i).kept = d.kept := by
  unfold Dev.stageChunk
  repeat' split
  all_goals simp

@[simp] theorem coppiceOk_keeps (arr : Nat) (v : Version) (k n : Nat) : Op.keeps Dev.kept (coppiceOk arr v k n) := by
  unfold coppiceOk
  dsimp only
  repeat' first
    | with_reducible apply Op.keeps.bind
    | with_reducible apply Op.keeps.forM
    | with_reducible apply Op.keeps.mapM
    | with_reducible apply Op.keeps.map
    | intro _
    | split
  all_goals simp

@[simp] theorem Dev.serve_kept (d : Dev) (id p e : Nat) (v : Version) : (d.serve id p e v).kept = d.kept := by
  refine (Dev.updRun_kept _ _ _).trans ((Dev.set_arr_kept _ _).trans ?_)
  simp

@[simp] theorem Dev.missEntry_kept (d : Dev) (id e : Nat) : (d.missEntry id e).kept = d.kept := by
  unfold Dev.missEntry
  split
  · rename_i c r _ _
    split
    · rfl
    · dsimp only
      split
      · simp
      · split
        · split
          · split <;> simp
          · split <;> rename_i hr <;> have he := (coppiceOk_keeps ..).run hr
            · simpa using he
            · split <;> simpa using he
            · simpa using he
        · split <;> simp
        · simp
  · rfl

@[simp] theorem Dev.fetchDeadline_kept (d : Dev) (id : Nat) : (d.fetchDeadline id).kept = d.kept := by
  simp only [Dev.fetchDeadline]
  repeat' split
  all_goals simp

@[simp] theorem outVer_keeps (c : Cmd) (obj : Nat) : Op.keeps Dev.kept (outVer c obj) := by
  unfold outVer
  repeat' first | with_reducible apply Op.keeps.bind | intro _ | split
  all_goals simp

@[simp] theorem writeOut_keeps (c : Cmd) (r : LayerRun) (fl : Bool) : Op.keeps Dev.kept (writeOut c r fl) := by
  unfold writeOut
  repeat' first | with_reducible apply Op.keeps.bind | intro _ | split
  all_goals simp

@[simp] theorem addGrads_keeps (id : Nat) (c : Cmd) (r : LayerRun) (fl : Bool) :
    Op.keeps Dev.kept (addGrads id c r fl) := by
  unfold addGrads
  repeat' first | with_reducible apply Op.keeps.bind | with_reducible apply Op.keeps.forM | intro _ | split
  all_goals simp

@[simp] theorem layerFinish_keeps (id : Nat) (c : Cmd) (r : LayerRun) : Op.keeps Dev.kept (layerFinish id c r) := by
  unfold layerFinish
  repeat' first | with_reducible apply Op.keeps.bind | intro _ | split
  all_goals simp

@[simp] theorem Dev.layerEnd_kept (d : Dev) (id : Nat) : (d.layerEnd id).kept = d.kept := by
  simp only [Dev.layerEnd]
  split <;> simp [apply_ite Dev.kept]

end Sys2Proof.Machine
end

section
/-! PROOFS. The Switch Core's slots and the Sieve's work leave the kept part of the device as it was. -/

namespace Sys2Proof.Machine

@[simp] theorem Dev.noteShared_kept (d : Dev) : d.noteShared.kept = d.kept := by
  simp [Dev.noteShared, apply_ite Dev.kept]

@[simp] theorem Dev.release_kept (d : Dev) (key n : Nat) : (d.release key n).kept = d.kept := by
  simp [Dev.release]

@[simp] theorem Dev.pushOut_kept (d : Dev) : d.pushOut.kept = d.kept := by
  unfold Dev.pushOut
  split <;> simp

@[simp] theorem Dev.pushOuts_kept (n : Nat) (d : Dev) : (d.pushOuts n).kept = d.kept := by
  induction n generalizing d with
  | zero => rfl
  | succ n ih => exact (ih _).trans d.pushOut_kept

@[simp] theorem Dev.grantShared_kept (d : Dev) (l : Nat) : (d.grantShared l).kept = d.kept := by
  simp [Dev.grantShared, apply_ite Dev.kept]

@[simp] theorem Dev.grantAll_kept (d : Dev) : d.grantAll.kept = d.kept := by
  simp [Dev.grantAll]

@[simp] theorem Dev.freeSlot_kept (d : Dev) (s : Slot) : (d.freeSlot s).kept = d.kept := by
  simp only [Dev.freeSlot]
  repeat' split
  all_goals simp

@[simp] theorem Dev.unroutable_kept (d : Dev) (b : Billet) (n : Nat) : (d.unroutable b n).kept = d.kept := by
  simp [Dev.unroutable, apply_ite Dev.kept]

@[simp] theorem Dev.dropMalformed_kept (d : Dev) : d.dropMalformed.kept = d.kept := by
  simp [Dev.dropMalformed]

@[simp] theorem Dev.enqueue_kept (d : Dev) (input : Nat) (shared : Bool) (b : Billet) (since : Nat) (owner : Option
    (Nat × Nat)) (copies : List (Option Copy)) :
    (d.enqueue input shared b since owner copies).kept = d.kept := by
  simp [Dev.enqueue, apply_ite Dev.kept]

@[simp] theorem Dev.inject_kept (d : Dev) (port : Nat) (owner : Option (Nat × Nat)) (bs : List Billet) :
    (d.inject port owner bs).kept = d.kept := by
  simp [Dev.inject]

@[simp] theorem Dev.injectOne_kept (d : Dev) (i : Inject) : (d.injectOne i).1.kept = d.kept := by
  simp only [Dev.injectOne]
  repeat' split
  all_goals simp

@[simp] theorem Dev.pumpList_kept (l : List Inject) (d : Dev) : (d.pumpList l).1.kept = d.kept := by
  induction l generalizing d with
  | nil => rfl
  | cons i l ih => exact (ih _).trans (d.injectOne_kept i)

@[simp] theorem Dev.pump_kept (d : Dev) : d.pump.kept = d.kept := by
  simp [Dev.pump]

@[simp] theorem Dev.leave_kept (d : Dev) (s : Slot) (port : Nat) : (d.leave s port).kept = d.kept := by
  simp [Dev.leave, apply_ite Dev.kept]

@[simp] theorem Dev.consume_kept (d : Dev) (a : Arrival) : (d.consume a).kept = d.kept := by
  unfold Dev.consume
  split <;> simp

theorem Dev.takeInbox_kept {d e : Dev} {p : Arrival → Bool} {a : Arrival} (h : d.takeInbox p = some (a, e)) :
    e.kept = d.kept := by
  unfold Dev.takeInbox at h
  split at h <;> cases h
  simp

@[simp] theorem Dev.cacheRank_kept (d : Dev) (e : Nat × Nat × Nat) : (d.cacheRank e).kept = d.kept := by
  simp [Dev.cacheRank]

@[simp] theorem rankNode_keeps (p rank : Nat) : Op.keeps Dev.kept (rankNode p rank) := by
  unfold rankNode
  repeat' first | with_reducible apply Op.keeps.bind | intro _ | split
  all_goals simp

@[simp] theorem Dev.updSv_kept (d : Dev) (k : Nat) (g : SvCtx → SvCtx) : (d.updSv k g).kept = d.kept := by
  simp [Dev.updSv]

@[simp] theorem capTable_keeps (experts : Nat) (bs : List Byte) : Op.keeps Dev.kept (capTable experts bs) := by
  simp [capTable]

@[simp] theorem sieveLoad_keeps (c : Cmd) (x : SvCtx) : Op.keeps Dev.kept (sieveLoad c x) := by
  unfold sieveLoad
  repeat' first | with_reducible apply Op.keeps.bind | intro _ | split
  all_goals simp

@[simp] theorem Dev.sieve_kept (d : Dev) (id : Nat) : (d.sieve id).kept = d.kept := by
  simp only [Dev.sieve]
  split <;> simp [apply_ite Dev.kept]

@[simp] theorem Dev.scoreTile_kept (d : Dev) (k : Nat) : (d.scoreTile k).kept = d.kept := by
  simp only [Dev.scoreTile]
  repeat' split
  all_goals simp

@[simp] theorem dlbReplica_keeps (x : SvCtx) (expert : Nat) (ent : BitVec 256) :
    Op.keeps Dev.kept (dlbReplica x expert ent) := by
  unfold dlbReplica
  repeat' first | with_reducible apply Op.keeps.bind | with_reducible apply Op.keeps.mapM | intro _ | split
  all_goals simp

@[simp] theorem pickReplica_keeps (x : SvCtx) (slot token expert : Nat) (ent : BitVec 256) :
    Op.keeps Dev.kept (pickReplica x slot token expert ent) := by
  unfold pickReplica
  repeat' first | with_reducible apply Op.keeps.bind | intro _ | split
  all_goals simp

@[simp] theorem fillChoice_keeps (c : Cmd) (x : SvCtx) (g : Grain) : Op.keeps Dev.kept (fillChoice c x g) := by
  unfold fillChoice
  dsimp only
  repeat' first
    | with_reducible apply Op.keeps.bind
    | with_reducible apply Op.keeps.forM
    | with_reducible apply Op.keeps.mapM
    | with_reducible apply Op.keeps.map
    | intro _
    | split
  all_goals simp

@[simp] theorem fillAll_keeps (c : Cmd) (x : SvCtx) (gs : List Grain) : Op.keeps Dev.kept (fillAll c x gs) := by
  induction gs generalizing x with
  | nil => exact .pure _
  | cons g gs ih => exact .bind (fillChoice_keeps c x g) fun r => .bind (ih r.1) fun _ => .pure _

@[simp] theorem sieveWrite_keeps (c : Cmd) (obj off : Nat) (bs : List Byte) :
    Op.keeps Dev.kept (sieveWrite c obj off bs) := by
  unfold sieveWrite
  repeat' first | with_reducible apply Op.keeps.bind | intro _
  all_goals simp

@[simp] theorem spillRuns_keeps (c : Cmd) (x : SvCtx) : Op.keeps Dev.kept (spillRuns c x) := by
  unfold spillRuns
  dsimp only
  split
  · exact .pure _
  · refine .bind (takeBuffers_keeps ..) fun bufs => .bind (.forM (fun b => .mem fun d => ?_) _) fun _ => .pure _
    split
    · exact Dev.lndStore_kept ‹_›
    · rfl

@[simp] theorem selectToken_keeps (c : Cmd) (x : SvCtx) (r : SvRow) : Op.keeps Dev.kept (selectToken c x r) := by
  unfold selectToken
  dsimp only
  repeat' first
    | with_reducible apply Op.keeps.bind
    | with_reducible apply Op.keeps.forM
    | with_reducible apply Op.keeps.mapM
    | with_reducible apply Op.keeps.map
    | intro _
    | split
  all_goals simp

@[simp] theorem Dev.tokenSelect_kept (d : Dev) (k : Nat) : (d.tokenSelect k).kept = d.kept := by
  unfold Dev.tokenSelect
  repeat' split
  all_goals simp

@[simp] theorem sieveTail_keeps (c : Cmd) (x : SvCtx) : Op.keeps Dev.kept (sieveTail c x) := by
  unfold sieveTail
  repeat' first | with_reducible apply Op.keeps.bind | with_reducible apply Op.keeps.forM | intro _ | split
  all_goals simp

@[simp] theorem Dev.sieveTail_kept (d : Dev) (k : Nat) : (d.sieveTail k).kept = d.kept := by
  unfold Dev.sieveTail
  repeat' split
  all_goals simp

end Sys2Proof.Machine
end

section
/-! PROOFS. The Exchange Engine's work leaves the kept part of the device as it was. -/

namespace Sys2Proof.Machine

@[simp] theorem expertMap_keeps (v : Version) : Op.keeps Dev.kept (expertMap v) := by
  unfold expertMap
  repeat' first | with_reducible apply Op.keeps.bind | intro _
  all_goals simp

@[simp] theorem xeRows_keeps (v : Version) : Op.keeps Dev.kept (xeRows v) := by
  unfold xeRows
  repeat' first | with_reducible apply Op.keeps.bind | intro _
  all_goals simp

@[simp] theorem xeForm_keeps (c : Cmd) : Op.keeps Dev.kept (xeForm c) := by
  unfold xeForm
  repeat' first | with_reducible apply Op.keeps.bind | intro _ | split
  all_goals simp

@[simp] theorem xeShare_keeps (c : Cmd) (rank : Nat) : Op.keeps Dev.kept (xeShare c rank) := by
  unfold xeShare
  repeat' first | with_reducible apply Op.keeps.bind | intro _ | split
  all_goals simp

@[simp] theorem xeData_keeps (c : Cmd) (f : XForm) (node self : Nat) (s : Share) :
    Op.keeps Dev.kept (xeData c f node self s) := by
  simp [xeData]

@[simp] theorem Dev.updCtx_kept (d : Dev) (serial : Nat) (g : XCtx → XCtx) : (d.updCtx serial g).kept = d.kept := by
  simp [Dev.updCtx]

@[simp] theorem Dev.openCtx_kept (d : Dev) (part dir xid : Nat) (cmd : Option Nat) :
    (d.openCtx part dir xid cmd).kept = d.kept := by
  simp [Dev.openCtx]

@[simp] theorem Dev.stageBuffer_kept (d : Dev) (x : XCtx) (bytes : Nat) :
    (d.stageBuffer x bytes).1.kept = d.kept := by
  have h := d.lndAlloc_kept x.part (lndClass bytes).1 (.receive x.serial)
  unfold Dev.stageBuffer
  dsimp only
  split
  · exact Dev.set_lnd_kept _ _
  · split <;> simp_all

@[simp] theorem Dev.unstage_kept (d : Dev) (m : XMsg) : (d.unstage m).kept = d.kept := by
  unfold Dev.unstage
  repeat' split
  all_goals simp

@[simp] theorem Dev.failReceipt_kept (d : Dev) (x : XCtx) (src : Nat) (st : Status) :
    (d.failReceipt x src st).kept = d.kept := by
  unfold Dev.failReceipt
  split <;> simp

@[simp] theorem Dev.xeLate_kept (d : Dev) (p dir xid : Nat) : (d.xeLate p dir xid).kept = d.kept := by
  simp only [Dev.xeLate]
  split <;> simp

@[simp] theorem Dev.dropMessage_kept (d : Dev) (x : XCtx) (m : XMsg) (st : Status) :
    (d.dropMessage x m st).kept = d.kept := by
  simp [Dev.dropMessage]

@[simp] theorem Dev.stagePiece_kept (d : Dev) (x : XCtx) (m : XMsg) (buf : Nat × Nat) (seq : Nat) (bs : List Byte) :
    (d.stagePiece x m buf seq bs).kept = d.kept := by
  simp only [Dev.stagePiece]
  split
  · exact (Dev.updCtx_kept _ _ _).trans (Dev.lndStore_kept ‹_›)
  · simp

@[simp] theorem Dev.stagePut_kept (d : Dev) (x : XCtx) (b : Billet) : (d.stage_ x b).kept = d.kept := by
  simp only [Dev.stage_]
  repeat' split
  all_goals simp

@[simp] theorem Dev.xeTake_kept (d : Dev) (b : Billet) : (d.xeTake b).kept = d.kept := by
  simp only [Dev.xeTake]
  repeat' split
  all_goals simp

@[simp] theorem Dev.xeBillet_kept (d : Dev) : d.xeBillet.kept = d.kept := by
  simp only [Dev.xeBillet]
  repeat' split
  all_goals simp

@[simp] theorem XMsg.read_keeps (m : XMsg) : Op.keeps Dev.kept (XMsg.read m) := by
  unfold XMsg.read
  repeat' first | with_reducible apply Op.keeps.bind | intro _ | split
  all_goals simp

@[simp] theorem headerOk_keeps (c : Cmd) (src : Nat) (h : XHdr) : Op.keeps Dev.kept (headerOk c src h) := by
  unfold headerOk
  repeat' first | with_reducible apply Op.keeps.bind | intro _ | split
  all_goals simp

@[simp] theorem Dev.recordLocal_kept (d : Dev) (c : Cmd) (x : XCtx) (pairs : List (Nat × Nat)) :
    (d.recordLocal c x pairs).kept = d.kept := by
  simp [Dev.recordLocal, apply_ite Dev.kept]

@[simp] theorem Recv.putBytes_keeps (_r : Recv) (v : Version) (off : Nat) (bs : List Byte) :
    Op.keeps Dev.kept (Recv.putBytes _r v off bs) := by
  unfold Recv.putBytes
  repeat' first | with_reducible apply Op.keeps.bind | intro _
  all_goals simp

@[simp] theorem Recv.putRow_keeps (r : Recv) (v : Version) (row : Nat) (vec : List Byte) :
    Op.keeps Dev.kept (Recv.putRow r v row vec) := by
  unfold Recv.putRow
  repeat' first | with_reducible apply Op.keeps.bind | with_reducible apply Op.keeps.forM | intro _ | split
  all_goals simp

@[simp] theorem receivePlan_keeps (c : Cmd) (x : XCtx) : Op.keeps Dev.kept (receivePlan c x) := by
  unfold receivePlan
  repeat' first | with_reducible apply Op.keeps.bind | intro _
  all_goals simp

@[simp] theorem Dev.writeVectors_kept (d : Dev) (c : Cmd) (serial : Nat) (ys : List (Nat × Nat × List Byte)) :
    (d.writeVectors c serial ys).kept = d.kept := by
  unfold Dev.writeVectors
  split
  · rfl
  · split
    · rfl
    · refine Dev.foldl_kept (fun d y => Dev.work_kept _ (.bind (receivePlan_keeps ..) fun p => ?_)) _
      dsimp only
      split <;> simp

@[simp] theorem takeHeader_keeps (serial src : Nat) (c : Cmd) (m : XMsg) :
    Op.keeps Dev.kept (takeHeader serial src c m) := by
  unfold takeHeader
  refine .bind m.read_keeps fun bs => ?_
  split
  · exact .throw _
  · refine .bind (headerOk_keeps ..) fun ok => .bind (need_keeps ..) fun _ => .bind (by simp) fun _ => .bind (by simp)
      fun _ => .act fun d => ?_
    split <;> simp

@[simp] theorem Dev.segmentHeader_kept (d : Dev) (serial src : Nat) : (d.segmentHeader serial src).kept = d.kept := by
  unfold Dev.segmentHeader
  repeat' split
  all_goals simp

@[simp] theorem takeVector_keeps (serial src idx : Nat) (c : Cmd) (m : XMsg) (h : XHead) :
    Op.keeps Dev.kept (takeVector serial src idx c m h) := by
  unfold takeVector
  dsimp only
  repeat' first
    | with_reducible apply Op.keeps.bind
    | with_reducible apply Op.keeps.forM
    | with_reducible apply Op.keeps.mapM
    | with_reducible apply Op.keeps.map
    | intro _
    | split
  all_goals simp

@[simp] theorem Dev.vectorWrite_kept (d : Dev) (serial src idx : Nat) :
    (d.vectorWrite serial src idx).kept = d.kept := by
  unfold Dev.vectorWrite
  repeat' split
  all_goals simp

@[simp] theorem Dev.sendHeader_kept (d : Dev) (c : Cmd) (rank : Nat) : (d.sendHeader c rank).kept = d.kept :=
  d.work_kept (.bind (rankNode_keeps ..) fun _ => .bind (xeForm_keeps c) fun _ => .bind (xeShare_keeps c rank) fun _ =>
    .bind (need_keeps ..) fun _ => .bind .get fun _ => by simp)

@[simp] theorem Dev.sendShare_kept (d : Dev) (c : Cmd) (rank : Nat) : (d.sendShare c rank).kept = d.kept :=
  d.work_kept (.bind (rankNode_keeps ..) fun _ => .bind (xeForm_keeps c) fun _ => .bind (xeShare_keeps c rank) fun _ =>
    .bind .get fun _ => .bind (xeData_keeps ..) fun _ => by simp)

@[simp] theorem Dev.writeReceive_kept (d : Dev) (c : Cmd) (x : XCtx) : (d.writeReceive c x).kept = d.kept := by
  have hstore (d : Dev) (v : Version) (off : Nat) (bs : List Byte) (srcs : List Nat) :
      (match d.verWrite v off bs with
        | (d, .ok _) => d
        | (d, .error er) => match srcs with
          | [] => d.memFail c.id c.myRank er
          | s :: ss => ss.foldl (fun d s => d.failPart c.id s er.status) (d.memFail c.id s er)).kept = d.kept := by
    have h := d.verWrite_kept v off bs
    split
    · simp_all
    · split <;> simp_all
  have hend (d : Dev) : (match d.cmd? c.id with
      | some k => if k.causes.isEmpty then d.finish c.id else d
      | none => d).kept = d.kept := by
    split
    · split <;> simp
    · rfl
  unfold Dev.writeReceive
  split
  · rename_i hr
    exact (Dev.failWith_kept ..).trans ((receivePlan_keeps c x).run hr)
  · rename_i hr
    exact (hend _).trans <| (Dev.countStored_kept ..).trans <| (Dev.foldl_kept (fun d e => hstore d ..) _).trans <|
      (Dev.work_kept _ (Recv.putBytes_keeps ..)).trans ((receivePlan_keeps c x).run hr)

@[simp] theorem Dev.sendNext_kept (d : Dev) (c : Cmd) (x : XCtx) : (d.sendNext c x).kept = d.kept := by
  simp only [Dev.sendNext]
  split <;> simp [apply_ite Dev.kept]

@[simp] theorem Dev.exchange_kept (d : Dev) (id : Nat) : (d.exchange id).kept = d.kept := by
  simp only [Dev.exchange]
  split <;> simp [apply_ite Dev.kept]

@[simp] theorem combineWrite_keeps (c : Cmd) (x : XCtx) : Op.keeps Dev.kept (combineWrite c x) := by
  unfold combineWrite
  dsimp only
  repeat' first
    | with_reducible apply Op.keeps.bind
    | with_reducible apply Op.keeps.forM
    | with_reducible apply Op.keeps.mapM
    | with_reducible apply Op.keeps.map
    | intro _
    | split
  all_goals simp

@[simp] theorem Dev.combine_kept (d : Dev) (id : Nat) : (d.combine id).kept = d.kept := by
  simp only [Dev.combine]
  split <;> simp [apply_ite Dev.kept]

end Sys2Proof.Machine
end

section
/-! PROOFS. The collective engines' work and remote add leave the kept part of the device as it was. -/

namespace Sys2Proof.Machine

@[simp] theorem Dev.updColl1_kept (d : Dev) (serial : Nat) (g : CollCtx → CollCtx) :
    (d.updColl1 serial g).kept = d.kept := by
  simp [Dev.updColl1]

@[simp] theorem Dev.noteColl_kept (d : Dev) : d.noteColl.kept = d.kept := by
  simp [Dev.noteColl]

@[simp] theorem Dev.collOpen_kept (d : Dev) (p cid : Nat) (cmd : Option Nat) :
    (d.collOpen p cid cmd).kept = d.kept := by
  simp [Dev.collOpen]

@[simp] theorem Dev.collLate_kept (d : Dev) (p cid : Nat) : (d.collLate p cid).kept = d.kept := by
  simp [Dev.collLate, apply_ite Dev.kept]

@[simp] theorem Dev.collUnstage_kept (d : Dev) (m : CMsg) : (d.collUnstage m).kept = d.kept := by
  unfold Dev.collUnstage
  repeat' split
  all_goals simp

@[simp] theorem Dev.collMismatch_kept (d : Dev) (id rank : Nat) : (d.collMismatch id rank).kept = d.kept := by
  simp [Dev.collMismatch]

@[simp] theorem Dev.sendNotice_kept (d : Dev) (x : CollCtx) (n : Notice) (nodes : List Nat) :
    (d.sendNotice x n nodes).kept = d.kept := by
  simp [Dev.sendNotice]

@[simp] theorem Dev.forwardNotice_kept (d : Dev) (c : Cmd) (x : CollCtx) (n : Notice) :
    (d.forwardNotice c x n).kept = d.kept := by
  simp [Dev.forwardNotice]

@[simp] theorem heldVals_keeps (c : Cmd) (x : CollCtx) (k : CChunk) : Op.keeps Dev.kept (heldVals c x k) := by
  unfold heldVals
  repeat' first | with_reducible apply Op.keeps.bind | intro _ | split
  all_goals simp

@[simp] theorem Dev.collSend_kept (d : Dev) (c : Cmd) (serial chunk : Nat) :
    (d.collSend c serial chunk).kept = d.kept := by
  unfold Dev.collSend
  split
  · rfl
  · split
    · rfl
    · dsimp only
      split
      · rfl
      · exact Dev.work_kept _ (.bind (heldVals_keeps ..) fun vals => .bind (by simp) fun _ => by simp)

@[simp] theorem Dev.collCredit_kept (d : Dev) (c : Cmd) (serial chunk : Nat) :
    (d.collCredit c serial chunk).kept = d.kept := by
  unfold Dev.collCredit
  repeat' split
  all_goals simp

@[simp] theorem placeOut_keeps (c : Cmd) (serial e : Nat) (vals : List (BitVec 32)) :
    Op.keeps Dev.kept (placeOut c serial e vals) := by
  unfold placeOut
  repeat' first | with_reducible apply Op.keeps.bind | intro _ | split
  all_goals simp

@[simp] theorem placeBlock_keeps (c : Cmd) (serial chunk r : Nat) (vals : List (BitVec 32)) (n : Nat) :
    Op.keeps Dev.kept (placeBlock c serial chunk r vals n) := by
  unfold placeBlock
  repeat' first | with_reducible apply Op.keeps.bind | with_reducible apply Op.keeps.forM | intro _ | split
  all_goals simp

@[simp] theorem placeStep_keeps (c : Cmd) (serial chunk k : Nat) (vals : List (BitVec 32)) :
    Op.keeps Dev.kept (placeStep c serial chunk k vals) := by
  unfold placeStep
  dsimp only
  split
  · split
    · exact placeOut_keeps ..
    · exact .pure _
  · split
    · exact placeOut_keeps ..
    · exact .pure _
  · exact placeBlock_keeps ..
  · exact placeOut_keeps ..

@[simp] theorem outShape_keeps (c : Cmd) : Op.keeps Dev.kept (outShape c) := by
  unfold outShape
  repeat' first | with_reducible apply Op.keeps.bind | intro _ | split
  all_goals simp

@[simp] theorem writeColl_keeps (c : Cmd) (x : CollCtx) : Op.keeps Dev.kept (writeColl c x) := by
  unfold writeColl
  repeat' first | with_reducible apply Op.keeps.bind | intro _ | split
  all_goals simp

@[simp] theorem readIn_keeps (c : Cmd) (chunk handle : Nat) : Op.keeps Dev.kept (readIn c chunk handle) := by
  unfold readIn
  repeat' first | with_reducible apply Op.keeps.bind | intro _ | split
  all_goals simp

@[simp] theorem CMsg.vals_keeps (m : CMsg) (c : Cmd) (n : Nat) : Op.keeps Dev.kept (CMsg.vals m c n) := by
  unfold CMsg.vals
  repeat' first | with_reducible apply Op.keeps.bind | intro _ | split
  all_goals simp

@[simp] theorem CollCtx.contribs_keeps (x : CollCtx) (c : Cmd) (k : CChunk) (st : CStep) :
    Op.keeps Dev.kept (CollCtx.contribs x c k st) := by
  unfold CollCtx.contribs
  repeat' first | with_reducible apply Op.keeps.bind | with_reducible apply Op.keeps.mapM | intro _ | split
  all_goals simp

@[simp] theorem Dev.residue_kept (d : Dev) (c : Cmd) (x : CollCtx) (st : CStep) (chunk : Nat) :
    (d.residue c x st chunk).kept = d.kept := by
  simp [Dev.residue, apply_ite Dev.kept]

@[simp] theorem collCompute_keeps (c : Cmd) (x : CollCtx) (ch : CChunk) (k : Nat) (fault : Option AdderFault) :
    Op.keeps Dev.kept (collCompute c x ch k fault) := by
  unfold collCompute
  repeat' first | with_reducible apply Op.keeps.bind | intro _ | split
  all_goals simp

@[simp] theorem collStep_keeps (c : Cmd) (x : CollCtx) (ch : CChunk) (k : Nat) (fault : Option AdderFault) :
    Op.keeps Dev.kept (collStep c x ch k fault) := by
  unfold collStep
  refine .bind (collCompute_keeps ..) fun vals => .bind (placeStep_keeps ..) fun _ => ?_
  dsimp only
  split
  · refine .bind (.mem fun d => ?_) fun _ => .bind (by simp) fun _ => by simp
    split
    · exact Dev.lndStore_kept ‹_›
    · rfl
  · exact .bind (by simp) fun _ => by simp

@[simp] theorem Dev.collClose_kept (d : Dev) (c : Cmd) (fuel : Nat) : (d.collClose c fuel).kept = d.kept := by
  induction fuel generalizing d with
  | zero => rfl
  | succ fuel ih =>
    unfold Dev.collClose
    split
    · rfl
    · dsimp only
      split
      · rfl
      · split
        · simp
        · simp [ih]

@[simp] theorem Dev.collAdvance_kept (d : Dev) (id : Nat) : (d.collAdvance id).kept = d.kept := by
  simp only [Dev.collAdvance]
  repeat' split
  all_goals simp

@[simp] theorem Dev.collStageChunk_kept (d : Dev) (id k chunk : Nat) (fault : Option AdderFault) :
    (d.collStageChunk id k chunk fault).kept = d.kept := by
  unfold Dev.collStageChunk
  repeat' split
  all_goals simp

@[simp] theorem Dev.collective_kept (d : Dev) (id : Nat) : (d.collective id).kept = d.kept := by
  simp only [Dev.collective]
  split <;> simp [apply_ite Dev.kept]

theorem Dev.collNext_kept {d e : Dev} {ce : Nat} {p : Billet → Bool} {r : Option Arrival} (h :
    d.collNext ce p = (r, e)) :
    e.kept = d.kept := by
  unfold Dev.collNext at h
  split at h
  · cases h
    simp
  · split at h
    · cases h
      rfl
    · dsimp only at h
      split at h <;> cases h <;> simp

theorem Dev.collCtxFor_kept {d e : Dev} {b : Billet} {x : Option CollCtx} (h : d.collCtxFor b = (e, x)) :
    e.kept = d.kept := by
  unfold Dev.collCtxFor at h
  split at h
  · cases h
    simp
  · split at h <;> cases h
    · simp
    · simp [apply_ite Dev.kept]

@[simp] theorem Dev.collPiece_kept (d : Dev) (x : CollCtx) (m : CMsg) (buf : Nat × Nat) (piece : Nat × List Byte) :
    (d.collPiece x m buf piece).kept = d.kept := by
  unfold Dev.collPiece
  dsimp only
  split
  · exact (Dev.updColl1_kept ..).trans (Dev.lndStore_kept ‹_›)
  · split <;> simp

@[simp] theorem Dev.collStage_kept (d : Dev) (x : CollCtx) (b : Billet) : (d.collStage x b).kept = d.kept := by
  unfold Dev.collStage
  dsimp only
  split
  · split
    · rfl
    · split <;> simp
  · split
    · split <;> simp
    · split
      · rfl
      · have h := d.lndAlloc_kept x.part (lndClass (64 * bTotal b)).1 (.collective x.serial)
        split <;> rename_i hr <;> rw [hr] at h <;> simpa using h

@[simp] theorem Dev.collBillet_kept (d : Dev) (ce : Nat) : (d.collBillet ce).kept = d.kept := by
  unfold Dev.collBillet
  split
  · exact (Dev.dropMalformed_kept _).trans (Dev.takeInbox_kept ‹_›)
  · split
    · exact Dev.collNext_kept ‹_›
    · split
      · exact (Dev.collCtxFor_kept ‹_›).trans (Dev.collNext_kept ‹_›)
      · exact (Dev.collStage_kept ..).trans ((Dev.collCtxFor_kept ‹_›).trans (Dev.collNext_kept ‹_›))

@[simp] theorem Dev.collCreditIn_kept (d : Dev) (ce : Nat) : (d.collCreditIn ce).kept = d.kept := by
  unfold Dev.collCreditIn
  split
  · exact Dev.collNext_kept ‹_›
  · split
    · exact (Dev.collCtxFor_kept ‹_›).trans (Dev.collNext_kept ‹_›)
    · refine Eq.trans ?_ ((Dev.collCtxFor_kept ‹_›).trans (Dev.collNext_kept ‹_›))
      dsimp only
      split <;> simp

@[simp] theorem Dev.collCloseIn_kept (d : Dev) (ce : Nat) : (d.collCloseIn ce).kept = d.kept := by
  unfold Dev.collCloseIn
  split
  · exact Dev.collNext_kept ‹_›
  · split
    · exact (Dev.collCtxFor_kept ‹_›).trans (Dev.collNext_kept ‹_›)
    · refine Eq.trans ?_ ((Dev.collCtxFor_kept ‹_›).trans (Dev.collNext_kept ‹_›))
      dsimp only
      split <;> simp

@[simp] theorem Dev.suspectNotice_kept (d : Dev) (ce : Nat) : (d.suspectNotice ce).kept = d.kept := by
  unfold Dev.suspectNotice
  split
  · rfl
  · refine Eq.trans ?_ (Dev.takeInbox_kept ‹_›)
    split
    · simp
    · dsimp only
      split
      · simp
      · split
        · simp
        · split <;> simp

@[simp] theorem sendAdd_keeps (c : Cmd) (slot gen : Nat) : Op.keeps Dev.kept (sendAdd c slot gen) := by
  unfold sendAdd
  repeat' first | with_reducible apply Op.keeps.bind | intro _ | split
  all_goals simp

@[simp] theorem Dev.addMsg_kept (d : Dev) (id : Nat) : (d.addMsg id).kept = d.kept := by
  simp only [Dev.addMsg]
  split <;> simp [apply_ite Dev.kept]

@[simp] theorem Dev.ackIn_kept (d : Dev) (ce : Nat) : (d.ackIn ce).kept = d.kept := by
  unfold Dev.ackIn
  split
  · rfl
  · refine Eq.trans ?_ (Dev.takeInbox_kept ‹_›)
    dsimp only
    split
    · simp
    · split
      · simp
      · split
        · exact Dev.finish_kept ..
        · exact Dev.failPart_kept ..

theorem Dev.dedupWrite_kept {d e : Dev} {p rank : Nat} {u : Dedup} (h : d.dedupWrite p rank u = .ok e) :
    e.kept = d.kept := by
  unfold Dev.dedupWrite at h
  split at h
  · split at h
    · cases h
      rfl
    · split at h
      · cases h
      · rename_i hw
        exact (Dev.physWrite_kept h).trans (Dev.physWrite_kept hw)
  · cases h
    rfl

@[simp] theorem Dev.addFail_kept (d : Dev) (e : MemErr) : (d.addFail e).1.kept = d.kept := by
  simp [Dev.addFail]

@[simp] theorem Dev.applyAdd_kept (d : Dev) (m : AddMsg) (fault : Option AdderFault) :
    (d.applyAdd m fault).1.kept = d.kept := by
  unfold Dev.applyAdd
  split
  · simp
  · rfl
  · split
    · simp
    · simp
    · dsimp only
      have hpieces := d.pieces_kept m.part true (m.count * typeBytes m.type / 65536 + 2) m.va (m.count * typeBytes m.type)
      split <;> rename_i hr <;> rw [hr] at hpieces
      · exact (Dev.addFail_kept ..).trans hpieces
      · split
        · exact (Dev.addFail_kept ..).trans hpieces
        · refine Eq.trans ?_ hpieces
          split <;> rename_i hw
          · exact (Dev.addFail_kept ..).trans (Dev.writePieces_run hw)
          · refine Eq.trans ?_ (Dev.writePieces_run hw)
            split
            · simp [apply_ite Dev.kept]
            · exact (Dev.dedupWrite_kept ‹_›).trans (by simp [apply_ite Dev.kept])

@[simp] theorem Dev.addIntake_kept (d : Dev) (ce : Nat) : (d.addIntake ce).kept = d.kept := by
  simp [Dev.addIntake]

@[simp] theorem Dev.addIn_kept (d : Dev) (ce : Nat) (fault : Option AdderFault) :
    (d.addIn ce fault).kept = d.kept := by
  simp only [Dev.addIn]
  repeat' split
  all_goals simp

end Sys2Proof.Machine
end

section
/-! PROOFS. The copy engine's, model swap's and the near-memory adder's work leave the kept part of the device as it was. -/

namespace Sys2Proof.Machine

@[simp] theorem readMember_keeps (v : Version) (m : Nat) : Op.keeps Dev.kept (readMember v m) := by
  simp [readMember]

@[simp] theorem readWhole_keeps (v : Version) : Op.keeps Dev.kept (readWhole v) := by
  simp [readWhole]

@[simp] theorem readImages_keeps (v : Version) : Op.keeps Dev.kept (readImages v) := by
  simp [readImages]

@[simp] theorem copyImages_keeps (imgs : List (List Byte)) (dst : Version) :
    Op.keeps Dev.kept (copyImages imgs dst) := by
  unfold copyImages
  repeat' first | with_reducible apply Op.keeps.bind | with_reducible apply Op.keeps.forM | intro _ | split
  all_goals simp

@[simp] theorem copyVersion_keeps (src dst : Version) : Op.keeps Dev.kept (copyVersion src dst) := by
  unfold copyVersion
  repeat' first | with_reducible apply Op.keeps.bind | intro _
  all_goals simp

@[simp] theorem Dev.placeRun_kept (d : Dev) (id : Nat) : (d.placeRun id).kept = d.kept := by
  unfold Dev.placeRun
  split
  · rfl
  · rename_i c _
    split
    · rfl
    · dsimp only
      rw [Dev.finish_kept]
      split
      · rfl
      · refine Dev.foldl_kept (fun d e => ?_) _
        split <;> simp

@[simp] theorem copyObject_keeps (id : Nat) (c : Cmd) : Op.keeps Dev.kept (copyObject id c) := by
  unfold copyObject
  repeat' first | with_reducible apply Op.keeps.bind | intro _
  all_goals simp

@[simp] theorem copyIn_keeps (id : Nat) (c : Cmd) (data : List Byte) : Op.keeps Dev.kept (copyIn id c data) := by
  unfold copyIn
  repeat' first | with_reducible apply Op.keeps.bind | intro _
  all_goals simp

@[simp] theorem copyOut_keeps (id : Nat) (c : Cmd) : Op.keeps Dev.kept (copyOut id c) := by
  unfold copyOut
  repeat' first | with_reducible apply Op.keeps.bind | intro _
  all_goals simp

@[simp] theorem Dev.copy_kept (d : Dev) (id : Nat) (data : List Byte) : (d.copy id data).kept = d.kept := by
  unfold Dev.copy
  repeat' split
  all_goals simp

@[simp] theorem streamOut_keeps (id : Nat) (c : Cmd) (data : List Byte) :
    Op.keeps Dev.kept (streamOut id c data) := by
  have hend : Op.keeps Dev.kept (Op.act fun d => if d.accepted id 0 then d.finish id else d) :=
    .act fun d => by simp [apply_ite Dev.kept]
  unfold streamOut
  refine .bind (inVer_keeps ..) fun v => .bind (rdNat_keeps ..) fun mask => ?_
  split
  · exact .bind (.pure _) fun bs => .bind (by simp) fun _ => hend
  · exact .bind (inVer_keeps ..) fun src => .bind (need_keeps ..) fun _ => .bind (readWhole_keeps src) fun _ =>
      .bind (.pure _) fun bs => .bind (by simp) fun _ => hend

@[simp] theorem Dev.copyStream_kept (d : Dev) (id : Nat) (data : List Byte) :
    (d.copyStream id data).kept = d.kept := by
  simp only [Dev.copyStream]
  split <;> simp [apply_ite Dev.kept]

/-- LOAD_PROGRAM claims buffers; it reaches nothing else of the kept part. -/
theorem loadEntry_keeps (id i : Nat) (c : Cmd) (entries : List (Nat × Nat)) (data : List Byte) :
    Op.keeps (fun d => d.kept.butEnds) (loadEntry id i c entries data) := by
  unfold loadEntry
  refine .bind ((need_keeps ..).weaken Kept.butEnds) fun _ => .bind (.mem fun d => rfl) fun e => .of_get fun d => ?_
  split
  · rfl
  · split
    · rfl
    · refine (Op.keeps.after_set (π := fun d => d.kept.butEnds) ?_).trans rfl
      exact .bind ((need_keeps ..).weaken Kept.butEnds) fun _ => .bind ((need_keeps ..).weaken Kept.butEnds) fun _ =>
        (wr_keeps ..).weaken Kept.butEnds

theorem Dev.loadProgram_butEnds (d : Dev) (id : Nat) (data : List Byte) :
    (d.loadProgram id data).kept.butEnds = d.kept.butEnds := by
  have hload (c : Cmd) (entries : List (Nat × Nat)) (l : List Nat) (d : Dev) :
      (l.foldl (fun d i => d.work id i (loadEntry id i c entries data)) d).kept.butEnds = d.kept.butEnds := by
    induction l generalizing d with
    | nil => rfl
    | cons i l ih => exact (ih _).trans (Dev.work_butEnds _ (loadEntry_keeps ..))
  unfold Dev.loadProgram
  split
  · rfl
  · split
    · rfl
    · split
      · simp
      · split
        · simp
        · simp [hload]

@[simp] theorem Dev.updSwap_kept (d : Dev) (k : Nat) (g : SwapCtx → SwapCtx) : (d.updSwap k g).kept = d.kept := by
  simp [Dev.updSwap]

@[simp] theorem Dev.swapCheck_kept (d : Dev) (id : Nat) : (d.swapCheck id).kept = d.kept := by
  unfold Dev.swapCheck
  repeat' split
  all_goals simp

@[simp] theorem Dev.weightWrite_kept (d : Dev) (x : SwapCtx) (b : Billet) : (d.weightWrite x b).kept = d.kept := by
  simp only [Dev.weightWrite]
  split
  · rfl
  · exact Dev.work_kept _ (.bind (wr_keeps ..) fun _ => by simp)

@[simp] theorem Dev.weightTake_kept (d : Dev) (x : SwapCtx) (b : Billet) : (d.weightTake x b).kept = d.kept := by
  simp [Dev.weightTake, apply_ite Dev.kept]

@[simp] theorem Dev.weightBillet_kept (d : Dev) : d.weightBillet.kept = d.kept := by
  unfold Dev.weightBillet
  split
  · rfl
  · refine Eq.trans ?_ (Dev.takeInbox_kept ‹_›)
    split <;> simp

@[simp] theorem verifyEntry_keeps (k i : Nat) (e : SwapEntry) : Op.keeps Dev.kept (verifyEntry k i e) := by
  unfold verifyEntry
  exact .bind (rd_keeps ..) fun bs => .bind (need_keeps ..) fun _ => .bind (by simp) fun _ => .bind (by simp) fun _ =>
    .act fun d => by simp [apply_ite Dev.kept]

@[simp] theorem Dev.swapVerify_kept (d : Dev) (k i : Nat) : (d.swapVerify k i).kept = d.kept := by
  unfold Dev.swapVerify
  repeat' split
  all_goals simp

@[simp] theorem foldDelta_keeps (c : Cmd) (x : Delta) : Op.keeps Dev.kept (foldDelta c x) := by
  unfold foldDelta
  repeat' first | with_reducible apply Op.keeps.bind | with_reducible apply Op.keeps.mapM | intro _ | split
  all_goals simp

@[simp] theorem Dev.nmaFold_kept (d : Dev) (id obj : Nat) : (d.nmaFold id obj).kept = d.kept := by
  unfold Dev.nmaFold
  repeat' split
  all_goals simp

end Sys2Proof.Machine
end

section
/-! PROOFS. Work commands never reach fuses, start-up, metering, the draws, the count or the partitions' jobs (R60, R66). -/

namespace Sys2Proof.Machine

/-! ## What the kept part says of a device -/

/-- A row of an engine keeps what its effect keeps: while the records held leave no room it waits, and then the balls settle. -/
theorem engine_kept {κ : Type} {s t : State} {g : Dev → Dev} (π : Kept → κ) (hg : ∀ d, π (g d).kept = π d.kept)
    (h : s.engine g = .next t) : π t.dev.kept = π s.dev.kept := by
  cases h
  show π (Dev.settle (if s.dev.stalled = true then s.dev else g s.dev)).kept = _
  rw [Dev.settle_kept]
  split
  · rfl
  · exact hg s.dev

/-- A register of the count or of a partition's job is kept. -/
theorem Dev.reg_of_kept {d e : Dev} (r : Reg) (i j : Nat) (h : e.kept.reg = d.kept.reg) (hr : r ∈ keptRegs) :
    e.reg r i j = d.reg r i j := by
  have hreg := congrFun (congrFun (congrFun h r) i) j
  simpa only [Dev.kept, if_pos hr] using hreg

/-- Where the kept part is as it was, the count is, and no command ends. -/
theorem Dev.noneEnds_of_kept {d e : Dev} (h : e.kept = d.kept) : d.noneEnds e :=
  ⟨congrArg Kept.ends h, congrArg Kept.superseded h, congrArg Kept.charges h,
    congrArg BitVec.toNat (Dev.reg_of_kept .RING_COUNT 0 0 (congrArg Kept.reg h) (by simp))⟩

/-- Where the kept part is as it was but for grants and claims, no work has reached what is not a job's. -/
theorem Dev.workApart_of_kept {d e : Dev} (h : e.kept.butEnds.butGrants = d.kept.butEnds.butGrants) {C C' : Prop}
    (hgrants : C ∨ C' ∨ e.arb.grants = d.arb.grants) :
    e.fuses = d.fuses ∧ e.boot = d.boot ∧ e.sec = d.sec ∧ e.scl = d.scl ∧ e.arb = { d.arb with grants := e.arb.grants } ∧
      (C ∨ C' ∨ e.arb.grants = d.arb.grants) ∧ e.quarantine = d.quarantine ∧ e.ring = d.ring ∧ e.nextId = d.nextId ∧
      e.count = d.count ∧ e.reg .RING_STATUS = d.reg .RING_STATUS ∧ e.link.up = d.link.up ∧
      ∀ p, e.reg .PART_CTRL p = d.reg .PART_CTRL p ∧ e.reg .RING_STEP p = d.reg .RING_STEP p := by
  have hreg : e.kept.reg = d.kept.reg := (congrArg Kept.reg h :)
  exact ⟨(congrArg Kept.fuses h :), (congrArg Kept.boot h :), (congrArg Kept.sec h :), (congrArg Kept.scl h :),
    (congrArg (fun k => { k.arb with grants := e.arb.grants }) h :), hgrants, (congrArg Kept.quarantine h :),
    (congrArg Kept.ring h :), (congrArg Kept.nextId h :),
    congrArg BitVec.toNat (Dev.reg_of_kept .RING_COUNT 0 0 hreg (by simp)),
    Dev.reg_of_kept .RING_STATUS 0 0 hreg (by simp), (congrArg Kept.up h :), fun p =>
      ⟨Dev.reg_of_kept .PART_CTRL p 0 hreg (by simp), Dev.reg_of_kept .RING_STEP p 0 hreg (by simp)⟩⟩

/-- A row that keeps the whole kept part. -/
theorem work_apart {s t : State} {g : Dev → Dev} {C C' : Prop} (hg : ∀ d, (g d).kept = d.kept) (h : s.engine g = .next t) :
    t.dev.kept.butEnds.butGrants = s.dev.kept.butEnds.butGrants ∧ (C ∨ C' ∨ t.dev.arb.grants = s.dev.arb.grants) := by
  have hk : t.dev.kept = s.dev.kept := engine_kept id hg h
  exact ⟨congrArg (fun k => k.butEnds.butGrants) hk, .inr (.inr (congrArg (fun k => k.arb.grants) hk))⟩

/-- Settles O60: each row keeps the kept part, but that COMPACTION and TRANSPOSE_BLOCK end a grant's unit and LOAD_PROGRAM
claims buffers. -/
theorem workStaysInItsJob : Obligations.WorkStaysInItsJob := by
  unfold Obligations.WorkStaysInItsJob
  intro s t i id k n data ce x y arr f m w h hi hexec
  suffices hkept : t.dev.kept.butEnds.butGrants = s.dev.kept.butEnds.butGrants ∧
      (i = .compaction id n ∨ i = .transposeBlock id n ∨ t.dev.arb.grants = s.dev.arb.grants) from
    Dev.workApart_of_kept hkept.1 hkept.2
  simp only [List.mem_cons, List.not_mem_nil, or_false] at hi
  rcases hi with rfl | rfl | rfl | rfl | rfl | rfl | rfl | rfl | rfl | rfl | rfl | rfl | rfl | rfl | rfl | rfl | rfl | rfl |
    rfl | rfl | rfl | rfl | rfl | rfl | rfl | rfl | rfl | rfl | rfl | rfl | rfl | rfl
  · exact work_apart (fun d => d.layerEnd_kept id) hexec
  · exact work_apart (fun d => d.arrayTile_kept id arr n f) hexec
  · exact ⟨congrArg Kept.butEnds (engine_kept Kept.butGrants (fun d => d.compact_butGrants id n) hexec), .inl rfl⟩
  · exact ⟨congrArg Kept.butEnds (engine_kept Kept.butGrants (fun d => d.transpose_butGrants id n) hexec), .inr (.inl rfl)⟩
  · exact work_apart (fun d => d.stageChunk_kept id arr n) hexec
  · exact work_apart (fun d => d.fetchDeadline_kept id) hexec
  · exact work_apart (fun d => d.sieve_kept id) hexec
  · exact work_apart (fun d => d.scoreTile_kept x) hexec
  · exact work_apart (fun d => d.tokenSelect_kept x) hexec
  · exact work_apart (fun d => d.sieveTail_kept x) hexec
  · exact work_apart (fun d => d.exchange_kept id) hexec
  · exact work_apart (fun d => d.combine_kept id) hexec
  · exact work_apart Dev.xeBillet_kept hexec
  · exact work_apart (fun d => d.segmentHeader_kept k n) hexec
  · exact work_apart (fun d => d.vectorWrite_kept k n id) hexec
  · exact work_apart (fun d => d.copy_kept id data) hexec
  · exact work_apart (fun d => d.copyStream_kept id data) hexec
  · exact work_apart (fun d => d.placeRun_kept id) hexec
  · have hk := engine_kept Kept.butEnds (fun d => d.loadProgram_butEnds id data) hexec
    exact ⟨congrArg Kept.butGrants hk, .inr (.inr (congrArg (fun k => k.arb.grants) hk))⟩
  · exact work_apart (fun d => d.swapCheck_kept id) hexec
  · exact work_apart Dev.weightBillet_kept hexec
  · exact work_apart (fun d => d.swapVerify_kept y n) hexec
  · exact work_apart (fun d => d.nmaFold_kept id n) hexec
  · exact work_apart (fun d => d.collective_kept id) hexec
  · exact work_apart (fun d => d.collStageChunk_kept id w h m) hexec
  · exact work_apart (fun d => d.collBillet_kept ce) hexec
  · exact work_apart (fun d => d.collCreditIn_kept ce) hexec
  · exact work_apart (fun d => d.collCloseIn_kept ce) hexec
  · exact work_apart (fun d => d.suspectNotice_kept ce) hexec
  · exact work_apart (fun d => d.addMsg_kept id) hexec
  · exact work_apart (fun d => d.addIn_kept ce m) hexec
  · exact work_apart (fun d => d.ackIn_kept ce) hexec

end Sys2Proof.Machine
end

section
/-! PROOFS. Partitions get their jobs and give them up; quarantine (R65, R66). -/

namespace Sys2Proof.Machine

/-! ## PART_CTRL -/

/-- A field of a register's low half, of a 32-bit value written. -/
theorem Fld.of_narrow (f : Fld) (v : BitVec 32) : f.of (v.zeroExtend 64) = bits v.toNat f.lo f.width := by
  have hn : (v.zeroExtend 64).toNat = v.toNat := by simpa using Nat.mod_eq_of_lt (by omega : v.toNat < 2 ^ 64)
  rw [Fld.of, hn]

/-- Bits or-ed into a value outside a field leave the field. -/
theorem Fld.of_or_apart (f : Fld) (v c : BitVec 32) (h : ∀ k < f.width, c.getLsbD (f.lo + k) = false) :
    f.of ((v ||| c).zeroExtend 64) = bits v.toNat f.lo f.width := by
  rw [← Fld.of_narrow]
  refine f.of_congr fun k hlo hk => ?_
  have hc := h (k - f.lo) (by omega)
  rw [show f.lo + (k - f.lo) = k by omega] at hc
  simp [BitVec.getLsbD_or, BitVec.getLsbD_setWidth, hc, -BitVec.getLsbD_eq_getElem]

/-- PART_CTRL written with VALID 1: the job, VALID and DET of the value. -/
theorem Fld.of_partCtrl_valid (v : BitVec 32) :
    Fld.PART_CTRL_JOB.of ((v ||| 0x10000#32).zeroExtend 64) = v.toNat % 65536 ∧
    Fld.PART_CTRL_VALID.of ((v ||| 0x10000#32).zeroExtend 64) = 1 ∧
    Fld.PART_CTRL_DET.of ((v ||| 0x10000#32).zeroExtend 64) = bits v.toNat 17 1 := by
  refine ⟨?_, ?_, Fld.of_or_apart .PART_CTRL_DET v _ (by decide)⟩
  · rw [Fld.of_or_apart .PART_CTRL_JOB v _ (by decide)]
    exact congrArg (· % 65536) (Nat.div_one v.toNat)
  · rw [BitVec.or_comm]
    refine (Fld.of_congr .PART_CTRL_VALID (w := 0x10000#64) fun k hlo hk => ?_).trans (by decide)
    obtain rfl : k = 16 := by
      have : Fld.PART_CTRL_VALID.lo = 16 ∧ Fld.PART_CTRL_VALID.width = 1 := ⟨rfl, rfl⟩
      omega
    simp [BitVec.getLsbD_or, BitVec.getLsbD_setWidth, -BitVec.getLsbD_eq_getElem]

/-- Registers set to 0 one after another read 0. -/
theorem Dev.foldl_setReg_zero (l : List Reg) (p : Nat) {r : Reg} (d : Dev) (h : r ∈ l ∨ d.reg r p = 0) :
    (l.foldl (fun d r => d.setReg r 0 p) d).reg r p = 0 := by
  induction l generalizing d with
  | nil => simpa using h
  | cons q l ih =>
    refine ih _ ?_
    rw [Dev.reg_setReg]
    by_cases hr : r ∈ l
    · exact .inl hr
    · right
      split
      · rfl
      · rename_i hne
        have hq : r ≠ q := fun hq => hne (by rw [hq])
        simpa [hq, hr] using h

/-- A fold keeps a frame that each step keeps. -/
theorem Dev.regsBut.foldl {α : Type} {d : Dev} {L : List Nat} {g : Dev → α → Dev} (l : List α)
    (hg : ∀ e, ∀ a ∈ l, d.regsBut e L → d.regsBut (g e a) L) {e : Dev} (h : d.regsBut e L) : d.regsBut (l.foldl g e) L := by
  induction l generalizing e with
  | nil => exact h
  | cons a l ih => exact ih (fun e b hb => hg e b (.tail _ hb)) (hg e a (.head _) h)

/-! ## Giving a job -/

/-- A new job opens the Borer's histograms of its slots; nothing else of the device changes. -/
theorem Dev.brGiveJob_borer (d : Dev) (p : Nat) : ∃ b, d.brGiveJob p = { d with borer := b } := by
  have hfold (l : List Nat) (d : Dev) : ∃ b, l.foldl (fun d s => d.brBegin s 0) d = { d with borer := b } := by
    induction l generalizing d with
    | nil => exact ⟨d.borer, rfl⟩
    | cons a l ih =>
      obtain ⟨b, hb⟩ := ih (d.brBegin a 0)
      exact ⟨b, hb⟩
  exact hfold _ d

/-- The registers that a new job clears. -/
def Dev.jobCleared (d : Dev) (p : Nat) : Dev :=
  (List.range 4).foldl (fun d i => d.setReg .COLL_OCC 0 p i) (jobClears.foldl (fun d r => d.setReg r 0 p) d)

theorem Dev.giveJob_steps (d : Dev) (p : Nat) : d.giveJob p =
    (((d.jobCleared p).updXe (fun x => { x with tabs := x.tabs.filter (fun t => t.ver.part != p) })).brGiveJob p).updRing
      (fun r => { r with stepStart := SMap.set 0 r.stepStart p 0 }) := rfl

/-- A new job clears its registers, and of the rest reaches the Exchange Engine's tables, the Borer and the start of the
step. -/
theorem Dev.giveJob_eq (d : Dev) (p : Nat) : ∃ x b r, d.giveJob p = { d.jobCleared p with xe := x, borer := b, ring := r } := by
  rw [Dev.giveJob_steps]
  generalize d.jobCleared p = e
  obtain ⟨b, hb⟩ := Dev.brGiveJob_borer (e.updXe (fun x => { x with tabs := x.tabs.filter (fun t => t.ver.part != p) })) p
  rw [hb]
  exact ⟨_, _, _, rfl⟩

/-- The codes of the registers that a new job clears. -/
def jobCodes (p : Nat) : List Nat := jobClears.map (fun r => r.code p 0) ++ (List.range 4).map (Reg.code .COLL_OCC p)

theorem Dev.jobCleared_regsBut (d : Dev) (p : Nat) : d.regsBut (d.jobCleared p) (jobCodes p) := by
  refine Dev.regsBut.foldl _ (fun e i hi h => h.setReg 0 ?_) (Dev.regsBut.foldl _ (fun e r hr h => h.setReg 0 ?_) (.refl d _))
  · exact List.mem_append_right _ (List.mem_map_of_mem hi)
  · exact List.mem_append_left _ (List.mem_map_of_mem (f := fun r => Reg.code r p 0) hr)

theorem Dev.restSame.trans {d m e : Dev} (h : d.restSame m) (h' : m.restSame e) : d.restSame e :=
  Eq.trans h' (congrArg (fun x : Dev => { x with regs := e.regs, pins := e.pins }) h :)

theorem Dev.restSame.cmds {d e : Dev} (h : d.restSame e) : e.cmds = d.cmds := (congrArg Dev.cmds h :)
theorem Dev.restSame.mem {d e : Dev} (h : d.restSame e) : e.mem = d.mem := (congrArg Dev.mem h :)
theorem Dev.restSame.link {d e : Dev} (h : d.restSame e) : e.link = d.link := (congrArg Dev.link h :)
theorem Dev.restSame.quarantine {d e : Dev} (h : d.restSame e) : e.quarantine = d.quarantine := (congrArg Dev.quarantine h :)

/-- A refusal tells the host, and reaches nothing but registers beside. -/
theorem Dev.restTold_refuse {d e : Dev} (ap : Aperture) (addr : Nat) (h : d.restSame e) :
    d.restTold (e.refuse ap addr true).settle :=
  (congrArg (fun x : Dev => { x with
    regs := (e.refuse ap addr true).settle.regs, pins := (e.refuse ap addr true).settle.pins
    link := { x.link with held := (e.refuse ap addr true).link.held, seq := (e.refuse ap addr true).link.seq } }) h :)

theorem Dev.restSame.foldl {α : Type} {d e : Dev} {g : Dev → α → Dev} (hg : ∀ e a, d.restSame e → d.restSame (g e a))
    (l : List α) (h : d.restSame e) : d.restSame (l.foldl g e) := by
  induction l generalizing e with
  | nil => exact h
  | cons a l ih => exact ih (hg e a h)

theorem Dev.jobCleared_restSame (d : Dev) (p : Nat) : d.restSame (d.jobCleared p) :=
  .foldl (fun _ _ h => h.setReg _ _ _ _) _ (.foldl (fun _ _ h => h.setReg _ _ _ _) _ (.refl d))

/-- What a new job clears reads 0. -/
theorem Dev.jobCleared_clear (d : Dev) (p : Nat) : (∀ r ∈ jobClears, (d.jobCleared p).reg r p = 0) ∧
    ∀ i < 4, (d.jobCleared p).reg .COLL_OCC p i = 0 := by
  constructor
  · intro r hr
    have hne : r ≠ .COLL_OCC := by rintro rfl; exact absurd hr (by decide)
    have hocc (l : List Nat) (e : Dev) (he : e.reg r p = 0) :
        (l.foldl (fun d i => d.setReg .COLL_OCC 0 p i) e).reg r p = 0 := by
      induction l generalizing e with
      | nil => exact he
      | cons a l ih => exact ih _ ((e.reg_setReg_ne 0 p a p 0 hne).trans he)
    exact hocc _ _ (Dev.foldl_setReg_zero jobClears p d (.inl hr))
  · intro i hi
    have hocc (l : List Nat) (e : Dev) (he : i ∈ l ∨ e.reg .COLL_OCC p i = 0) :
        (l.foldl (fun d i => d.setReg .COLL_OCC 0 p i) e).reg .COLL_OCC p i = 0 := by
      induction l generalizing e with
      | nil => simpa using he
      | cons a l ih =>
        refine ih _ ?_
        rw [Dev.reg_setReg]
        split
        · exact .inr rfl
        · rename_i hc
          have ha : i ≠ a := fun h => hc (by rw [h])
          simpa [ha] using he
    exact hocc _ _ (.inl (List.mem_range.mpr hi))

/-! ## Settling O19 -/

/-- A partition without a job, as PART_CTRL leaves it before it is given one: the fields written, VALID 0. -/
def Dev.partWritten (d : Dev) (p : Nat) (v : BitVec 32) : Dev :=
  (d.plainWrite .PART_CTRL ((v ||| 0x10000#32).zeroExtend 64) p).setF .PART_CTRL_VALID 0 p

theorem Dev.partWritten_fields (d : Dev) (p : Nat) (v : BitVec 32) :
    (d.partWritten p v).f .PART_CTRL_JOB p = v.toNat % 65536 ∧ (d.partWritten p v).f .PART_CTRL_DET p = bits v.toNat 17 1 ∧
    (d.partWritten p v).f .PART_CTRL_VALID p = 0 := by
  obtain ⟨hjob, -, hdet⟩ := Fld.of_partCtrl_valid v
  refine ⟨?_, ?_, Dev.f_setF_same _ .PART_CTRL_VALID 0 p 0 (by decide)⟩
  · rw [Dev.partWritten, Dev.f_setF_apart _ .PART_CTRL_VALID .PART_CTRL_JOB 0 p 0 rfl (by decide) (by decide),
      Dev.f_plainWrite _ .PART_CTRL_JOB _ _ _ (by decide) (by decide), hjob]
  · rw [Dev.partWritten, Dev.f_setF_apart _ .PART_CTRL_VALID .PART_CTRL_DET 0 p 0 rfl (by decide) (by decide),
      Dev.f_plainWrite _ .PART_CTRL_DET _ _ _ (by decide) (by decide), hdet]

theorem Dev.partWritten_regsBut (d : Dev) (p : Nat) (v : BitVec 32) {l : List Nat} (h : Reg.code .PART_CTRL p 0 ∈ l) :
    d.regsBut (d.partWritten p v) l := ((Dev.regsBut.refl d l).plainWrite _ h).setF 0 h

/-- PART_CTRL with VALID 1 on a partition without a job (R65). -/
theorem Dev.partCtrl_valid {d : Dev} (ap : Aperture) {p : Nat} {v : BitVec 32} (hv : d.valid p = false) :
    d.partCtrl ap p (v ||| 0x10000#32) =
      if d.jobOk p (v.toNat % 65536) then ((d.partWritten p v).giveJob p).setF .PART_CTRL_VALID 1 p
      else ((d.partWritten p v).setF .PART_STATUS_REFUSED 1 p).refuseReg ap .PART_CTRL p := by
  obtain ⟨hjob, hvalid, -⟩ := Fld.of_partCtrl_valid v
  unfold Dev.partCtrl
  simp only [hjob, hvalid, hv, decide_true, Bool.not_true, Bool.false_eq_true, ↓reduceIte]
  rfl

theorem Dev.partWritten_restSame (d : Dev) (p : Nat) (v : BitVec 32) : d.restSame (d.partWritten p v) :=
  ((Dev.restSame.refl d).plainWrite _ _ _ _).setF _ _ _ _

/-- PART_CTRL is not among the registers that a new job clears. -/
theorem partCtrl_not_jobCode (p q : Nat) : Reg.code .PART_CTRL q 0 ∉ jobCodes p := by
  simp only [jobCodes, List.mem_append, List.mem_map, not_or, not_exists, not_and]
  exact ⟨fun r hr hc => absurd (Reg.code_reg hc ▸ hr) (by decide), fun i _ hc => absurd (Reg.code_reg hc) (by decide)⟩

/-- What a partition with a new job holds: its fields, its cleared registers, and all else as it was. -/
theorem Dev.partGiven_spec (d : Dev) (p : Nat) (v : BitVec 32) :
    let e := ((d.partWritten p v).giveJob p).setF .PART_CTRL_VALID 1 p
    e.valid p = true ∧ e.jobOf p = v.toNat % 65536 ∧ e.f .PART_CTRL_DET p = bits v.toNat 17 1 ∧
      (∀ r ∈ jobClears, e.reg r p = 0) ∧ (∀ i < 4, e.reg .COLL_OCC p i = 0) ∧
      d.regsBut e (Reg.code .PART_CTRL p 0 :: jobCodes p) ∧
      e.cmds = d.cmds ∧ e.mem = d.mem ∧ e.link = d.link ∧ e.quarantine = d.quarantine := by
  obtain ⟨hjob, hdet, -⟩ := d.partWritten_fields p v
  obtain ⟨x, b, r, hg⟩ := (d.partWritten p v).giveJob_eq p
  have hframe := (d.partWritten p v).jobCleared_regsBut p
  obtain ⟨hclear, hocc⟩ := (d.partWritten p v).jobCleared_clear p
  have hrest := (d.partWritten p v).jobCleared_restSame p
  have hwrest := d.partWritten_restSame p v
  have hwframe := d.partWritten_regsBut p v (l := Reg.code .PART_CTRL p 0 :: jobCodes p) List.mem_cons_self
  have hkeep (f : Fld) (hf : f.reg = .PART_CTRL) : ((d.partWritten p v).jobCleared p).f f p = (d.partWritten p v).f f p :=
    congrArg f.of (hframe f.reg p 0 (hf ▸ partCtrl_not_jobCode p p))
  generalize (d.partWritten p v).giveJob p = g at *
  generalize (d.partWritten p v).jobCleared p = c at *
  generalize d.partWritten p v = w at *
  have hvalid : (g.setF .PART_CTRL_VALID 1 p).f .PART_CTRL_VALID p = 1 :=
    Dev.f_setF_same _ .PART_CTRL_VALID 1 p 0 (by decide)
  have hapart (f : Fld) (hf : f.reg = .PART_CTRL) (hd : f.lo + f.width ≤ 16 ∨ 17 ≤ f.lo) :
      (g.setF .PART_CTRL_VALID 1 p).f f p = w.f f p := by
    refine (Dev.f_setF_apart _ .PART_CTRL_VALID f 1 p 0 hf (by decide) hd).trans ?_
    rw [hg]
    exact hkeep f hf
  have hreg (q : Reg) (i j : Nat) (hq : q ≠ .PART_CTRL) : (g.setF .PART_CTRL_VALID 1 p).reg q i j = c.reg q i j := by
    rw [Dev.reg_setF_ne g .PART_CTRL_VALID q 1 p 0 i j (fun h => hq (Reg.code_reg h)), hg]
    rfl
  have hvf : (g.setF .PART_CTRL_VALID 1 p).valid p = true := Dev.flag_of_one hvalid
  refine ⟨hvf, ?_, (hapart .PART_CTRL_DET rfl (by decide)).trans hdet, fun q hq => ?_, fun i hi => ?_, ?_, ?_⟩
  · rw [Dev.jobOf, if_pos hvf, hapart .PART_CTRL_JOB rfl (by decide), hjob]
  · exact (hreg q p 0 (by rintro rfl; exact absurd hq (by decide))).trans (hclear q hq)
  · exact (hreg .COLL_OCC p i (by decide)).trans (hocc i hi)
  · refine Dev.regsBut.setF ?_ 1 List.mem_cons_self
    rw [hg]
    exact (hwframe.trans (hframe.mono (List.subset_cons_self _ _))).congr rfl
  · simp only [Dev.setF_cmds, Dev.setF_mem, Dev.setF_link, Dev.setF_quarantine, hg]
    have hdc := hwrest.trans hrest
    exact ⟨hdc.cmds, hdc.mem, hdc.link, hdc.quarantine⟩

/-- Settles O19: the partition's own register is written, then its other registers clear, or the write is refused. -/
theorem partitionGetsJob : Obligations.PartitionGetsJob := by
  unfold Obligations.PartitionGetsJob
  intro s ap p v hacc hv
  refine ⟨fun hok => ?_, fun hok => ?_⟩
  · refine Completes.of_accepted (g := fun d => d.partCtrl ap p (v ||| 0x10000#32)) rfl hacc ?_
    rw [Dev.partCtrl_valid ap hv, if_pos hok]
    obtain ⟨hvalid, hjob, hdet, hclear, hocc, hframe, hrest⟩ := s.dev.partGiven_spec p v
    exact ⟨hvalid, hjob, hdet, hclear, hocc, hframe.settle, hrest⟩
  · refine Completes.of_accepted (g := fun d => d.partCtrl ap p (v ||| 0x10000#32)) rfl hacc ?_
    rw [Dev.partCtrl_valid ap hv, if_neg (by simp [hok])]
    have hoff := (s.dev.partWritten_fields p v).2.2
    have hrest := s.dev.partWritten_restSame p v
    have hframe := s.dev.partWritten_regsBut p v (l := [Reg.code .PART_CTRL p 0, Reg.code .PART_STATUS p 0]) (by simp)
    generalize s.dev.partWritten p v = w at *
    have hkeep : (w.setF .PART_STATUS_REFUSED 1 p).f .PART_CTRL_VALID p = w.f .PART_CTRL_VALID p :=
      w.f_setF_ne_reg .PART_STATUS_REFUSED .PART_CTRL_VALID 1 p 0 p 0 (by decide)
    have hcount : (w.setF .PART_STATUS_REFUSED 1 p).count = s.dev.count :=
      (Dev.count_setF _ _ _ _ _ (by decide)).trans
        (congrArg BitVec.toNat (hframe .RING_COUNT 0 0 (by
          simp only [List.mem_cons, List.not_mem_nil, or_false, not_or]
          exact ⟨fun h => absurd (Reg.code_reg h) (by decide), fun h => absurd (Reg.code_reg h) (by decide)⟩)))
    refine ⟨Dev.flag_of_zero (hkeep.trans hoff), Dev.flag_of_one (w.f_setF_same .PART_STATUS_REFUSED 1 p 0 (by decide)),
      ?_, ((hframe.setF 1 (by simp)).congr rfl).settle, Dev.restTold_refuse ap _ (hrest.setF _ _ _ _)⟩
    exact (Dev.posted_congr (d' := w.setF .PART_STATUS_REFUSED 1 p) hrest.link hcount rfl
      (Dev.refuse_posted _ ap _ true)).mono fun _ h => h.1

end Sys2Proof.Machine
end

section
/-! PROOFS. The release of a partition: what it reaches, and the quarantine of its job (R65, R66). -/

namespace Sys2Proof.Machine

/-! ## What the release of a partition's work does not reach -/

/-- Registers of start-up, the count, the schedules, the queues and the partitions that the release of a partition's work leaves
as they are. -/
@[simp] def calmRegs : List Reg :=
  [.DEV_STATUS, .RING_COUNT, .RING_STATUS, .RING_NEXT, .RING_ORIG, .RING_PERIOD, .PART_CTRL, .CMD_SQ_CTRL, .FAB_LINK_STATUS]

/-- The device beside what the release of a partition's work reaches. -/
def Dev.besideRelease (d : Dev) : Dev × (Reg → Nat → Nat → BitVec 64) :=
  ({ d with regs := [], fab := {}, lnd := {}, xe := {}, coll := {}, win := {}, sv := {}, borer := {}, arr := {} },
    fun r i j => if r ∈ calmRegs then d.reg r i j else 0)

variable (d : Dev)

@[simp] theorem Dev.setReg_besideRelease (r : Reg) (v : BitVec 64) (i j : Nat) (h : r ∉ calmRegs) :
    (d.setReg r v i j).besideRelease = d.besideRelease := by
  refine Prod.ext rfl (funext fun q => funext fun a => funext fun b => ?_)
  show (if q ∈ calmRegs then (d.setReg r v i j).reg q a b else 0) = if q ∈ calmRegs then d.reg q a b else 0
  split
  · exact d.reg_setReg_ne v i j a b (fun hq => h (hq ▸ ‹q ∈ calmRegs›))
  · rfl

@[simp] theorem Dev.setF_besideRelease (f : Fld) (n i j : Nat) (h : f.reg ∉ calmRegs) :
    (d.setF f n i j).besideRelease = d.besideRelease := d.setReg_besideRelease f.reg _ i j h

@[simp] theorem Dev.addF_besideRelease (f : Fld) (n i j : Nat) (h : f.reg ∉ calmRegs) :
    (d.addF f n i j).besideRelease = d.besideRelease := d.setF_besideRelease f _ i j h

@[simp] theorem Dev.subF_besideRelease (f : Fld) (n i j : Nat) (h : f.reg ∉ calmRegs) :
    (d.subF f n i j).besideRelease = d.besideRelease := d.setF_besideRelease f _ i j h

/-- Devices that differ only in what the release reaches. -/
theorem Dev.besideRelease_congr {d e : Dev} (h : e = { d with
    fab := e.fab, lnd := e.lnd, xe := e.xe, coll := e.coll, win := e.win, sv := e.sv, borer := e.borer, arr := e.arr }) :
    e.besideRelease = d.besideRelease := by
  rw [h]
  rfl

@[simp] theorem Dev.updXe_besideRelease (g : XeSt → XeSt) : (d.updXe g).besideRelease = d.besideRelease :=
  Dev.besideRelease_congr rfl
@[simp] theorem Dev.updColl_besideRelease (g : CollSt → CollSt) : (d.updColl g).besideRelease = d.besideRelease :=
  Dev.besideRelease_congr rfl
@[simp] theorem Dev.updWin_besideRelease (g : WinSt → WinSt) : (d.updWin g).besideRelease = d.besideRelease :=
  Dev.besideRelease_congr rfl
@[simp] theorem Dev.updSvSt_besideRelease (g : SvSt → SvSt) : (d.updSvSt g).besideRelease = d.besideRelease :=
  Dev.besideRelease_congr rfl
@[simp] theorem Dev.updBorer_besideRelease (g : BorerSt → BorerSt) : (d.updBorer g).besideRelease = d.besideRelease :=
  Dev.besideRelease_congr rfl
@[simp] theorem Dev.set_arr_besideRelease (x) : Dev.besideRelease { d with arr := x } = d.besideRelease :=
  Dev.besideRelease_congr rfl
@[simp] theorem Dev.set_lnd_besideRelease (x) : Dev.besideRelease { d with lnd := x } = d.besideRelease :=
  Dev.besideRelease_congr rfl

@[simp] theorem Dev.foldl_besideRelease {α : Type} {g : Dev → α → Dev}
    (hg : ∀ d a, (g d a).besideRelease = d.besideRelease) (l : List α) :
    (l.foldl g d).besideRelease = d.besideRelease := by
  induction l generalizing d with
  | nil => rfl
  | cons a l ih => rw [List.foldl_cons, ih, hg]

/-- Billets that leave their slots. -/
theorem Dev.slotsMove.besideRelease {d e : Dev} (h : d.slotsMove e) : e.besideRelease = d.besideRelease := by
  refine Prod.ext ?_ (funext fun r => funext fun i => funext fun j => ?_)
  · exact (congrArg (fun x : Dev => x.besideRelease.1) h.rest :)
  · show (if r ∈ calmRegs then e.reg r i j else 0) = if r ∈ calmRegs then d.reg r i j else 0
    split
    · rename_i hr
      exact h.reg r i j ((by decide : ∀ r ∈ calmRegs, r ∉ switchRegs) r hr)
    · rfl

@[simp] theorem Dev.consume_besideRelease (a : Arrival) : (d.consume a).besideRelease = d.besideRelease :=
  (Dev.slotsMove.consume d a).besideRelease

@[simp] theorem Dev.lndReturn_besideRelease (b : LndBuf) : (d.lndReturn b).besideRelease = d.besideRelease := by
  have hheld : ({ d.subF .TIER_LND_USE_USED 1 b.part b.pool with lnd :=
      { d.lnd with held := d.lnd.held.erase b } } : Dev).besideRelease = d.besideRelease :=
    (Dev.set_lnd_besideRelease _ _).trans (by simp)
  simp only [Dev.lndReturn]
  split
  · rw [Dev.addF_besideRelease _ _ _ _ _ (by simp)]
    exact (Dev.set_lnd_besideRelease _ _).trans hheld
  · rw [Dev.setF_besideRelease _ _ _ _ _ (by simp)]
    exact hheld

@[simp] theorem Dev.lndReturnIf_besideRelease (p : LndBuf → Bool) : (d.lndReturnIf p).besideRelease = d.besideRelease := by
  simp [Dev.lndReturnIf]

@[simp] theorem Dev.lndReturnUser_besideRelease (u : LndUser) : (d.lndReturnUser u).besideRelease = d.besideRelease := by
  simp [Dev.lndReturnUser]

@[simp] theorem Dev.freeCtx_besideRelease (x : XCtx) : (d.freeCtx x).besideRelease = d.besideRelease := by
  simp [Dev.freeCtx]

@[simp] theorem Dev.collFree_besideRelease (x : CollCtx) : (d.collFree x).besideRelease = d.besideRelease := by
  simp [Dev.collFree, Dev.noteColl]

@[simp] theorem Dev.winAbort_besideRelease (r : Nat) : (d.winAbort r).besideRelease = d.besideRelease := by
  simp [Dev.winAbort, Dev.noteWin, Dev.winNextGen, Dev.winSetLine]

@[simp] theorem Dev.brDrop_besideRelease (s : Nat) : (d.brDrop s).besideRelease = d.besideRelease := by
  refine (Dev.updBorer_besideRelease _ _).trans ((Dev.set_arr_besideRelease _ _).trans ?_)
  simp

@[simp] theorem Dev.xeRelease_besideRelease (p : Nat) : (d.xeRelease p).besideRelease = d.besideRelease := by
  simp [Dev.xeRelease, Dev.dropReserve]

@[simp] theorem Dev.collRelease_besideRelease (p : Nat) : (d.collRelease p).besideRelease = d.besideRelease := by
  simp [Dev.collRelease]

@[simp] theorem Dev.winRelease_besideRelease (p job : Nat) : (d.winRelease p job).besideRelease = d.besideRelease := by
  simp [Dev.winRelease]

@[simp] theorem Dev.gateRelease_besideRelease (p : Nat) : (d.gateRelease p).besideRelease = d.besideRelease := by
  simp [Dev.gateRelease, Dev.openGate, Dev.showStored]

variable {d}

/-- What the release leaves, read off. -/
theorem Dev.besideRelease_spec {d e : Dev} (h : e.besideRelease = d.besideRelease) :
    e.cmds = d.cmds ∧ e.mem = d.mem ∧ e.quarantine = d.quarantine ∧
      ∀ r ∈ calmRegs, ∀ i j, e.reg r i j = d.reg r i j := by
  have hdev := congrArg Prod.fst h
  refine ⟨(congrArg Dev.cmds hdev :), (congrArg Dev.mem hdev :), (congrArg Dev.quarantine hdev :), fun r hr i j => ?_⟩
  have hreg := congrFun (congrFun (congrFun (congrArg Prod.snd h) r) i) j
  simpa only [Dev.besideRelease, if_pos hr] using hreg

/-! ## The release of a partition -/

/-- Without a live command in the partition, its release kills none. -/
theorem Dev.killPart_idle {d : Dev} {p : Nat} (h : ∀ c ∈ d.cmds, c.part = p → c.ended = true) : d.killPart p = d := by
  have hnone : d.cmds.filter (fun c => c.part == p && !c.ended) = [] := by
    rw [List.filter_eq_nil_iff]
    intro c hc
    simp only [Bool.and_eq_true, beq_iff_eq, Bool.not_eq_true', not_and, Bool.not_eq_false]
    exact h c hc
  simp [Dev.killPart, hnone]

/-- A field cleared for each of a list of indices: it is 0 for those, and no other register changes. -/
theorem Dev.foldl_clearF (f : Fld) (hf : f.lo + f.width ≤ 64) (l : List Nat) (d : Dev) :
    (∀ q, q ∈ l ∨ d.f f q = 0 → (l.foldl (fun d q => d.setF f 0 q) d).f f q = 0) ∧
    (∀ r i j, r ≠ f.reg → (l.foldl (fun d q => d.setF f 0 q) d).reg r i j = d.reg r i j) ∧
    d.restSame (l.foldl (fun d q => d.setF f 0 q) d) := by
  induction l generalizing d with
  | nil => exact ⟨fun q h => by simpa using h, fun _ _ _ _ => rfl, rfl⟩
  | cons a l ih =>
    obtain ⟨hz, hr, hrest⟩ := ih (d.setF f 0 a)
    refine ⟨fun q hq => hz q ?_, fun r i j h => (hr r i j h).trans (d.reg_setF_ne f r 0 a 0 i j (fun hc => h (Reg.code_reg hc))),
      ((Dev.restSame.refl d).setF f 0 a 0).trans hrest⟩
    by_cases ha : f.reg.code q 0 = f.reg.code a 0
    · exact .inr ((congrArg f.of (by unfold Dev.reg; rw [ha])).trans (d.f_setF_same f 0 a 0 hf))
    · have hne : q ≠ a := fun h => ha (by rw [h])
      refine (by simpa [hne] using hq : q ∈ l ∨ d.f f q = 0).imp_right fun h => ?_
      rw [Dev.f, Dev.reg_setF_ne d f f.reg 0 a 0 q 0 ha]
      exact h

/-- The release of a partition's work: its queues' ENABLEs clear, VALID clears and the job enters quarantine at the count;
commands, memory and the count are as before. -/
theorem Dev.releaseJob_spec {d : Dev} {p : Nat} (h : ∀ c ∈ d.cmds, c.part = p → c.ended = true) :
    (d.releaseJob p).f .PART_CTRL_VALID p = 0 ∧ (d.releaseJob p).reg .RING_COUNT = d.reg .RING_COUNT ∧
    (d.releaseJob p).cmds = d.cmds ∧ (∀ q < 64, d.boundTo q p = true → (d.releaseJob p).f .CMD_SQ_CTRL_ENABLE q = 0) ∧
    (d.releaseJob p).quarantine = d.quarantine ++ [(d.f .PART_CTRL_JOB p, d.count)] ∧ (d.releaseJob p).mem = d.mem := by
  obtain ⟨hz, hr, hrest⟩ := Dev.foldl_clearF .CMD_SQ_CTRL_ENABLE (by decide)
    ((List.range 64).filter (fun q => d.boundTo q p)) d
  unfold Dev.releaseJob
  rw [Dev.killPart_idle h]
  dsimp only
  generalize ((List.range 64).filter (fun q => d.boundTo q p)).foldl (fun d q => d.setF .CMD_SQ_CTRL_ENABLE 0 q) d = m at *
  have hbeside : ∀ slots : List Nat, ((slots.foldl Dev.brDrop ((((m.xeRelease p).collRelease p).winRelease p
      (d.f .PART_CTRL_JOB p)).gateRelease p)).lndReturnIf (fun b => b.part == p)).besideRelease = m.besideRelease := by
    intro slots
    simp
  generalize ((((m.xeRelease p).collRelease p).winRelease p (d.f .PART_CTRL_JOB p)).gateRelease p) = g at *
  generalize (List.range 64).filter (fun s => g.f .MA_BR_CFG_PARTITION s == p) = slots
  obtain ⟨hcmds, hmem, hq, hreg⟩ := Dev.besideRelease_spec (hbeside slots)
  generalize (slots.foldl Dev.brDrop g).lndReturnIf (fun b => b.part == p) = e at *
  have hcount : (e.setF .PART_CTRL_VALID 0 p).reg .RING_COUNT = d.reg .RING_COUNT :=
    (e.reg_setF_ne .PART_CTRL_VALID .RING_COUNT 0 p 0 0 0 (fun h => absurd (Reg.code_reg h) (by decide))).trans <|
      (hreg .RING_COUNT (by decide) 0 0).trans (hr .RING_COUNT 0 0 (by decide))
  refine ⟨e.f_setF_same .PART_CTRL_VALID 0 p 0 (by decide), hcount, hcmds.trans hrest.cmds, fun q hlt hb => ?_, ?_,
    hmem.trans hrest.mem⟩
  · have hq : m.f .CMD_SQ_CTRL_ENABLE q = 0 := hz q (.inl (List.mem_filter.mpr ⟨List.mem_range.mpr hlt, hb⟩))
    exact (e.f_setF_ne_reg .PART_CTRL_VALID .CMD_SQ_CTRL_ENABLE 0 p 0 q 0 (by decide)).trans
      ((congrArg Fld.CMD_SQ_CTRL_ENABLE.of (hreg .CMD_SQ_CTRL (by decide) q 0)).trans hq)
  · show (e.setF .PART_CTRL_VALID 0 p).quarantine ++ [(_, (e.setF .PART_CTRL_VALID 0 p).count)] = _
    rw [Dev.setF_quarantine, hq, hrest.quarantine, Dev.count, hcount]
    rfl

/-- PART_CTRL written with VALID 0 on a valid partition: its job is released, and a change of JOB or DET is refused. -/
theorem Dev.partCtrl_release {d : Dev} (ap : Aperture) {p : Nat} {v : BitVec 32} (hv : d.valid p = true) :
    d.partCtrl ap p (v &&& 0xFFFEFFFF#32) = d.releaseJob p ∨
    d.partCtrl ap p (v &&& 0xFFFEFFFF#32) = (d.releaseJob p).refuseReg ap .PART_CTRL p := by
  have hoff : Fld.PART_CTRL_VALID.of ((v &&& 0xFFFEFFFF#32).zeroExtend 64) ≠ 1 := by
    refine (Fld.of_congr .PART_CTRL_VALID (w := 0#64) fun k hlo hk => ?_).trans_ne (by decide)
    obtain rfl : k = 16 := by
      have : Fld.PART_CTRL_VALID.lo = 16 ∧ Fld.PART_CTRL_VALID.width = 1 := ⟨rfl, rfl⟩
      omega
    simp [BitVec.getLsbD_setWidth, -BitVec.getLsbD_eq_getElem]
  unfold Dev.partCtrl
  rw [if_pos hv, if_neg hoff]
  dsimp only
  split
  · exact .inr rfl
  · exact .inl rfl

/-- A job released at the count cannot be given to a partition. -/
theorem Dev.jobOk_quarantined {d : Dev} {q job : Nat} (h : (job, d.count) ∈ d.quarantine) : d.jobOk q job = false := by
  have hin : (job, d.count) ∈ d.quarantine.filter d.inQuarantine := List.mem_filter.mpr ⟨h, by simp [Dev.inQuarantine]⟩
  have hheld : (d.quarantine.filter d.inQuarantine).all (fun e => e.1 != job) = false := by
    rw [List.all_eq_false]
    exact ⟨_, hin, by simp⟩
  unfold Dev.jobOk
  simp only [hheld, Bool.and_false, Bool.false_and]

/-- Settles O20: the release clears VALID and the queues' ENABLEs and holds the job in quarantine; the expiry drops the job's
entries that are over. -/
theorem jobsReleasedAndQuarantined : Obligations.JobsReleasedAndQuarantined := by
  unfold Obligations.JobsReleasedAndQuarantined
  intro s
  refine ⟨fun ap p v hacc hv hidle => ?_, fun job => ?_⟩
  · refine Completes.of_accepted (g := fun d => d.partCtrl ap p (v &&& 0xFFFEFFFF#32)) rfl hacc ?_
    obtain ⟨hvalid, hcount, hcmds, hsq, hquar, hmem⟩ := Dev.releaseJob_spec hidle
    have hregs : (s.dev.partCtrl ap p (v &&& 0xFFFEFFFF#32)).regs = (s.dev.releaseJob p).regs ∧
        (s.dev.partCtrl ap p (v &&& 0xFFFEFFFF#32)).cmds = (s.dev.releaseJob p).cmds ∧
        (s.dev.partCtrl ap p (v &&& 0xFFFEFFFF#32)).mem = (s.dev.releaseJob p).mem ∧
        (s.dev.partCtrl ap p (v &&& 0xFFFEFFFF#32)).quarantine = (s.dev.releaseJob p).quarantine := by
      obtain h | h := Dev.partCtrl_release (v := v) ap hv <;> rw [h]
      · exact ⟨rfl, rfl, rfl, rfl⟩
      · exact ⟨rfl, rfl, rfl, rfl⟩
    obtain ⟨her, hec, hem, heq⟩ := hregs
    generalize s.dev.partCtrl ap p (v &&& 0xFFFEFFFF#32) = e at *
    generalize s.dev.releaseJob p = m at *
    have hreg (r : Reg) (i j : Nat) : e.settle.reg r i j = m.reg r i j := by
      rw [Dev.settle_reg, Dev.reg, her, Dev.reg]
    have hf (f : Fld) (i j : Nat) : e.settle.f f i j = m.f f i j := congrArg f.of (hreg f.reg i j)
    have hec' : e.settle.count = s.dev.count := congrArg BitVec.toNat ((hreg .RING_COUNT 0 0).trans hcount)
    refine ⟨Dev.flag_of_zero ((hf _ _ _).trans hvalid), hec', hec.trans hcmds,
      fun q hq hb => Dev.flag_of_zero ((hf _ _ _).trans (hsq q hq hb)), heq.trans hquar, fun q => ?_,
      congrArg MemSt.hbm (hem.trans hmem), congrArg MemSt.slab (hem.trans hmem)⟩
    refine Dev.jobOk_quarantined ?_
    rw [hec', show e.settle.quarantine = _ from heq.trans hquar]
    simp
  · refine Completes.of_act (g := fun d => d.quarantineEnd job.toNat) rfl ⟨fun x => ?_, rfl⟩
    show x ∈ s.dev.quarantine.filter _ ↔ _
    rw [List.mem_filter]
    simp only [Dev.inQuarantine, Bool.or_eq_true, bne_iff_ne, decide_eq_true_eq]
    constructor <;> rintro ⟨hx, h⟩ <;> refine ⟨hx, ?_⟩ <;> omega

end Sys2Proof.Machine
end

section
/-! PROOFS. The conservation checks: what they change (R331, R332, R350). -/

namespace Sys2Proof.Machine

/-! ## What a report leaves -/

/-- A report reaches the records held and FAULT_SEEN, and nothing else. -/
theorem Dev.post_eq (d : Dev) (c : Code) (addr index : Nat) (who : Who) (n : Nat) : d.post c addr index who n =
    { d with regs := (d.post c addr index who n).regs
             link := { d.link with held := (d.post c addr index who n).link.held, seq := (d.post c addr index who n).link.seq } } := by
  unfold Dev.post Dev.postFrom
  dsimp only
  split <;> rfl

/-- Of the registers a report changes only ERR_STATUS. -/
theorem Dev.reg_post (d : Dev) (c : Code) (addr index : Nat) (who : Who) (n : Nat) {r : Reg} (i j : Nat)
    (h : r.code i j ≠ Reg.code .ERR_STATUS 0 0) : (d.post c addr index who n).reg r i j = d.reg r i j := by
  unfold Dev.post Dev.postFrom
  dsimp only
  split
  · exact Dev.reg_setF_ne _ .ERR_STATUS_FAULT_SEEN r 1 0 0 i j h
  · rfl

theorem Dev.regsBut.post {d e : Dev} {l : List Nat} (h : d.regsBut e l) (c : Code) (addr index : Nat) (who : Who) (n : Nat)
    (hm : Reg.code .ERR_STATUS 0 0 ∈ l) : d.regsBut (e.post c addr index who n) l :=
  fun r i j hn =>
    have hne : r.code i j ≠ Reg.code .ERR_STATUS 0 0 := ne_of_mem_of_not_mem hm hn |>.symm
    (e.reg_post c addr index who n i j hne).trans (h r i j hn)

theorem Dev.f_post (d : Dev) (c : Code) (addr index : Nat) (who : Who) (n : Nat) {g : Fld} (i j : Nat)
    (h : g.reg ≠ .ERR_STATUS) : (d.post c addr index who n).f g i j = d.f g i j :=
  congrArg g.of (d.reg_post c addr index who n i j (fun hc => h (Reg.code_reg hc)))

/-! ## The identities of a check -/

/-- The codes of the registers that a conservation check changes. -/
def checkCodes : List Nat :=
  [Reg.code .ERR_CONS_STAT 0 0, Reg.code .ERR_CONS_FAIL 0 0, Reg.code .ERR_REPLACE 0 0, Reg.code .ERR_STATUS 0 0]

/-- The identities of a check report and count their failures, and look at each closed record once: nothing else changes, and
the count of the checks does not. -/
structure Dev.identitiesMove (d e : Dev) : Prop where
  regs : d.regsBut e checkCodes
  rest : e = { d with regs := e.regs, pins := e.pins, scl := { d.scl with unchecked := e.scl.unchecked }
                      link := { d.link with held := e.link.held, seq := e.link.seq } }
  checks : e.f .ERR_CONS_STAT_CHECKS = d.f .ERR_CONS_STAT_CHECKS

namespace Dev.identitiesMove

variable {d m e : Dev}

theorem refl (d : Dev) : d.identitiesMove d := ⟨.refl d _, rfl, rfl⟩

theorem trans (h : d.identitiesMove m) (h' : m.identitiesMove e) : d.identitiesMove e where
  regs := h.regs.trans h'.regs
  rest := h'.rest.trans (congrArg (fun x : Dev => { x with
    regs := e.regs, pins := e.pins, scl := { x.scl with unchecked := e.scl.unchecked }
    link := { x.link with held := e.link.held, seq := e.link.seq } }) h.rest :)
  checks := h'.checks.trans h.checks

theorem foldl {α : Type} {g : Dev → α → Dev} (hg : ∀ (d : Dev) (a : α), d.identitiesMove (g d a)) (l : List α) (d : Dev) :
    d.identitiesMove (l.foldl g d) := by
  induction l generalizing d with
  | nil => exact refl d
  | cons a l ih => exact (hg d a).trans (ih _)

/-- A register of the check other than its counters is set. -/
theorem setReg (d : Dev) (r : Reg) (v : BitVec 64) (hm : r.code 0 0 ∈ checkCodes) (hr : r ≠ .ERR_CONS_STAT) :
    d.identitiesMove (d.setReg r v) where
  regs := (Dev.regsBut.refl d _).setReg v hm
  rest := rfl
  checks := congrArg (Fld.of .ERR_CONS_STAT_CHECKS) (d.reg_setReg_ne v 0 0 0 0 (Ne.symm hr))

/-- A failure is counted. -/
theorem fails (d : Dev) : d.identitiesMove (d.addF .ERR_CONS_STAT_FAILS 1) where
  regs := (Dev.regsBut.refl d _).addF 1 (.head _)
  rest := rfl
  checks := d.f_setF_apart .ERR_CONS_STAT_FAILS .ERR_CONS_STAT_CHECKS _ 0 0 rfl (by decide) (by decide)

theorem post (d : Dev) (c : Code) (addr index : Nat) (who : Who) (n : Nat) :
    d.identitiesMove (d.post c addr index who n) where
  regs := (Dev.regsBut.refl d _).post c addr index who n (by simp [checkCodes])
  rest := by
    unfold Dev.post Dev.postFrom
    dsimp only
    split <;> rfl
  checks := d.f_post c addr index who n 0 0 (by decide)

/-- A failed identity is counted, reported, captured and made a replacement reason. -/
theorem identity (d : Dev) (kind item : Nat) (left right : Int) : d.identitiesMove (d.identity kind item left right) := by
  unfold Dev.identity
  split
  · exact refl d
  · dsimp only
    have hpost := trans (fails d) (post _ .CONS_VIOLATION (ofSigned 64 (left - right)) (kind + item * 256) {} 0)
    generalize (d.addF .ERR_CONS_STAT_FAILS 1).post .CONS_VIOLATION (ofSigned 64 (left - right)) (kind + item * 256) {} 0 = m at *
    have hreason (e : Dev) (n : Nat) : e.identitiesMove (e.setF .ERR_REPLACE_REASON n) :=
      setReg e .ERR_REPLACE _ (by simp [checkCodes]) (by decide)
    refine trans hpost ?_
    split
    · exact hreason m _
    · exact trans (setReg m .ERR_CONS_FAIL _ (by simp [checkCodes]) (by decide)) (hreason _ _)

theorem checkSender (d : Dev) : d.identitiesMove d.checkSender :=
  foldl (fun d _ => trans (foldl (fun d _ => identity d ..) _ d) (identity ..)) _ d

theorem checkReceiver (d : Dev) : d.identitiesMove d.checkReceiver :=
  trans (foldl (fun d _ => trans (foldl (fun d _ => identity d ..) _ d) (identity ..)) _ d) (identity ..)

theorem checkLanding (d : Dev) : d.identitiesMove d.checkLanding := foldl (fun d _ => identity d ..) _ d

/-- A closed record has been looked at. -/
theorem looked (d : Dev) : d.identitiesMove (d.updScl (fun s => { s with unchecked := [] })) := ⟨.refl d _, rfl, rfl⟩

theorem checkTally (d : Dev) : d.identitiesMove d.checkTally := by
  unfold Dev.checkTally
  split
  · exact trans (trans (foldl (fun d r => trans (identity d ..) (identity ..)) _ d) (looked _)) (identity ..)
  · exact refl d

/-- A check's identities, before it is counted. -/
theorem all (d : Dev) (p : Option Nat) : d.identitiesMove
    (match p with
      | some p => if d.checkSender.checkReceiver.checkLanding.checkTally.valid p
          then d.checkSender.checkReceiver.checkLanding.checkTally.checkGrains p
          else d.checkSender.checkReceiver.checkLanding.checkTally
      | none => d.checkSender.checkReceiver.checkLanding.checkTally) := by
  have h := trans (trans (trans (checkSender d) (checkReceiver _)) (checkLanding _)) (checkTally _)
  split
  · split
    · exact trans h (identity ..)
    · exact h
  · exact h

end Dev.identitiesMove

/-- A check of a device that has started is its identities, counted. -/
theorem Dev.conserve_checked {d : Dev} (p : Option Nat) (h : d.boot.cold = false) :
    ∃ m, d.identitiesMove m ∧ d.conserve p = m.addF .ERR_CONS_STAT_CHECKS 1 := by
  refine ⟨_, Dev.identitiesMove.all d p, ?_⟩
  unfold Dev.conserve
  refine (if_neg (by simp [h])).trans ?_
  cases p <;> rfl

/-- A check is counted; beside its own registers, the records held and the records that it has looked at, nothing changes. -/
theorem Dev.conserve_spec {d : Dev} (p : Option Nat) (h : d.boot.cold = false) :
    d.bumped (d.conserve p) .ERR_CONS_STAT_CHECKS 1 ∧ d.regsBut (d.conserve p) checkCodes ∧
    d.conserve p = { d with regs := (d.conserve p).regs, pins := (d.conserve p).pins
                            scl := { d.scl with unchecked := (d.conserve p).scl.unchecked }
                            link := { d.link with held := (d.conserve p).link.held, seq := (d.conserve p).link.seq } } := by
  obtain ⟨m, hm, hc⟩ := Dev.conserve_checked p h
  rw [hc]
  refine ⟨?_, hm.regs.addF 1 (.head _), (congrArg (fun x : Dev => { x with regs := (m.addF .ERR_CONS_STAT_CHECKS 1).regs }) hm.rest :)⟩
  have hb := m.bumped_addF .ERR_CONS_STAT_CHECKS 1 0 0 (by decide)
  rwa [Dev.bumped, hm.checks] at hb

end Sys2Proof.Machine
end

section
/-! PROOFS. Boundaries: the schedule set by the host, and a boundary taken (R32, R139, R331). -/

namespace Sys2Proof.Machine

/-! ## Apart registers -/

theorem Reg.code_ne {r r' : Reg} (h : r ≠ r') (i j i' j' : Nat) : r.code i j ≠ r'.code i' j' := fun hc => h (Reg.code_reg hc)

/-- Another partition's register has another code, whichever register it is. -/
theorem Reg.code_ne_part {p q : Fin 16} (h : q ≠ p) (r r' : Reg) : r.code q 0 ≠ r'.code p 0 := by
  intro hc
  have hpq := ((Reg.code_inj (by omega) (by omega) (by omega) (by omega)).mp hc).2.1
  exact h (Fin.ext hpq)

/-! ## What a boundary does to the Borer -/

/-- The Borer's slots seal, propose and open histograms: their proposals and counts change, and the Borer's own state. -/
structure Dev.borerMoves (d e : Dev) : Prop where
  reg : ∀ r i j, r ≠ .MA_BR_PROP → r ≠ .MA_BR_STAT → e.reg r i j = d.reg r i j
  rest : e = { d with regs := e.regs, borer := e.borer, free := e.free }

namespace Dev.borerMoves

variable {d m e : Dev}

theorem refl (d : Dev) : d.borerMoves d := ⟨fun _ _ _ _ _ => rfl, rfl⟩

theorem trans (h : d.borerMoves m) (h' : m.borerMoves e) : d.borerMoves e where
  reg r i j h1 h2 := (h'.reg r i j h1 h2).trans (h.reg r i j h1 h2)
  rest := h'.rest.trans (congrArg (fun x : Dev => { x with regs := e.regs, borer := e.borer, free := e.free }) h.rest :)

theorem setF (d : Dev) (f : Fld) (n i j : Nat) (h : f.reg = .MA_BR_PROP ∨ f.reg = .MA_BR_STAT) :
    d.borerMoves (d.setF f n i j) where
  reg r i' j' h1 h2 := d.reg_setF_ne f r n i j i' j' (fun hc => by
    have hr := Reg.code_reg hc
    rcases h with h | h <;> simp_all)
  rest := rfl

theorem updBorer (d : Dev) (g : BorerSt → BorerSt) : d.borerMoves (d.updBorer g) := ⟨fun _ _ _ _ _ => rfl, rfl⟩

theorem fresh (d : Dev) : d.borerMoves d.fresh.2 := ⟨fun _ _ _ _ _ => rfl, rfl⟩

theorem setProp (d : Dev) (s fmt fallback scale dd step : Nat) : d.borerMoves (d.setProp s fmt fallback scale dd step) :=
  trans (trans (trans (trans (setF d _ _ _ _ (.inl rfl)) (setF _ _ _ _ _ (.inl rfl))) (setF _ _ _ _ _ (.inl rfl)))
    (setF _ _ _ _ _ (.inl rfl))) (setF _ _ _ _ _ (.inl rfl))

theorem proposeFallback (d : Dev) (s step : Nat) : d.borerMoves (d.proposeFallback s step) := trans (fresh d) (setProp ..)

theorem scaleCode (d : Dev) (c : Int) : d.borerMoves (d.scaleCode c).2 := by
  unfold Dev.scaleCode
  split
  · exact refl d
  · exact fresh d

theorem propose (d : Dev) (s step : Nat) : d.borerMoves (d.propose s step) := by
  unfold Dev.propose
  dsimp only
  split
  · exact proposeFallback d s step
  · split
    · exact trans (scaleCode d _) (setProp ..)
    · exact setProp ..

theorem sealHist (d : Dev) (s step : Nat) : d.borerMoves (d.sealHist s step) := by
  unfold Dev.sealHist
  dsimp only
  split
  · exact refl d
  · split
    · exact trans (setF d .MA_BR_STAT_UNCLEAN _ s 0 (.inr rfl)) (updBorer _ _)
    · exact updBorer d _

/-- A partition's boundary at its Borer slots. -/
theorem boundary (d : Dev) (p step : Nat) : d.borerMoves (d.borerBoundary p step) := by
  have hslot (d : Dev) (s : Nat) :
      d.borerMoves (if d.brOn s p then ((d.sealHist s step).propose s step).openHist s step else d) := by
    split
    · exact trans (trans (sealHist d s step) (propose _ s step)) (updBorer _ _)
    · exact refl d
  have hall (l : List Nat) (d : Dev) : d.borerMoves (l.foldl (fun d s =>
      if d.brOn s p then ((d.sealHist s step).propose s step).openHist s step else d) d) := by
    induction l generalizing d with
    | nil => exact refl d
    | cons s l ih => exact trans (hslot d s) (ih _)
  exact hall _ d

end Dev.borerMoves

/-! ## A boundary taken -/

/-- The schedule's registers and the start of the step that begins, as a boundary sets them. -/
def Dev.stepBegun (d : Dev) (p : Nat) : Dev :=
  let next := if d.f .RING_PERIOD_PERIOD p = 0 then 0 else d.f .RING_NEXT_NEXT p + d.f .RING_PERIOD_PERIOD p
  (((d.setF .RING_STEP_STEP ((d.f .RING_STEP_STEP p + 1) % 2 ^ 32) p).setF .RING_NEXT_NEXT next p).setF .RING_ORIG_ORIG next p).updRing
    (fun r => { r with stepStart := SMap.set 0 r.stepStart p (d.f .RING_NEXT_NEXT p + 1) })

/-- The check of a boundary, cold or not, leaves every command. -/
theorem Dev.conserve_cmds (d : Dev) (p : Option Nat) : (d.conserve p).cmds = d.cmds := by
  by_cases h : d.boot.cold = true
  · simp [Dev.conserve, h]
  · exact (congrArg Dev.cmds (d.conserve_spec p (by simpa using h)).2.2 :)

/-- Where no SWAP switches at it, a boundary begins the step, the Borer acts and the identities are checked. -/
theorem Dev.takeBoundary_noSwap {d : Dev} {p : Nat} (h : d.switching p (d.f .RING_ORIG_ORIG p) = []) :
    d.takeBoundary p =
      ((d.stepBegun p).borerBoundary p ((d.f .RING_STEP_STEP p + 1) % 2 ^ 32)).conserve (some p) := by
  have hcmds : (((d.stepBegun p).borerBoundary p ((d.f .RING_STEP_STEP p + 1) % 2 ^ 32)).conserve (some p)).cmds = d.cmds :=
    (Dev.conserve_cmds _ _).trans (congrArg Dev.cmds (borerMoves.boundary (d.stepBegun p) p _).rest :)
  have hnone : (((d.stepBegun p).borerBoundary p ((d.f .RING_STEP_STEP p + 1) % 2 ^ 32)).conserve (some p)).switching p
      (d.f .RING_ORIG_ORIG p) = [] := by
    unfold Dev.switching
    rw [hcmds]
    exact h
  have hfold : d.takeBoundary p = List.foldl (fun e c => e.switchOne c ((d.f .RING_STEP_STEP p + 1) % 2 ^ 32) (d.f .RING_NEXT_NEXT p))
      (((d.stepBegun p).borerBoundary p ((d.f .RING_STEP_STEP p + 1) % 2 ^ 32)).conserve (some p))
      ((((d.stepBegun p).borerBoundary p ((d.f .RING_STEP_STEP p + 1) % 2 ^ 32)).conserve (some p)).switching p
        (d.f .RING_ORIG_ORIG p)) := rfl
  rw [hfold, hnone, List.foldl_nil]

/-- The registers of the schedule after a boundary has begun its step: each of its three and no other. -/
theorem Dev.stepBegun_regs (d : Dev) (p : Nat) :
    d.regsBut (d.stepBegun p) [Reg.code .RING_STEP p 0, Reg.code .RING_NEXT p 0, Reg.code .RING_ORIG p 0] :=
  (((Dev.regsBut.refl d _).setF (f := .RING_STEP_STEP) _ (by simp)).setF (f := .RING_NEXT_NEXT) _ (by simp)).setF
    (f := .RING_ORIG_ORIG) _ (by simp) |>.congr rfl

theorem Dev.stepBegun_step (d : Dev) (p : Nat) :
    (d.stepBegun p).f .RING_STEP_STEP p = (d.f .RING_STEP_STEP p + 1) % 2 ^ 32 := by
  change (((d.setF .RING_STEP_STEP _ p).setF .RING_NEXT_NEXT _ p).setF .RING_ORIG_ORIG _ p).f .RING_STEP_STEP p = _
  rw [Dev.f_setF_ne_reg _ _ _ _ _ _ _ _ (by decide), Dev.f_setF_ne_reg _ _ _ _ _ _ _ _ (by decide), Dev.f_setF_same _ _ _ _ _ (by decide)]
  exact Nat.mod_mod _ _

/-- The next boundary is set in both registers, or disarmed where the period is 0 (R32). -/
theorem Dev.stepBegun_next (d : Dev) (p : Nat) :
    let next := if d.f .RING_PERIOD_PERIOD p = 0 then 0
      else (d.f .RING_NEXT_NEXT p + d.f .RING_PERIOD_PERIOD p) % 2 ^ 64
    (d.stepBegun p).f .RING_NEXT_NEXT p = next ∧ (d.stepBegun p).f .RING_ORIG_ORIG p = next := by
  have hmod : ∀ n m : Nat, (if n = 0 then 0 else m) % 2 ^ 64 = if n = 0 then 0 else m % 2 ^ 64 := by
    intro n m
    split <;> rfl
  constructor
  · change (((d.setF .RING_STEP_STEP _ p).setF .RING_NEXT_NEXT _ p).setF .RING_ORIG_ORIG _ p).f .RING_NEXT_NEXT p = _
    rw [Dev.f_setF_ne_reg _ _ _ _ _ _ _ _ (by decide), Dev.f_setF_same _ _ _ _ _ (by decide)]
    exact hmod _ _
  · change (((d.setF .RING_STEP_STEP _ p).setF .RING_NEXT_NEXT _ p).setF .RING_ORIG_ORIG _ p).f .RING_ORIG_ORIG p = _
    rw [Dev.f_setF_same _ _ _ _ _ (by decide)]
    exact hmod _ _

/-- The boundary's consumers leave the schedule: the Borer's proposals, the check's counters and what they hold change. -/
theorem Dev.consumed (d : Dev) (p step : Nat) :
    let e := (d.borerBoundary p step).conserve (some p)
    (∀ r i j, r ∉ [Reg.MA_BR_PROP, .MA_BR_STAT, .ERR_CONS_STAT, .ERR_CONS_FAIL, .ERR_REPLACE, .ERR_STATUS] → e.reg r i j = d.reg r i j) ∧
    e.ring = d.ring ∧ e.cmds = d.cmds ∧ e.mem = d.mem ∧ (d.boot.cold = false → d.bumped e .ERR_CONS_STAT_CHECKS 1) := by
  have hb := borerMoves.boundary d p step
  generalize d.borerBoundary p step = m at hb ⊢
  have hring := congrArg Dev.ring hb.rest
  have hcmds := congrArg Dev.cmds hb.rest
  have hmem := congrArg Dev.mem hb.rest
  have hboot := congrArg Dev.boot hb.rest
  have hreg : ∀ r i j, r ∉ [Reg.MA_BR_PROP, .MA_BR_STAT, .ERR_CONS_STAT, .ERR_CONS_FAIL, .ERR_REPLACE, .ERR_STATUS] →
      m.reg r i j = d.reg r i j := fun r i j hr => hb.reg r i j (by rintro rfl; simp at hr) (by rintro rfl; simp at hr)
  cases hcold : d.boot.cold with
  | true => simpa [Dev.conserve, show m.boot.cold = true by rw [hboot]; exact hcold] using ⟨by simpa using hreg, hring, hcmds, hmem⟩
  | false =>
    obtain ⟨hbump, hregs, hrest⟩ := m.conserve_spec (some p) (by rw [hboot]; exact hcold)
    refine ⟨fun r i j hr => (hregs r i j ?_).trans (hreg r i j hr), (congrArg Dev.ring hrest).trans hring,
      (congrArg Dev.cmds hrest).trans hcmds, (congrArg Dev.mem hrest).trans hmem, fun _ => ?_⟩
    · simp only [checkCodes, List.mem_cons, List.not_mem_nil, or_false, not_or] at hr ⊢
      obtain ⟨-, -, h1, h2, h3, h4⟩ := hr
      exact ⟨fun h => h1 (Reg.code_reg h), fun h => h2 (Reg.code_reg h), fun h => h3 (Reg.code_reg h), fun h => h4 (Reg.code_reg h)⟩
    · have hsame : m.f .ERR_CONS_STAT_CHECKS = d.f .ERR_CONS_STAT_CHECKS :=
        congrArg (Fld.of .ERR_CONS_STAT_CHECKS) (hb.reg .ERR_CONS_STAT 0 0 (by decide) (by decide))
      rwa [Dev.bumped, hsame] at hbump

/-- A boundary that is not due before a write of RING_NEXT is not due after it: it is taken at the next count (log 103). -/
theorem Dev.setNext_spec {d : Dev} {p : Nat} (v : BitVec 64) (h : d.boundaryDue p = false) :
    (d.setNext p v).reg .RING_NEXT p = v ∧ (d.setNext p v).reg .RING_ORIG p = v ∧ (d.setNext p v).boundaryDue p = false ∧
    d.regsBut (d.setNext p v) [Reg.code .RING_NEXT p 0, Reg.code .RING_ORIG p 0] ∧
    d.setNext p v = { d with regs := (d.setNext p v).regs
                             ring := { d.ring with nextFrom := (d.setNext p v).ring.nextFrom, wrote := (d.setNext p v).ring.wrote } } := by
  have hsettle : d.settlePart p = d := by simp [Dev.settlePart, h]
  have hregs : (d.setNext p v).regs = ((d.setReg .RING_NEXT v p).setReg .RING_ORIG v p).regs := by
    unfold Dev.setNext
    rw [hsettle]
    rfl
  have hfrom : (d.setNext p v).ring.nextFrom = SMap.set 0 d.ring.nextFrom p ((d.setNext p v).count + 1) := by
    unfold Dev.setNext
    rw [hsettle]
    rfl
  have hbut : d.regsBut (d.setNext p v) [Reg.code .RING_NEXT p 0, Reg.code .RING_ORIG p 0] :=
    (((Dev.regsBut.refl d _).setReg v (by simp)).setReg v (by simp)).congr hregs
  refine ⟨?_, ?_, ?_, hbut, ?_⟩
  · rw [Dev.reg, hregs, ← Dev.reg, Dev.reg_setReg_ne _ _ _ _ _ _ (by decide), Dev.reg_setReg_same]
  · rw [Dev.reg, hregs, ← Dev.reg, Dev.reg_setReg_same]
  · simp [Dev.boundaryDue, hfrom, SMap.get_set]
  · unfold Dev.setNext
    rw [hsettle]
    rfl

/-- Settles O21: a boundary sets the schedule before its consumers act, and these leave it. -/
theorem boundarySchedule : Obligations.BoundarySchedule := by
  unfold Obligations.BoundarySchedule
  intro s p
  refine ⟨fun ap v hacc hdue => Completes.of_accepted rfl hacc ?_, fun hdue hnone => Completes.of_act (g := fun d =>
    if d.boundaryDue p then d.takeBoundary p else d) rfl ?_⟩
  · obtain ⟨hnext, horig, hnot, hregs, hrest⟩ := s.dev.setNext_spec v hdue
    exact ⟨hnext, horig, hnot, hregs.settle, (congrArg (fun x : Dev => { x with pins := (s.dev.setNext p v).settle.pins }) hrest :)⟩
  · rw [if_pos hdue, Dev.takeBoundary_noSwap hnone]
    obtain ⟨hreg, hring, hcmds, hmem, hchecks⟩ := (s.dev.stepBegun p).consumed p ((s.dev.f .RING_STEP_STEP p + 1) % 2 ^ 32)
    generalize ((s.dev.stepBegun p).borerBoundary p ((s.dev.f .RING_STEP_STEP p + 1) % 2 ^ 32)).conserve (some ↑p) = e at *
    have hf : ∀ (f : Fld) (i : Nat), f.reg ∉ [Reg.MA_BR_PROP, .MA_BR_STAT, .ERR_CONS_STAT, .ERR_CONS_FAIL, .ERR_REPLACE, .ERR_STATUS] →
        e.f f i = (s.dev.stepBegun p).f f i := fun f i h => congrArg f.of (hreg f.reg i 0 h)
    have hbut := s.dev.stepBegun_regs p
    obtain ⟨hn, ho⟩ := s.dev.stepBegun_next p
    have hcount : e.count = s.dev.count := congrArg BitVec.toNat ((hreg .RING_COUNT 0 0 (by decide)).trans
      (hbut .RING_COUNT 0 0 (by simp [Reg.code_ne])))
    refine ⟨(hf _ _ (by decide)).trans (s.dev.stepBegun_step p), ⟨(hf _ _ (by decide)).trans hn, (hf _ _ (by decide)).trans ho⟩, ?_,
      (Dev.settle_count _).trans hcount, fun q hq => ?_, fun hcold => ?_, hcmds, hmem⟩
    · change SMap.get 0 e.ring.stepStart p = _
      rw [hring]
      change SMap.get 0 (SMap.set 0 s.dev.ring.stepStart p (s.dev.f .RING_NEXT_NEXT p + 1)) p = _
      rw [SMap.get_set, if_pos rfl]
    · have hother : ∀ f : Fld, (s.dev.stepBegun p).f f q = s.dev.f f q := fun f =>
        congrArg f.of (hbut f.reg q 0 (by simp [Reg.code_ne_part hq]))
      exact ⟨(hf .RING_STEP_STEP q (by decide)).trans (hother _), (hf .RING_NEXT_NEXT q (by decide)).trans (hother _)⟩
    · have hsame : (s.dev.stepBegun p).f .ERR_CONS_STAT_CHECKS = s.dev.f .ERR_CONS_STAT_CHECKS :=
        congrArg (Fld.of _) (hbut .ERR_CONS_STAT 0 0 (by simp [Reg.code_ne]))
      have hbump := hchecks hcold
      rwa [Dev.bumped, hsame] at hbump

end Sys2Proof.Machine
end

section
/-! PROOFS. Billets that engines send: the slot that one takes, and the reports of the Switch Core (R252, R257 to R265). -/

namespace Sys2Proof.Machine

/-! ## What routing reads -/

/-- The registers that a billet's route and its place in an input buffer are read from. -/
def routeRegs : List Reg := [.FAB_NODE, .FAB_TRAY_VIA, .FAB_ROUTE_CFG, .RING_CFG, .FAB_LINK_STATUS, .FAB_BUF_MIN, .FAB_LINK_OCC]

/-- Two devices route alike: their slots and the registers that routing reads agree. -/
structure Dev.sameRoutes (d e : Dev) : Prop where
  slots : e.fab.slots = d.fab.slots
  reg : ∀ r i j, r ∈ routeRegs → e.reg r i j = d.reg r i j

namespace Dev.sameRoutes

variable {d e : Dev}

theorem refl (d : Dev) : d.sameRoutes d := ⟨rfl, fun _ _ _ _ => rfl⟩

theorem setF (d : Dev) (f : Fld) (n i j : Nat) (hf : f.reg ∉ routeRegs) : d.sameRoutes (d.setF f n i j) :=
  ⟨rfl, fun r i' j' hr => d.reg_setF_ne f r n i j i' j' (Reg.code_ne (r := r) (by rintro rfl; exact hf hr) _ _ _ _)⟩

variable (h : d.sameRoutes e)
include h

theorem f {g : Fld} (i j : Nat) (hg : g.reg ∈ routeRegs) : e.f g i j = d.f g i j := congrArg g.of (h.reg g.reg i j hg)

theorem node : e.node = d.node := h.f 0 0 (by decide)

theorem dimLen (k : Dim) : e.dimLen k = d.dimLen k := by
  cases k <;> simp (disch := decide) [Dev.dimLen, h.f]

theorem linkUp (l : Nat) : e.linkUp l = d.linkUp l := by
  unfold Dev.linkUp Dev.linkState
  rw [h.f l 0 (by decide)]

theorem queued (p : Nat) : e.queued p = d.queued p := by simp only [Dev.queued, h.slots]

theorem targets (m : Nat) (k : Dim) : e.targets m k = d.targets m k := by simp only [Dev.targets, h.dimLen]

theorem plusShorter (k : Dim) (t : Nat) : e.plusShorter k t = d.plusShorter k t := by
  simp only [Dev.plusShorter, h.dimLen, h.node]

theorem pickLink (ls : List Nat) : e.pickLink ls = d.pickLink ls := by
  have hup : e.linkUp = d.linkUp := funext h.linkUp
  simp only [Dev.pickLink, hup, h.queued]

theorem routePlus (k : Dim) (t : Nat) : e.routePlus k t = d.routePlus k t := by
  cases k <;> simp (disch := decide) [Dev.routePlus, h.f, h.plusShorter]

theorem ringVc (input vc : Nat) (k : Dim) (plus : Bool) : e.ringVc input vc k plus = d.ringVc input vc k plus := by
  simp only [Dev.ringVc, h.dimLen, h.node]

theorem mcastCopy (input : Nat) (b : Billet) (mask : Nat) (k : Dim) (plus : Bool) (ls set : List Nat) :
    e.mcastCopy input b mask k plus ls set = d.mcastCopy input b mask k plus ls set := by
  simp only [Dev.mcastCopy, h.ringVc, h.pickLink]

theorem routeMulti (input : Nat) (b : Billet) (ks : List Dim) (mask : Nat) :
    e.routeMulti input b ks mask = d.routeMulti input b ks mask := by
  have hshort : ∀ k, e.plusShorter k = d.plusShorter k := fun k => funext (h.plusShorter k)
  induction ks generalizing mask with
  | nil => rfl
  | cons k ks ih => cases k <;> simp only [Dev.routeMulti, h.node, h.targets, h.mcastCopy, hshort, ih]

theorem routeX (b : Billet) (p : Nat) : e.routeX b p = d.routeX b p := by
  have hq : e.queued = d.queued := funext h.queued
  have hflag : e.flag .FAB_ROUTE_CFG_DETOUR_EN = d.flag .FAB_ROUTE_CFG_DETOUR_EN := by
    simp (disch := decide) [Dev.flag, h.f]
  have hvia : e.f .FAB_TRAY_VIA_VIA = d.f .FAB_TRAY_VIA_VIA := h.f 0 0 (by decide)
  have hlimit : e.f .FAB_ROUTE_CFG_DETOUR_THRESH = d.f .FAB_ROUTE_CFG_DETOUR_THRESH := h.f 0 0 (by decide)
  simp only [Dev.routeX, h.node, hvia, hlimit, hflag, h.pickLink, hq]

theorem routeUni (input : Nat) (b : Billet) : e.routeUni input b = d.routeUni input b := by
  simp only [Dev.routeUni, h.node, h.dimLen, h.routePlus, h.pickLink, h.ringVc, h.routeX]

/-- The copies of a billet agree. -/
theorem route (input : Nat) (b : Billet) : e.route input b = d.route input b := by
  simp only [Dev.route, h.routeMulti, h.routeUni]

theorem malformed (b : Billet) : e.malformed b = d.malformed b := by
  simp only [Dev.malformed, h.targets]

theorem bufMin (input cls : Nat) : e.bufMin input cls = d.bufMin input cls := by
  simp (disch := decide) [Dev.bufMin, h.f]

theorem sharedFree : e.sharedFree = d.sharedFree := by
  have hout : e.sharedOut = d.sharedOut := funext fun l => h.f l 0 (by decide)
  have hmin : e.bufMin 0 = d.bufMin 0 := funext (h.bufMin 0)
  unfold Dev.sharedFree Dev.sharedTotal
  rw [hout, hmin, h.slots]

/-- A billet finds the same place. -/
theorem place? (input cls vc : Nat) : e.place? input cls vc = d.place? input cls vc := by
  unfold Dev.place? Dev.occ
  rw [h.bufMin, h.sharedFree, h.slots]

end Dev.sameRoutes

/-! ## What a slot that is taken holds -/

theorem Dev.post_fab_eq (d : Dev) (c : Code) (item addr index : Nat) (who : Who) :
    (d.postFirst c item addr index who).fab = d.fab := by
  unfold Dev.postFirst
  dsimp only
  split
  · rfl
  · exact Dev.post_fab ..

theorem Dev.unroutable_fab (d : Dev) (b : Billet) (n : Nat) : (d.unroutable b n).fab = d.fab := by
  unfold Dev.unroutable
  split
  · rfl
  · exact Dev.post_fab_eq ..

theorem Dev.noteShared_fab (d : Dev) : d.noteShared.fab = d.fab := by
  unfold Dev.noteShared
  dsimp only
  split <;> rfl

/-- A billet with a copy that can go on takes a slot, behind the others, with its copies (R264). -/
theorem Dev.enqueue_slots (d : Dev) (input : Nat) (shared : Bool) (b : Billet) (since : Nat) (owner : Option (Nat × Nat))
    {copies : List (Option Copy)} (h : copies.filterMap id ≠ []) :
    ∃ x, (d.enqueue input shared b since owner copies).fab.slots = d.fab.slots ++ [x] ∧ x.input = input ∧ x.cls = bTc b ∧
      x.vc = bVc b ∧ x.job = bJob b ∧ x.shared = shared ∧ x.copies = copies.filterMap id ∧ x.edge = d.ring.edges ∧
      x.since = since := by
  let x : Slot := { serial := d.fab.serial, input := input, cls := bTc b, vc := bVc b, shared := shared, job := bJob b
                    copies := copies.filterMap id, edge := d.ring.edges, since := since, owner := owner }
  refine ⟨x, ?_, rfl, rfl, rfl, rfl, rfl, rfl, rfl, rfl⟩
  · unfold Dev.enqueue
    dsimp only
    rw [if_neg (by simpa using h), Dev.noteShared_fab, Dev.unroutable_fab]
    rfl

/-- A billet that is well formed and finds a place in its static minimum takes a slot, with the copies of its route or of the
link that it is for. -/
theorem Dev.injectOne_takes {d : Dev} {i : Inject} {copies : List (Option Copy)} (hform : d.malformed i.b = false)
    (hplace : d.place? (36 + i.engine.val) (bTc i.b) (bVc i.b) = some false)
    (hcopies : copies = match i.link with
      | some l => if d.linkUp l then [some ⟨l, i.b⟩] else []
      | none => d.route (36 + i.engine.val) i.b) (hlive : copies.filterMap id ≠ []) :
    (d.injectOne i).2 = true ∧ ∃ x, (d.injectOne i).1.fab.slots = d.fab.slots ++ [x] ∧ x.input = 36 + i.engine.val ∧
      x.cls = bTc i.b ∧ x.vc = bVc i.b ∧ x.job = bJob i.b ∧ x.copies = copies.filterMap id := by
  subst hcopies
  have hr : d.sameRoutes (if i.engine = 0 then d.addF .XE_BILLETS_TX_TX 1 else d) := by
    split
    · exact .setF d .XE_BILLETS_TX_TX _ 0 0 (by decide)
    · exact .refl d
  unfold Dev.injectOne
  simp only [hform, hplace, Bool.false_and, Bool.false_eq_true, if_false]
  generalize (if i.engine = 0 then d.addF .XE_BILLETS_TX_TX 1 else d) = m at hr ⊢
  obtain ⟨engine, b, owner, link⟩ := i
  cases link with
  | none =>
    dsimp only at hlive ⊢
    rw [hr.route, ← hr.slots]
    obtain ⟨x, hx, h1, h2, h3, h4, -, h5, -⟩ := m.enqueue_slots (36 + engine.val) false b 0 owner hlive
    exact ⟨trivial, x, hx, h1, h2, h3, h4, h5⟩
  | some l =>
    dsimp only at hlive ⊢
    rw [hr.linkUp, ← hr.slots]
    obtain ⟨x, hx, h1, h2, h3, h4, -, h5, -⟩ := m.enqueue_slots (36 + engine.val) false b 0 owner hlive
    exact ⟨trivial, x, hx, h1, h2, h3, h4, h5⟩

/-- Where nothing waits, one waiting billet that takes its slot leaves none waiting. -/
theorem Dev.pump_one {d : Dev} {i : Inject} (h : d.fab.inject = [i]) (htakes : (d.injectOne i).2 = true) :
    d.pump.fab.slots = (d.injectOne i).1.fab.slots := by
  unfold Dev.pump
  rw [h]
  simp only [Dev.pumpList, htakes]
  rfl

/-! ## Records held only grow -/

/-- Every record held for the host stays, in order, and others may follow. -/
def Dev.heldGrows (d e : Dev) : Prop := ∃ l, e.link.held = d.link.held ++ l

namespace Dev.heldGrows

variable {d m e : Dev}

theorem of_link (h : e.link = d.link) : d.heldGrows e := ⟨[], by rw [h, List.append_nil]⟩

theorem trans (h : d.heldGrows m) (h' : m.heldGrows e) : d.heldGrows e := by
  obtain ⟨l, hl⟩ := h
  obtain ⟨l', hl'⟩ := h'
  exact ⟨l ++ l', by rw [hl', hl, List.append_assoc]⟩

theorem post (d : Dev) (c : Code) (addr index : Nat) (who : Who) (n : Nat) : d.heldGrows (d.post c addr index who n) := by
  obtain ⟨r, -, -, -, -, -, -, hlink, -⟩ := d.postFrom_spec c.source c addr index who n
  exact ⟨[.report r], congrArg LinkSt.held hlink⟩

theorem postFirst (d : Dev) (c : Code) (item addr index : Nat) (who : Who) :
    d.heldGrows (d.postFirst c item addr index who) := by
  unfold Dev.postFirst
  dsimp only
  split
  · exact of_link rfl
  · exact (of_link rfl).trans (post _ c addr index who 0)

theorem unroutable (d : Dev) (b : Billet) (n : Nat) : d.heldGrows (d.unroutable b n) := by
  unfold Dev.unroutable
  split
  · exact of_link rfl
  · exact (of_link rfl).trans (postFirst ..)

theorem enqueue (d : Dev) (input : Nat) (shared : Bool) (b : Billet) (since : Nat) (owner : Option (Nat × Nat))
    (copies : List (Option Copy)) : d.heldGrows (d.enqueue input shared b since owner copies) := by
  unfold Dev.enqueue
  dsimp only
  have hslot : ∀ g n, d.heldGrows ((d.updFab g).unroutable b n).noteShared := fun g n =>
    ((of_link rfl).trans (unroutable (d.updFab g) b n)).trans (of_link (slotsMove.noteShared _).link)
  split
  · exact (hslot _ _).trans (of_link (slotsMove.freeSlot _ _).link)
  · exact hslot _ _

theorem injectOne (d : Dev) (i : Inject) : d.heldGrows (d.injectOne i).1 := by
  unfold Dev.injectOne
  dsimp only
  split
  · exact (of_link rfl).trans (postFirst ..)
  split
  · exact of_link rfl
  refine trans (of_link (slotsMove.link ?_)) (enqueue ..)
  refine slotsMove.ite_right (fun d => d.addF .XE_BILLETS_TX_TX 1) (fun d => slotsMove.setF d _ _ _ _ (by decide)) ?_
  exact slotsMove.ite_right Dev.pushOut slotsMove.pushOut (slotsMove.refl d)

theorem pumpList (l : List Inject) (d : Dev) : d.heldGrows (d.pumpList l).1 := by
  induction l generalizing d with
  | nil => exact of_link rfl
  | cons i l ih => exact (injectOne d i).trans (ih _)

theorem pump (d : Dev) : d.heldGrows d.pump := (pumpList d.fab.inject d).trans (of_link rfl)

end Dev.heldGrows

end Sys2Proof.Machine
end

section
/-! PROOFS. Moves of a partition's next boundary (R35, R36, Table 2.7). -/

namespace Sys2Proof.Machine

/-! ## A report below FAULT -/

/-- The report that a post makes. -/
def Dev.reportOf (d : Dev) (c : Code) (addr index : Nat) (who : Who) (n : Nat) : Report :=
  { seq := d.link.seq, code := c, source := c.source, status := who.status, job := who.job, part := who.part
    queue := who.queue, tag := who.tag, count := d.count, address := addr, index := index, elapsed := n }

/-- What a post leaves of the host link. -/
theorem Dev.post_link (d : Dev) (c : Code) (addr index : Nat) (who : Who) (n : Nat) : (d.post c addr index who n).link =
    { d.link with held := d.link.held ++ [.report (d.reportOf c addr index who n)], seq := nextSeq d.link.seq } := by
  unfold Dev.post Dev.postFrom
  dsimp only
  split <;> rfl

/-- A report below FAULT is held, and changes nothing else. -/
theorem Dev.post_note (d : Dev) {c : Code} (addr index : Nat) (who : Who) (n : Nat) (h : c.severity ≠ .fault) :
    d.post c addr index who n = { d with link := (d.post c addr index who n).link } := by
  unfold Dev.post Dev.postFrom
  dsimp only
  rw [if_neg h]

theorem Dev.post_posted_of (d : Dev) (c : Code) (addr index : Nat) (who : Who) (n : Nat) {P : Report → Prop}
    (h : P (d.reportOf c addr index who n)) : d.posted (d.post c addr index who n) c P :=
  ⟨_, congrArg LinkSt.held (d.post_link c addr index who n), rfl, rfl, rfl, h⟩

/-! ## One move -/

/-- The request is within R35's bounds. -/
def Dev.mayMove (d : Dev) (p target : Nat) (step : Option Nat) : Prop :=
  (d.schedule p).1 ≠ 0 ∧ step.any (· != (d.f .RING_STEP_STEP p + 1) % 2 ^ 32) = false ∧ apart target (d.schedule p).2 ≤ 4096

/-- Something later in the order of Table 2.7 has set RING_NEXT in this count. -/
def Dev.setLater (d : Dev) (p : Nat) (billet : Bool) : Bool :=
  d.ring.wrote.any (fun w => w.1 == p && w.2.1 == d.count) || (!billet && SMap.get 0 d.ring.moved p == d.count + 1)

/-- Whom a move's report concerns. -/
def Dev.moveWho (d : Dev) (p : Nat) : Who := { job := d.jobOf p, part := some p }

theorem Dev.moveBoundary_refused {d : Dev} {p target : Nat} {step : Option Nat} (h : ¬ d.mayMove p target step) :
    d.moveBoundary p target step = ((d.addF .RING_MOVES_REFUSED 1 p).post .BOUNDARY_REFUSED 0 0 (d.moveWho p), false) := by
  refine if_pos (by_contra fun hc => h ?_)
  obtain ⟨h1, hc⟩ := not_or.mp hc
  obtain ⟨h2, h3⟩ := not_or.mp hc
  exact ⟨h1, Bool.eq_false_iff.mpr h2, not_lt.mp h3⟩

theorem Dev.moveBoundary_accepted {d : Dev} {p target : Nat} {step : Option Nat} (h : d.mayMove p target step) :
    d.moveBoundary p target step = (let m := (d.addF .RING_MOVES_ACCEPTED 1 p).moveTo p target step.isSome
      if target ≤ m.count then m.post .BOUNDARY_LATE 0 0 (d.moveWho p) else m, true) := by
  obtain ⟨h1, h2, h3⟩ := h
  exact if_neg (not_or.mpr ⟨h1, not_or.mpr ⟨Bool.eq_false_iff.mp h2, not_lt.mpr h3⟩⟩)

/-- What an accepted request leaves: RING_NEXT takes the target unless something later has set it (Table 2.7). -/
theorem Dev.moveTo_spec (d : Dev) (p target : Nat) (billet : Bool) :
    (d.moveTo p target billet).f .RING_NEXT_NEXT p = (if d.setLater p billet then d.f .RING_NEXT_NEXT p else target % 2 ^ 64) ∧
    d.regsBut (d.moveTo p target billet) [Reg.code .RING_NEXT p 0] ∧
    (billet = false → (d.moveTo p target billet).ring.moved = d.ring.moved) ∧
    { d.moveTo p target billet with
      regs := d.regs
      ring := { (d.moveTo p target billet).ring with moved := d.ring.moved, nextFrom := d.ring.nextFrom } } = d := by
  have hcases : d.moveTo p target billet =
      (let m := if billet then d.updRing (fun r => { r with moved := SMap.set 0 r.moved p (d.count + 1) }) else d
       if d.setLater p billet then m
       else (m.setF .RING_NEXT_NEXT target p).updRing (fun r => { r with nextFrom := SMap.set 0 r.nextFrom p (m.count + 1) })) := rfl
  rw [hcases]
  dsimp only
  generalize d.setLater p billet = later
  have hset : ∀ m : Dev, m.regs = d.regs → ∀ g, ((m.setF .RING_NEXT_NEXT target p).updRing g).f .RING_NEXT_NEXT p = target % 2 ^ 64 ∧
      d.regsBut ((m.setF .RING_NEXT_NEXT target p).updRing g) [Reg.code .RING_NEXT p 0] := fun m hm g =>
    ⟨m.f_setF_same .RING_NEXT_NEXT target p 0 (by decide), (((Dev.regsBut.refl d _).congr hm).setF (f := .RING_NEXT_NEXT) target (by simp)).congr rfl⟩
  cases later <;> cases billet
  · exact ⟨(hset d rfl _).1, (hset d rfl _).2, fun _ => rfl, rfl⟩
  · exact ⟨(hset (d.updRing _) rfl _).1, (hset (d.updRing _) rfl _).2, fun h => absurd h (by decide), rfl⟩
  · exact ⟨rfl, .refl d _, fun _ => rfl, rfl⟩
  · exact ⟨rfl, (Dev.regsBut.refl d _).congr rfl, fun h => absurd h (by decide), rfl⟩

/-- What a request leaves, as one relation: the partition's own schedule and counters, the moves noted, and the records held. -/
structure Dev.movesOnly (d e : Dev) (p : Nat) : Prop where
  regs : d.regsBut e [Reg.code .RING_NEXT p 0, Reg.code .RING_MOVES p 0]
  rest : { e with regs := d.regs, ring := { e.ring with moved := d.ring.moved, nextFrom := d.ring.nextFrom }
                  link := { e.link with held := d.link.held, seq := d.link.seq } } = d

theorem Dev.movesOnly.count {d e : Dev} {p : Nat} (h : d.movesOnly e p) : e.count = d.count :=
  congrArg BitVec.toNat (h.regs .RING_COUNT 0 0 (by simp [Reg.code_ne]))

/-- An accepted request is counted and moves RING_NEXT; one whose target has been reached is reported, and any other is not. -/
theorem Dev.moveBoundary_ok {d : Dev} {p target : Nat} {step : Option Nat} (h : d.mayMove p target step) :
    let e := (d.moveBoundary p target step).1
    (d.moveBoundary p target step).2 = true ∧
    e.f .RING_NEXT_NEXT p = (if d.setLater p step.isSome then d.f .RING_NEXT_NEXT p else target % 2 ^ 64) ∧
    d.bumped e .RING_MOVES_ACCEPTED 1 p ∧ d.movesOnly e p ∧ (step = none → e.ring.moved = d.ring.moved) ∧
    (target ≤ d.count → d.posted e .BOUNDARY_LATE (fun r => r.part = some p)) ∧ (d.count < target → e.link = d.link) := by
  rw [Dev.moveBoundary_accepted h]
  have ha := d.bumped_addF .RING_MOVES_ACCEPTED 1 p 0 (by decide)
  have hregs : d.regsBut (d.addF .RING_MOVES_ACCEPTED 1 p) [Reg.code .RING_NEXT p 0, Reg.code .RING_MOVES p 0] :=
    (Dev.regsBut.refl d _).addF 1 (by simp)
  have hnext0 : (d.addF .RING_MOVES_ACCEPTED 1 p).f .RING_NEXT_NEXT p = d.f .RING_NEXT_NEXT p :=
    Dev.f_setF_ne_reg d _ _ _ _ _ _ _ (by decide)
  have hcount0 : (d.addF .RING_MOVES_ACCEPTED 1 p).count = d.count := Dev.count_addF d _ _ _ _ (by decide)
  have hlater : (d.addF .RING_MOVES_ACCEPTED 1 p).setLater p step.isSome = d.setLater p step.isSome := by
    unfold Dev.setLater
    rw [hcount0]
    rfl
  obtain ⟨hnext, hbut, hmoved, hrest⟩ := (d.addF .RING_MOVES_ACCEPTED 1 p).moveTo_spec p target step.isSome
  rw [hlater, hnext0] at hnext
  have hacc : ((d.addF .RING_MOVES_ACCEPTED 1 p).moveTo p target step.isSome).f .RING_MOVES_ACCEPTED p =
      (d.addF .RING_MOVES_ACCEPTED 1 p).f .RING_MOVES_ACCEPTED p :=
    congrArg (Fld.of _) (hbut .RING_MOVES p 0 (by simp [Reg.code_ne]))
  have honly : d.movesOnly ((d.addF .RING_MOVES_ACCEPTED 1 p).moveTo p target step.isSome) p :=
    ⟨hregs.trans (hbut.mono (by simp)), (congrArg (fun x : Dev => { x with
      regs := d.regs, link := { x.link with held := d.link.held, seq := d.link.seq } }) hrest :)⟩
  have hlink : ((d.addF .RING_MOVES_ACCEPTED 1 p).moveTo p target step.isSome).link = d.link := (congrArg Dev.link hrest :)
  dsimp only
  rw [honly.count]
  have hbump : d.bumped ((d.addF .RING_MOVES_ACCEPTED 1 p).moveTo p target step.isSome) .RING_MOVES_ACCEPTED 1 p := hacc.trans ha
  have hm : step = none → ((d.addF .RING_MOVES_ACCEPTED 1 p).moveTo p target step.isSome).ring.moved = d.ring.moved :=
    fun hn => hmoved (by rw [hn]; rfl)
  generalize (d.addF .RING_MOVES_ACCEPTED 1 p).moveTo p target step.isSome = m at *
  split
  · rename_i hle
    have hnote := m.post_note (c := .BOUNDARY_LATE) 0 0 (d.moveWho p) 0 (by decide)
    have hpost : d.posted (m.post .BOUNDARY_LATE 0 0 (d.moveWho p)) .BOUNDARY_LATE (fun r => r.part = some p) :=
      Dev.posted_congr hlink honly.count rfl (m.post_posted_of _ _ _ _ _ rfl)
    have hl := m.post_link .BOUNDARY_LATE 0 0 (d.moveWho p) 0
    have hregs' := congrArg Dev.regs hnote
    have hring := congrArg Dev.ring hnote
    have hr : d.movesOnly (m.post .BOUNDARY_LATE 0 0 (d.moveWho p)) p := by
      refine ⟨honly.regs.congr hregs', ?_⟩
      rw [hnote, hl]
      exact honly.rest
    have hf : ∀ f : Fld, (m.post .BOUNDARY_LATE 0 0 (d.moveWho p)).f f p = m.f f p := fun f =>
      congrArg f.of (congrArg (fun rs => SMap.get f.reg.dflt rs (f.reg.code p 0)) hregs')
    exact ⟨rfl, (hf _).trans hnext, (hf _).trans hbump, hr, fun hn => (congrArg RingSt.moved hring).trans (hm hn), fun _ => hpost,
      fun hc => absurd hle (not_le.mpr hc)⟩
  · exact ⟨rfl, hnext, hbump, honly, hm, fun hc => absurd hc ‹_›, fun _ => hlink⟩

/-- A refused request is counted and reported, and moves nothing. -/
theorem Dev.moveBoundary_not {d : Dev} {p target : Nat} {step : Option Nat} (h : ¬ d.mayMove p target step) :
    let e := (d.moveBoundary p target step).1
    (d.moveBoundary p target step).2 = false ∧ e.f .RING_NEXT_NEXT p = d.f .RING_NEXT_NEXT p ∧
    d.bumped e .RING_MOVES_REFUSED 1 p ∧ d.movesOnly e p ∧ e.ring = d.ring ∧
    d.posted e .BOUNDARY_REFUSED (fun r => r.part = some p) := by
  rw [Dev.moveBoundary_refused h]
  have ha := d.bumped_addF .RING_MOVES_REFUSED 1 p 0 (by decide)
  have hregs : d.regsBut (d.addF .RING_MOVES_REFUSED 1 p) [Reg.code .RING_NEXT p 0, Reg.code .RING_MOVES p 0] :=
    (Dev.regsBut.refl d _).addF 1 (by simp)
  have hnext : (d.addF .RING_MOVES_REFUSED 1 p).f .RING_NEXT_NEXT p = d.f .RING_NEXT_NEXT p :=
    Dev.f_setF_ne_reg d _ _ _ _ _ _ _ (by decide)
  have hcount : (d.addF .RING_MOVES_REFUSED 1 p).count = d.count := Dev.count_addF d _ _ _ _ (by decide)
  have hrest : { d.addF .RING_MOVES_REFUSED 1 p with regs := d.regs } = d := rfl
  generalize d.addF .RING_MOVES_REFUSED 1 p = m at *
  have hnote := m.post_note (c := .BOUNDARY_REFUSED) 0 0 (d.moveWho p) 0 (by decide)
  have hregs' := congrArg Dev.regs hnote
  have hf : ∀ f : Fld, (m.post .BOUNDARY_REFUSED 0 0 (d.moveWho p)).f f p = m.f f p := fun f =>
    congrArg f.of (congrArg (fun rs => SMap.get f.reg.dflt rs (f.reg.code p 0)) hregs')
  have hring : m.ring = d.ring := (congrArg Dev.ring hrest :)
  have hlink : m.link = d.link := (congrArg Dev.link hrest :)
  refine ⟨rfl, (hf _).trans hnext, (hf _).trans ha, ⟨hregs.congr hregs', ?_⟩, (congrArg Dev.ring hnote).trans hring, ?_⟩
  · rw [hnote, Dev.post_link]
    exact (congrArg (fun x : Dev => { x with link := { x.link with held := d.link.held, seq := d.link.seq }
                                             ring := { x.ring with moved := d.ring.moved, nextFrom := d.ring.nextFrom } }) hrest :)
  · exact Dev.posted_congr hlink hcount rfl (m.post_posted_of _ _ _ _ _ rfl)

/-- Whether accepted or refused, a request changes the partition's own schedule and counters alone. -/
theorem Dev.moveBoundary_only (d : Dev) (p target : Nat) (step : Option Nat) :
    d.movesOnly (d.moveBoundary p target step).1 p ∧ (step = none → (d.moveBoundary p target step).1.ring.moved = d.ring.moved) ∧
    d.heldGrows (d.moveBoundary p target step).1 := by
  by_cases h : d.mayMove p target step
  · obtain ⟨-, -, -, honly, hmoved, hlate, hno⟩ := Dev.moveBoundary_ok h
    refine ⟨honly, hmoved, ?_⟩
    by_cases hle : target ≤ d.count
    · obtain ⟨r, hr, -⟩ := hlate hle
      exact ⟨_, hr⟩
    · exact .of_link (hno (not_le.mp hle))
  · obtain ⟨-, -, -, honly, hring, r, hr, -⟩ := Dev.moveBoundary_not h
    exact ⟨honly, fun _ => congrArg RingSt.moved hring, ⟨_, hr⟩⟩

namespace Dev.movesOnly

variable {d e : Dev} {p : Nat} (h : d.movesOnly e p)
include h

theorem reg (r : Reg) (i : Nat) (hn : r ≠ .RING_NEXT) (hm : r ≠ .RING_MOVES) : e.reg r i = d.reg r i :=
  h.regs r i 0 (by simp [Reg.code_ne, hn, hm])

theorem f (g : Fld) (i : Nat) (hn : g.reg ≠ .RING_NEXT) (hm : g.reg ≠ .RING_MOVES) : e.f g i = d.f g i :=
  congrArg g.of (h.reg g.reg i hn hm)

theorem fab : e.fab = d.fab := (congrArg Dev.fab h.rest :)
theorem cmds : e.cmds = d.cmds := (congrArg Dev.cmds h.rest :)
theorem wrote : e.ring.wrote = d.ring.wrote := (congrArg (fun x : Dev => x.ring.wrote) h.rest :)

/-- A move changes no route. -/
theorem sameRoutes : d.sameRoutes e where
  slots := congrArg FabSt.slots h.fab
  reg r i j hr := h.regs r i j (by
    have hne := (by decide : ∀ r ∈ routeRegs, r ≠ .RING_NEXT ∧ r ≠ .RING_MOVES) r hr
    simp [Reg.code_ne, hne.1, hne.2])

/-- The billet of an accepted move is that of the device before it. -/
theorem billet (p target : Nat) : e.boundaryBillet p target = d.boundaryBillet p target := by
  have hf := fun g i (h' : g.reg ∉ [Reg.RING_NEXT, .RING_MOVES]) => h.f g i (by simp_all) (by simp_all)
  have hjob : e.jobOf p = d.jobOf p := by
    unfold Dev.jobOf Dev.valid Dev.flag
    rw [hf _ _ (by decide), hf _ _ (by decide)]
  unfold Dev.boundaryBillet
  simp only [hjob, h.sameRoutes.node]
  rw [hf .RING_BFWD_MASK_LO_MASK_LO 0 (by decide), hf .RING_BFWD_MASK_HI_MASK_HI 0 (by decide), hf .RING_STEP_STEP p (by decide)]

end Dev.movesOnly

/-! ## A boundary billet -/

/-- A billet that leaves its slot changes no schedule. -/
theorem Dev.slotsMove.schedule {d e : Dev} (h : d.slotsMove e) (p : Nat) : e.schedule p = d.schedule p := by
  have hring : e.ring = d.ring := (congrArg Dev.ring h.rest :)
  unfold Dev.schedule
  rw [hring, h.switchMoves.count, h.switchMoves.f p 0 (by decide), h.switchMoves.f p 0 (by decide)]

theorem Dev.slotsMove.partOf {d e : Dev} (h : d.slotsMove e) (job : Nat) : e.partOf job = d.partOf job := by
  have hv : ∀ p, e.valid p = d.valid p := fun p => by
    unfold Dev.valid Dev.flag
    rw [h.switchMoves.f p 0 (by decide)]
  have hj : ∀ p, e.f .PART_CTRL_JOB p = d.f .PART_CTRL_JOB p := fun p => h.switchMoves.f p 0 (by decide)
  simp only [Dev.partOf, hv, hj]

/-- What a boundary billet of a partition's job does, where no boundary is due: its request, on the device that has taken it. -/
theorem Dev.boundaryIn_eq {d : Dev} {p : Nat} {a : Arrival}
    (hin : d.fab.inbox.find? (fun a => a.port == 43 && bType a.b == 1 && bPay a.b 0 0 16 == 2) = some a)
    (hjob : d.partOf (bJob a.b) = some p) (hdue : d.boundaryDue p = false) :
    d.boundaryIn = ((d.taken a).moveBoundary p (bPay a.b 8 0 64) (some (bPay a.b 4 0 32))).1 := by
  have ht := slotsMove.taken d a
  have hring : (d.taken a).ring = d.ring := (congrArg Dev.ring ht.rest :)
  have hdue' : (d.taken a).boundaryDue p = false := by
    unfold Dev.boundaryDue at hdue ⊢
    rwa [hring, ht.switchMoves.count, ht.switchMoves.f p 0 (by decide)]
  have hjob' := (ht.partOf (bJob a.b)).trans hjob
  unfold Dev.boundaryIn
  rw [Dev.takeInbox_of_find hin]
  dsimp only
  rw [hjob']
  dsimp only
  rw [Dev.settlePart, if_neg (by simp [hdue'])]

/-! ## An edge of BOUNDARY_IN -/

/-- Nothing of a partition's schedule has changed, nor what every partition's requests read. -/
structure Dev.besideMove (d e : Dev) (p : Nat) : Prop where
  reg : ∀ r ∈ [Reg.RING_NEXT, .RING_ORIG, .RING_MOVES], e.reg r p = d.reg r p
  all : ∀ r ∈ [Reg.RING_COUNT, .RING_BIN_CFG], e.reg r = d.reg r
  ring : e.ring.wrote = d.ring.wrote ∧ e.ring.moved = d.ring.moved
  held : d.heldGrows e

namespace Dev.besideMove

variable {d m e : Dev} {p : Nat}

theorem refl (d : Dev) (p : Nat) : d.besideMove d p := ⟨fun _ _ => rfl, fun _ _ => rfl, ⟨rfl, rfl⟩, .of_link rfl⟩

theorem trans (h : d.besideMove m p) (h' : m.besideMove e p) : d.besideMove e p where
  reg r hr := (h'.reg r hr).trans (h.reg r hr)
  all r hr := (h'.all r hr).trans (h.all r hr)
  ring := ⟨h'.ring.1.trans h.ring.1, h'.ring.2.trans h.ring.2⟩
  held := h.held.trans h'.held

theorem f (h : d.besideMove e p) (g : Fld) (hg : g.reg ∈ [Reg.RING_NEXT, .RING_ORIG, .RING_MOVES]) : e.f g p = d.f g p :=
  congrArg g.of (h.reg g.reg hg)

theorem f_all (h : d.besideMove e p) (g : Fld) (hg : g.reg ∈ [Reg.RING_COUNT, .RING_BIN_CFG]) : e.f g = d.f g :=
  congrArg g.of (h.all g.reg hg)

theorem count (h : d.besideMove e p) : e.count = d.count := congrArg BitVec.toNat (h.all .RING_COUNT (by simp))

theorem schedule (h : d.besideMove e p) : e.schedule p = d.schedule p := by
  unfold Dev.schedule
  rw [h.ring.1, h.count, h.f _ (by decide), h.f _ (by decide)]

/-- What a request of the partition reads has not changed. -/
theorem mayMove (h : d.besideMove e p) (target : Nat) : e.mayMove p target none ↔ d.mayMove p target none := by
  unfold Dev.mayMove
  rw [h.schedule]
  rfl

theorem setLater (h : d.besideMove e p) : e.setLater p false = d.setLater p false := by
  unfold Dev.setLater
  rw [h.ring.1, h.ring.2, h.count]

end Dev.besideMove

/-- A billet that takes a slot changes no schedule. -/
theorem Dev.forward_beside (d : Dev) (port p : Nat) (bs : List Billet) : d.besideMove (d.inject port none bs).pump p := by
  have h := switchMoves.pump (d.inject port none bs)
  have hring : (d.inject port none bs).pump.ring = d.ring := (congrArg Dev.ring h.rest :)
  refine ⟨fun r hr => ?_, fun r hr => ?_, by rw [hring]; exact ⟨rfl, rfl⟩, .trans (.of_link rfl) (.pump _)⟩
  · exact h.reg r p 0 ((by decide : ∀ r ∈ [Reg.RING_NEXT, .RING_ORIG, .RING_MOVES], r ∉ switchRegs) r hr)
  · exact h.reg r 0 0 ((by decide : ∀ r ∈ [Reg.RING_COUNT, .RING_BIN_CFG], r ∉ switchRegs) r hr)

/-- The move of one masked partition, and what forwarding adds to it. -/
theorem Dev.boundaryInAt_cases (d : Dev) (q : Nat) :
    let t := d.count + d.f .RING_BIN_CFG_DELAY
    let m := (d.moveBoundary q t none).1
    d.boundaryInAt q = (if (d.moveBoundary q t none).2 && m.flag .RING_BIN_CFG_FWD_EN then (m.inject 43 none [m.boundaryBillet q t]).pump
      else m) := by
  unfold Dev.boundaryInAt
  dsimp only
  rcases d.moveBoundary q (d.count + d.f .RING_BIN_CFG_DELAY) none with ⟨m, ok⟩
  cases ok <;> rfl

/-- After the move itself, an edge at a partition changes no schedule. -/
theorem Dev.boundaryInAt_after (d : Dev) (q p : Nat) :
    (d.moveBoundary q (d.count + d.f .RING_BIN_CFG_DELAY) none).1.besideMove (d.boundaryInAt q) p := by
  rw [Dev.boundaryInAt_cases]
  split
  · exact Dev.forward_beside ..
  · exact .refl _ p

/-- An edge at one partition changes no other's schedule. -/
theorem Dev.boundaryInAt_beside (d : Dev) {q p : Fin 16} (h : p ≠ q) : d.besideMove (d.boundaryInAt q) p := by
  obtain ⟨honly, hmoved, hheld⟩ := d.moveBoundary_only q (d.count + d.f .RING_BIN_CFG_DELAY) none
  refine .trans ⟨fun r _ => ?_, fun r hr => ?_, ⟨honly.wrote, hmoved rfl⟩, hheld⟩ (d.boundaryInAt_after q p)
  · exact honly.regs r p 0 (by simp [Reg.code_ne_part h])
  · have hne := (by decide : ∀ r ∈ [Reg.RING_COUNT, .RING_BIN_CFG], r ≠ .RING_NEXT ∧ r ≠ .RING_MOVES) r hr
    exact honly.reg r 0 hne.1 hne.2

/-- An edge at partitions other than this one changes nothing of its schedule. -/
theorem Dev.boundaryInAt_foldl (l : List (Fin 16)) (d : Dev) {p : Fin 16} (h : p ∉ l) :
    d.besideMove (l.foldl (fun d q => d.boundaryInAt q.val) d) p := by
  induction l generalizing d with
  | nil => exact .refl d p
  | cons q l ih => exact .trans (d.boundaryInAt_beside (fun hc => h (hc ▸ .head _))) (ih _ (fun hc => h (.tail _ hc)))


/-- An edge only adds to the records held. -/
theorem Dev.boundaryEdge_grows (l : List (Fin 16)) (d : Dev) : d.heldGrows (l.foldl (fun d q => d.boundaryInAt q.val) d) := by
  induction l generalizing d with
  | nil => exact .of_link rfl
  | cons q l ih => exact ((d.moveBoundary_only q _ none).2.2.trans (d.boundaryInAt_after q 0).held).trans (ih _)

/-- The masked partitions, in order. -/
def Dev.maskedParts (d : Dev) : List (Fin 16) := (List.finRange 16).filter (fun p => bit (d.f .RING_BIN_CFG_PART_MASK) p.val)

theorem Dev.mem_maskedParts (d : Dev) (p : Fin 16) : p ∈ d.maskedParts ↔ bit (d.f .RING_BIN_CFG_PART_MASK) p.val = true := by
  simp [Dev.maskedParts]

/-- An edge asks each masked partition in turn, where nothing is due (R35). -/
theorem Dev.boundaryEdge_eq {d : Dev} (hrun : d.ring.running = true) (hcold : d.boot.cold = false) (hhalt : d.boot.halted = false)
    (hdue : d.settleDue = d) : d.boundaryEdge = d.maskedParts.foldl (fun d q => d.boundaryInAt q.val) d := by
  have hmask : (List.range 16).filter (fun p => bit (d.f .RING_BIN_CFG_PART_MASK) p) = d.maskedParts.map Fin.val := by
    rw [Dev.maskedParts, ← List.map_coe_finRange_eq_range, List.filter_map]
    rfl
  unfold Dev.boundaryEdge
  rw [if_neg (by simp [hrun, hcold, hhalt]), hdue]
  dsimp only
  rw [hmask, List.foldl_map]

/-- What an edge leaves of a masked partition: its own request's outcome, with nothing of it changed before or after. -/
theorem Dev.boundaryEdge_at {d : Dev} {p : Fin 16} (hp : p ∈ d.maskedParts) :
    ∃ m, d.besideMove m p ∧ (m.moveBoundary p (d.count + d.f .RING_BIN_CFG_DELAY) none).1.besideMove
      (d.maskedParts.foldl (fun d q => d.boundaryInAt q.val) d) p := by
  have hnodup : d.maskedParts.Nodup := (List.nodup_finRange 16).filter _
  obtain ⟨l1, l2, hl⟩ := List.append_of_mem hp
  rw [hl] at hnodup ⊢
  have h1 : p ∉ l1 := fun hc => (List.nodup_append.mp hnodup).2.2 p hc p (.head _) rfl
  have h2 : p ∉ l2 := (List.nodup_cons.mp (List.nodup_append.mp hnodup).2.1).1
  rw [List.foldl_append, List.foldl_cons]
  have hb := Dev.boundaryInAt_foldl l1 d h1
  generalize l1.foldl (fun d q => d.boundaryInAt q.val) d = m at hb ⊢
  refine ⟨m, hb, ?_⟩
  rw [← hb.count, ← hb.f_all .RING_BIN_CFG_DELAY (by decide)]
  exact .trans (m.boundaryInAt_after p p) (Dev.boundaryInAt_foldl l2 _ h2)

/-- What an edge does to one partition, as R35 and Table 2.7 say. -/
theorem Dev.boundaryEdge_part (d : Dev) (p : Fin 16) :
    let e := d.maskedParts.foldl (fun d q => d.boundaryInAt q.val) d
    let t := d.count + d.f .RING_BIN_CFG_DELAY
    (p ∈ d.maskedParts → d.mayMove p t none →
      e.f .RING_NEXT_NEXT p = (if d.setLater p false then d.f .RING_NEXT_NEXT p else t % 2 ^ 64) ∧
      d.bumped e .RING_MOVES_ACCEPTED 1 p ∧ (t ≤ d.count → ∃ l l' r, e.link.held = d.link.held ++ l ++ .report r :: l' ∧
        r.code = .BOUNDARY_LATE ∧ r.part = some p.val)) ∧
    (p ∈ d.maskedParts → ¬ d.mayMove p t none →
      e.f .RING_NEXT_NEXT p = d.f .RING_NEXT_NEXT p ∧ d.bumped e .RING_MOVES_REFUSED 1 p ∧
      ∃ l l' r, e.link.held = d.link.held ++ l ++ .report r :: l' ∧ r.code = .BOUNDARY_REFUSED ∧ r.part = some p.val) ∧
    (p ∉ d.maskedParts → e.reg .RING_NEXT p = d.reg .RING_NEXT p ∧ e.reg .RING_MOVES p = d.reg .RING_MOVES p) := by
  have hbump : ∀ {m n e : Dev} {f : Fld}, f.reg = .RING_MOVES → d.besideMove m p → n.besideMove e p → m.bumped n f 1 p →
      d.bumped e f 1 p := by
    intro m n e f hf h h' hb
    rw [Dev.bumped, h'.f f (by simp [hf]), ← h.f f (by simp [hf])]
    exact hb
  have htell : ∀ {m n e : Dev} {c : Code}, d.besideMove m p → n.besideMove e p → m.posted n c (fun r => r.part = some p.val) →
      ∃ l l' r, e.link.held = d.link.held ++ l ++ .report r :: l' ∧ r.code = c ∧ r.part = some p.val := by
    intro m n e c h h' hb
    obtain ⟨r, hr, hc, -, -, hpart⟩ := hb
    obtain ⟨l, hl⟩ := h.held
    obtain ⟨l', hl'⟩ := h'.held
    exact ⟨l, l', r, by rw [hl', hr, hl]; simp, hc, hpart⟩
  refine ⟨fun hp hmay => ?_, fun hp hnot => ?_, fun hp => ?_⟩
  · obtain ⟨m, hm, he⟩ := Dev.boundaryEdge_at hp
    obtain ⟨-, hnext, hacc, -, -, hlate, -⟩ := Dev.moveBoundary_ok ((hm.mayMove _).mpr hmay)
    refine ⟨?_, hbump rfl hm he hacc, fun hle => htell hm he (hlate (hm.count ▸ hle))⟩
    rw [he.f _ (by decide), hnext, ← hm.f _ (by decide)]
    simp only [Option.isSome_none, hm.setLater]
  · obtain ⟨m, hm, he⟩ := Dev.boundaryEdge_at hp
    obtain ⟨-, hnext, href, -, -, htold⟩ := Dev.moveBoundary_not (fun hc => hnot ((hm.mayMove _).mp hc))
    exact ⟨(he.f _ (by decide)).trans (hnext.trans (hm.f _ (by decide))), hbump rfl hm he href, htell hm he htold⟩
  · have h := Dev.boundaryInAt_foldl d.maskedParts d hp
    exact ⟨h.reg _ (by simp), h.reg _ (by simp)⟩

/-- Without forwarding an edge leaves the Switch Core. -/
theorem Dev.boundaryEdge_silent {d : Dev} (h : d.flag .RING_BIN_CFG_FWD_EN = false) (l : List (Fin 16)) :
    (l.foldl (fun d q => d.boundaryInAt q.val) d).fab = d.fab := by
  induction l generalizing d with
  | nil => rfl
  | cons q l ih =>
    obtain ⟨honly, -⟩ := d.moveBoundary_only q (d.count + d.f .RING_BIN_CFG_DELAY) none
    have hflag : (d.moveBoundary q (d.count + d.f .RING_BIN_CFG_DELAY) none).1.flag .RING_BIN_CFG_FWD_EN = false := by
      rw [← h]
      unfold Dev.flag
      rw [honly.f _ 0 (by decide) (by decide)]
    have hone : d.boundaryInAt q = (d.moveBoundary q (d.count + d.f .RING_BIN_CFG_DELAY) none).1 := by
      rw [Dev.boundaryInAt_cases]
      exact if_neg (by simp [hflag])
    rw [List.foldl_cons, hone]
    exact (ih hflag).trans honly.fab

/-- The accepted move of one partition, forwarded: its billet takes a slot with the copies of its route (R36). -/
theorem Dev.boundaryInAt_forward {d : Dev} {p : Fin 16} (hfwd : d.flag .RING_BIN_CFG_FWD_EN = true)
    (hmay : d.mayMove p (d.count + d.f .RING_BIN_CFG_DELAY) none) (hnone : d.fab.inject = [])
    (hform : d.malformed (d.boundaryBillet p (d.count + d.f .RING_BIN_CFG_DELAY)) = false)
    (hplace : d.place? 43 (bTc (d.boundaryBillet p (d.count + d.f .RING_BIN_CFG_DELAY)))
      (bVc (d.boundaryBillet p (d.count + d.f .RING_BIN_CFG_DELAY))) = some false)
    (hlive : (d.route 43 (d.boundaryBillet p (d.count + d.f .RING_BIN_CFG_DELAY))).filterMap (fun x => x) ≠ []) :
    let b := d.boundaryBillet p (d.count + d.f .RING_BIN_CFG_DELAY)
    ∃ x, (d.boundaryInAt p).fab.slots = d.fab.slots ++ [x] ∧ x.input = 43 ∧ x.cls = bTc b ∧ x.vc = bVc b ∧ x.job = bJob b ∧
      x.copies = (d.route 43 b).filterMap (fun x => x) := by
  obtain ⟨hok, -, -, honly, -⟩ := Dev.moveBoundary_ok hmay
  have hflag : (d.moveBoundary p (d.count + d.f .RING_BIN_CFG_DELAY) none).1.flag .RING_BIN_CFG_FWD_EN = true := by
    rw [← hfwd]
    unfold Dev.flag
    rw [honly.f _ 0 (by decide) (by decide)]
  rw [Dev.boundaryInAt_cases]
  rw [if_pos (by simp [hok, hflag]), honly.billet]
  generalize d.boundaryBillet p (d.count + d.f .RING_BIN_CFG_DELAY) = b at *
  generalize (d.moveBoundary p (d.count + d.f .RING_BIN_CFG_DELAY) none).1 = m at honly ⊢
  have hr : d.sameRoutes (m.inject 43 none [b]) := ⟨(congrArg FabSt.slots honly.fab :), honly.sameRoutes.reg⟩
  have hin : (m.inject 43 none [b]).fab.inject = [⟨7, b, none, none⟩] := by
    change m.fab.inject ++ _ = _
    rw [honly.fab, hnone]
    rfl
  obtain ⟨htakes, x, hx, h1, h2, h3, h4, h5⟩ := Dev.injectOne_takes (i := ⟨7, b, none, none⟩) ((hr.malformed b).trans hform)
    ((hr.place? ..).trans hplace) rfl ((hr.route 43 b).symm ▸ hlive)
  rw [Dev.pump_one hin htakes, ← hr.slots]
  exact ⟨x, hx, h1, h2, h3, h4, h5.trans (by rw [← hr.route 43 b]; rfl)⟩

/-- Settles O22: a billet's and an edge's request by the outcome of one move; an edge's other requests and its forwarding leave
the partition's schedule. -/
theorem boundaryMoves : Obligations.BoundaryMoves := by
  unfold Obligations.BoundaryMoves
  intro s
  refine ⟨fun p a hin hjob hdue => Completes.of_act (g := Dev.boundaryIn) rfl ?_,
    fun hrun hcold hhalt hdue => Completes.of_act (g := Dev.boundaryEdge) rfl ?_,
    fun hstop => Completes.of_act (g := Dev.boundaryEdge) rfl ?_⟩
  · rw [Dev.boundaryIn_eq hin hjob hdue]
    have ht := Dev.slotsMove.taken s.dev a
    have hring : (s.dev.taken a).ring = s.dev.ring := (congrArg Dev.ring ht.rest :)
    have hmay : (s.dev.taken a).mayMove p (bPay a.b 8 0 64) (some (bPay a.b 4 0 32)) ↔ (s.dev.schedule p).1 ≠ 0 ∧
        bPay a.b 4 0 32 = (s.dev.f .RING_STEP_STEP p + 1) % 2 ^ 32 ∧ apart (bPay a.b 8 0 64) (s.dev.schedule p).2 ≤ 4096 := by
      rw [Dev.mayMove, ht.schedule, ht.switchMoves.f p 0 (by decide)]
      simp
    have hlater : (s.dev.taken a).setLater p true = s.dev.ring.wrote.any (fun w => w.1 == p.val && w.2.1 == s.dev.count) := by
      rw [Dev.setLater, hring, ht.switchMoves.count]
      simp
    have hcount := ht.switchMoves.count
    have hf : ∀ g : Fld, g.reg ∉ switchRegs → (s.dev.taken a).f g p = s.dev.f g p := fun g hg => ht.switchMoves.f p 0 hg
    have hlink := ht.link
    obtain ⟨honly, -, -⟩ := (s.dev.taken a).moveBoundary_only p (bPay a.b 8 0 64) (some (bPay a.b 4 0 32))
    have hfit : bPay a.b 8 0 64 % 2 ^ 64 = bPay a.b 8 0 64 := Nat.mod_mod _ _
    refine ⟨fun hok => ?_, fun hno => ?_, honly.regs.settle, honly.fab, honly.cmds.trans ht.switchMoves.cmds⟩
    · obtain ⟨-, hnext, hacc, -, -, hlate, hquiet⟩ := Dev.moveBoundary_ok (hmay.mpr hok)
      refine ⟨?_, ?_, fun hle => ?_, fun hlt => ?_⟩
      · rw [Dev.settle_f, hnext, hfit, hf _ (by decide), Option.isSome_some, hlater]
      · rw [Dev.bumped, Dev.settle_f, ← hf _ (by decide)]
        exact hacc
      · exact Dev.posted.settle (Dev.posted_congr hlink hcount rfl (hlate (hcount.symm ▸ hle)))
      · exact (hquiet (hcount.symm ▸ hlt)).trans hlink
    · obtain ⟨-, hnext, href, -, -, htold⟩ := Dev.moveBoundary_not (fun hc => hno (hmay.mp hc))
      refine ⟨?_, ?_, Dev.posted.settle (Dev.posted_congr hlink hcount rfl htold)⟩
      · rw [Dev.settle_f, hnext, hf _ (by decide)]
      · rw [Dev.bumped, Dev.settle_f, ← hf _ (by decide)]
        exact href
  · rw [Dev.boundaryEdge_eq hrun hcold hhalt hdue]
    have hmay : ∀ p : Fin 16, s.dev.mayMove p (s.dev.count + s.dev.f .RING_BIN_CFG_DELAY) none ↔ (s.dev.schedule p).1 ≠ 0 ∧
        apart (s.dev.count + s.dev.f .RING_BIN_CFG_DELAY) (s.dev.schedule p).2 ≤ 4096 := fun p => by simp [Dev.mayMove]
    refine ⟨?_, fun hoff => Dev.boundaryEdge_silent hoff _, fun p hfwd hone hok hnone hform hplace hlive => ?_⟩
    · have hgrows : s.dev.heldGrows (s.dev.maskedParts.foldl (fun d q => d.boundaryInAt q.val) s.dev) :=
        Dev.boundaryEdge_grows ..
      obtain ⟨l, hl⟩ := hgrows
      refine ⟨l, hl, fun p => ?_⟩
      obtain ⟨hacc, href, hout⟩ := s.dev.boundaryEdge_part p
      have htell : ∀ c : Code, (∃ l0 l' r, (s.dev.maskedParts.foldl (fun d q => d.boundaryInAt q.val) s.dev).link.held =
          s.dev.link.held ++ l0 ++ .report r :: l' ∧ r.code = c ∧ r.part = some p.val) →
          ∃ r : Report, .report r ∈ l ∧ r.code = c ∧ r.part = some p.val := by
        rintro c ⟨l0, l', r, hr, hc, hp⟩
        rw [hl, List.append_assoc] at hr
        exact ⟨r, by rw [List.append_cancel_left hr]; simp, hc, hp⟩
      refine ⟨fun ⟨hm, hok⟩ => ?_, fun ⟨hm, hno⟩ => ?_, fun hm => hout (by simp [Dev.mem_maskedParts, hm])⟩
      · obtain ⟨h1, h2, h3⟩ := hacc ((s.dev.mem_maskedParts p).mpr hm) ((hmay p).mpr hok)
        exact ⟨h1, h2, fun hle => htell _ (h3 hle)⟩
      · obtain ⟨h1, h2, h3⟩ := href ((s.dev.mem_maskedParts p).mpr hm) (fun hc => hno ((hmay p).mp hc))
        exact ⟨h1, h2, htell _ h3⟩
    · have hlist : s.dev.maskedParts = [p] := by
        have heq : s.dev.maskedParts = (List.finRange 16).filter (· == p) :=
          List.filter_congr fun q _ => by rw [Bool.eq_iff_iff, beq_iff_eq]; exact hone q
        rw [heq]
        exact (by decide : ∀ p : Fin 16, (List.finRange 16).filter (· == p) = [p]) p
      rw [hlist]
      exact Dev.boundaryInAt_forward hfwd ((hmay p).mpr hok) hnone hform hplace hlive
  · rw [Dev.boundaryEdge, if_pos (by simp [hstop])]
    exact Dev.same_settle s.dev

end Sys2Proof.Machine
end

section
/-! PROOFS. What is handled as counts pass reaches neither the count nor its alignment (R23, R37, R39). -/

namespace Sys2Proof.Machine

/-! ## The count and its alignment -/

/-- The registers of the count and its state. -/
@[simp] def clockRegs : List Reg := [.RING_COUNT, .RING_STATUS]

/-- The count, its state and its alignment, but for the start counts of the steps. -/
def Dev.clock (d : Dev) : (Reg → Nat → Nat → BitVec 64) × RingSt :=
  (fun r i j => if r ∈ clockRegs then d.reg r i j else 0, { d.ring with stepStart := [] })

variable (d : Dev)

@[simp] theorem Dev.setReg_clock (r : Reg) (v : BitVec 64) (i j : Nat) (h : r ∉ clockRegs) :
    (d.setReg r v i j).clock = d.clock := by
  refine Prod.ext (funext fun q => funext fun a => funext fun b => ?_) rfl
  show (if q ∈ clockRegs then (d.setReg r v i j).reg q a b else 0) = if q ∈ clockRegs then d.reg q a b else 0
  split
  · exact d.reg_setReg_ne v i j a b (fun hq => h (hq ▸ ‹q ∈ clockRegs›))
  · rfl

@[simp] theorem Dev.setF_clock (f : Fld) (n i j : Nat) (h : f.reg ∉ clockRegs) : (d.setF f n i j).clock = d.clock :=
  d.setReg_clock f.reg _ i j h

@[simp] theorem Dev.addF_clock (f : Fld) (n i j : Nat) (h : f.reg ∉ clockRegs) : (d.addF f n i j).clock = d.clock :=
  d.setF_clock f _ i j h

@[simp] theorem Dev.subF_clock (f : Fld) (n i j : Nat) (h : f.reg ∉ clockRegs) : (d.subF f n i j).clock = d.clock :=
  d.setF_clock f _ i j h

variable {d}

/-- Devices whose registers and ring state agree. -/
theorem Dev.clock_congr {e : Dev} (hregs : e.regs = d.regs) (hring : e.ring = d.ring) : e.clock = d.clock := by
  unfold Dev.clock Dev.reg
  rw [hregs, hring]

/-- What is kept holds the count and its alignment. -/
theorem Dev.clock_of_kept {e : Dev} (h : e.kept = d.kept) : e.clock = d.clock := by
  refine Prod.ext (funext fun r => funext fun i => funext fun j => ?_)
    (congrArg (fun r : RingSt => { r with stepStart := [] }) (congrArg Kept.ring h))
  show (if r ∈ clockRegs then e.reg r i j else 0) = if r ∈ clockRegs then d.reg r i j else 0
  split
  · rename_i hr
    have hreg := congrFun (congrFun (congrFun (congrArg Kept.reg h) r) i) j
    have hmem : r ∈ keptRegs := (by decide : ∀ r ∈ clockRegs, r ∈ keptRegs) r hr
    simpa only [Dev.kept, if_pos hmem] using hreg
  · rfl

/-- What changes registers other than the count's, and not the ring's state. -/
theorem Dev.clock_of_regs {e : Dev} (hreg : ∀ r ∈ clockRegs, ∀ i j, e.reg r i j = d.reg r i j) (hring : e.ring = d.ring) :
    e.clock = d.clock := by
  refine Prod.ext (funext fun r => funext fun i => funext fun j => ?_) (congrArg (fun r : RingSt => { r with stepStart := [] }) hring)
  show (if r ∈ clockRegs then e.reg r i j else 0) = if r ∈ clockRegs then d.reg r i j else 0
  split
  · exact hreg r ‹_› i j
  · rfl

theorem Dev.foldl_clock {α : Type} {g : Dev → α → Dev} (hg : ∀ (d : Dev) (a : α), (g d a).clock = d.clock) (l : List α) (d : Dev) :
    (l.foldl g d).clock = d.clock := by
  induction l generalizing d with
  | nil => rfl
  | cons a l ih => rw [List.foldl_cons, ih, hg]

/-- What the clock holds, read off. -/
theorem Dev.clock_spec {e : Dev} (h : e.clock = d.clock) :
    e.reg .RING_COUNT = d.reg .RING_COUNT ∧ (∀ i j, e.reg .RING_STATUS i j = d.reg .RING_STATUS i j) ∧
    e.ring.reacquire = d.ring.reacquire ∧ e.ring.rootWait = d.ring.rootWait := by
  have hreg : ∀ r ∈ clockRegs, ∀ i j, e.reg r i j = d.reg r i j := fun r hr i j => by
    simpa only [Dev.clock, if_pos hr] using congrFun (congrFun (congrFun (congrArg Prod.fst h) r) i) j
  have hring := congrArg Prod.snd h
  exact ⟨hreg _ (by simp) 0 0, hreg _ (by simp), (congrArg RingSt.reacquire hring :), (congrArg RingSt.rootWait hring :)⟩

/-! ## A boundary taken -/

variable (d : Dev)

@[simp] theorem Dev.updRing_clock (p n : Nat) :
    (d.updRing (fun r => { r with stepStart := SMap.set 0 r.stepStart p n })).clock = d.clock := by
  unfold Dev.clock Dev.updRing
  rfl

theorem Dev.stepBegun_clock (p : Nat) : (d.stepBegun p).clock = d.clock := by
  unfold Dev.stepBegun
  simp

theorem Dev.borerBoundary_clock (p step : Nat) : (d.borerBoundary p step).clock = d.clock := by
  have h := borerMoves.boundary d p step
  exact Dev.clock_of_regs (fun r hr i j => h.reg r i j (by rintro rfl; simp at hr) (by rintro rfl; simp at hr)) (congrArg Dev.ring h.rest :)

theorem Dev.conserve_clock (p : Option Nat) : (d.conserve p).clock = d.clock := by
  by_cases h : d.boot.cold = true
  · simp [Dev.conserve, h]
  · obtain ⟨-, hregs, hrest⟩ := d.conserve_spec p (by simpa using h)
    refine Dev.clock_of_regs (fun r hr i j => hregs r i j ?_) (congrArg Dev.ring hrest :)
    have hne := (by decide : ∀ r ∈ clockRegs, r ≠ .ERR_CONS_STAT ∧ r ≠ .ERR_CONS_FAIL ∧ r ≠ .ERR_REPLACE ∧ r ≠ .ERR_STATUS) r hr
    simp [checkCodes, Reg.code_ne, hne.1, hne.2.1, hne.2.2.1, hne.2.2.2]

/-! ## A command that commits -/

theorem Dev.lndReturn_clock (b : LndBuf) : (d.lndReturn b).clock = d.clock := Dev.clock_of_kept (d.lndReturn_kept b)

@[simp] theorem Dev.lndReturnUser_clock (u : LndUser) : (d.lndReturnUser u).clock = d.clock :=
  Dev.foldl_clock Dev.lndReturn_clock _ _

@[simp] theorem Dev.updXe_clock (g : XeSt → XeSt) : (d.updXe g).clock = d.clock := Dev.clock_congr rfl rfl
@[simp] theorem Dev.updColl_clock (g : CollSt → CollSt) : (d.updColl g).clock = d.clock := Dev.clock_congr rfl rfl
@[simp] theorem Dev.updFab_clock (g : FabSt → FabSt) : (d.updFab g).clock = d.clock := Dev.clock_congr rfl rfl
@[simp] theorem Dev.updScl_clock (g : SclSt → SclSt) : (d.updScl g).clock = d.clock := Dev.clock_congr rfl rfl
@[simp] theorem Dev.updCmd_clock (id : Nat) (g : Cmd → Cmd) : (d.updCmd id g).clock = d.clock := Dev.clock_congr rfl rfl

@[simp] theorem Dev.freeCtx_clock (x : XCtx) : (d.freeCtx x).clock = d.clock := by simp [Dev.freeCtx]

@[simp] theorem Dev.leaveReserve_clock (c : Cmd) : (d.leaveReserve c).clock = d.clock := by
  unfold Dev.leaveReserve
  split
  · simp [Dev.dropReserve]
  · rfl

@[simp] theorem Dev.markGrains_clock (c : Cmd) (b : Bool) : (d.markGrains c b).clock = d.clock := by
  unfold Dev.markGrains
  split <;> simp

@[simp] theorem Dev.xeCommit_clock (c : Cmd) : (d.xeCommit c).clock = d.clock := by
  unfold Dev.xeCommit
  split
  · rfl
  · dsimp only
    split <;> simp

@[simp] theorem Dev.collFree_clock (x : CollCtx) : (d.collFree x).clock = d.clock := by simp [Dev.collFree, Dev.noteColl]

@[simp] theorem Dev.collCommit_clock (c : Cmd) : (d.collCommit c).clock = d.clock := by
  unfold Dev.collCommit
  dsimp only
  split
  · split <;> simp
  · split <;> simp

@[simp] theorem Dev.addRelease_clock (id : Nat) : (d.addRelease id).clock = d.clock := by
  unfold Dev.addRelease
  split <;> simp

@[simp] theorem Dev.endSwap_clock (id : Nat) : (d.endSwap id).clock = d.clock := by
  unfold Dev.endSwap
  split
  · rfl
  · rw [Dev.setF_clock _ _ _ _ _ (by decide), Dev.setReg_clock _ _ _ _ _ (by decide)]
    exact Dev.clock_congr rfl rfl

@[simp] theorem Dev.commitLayer_clock (c : Cmd) : (d.commitLayer c).clock = d.clock := by
  unfold Dev.commitLayer
  split
  · rfl
  · dsimp only
    split
    · simp
    · split <;> simp

@[simp] theorem Dev.commitFence_clock (c : Cmd) : (d.commitFence c).clock = d.clock := by
  unfold Dev.commitFence
  split
  · rfl
  · exact Dev.clock_congr rfl rfl

@[simp] theorem Dev.noteReasons_clock : d.noteReasons.clock = d.clock := by
  unfold Dev.noteReasons
  split <;> simp

@[simp] theorem Dev.setArrState_clock (n st : Nat) : (d.setArrState n st).clock = d.clock := by simp [Dev.setArrState]

@[simp] theorem Dev.setFree_clock (k n : Nat) : (d.setFree k n).clock = d.clock := Dev.clock_of_kept (d.setFree_kept k n)

@[simp] theorem Dev.lndRetireFrame_clock (frame : Nat) : (d.lndRetireFrame frame).clock = d.clock := by
  refine Dev.foldl_clock (fun d k => Dev.foldl_clock (fun d i => ?_) _ d) _ d
  dsimp only
  split
  · rfl
  · split
    · exact Dev.clock_congr rfl rfl
    · rw [Dev.addF_clock _ _ _ _ _ (by decide), Dev.setFree_clock]
      exact Dev.clock_congr rfl rfl

@[simp] theorem Dev.commitDisable_clock (c : Cmd) : (d.commitDisable c).clock = d.clock := by
  unfold Dev.commitDisable
  split
  · unfold Dev.retireArray
    split <;> simp
  · simp
  · rfl

@[simp] theorem Dev.substitute_clock (spare retired : Nat) : (d.substitute spare retired).clock = d.clock := by
  refine (Dev.setArrState_clock _ _ _).trans (Dev.foldl_clock (fun d p => ?_) _ d)
  dsimp only
  split
  · simp
  · rfl

@[simp] theorem Dev.commitEffects_clock (c : Cmd) : (d.commitEffects c).clock = d.clock := by
  unfold Dev.commitEffects
  split <;> simp

@[simp] theorem Dev.commitStatus_clock (c : Cmd) : (d.commitStatus c).1.clock = d.clock := by
  unfold Dev.commitStatus
  split <;> simp

@[simp] theorem Dev.dropWork_clock (id : Nat) : (d.dropWork id).clock = d.clock :=
  (Dev.lndReturnUser_clock _ _).trans (Dev.clock_congr rfl rfl)

@[simp] theorem Dev.endCmd_clock (id : Nat) (st : Status) (count parts : Nat) : (d.endCmd id st count parts).clock = d.clock := by
  unfold Dev.endCmd
  split <;> exact Dev.clock_congr rfl rfl

variable {d}

theorem Dev.setEntry_clock {e : Dev} {p obj : Nat} {x : ObjEntry} (h : d.setEntry p obj x = .ok e) : e.clock = d.clock :=
  Dev.clock_of_kept (Dev.physWrite_kept h)

theorem Dev.commitClaim_clock {e : Dev} {k : Claim} (h : d.commitClaim k = .ok e) : e.clock = d.clock := by
  unfold Dev.commitClaim at h
  split at h
  · cases h
  · cases h; rfl
  · split at h
    · cases h; rfl
    · dsimp only at h
      split at h
      · cases h
      · rename_i hset
        cases h
        refine Eq.trans ?_ (Dev.setEntry_clock hset)
        split <;> exact Dev.clock_congr rfl rfl

theorem Dev.commitClaims_clock (ks : List Claim) {d e : Dev} (h : d.commitClaims ks = .ok e) : e.clock = d.clock := by
  induction ks generalizing d with
  | nil => cases h; rfl
  | cons k ks ih =>
    unfold Dev.commitClaims at h
    split at h
    · cases h
    · rename_i hk
      exact (ih h).trans (Dev.commitClaim_clock hk)

@[simp] theorem Dev.charge_clock (d : Dev) (p obj : Nat) (x : ObjEntry) : (d.charge p obj x).clock = d.clock := by
  unfold Dev.charge Dev.settleCharges
  dsimp only
  rw [Dev.setF_clock _ _ _ _ _ (by decide), Dev.setF_clock _ _ _ _ _ (by decide)]
  exact Dev.clock_congr rfl rfl

theorem Dev.commitPlace_clock {e : Dev} {c : Cmd} {obj : Nat} {x : ObjEntry} (h : d.commitPlace c obj x = .ok e) :
    e.clock = d.clock := by
  unfold Dev.commitPlace at h
  split at h
  · cases h
  · cases h; rfl
  · dsimp only at h
    split at h
    · cases h
    · rename_i hset
      cases h
      rw [Dev.charge_clock]
      refine Eq.trans ?_ (Dev.setEntry_clock hset)
      split <;> exact Dev.clock_congr rfl rfl

theorem Dev.commitPlaces_clock (c : Cmd) (es : List (Nat × ObjEntry)) {d e : Dev} (h : d.commitPlaces c es = .ok e) :
    e.clock = d.clock := by
  induction es generalizing d with
  | nil => cases h; rfl
  | cons x es ih =>
    unfold Dev.commitPlaces at h
    split at h
    · cases h
    · rename_i hx
      exact (ih h).trans (Dev.commitPlace_clock hx)

theorem Dev.commitTables_clock {e : Dev} {c : Cmd} (h : d.commitTables c = .ok e) : e.clock = d.clock := by
  unfold Dev.commitTables at h
  split at h
  · cases h
  · rename_i hc
    exact (Dev.commitPlaces_clock c _ h).trans (Dev.commitClaims_clock _ hc)

/-- A commit leaves the count. -/
theorem Dev.commitCmd_clock (d : Dev) (id : Nat) : (d.commitCmd id).clock = d.clock := by
  unfold Dev.commitCmd
  split
  · rfl
  · split
    · exact Dev.clock_of_kept (by simp)
    · rename_i htab
      dsimp only
      rw [Dev.endCmd_clock, Dev.dropWork_clock, Dev.commitStatus_clock, Dev.commitEffects_clock]
      exact Dev.commitTables_clock htab

/-! ## What falls due -/

theorem modelSwitch_keeps (c : Cmd) (step start : Nat) : Op.keeps Dev.kept (modelSwitch c step start) := by
  unfold modelSwitch
  repeat' first | with_reducible apply Op.keeps.bind | intro _ | split
  all_goals simp

variable (d : Dev)

theorem Dev.switchOne_clock (c : Cmd) (step start : Nat) : (d.switchOne c step start).clock = d.clock := by
  unfold Dev.switchOne
  dsimp only
  split
  · exact Dev.clock_of_kept (by simp)
  · have hwork := Dev.clock_of_kept (d.work_kept (id := c.id) (j := 0) (modelSwitch_keeps c step start))
    split
    · exact (Dev.commitCmd_clock _ _).trans hwork
    · exact hwork

/-- A boundary taken leaves the count. -/
theorem Dev.takeBoundary_clock (p : Nat) : (d.takeBoundary p).clock = d.clock := by
  unfold Dev.takeBoundary
  refine (Dev.foldl_clock (fun d c => d.switchOne_clock c _ _) _ _).trans ((Dev.conserve_clock _ _).trans ?_)
  exact (Dev.borerBoundary_clock _ _ _).trans (d.stepBegun_clock p)

theorem Dev.settleList_clock (n : Nat) (d : Dev) : (d.settleList n).clock = d.clock := by
  induction n generalizing d with
  | zero => rfl
  | succ n ih =>
    unfold Dev.settleList
    split
    · rfl
    · exact (ih _).trans (d.takeBoundary_clock _)
    · exact (ih _).trans (Dev.clock_of_kept (d.fetchDeadline_kept _))

/-- What falls due is handled without the count. -/
theorem Dev.settleDue_clock : d.settleDue.clock = d.clock := by
  unfold Dev.settleDue
  split
  · rfl
  · exact Dev.settleList_clock _ d

theorem Dev.noteEligible_clock : d.noteEligible.clock = d.clock := by
  refine Dev.foldl_clock (fun d q => ?_) _ d
  split
  · rfl
  · split <;> exact Dev.clock_congr rfl rfl

theorem Dev.switchMoves.clock {d e : Dev} (h : d.switchMoves e) : e.clock = d.clock :=
  Dev.clock_of_regs (fun r hr i j => h.reg r i j ((by decide : ∀ r ∈ clockRegs, r ∉ switchRegs) r hr)) (congrArg Dev.ring h.rest :)

theorem Dev.sendAlign_moves (l : Nat) : d.switchMoves (d.sendAlign l) :=
  (slotsMove.updFab d _).switchMoves.trans (switchMoves.pump _)

/-- Alignment billets that are sent leave the count. -/
theorem Dev.sendAlignAll_clock : d.sendAlignAll.clock = d.clock := by
  unfold Dev.sendAlignAll
  split
  · rfl
  · exact Dev.foldl_clock (fun d l => (d.sendAlign_moves l).clock) _ d

end Sys2Proof.Machine
end

section
/-! PROOFS. Alignment: the states, the root, and the billets that are received (R23, R25, R28, R29, R39, Table 2.4). -/

namespace Sys2Proof.Machine

/-! ## The alignment state -/

/-- A state entered: STATE alone of RING_STATUS, a slip counted, and the open period marked. -/
structure Dev.alignedAs (d e : Dev) (st : Nat) : Prop where
  state : e.f .RING_STATUS_STATE = st
  other : ∀ g : Fld, g.reg = .RING_STATUS → (g.lo + g.width ≤ 32 ∨ 34 ≤ g.lo) → e.f g = d.f g
  regs : d.regsBut e [Reg.code .RING_STATUS 0 0, Reg.code .RING_MISMATCH 0 0]
  quiet : st ≠ 3 → d.regsBut e [Reg.code .RING_STATUS 0 0]
  slip : st = 3 → d.f .RING_STATUS_STATE ≠ 3 → d.bumped e .RING_MISMATCH_SLIPS 1
  rest : { e with regs := d.regs, scl := d.scl } = d

theorem Dev.setAlign_spec (d : Dev) {st : Nat} (h : st < 4) : d.alignedAs (d.setAlign st) st := by
  have hstate : (d.setF .RING_STATUS_STATE st).f .RING_STATUS_STATE = st := d.f_setF_fit _ 0 0 (by decide) h
  have hother : ∀ g : Fld, g.reg = .RING_STATUS → (g.lo + g.width ≤ 32 ∨ 34 ≤ g.lo) → (d.setF .RING_STATUS_STATE st).f g = d.f g :=
    fun g hg hd => d.f_setF_apart .RING_STATUS_STATE g st 0 0 hg (by decide) hd
  have hregs : d.regsBut (d.setF .RING_STATUS_STATE st) [Reg.code .RING_STATUS 0 0] := (Dev.regsBut.refl d _).setF st (by simp)
  have hslips : (d.setF .RING_STATUS_STATE st).f .RING_MISMATCH_SLIPS = d.f .RING_MISMATCH_SLIPS :=
    d.f_setF_ne_reg _ _ _ _ _ _ _ (by decide)
  have hrest : { d.setF .RING_STATUS_STATE st with regs := d.regs } = d := rfl
  unfold Dev.setAlign
  dsimp only
  generalize d.setF .RING_STATUS_STATE st = m at *
  have hmark : ∀ x : Dev, d.alignedAs x st → d.alignedAs (if st = 1 then x else x.updScl (fun s => { s with unaligned := true })) st := by
    intro x hx
    split
    · exact hx
    · exact ⟨hx.state, hx.other, hx.regs.congr rfl, fun h => (hx.quiet h).congr rfl, hx.slip, hx.rest⟩
  refine hmark _ ?_
  split
  · rename_i hs
    have hstatus : ∀ g : Fld, g.reg = .RING_STATUS → (m.addF .RING_MISMATCH_SLIPS 1).f g = m.f g := fun g hg =>
      m.f_setF_ne_reg _ _ _ _ _ _ _ (by rw [hg]; decide)
    refine ⟨(hstatus _ rfl).trans hstate, fun g hg hd => (hstatus g hg).trans (hother g hg hd), (hregs.mono (by simp)).addF 1 (by simp),
      fun h3 => absurd hs.1 h3, fun _ _ => ?_, ?_⟩
    · have hb := m.bumped_addF .RING_MISMATCH_SLIPS 1 0 0 (by decide)
      rwa [Dev.bumped, hslips] at hb
    · exact (congrArg (fun x : Dev => { x with scl := d.scl }) hrest :)
  · rename_i hs
    exact ⟨hstate, hother, hregs.mono (by simp), fun _ => hregs, fun h3 hne => absurd ⟨h3, hne⟩ hs,
      (congrArg (fun x : Dev => { x with scl := d.scl }) hrest :)⟩

namespace Dev.alignedAs

variable {d e : Dev} {st : Nat} (h : d.alignedAs e st)
include h

theorem reg {r : Reg} (hr : r ∉ [Reg.RING_STATUS, .RING_MISMATCH]) (i j : Nat) : e.reg r i j = d.reg r i j :=
  h.regs r i j (by
    simp only [List.mem_cons, List.not_mem_nil, or_false, not_or] at hr
    simp [Reg.code_ne, hr.1, hr.2])

theorem count : e.count = d.count := congrArg BitVec.toNat (h.reg (r := .RING_COUNT) (by decide) 0 0)
theorem link : e.link = d.link := (congrArg Dev.link h.rest :)
theorem ring : e.ring = d.ring := (congrArg Dev.ring h.rest :)
theorem cmds : e.cmds = d.cmds := (congrArg Dev.cmds h.rest :)
theorem mem : e.mem = d.mem := (congrArg Dev.mem h.rest :)

end Dev.alignedAs

/-! ## The count that jumps -/

/-- A tally period that ends changes the Scaler alone, and its registers of the rails and the period. -/
structure Dev.scalerMoves (d e : Dev) : Prop where
  reg : ∀ r i j, r ≠ .SCL_PERIOD → r ≠ .SCL_RAIL → e.reg r i j = d.reg r i j
  rest : { e with regs := d.regs, scl := d.scl } = d

theorem Dev.scalerMoves.updScl (d : Dev) (g : SclSt → SclSt) : d.scalerMoves (d.updScl g) := ⟨fun _ _ _ _ _ => rfl, rfl⟩

theorem Dev.closePeriod_moves (d : Dev) (t : SclTally) (last next : Nat) (early : Bool) :
    d.scalerMoves (d.closePeriod t last next early) := by
  have hrails : ∀ (l : List Nat) (e : Dev), d.scalerMoves e → d.scalerMoves (l.foldl (fun d r => d.setReg .SCL_RAIL 0 r) e) := by
    intro l
    induction l with
    | nil => exact fun e h => h
    | cons a l ih => exact fun e h => ih _ ⟨fun r i j h1 h2 => (e.reg_setReg_ne 0 a 0 i j h2).trans (h.reg r i j h1 h2), h.rest⟩
  unfold Dev.closePeriod
  refine hrails _ _ ?_
  split
  · exact ⟨fun r i j h1 _ => Dev.reg_setF_ne _ .SCL_PERIOD_PERIOD r _ 0 0 i j (Reg.code_ne h1 _ _ _ _), rfl⟩
  · exact ⟨fun _ _ _ _ _ => rfl, rfl⟩

theorem Dev.endPeriod_moves (d : Dev) (t : SclTally) (last next : Nat) (early : Bool) :
    d.scalerMoves (d.endPeriod t last next early) := by
  unfold Dev.endPeriod
  split
  · exact d.closePeriod_moves ..
  · exact .updScl d _

theorem Dev.tallyJump_moves (d : Dev) (a b : Nat) : d.scalerMoves (d.tallyJump a b) := by
  unfold Dev.tallyJump
  split
  · exact ⟨fun _ _ _ _ _ => rfl, rfl⟩
  · dsimp only
    have hm := Dev.scalerMoves.updScl d (fun s => { s with unaligned := true })
    have htrans : ∀ {m e : Dev}, d.scalerMoves m → m.scalerMoves e → d.scalerMoves e := fun h h' =>
      ⟨fun r i j h1 h2 => (h'.reg r i j h1 h2).trans (h.reg r i j h1 h2),
        (congrArg (fun x : Dev => { x with regs := d.regs, scl := d.scl }) h'.rest).trans h.rest⟩
    split
    · exact htrans hm (.updScl _ _)
    · split
      · exact htrans hm (Dev.endPeriod_moves ..)
      · exact htrans hm (.updScl _ _)

/-- A jump sets the count, and of the other registers changes the Scaler's alone (R23, R346). -/
theorem Dev.jump_spec (d : Dev) (n : Nat) : (d.jump n).reg .RING_COUNT = BitVec.ofNat 64 n ∧
    (∀ r i j, r ∉ [Reg.RING_COUNT, .SCL_PERIOD, .SCL_RAIL] → (d.jump n).reg r i j = d.reg r i j) ∧
    { d.jump n with regs := d.regs, scl := d.scl } = d := by
  unfold Dev.jump
  dsimp only
  split
  · rename_i hn
    exact ⟨by rw [← hn, Dev.count, BitVec.ofNat_toNat, BitVec.setWidth_eq], fun _ _ _ _ => rfl, rfl⟩
  · have ht := (d.setReg .RING_COUNT (BitVec.ofNat 64 n)).tallyJump_moves d.count n
    refine ⟨(ht.reg _ _ _ (by decide) (by decide)).trans (Dev.reg_setReg_same ..), fun r i j hr => ?_,
      (congrArg (fun x : Dev => { x with regs := d.regs }) ht.rest :)⟩
    simp only [List.mem_cons, List.not_mem_nil, or_false, not_or] at hr
    exact (ht.reg r i j hr.2.1 hr.2.2).trans (Dev.reg_setReg_ne d _ _ _ _ _ hr.1)

/-! ## Adoption -/

/-- The device as it stands when it has adopted a count, before what that passes is handled. -/
def Dev.adopted (d : Dev) (count : Nat) (fraction : Int) (depth : Nat) : Dev :=
  ((((d.jump count).setF .RING_STATUS_FRACTION (ofSigned 16 fraction)).setF .RING_STATUS_DEPTH depth).setAlign 1).updRing
    (fun r => { r with lastParent := ((d.jump count).setF .RING_STATUS_FRACTION (ofSigned 16 fraction)).count })

theorem Dev.adopted_spec (d : Dev) (count : Nat) (fraction : Int) (depth : Nat) :
    let e := d.adopted count fraction depth
    e.reg .RING_COUNT = BitVec.ofNat 64 count ∧ e.f .RING_STATUS_STATE = 1 ∧ e.f .RING_STATUS_DEPTH = depth % 2 ^ 8 ∧
    e.f .RING_STATUS_FRACTION = ofSigned 16 fraction % 2 ^ 16 ∧ e.ring.reacquire = d.ring.reacquire ∧
    e.reg .RING_CFG = d.reg .RING_CFG ∧ e.reg .FAB_NODE = d.reg .FAB_NODE := by
  obtain ⟨hcount, hreg, hrest⟩ := d.jump_spec count
  have hring : (d.jump count).ring = d.ring := (congrArg Dev.ring hrest :)
  unfold Dev.adopted
  generalize d.jump count = m at hcount hreg hring ⊢
  have hf := m.f_setF_same .RING_STATUS_FRACTION (ofSigned 16 fraction) 0 0 (by decide)
  have hcf := m.reg_setF_ne .RING_STATUS_FRACTION .RING_COUNT (ofSigned 16 fraction) 0 0 0 0 (Reg.code_ne (by decide) _ _ _ _)
  have hkf : ∀ r, r ∈ [Reg.RING_CFG, .FAB_NODE] → (m.setF .RING_STATUS_FRACTION (ofSigned 16 fraction)).reg r = m.reg r := fun r hr =>
    m.reg_setF_ne _ _ _ _ _ _ _ (Reg.code_ne (by rintro rfl; simp at hr) _ _ _ _)
  have hrf : (m.setF .RING_STATUS_FRACTION (ofSigned 16 fraction)).ring = m.ring := rfl
  generalize m.setF .RING_STATUS_FRACTION (ofSigned 16 fraction) = a at *
  have hd := a.f_setF_same .RING_STATUS_DEPTH depth 0 0 (by decide)
  have hfd := a.f_setF_apart .RING_STATUS_DEPTH .RING_STATUS_FRACTION depth 0 0 rfl (by decide) (by decide)
  have hcd := a.reg_setF_ne .RING_STATUS_DEPTH .RING_COUNT depth 0 0 0 0 (Reg.code_ne (by decide) _ _ _ _)
  have hkd : ∀ r, r ∈ [Reg.RING_CFG, .FAB_NODE] → (a.setF .RING_STATUS_DEPTH depth).reg r = a.reg r := fun r hr =>
    a.reg_setF_ne _ _ _ _ _ _ _ (Reg.code_ne (by rintro rfl; simp at hr) _ _ _ _)
  have hrd : (a.setF .RING_STATUS_DEPTH depth).ring = a.ring := rfl
  generalize a.setF .RING_STATUS_DEPTH depth = b at *
  have hb := b.setAlign_spec (st := 1) (by decide)
  generalize b.setAlign 1 = e at *
  refine ⟨(hb.reg (by decide) 0 0).trans (hcd.trans (hcf.trans hcount)), hb.state, (hb.other _ rfl (by decide)).trans hd,
    (hb.other _ rfl (by decide)).trans (hfd.trans hf), ?_, ?_, ?_⟩
  · exact (congrArg RingSt.reacquire (hb.ring.trans (hrd.trans (hrf.trans hring))) :)
  · exact (hb.reg (by decide) 0 0).trans ((hkd _ (by simp)).trans ((hkf _ (by simp)).trans (hreg _ 0 0 (by decide))))
  · exact (hb.reg (by decide) 0 0).trans ((hkd _ (by simp)).trans ((hkf _ (by simp)).trans (hreg _ 0 0 (by decide))))

/-- What an adoption does: the count, its fraction, DEPTH and ALIGNED, and then what it passes, which leaves them. -/
theorem Dev.adopt_ok {d : Dev} {count : Nat} {fraction : Int} {depth : Nat} (h : ¬ (count < d.count ∧ d.anyValid = true)) :
    (d.adopt count fraction depth).2 = true ∧
    (d.adopt count fraction depth).1.clock = (d.adopted count fraction depth).clock := by
  unfold Dev.adopt
  rw [if_neg h]
  dsimp only
  refine ⟨rfl, ?_⟩
  have hahead : ∀ x : Dev, x.clock = (d.adopted count fraction depth).clock →
      (if d.f .RING_STATUS_STATE = 0 then x.sendAlignAll else x).clock = (d.adopted count fraction depth).clock := by
    intro x hx
    split
    · exact x.sendAlignAll_clock.trans hx
    · exact hx
  refine hahead _ ?_
  split
  · exact (Dev.noteEligible_clock _).trans (Dev.settleDue_clock _)
  · rfl

/-- A backward adoption while a partition holds a job is refused and reported (R23). -/
theorem Dev.adopt_refused {d : Dev} {count : Nat} {fraction : Int} {depth : Nat} (h : count < d.count ∧ d.anyValid = true) :
    d.adopt count fraction depth = ((d.setF .RING_STATUS_BACKSTEP 1).post .RING_BACKSTEP, false) := by
  unfold Dev.adopt
  rw [if_pos h]

/-! ## Holdover, the root and the controls -/

theorem Dev.anyValid_congr {d e : Dev} (h : ∀ p, e.reg .PART_CTRL p = d.reg .PART_CTRL p) : e.anyValid = d.anyValid := by
  unfold Dev.anyValid Dev.valid Dev.flag Dev.f
  simp only [h]

/-- RING_SLIP is posted by a device that enters SLIPPED. -/
theorem Dev.slipped_spec (d : Dev) (hs : d.f .RING_STATUS_STATE ≠ 3) : let e := (d.setAlign 3).post .RING_SLIP
    e.f .RING_STATUS_STATE = 3 ∧ d.bumped e .RING_MISMATCH_SLIPS 1 ∧ d.posted e .RING_SLIP (fun _ => True) ∧
    e.reg .RING_COUNT = d.reg .RING_COUNT := by
  have h := d.setAlign_spec (st := 3) (by decide)
  have hlink := h.link
  have hcount := h.count
  dsimp only
  generalize d.setAlign 3 = m at *
  have hb := h.slip rfl hs
  refine ⟨(m.f_post _ _ _ _ _ 0 0 (by decide)).trans h.state, ?_, Dev.posted_congr hlink hcount rfl (m.post_posted_of _ _ _ _ _ trivial),
    (m.reg_post _ _ _ _ _ 0 0 (Reg.code_ne (by decide) _ _ _ _)).trans (h.reg (by decide) 0 0)⟩
  rw [Dev.bumped, m.f_post _ _ _ _ _ 0 0 (by decide)]
  exact hb

/-- A RING_ALIGN edge that the root waits for in its first acquisition: the count is 0, ALIGNED. -/
theorem Dev.rootEdge_first {d : Dev} (hfirst : d.ring.rootAgain = false) (hno : d.anyValid = false) :
    d.rootEdge.reg .RING_COUNT = 0 ∧ d.rootEdge.f .RING_STATUS_STATE = 1 ∧ d.rootEdge.f .RING_STATUS_FRACTION = 0 ∧
    d.rootEdge.f .RING_STATUS_DEPTH = 0 ∧ d.rootEdge.ring.rootWait = none := by
  obtain ⟨hok, hclock⟩ := Dev.adopt_ok (d := d) (count := 0) (fraction := 0) (depth := 0) (by simp [hno])
  obtain ⟨hc, hs, hd, hf, -, -⟩ := d.adopted_spec 0 0 0
  obtain ⟨hcount, hstatus, -, -⟩ := Dev.clock_spec hclock
  have heq : d.rootEdge = (d.adopt 0 0 0).1.updRing (fun r => { r with rootWait := none }) := by
    unfold Dev.rootEdge
    rw [hfirst, if_pos (by decide)]
    rcases hadopt : d.adopt 0 0 0 with ⟨e, ok⟩
    rw [hadopt] at hok
    cases hok
    dsimp only
    rw [hadopt]
  rw [heq]
  generalize (d.adopt 0 0 0).1 = e at *
  have hfld : ∀ g : Fld, g.reg = .RING_STATUS → (e.updRing (fun r => { r with rootWait := none })).f g = (d.adopted 0 0 0).f g :=
    fun g hg => congrArg g.of (hg ▸ hstatus 0 0)
  exact ⟨hcount.trans hc, (hfld _ rfl).trans hs, (hfld _ rfl).trans hf, (hfld _ rfl).trans hd, rfl⟩

/-- Settles O25: each event by what an entry into a state, an adoption or a control leaves. -/
theorem alignmentStates : Obligations.AlignmentStates := by
  unfold Obligations.AlignmentStates
  intro s
  refine ⟨fun hroot hst hlate => Completes.of_act (g := Dev.holdover) rfl ?_,
    fun t hwait hlate => Completes.of_act (g := Dev.rootTimeout) rfl ?_, fun hcold hrun hroot hstage => ?_, fun ap hacc => ⟨?_, ?_⟩⟩
  · have hgo : s.dev.holdover = s.dev.setAlign 2 := by
      refine if_neg ?_
      rcases hst with hst | hst <;> simp [hroot, hst] <;> omega
    rw [hgo]
    have h := s.dev.setAlign_spec (st := 2) (by decide)
    exact ⟨h.state, h.count, (h.quiet (by decide)).settle, h.other _ rfl (by decide), h.other _ rfl (by decide)⟩
  · have hgo : s.dev.rootTimeout = s.dev.updRing (fun r => { r with rootWait := some (t, true) }) := by
      unfold Dev.rootTimeout
      rw [hwait]
      exact if_neg (not_lt.mpr hlate)
    rw [hgo]
    rfl
  · have hgo : s.dev.ringAlign = match s.dev.ring.rootWait with
        | some (_, true) => s.dev.rootEdge
        | some (_, false) => s.dev
        | none => match s.dev.f .RING_STATUS_STATE with
          | 0 => s.dev
          | 3 => if onMark s.dev.count then s.dev.setAlign 1 else s.dev.post .RING_SLIP
          | _ => if onMark s.dev.count then s.dev else (s.dev.setAlign 3).post .RING_SLIP := by
      unfold Dev.ringAlign
      exact if_neg (by simp [hcold, hrun, hroot, hstage])
    refine ⟨fun t hwait hfirst hno => Completes.of_act (g := Dev.ringAlign) rfl ?_,
      fun hwait hmark hst => Completes.of_act (g := Dev.ringAlign) rfl ?_,
      fun hwait hmark hst => Completes.of_act (g := Dev.ringAlign) rfl ?_⟩
    · rw [hgo, hwait]
      exact Dev.rootEdge_first hfirst hno
    · have hslip := s.dev.slipped_spec (by rcases hst with h | h <;> rw [h] <;> decide)
      rw [hgo, hwait]
      rcases hst with hst | hst <;> simp only [hst, hmark, Bool.false_eq_true, if_false] <;> exact hslip
    · have h := s.dev.setAlign_spec (st := 1) (by decide)
      rw [hgo, hwait]
      simp only [hst, hmark, if_true]
      exact ⟨h.state, h.reg (by decide) 0 0, (h.quiet (by decide)).settle⟩
  · exact Completes.of_accepted rfl hacc rfl
  · refine Completes.of_accepted rfl hacc ⟨?_, ?_, ?_, ?_⟩
    · exact s.dev.f_setF_same .RING_ERR_MAX_ERR 0 0 0 (by decide)
    · exact s.dev.f_setF_apart .RING_ERR_MAX_ERR .RING_ERR_LAST_ERR 0 0 0 rfl (by decide) (by decide)
    · exact ((Dev.regsBut.refl s.dev _).setF (f := .RING_ERR_MAX_ERR) 0 (by simp)).settle
    · exact ((Dev.restSame.refl s.dev).setF .RING_ERR_MAX_ERR 0 0 0).settle

end Sys2Proof.Machine
end

section
/-! PROOFS. Alignment billets received and sent (R27, R28, Table 2.4). -/

namespace Sys2Proof.Machine

/-! ## What a billet that has been taken leaves of the alignment -/

namespace Dev.slotsMove

variable {d e : Dev} (h : d.slotsMove e)
include h

theorem ring : e.ring = d.ring := (congrArg Dev.ring h.rest :)

theorem f {g : Fld} (i j : Nat) (hg : g.reg ∉ switchRegs) : e.f g i j = d.f g i j := h.switchMoves.f i j hg

theorem node : e.node = d.node := h.f 0 0 (by decide)

theorem isRoot : e.isRoot = d.isRoot := by
  unfold Dev.isRoot
  rw [h.node, h.f 0 0 (by decide)]

theorem plusShorter (k : Dim) (t : Nat) : e.plusShorter k t = d.plusShorter k t := by
  have hlen : e.dimLen k = d.dimLen k := by cases k <;> simp (disch := decide) [Dev.dimLen, h.f]
  simp only [Dev.plusShorter, hlen, h.node]

theorem linkUp (l : Nat) : e.linkUp l = d.linkUp l := by
  unfold Dev.linkUp Dev.linkState
  rw [h.f l 0 (by decide)]

theorem parentLink : e.parentLink = d.parentLink := by
  have hto : e.towardRoot = d.towardRoot := by
    have hroot : e.f .RING_CFG_ROOT_NODE = d.f .RING_CFG_ROOT_NODE := h.f 0 0 (by decide)
    simp only [Dev.towardRoot, hroot, h.node, h.plusShorter]
  have hen : e.flag .RING_CFG_PARENT_OVR_EN = d.flag .RING_CFG_PARENT_OVR_EN := by
    unfold Dev.flag
    rw [h.f 0 0 (by decide)]
  have hovr : e.f .RING_CFG_PARENT_OVR = d.f .RING_CFG_PARENT_OVR := h.f 0 0 (by decide)
  simp only [Dev.parentLink, h.isRoot, hto, hen, hovr, h.linkUp]

theorem billetTime (a : Arrival) : e.billetTime a = d.billetTime a := by
  unfold Dev.billetTime
  rw [h.ring]

theorem billetCounts (a : Arrival) : e.billetCounts a = d.billetCounts a := by
  unfold Dev.billetCounts Dev.rootWaits
  rw [h.isRoot, h.ring, h.parentLink]

theorem localTime : e.localTime = d.localTime := by
  unfold Dev.localTime
  rw [h.switchMoves.count, h.f 0 0 (by decide)]

theorem anyValid : e.anyValid = d.anyValid := Dev.anyValid_congr fun p => h.reg .PART_CTRL p 0 (by decide)

end Dev.slotsMove

/-! ## A billet received -/

/-- What an alignment billet does from stage 6 on, as the device that has taken it (Table 2.4). -/
theorem Dev.alignIn_eq {d : Dev} {a : Arrival}
    (hin : d.fab.inbox.find? (fun a => a.port == 43 && bType a.b == 1 && bPay a.b 0 0 16 == 1) = some a) (hstage : 6 ≤ d.stage) :
    d.alignIn = (let e := d.taken a
      if bPay a.b 2 0 16 ≠ e.f .RING_CFG_ROOT_NODE then e.addF .RING_MISMATCH_PEER 1
      else if e.billetCounts a then e.fromParent (e.billetTime a) (bPay a.b 4 0 8)
      else if within3 (e.localTime - e.billetTime a) then e else e.addF .RING_MISMATCH_PEER 1) := by
  have hs : ¬ (d.taken a).stage < 6 := by
    unfold Dev.stage at hstage ⊢
    rw [(slotsMove.taken d a).f 0 0 (by decide)]
    exact not_lt.mpr hstage
  unfold Dev.alignIn
  rw [Dev.takeInbox_of_find hin]
  exact if_neg hs

/-- The device that handles a billet to be adopted or checked: re-acquire is no longer pending, and the parent has been heard. -/
def Dev.heard (d : Dev) : Dev := d.updRing (fun r => { r with reacquire := false, lastParent := d.count })

/-- A check of the parent leaves the count; within 3 counts it enters ALIGNED and reports nothing, beyond them it enters SLIPPED. -/
theorem Dev.checkParent_spec (d : Dev) (err : Int) :
    (d.checkParent err).reg .RING_COUNT = d.reg .RING_COUNT ∧
    (within3 err = true → (d.checkParent err).f .RING_STATUS_STATE = 1 ∧ (d.checkParent err).link = d.link) ∧
    (within3 err = false → d.f .RING_STATUS_STATE ≠ 3 → (d.checkParent err).f .RING_STATUS_STATE = 3 ∧
      d.posted (d.checkParent err) .RING_SLIP (fun _ => True)) := by
  have hreg : ∀ r i j, r ≠ .RING_ERR → (d.recordErr err).reg r i j = d.reg r i j := fun r i j hr => by
    unfold Dev.recordErr
    dsimp only
    rw [Dev.reg_setF_ne _ .RING_ERR_MAX_ERR r _ 0 0 i j (Reg.code_ne hr _ _ _ _),
      Dev.reg_setF_ne _ .RING_ERR_LAST_ERR r _ 0 0 i j (Reg.code_ne hr _ _ _ _)]
  have hlink : (d.recordErr err).link = d.link := rfl
  have hcount : (d.recordErr err).reg .RING_COUNT = d.reg .RING_COUNT := hreg _ 0 0 (by decide)
  have hstate : (d.recordErr err).f .RING_STATUS_STATE = d.f .RING_STATUS_STATE := congrArg (Fld.of _) (hreg _ 0 0 (by decide))
  unfold Dev.checkParent
  dsimp only
  generalize d.recordErr err = m at *
  by_cases hw : within3 err = true
  · have h := m.setAlign_spec (st := 1) (by decide)
    rw [if_pos hw]
    exact ⟨(h.reg (by decide) 0 0).trans hcount, fun _ => ⟨h.state, h.link.trans hlink⟩, fun hc => absurd hw (by simp [hc])⟩
  · rw [if_neg hw]
    by_cases h3 : m.f .RING_STATUS_STATE = 3
    · rw [if_pos h3]
      exact ⟨hcount, fun hc => absurd hc hw, fun _ hne => absurd (hstate ▸ h3) hne⟩
    · obtain ⟨hs, -, hp, hc⟩ := m.slipped_spec h3
      rw [if_neg h3]
      exact ⟨hc.trans hcount, fun hc => absurd hc hw, fun _ _ => ⟨hs, Dev.posted_congr hlink (congrArg BitVec.toNat hcount) rfl hp⟩⟩

/-- A billet that is checked. -/
theorem Dev.fromParent_checks {d : Dev} {root : Int} {depth : Nat} (hst : d.f .RING_STATUS_STATE ≠ 0) (hre : d.ring.reacquire = false) :
    d.fromParent root depth = d.heard.checkParent (d.localTime - root) := by
  refine if_neg ?_
  rw [not_or]
  exact ⟨hst, by simp [hre]⟩

/-- A billet that is adopted: the nearest count to the root time (R28). -/
theorem Dev.fromParent_adopts {d : Dev} {root : Int} {depth : Nat} (h : d.f .RING_STATUS_STATE = 0 ∨ d.ring.reacquire = true) :
    ∃ fraction, d.fromParent root depth =
      match d.heard.adopt ((root + alignUnit / 2) / alignUnit).toNat fraction (if d.isRoot then 0 else depth + 1) with
      | (e, ok) => if ok && e.isRoot then e.updRing (fun r => { r with rootWait := none }) else e :=
  ⟨_, if_pos h⟩

/-- An adoption that is not refused sets the count, ALIGNED and DEPTH. -/
theorem Dev.fromParent_ok {d : Dev} {root : Int} {depth : Nat} (h : d.f .RING_STATUS_STATE = 0 ∨ d.ring.reacquire = true)
    (hok : ¬ (((root + alignUnit / 2) / alignUnit).toNat < d.count ∧ d.anyValid = true)) :
    let e := d.fromParent root depth
    e.reg .RING_COUNT = BitVec.ofNat 64 ((root + alignUnit / 2) / alignUnit).toNat ∧ e.f .RING_STATUS_STATE = 1 ∧
    e.f .RING_STATUS_DEPTH = (if d.isRoot then 0 else depth + 1) % 256 ∧ e.ring.reacquire = false := by
  obtain ⟨fraction, heq⟩ := Dev.fromParent_adopts (root := root) (depth := depth) h
  obtain ⟨-, hclock⟩ := Dev.adopt_ok (d := d.heard) (fraction := fraction) (depth := if d.isRoot then 0 else depth + 1) hok
  obtain ⟨hc, hs, hd, -, hre, -, -⟩ := d.heard.adopted_spec ((root + alignUnit / 2) / alignUnit).toNat fraction
    (if d.isRoot then 0 else depth + 1)
  obtain ⟨hcount, hstatus, hreq, -⟩ := Dev.clock_spec hclock
  dsimp only
  rw [heq]
  clear heq
  generalize d.heard.adopt ((root + alignUnit / 2) / alignUnit).toNat fraction (if d.isRoot then 0 else depth + 1) = r at *
  obtain ⟨e, ok⟩ := r
  have hall : ∀ x : Dev, x.regs = e.regs → x.ring.reacquire = e.ring.reacquire → x.reg .RING_COUNT = BitVec.ofNat 64 ((root + alignUnit / 2) / alignUnit).toNat ∧
      x.f .RING_STATUS_STATE = 1 ∧ x.f .RING_STATUS_DEPTH = (if d.isRoot then 0 else depth + 1) % 256 ∧ x.ring.reacquire = false := by
    intro x hregs hring
    have hreg : ∀ r, x.reg r = e.reg r := fun r => congrArg (fun rs => SMap.get r.dflt rs (r.code 0 0)) hregs
    refine ⟨(hreg _).trans (hcount.trans hc), ?_, ?_, hring.trans (hreq.trans hre)⟩
    · exact (congrArg (Fld.of _) ((hreg _).trans (hstatus 0 0))).trans hs
    · exact (congrArg (Fld.of _) ((hreg _).trans (hstatus 0 0))).trans hd
  dsimp only
  split
  · exact hall _ rfl rfl
  · exact hall _ rfl rfl

/-- An adoption that is refused leaves the count and the state, and is reported. -/
theorem Dev.fromParent_refused {d : Dev} {root : Int} {depth : Nat} (h : d.f .RING_STATUS_STATE = 0 ∨ d.ring.reacquire = true)
    (hno : ((root + alignUnit / 2) / alignUnit).toNat < d.count ∧ d.anyValid = true) :
    d.fromParent root depth = (d.heard.setF .RING_STATUS_BACKSTEP 1).post .RING_BACKSTEP := by
  obtain ⟨fraction, heq⟩ := Dev.fromParent_adopts (root := root) (depth := depth) h
  have href := Dev.adopt_refused (d := d.heard) (fraction := fraction) (depth := if d.isRoot then 0 else depth + 1) hno
  rw [heq, href]
  rfl

theorem Dev.backstep_spec (d : Dev) : let e := (d.setF .RING_STATUS_BACKSTEP 1).post .RING_BACKSTEP
    e.reg .RING_COUNT = d.reg .RING_COUNT ∧ e.f .RING_STATUS_STATE = d.f .RING_STATUS_STATE ∧
    e.flag .RING_STATUS_BACKSTEP = true ∧ d.posted e .RING_BACKSTEP (fun _ => True) ∧ e.ring = d.ring := by
  have hcount := d.reg_setF_ne .RING_STATUS_BACKSTEP .RING_COUNT 1 0 0 0 0 (Reg.code_ne (by decide) _ _ _ _)
  have hstate := d.f_setF_apart .RING_STATUS_BACKSTEP .RING_STATUS_STATE 1 0 0 rfl (by decide) (by decide)
  have hback := d.f_setF_fit .RING_STATUS_BACKSTEP 0 0 (by decide) (n := 1) (by decide)
  have hlink : (d.setF .RING_STATUS_BACKSTEP 1).link = d.link := rfl
  have hring : (d.setF .RING_STATUS_BACKSTEP 1).ring = d.ring := rfl
  dsimp only
  generalize d.setF .RING_STATUS_BACKSTEP 1 = m at *
  refine ⟨(m.reg_post _ _ _ _ _ 0 0 (Reg.code_ne (by decide) _ _ _ _)).trans hcount, (m.f_post _ _ _ _ _ 0 0 (by decide)).trans hstate,
    Dev.flag_of_one ((m.f_post _ _ _ _ _ 0 0 (by decide)).trans hback),
    Dev.posted_congr hlink (congrArg BitVec.toNat hcount) rfl (m.post_posted_of _ _ _ _ _ trivial), (Dev.post_ring ..).trans hring⟩

/-- Settles O26: the billet is taken, and counted, adopted or checked as Table 2.4 says. -/
theorem alignmentBilletTable : Obligations.AlignmentBilletTable := by
  unfold Obligations.AlignmentBilletTable
  intro s a hin hstage
  have ht := Dev.slotsMove.taken s.dev a
  have heq := Dev.alignIn_eq hin hstage
  dsimp only at heq ⊢
  rw [ht.billetTime, ht.billetCounts, ht.localTime, ht.f 0 0 (by decide)] at heq
  have hcount : (s.dev.taken a).reg .RING_COUNT = s.dev.reg .RING_COUNT := ht.reg _ 0 0 (by decide)
  have hstate : (s.dev.taken a).f .RING_STATUS_STATE = s.dev.f .RING_STATUS_STATE := ht.f 0 0 (by decide)
  have hring := ht.ring
  have hlink := ht.link
  refine ⟨fun hcase => Completes.of_act (g := Dev.alignIn) rfl ?_, fun hroot hcounts => ?_⟩
  · have hpeer : s.dev.alignIn = (s.dev.taken a).addF .RING_MISMATCH_PEER 1 := by
      rw [heq]
      rcases hcase with hroot | ⟨hcounts, hfar⟩
      · rw [if_pos hroot]
      · simp [hcounts, hfar]
    rw [hpeer]
    refine ⟨?_, ((Dev.regsBut.refl _ _).addF (f := .RING_MISMATCH_PEER) 1 (by simp)).settle, rfl, hring⟩
    have hb := (s.dev.taken a).bumped_addF .RING_MISMATCH_PEER 1 0 0 (by decide)
    rw [Dev.bumped, ht.f 0 0 (by decide)] at hb
    exact hb
  · have hparent : s.dev.alignIn = (s.dev.taken a).fromParent (s.dev.billetTime a) (bPay a.b 4 0 8) := by
      rw [heq, if_neg (by simp [hroot]), if_pos hcounts]
    refine ⟨fun hadopt => ⟨fun hok => Completes.of_act (g := Dev.alignIn) rfl ?_, fun hno => Completes.of_act (g := Dev.alignIn) rfl ?_⟩,
      fun hst hre => ⟨fun hnear => Completes.of_act (g := Dev.alignIn) rfl ?_, fun hfar h3 => Completes.of_act (g := Dev.alignIn) rfl ?_⟩⟩
    · rw [hparent]
      have h := Dev.fromParent_ok (d := s.dev.taken a) (root := s.dev.billetTime a) (depth := bPay a.b 4 0 8)
        (by rw [hstate, hring]; exact hadopt) (by rw [ht.switchMoves.count, ht.anyValid]; exact hok)
      rw [ht.isRoot] at h
      exact h
    · rw [hparent, Dev.fromParent_refused (by rw [hstate, hring]; exact hadopt) (by rw [ht.switchMoves.count, ht.anyValid]; exact hno)]
      obtain ⟨h1, h2, h3, h4, h5⟩ := (s.dev.taken a).heard.backstep_spec
      exact ⟨h1.trans hcount, h2.trans hstate, h3, Dev.posted.settle (Dev.posted_congr hlink ht.switchMoves.count rfl h4),
        congrArg RingSt.reacquire h5⟩
    · rw [hparent, Dev.fromParent_checks (by rw [hstate]; exact hst) (by rw [hring]; exact hre), ht.localTime]
      obtain ⟨h1, h2, -⟩ := (s.dev.taken a).heard.checkParent_spec (s.dev.localTime - s.dev.billetTime a)
      exact ⟨h1.trans hcount, (h2 hnear).1, (h2 hnear).2.trans hlink⟩
    · rw [hparent, Dev.fromParent_checks (by rw [hstate]; exact hst) (by rw [hring]; exact hre), ht.localTime]
      obtain ⟨h1, -, h2⟩ := (s.dev.taken a).heard.checkParent_spec (s.dev.localTime - s.dev.billetTime a)
      obtain ⟨hs, hp⟩ := h2 hfar (hstate.trans_ne h3)
      exact ⟨h1.trans hcount, hs, Dev.posted.settle (Dev.posted_congr hlink ht.switchMoves.count rfl hp)⟩

/-! ## Billets sent -/

/-- The free shared slots shown: FAB_SHARED alone changes. -/
theorem Dev.noteShared_spec (d : Dev) : d.regsBut d.noteShared [Reg.code .FAB_SHARED 0 0] ∧ { d.noteShared with regs := d.regs } = d := by
  unfold Dev.noteShared
  dsimp only
  have h := (Dev.regsBut.refl d [Reg.code .FAB_SHARED 0 0]).setF (f := .FAB_SHARED_FREE) d.sharedFree (by simp) (i := 0) (j := 0)
  split
  · exact ⟨h.setF (f := .FAB_SHARED_LOW) _ (by simp), rfl⟩
  · exact ⟨h, rfl⟩

/-- A billet of the control port for one link that is UP takes a slot of the port's static minimum, with one copy. -/
theorem Dev.injectOne_control {d : Dev} {l : Nat} {b : Billet} (hup : d.linkUp l = true) (hform : d.malformed b = false)
    (hplace : d.place? 43 (bTc b) (bVc b) = some false) :
    d.injectOne ⟨7, b, none, some l⟩ = ((d.updFab (fun f => { f with
      slots := f.slots ++ [{ serial := f.serial, input := 43, cls := bTc b, vc := bVc b, shared := false, job := bJob b
                             copies := [⟨l, b⟩], edge := d.ring.edges, since := 0, owner := none }]
      serial := f.serial + 1 })).noteShared, true) := by
  have hplace' : d.place? (36 + (7 : Fin 8).val) (bTc b) (bVc b) = some false := hplace
  unfold Dev.injectOne
  simp only [hform, hplace', Bool.false_eq_true, if_false, Bool.false_and]
  rw [if_neg (show ¬ (7 : Fin 8) = 0 by decide), if_pos hup]
  rfl

/-- The alignment billet for a link (Table 2.3). -/
def Dev.alignBillet (d : Dev) (l : Nat) : Billet :=
  mkBillet { type := 1, tc := 4, job := 0, dest := d.f .FAB_LINK_STATUS_PEER l, src := d.node }
    (leBytes 2 1 ++ leBytes 2 (d.f .RING_CFG_ROOT_NODE) ++ leBytes 1 (d.f .RING_STATUS_DEPTH))

/-- A billet joins those waiting at the control port, and what waits there takes slots. -/
theorem Dev.sendAlign_eq (d : Dev) (l : Nat) :
    d.sendAlign l = (d.updFab (fun f => { f with inject := f.inject ++ [⟨7, d.alignBillet l, none, some l⟩] })).pump := rfl

/-- A waiting billet that is the only one takes its slot, and none waits. -/
theorem Dev.pump_single {d e : Dev} {i : Inject} (hin : d.fab.inject = [i]) (htakes : d.injectOne i = (e, true)) :
    d.pump = e.updFab (fun f => { f with inject := [] }) := by
  unfold Dev.pump
  rw [hin]
  simp only [Dev.pumpList, htakes, if_true]

/-- The slot that the only billet of a control port's link takes, and what changes beside it. -/
theorem Dev.sendAlign_spec {d : Dev} {l : Nat} {b : Billet} (hb : d.alignBillet l = b) (hnone : d.fab.inject = [])
    (hup : d.linkUp l = true) (hform : d.malformed b = false) (hplace : d.place? 43 (bTc b) (bVc b) = some false) :
    (d.sendAlign l).fab.slots = d.fab.slots ++ [{ serial := d.fab.serial, input := 43, cls := bTc b, vc := bVc b
                                                  shared := false, job := bJob b, copies := [⟨l, b⟩]
                                                  edge := d.ring.edges, since := 0, owner := none }] ∧
    (d.sendAlign l).fab.inject = [] ∧ d.regsBut (d.sendAlign l) [Reg.code .FAB_SHARED 0 0] ∧
    { d.sendAlign l with regs := d.regs, fab := d.fab } = d := by
  have hr : d.sameRoutes (d.updFab (fun f => { f with inject := f.inject ++ [⟨7, b, none, some l⟩] })) := ⟨rfl, fun _ _ _ _ => rfl⟩
  have hone := Dev.injectOne_control ((hr.linkUp l).trans hup) ((hr.malformed b).trans hform) ((hr.place? ..).trans hplace)
  rw [Dev.sendAlign_eq, hb]
  rw [Dev.pump_single (show d.fab.inject ++ [_] = [_] by rw [hnone, List.nil_append]) hone]
  obtain ⟨hregs, hrest⟩ := Dev.noteShared_spec ((d.updFab (fun f => { f with inject := f.inject ++ [⟨7, b, none, some l⟩] })).updFab
    (fun f => { f with slots := f.slots ++ [{ serial := f.serial, input := 43, cls := bTc b, vc := bVc b, shared := false, job := bJob b
                                              copies := [⟨l, b⟩], edge := d.ring.edges, since := 0, owner := none }]
                       serial := f.serial + 1 }))
  exact ⟨(congrArg (fun x : Dev => x.fab.slots) hrest :), rfl, hregs.congr rfl,
    (congrArg (fun x : Dev => { x with fab := d.fab }) hrest :)⟩

/-- Settles O27: with one link UP one billet takes a slot of the control port. -/
theorem alignmentSent : Obligations.AlignmentSent := by
  unfold Obligations.AlignmentSent
  intro s
  refine ⟨fun hno => Completes.of_act (g := Dev.alignSend) rfl ?_, fun hmark hst => Completes.of_act (g := Dev.alignSend) rfl ?_,
    fun l hmark hnew hst hlinks hnone hform hplace => Completes.of_act (g := Dev.alignSend) rfl ?_⟩
  · rw [Dev.alignSend, if_pos hno]
    exact Dev.same_settle s.dev
  · by_cases hsent : s.dev.ring.sentAt = s.dev.count + 1
    · rw [Dev.alignSend, if_pos (.inr hsent), ← hsent]
      rfl
    · have hquiet : ((s.dev.updRing (fun r => { r with sentAt := s.dev.count + 1 })).sendAlignAll) =
          s.dev.updRing (fun r => { r with sentAt := s.dev.count + 1 }) := if_pos hst
      rw [Dev.alignSend, if_neg (not_or.mpr ⟨not_not.mpr hmark, hsent⟩), hquiet]
      rfl
  · have hup : s.dev.linkUp l = true := (List.mem_filter.mp (hlinks ▸ List.mem_singleton_self l.val)).2
    have hone : ((s.dev.updRing (fun r => { r with sentAt := s.dev.count + 1 })).sendAlignAll) =
        (s.dev.updRing (fun r => { r with sentAt := s.dev.count + 1 })).sendAlign l := by
      have hl : (List.range 36).filter (s.dev.updRing (fun r => { r with sentAt := s.dev.count + 1 })).linkUp = [l.val] := hlinks
      refine (if_neg hst).trans ?_
      rw [hl]
      rfl
    rw [Dev.alignSend, if_neg (not_or.mpr ⟨not_not.mpr hmark, hnew⟩), hone]
    obtain ⟨hslots, hinject, hregs, hrest⟩ := Dev.sendAlign_spec (d := s.dev.updRing (fun r => { r with sentAt := s.dev.count + 1 }))
      rfl hnone hup hform hplace
    exact ⟨hslots, hinject, hregs, (congrArg Dev.link hrest :), (congrArg Dev.cmds hrest :), (congrArg Dev.ring hrest :)⟩

end Sys2Proof.Machine
end

section
/-! PROOFS. The ring count runs, stops and returns (R23, R39, R68, R302, R335, R343). -/

namespace Sys2Proof.Machine

/-! ## What a count accrues -/

/-- The registers that what a count accrues may change. -/
def accrualRegs : List Reg := [.SCL_PERIOD, .SCL_RAIL, .CMD_ACCT_ENGINE, .COLL_OCC, .ERR_REPLACE]

/-- Metering, accounting, occupancy, reasons and eligibility: their registers, the Scaler and the commands change. -/
structure Dev.accrues (d e : Dev) : Prop where
  reg : ∀ r i j, r ∉ accrualRegs → e.reg r i j = d.reg r i j
  rest : { e with regs := d.regs, scl := d.scl, cmds := d.cmds } = d

namespace Dev.accrues

variable {d m e : Dev}

theorem refl (d : Dev) : d.accrues d := ⟨fun _ _ _ _ => rfl, rfl⟩

theorem trans (h : d.accrues m) (h' : m.accrues e) : d.accrues e where
  reg r i j hr := (h'.reg r i j hr).trans (h.reg r i j hr)
  rest := (congrArg (fun x : Dev => { x with regs := d.regs, scl := d.scl, cmds := d.cmds }) h'.rest).trans h.rest

theorem ring (h : d.accrues e) : e.ring = d.ring := (congrArg Dev.ring h.rest :)

theorem arb (h : d.accrues e) : e.arb = d.arb := (congrArg Dev.arb h.rest :)

theorem foldl {α : Type} {g : Dev → α → Dev} (hg : ∀ (d : Dev) (a : α), d.accrues (g d a)) (l : List α) (d : Dev) :
    d.accrues (l.foldl g d) := by
  induction l generalizing d with
  | nil => exact refl d
  | cons a l ih => exact (hg d a).trans (ih _)

theorem of_scaler (h : d.scalerMoves e) : d.accrues e where
  reg r i j hr := h.reg r i j (by rintro rfl; exact hr (by decide)) (by rintro rfl; exact hr (by decide))
  rest := (congrArg (fun x : Dev => { x with cmds := d.cmds }) h.rest :)

theorem setF (d : Dev) (f : Fld) (n i j : Nat) (hf : f.reg ∈ accrualRegs) : d.accrues (d.setF f n i j) where
  reg r i' j' hr := d.reg_setF_ne f r n i j i' j' (Reg.code_ne (by rintro rfl; exact hr hf) _ _ _ _)
  rest := rfl

theorem updCmd (d : Dev) (id : Nat) (g : Cmd → Cmd) : d.accrues (d.updCmd id g) := ⟨fun _ _ _ _ => rfl, rfl⟩

theorem tallyEnd (d : Dev) : d.accrues d.tallyEnd := by
  unfold Dev.tallyEnd
  split
  · exact of_scaler (d.endPeriod_moves ..)
  · exact refl d

theorem sclAdd (d : Dev) (job part : Nat) (g : SclPair → SclPair) : d.accrues (d.sclAdd job part g) := by
  unfold Dev.sclAdd
  dsimp only
  split
  · exact of_scaler (.updScl d _)
  · split
    · exact (of_scaler (d.endPeriod_moves ..)).trans (of_scaler (.updScl _ _))
    · exact of_scaler (.updScl d _)

theorem sclArrays (d : Dev) (job part n : Nat) : d.accrues (d.sclArrays job part n) := by
  unfold Dev.sclArrays
  split
  · exact refl d
  · exact sclAdd ..

theorem accrueArrays (d : Dev) : d.accrues d.accrueArrays := by
  unfold Dev.accrueArrays
  refine foldl (fun d c => ?_) _ d
  dsimp only
  split
  · exact refl d
  · exact trans (setF d .CMD_ACCT_ENGINE_ARRAY_COUNTS _ c.queue 0 (by decide)) (sclArrays ..)

theorem accrueStages (d : Dev) : d.accrues d.accrueStages := by
  unfold Dev.accrueStages
  refine foldl (fun d p => foldl (fun d s => ?_) _ d) _ d
  dsimp only
  have hone : ∀ {m : Dev} (c : Bool) (f : Fld), f.reg = .COLL_OCC → d.accrues m → d.accrues (if c then m.addF f 1 p s else m) := by
    intro m c f hf hm
    split
    · exact hm.trans (setF m f _ p s (by rw [hf]; decide))
    · exact hm
  exact hone _ .COLL_OCC_BLOCKED rfl (hone _ .COLL_OCC_BUSY rfl (refl d))

theorem noteReasons (d : Dev) : d.accrues d.noteReasons := by
  unfold Dev.noteReasons
  split
  · exact refl d
  · exact setF d .ERR_REPLACE_REASON _ 0 0 (by decide)

theorem noteEligible (d : Dev) : d.accrues d.noteEligible := by
  unfold Dev.noteEligible
  refine foldl (fun d q => ?_) _ d
  split
  · exact refl d
  · split
    · exact updCmd d _ _
    · exact refl d

/-- What the count that ends has accrued. -/
theorem all (d : Dev) : d.accrues d.tallyEnd.accrueArrays.accrueStages.noteReasons.noteEligible :=
  ((((tallyEnd d).trans (accrueArrays _)).trans (accrueStages _)).trans (noteReasons _)).trans (noteEligible _)

end Dev.accrues

/-- Without a command in flight and without metering, a count accrues nothing but the replacement reasons. -/
theorem Dev.accrued_idle {d : Dev} (hcmds : d.cmds = []) (hmeter : d.metering = false) :
    d.tallyEnd.accrueArrays.accrueStages.noteReasons.noteEligible = d.noteReasons := by
  have htally : d.tallyEnd = d := by simp [Dev.tallyEnd, Dev.periodDue, hmeter]
  have harr : d.accrueArrays = d := by simp [Dev.accrueArrays, hcmds]
  have hstage : d.accrueStages = d := by
    have hruns : d.coll.ctxs.filterMap (fun x => (x.cmd.bind d.cmd?).map (fun c => (c, x))) = [] := by
      refine List.filterMap_eq_nil_iff.mpr fun x _ => ?_
      have hnone : x.cmd.bind d.cmd? = none := by cases x.cmd <;> simp [Dev.cmd?, hcmds]
      rw [hnone, Option.map_none]
    unfold Dev.accrueStages
    simp only [hruns, List.filter_nil, List.any_nil, Bool.false_eq_true, if_false, List.foldl_fixed]
  have hcmds' : d.noteReasons.cmds = [] := by
    unfold Dev.noteReasons
    split <;> exact hcmds
  rw [htally, harr, hstage]
  generalize d.noteReasons = e at *
  have hnext : ∀ q, e.nextLaunch q = none := fun q => by simp [Dev.nextLaunch, hcmds']
  exact List.foldl_fixed' (fun q => by simp only [hnext]) _

/-- The holds that end change the arbiters alone. -/
theorem Dev.endHolds_spec (d : Dev) : { d.endHolds with arb := d.arb } = d ∧ (d.arb.emergency = [] → d.endHolds = d) := by
  have hone : ∀ (e : Dev) (a : Nat), { e with arb := d.arb } = d → { e.arbRelease a with arb := d.arb } = d := by
    intro e a h
    unfold Dev.arbRelease
    split
    · exact h
    · exact h
  have hall : ∀ (l : List Nat) (e : Dev), { e with arb := d.arb } = d → { l.foldl Dev.arbRelease e with arb := d.arb } = d := by
    intro l
    induction l with
    | nil => exact fun e h => h
    | cons a l ih => exact fun e h => ih _ (hone e a h)
  exact ⟨hall _ d rfl, fun h => by simp [Dev.endHolds, h]⟩

/-- The next count, on the device that what the count has accrued leaves. -/
def Dev.nextCount (d : Dev) : Dev := (d.setReg .RING_COUNT (d.reg .RING_COUNT + 1)).updRing (fun r => { r with edges := r.edges + 1 })

theorem Dev.edge_eq {d : Dev} (hcold : d.boot.cold = false) (hrun : d.ring.running = true) :
    d.edge = d.tallyEnd.accrueArrays.accrueStages.noteReasons.noteEligible.nextCount.endHolds.markTally :=
  if_neg (by simp [hcold, hrun])

/-- A reference edge: the count moves on, and beside what accrues only the arbiters' holds change. -/
theorem Dev.edge_spec {d : Dev} (hcold : d.boot.cold = false) (hrun : d.ring.running = true) :
    d.edge.reg .RING_COUNT = d.reg .RING_COUNT + 1 ∧ d.edge.reg .RING_STATUS = d.reg .RING_STATUS ∧
    { d.edge with regs := d.regs, scl := d.scl, cmds := d.cmds, arb := d.arb, ring := d.ring } = d ∧
    d.edge.ring = { d.ring with edges := d.ring.edges + 1 } ∧ (d.arb.emergency = [] → d.edge.arb = d.arb) := by
  rw [Dev.edge_eq hcold hrun]
  have ha := Dev.accrues.all d
  have hring : d.tallyEnd.accrueArrays.accrueStages.noteReasons.noteEligible.ring = d.ring := ha.ring
  have harb : d.tallyEnd.accrueArrays.accrueStages.noteReasons.noteEligible.arb = d.arb := ha.arb
  generalize d.tallyEnd.accrueArrays.accrueStages.noteReasons.noteEligible = m at *
  obtain ⟨hends, hnone⟩ := m.nextCount.endHolds_spec
  have hcount : m.nextCount.reg .RING_COUNT = m.reg .RING_COUNT + 1 :=
    (m.reg_setReg_same (r := .RING_COUNT) (m.reg .RING_COUNT + 1) 0 0 :)
  have hstatus : m.nextCount.reg .RING_STATUS = m.reg .RING_STATUS := Dev.reg_setReg_ne _ _ _ _ _ _ (by decide)
  have hregs : m.nextCount.endHolds.regs = m.nextCount.regs := (congrArg Dev.regs hends :)
  have hreg : ∀ r, m.nextCount.endHolds.reg r = m.nextCount.reg r := fun r =>
    congrArg (fun rs => SMap.get r.dflt rs (r.code 0 0)) hregs
  refine ⟨?_, ?_, ?_, ?_, fun he => ?_⟩
  · exact (hreg _).trans (hcount.trans (congrArg (· + 1) (ha.reg .RING_COUNT 0 0 (by decide))))
  · exact (hreg _).trans (hstatus.trans (ha.reg .RING_STATUS 0 0 (by decide)))
  · exact (congrArg (fun x : Dev => { x with regs := d.regs, scl := d.scl, cmds := d.cmds, arb := d.arb, ring := d.ring }) hends).trans
      ((congrArg (fun x : Dev => { x with arb := d.arb, ring := d.ring }) ha.rest :))
  · exact (congrArg Dev.ring hends).trans (congrArg (fun r : RingSt => { r with edges := r.edges + 1 }) hring)
  · have he' : m.nextCount.arb.emergency = [] := (congrArg ArbSt.emergency harb).trans he
    exact (congrArg Dev.arb (hnone he')).trans harb

/-- Without commands and metering an edge changes no other register but the replacement reasons, and nothing else but the holds. -/
theorem Dev.edge_idle {d : Dev} (hcold : d.boot.cold = false) (hrun : d.ring.running = true) (hcmds : d.cmds = [])
    (hmeter : d.metering = false) : d.regsBut d.edge [Reg.code .RING_COUNT 0 0, Reg.code .ERR_REPLACE 0 0] ∧
    { d.edge with regs := d.regs, arb := d.arb, ring := d.ring } = { d with scl := { d.scl with before := d.scl.tally } } := by
  rw [Dev.edge_eq hcold hrun, Dev.accrued_idle hcmds hmeter]
  have hregs : d.regsBut d.noteReasons [Reg.code .RING_COUNT 0 0, Reg.code .ERR_REPLACE 0 0] := by
    unfold Dev.noteReasons
    split
    · exact .refl d _
    · exact (Dev.regsBut.refl d _).setF (f := .ERR_REPLACE_REASON) _ (by simp)
  have hrest : { d.noteReasons with regs := d.regs } = d := by
    unfold Dev.noteReasons
    split <;> rfl
  generalize d.noteReasons = m at *
  have hnext : d.regsBut m.nextCount [Reg.code .RING_COUNT 0 0, Reg.code .ERR_REPLACE 0 0] := (hregs.setReg _ (by simp)).congr rfl
  have hends := m.nextCount.endHolds_spec.1
  have heregs : m.nextCount.endHolds.regs = m.nextCount.regs := (congrArg Dev.regs hends :)
  refine ⟨(hnext.congr heregs).congr rfl, ?_⟩
  have hmark : { m.nextCount.endHolds with regs := d.regs, arb := d.arb, ring := d.ring } = d :=
    (congrArg (fun x : Dev => { x with regs := d.regs, arb := d.arb, ring := d.ring }) hends).trans
      ((congrArg (fun x : Dev => { x with arb := d.arb, ring := d.ring }) hrest :))
  exact (congrArg Dev.markTally hmark :)

/-- The loss of the reference reported: REF_LOST and FAULT_SEEN are set. -/
theorem Dev.refLost_spec (m d : Dev) (hregs : m.regs = d.regs) (hlink : m.link = d.link) (hring : m.ring = { d.ring with running := false })
    (hcmds : m.cmds = d.cmds) (hmem : m.mem = d.mem) : let e := (m.setF .RING_STATUS_REF_LOST 1).post .RING_REF_LOST
    e.settle.ring = { d.ring with running := false } ∧ e.settle.flag .RING_STATUS_REF_LOST = true ∧
    d.posted e.settle .RING_REF_LOST (fun _ => True) ∧ e.settle.flag .ERR_STATUS_FAULT_SEEN = true ∧
    d.regsBut e.settle [Reg.code .RING_STATUS 0 0, Reg.code .ERR_STATUS 0 0] ∧ e.settle.cmds = d.cmds ∧ e.settle.mem = d.mem := by
  have hlost := m.f_setF_fit .RING_STATUS_REF_LOST 0 0 (by decide) (n := 1) (by decide)
  have hcount : (m.setF .RING_STATUS_REF_LOST 1).count = m.count := Dev.count_setF _ _ _ _ _ (by decide)
  have hmc : m.count = d.count := congrArg (fun rs => (SMap.get Reg.RING_COUNT.dflt rs (Reg.RING_COUNT.code 0 0)).toNat) hregs
  have hbut : d.regsBut (m.setF .RING_STATUS_REF_LOST 1) [Reg.code .RING_STATUS 0 0, Reg.code .ERR_STATUS 0 0] :=
    ((Dev.regsBut.refl d _).congr hregs).setF (f := .RING_STATUS_REF_LOST) 1 (by simp)
  have hrest : { m.setF .RING_STATUS_REF_LOST 1 with regs := m.regs } = m := rfl
  dsimp only
  generalize m.setF .RING_STATUS_REF_LOST 1 = x at *
  have hxlink : x.link = d.link := (congrArg Dev.link hrest).trans hlink
  have hseen : (x.post .RING_REF_LOST).f .ERR_STATUS_FAULT_SEEN = 1 := by
    unfold Dev.post Dev.postFrom
    dsimp only
    rw [if_pos (by decide)]
    exact Dev.f_setF_fit _ .ERR_STATUS_FAULT_SEEN 0 0 (by decide) (n := 1) (by decide)
  refine ⟨(Dev.post_ring ..).trans ((congrArg Dev.ring hrest).trans hring), Dev.flag_of_one ((x.f_post _ _ _ _ _ 0 0 (by decide)).trans hlost),
    Dev.posted.settle (Dev.posted_congr hxlink (hcount.trans hmc) rfl (x.post_posted_of _ _ _ _ _ trivial)),
    Dev.flag_of_one hseen, (hbut.post _ _ _ _ _ (by simp)).settle, (Dev.post_cmds ..).trans ((congrArg Dev.cmds hrest).trans hcmds),
    (Dev.post_mem ..).trans ((congrArg Dev.mem hrest).trans hmem)⟩

/-- Settles O24: an edge by what accrues with it, the loss and the return of the reference by their registers. -/
theorem countRunsStopsAndReturns : Obligations.CountRunsStopsAndReturns := by
  unfold Obligations.CountRunsStopsAndReturns
  intro s hcold
  refine ⟨fun hrun => ⟨Completes.of_act (g := Dev.edge) rfl ?_, Completes.of_act (g := Dev.refLost) rfl ?_⟩,
    fun hstop => ⟨Completes.of_act (g := Dev.edge) rfl ?_, Completes.of_act (g := Dev.refReturn) rfl ?_⟩⟩
  · obtain ⟨hcount, hstatus, hrest, hring, harb⟩ := Dev.edge_spec hcold hrun
    refine ⟨hcount, (congrArg Dev.mem hrest :), (congrArg Dev.link hrest :), hstatus, hring, harb, fun hcmds hmeter => ?_⟩
    obtain ⟨hregs, hidle⟩ := Dev.edge_idle hcold hrun hcmds hmeter
    exact ⟨hregs.settle, (congrArg (fun x : Dev => { x with
      regs := s.dev.edge.regs, pins := s.dev.edge.settle.pins, arb := s.dev.edge.arb, ring := s.dev.edge.ring }) hidle :)⟩
  · have hlost : s.dev.refLost = ((({ s.dev.updRing (fun r => { r with running := false }) with
        scl := { s.dev.scl with unaligned := true } } : Dev).setF .RING_STATUS_REF_LOST 1).post .RING_REF_LOST) :=
      if_neg (by simp [hcold, hrun])
    rw [hlost]
    exact Dev.refLost_spec _ s.dev rfl rfl rfl rfl rfl
  · rw [Dev.edge, if_pos (by simp [hstop])]
    exact Dev.same_settle s.dev
  · have hback : s.dev.refReturn = (let d := (s.dev.updRing (fun r => { r with running := true })).setAlign 0
        if d.stage < 6 then d else d.rootAcquire true) := if_neg (by simp [hcold, hstop])
    have ha := (s.dev.updRing (fun r => { r with running := true })).setAlign_spec (st := 0) (by decide)
    have hstage : ((s.dev.updRing (fun r => { r with running := true })).setAlign 0).stage = s.dev.stage :=
      congrArg Fld.DEV_STATUS_STAGE.of (ha.reg (r := .DEV_STATUS) (by decide) 0 0)
    have hroot : ((s.dev.updRing (fun r => { r with running := true })).setAlign 0).isRoot = s.dev.isRoot := by
      unfold Dev.isRoot Dev.node Dev.f
      rw [ha.reg (by decide), ha.reg (by decide)]
      rfl
    rw [hback]
    dsimp only
    rw [hstage]
    generalize (s.dev.updRing (fun r => { r with running := true })).setAlign 0 = m at *
    have hrun : m.ring.running = true := congrArg RingSt.running ha.ring
    have hshape : ∀ x : Dev, x.regs = m.regs → x.ring.running = m.ring.running → { x with ring := m.ring } = m →
        (s.dev.isRoot = true → 6 ≤ s.dev.stage → x.ring.rootWait = some (s.dev.count, false)) →
        (fun e : Dev => e.ring.running = true ∧ e.f .RING_STATUS_STATE = 0 ∧ e.count = s.dev.count ∧
          (s.dev.isRoot = true → 6 ≤ s.dev.stage → e.ring.rootWait = some (s.dev.count, false)) ∧
          s.dev.regsBut e [Reg.code .RING_STATUS 0 0] ∧ e.cmds = s.dev.cmds ∧ e.mem = s.dev.mem ∧ e.link = s.dev.link) x.settle := by
      intro x hregs hring hrest hwait
      have hreg : ∀ r, x.reg r = m.reg r := fun r => congrArg (fun rs => SMap.get r.dflt rs (r.code 0 0)) hregs
      refine ⟨hring.trans hrun, (congrArg (Fld.of _) (hreg _)).trans ha.state, (congrArg BitVec.toNat (hreg .RING_COUNT)).trans ha.count, hwait,
        ((ha.quiet (by decide)).congr hregs).settle, (congrArg Dev.cmds hrest).trans ha.cmds, (congrArg Dev.mem hrest).trans ha.mem,
        (congrArg Dev.link hrest).trans ha.link⟩
    split
    · rename_i hlow
      exact hshape m rfl rfl rfl (fun _ h6 => absurd hlow (not_lt.mpr h6))
    · unfold Dev.rootAcquire
      rw [hroot]
      split
      · exact hshape (m.updRing _) rfl rfl rfl (fun _ _ => congrArg (fun n => some (n, false)) ha.count)
      · rename_i hno
        exact hshape m rfl rfl rfl (fun hr => absurd hr hno)

end Sys2Proof.Machine
end

section
/-! PROOFS. The stages of cold start (R359 to R362, R365, R376). -/

namespace Sys2Proof.Machine

/-! ## Stages and halts -/

theorem Dev.stage_toStage (d : Dev) {n : Nat} (h : n < 16) : (d.toStage n).stage = n :=
  d.f_setF_fit .DEV_STATUS_STAGE 0 0 (by decide) h

theorem Dev.toStage_f (d : Dev) (n : Nat) {g : Fld} (i j : Nat) (h : g.reg ≠ .DEV_STATUS) : (d.toStage n).f g i j = d.f g i j :=
  d.f_setF_ne_reg .DEV_STATUS_STAGE g n 0 0 i j h

/-- Another field of DEV_STATUS stays as the stage changes. -/
theorem Dev.toStage_status (d : Dev) (n : Nat) {g : Fld} (hr : g.reg = .DEV_STATUS) (h : 4 ≤ g.lo) : (d.toStage n).f g = d.f g :=
  d.f_setF_apart .DEV_STATUS_STAGE g n 0 0 hr (by decide) (.inr h)

theorem Dev.toStage_regs (d : Dev) (n : Nat) : d.regsBut (d.toStage n) [Reg.code .DEV_STATUS 0 0] :=
  (Dev.regsBut.refl d _).setF (f := .DEV_STATUS_STAGE) n (by simp)

theorem Dev.atStage_iff {d : Dev} {n : Nat} : d.atStage n = true ↔ d.boot.cold = false ∧ d.boot.halted = false ∧ d.stage = n := by
  simp [Dev.atStage, and_assoc]

/-- A halt keeps the stage and shows its error. -/
theorem Dev.halt_spec (d : Dev) {err : Nat} (h : err < 256) :
    (d.halt err).boot.halted = true ∧ (d.halt err).f .DEV_STATUS_ERROR = err ∧ (d.halt err).stage = d.stage ∧
    d.regsBut (d.halt err) [Reg.code .DEV_STATUS 0 0] :=
  ⟨rfl, d.f_setF_fit .DEV_STATUS_ERROR 0 0 (by decide) h,
    d.f_setF_apart .DEV_STATUS_ERROR .DEV_STATUS_STAGE err 0 0 rfl (by decide) (by decide),
    ((Dev.regsBut.refl d _).setF (f := .DEV_STATUS_ERROR) err (by simp)).congr rfl⟩

/-! ## Cold reset and loss of power -/

/-- Without registers written, each reads its reset value. -/
theorem Dev.reg_of_none {d : Dev} (h : d.regs = []) (r : Reg) (i j : Nat) : d.reg r i j = r.dflt := by
  unfold Dev.reg
  rw [h]
  rfl

/-- A metrology command that ends leaves everything but the flash's Scaler region and the free inputs drawn. -/
theorem Dev.tearRegion_spec (d : Dev) : { d.tearRegion with flash := d.flash, free := d.free } = d := by
  unfold Dev.tearRegion
  split <;> rfl

theorem Dev.tearFlash_spec (d : Dev) : { d.tearFlash with flash := d.flash } = d := by
  unfold Dev.tearFlash
  split <;> rfl

/-- With COLD_RESET_N asserted no ball is. -/
theorem Dev.settle_cold {d : Dev} (h : d.boot.cold = true) : d.settle.pins = {} := by
  simp [Dev.settle, h]

/-! ## Later stages -/

/-- The time of stage 5 has run out, or what it waits for has come (R361). -/
theorem Dev.linkStage_over {d : Dev} (hs : d.atStage 5 = true)
    (h : (∀ l < 36, d.linkSettled l = true) ∨ d.ring.running = false ∨ 46700000 ≤ d.count) :
    d.linkStage = ((d.updBoot (fun b => { b with stage6 := d.count })).toStage 6).rootAcquire false := by
  unfold Dev.linkStage
  rw [if_neg (by simp [hs]), if_neg]
  simp only [Bool.and_eq_true, Bool.not_eq_true', decide_eq_true_eq, List.all_eq_false, List.mem_range, not_and, not_lt]
  rintro ⟨⟨l, hl, hset⟩, hrun⟩
  rcases h with h | h | h
  · exact absurd (h l hl) hset
  · rw [hrun] at h
    exact absurd h (by decide)
  · exact h

theorem Dev.linkStage_waits {d : Dev} (hs : d.atStage 5 = true)
    (h : ¬ ((∀ l < 36, d.linkSettled l = true) ∨ d.ring.running = false ∨ 46700000 ≤ d.count)) : d.linkStage = d := by
  obtain ⟨hset, hrun, hcount⟩ := not_or.mp h |>.imp_right not_or.mp
  unfold Dev.linkStage
  rw [if_neg (by simp [hs]), if_pos]
  simp only [Bool.and_eq_true, Bool.not_eq_true', decide_eq_true_eq, List.all_eq_false, List.mem_range]
  refine ⟨⟨?_, by simpa using hrun⟩, not_le.mp hcount⟩
  by_contra hc
  exact hset fun l hl => by_contra fun hn => hc ⟨l, hl, hn⟩

/-- A session opens: no register changes, and a Scaler with its region is live (R348). -/
theorem Dev.openSession_spec (d : Dev) : d.openSession.regs = d.regs ∧ d.openSession.link = d.link ∧
    (d.f .SCL_STATUS_STATE = 1 → d.openSession.scl.live = true) := by
  unfold Dev.openSession
  split
  · rename_i hno
    exact ⟨rfl, rfl, fun h => absurd h hno⟩
  · exact ⟨rfl, rfl, fun _ => rfl⟩

/-- Settles O28: each stage by the registers of its branch. -/
theorem coldStartStages : Obligations.ColdStartStages := by
  unfold Obligations.ColdStartStages
  intro s
  refine ⟨fun hcold slot => Completes.of_act (g := fun d => d.coldRelease slot) rfl ?_,
    fun hcold => Completes.of_act (g := Dev.coldAssert) rfl ?_, Completes.of_act (g := Dev.powerLoss) rfl ?_,
    fun hs => ⟨Completes.of_act (g := fun d => d.clockStage true) rfl ?_, Completes.of_act (g := fun d => d.clockStage false) rfl ?_⟩,
    fun hs => ⟨Completes.of_act (g := fun d => d.hbmStage none) rfl ?_,
      fun k => Completes.of_act (g := fun d => d.hbmStage (some k.val)) rfl ?_⟩,
    fun hs => ⟨fun hover => Completes.of_act (g := Dev.linkStage) rfl ?_, fun hwait => Completes.of_act (g := Dev.linkStage) rfl ?_⟩,
    fun hs => ⟨fun hst => Completes.of_act (g := Dev.ringStage) rfl ?_, fun hst hover => Completes.of_act (g := Dev.ringStage) rfl ?_,
      fun hst hcount hrun => Completes.of_act (g := Dev.ringStage) rfl ?_⟩,
    fun hs us => ⟨Completes.of_act (g := fun d => d.hostStage true us.toNat) rfl ?_,
      Completes.of_act (g := fun d => d.hostStage false us.toNat) rfl ?_⟩⟩
  · have hgo : s.dev.coldRelease slot = ((s.dev.coldState.updBoot (fun b => { b with cold := false, slotId := slot })).toStage 1) :=
      if_neg (by simp [hcold])
    rw [hgo]
    have hreg : ∀ r i j, (s.dev.coldState.updBoot (fun b => { b with cold := false, slotId := slot })).reg r i j = r.dflt :=
      Dev.reg_of_none rfl
    refine ⟨rfl, Dev.stage_toStage _ (by decide), rfl, fun r i j hne => ?_, rfl, rfl⟩
    exact (Dev.toStage_regs _ 1 r i j (by simpa using hne)).trans (hreg r i j)
  · have hgo : s.dev.coldAssert = s.dev.tearRegion.coldState := if_neg (by simp [hcold])
    have htear := s.dev.tearRegion_spec
    rw [hgo]
    exact ⟨rfl, Dev.reg_of_none rfl, rfl, Dev.settle_cold rfl, (congrArg Dev.fuses htear :), (congrArg (fun x : Dev => x.mem.hbm) htear :),
      (congrArg (fun x : Dev => x.mem.slab) htear :)⟩
  · have htear := s.dev.tearFlash.tearRegion_spec
    have hflash := s.dev.tearFlash_spec
    exact ⟨rfl, Dev.reg_of_none rfl, rfl, rfl, (congrArg Dev.fuses htear).trans (congrArg Dev.fuses hflash :)⟩
  · have hgo : s.dev.clockStage true = s.dev.toStage 4 := if_neg (by simp [hs])
    rw [hgo]
    exact ⟨Dev.stage_toStage _ (by decide), (Dev.toStage_regs _ 4).settle, ((Dev.restSame.refl s.dev).setF _ _ 0 0).settle⟩
  · have hgo : s.dev.clockStage false = s.dev.halt 0x30 := if_neg (by simp [hs])
    obtain ⟨h1, h2, h3, -⟩ := s.dev.halt_spec (err := 0x30) (by decide)
    rw [hgo]
    exact ⟨h1, h2, h3.trans (Dev.atStage_iff.mp hs).2.2⟩
  · have hgo : s.dev.hbmStage none = s.dev.toStage 5 := if_neg (by simp [hs])
    rw [hgo]
    exact ⟨Dev.stage_toStage _ (by decide), (Dev.toStage_regs _ 5).settle, ((Dev.restSame.refl s.dev).setF _ _ 0 0).settle⟩
  · have hgo : s.dev.hbmStage (some k.val) = s.dev.halt (0x40 + k.val) := if_neg (by simp [hs])
    obtain ⟨h1, h2, h3, -⟩ := s.dev.halt_spec (err := 0x40 + k.val) (by omega)
    rw [hgo]
    exact ⟨h1, h2, h3.trans (Dev.atStage_iff.mp hs).2.2⟩
  · rw [Dev.linkStage_over hs hover]
    have hregs : ∀ m : Dev, (m.rootAcquire false).regs = m.regs ∧ { m.rootAcquire false with ring := m.ring } = m := fun m => by
      unfold Dev.rootAcquire
      split <;> exact ⟨rfl, rfl⟩
    have hroot : ((s.dev.updBoot (fun b => { b with stage6 := s.dev.count })).toStage 6).isRoot = s.dev.isRoot := by
      unfold Dev.isRoot Dev.node
      rw [Dev.toStage_f _ _ _ _ (by decide), Dev.toStage_f _ _ _ _ (by decide)]
      rfl
    have hcount : ((s.dev.updBoot (fun b => { b with stage6 := s.dev.count })).toStage 6).count = s.dev.count :=
      congrArg BitVec.toNat (Dev.toStage_regs _ 6 .RING_COUNT 0 0 (by simp [Reg.code_ne]))
    have hst : ((s.dev.updBoot (fun b => { b with stage6 := s.dev.count })).toStage 6).stage = 6 := Dev.stage_toStage _ (by decide)
    have hbut : s.dev.regsBut ((s.dev.updBoot (fun b => { b with stage6 := s.dev.count })).toStage 6) [Reg.code .DEV_STATUS 0 0] :=
      Dev.toStage_regs _ 6
    have hrest : { (s.dev.updBoot (fun b => { b with stage6 := s.dev.count })).toStage 6 with regs := s.dev.regs } =
        s.dev.updBoot (fun b => { b with stage6 := s.dev.count }) := rfl
    generalize (s.dev.updBoot (fun b => { b with stage6 := s.dev.count })).toStage 6 = m at *
    obtain ⟨hr, hring⟩ := hregs m
    have hstage : (m.rootAcquire false).stage = m.stage :=
      congrArg (fun rs => Fld.DEV_STATUS_STAGE.of (SMap.get Reg.DEV_STATUS.dflt rs (Reg.DEV_STATUS.code 0 0))) hr
    refine ⟨hstage.trans hst, ?_, fun hisroot => ?_, (hbut.congr hr).settle, ?_⟩
    · exact (congrArg (fun x : Dev => x.boot.stage6) hring).trans (congrArg (fun x : Dev => x.boot.stage6) hrest :)
    · unfold Dev.rootAcquire
      rw [if_pos (hroot.trans hisroot)]
      exact congrArg (fun n => some (n, false)) hcount
    · generalize m.rootAcquire false = e at *
      have hpins := congrArg (fun x : Dev => { x with regs := e.regs, pins := e.settle.pins, ring := e.ring }) hring
      exact hpins.trans (congrArg (fun x : Dev => { x with regs := e.regs, pins := e.settle.pins, ring := e.ring }) hrest :)
  · rw [Dev.linkStage_waits hs hwait]
    exact Dev.same_settle s.dev
  · have hgo : s.dev.ringStage = s.dev.toStage 7 := by rw [Dev.ringStage, if_neg (by simp [hs]), if_pos hst]
    rw [hgo]
    exact ⟨Dev.stage_toStage _ (by decide), s.dev.toStage_status 7 rfl (by decide), ((Dev.restSame.refl s.dev).setF _ _ 0 0).settle⟩
  · have hgo : s.dev.ringStage = (s.dev.setF .DEV_STATUS_UNALIGNED_START 1).toStage 7 := by
      rw [Dev.ringStage, if_neg (by simp [hs]), if_neg hst, if_pos hover]
    rw [hgo]
    have hun := s.dev.f_setF_fit .DEV_STATUS_UNALIGNED_START 0 0 (by decide) (n := 1) (by decide)
    refine ⟨Dev.stage_toStage _ (by decide), Dev.flag_of_one ?_, (((Dev.restSame.refl s.dev).setF _ _ 0 0).setF _ _ 0 0).settle⟩
    exact ((s.dev.setF .DEV_STATUS_UNALIGNED_START 1).toStage_status 7 (g := .DEV_STATUS_UNALIGNED_START) rfl (by decide)).trans hun
  · have hgo : s.dev.ringStage = s.dev := by
      rw [Dev.ringStage, if_neg (by simp [hs]), if_neg hst, if_neg (not_or.mpr ⟨not_le.mpr hcount, by simp [hrun]⟩)]
    rw [hgo]
    exact Dev.same_settle s.dev
  · have hgo : s.dev.hostStage true us.toNat = ({ ((s.dev.setF .DEV_STATUS_ERROR 0).setF .DEV_BOOT_MICROSECONDS us.toNat).toStage 8 with
        link := { s.dev.link with up := true } } : Dev).openSession := by
      rw [Dev.hostStage, if_neg (by simp [hs])]
      rfl
    rw [hgo]
    have herr := s.dev.f_setF_fit .DEV_STATUS_ERROR 0 0 (by decide) (n := 0) (by decide)
    have hscl := s.dev.f_setF_ne_reg .DEV_STATUS_ERROR .SCL_STATUS_STATE 0 0 0 0 0 (by decide)
    generalize s.dev.setF .DEV_STATUS_ERROR 0 = a at *
    have hus := a.f_setF_fit .DEV_BOOT_MICROSECONDS 0 0 (by decide) us.isLt
    have herr' := (a.f_setF_ne_reg .DEV_BOOT_MICROSECONDS .DEV_STATUS_ERROR us.toNat 0 0 0 0 (by decide)).trans herr
    have hscl' := (a.f_setF_ne_reg .DEV_BOOT_MICROSECONDS .SCL_STATUS_STATE us.toNat 0 0 0 0 (by decide)).trans hscl
    generalize a.setF .DEV_BOOT_MICROSECONDS us.toNat = b at *
    have hst := b.stage_toStage (n := 8) (by decide)
    have herr'' := (b.toStage_status 8 (g := .DEV_STATUS_ERROR) rfl (by decide)).trans herr'
    have hus' := (b.toStage_f 8 (g := .DEV_BOOT_MICROSECONDS) 0 0 (by decide)).trans hus
    have hscl'' := (b.toStage_f 8 (g := .SCL_STATUS_STATE) 0 0 (by decide)).trans hscl'
    generalize b.toStage 8 = c at *
    have hopen := ({ c with link := { s.dev.link with up := true } } : Dev).openSession_spec
    obtain ⟨hregs, hlink, hlive⟩ := hopen
    have hf : ∀ g : Fld, ({ c with link := { s.dev.link with up := true } } : Dev).openSession.f g = c.f g := fun g =>
      congrArg (fun rs => g.of (SMap.get g.reg.dflt rs (g.reg.code 0 0))) hregs
    refine ⟨(hf .DEV_STATUS_STAGE).trans hst, (hf _).trans herr'', congrArg LinkSt.up hlink, (hf _).trans hus', fun hsealed => ?_⟩
    have h1 := (hf .SCL_STATUS_STATE).trans (hscl''.trans hsealed)
    have h2 := hlive (hscl''.trans hsealed)
    show (decide (Dev.f _ _ = 1) && _) = true
    simp only [Bool.and_eq_true, decide_eq_true_eq]
    exact ⟨h1, h2⟩
  · have hgo : s.dev.hostStage false us.toNat = s.dev.setF .DEV_STATUS_ERROR 0x60 := if_neg (by simp [hs])
    rw [hgo]
    exact ⟨(s.dev.f_setF_apart .DEV_STATUS_ERROR .DEV_STATUS_STAGE 0x60 0 0 rfl (by decide) (by decide)).trans (Dev.atStage_iff.mp hs).2.2,
      s.dev.f_setF_fit .DEV_STATUS_ERROR 0 0 (by decide) (by decide), (Dev.atStage_iff.mp hs).2.1⟩

end Sys2Proof.Machine
end

section
/-! PROOFS. Secure boot: VERIFY and FUSES (R309, R351, R353, R356 to R358). -/

namespace Sys2Proof.Machine

/-! ## Changes of named registers alone -/

/-- Only registers of a list have changed. -/
structure Dev.setsOnly (l : List Reg) (d e : Dev) : Prop where
  reg : ∀ r i j, r ∉ l → e.reg r i j = d.reg r i j
  rest : { e with regs := d.regs } = d

namespace Dev.setsOnly

variable {l : List Reg} {d m e : Dev}

theorem refl (l : List Reg) (d : Dev) : Dev.setsOnly l d d := ⟨fun _ _ _ _ => rfl, rfl⟩

theorem trans (h : Dev.setsOnly l d m) (h' : Dev.setsOnly l m e) : Dev.setsOnly l d e where
  reg r i j hr := (h'.reg r i j hr).trans (h.reg r i j hr)
  rest := (congrArg (fun x : Dev => { x with regs := d.regs }) h'.rest).trans h.rest

theorem setReg (h : Dev.setsOnly l d m) (r : Reg) (v : BitVec 64) (i j : Nat) (hr : r ∈ l) : Dev.setsOnly l d (m.setReg r v i j) where
  reg r' i' j' hr' := (m.reg_setReg_ne v i j i' j' (by rintro rfl; exact hr' hr)).trans (h.reg r' i' j' hr')
  rest := h.rest

theorem setF (h : Dev.setsOnly l d m) (f : Fld) (n i j : Nat) (hf : f.reg ∈ l) : Dev.setsOnly l d (m.setF f n i j) :=
  h.setReg f.reg _ i j hf

theorem foldl {α : Type} {g : Dev → α → Dev} (hg : ∀ (d : Dev) (a : α), Dev.setsOnly l d (g d a)) (as : List α)
    (h : Dev.setsOnly l d m) : Dev.setsOnly l d (as.foldl g m) := by
  induction as generalizing m with
  | nil => exact h
  | cons a as ih => exact ih (h.trans (hg m a))

theorem f (h : Dev.setsOnly l d e) (g : Fld) (i j : Nat) (hg : g.reg ∉ l) : e.f g i j = d.f g i j := congrArg g.of (h.reg g.reg i j hg)

theorem mono {l' : List Reg} (h : Dev.setsOnly l d e) (hl : l ⊆ l') : Dev.setsOnly l' d e :=
  ⟨fun r i j hr => h.reg r i j (fun hm => hr (hl hm)), h.rest⟩

theorem noteReasons (h : Dev.setsOnly l d m) (hr : .ERR_REPLACE ∈ l) : Dev.setsOnly l d m.noteReasons := by
  unfold Dev.noteReasons
  split
  · exact h
  · exact h.setF .ERR_REPLACE_REASON _ 0 0 hr

theorem noteShared (h : Dev.setsOnly l d m) (hr : .FAB_SHARED ∈ l) : Dev.setsOnly l d m.noteShared := by
  unfold Dev.noteShared
  dsimp only
  split
  · exact (h.setF .FAB_SHARED_FREE _ 0 0 hr).setF .FAB_SHARED_LOW _ 0 0 hr
  · exact h.setF .FAB_SHARED_FREE _ 0 0 hr

section
variable (h : Dev.setsOnly l d e)
include h

theorem link : e.link = d.link := (congrArg Dev.link h.rest :)
theorem boot : e.boot = d.boot := (congrArg Dev.boot h.rest :)
theorem fuses : e.fuses = d.fuses := (congrArg Dev.fuses h.rest :)
theorem arb : e.arb = d.arb := (congrArg Dev.arb h.rest :)
theorem cmds : e.cmds = d.cmds := (congrArg Dev.cmds h.rest :)
theorem mem : e.mem = d.mem := (congrArg Dev.mem h.rest :)

theorem count (hc : .RING_COUNT ∉ l) : e.count = d.count := congrArg BitVec.toNat (h.reg .RING_COUNT 0 0 hc)

end

end Dev.setsOnly

/-- The registers that show the arrays' states. -/
def arrayRegs : List Reg := [.MA_ARR_STATE, .MA_ENABLED, .MA_RETIRED, .MA_ARRAY_SUM, .ERR_REPLACE]

theorem Dev.setArrState_sets (d : Dev) (n st : Nat) : Dev.setsOnly arrayRegs d (d.setArrState n st) := by
  unfold Dev.setArrState
  refine Dev.setsOnly.noteReasons ?_ (by decide)
  exact ((((((Dev.setsOnly.refl _ d).setF _ _ _ _ (by decide)).setF _ _ _ _ (by decide)).setF _ _ _ _ (by decide)).setF _ _ _ _
    (by decide)).setF _ _ _ _ (by decide)).setF _ _ _ _ (by decide) |>.setF _ _ _ _ (by decide)

/-! ## VERIFY -/

/-- The number of a step of R353 that fails fits ERROR. -/
theorem Dev.fails_lt {d : Dev} {img : List Byte} {k : Nat} (h : (d.tornFails img).orElse (fun _ => d.imageFails img) = some k) :
    k < 256 := by
  have htorn : ∀ k, d.tornFails img = some k → k < 256 := by
    intro k hk
    unfold Dev.tornFails at hk
    split at hk
    · cases hk
    · dsimp only at hk
      split_ifs at hk <;> cases hk <;> decide
  have himg : ∀ k, d.imageFails img = some k → k < 256 := by
    intro k hk
    unfold Dev.imageFails at hk
    dsimp only at hk
    split_ifs at hk <;> cases hk <;> decide
  cases ht : d.tornFails img with
  | some x =>
    rw [ht] at h
    cases h
    exact htorn k ht
  | none =>
    rw [ht] at h
    exact himg k h

/-- An image that fails no step has a security version of at most 64. -/
theorem Dev.sec_le {d : Dev} {img : List Byte} (h : (d.tornFails img).orElse (fun _ => d.imageFails img) = none) :
    leAt img 6 1 ≤ 64 := by
  have himg : d.imageFails img = none := by
    cases ht : d.tornFails img with
    | some x => rw [ht] at h; cases h
    | none => rw [ht] at h; exact h
  unfold Dev.imageFails at himg
  dsimp only at himg
  split_ifs at himg
  rename_i hsec
  simp only [Bool.or_eq_true, decide_eq_true_eq, not_or, not_lt] at hsec
  exact hsec.1

/-- The region's registers, and FAULT_SEEN. -/
def regionRegs : List Reg := [.SCL_STATUS, .SCL_VERSION, .SCL_PERIOD, .SCL_NONCE, .ERR_STATUS]

/-- A region that fails its check leaves the Scaler UNSEALED, which is reported. -/
theorem Dev.unsealed_spec (d : Dev) : let e := (d.setF .SCL_STATUS_STATE 2).post .SCL_REGION_BAD
    (∀ r i j, r ∉ regionRegs → e.reg r i j = d.reg r i j) ∧ e.boot = d.boot ∧ e.fuses = d.fuses ∧
    e.f .SCL_STATUS_STATE = 2 ∧ d.posted e .SCL_REGION_BAD (fun _ => True) := by
  have h := (Dev.setsOnly.refl regionRegs d).setF .SCL_STATUS_STATE 2 0 0 (by decide)
  have hst := d.f_setF_fit .SCL_STATUS_STATE 0 0 (by decide) (n := 2) (by decide)
  dsimp only
  generalize d.setF .SCL_STATUS_STATE 2 = m at *
  refine ⟨fun r i j hr => ?_, (Dev.post_boot ..).trans h.boot, (Dev.post_fuses ..).trans h.fuses,
    (m.f_post _ _ _ _ _ 0 0 (by decide)).trans hst,
    Dev.posted_congr h.link (h.count (by decide)) rfl (m.post_posted_of _ _ _ _ _ trivial)⟩
  exact (m.reg_post _ _ _ _ _ i j (Reg.code_ne (by rintro rfl; exact hr (by decide)) _ _ _ _)).trans (h.reg r i j hr)

/-- A new nonce changes SCL_NONCE alone, and draws a free input. -/
theorem Dev.drawNonce_spec (d : Dev) : (∀ r i j, r ≠ .SCL_NONCE → d.drawNonce.reg r i j = d.reg r i j) ∧
    { d.drawNonce with regs := d.regs, free := d.free } = d := by
  have h : ∀ n : Nat, Dev.setsOnly [.SCL_NONCE] d.fresh.2
      ((List.range 4).foldl (fun d i => d.setReg .SCL_NONCE (BitVec.ofNat 64 (bits n (64 * i) 64)) i) d.fresh.2) := fun n =>
    Dev.setsOnly.foldl (fun d i => (Dev.setsOnly.refl _ d).setReg _ _ _ _ (by decide)) _ (.refl _ _)
  have hn : Dev.setsOnly [.SCL_NONCE] d.fresh.2 d.drawNonce := h (Config.random256 d.free).toNat
  exact ⟨fun r i j hr => hn.reg r i j (by simpa using hr), (congrArg (fun x : Dev => { x with free := d.free }) hn.rest :)⟩

/-- The registers of a good region. -/
def Dev.regionShown (d : Dev) (r : ScalerRegion) : Dev :=
  (((d.setF .SCL_STATUS_STATE 1).setF .SCL_VERSION_VERSION r.version.toNat).setF .SCL_VERSION_RULE r.rule.toNat).setReg .SCL_PERIOD r.period

theorem Dev.regionShown_spec (d : Dev) (r : ScalerRegion) :
    Dev.setsOnly regionRegs d (d.regionShown r) ∧ (d.regionShown r).f .SCL_STATUS_STATE = 1 := by
  refine ⟨((((Dev.setsOnly.refl _ d).setF _ _ _ _ (by decide)).setF _ _ _ _ (by decide)).setF _ _ _ _ (by decide)).setReg _ _ _ _
    (by decide), ?_⟩
  unfold Dev.regionShown
  rw [Dev.f, Dev.reg_setReg_ne _ _ _ _ _ _ (by decide), ← Dev.f, Dev.f_setF_ne_reg _ _ _ _ _ _ _ _ (by decide),
    Dev.f_setF_ne_reg _ _ _ _ _ _ _ _ (by decide)]
  exact d.f_setF_fit .SCL_STATUS_STATE 0 0 (by decide) (by decide)

/-- The Scaler holds a region's settings. -/
def Dev.regionHeld (d : Dev) (r : ScalerRegion) : Dev :=
  d.updScl (fun s => { s with region := some r, gain := r.gain, offset := r.offset, perGrant := r.perGrant })

/-- The settings of a good region hold, with a new nonce. -/
def Dev.sealed (d : Dev) (r : ScalerRegion) : Dev := ((d.regionShown r).regionHeld r).drawNonce

theorem Dev.sealed_spec (d : Dev) (r : ScalerRegion) :
    (∀ q i j, q ∉ regionRegs → (d.sealed r).reg q i j = d.reg q i j) ∧ (d.sealed r).boot = d.boot ∧ (d.sealed r).fuses = d.fuses ∧
    (d.sealed r).f .SCL_STATUS_STATE = 1 ∧ (d.sealed r).link = d.link := by
  obtain ⟨hshown, hst⟩ := d.regionShown_spec r
  unfold Dev.sealed
  generalize d.regionShown r = a at *
  have hheld : (a.regionHeld r).regs = a.regs ∧ (a.regionHeld r).boot = a.boot ∧ (a.regionHeld r).fuses = a.fuses ∧
      (a.regionHeld r).link = a.link :=
    ⟨Dev.updScl_regs .., Dev.updScl_boot .., Dev.updScl_fuses .., Dev.updScl_link ..⟩
  generalize a.regionHeld r = b at *
  obtain ⟨hregs, hboot, hfuses, hlink⟩ := hheld
  have hb : ∀ q i j, b.reg q i j = a.reg q i j := fun q i j => congrArg (fun rs => SMap.get q.dflt rs (q.code i j)) hregs
  obtain ⟨hreg, hrest⟩ := b.drawNonce_spec
  generalize b.drawNonce = e at *
  exact ⟨fun q i j hq => (hreg q i j (by rintro rfl; exact hq (by decide))).trans ((hb q i j).trans (hshown.reg q i j hq)),
    (congrArg Dev.boot hrest :).trans (hboot.trans hshown.boot), (congrArg Dev.fuses hrest :).trans (hfuses.trans hshown.fuses),
    (congrArg (Fld.of _) ((hreg .SCL_STATUS 0 0 (by decide)).trans (hb _ _ _))).trans hst,
    (congrArg Dev.link hrest :).trans (hlink.trans hshown.link)⟩

/-- The Scaler's check of its region: sealed with a good one, otherwise UNSEALED and reported (R351). -/
theorem Dev.verifyRegion_spec (d : Dev) (region : Option ScalerRegion) :
    let e := d.verifyRegion region
    let good := region.any d.regionOk && !d.flash.regionTorn
    (∀ r i j, r ∉ regionRegs → e.reg r i j = d.reg r i j) ∧ e.boot = d.boot ∧ e.fuses = d.fuses ∧
    (good = false → e.f .SCL_STATUS_STATE = 2 ∧ d.posted e .SCL_REGION_BAD (fun _ => True)) ∧
    (good = true → e.f .SCL_STATUS_STATE = 1 ∧ e.link = d.link) := by
  have hbad : ∀ m : Dev, m.regs = d.regs → m.boot = d.boot → m.fuses = d.fuses → m.link = d.link →
      let e := (m.setF .SCL_STATUS_STATE 2).post .SCL_REGION_BAD
      (∀ r i j, r ∉ regionRegs → e.reg r i j = d.reg r i j) ∧ e.boot = d.boot ∧ e.fuses = d.fuses ∧
      e.f .SCL_STATUS_STATE = 2 ∧ d.posted e .SCL_REGION_BAD (fun _ => True) := by
    intro m hregs hboot hfuses hlink
    have hreg : ∀ r i j, m.reg r i j = d.reg r i j := fun r i j => congrArg (fun rs => SMap.get r.dflt rs (r.code i j)) hregs
    obtain ⟨h1, h2, h3, h4, h5⟩ := m.unsealed_spec
    exact ⟨fun r i j hr => (h1 r i j hr).trans (hreg r i j), h2.trans hboot, h3.trans hfuses, h4,
      Dev.posted_congr hlink (congrArg BitVec.toNat (hreg .RING_COUNT 0 0)) rfl h5⟩
  unfold Dev.verifyRegion
  cases region with
  | none =>
    obtain ⟨h1, h2, h3, h4, h5⟩ := hbad { d with flash := { d.flash with regionTorn := false } } rfl rfl rfl rfl
    exact ⟨h1, h2, h3, fun _ => ⟨h4, h5⟩, fun h => absurd h (by simp)⟩
  | some r =>
    dsimp only [Option.any_some]
    split
    · rename_i hok
      obtain ⟨h1, h2, h3, h4, h5⟩ := ({ d with flash := { d.flash with regionTorn := false } } : Dev).sealed_spec r
      refine ⟨h1, h2, h3, fun hc => absurd hok ?_, fun _ => ⟨h4, h5⟩⟩
      rw [Bool.and_comm] at hc
      exact Bool.eq_false_iff.mp hc
    · rename_i hno
      obtain ⟨h1, h2, h3, h4, h5⟩ := hbad { d with flash := { d.flash with regionTorn := false } } rfl rfl rfl rfl
      refine ⟨h1, h2, h3, fun _ => ⟨h4, h5⟩, fun hc => absurd ?_ hno⟩
      rw [Bool.and_comm] at hc
      exact hc

/-- The device that has accepted an image: its rollback counter, its span and digest, and its versions shown. -/
def Dev.imageHeld (d : Dev) (img : List Byte) : Dev :=
  (((({ d with
    flash := { d.flash with torn := none }
    fuses := { d.fuses with rollback := if bit (leAt img 7 1) 0 then max (leAt img 6 1) d.fuses.rollback else d.fuses.rollback } } : Dev).updBoot
      (fun b => { b with image := img.take (imageSpan img), digest := sha512 (img.take (imageSpan img)) })).setF
      .DEV_IMAGE_IMAGE_VERSION (leAt img 16 4)).setF .DEV_IMAGE_SEC_VERSION (leAt img 6 1)).setF .DEV_IMAGE_OWNER_SIGNED
        (b2n (bit (leAt img 7 1) 1))

/-- A step that fails halts start-up in stage 1, and nothing of the image is kept. -/
theorem Dev.verify_fails {d : Dev} {img : List Byte} {k : Nat} (region : Option ScalerRegion) (hs : d.atStage 1 = true)
    (h : (d.tornFails img).orElse (fun _ => d.imageFails img) = some k) :
    d.verify img region = (({ d with flash := { d.flash with torn := none } } : Dev).halt k).updBoot (fun b => { b with bootByte := k }) := by
  unfold Dev.verify
  rw [if_neg (by simp [hs])]
  dsimp only
  rw [h]

theorem Dev.verify_passes {d : Dev} {img : List Byte} (region : Option ScalerRegion) (hs : d.atStage 1 = true)
    (h : (d.tornFails img).orElse (fun _ => d.imageFails img) = none) :
    d.verify img region = ((d.imageHeld img).verifyRegion region).toStage 2 := by
  unfold Dev.verify
  rw [if_neg (by simp [hs])]
  dsimp only
  rw [h]
  rfl

/-- An accepted image shows its versions in DEV_IMAGE, and no other register changes. -/
theorem Dev.imageHeld_spec (d : Dev) {img : List Byte} (h : leAt img 6 1 ≤ 64) :
    (d.imageHeld img).f .DEV_IMAGE_SEC_VERSION = leAt img 6 1 ∧
    (d.imageHeld img).f .DEV_IMAGE_IMAGE_VERSION = leAt img 16 4 % 2 ^ Fld.DEV_IMAGE_IMAGE_VERSION.width ∧
    (∀ r i j, r ≠ .DEV_IMAGE → (d.imageHeld img).reg r i j = d.reg r i j) := by
  unfold Dev.imageHeld
  generalize hm : Dev.updBoot _ _ = m
  have hreg : ∀ r i j, m.reg r i j = d.reg r i j := by
    intro r i j
    rw [← hm]
    rfl
  have h1 := (Dev.setsOnly.refl [.DEV_IMAGE] m).setF .DEV_IMAGE_IMAGE_VERSION (leAt img 16 4) 0 0 (by decide)
  have hv := m.f_setF_same .DEV_IMAGE_IMAGE_VERSION (leAt img 16 4) 0 0 (by decide)
  generalize m.setF .DEV_IMAGE_IMAGE_VERSION (leAt img 16 4) = a at *
  have h2 := h1.setF .DEV_IMAGE_SEC_VERSION (leAt img 6 1) 0 0 (by decide)
  have hv2 := (a.f_setF_apart .DEV_IMAGE_SEC_VERSION .DEV_IMAGE_IMAGE_VERSION (leAt img 6 1) 0 0 rfl (by decide) (by decide)).trans hv
  have hs := a.f_setF_fit .DEV_IMAGE_SEC_VERSION 0 0 (by decide) (n := leAt img 6 1) (h.trans_lt (by decide))
  generalize a.setF .DEV_IMAGE_SEC_VERSION (leAt img 6 1) = b at *
  refine ⟨(b.f_setF_apart .DEV_IMAGE_OWNER_SIGNED .DEV_IMAGE_SEC_VERSION _ 0 0 rfl (by decide) (by decide)).trans hs,
    (b.f_setF_apart .DEV_IMAGE_OWNER_SIGNED .DEV_IMAGE_IMAGE_VERSION _ 0 0 rfl (by decide) (by decide)).trans hv2, fun r i j hr => ?_⟩
  exact ((h2.setF .DEV_IMAGE_OWNER_SIGNED _ 0 0 (by decide)).reg r i j (by simpa using hr)).trans (hreg r i j)

/-- What an accepted image leaves beside its registers. -/
theorem Dev.imageHeld_rest (d : Dev) (img : List Byte) : (d.imageHeld img).boot.image = img.take (leAt img 8 4) ∧
    (d.imageHeld img).boot.digest = sha512 (img.take (leAt img 8 4)) ∧ (d.imageHeld img).fuses = { d.fuses with
      rollback := if bit (leAt img 7 1) 0 then max (leAt img 6 1) d.fuses.rollback else d.fuses.rollback } ∧
    (d.imageHeld img).link = d.link ∧ (d.imageHeld img).regionOk = d.regionOk ∧
    (d.imageHeld img).flash.regionTorn = d.flash.regionTorn := by
  have hmet : (d.imageHeld img).fuses.metHash = d.fuses.metHash := by simp [Dev.imageHeld]
  refine ⟨by simp [Dev.imageHeld, imageSpan], by simp [Dev.imageHeld, imageSpan], by simp [Dev.imageHeld], by simp [Dev.imageHeld],
    funext fun r => ?_, by simp [Dev.imageHeld]⟩
  unfold Dev.regionOk
  rw [hmet]

/-- The stage passed keeps what the device shows beside it. -/
theorem Dev.passed_spec (e : Dev) : (e.toStage 2).settle.stage = 2 ∧ (e.toStage 2).settle.boot = e.boot ∧
    (e.toStage 2).settle.fuses = e.fuses ∧ (e.toStage 2).settle.link = e.link ∧
    ∀ g : Fld, g.reg ≠ .DEV_STATUS → (e.toStage 2).settle.f g = e.f g :=
  ⟨e.stage_toStage (by decide), rfl, rfl, rfl, fun _ hg => e.toStage_f 2 0 0 hg⟩

/-- An image that passes every step: what the device then holds and shows (R353, R351). -/
theorem Dev.verified_spec (d : Dev) {img : List Byte} (region : Option ScalerRegion)
    (h : (d.tornFails img).orElse (fun _ => d.imageFails img) = none) :
    let e := (((d.imageHeld img).verifyRegion region).toStage 2).settle
    let good := region.any d.regionOk && !d.flash.regionTorn
    e.stage = 2 ∧ e.boot.image = img.take (leAt img 8 4) ∧ e.boot.digest = sha512 (img.take (leAt img 8 4)) ∧
    e.f .DEV_IMAGE_SEC_VERSION = leAt img 6 1 ∧ e.f .DEV_IMAGE_IMAGE_VERSION = leAt img 16 4 % 2 ^ Fld.DEV_IMAGE_IMAGE_VERSION.width ∧
    e.fuses = { d.fuses with
      rollback := if bit (leAt img 7 1) 0 then max (leAt img 6 1) d.fuses.rollback else d.fuses.rollback } ∧
    (good = false → e.f .SCL_STATUS_STATE = 2 ∧ d.posted e .SCL_REGION_BAD (fun _ => True)) ∧
    (good = true → e.f .SCL_STATUS_STATE = 1 ∧ e.link = d.link) := by
  obtain ⟨hsec, hver, hregs⟩ := d.imageHeld_spec (Dev.sec_le h)
  obtain ⟨hi, hd, hfu, hl, hok, htorn⟩ := d.imageHeld_rest img
  obtain ⟨vregs, vboot, vfuses, vbad, vgood⟩ := (d.imageHeld img).verifyRegion_spec region
  have hcount : (d.imageHeld img).count = d.count := congrArg BitVec.toNat (hregs .RING_COUNT 0 0 (by decide))
  rw [hok, htorn] at vbad vgood
  obtain ⟨pst, pboot, pfuses, plink, pf⟩ := ((d.imageHeld img).verifyRegion region).passed_spec
  refine ⟨pst, (congrArg Boot.image (pboot.trans vboot)).trans hi, (congrArg Boot.digest (pboot.trans vboot)).trans hd,
    (pf _ (by decide)).trans ((congrArg (Fld.of _) (vregs .DEV_IMAGE 0 0 (by decide))).trans hsec),
    (pf _ (by decide)).trans ((congrArg (Fld.of _) (vregs .DEV_IMAGE 0 0 (by decide))).trans hver), pfuses.trans (vfuses.trans hfu),
    fun hb => ⟨(pf _ (by decide)).trans (vbad hb).1, Dev.posted_congr hl hcount plink (vbad hb).2⟩,
    fun hg => ⟨(pf _ (by decide)).trans (vgood hg).1, plink.trans ((vgood hg).2.trans hl)⟩⟩

/-- What a halted device shows once its balls have settled. -/
theorem Dev.halt_settled (d : Dev) {err : Nat} (h : err < 256) :
    (d.halt err).settle.boot.halted = true ∧ (d.halt err).settle.stage = d.stage ∧ (d.halt err).settle.f .DEV_STATUS_ERROR = err := by
  obtain ⟨h1, h2, h3, -⟩ := d.halt_spec h
  exact ⟨h1, h3, h2⟩

/-! ## FUSES -/

/-- The registers that the fuses are shown in. -/
def fuseRegs : List Reg := [.SEC_ID, .MA_TESTED, .DEV_FINGERPRINT, .SCL_SEAL, .FAB_NODE] ++ arrayRegs

/-- The fuses shown in their registers. -/
def Dev.fusesShown (d : Dev) : Dev :=
  let d := d.setF .SEC_ID_SERIAL d.fuses.serial
  let d := (List.range 5).foldl (fun d i =>
    d.setReg .MA_TESTED (BitVec.ofNat 64 (ofBitList (((d.fuses.tested.filter (fun n => n / 32 == i)).map (· % 32))))) i) d
  let d := (List.range 152).foldl (fun d n => (d.setF .MA_ARR_STATE_SKIDDER (n / 8) n).setF .MA_ARR_STATE_STATE
    (d.fuses.factory.getD n 2) n) d
  let d := (List.range 152).foldl (fun d n => d.setArrState n (d.arrState n)) d
  let d := ((d.setF .DEV_FINGERPRINT_STEPPING d.fuses.stepping).setF .DEV_FINGERPRINT_GRADE d.fuses.grade).setF
    .DEV_FINGERPRINT_SRGEN d.fuses.srgen
  (d.setF .SCL_SEAL_COUNT d.fuses.seals).setF .FAB_NODE_NODE d.boot.slotId

theorem Dev.readFuses_eq (d : Dev) :
    d.readFuses = d.fusesShown.updBoot (fun b => { b with vdd := max 680 (min 800 d.fusesShown.fuses.vddTarget) }) := rfl

theorem Dev.fusesShown_sets (d : Dev) : Dev.setsOnly fuseRegs d d.fusesShown := by
  have harr : arrayRegs ⊆ fuseRegs := List.subset_append_right ..
  have hfac : ∀ (d : Dev) (n : Nat), Dev.setsOnly fuseRegs d ((d.setF .MA_ARR_STATE_SKIDDER (n / 8) n).setF .MA_ARR_STATE_STATE
      (d.fuses.factory.getD n 2) n) := fun d n =>
    ((Dev.setsOnly.refl _ d).setF .MA_ARR_STATE_SKIDDER _ _ _ (by decide)).setF .MA_ARR_STATE_STATE _ _ _ (by decide)
  unfold Dev.fusesShown
  refine Dev.setsOnly.setF (.setF (.setF (.setF (.setF ?_ .DEV_FINGERPRINT_STEPPING _ _ _ (by decide)) .DEV_FINGERPRINT_GRADE _ _ _
    (by decide)) .DEV_FINGERPRINT_SRGEN _ _ _ (by decide)) .SCL_SEAL_COUNT _ _ _ (by decide)) .FAB_NODE_NODE _ _ _ (by decide)
  refine Dev.setsOnly.foldl (fun d n => (d.setArrState_sets n _).mono harr) _ (Dev.setsOnly.foldl hfac _ ?_)
  exact Dev.setsOnly.foldl (fun d i => (Dev.setsOnly.refl _ d).setReg .MA_TESTED _ _ _ (by decide)) _
    ((Dev.setsOnly.refl _ d).setF .SEC_ID_SERIAL _ _ _ (by decide))

/-- A target for VDD_CORE changes neither the stage nor the image held. -/
theorem Dev.setVdd_spec (d : Dev) (v : Nat) :
    (d.updBoot (fun b => { b with vdd := v })).stage = d.stage ∧ (d.updBoot (fun b => { b with vdd := v })).boot.image = d.boot.image :=
  ⟨rfl, rfl⟩

/-- The fuses are read into their registers; the image that the device holds and its stage stay. -/
theorem Dev.readFuses_spec (d : Dev) : d.readFuses.stage = d.stage ∧ d.readFuses.boot.image = d.boot.image := by
  have h := d.fusesShown_sets
  obtain ⟨hstage, himage⟩ := d.fusesShown.setVdd_spec (max 680 (min 800 d.fusesShown.fuses.vddTarget))
  rw [Dev.readFuses_eq]
  exact ⟨hstage.trans (h.f .DEV_STATUS_STAGE 0 0 (by decide)), himage.trans (congrArg Boot.image h.boot)⟩

/-- The settled state after FUSES, from what the image's sections leave. -/
def Dev.fused (x : Dev) : Dev :=
  (((((List.range 8).foldl Dev.lndPlace x).setF .FAB_SHARED_LOW ((List.range 8).foldl Dev.lndPlace x).sharedFree).noteShared.reseed.checkNode.toStage 3).noteReasons)

theorem Dev.fuseStage_eq {d x : Dev} (hs : d.atStage 2 = true) (hok : sectionsOk d.readFuses.boot.image = true)
    (h : d.readFuses.applySections d.readFuses.boot.image (imageSections d.readFuses.boot.image) = some x) :
    d.fuseStage true = x.fused := by
  unfold Dev.fuseStage
  rw [if_neg (by simp [hs]), if_neg (by simp)]
  generalize d.readFuses = f at *
  refine (if_neg (by simp [hok])).trans ?_
  rw [h]
  rfl

/-- An image whose directory is not sound halts start-up (R357; log 32). -/
theorem Dev.fuseStage_unsound {d : Dev} (hs : d.atStage 2 = true) (hbad : sectionsOk d.readFuses.boot.image = false) :
    d.fuseStage true = d.readFuses.halt 0x20 := by
  unfold Dev.fuseStage
  rw [if_neg (by simp [hs]), if_neg (by simp)]
  generalize d.readFuses = f at *
  exact if_pos (by simp [hbad])

/-- An image with an entry that cannot be applied halts start-up (R358). -/
theorem Dev.fuseStage_refused {d : Dev} (hs : d.atStage 2 = true) (hok : sectionsOk d.readFuses.boot.image = true)
    (h : d.readFuses.applySections d.readFuses.boot.image (imageSections d.readFuses.boot.image) = none) :
    d.fuseStage true = d.readFuses.halt 0x20 := by
  unfold Dev.fuseStage
  rw [if_neg (by simp [hs]), if_neg (by simp)]
  generalize d.readFuses = f at *
  refine (if_neg (by simp [hok])).trans ?_
  rw [h]

/-- A Landing pool placed anew: its buffers but the retired are free, and no register but its own changes (R232). -/
theorem Dev.lndPlace_spec (d : Dev) (k : Nat) :
    (∀ r i j, r ∉ [Reg.TIER_LND_FREE, .ERR_LND_RETIRED] → (d.lndPlace k).reg r i j = d.reg r i j) ∧
    { d.lndPlace k with regs := d.regs, lnd := d.lnd } = d ∧
    ∀ k', (k' = k ∨ d.f .TIER_LND_FREE_FREE k' = d.f .TIER_LND_FREE_LOW k') →
      (d.lndPlace k).f .TIER_LND_FREE_FREE k' = (d.lndPlace k).f .TIER_LND_FREE_LOW k' := by
  have hshape : ∃ (m : Dev) (n : Nat), d.lndPlace k = (m.setF .TIER_LND_FREE_FREE n k).setF .TIER_LND_FREE_LOW n k ∧
      (∀ r i j, r ≠ .ERR_LND_RETIRED → m.reg r i j = d.reg r i j) ∧ { m with regs := d.regs, lnd := d.lnd } = d :=
    ⟨_, _, rfl, fun r i j hr => Dev.reg_setF_ne _ .ERR_LND_RETIRED_RETIRED r _ k 0 i j (Reg.code_ne hr _ _ _ _), rfl⟩
  obtain ⟨m, n, heq, hreg, hrest⟩ := hshape
  rw [heq]
  have hsets : Dev.setsOnly [.TIER_LND_FREE] m ((m.setF .TIER_LND_FREE_FREE n k).setF .TIER_LND_FREE_LOW n k) :=
    ((Dev.setsOnly.refl _ m).setF _ _ _ _ (by decide)).setF _ _ _ _ (by decide)
  refine ⟨fun r i j hr => ?_, (congrArg (fun x : Dev => { x with regs := d.regs, lnd := d.lnd }) hsets.rest).trans hrest, fun k' hk' => ?_⟩
  · simp only [List.mem_cons, List.not_mem_nil, or_false, not_or] at hr
    exact (hsets.reg r i j (by simpa using hr.1)).trans (hreg r i j hr.2)
  · by_cases hc : Reg.TIER_LND_FREE.code k' 0 = Reg.TIER_LND_FREE.code k 0
    · have hsame : ∀ (e : Dev) (g : Fld), g.reg = .TIER_LND_FREE → e.f g k' = e.f g k := fun e g hg => by
        unfold Dev.f Dev.reg
        rw [hg, hc]
      rw [hsame _ _ rfl, hsame _ _ rfl, Dev.f_setF_same _ .TIER_LND_FREE_LOW n k 0 (by decide),
        Dev.f_setF_apart _ .TIER_LND_FREE_LOW .TIER_LND_FREE_FREE n k 0 rfl (by decide) (by decide),
        Dev.f_setF_same _ .TIER_LND_FREE_FREE n k 0 (by decide)]
    · have hother : ∀ g : Fld, g.reg = .TIER_LND_FREE →
          ((m.setF .TIER_LND_FREE_FREE n k).setF .TIER_LND_FREE_LOW n k).f g k' = d.f g k' := fun g hg => by
        rw [Dev.f_setF_ne_code _ _ g _ _ _ _ _ (by rw [hg]; exact hc), Dev.f_setF_ne_code _ _ g _ _ _ _ _ (by rw [hg]; exact hc)]
        exact congrArg g.of (hreg g.reg k' 0 (by rw [hg]; decide))
      rw [hother _ rfl, hother _ rfl]
      exact hk'.resolve_left (fun h => hc (by rw [h]))

/-- Every pool placed anew. -/
theorem Dev.lndPlace_all (l : List Nat) (d : Dev) :
    (∀ r i j, r ∉ [Reg.TIER_LND_FREE, .ERR_LND_RETIRED] → (l.foldl Dev.lndPlace d).reg r i j = d.reg r i j) ∧
    (l.foldl Dev.lndPlace d).boot = d.boot ∧
    ∀ k, (k ∈ l ∨ d.f .TIER_LND_FREE_FREE k = d.f .TIER_LND_FREE_LOW k) →
      (l.foldl Dev.lndPlace d).f .TIER_LND_FREE_FREE k = (l.foldl Dev.lndPlace d).f .TIER_LND_FREE_LOW k := by
  induction l generalizing d with
  | nil => exact ⟨fun _ _ _ _ => rfl, rfl, fun k hk => by simpa using hk⟩
  | cons a l ih =>
    obtain ⟨hreg, hrest, hfree⟩ := d.lndPlace_spec a
    obtain ⟨ireg, iboot, ifree⟩ := ih (d.lndPlace a)
    refine ⟨fun r i j hr => (ireg r i j hr).trans (hreg r i j hr), iboot.trans (congrArg Dev.boot hrest :), fun k hk => ifree k ?_⟩
    by_cases hkl : k ∈ l
    · exact .inl hkl
    · exact .inr (hfree k (by simpa [hkl] using hk))

/-- The node's address checked: FAB_NODE, and a report where it is bad for the first time. -/
theorem Dev.checkNode_spec (d : Dev) : (∀ r i j, r ∉ [Reg.FAB_NODE, .ERR_STATUS] → d.checkNode.reg r i j = d.reg r i j) ∧
    d.checkNode.arb = d.arb ∧ d.checkNode.boot = d.boot := by
  unfold Dev.checkNode
  dsimp only
  have hset : ∀ n, Dev.setsOnly [.FAB_NODE] d (d.setF .FAB_NODE_INVALID n) := fun n => (Dev.setsOnly.refl _ d).setF _ _ _ _ (by decide)
  split
  · refine ⟨fun r i j hr => ?_, (Dev.post_arb ..).trans (hset _).arb, (Dev.post_boot ..).trans (hset _).boot⟩
    simp only [List.mem_cons, List.not_mem_nil, or_false, not_or] at hr
    exact (Dev.reg_post _ _ _ _ _ _ i j (Reg.code_ne hr.2 _ _ _ _)).trans ((hset _).reg r i j (by simpa using hr.1))
  · refine ⟨fun r i j hr => ?_, (hset _).arb, (hset _).boot⟩
    simp only [List.mem_cons, List.not_mem_nil, or_false, not_or] at hr
    exact (hset _).reg r i j (by simpa using hr.1)

/-- The state after FUSES: stage 3, the LFSRs at the seed, the pools placed, and the image's registers as its sections leave them. -/
theorem Dev.fused_spec (x : Dev) :
    x.fused.stage = 3 ∧ x.fused.arb.seed = x.fused.f .ARB_SEED_SEED ∧ (∀ a, x.fused.lfsr a = lfsrLoad (x.fused.f .ARB_SEED_SEED) a) ∧
    x.fused.boot = x.boot ∧ (∀ k < 8, x.fused.f .TIER_LND_FREE_FREE k = x.fused.f .TIER_LND_FREE_LOW k) ∧
    ∀ r i j, r ∉ [Reg.DEV_STATUS, .FAB_NODE, .ERR_REPLACE, .ERR_STATUS, .TIER_LND_FREE, .ERR_LND_RETIRED, .FAB_SHARED] →
      x.fused.reg r i j = x.reg r i j := by
  obtain ⟨preg, pboot, pfree⟩ := Dev.lndPlace_all (List.range 8) x
  unfold Dev.fused
  generalize (List.range 8).foldl Dev.lndPlace x = p at *
  have hshared : Dev.setsOnly [.FAB_SHARED] p (p.setF .FAB_SHARED_LOW p.sharedFree).noteShared :=
    ((Dev.setsOnly.refl _ p).setF _ _ _ _ (by decide)).noteShared (by decide)
  generalize (p.setF .FAB_SHARED_LOW p.sharedFree).noteShared = q at *
  obtain ⟨creg, carb, cboot⟩ := q.reseed.checkNode_spec
  have hseed : q.reseed.checkNode.arb.seed = q.f .ARB_SEED_SEED ∧ q.reseed.checkNode.arb.lfsr = [] ∧ q.reseed.checkNode.boot = q.boot :=
    ⟨congrArg ArbSt.seed carb, congrArg ArbSt.lfsr carb, cboot⟩
  have creg' : ∀ r i j, r ∉ [Reg.FAB_NODE, .ERR_STATUS] → q.reseed.checkNode.reg r i j = q.reg r i j := creg
  generalize q.reseed.checkNode = c at *
  have hlast : Dev.setsOnly [.DEV_STATUS, .ERR_REPLACE] c (c.toStage 3).noteReasons :=
    ((Dev.setsOnly.refl _ c).setF .DEV_STATUS_STAGE 3 0 0 (by decide)).noteReasons (by decide)
  have hstage : (c.toStage 3).noteReasons.stage = 3 := by
    have h : Dev.setsOnly [.ERR_REPLACE] (c.toStage 3) (c.toStage 3).noteReasons := (Dev.setsOnly.refl _ _).noteReasons (by decide)
    exact (h.f .DEV_STATUS_STAGE 0 0 (by decide)).trans (c.stage_toStage (by decide))
  generalize (c.toStage 3).noteReasons = e at *
  obtain ⟨hs, hl, hb⟩ := hseed
  have hall : ∀ r i j, r ∉ [Reg.DEV_STATUS, .ERR_REPLACE] → r ∉ [Reg.FAB_NODE, .ERR_STATUS] → r ∉ [Reg.FAB_SHARED] →
      e.reg r i j = p.reg r i j := fun r i j h1 h2 h3 =>
    (hlast.reg r i j h1).trans ((creg' r i j h2).trans (hshared.reg r i j h3))
  have hseed' : e.f .ARB_SEED_SEED = q.f .ARB_SEED_SEED :=
    congrArg (Fld.of _) ((hlast.reg .ARB_SEED 0 0 (by decide)).trans (creg' .ARB_SEED 0 0 (by decide)))
  have harb := hlast.arb
  refine ⟨hstage, ?_, fun a => ?_, hlast.boot.trans (hb.trans (hshared.boot.trans pboot)), fun k hk => ?_, fun r i j hr => ?_⟩
  · rw [harb, hs, hseed']
  · unfold Dev.lfsr
    rw [harb, hl, hs, hseed']
    rfl
  · have hf : ∀ g : Fld, g.reg = .TIER_LND_FREE → e.f g k = p.f g k := fun g hg =>
      congrArg g.of (hall g.reg k 0 (by rw [hg]; decide) (by rw [hg]; decide) (by rw [hg]; decide))
    rw [hf _ rfl, hf _ rfl]
    exact pfree k (.inl (List.mem_range.mpr hk))
  · simp only [List.mem_cons, List.not_mem_nil, or_false, not_or] at hr
    obtain ⟨h1, h2, h3, h4, h5, h6, h7⟩ := hr
    exact (hall r i j (by simp [h1, h3]) (by simp [h2, h4]) (by simp [h7])).trans (preg r i j (by simp [h5, h6]))

/-- Settles O29: VERIFY by the step that fails or the image held, FUSES by what is shown and what the sections leave. -/
theorem secureBoot : Obligations.SecureBoot := by
  unfold Obligations.SecureBoot
  intro s
  refine ⟨fun hs img region => ⟨fun k hk => Completes.of_act (g := fun d => d.verify img region) rfl ?_,
    fun hk => Completes.of_act (g := fun d => d.verify img region) rfl ?_⟩,
    fun hs => ⟨Completes.of_act (g := fun d => d.fuseStage false) rfl ?_,
      fun hbad => Completes.of_act (g := fun d => d.fuseStage true) rfl ?_,
      fun hok hnone => Completes.of_act (g := fun d => d.fuseStage true) rfl ?_,
      fun x hok hx => Completes.of_act (g := fun d => d.fuseStage true) rfl ?_⟩⟩
  · rw [Dev.verify_fails region hs hk]
    obtain ⟨h1, h2, h3, h4⟩ := ({ s.dev with flash := { s.dev.flash with torn := none } } : Dev).halt_spec (Dev.fails_lt hk)
    exact ⟨h1, h3.trans (Dev.atStage_iff.mp hs).2.2, h2, rfl, rfl, h4⟩
  · rw [Dev.verify_passes region hs hk]
    exact s.dev.verified_spec region hk
  · have hgo : s.dev.fuseStage false = s.dev.halt 0x28 := if_neg (by simp [hs])
    obtain ⟨h1, h2, h3⟩ := s.dev.halt_settled (err := 0x28) (by decide)
    rw [hgo]
    exact ⟨h1, h2.trans (Dev.atStage_iff.mp hs).2.2, h3⟩
  · obtain ⟨hst, himg⟩ := s.dev.readFuses_spec
    have hgo : s.dev.fuseStage true = s.dev.readFuses.halt 0x20 := Dev.fuseStage_unsound hs (by rw [himg]; exact hbad)
    obtain ⟨h1, h2, h3⟩ := s.dev.readFuses.halt_settled (err := 0x20) (by decide)
    rw [hgo]
    exact ⟨h1, h2.trans (hst.trans (Dev.atStage_iff.mp hs).2.2), h3⟩
  · obtain ⟨hst, himg⟩ := s.dev.readFuses_spec
    have hgo : s.dev.fuseStage true = s.dev.readFuses.halt 0x20 :=
      Dev.fuseStage_refused hs (by rw [himg]; exact hok) (by rw [himg]; exact hnone)
    obtain ⟨h1, h2, h3⟩ := s.dev.readFuses.halt_settled (err := 0x20) (by decide)
    rw [hgo]
    exact ⟨h1, h2.trans (hst.trans (Dev.atStage_iff.mp hs).2.2), h3⟩
  · obtain ⟨hst, himg⟩ := s.dev.readFuses_spec
    rw [Dev.fuseStage_eq hs (by rw [himg]; exact hok) (by rw [himg]; exact hx)]
    exact x.fused_spec

end Sys2Proof.Machine
end

section
/-! PROOFS. A link that goes down or starts training, and the warm reset (R251, R256, R363, R364). -/

namespace Sys2Proof.Machine

/-! ## What a link's loss reaches -/

/-- Beside the registers of a list only the Switch Core, the links' delays and reports have changed: records held stay, and the
host link is up as it was. -/
structure Dev.linkMoves (l : List Reg) (d e : Dev) : Prop where
  reg : ∀ r i j, r ∉ l → e.reg r i j = d.reg r i j
  rest : { e with regs := d.regs, fab := d.fab, link := d.link, err := d.err, ring := { e.ring with delay := d.ring.delay } } = d
  up : e.link.up = d.link.up
  grows : d.heldGrows e

/-- The registers that a link's loss reaches beside its own status. -/
def lossRegs : List Reg := .FAB_LINK_ERR :: .FAB_LINK_FLUSH :: .ERR_REPLACE :: switchRegs

namespace Dev.linkMoves

variable {l : List Reg} {d m e : Dev}

theorem refl (l : List Reg) (d : Dev) : Dev.linkMoves l d d := ⟨fun _ _ _ _ => rfl, rfl, rfl, .of_link rfl⟩

theorem trans (h : Dev.linkMoves l d m) (h' : Dev.linkMoves l m e) : Dev.linkMoves l d e where
  reg r i j hr := (h'.reg r i j hr).trans (h.reg r i j hr)
  rest := (congrArg (fun x : Dev => { x with
    regs := d.regs, fab := d.fab, link := d.link, err := d.err, ring := { x.ring with delay := d.ring.delay } }) h'.rest).trans h.rest
  up := h'.up.trans h.up
  grows := h.grows.trans h'.grows

theorem mono {l' : List Reg} (h : Dev.linkMoves l d e) (hl : l ⊆ l') : Dev.linkMoves l' d e :=
  ⟨fun r i j hr => h.reg r i j (fun hm => hr (hl hm)), h.rest, h.up, h.grows⟩

theorem foldl {α : Type} {g : Dev → α → Dev} (hg : ∀ (d : Dev) (a : α), Dev.linkMoves l d (g d a)) (as : List α) (d : Dev) :
    Dev.linkMoves l d (as.foldl g d) := by
  induction as generalizing d with
  | nil => exact refl l d
  | cons a as ih => exact (hg d a).trans (ih _)

theorem setF (d : Dev) (f : Fld) (n i j : Nat) (hf : f.reg ∈ l) : Dev.linkMoves l d (d.setF f n i j) where
  reg r i' j' hr := d.reg_setF_ne f r n i j i' j' (Reg.code_ne (r := r) (by rintro rfl; exact hr hf) _ _ _ _)
  rest := rfl
  up := rfl
  grows := .of_link rfl

theorem addF (d : Dev) (f : Fld) (n i j : Nat) (hf : f.reg ∈ l) : Dev.linkMoves l d (d.addF f n i j) := setF d f _ i j hf

theorem updFab (d : Dev) (g : FabSt → FabSt) : Dev.linkMoves l d (d.updFab g) := ⟨fun _ _ _ _ => rfl, rfl, rfl, .of_link rfl⟩

theorem setErr (d : Dev) (x : ErrSt) : Dev.linkMoves l d { d with err := x } := ⟨fun _ _ _ _ => rfl, rfl, rfl, .of_link rfl⟩

theorem setDelay (d : Dev) (x : SMap Nat) : Dev.linkMoves l d { d with ring := { d.ring with delay := x } } :=
  ⟨fun _ _ _ _ => rfl, rfl, rfl, .of_link rfl⟩

/-- Moves of slots. -/
theorem of_slots (h : d.slotsMove e) (hl : switchRegs ⊆ l) : Dev.linkMoves l d e where
  reg r i j hr := h.reg r i j (fun hm => hr (hl hm))
  rest := congrArg (fun x : Dev => { x with
    link := d.link, err := d.err, ring := { x.ring with delay := d.ring.delay } }) h.rest
  up := by rw [h.link]
  grows := .of_link h.link

/-- Moves of slots with reports, where the host link is up as it was. -/
theorem of_switch (h : d.switchMoves e) (hl : switchRegs ⊆ l) (hup : e.link.up = d.link.up) (hgrows : d.heldGrows e) :
    Dev.linkMoves l d e where
  reg r i j hr := h.reg r i j (fun hm => hr (hl hm))
  rest := congrArg (fun x : Dev => { x with ring := { x.ring with delay := d.ring.delay } }) h.rest
  up := hup
  grows := hgrows

theorem post (d : Dev) (c : Code) (addr index : Nat) (who : Who) (n : Nat) (hl : switchRegs ⊆ l) :
    Dev.linkMoves l d (d.post c addr index who n) :=
  of_switch (.post d c addr index who n) hl (by rw [Dev.post_link]) (.post d c addr index who n)

theorem pump (d : Dev) (hl : switchRegs ⊆ l) : Dev.linkMoves l d d.pump :=
  of_switch (.pump d) hl (congrArg Kept.up d.pump_kept) (.pump d)

theorem rateEvent (d : Dev) (kind item n : Nat) (hl : switchRegs ⊆ l) (hr : .ERR_REPLACE ∈ l) :
    Dev.linkMoves l d (d.rateEvent kind item n) := by
  unfold Dev.rateEvent
  dsimp only
  split
  · exact (((setErr d _).trans (setErr _ _)).trans (setF _ .ERR_REPLACE_REASON _ 0 0 hr)).trans (post _ _ _ _ _ _ hl)
  · exact setErr d _

theorem restartLink (d : Dev) (k : Nat) (hl : switchRegs ⊆ l) : Dev.linkMoves l d (d.restartLink k) := by
  unfold Dev.restartLink
  dsimp only
  exact ((updFab d _).trans (setDelay _ _)).trans (of_slots ((slotsMove.setF _ .FAB_LINK_OCC_SHARED_OUT 0 k 0 (by decide)).trans
    (slotsMove.grantAll _)) hl)

theorem flushLink (d : Dev) (k : Nat) (hl : switchRegs ⊆ l) (hf : .FAB_LINK_FLUSH ∈ l) :
    Dev.linkMoves l d (d.flushLink k) := by
  unfold Dev.flushLink
  refine ((addF d .FAB_LINK_FLUSH_FLUSHED _ k 0 hf).trans (updFab _ _)).trans (foldl (fun d a => ?_) _ _)
  split
  · exact refl l d
  · exact (addF d .FAB_LINK_FLUSH_FLUSHED _ k 0 hf).trans (of_slots (.leave _ _ _) hl)

section
variable (h : Dev.linkMoves l d e)
include h

theorem f (g : Fld) (i j : Nat) (hg : g.reg ∉ l) : e.f g i j = d.f g i j := congrArg g.of (h.reg g.reg i j hg)

theorem cmds : e.cmds = d.cmds := (congrArg Dev.cmds h.rest :)
theorem mem : e.mem = d.mem := (congrArg Dev.mem h.rest :)

end

end Dev.linkMoves

/-- The state and the cause that a link which goes down shows. -/
def Dev.showDown (d : Dev) (l cause : Nat) : Dev := (d.setF .FAB_LINK_STATUS_STATE 0 l).setF .FAB_LINK_STATUS_CAUSE cause l

/-- The status registers of two links are two registers. -/
theorem Reg.code_ne_link {l k : Nat} (hl : l < 36) (hk : k < 36) (h : k ≠ l) :
    Reg.FAB_LINK_STATUS.code k 0 ≠ Reg.FAB_LINK_STATUS.code l 0 := by
  rw [Ne, Reg.code_inj (by omega) (by omega) (by omega) (by omega)]
  rintro ⟨-, hc, -⟩
  exact h hc

/-- A write of one link's status leaves every other link's state. -/
theorem Dev.linkState_setF_other (d : Dev) {f : Fld} (n : Nat) {l k : Nat} (hf : f.reg = .FAB_LINK_STATUS) (hl : l < 36) (hk : k < 36)
    (h : k ≠ l) : (d.setF f n l).linkState k = d.linkState k :=
  d.f_setF_ne_code f .FAB_LINK_STATUS_STATE n l 0 k 0 (by rw [hf]; exact Reg.code_ne_link hl hk h)

/-- A link's state after it is written, and after the cause beside it is. -/
theorem Dev.linkState_setF (d : Dev) (n l : Nat) : (d.setF .FAB_LINK_STATUS_STATE n l).linkState l = n % 2 ^ 3 :=
  d.f_setF_same .FAB_LINK_STATUS_STATE n l 0 (by decide)

theorem Dev.linkState_showDown (d : Dev) (l cause : Nat) : (d.showDown l cause).linkState l = 0 :=
  (Dev.f_setF_apart _ .FAB_LINK_STATUS_CAUSE .FAB_LINK_STATUS_STATE cause l 0 rfl (by decide) (by decide)).trans
    (d.linkState_setF 0 l)

/-- The counter of the cause of a link's loss (R256). -/
def Dev.countLoss (d : Dev) (l : Nat) : Nat → Dev
  | 1 => d.addF .FAB_LINK_ERR_UNCORR 1 l
  | 2 => d.addF .FAB_LINK_ERR_CRC 1 l
  | 3 => d.addF .FAB_LINK_ERR_CW_CRC 1 l
  | _ => d

theorem Dev.countLoss_moves (d : Dev) (l cause : Nat) : Dev.linkMoves lossRegs d (d.countLoss l cause) := by
  unfold Dev.countLoss
  split
  · exact .addF d .FAB_LINK_ERR_UNCORR 1 l 0 (by decide)
  · exact .addF d .FAB_LINK_ERR_CRC 1 l 0 (by decide)
  · exact .addF d .FAB_LINK_ERR_CW_CRC 1 l 0 (by decide)
  · exact .refl _ d

/-- What the loss of an UP link does, after its cause is counted. -/
def Dev.loseUp (d : Dev) (l cause : Nat) : Dev :=
  ((((d.addF .FAB_LINK_ERR_DOWNS 1 l).rateEvent 4 l 1).flushLink l).restartLink l |>.post .FAB_LINK_DOWN 0 cause).pump

theorem Dev.loseUp_moves (d : Dev) (l cause : Nat) : Dev.linkMoves lossRegs d (d.loseUp l cause) := by
  unfold Dev.loseUp
  have hc : Dev.linkMoves lossRegs d (d.addF .FAB_LINK_ERR_DOWNS 1 l) := .addF d _ 1 l 0 (by decide)
  exact ((((hc.trans (.rateEvent _ 4 l 1 (by decide) (by decide))).trans (.flushLink _ l (by decide) (by decide))).trans
    (.restartLink _ l (by decide))).trans (.post _ _ _ _ _ _ (by decide))).trans (.pump _ (by decide))

/-- The loss of a link that is neither DOWN nor DISABLED, nor a MISWIRED one whose far end retrains. -/
theorem Dev.linkGoDown_lost {d : Dev} {l cause : Nat} (h5 : d.linkState l ≠ 5) (h4 : ¬(d.linkState l = 4 ∧ cause = 4))
    (h0 : d.linkState l ≠ 0) : d.linkGoDown l cause =
      if d.linkState l = 3 then ((d.showDown l cause).countLoss l cause).loseUp l cause
      else ((d.showDown l cause).countLoss l cause).restartLink l :=
  (if_neg h5).trans ((if_neg h4).trans (if_neg h0))

/-- A link's loss shows the link's state, or leaves it, and then changes nothing beside the Switch Core, the link's counters and
the reports: a DOWN or DISABLED link stays so, a MISWIRED one whose far end retrains trains, and any other goes DOWN. -/
theorem Dev.linkGoDown_cases (d : Dev) (l cause : Nat) : ∃ m, Dev.linkMoves lossRegs m (d.linkGoDown l cause) ∧
    ((d.linkState l = 5 ∨ d.linkState l = 0) ∧ m = d ∨
      (d.linkState l = 4 ∧ cause = 4) ∧ m = d.setF .FAB_LINK_STATUS_STATE 1 l ∨ m = d.showDown l cause) := by
  by_cases h5 : d.linkState l = 5
  · refine ⟨d, ?_, .inl ⟨.inl h5, rfl⟩⟩
    rw [show d.linkGoDown l cause = d from if_pos h5]
    exact .refl _ d
  by_cases h4 : d.linkState l = 4 ∧ cause = 4
  · refine ⟨_, ?_, .inr (.inl ⟨h4, rfl⟩)⟩
    rw [show d.linkGoDown l cause = _ from (if_neg h5).trans (if_pos h4)]
    exact .restartLink _ l (by decide)
  by_cases h0 : d.linkState l = 0
  · refine ⟨d, ?_, .inl ⟨.inr h0, rfl⟩⟩
    rw [show d.linkGoDown l cause = _ from (if_neg h5).trans ((if_neg h4).trans (if_pos h0))]
    exact .restartLink d l (by decide)
  refine ⟨_, ?_, .inr (.inr rfl)⟩
  rw [Dev.linkGoDown_lost h5 h4 h0]
  split
  · exact (Dev.countLoss_moves _ l cause).trans (Dev.loseUp_moves _ l cause)
  · exact (Dev.countLoss_moves _ l cause).trans (.restartLink _ l (by decide))

/-- Nothing beside the Switch Core, the link's status and counters and the reports changes with a link's loss. -/
theorem Dev.linkGoDown_moves (d : Dev) (l cause : Nat) :
    Dev.linkMoves (.FAB_LINK_STATUS :: lossRegs) d (d.linkGoDown l cause) := by
  obtain ⟨m, hm, ⟨-, rfl⟩ | ⟨-, rfl⟩ | rfl⟩ := d.linkGoDown_cases l cause
  · exact hm.mono (by decide)
  · exact (Dev.linkMoves.setF d .FAB_LINK_STATUS_STATE 1 l 0 (by decide)).trans (hm.mono (by decide))
  · exact ((Dev.linkMoves.setF d .FAB_LINK_STATUS_STATE 0 l 0 (by decide)).trans
      (.setF _ .FAB_LINK_STATUS_CAUSE cause l 0 (by decide))).trans (hm.mono (by decide))

/-- A link that goes down is not UP, and the state of every other link stays. -/
theorem Dev.linkGoDown_state (d : Dev) {l : Nat} (cause : Nat) :
    (d.linkGoDown l cause).linkState l ≠ 3 ∧
    (l < 36 → ∀ k < 36, k ≠ l → (d.linkGoDown l cause).linkState k = d.linkState k) := by
  obtain ⟨m, hm, hcase⟩ := d.linkGoDown_cases l cause
  have hstate : ∀ k, (d.linkGoDown l cause).linkState k = m.linkState k := fun k => hm.f .FAB_LINK_STATUS_STATE k 0 (by decide)
  rw [hstate]
  obtain ⟨h, rfl⟩ | ⟨-, rfl⟩ | rfl := hcase
  · exact ⟨by omega, fun _ k _ _ => hstate k⟩
  · exact ⟨by rw [Dev.linkState_setF]; decide, fun hl k hk hne => (hstate k).trans (d.linkState_setF_other 1 rfl hl hk hne)⟩
  · exact ⟨by rw [Dev.linkState_showDown]; decide, fun hl k hk hne => (hstate k).trans
      ((Dev.linkState_setF_other _ cause rfl hl hk hne).trans (d.linkState_setF_other 0 rfl hl hk hne))⟩

/-! ## The warm reset -/

/-- What one step of a fold sets, and every later one leaves, holds after the fold of each item of the list. -/
theorem Dev.foldl_sets {α : Type} {g : Dev → α → Dev} {I : Dev → Prop} {P : α → Dev → Prop} {as : List α} {d : Dev}
    (hI : ∀ d, ∀ a ∈ as, I d → I (g d a)) (hset : ∀ d, ∀ a ∈ as, I d → P a (g d a))
    (hkeep : ∀ d, ∀ a ∈ as, ∀ b, I d → P b d → P b (g d a)) (h : I d) :
    I (as.foldl g d) ∧ ∀ b, b ∈ as ∨ P b d → P b (as.foldl g d) := by
  induction as generalizing d with
  | nil => exact ⟨h, fun b hb => by simpa using hb⟩
  | cons a as ih =>
    obtain ⟨hI', hP'⟩ := ih (fun d b hb => hI d b (.tail a hb)) (fun d b hb => hset d b (.tail a hb))
      (fun d b hb => hkeep d b (.tail a hb)) (hI d a (.head as) h)
    refine ⟨hI', fun b hb => hP' b ?_⟩
    rcases hb with hb | hb
    · rcases List.mem_cons.mp hb with rfl | hb
      · exact .inr (hset d b (.head as) h)
      · exact .inl hb
    · exact .inr (hkeep d a (.head as) b h hb)

/-- The commands, whether the host link is up, and the registers of a list are as they were. -/
structure Dev.keepsRegs (l : List Reg) (d e : Dev) : Prop where
  cmds : e.cmds = d.cmds
  up : e.link.up = d.link.up
  reg : ∀ r ∈ l, ∀ i j, e.reg r i j = d.reg r i j

namespace Dev.keepsRegs

variable {l : List Reg} {d m e : Dev}

theorem refl (l : List Reg) (d : Dev) : Dev.keepsRegs l d d := ⟨rfl, rfl, fun _ _ _ _ => rfl⟩

theorem trans (h : Dev.keepsRegs l d m) (h' : Dev.keepsRegs l m e) : Dev.keepsRegs l d e :=
  ⟨h'.cmds.trans h.cmds, h'.up.trans h.up, fun r hr i j => (h'.reg r hr i j).trans (h.reg r hr i j)⟩

theorem mono {l' : List Reg} (h : Dev.keepsRegs l d e) (hl : l' ⊆ l) : Dev.keepsRegs l' d e :=
  ⟨h.cmds, h.up, fun r hr => h.reg r (hl hr)⟩

theorem setReg (d : Dev) (r : Reg) (v : BitVec 64) (i j : Nat) (hr : r ∉ l) : Dev.keepsRegs l d (d.setReg r v i j) :=
  ⟨rfl, rfl, fun r' hr' i' j' => d.reg_setReg_ne v i j i' j' (by rintro rfl; exact hr hr')⟩

theorem setF (d : Dev) (f : Fld) (n i j : Nat) (hf : f.reg ∉ l) : Dev.keepsRegs l d (d.setF f n i j) := setReg d f.reg _ i j hf

theorem foldl {α : Type} {g : Dev → α → Dev} (hg : ∀ (d : Dev) (a : α), Dev.keepsRegs l d (g d a)) (as : List α) (d : Dev) :
    Dev.keepsRegs l d (as.foldl g d) := by
  induction as generalizing d with
  | nil => exact refl l d
  | cons a as ih => exact (hg d a).trans (ih _)

theorem of_beside (h : e.besideRelease = d.besideRelease) : Dev.keepsRegs calmRegs d e :=
  ⟨(besideRelease_spec h).1, (congrArg (fun x : Dev × _ => x.1.link.up) h :), (besideRelease_spec h).2.2.2⟩

theorem of_linkMoves {l' : List Reg} (h : Dev.linkMoves l' d e) (hl : ∀ r ∈ l, r ∉ l') : Dev.keepsRegs l d e :=
  ⟨h.cmds, h.up, fun r hr i j => h.reg r i j (hl r hr)⟩

theorem settle (d : Dev) : Dev.keepsRegs l d d.settle := ⟨rfl, rfl, fun _ _ _ _ => rfl⟩

theorem f (h : Dev.keepsRegs l d e) (g : Fld) (i j : Nat) (hg : g.reg ∈ l) : e.f g i j = d.f g i j :=
  congrArg g.of (h.reg g.reg hg i j)

theorem valid (h : Dev.keepsRegs l d e) (p : Nat) (hp : .PART_CTRL ∈ l) : e.valid p = d.valid p := by
  unfold Dev.valid Dev.flag
  rw [h.f _ _ _ hp]

end Dev.keepsRegs

/-- The registers that the release of a job leaves whatever they hold. -/
def serviceRegs : List Reg := [.DEV_STATUS, .RING_COUNT, .FAB_LINK_STATUS]

/-- A partition's VALID cleared: every partition that was not valid is not. -/
theorem Dev.valid_setF_zero (d : Dev) (p q : Nat) (h : q = p ∨ d.valid q = false) :
    (d.setF .PART_CTRL_VALID 0 p).valid q = false := by
  by_cases hc : Reg.PART_CTRL.code q 0 = Reg.PART_CTRL.code p 0
  · refine Dev.flag_of_zero ((congrArg Fld.PART_CTRL_VALID.of ?_).trans (d.f_setF_same .PART_CTRL_VALID 0 p 0 (by decide)))
    exact congrArg (fun c => SMap.get _ (d.setF .PART_CTRL_VALID 0 p).regs c) hc
  · obtain rfl | h := h
    · exact absurd rfl hc
    · unfold Dev.valid Dev.flag at h ⊢
      rwa [d.f_setF_ne_code .PART_CTRL_VALID .PART_CTRL_VALID 0 p 0 q 0 hc]

/-- The release of a job without live commands clears its partition's VALID and leaves every other's. -/
theorem Dev.releaseJob_keeps {d : Dev} {p : Nat} (h : ∀ c ∈ d.cmds, c.ended = true) :
    Dev.keepsRegs serviceRegs d (d.releaseJob p) ∧ (d.releaseJob p).valid p = false ∧
    ∀ q, d.valid q = false → (d.releaseJob p).valid q = false := by
  unfold Dev.releaseJob
  rw [Dev.killPart_idle (fun c hc _ => h c hc)]
  dsimp only
  have hsq : Dev.keepsRegs (.PART_CTRL :: serviceRegs) d
      (((List.range 64).filter (fun q => d.boundTo q p)).foldl (fun d q => d.setF .CMD_SQ_CTRL_ENABLE 0 q) d) :=
    .foldl (fun d q => .setF d .CMD_SQ_CTRL_ENABLE 0 q 0 (by decide)) _ d
  generalize ((List.range 64).filter (fun q => d.boundTo q p)).foldl (fun d q => d.setF .CMD_SQ_CTRL_ENABLE 0 q) d = m at *
  have hbeside : ∀ slots : List Nat, ((slots.foldl Dev.brDrop ((((m.xeRelease p).collRelease p).winRelease p
      (d.f .PART_CTRL_JOB p)).gateRelease p)).lndReturnIf (fun b => b.part == p)).besideRelease = m.besideRelease := by
    intro slots
    simp
  generalize (((m.xeRelease p).collRelease p).winRelease p (d.f .PART_CTRL_JOB p)).gateRelease p = g at *
  generalize (List.range 64).filter (fun s => g.f .MA_BR_CFG_PARTITION s == p) = slots
  have hkeep := hsq.trans ((Dev.keepsRegs.of_beside (hbeside slots)).mono (by decide))
  generalize (slots.foldl Dev.brDrop g).lndReturnIf (fun b => b.part == p) = e at *
  have hrest : Dev.keepsRegs serviceRegs e (e.setF .PART_CTRL_VALID 0 p) := .setF e _ _ _ _ (by decide)
  have hdone := (hkeep.mono (List.subset_cons_self _ _)).trans hrest
  exact ⟨⟨hdone.cmds, hdone.up, hdone.reg⟩, e.valid_setF_zero p p (.inl rfl),
    fun q hq => e.valid_setF_zero p q (.inr ((hkeep.valid q (by decide)).trans hq))⟩

theorem Dev.releaseJobs_spec {d : Dev} (ps : List Nat) (h : ∀ c ∈ d.cmds, c.ended = true) :
    Dev.keepsRegs serviceRegs d (ps.foldl Dev.releaseJob d) ∧
    ∀ p, p ∈ ps ∨ d.valid p = false → (ps.foldl Dev.releaseJob d).valid p = false := by
  have hended : ∀ e, Dev.keepsRegs serviceRegs d e → ∀ c ∈ e.cmds, c.ended = true := fun e he => by rw [he.cmds]; exact h
  exact Dev.foldl_sets (I := Dev.keepsRegs serviceRegs d) (P := fun p e => e.valid p = false)
    (fun e p _ he => he.trans (Dev.releaseJob_keeps (hended e he)).1)
    (fun e p _ he => (Dev.releaseJob_keeps (hended e he)).2.1)
    (fun e p _ q he => (Dev.releaseJob_keeps (hended e he)).2.2 q) (.refl _ d)

/-! ### Each of the phases -/

theorem Dev.winReset_beside (d : Dev) : d.winReset.besideRelease = d.besideRelease := by
  simp [Dev.winReset, Dev.noteWin]

/-- A schedule cleared: none of its three registers holds a count. -/
def Dev.noSchedule (p : Nat) (d : Dev) : Prop := d.reg .RING_NEXT p = 0 ∧ d.reg .RING_ORIG p = 0 ∧ d.reg .RING_PERIOD p = 0

/-- A queue cleared. -/
def Dev.queueOff (q : Nat) (d : Dev) : Prop := d.flag .CMD_SQ_CTRL_ENABLE q = false ∧ d.flag .CMD_SQ_CTRL_HALTED q = false

/-- The registers that the clearing of the schedules and queues leaves. -/
def statusRegs : List Reg := .PART_CTRL :: serviceRegs

theorem Dev.setReg_zero_stays (d : Dev) (r r' : Reg) (i j i' j' : Nat) (h : d.reg r i j = 0) : (d.setReg r' 0 i' j').reg r i j = 0 := by
  rw [Dev.reg_setReg]
  split
  · rfl
  · exact h

theorem Dev.clearSchedules_spec (d : Dev) (ps : List Nat) :
    let e := ps.foldl (fun d p => ((d.setReg .RING_NEXT 0 p).setReg .RING_ORIG 0 p).setReg .RING_PERIOD 0 p) d
    Dev.keepsRegs statusRegs d e ∧ ∀ p ∈ ps, e.noSchedule p := by
  have h := Dev.foldl_sets (I := Dev.keepsRegs statusRegs d) (P := Dev.noSchedule) (as := ps)
    (g := fun d p => ((d.setReg .RING_NEXT 0 p).setReg .RING_ORIG 0 p).setReg .RING_PERIOD 0 p)
    (fun e p _ he => he.trans (((Dev.keepsRegs.setReg e .RING_NEXT 0 p 0 (by decide)).trans
      (.setReg _ .RING_ORIG 0 p 0 (by decide))).trans (.setReg _ .RING_PERIOD 0 p 0 (by decide))))
    (fun e p _ _ => ⟨Dev.setReg_zero_stays _ _ _ _ _ _ _ (Dev.setReg_zero_stays _ _ _ _ _ _ _ (e.reg_setReg_same ..)),
      Dev.setReg_zero_stays _ _ _ _ _ _ _ (Dev.reg_setReg_same ..), Dev.reg_setReg_same ..⟩)
    (fun e p _ q _ ⟨hn, ho, hp⟩ => ⟨Dev.setReg_zero_stays _ _ _ _ _ _ _ (Dev.setReg_zero_stays _ _ _ _ _ _ _ (e.setReg_zero_stays _ _ _ _ _ _ hn)),
      Dev.setReg_zero_stays _ _ _ _ _ _ _ (Dev.setReg_zero_stays _ _ _ _ _ _ _ (e.setReg_zero_stays _ _ _ _ _ _ ho)),
      Dev.setReg_zero_stays _ _ _ _ _ _ _ (Dev.setReg_zero_stays _ _ _ _ _ _ _ (e.setReg_zero_stays _ _ _ _ _ _ hp))⟩)
    (.refl _ d)
  exact ⟨h.1, fun p hp => h.2 p (.inl hp)⟩

/-- A field of one queue's control cleared leaves what was clear, of this queue and of any other. -/
theorem Dev.queue_clear_stays (d : Dev) {f g : Fld} (hf : f = .CMD_SQ_CTRL_ENABLE ∨ f = .CMD_SQ_CTRL_HALTED)
    (hg : g = .CMD_SQ_CTRL_ENABLE ∨ g = .CMD_SQ_CTRL_HALTED) (p q : Nat) (h : d.flag f q = false) :
    (d.setF g 0 p).flag f q = false := by
  have hreg : f.reg = .CMD_SQ_CTRL ∧ g.reg = .CMD_SQ_CTRL := by
    obtain rfl | rfl := hf <;> obtain rfl | rfl := hg <;> exact ⟨rfl, rfl⟩
  unfold Dev.flag at h ⊢
  by_cases hc : f.reg.code q 0 = g.reg.code p 0
  · have hcode : ∀ e : Dev, e.f f q = e.f f p := fun e => by
      unfold Dev.f Dev.reg
      rw [hc, hreg.1, hreg.2]
    rw [hcode] at h ⊢
    obtain rfl | rfl := hf <;> obtain rfl | rfl := hg
    · rw [d.f_setF_same _ _ _ _ (by decide)]; decide
    · rwa [d.f_setF_apart .CMD_SQ_CTRL_HALTED .CMD_SQ_CTRL_ENABLE _ _ _ rfl (by decide) (by decide)]
    · rwa [d.f_setF_apart .CMD_SQ_CTRL_ENABLE .CMD_SQ_CTRL_HALTED _ _ _ rfl (by decide) (by decide)]
    · rw [d.f_setF_same _ _ _ _ (by decide)]; decide
  · rwa [d.f_setF_ne_code _ _ _ _ _ _ _ hc]

theorem Dev.clearQueues_spec (d : Dev) (qs : List Nat) :
    let e := qs.foldl (fun d q => (d.setF .CMD_SQ_CTRL_ENABLE 0 q).setF .CMD_SQ_CTRL_HALTED 0 q) d
    Dev.keepsRegs (.RING_NEXT :: .RING_ORIG :: .RING_PERIOD :: statusRegs) d e ∧ ∀ q ∈ qs, e.queueOff q := by
  have h := Dev.foldl_sets (I := Dev.keepsRegs (.RING_NEXT :: .RING_ORIG :: .RING_PERIOD :: statusRegs) d) (P := Dev.queueOff)
    (as := qs) (g := fun d q => (d.setF .CMD_SQ_CTRL_ENABLE 0 q).setF .CMD_SQ_CTRL_HALTED 0 q)
    (fun e q _ he => he.trans ((Dev.keepsRegs.setF e .CMD_SQ_CTRL_ENABLE 0 q 0 (by decide)).trans
      (.setF _ .CMD_SQ_CTRL_HALTED 0 q 0 (by decide))))
    (fun e q _ _ => ⟨Dev.queue_clear_stays _ (.inl rfl) (.inr rfl) q q
        (Dev.flag_of_zero (e.f_setF_same .CMD_SQ_CTRL_ENABLE 0 q 0 (by decide))),
      Dev.flag_of_zero (Dev.f_setF_same _ .CMD_SQ_CTRL_HALTED 0 q 0 (by decide))⟩)
    (fun e q _ k _ ⟨he, hh⟩ => ⟨Dev.queue_clear_stays _ (.inl rfl) (.inr rfl) q k (e.queue_clear_stays (.inl rfl) (.inl rfl) q k he),
      Dev.queue_clear_stays _ (.inr rfl) (.inr rfl) q k (e.queue_clear_stays (.inr rfl) (.inl rfl) q k hh)⟩)
    (.refl _ d)
  exact ⟨h.1, fun q hq => h.2 q (.inl hq)⟩

/-- The registers that the loss of the links leaves. -/
def clearedRegs : List Reg := [.DEV_STATUS, .RING_COUNT, .PART_CTRL, .RING_NEXT, .RING_ORIG, .RING_PERIOD, .CMD_SQ_CTRL]

theorem Dev.linksDown_spec (d : Dev) (cause : Nat) :
    let e := (List.range 36).foldl (fun d l => d.linkGoDown l cause) d
    Dev.keepsRegs clearedRegs d e ∧ ∀ l < 36, e.linkUp l = false := by
  have h := Dev.foldl_sets (I := Dev.keepsRegs clearedRegs d) (P := fun l e => l < 36 ∧ e.linkState l ≠ 3)
    (as := List.range 36) (g := fun d l => d.linkGoDown l cause)
    (fun e l _ he => he.trans (.of_linkMoves (e.linkGoDown_moves l cause) (by decide)))
    (fun e l hl _ => ⟨List.mem_range.mp hl, (e.linkGoDown_state cause).1⟩)
    (fun e l hl k _ ⟨hk, hs⟩ => ⟨hk, by
      by_cases hkl : k = l
      · exact hkl ▸ (e.linkGoDown_state cause).1
      · rwa [(e.linkGoDown_state cause).2 (List.mem_range.mp hl) k hk hkl]⟩) (.refl _ d)
  exact ⟨h.1, fun l hl => decide_eq_false (h.2 l (.inl (List.mem_range.mpr hl))).2⟩

/-- Everything that a warm reset ends is ended, without a live command to kill. -/
theorem Dev.warmClear_spec {d : Dev} (h : ∀ c ∈ d.cmds, c.ended = true) :
    Dev.keepsRegs [.DEV_STATUS, .RING_COUNT] d d.warmClear ∧
    (∀ p < 16, d.warmClear.valid p = false ∧ d.warmClear.noSchedule p) ∧ (∀ q < 64, d.warmClear.queueOff q) ∧
    ∀ l < 36, d.warmClear.linkUp l = false := by
  have hlive : (d.cmds.filter (fun c => !c.ended)).map Cmd.id = [] := by
    rw [List.map_eq_nil_iff, List.filter_eq_nil_iff]
    exact fun c hc => by simp [h c hc]
  unfold Dev.warmClear
  simp only [hlive, List.foldl_nil]
  obtain ⟨hk1, hv⟩ := Dev.releaseJobs_spec ((List.range 16).filter d.valid) h
  generalize ((List.range 16).filter d.valid).foldl Dev.releaseJob d = d1 at *
  have hk2 : Dev.keepsRegs calmRegs d1 ((List.range 16).foldl (fun d p => ((d.xeRelease p).collRelease p).gateRelease p) d1) :=
    .foldl (fun d p => .of_beside (by simp)) _ d1
  generalize (List.range 16).foldl (fun d p => ((d.xeRelease p).collRelease p).gateRelease p) d1 = d2 at *
  obtain ⟨hk3, hn⟩ := d2.clearSchedules_spec (List.range 16)
  generalize (List.range 16).foldl (fun d p => ((d.setReg .RING_NEXT 0 p).setReg .RING_ORIG 0 p).setReg .RING_PERIOD 0 p) d2 = d3 at *
  obtain ⟨hk4, hq⟩ := d3.clearQueues_spec (List.range 64)
  generalize (List.range 64).foldl (fun d q => (d.setF .CMD_SQ_CTRL_ENABLE 0 q).setF .CMD_SQ_CTRL_HALTED 0 q) d3 = d4 at *
  have hk5 : Dev.keepsRegs calmRegs d4 (((List.range 64).foldl Dev.brDrop d4).winReset.lndReturnIf (fun _ => true)) :=
    .of_beside (by simp [Dev.winReset_beside])
  generalize ((List.range 64).foldl Dev.brDrop d4).winReset.lndReturnIf (fun _ => true) = d5 at *
  obtain ⟨hk6, hl⟩ := d5.linksDown_spec 6
  generalize (List.range 36).foldl (fun d l => d.linkGoDown l 6) d5 = e at *
  have h45 := (hk5.mono (l' := clearedRegs) (by decide)).trans hk6
  have h35 := (hk4.mono (l' := [.DEV_STATUS, .RING_COUNT, .PART_CTRL, .RING_NEXT, .RING_ORIG, .RING_PERIOD]) (by decide)).trans
    (h45.mono (by decide))
  have h15 := (hk2.mono (l' := [.DEV_STATUS, .RING_COUNT, .PART_CTRL]) (by decide)).trans
    ((hk3.mono (by decide)).trans (h35.mono (by decide)))
  refine ⟨(hk1.mono (by decide)).trans (h15.mono (by decide)), fun p hp => ⟨?_, ?_⟩, fun q hlt => ?_, hl⟩
  · rw [h15.valid p (by decide)]
    refine hv p ?_
    cases hpv : d.valid p
    · exact .inr rfl
    · exact .inl (List.mem_filter.mpr ⟨List.mem_range.mpr hp, hpv⟩)
  · obtain ⟨h1, h2, h3⟩ := hn p (List.mem_range.mpr hp)
    exact ⟨(h35.reg _ (by decide) p 0).trans h1, (h35.reg _ (by decide) p 0).trans h2, (h35.reg _ (by decide) p 0).trans h3⟩
  · obtain ⟨h1, h2⟩ := hq q (List.mem_range.mpr hlt)
    unfold Dev.queueOff Dev.flag at *
    rw [h45.f _ q 0 (by decide), h45.f _ q 0 (by decide)]
    exact ⟨h1, h2⟩

/-! ### The reset, its extension and its end -/

/-- A second reset while one is in progress changes only how long it lasts. -/
theorem Dev.warmBegin_extends {d : Dev} (pin : Bool) (h : d.flag .DEV_STATUS_WARM_BUSY = true) :
    d.warmBegin pin = { d with boot := { d.boot with
      warmLow := d.boot.warmLow || pin
      warmRelease := if pin then d.boot.warmRelease else some (max (d.boot.warmRelease.getD 0) (d.count + 1000)) } } :=
  if_pos h

/-- A reset that begins sets WARM_BUSY, counts itself and clears everything. -/
theorem Dev.warmBegin_starts {d : Dev} (pin : Bool) (h : d.flag .DEV_STATUS_WARM_BUSY = false) : d.warmBegin pin =
    (({ d with boot := { d.boot with
      warmLow := d.boot.warmLow || pin
      warmRelease := if pin then d.boot.warmRelease else some (max (d.boot.warmRelease.getD 0) (d.count + 1000)) } } : Dev).setF
        .DEV_STATUS_WARM_BUSY 1 |>.addF .DEV_STATUS_WARMS 1).warmClear :=
  if_neg (fun hb : d.flag .DEV_STATUS_WARM_BUSY = true => by simp [h] at hb)

/-- The registers of a device whose start-up state alone differs, once WARM_BUSY is set and the reset is counted. -/
theorem Dev.warm_shown (d : Dev) :
    let m := (d.setF .DEV_STATUS_WARM_BUSY 1).addF .DEV_STATUS_WARMS 1
    m.flag .DEV_STATUS_WARM_BUSY = true ∧ d.bumped m .DEV_STATUS_WARMS 1 ∧ m.stage = d.stage ∧ m.count = d.count := by
  dsimp only
  refine ⟨Dev.flag_of_one ?_, ?_, ?_, ?_⟩
  · exact (Dev.f_setF_apart _ .DEV_STATUS_WARMS .DEV_STATUS_WARM_BUSY _ 0 0 rfl (by decide) (by decide)).trans
      (d.f_setF_same .DEV_STATUS_WARM_BUSY 1 0 0 (by decide))
  · refine (Dev.bumped_addF _ .DEV_STATUS_WARMS 1 0 0 (by decide)).trans ?_
    rw [d.f_setF_apart .DEV_STATUS_WARM_BUSY .DEV_STATUS_WARMS 1 0 0 rfl (by decide) (by decide)]
  · exact (Dev.f_setF_apart _ .DEV_STATUS_WARMS .DEV_STATUS_STAGE _ 0 0 rfl (by decide) (by decide)).trans
      (d.f_setF_apart .DEV_STATUS_WARM_BUSY .DEV_STATUS_STAGE 1 0 0 rfl (by decide) (by decide))
  · exact (Dev.count_addF _ _ _ _ _ (by decide)).trans (Dev.count_setF _ _ _ _ _ (by decide))

/-- What a reset that begins leaves, whichever source it has. -/
theorem Dev.warmBegin_spec {d : Dev} (pin : Bool) (hbusy : d.flag .DEV_STATUS_WARM_BUSY = false)
    (hidle : ∀ c ∈ d.cmds, c.ended = true) :
    let e := (d.warmBegin pin).settle
    e.flag .DEV_STATUS_WARM_BUSY = true ∧ d.bumped e .DEV_STATUS_WARMS 1 ∧ e.stage = d.stage ∧
    (∀ p < 16, e.valid p = false ∧ e.reg .RING_NEXT p = 0 ∧ e.reg .RING_ORIG p = 0 ∧ e.reg .RING_PERIOD p = 0) ∧
    (∀ q < 64, e.flag .CMD_SQ_CTRL_ENABLE q = false ∧ e.flag .CMD_SQ_CTRL_HALTED q = false) ∧
    (∀ l < 36, e.linkUp l = false) ∧ e.link.up = d.link.up ∧ e.count = d.count := by
  dsimp only
  rw [Dev.warmBegin_starts pin hbusy]
  generalize hm : ({ d with boot := _ } : Dev) = m
  obtain ⟨hshown, hcounted, hstage, hcount⟩ := m.warm_shown
  have hcmds : ((m.setF .DEV_STATUS_WARM_BUSY 1).addF .DEV_STATUS_WARMS 1).cmds = d.cmds := by rw [← hm]; rfl
  have hup : ((m.setF .DEV_STATUS_WARM_BUSY 1).addF .DEV_STATUS_WARMS 1).link.up = d.link.up := by rw [← hm]; rfl
  have hf : ∀ f i j, m.f f i j = d.f f i j := fun f i j => by rw [← hm]; rfl
  have hc : m.count = d.count := by rw [← hm]; rfl
  obtain ⟨hkeep, hp, hq, hl⟩ := Dev.warmClear_spec (hcmds ▸ hidle)
  generalize (m.setF .DEV_STATUS_WARM_BUSY 1).addF .DEV_STATUS_WARMS 1 = n at *
  generalize n.warmClear = e at *
  have hk : ∀ f, f.reg = .DEV_STATUS → e.settle.f f = n.f f := fun f hr =>
    (congrArg f.of (hkeep.reg f.reg (by rw [hr]; decide) 0 0))
  refine ⟨?_, ?_, ?_, hp, hq, hl, hkeep.up.trans hup, ?_⟩
  · rwa [Dev.flag, hk _ rfl]
  · rw [Dev.bumped, hk _ rfl, ← hf]
    exact hcounted
  · exact (hk _ rfl).trans (hstage.trans (hf _ _ _))
  · exact (congrArg BitVec.toNat (hkeep.reg .RING_COUNT (by decide) 0 0)).trans (hcount.trans hc)

/-- The end of a reset, once it is due. -/
theorem Dev.warmDone_due {d : Dev} {r : Nat} (hr : d.boot.warmRelease = some r) (hdue : r + 2000 ≤ d.count)
    (hlow : d.boot.warmLow = false) (hbusy : d.flag .DEV_STATUS_WARM_BUSY = true) : d.warmDone =
      ({ d with arb := { d.arb with seed := d.f .ARB_SEED_SEED, lfsr := [] }, boot := { d.boot with warmRelease := none } } : Dev).setF
        .DEV_STATUS_WARM_BUSY 0 := by
  unfold Dev.warmDone
  rw [hr]
  exact if_neg (by simp [hbusy, hlow, hdue])

/-- Settles O30: each phase of the clearing keeps what the others clear, and the end loads the LFSRs from the seed. -/
theorem warmReset : Obligations.WarmReset := by
  unfold Obligations.WarmReset
  intro s
  refine ⟨fun src hsrc hbusy hidle => ?_, fun h8 hbusy => ?_, fun hlow => ?_, fun r hr hdue hlow hbusy => ?_⟩
  · obtain ⟨rfl, h8⟩ | ⟨rfl, hacc⟩ := hsrc
    · refine Completes.of_act (g := fun d => d.warmReset .pin) rfl ?_
      rw [show s.dev.warmReset .pin = s.dev.warmBegin true from if_pos h8]
      exact Dev.warmBegin_spec true hbusy hidle
    · exact Completes.of_accepted (g := fun d => d.warmBegin false) rfl hacc (Dev.warmBegin_spec false hbusy hidle)
  · refine Completes.of_act (g := fun d => d.warmReset .pin) rfl ?_
    rw [show s.dev.warmReset .pin = s.dev.warmBegin true from if_pos h8, Dev.warmBegin_extends true hbusy, Bool.or_true]
    rfl
  · refine Completes.of_act (g := Dev.warmPinHigh) rfl ?_
    rw [Dev.warmPinHigh, if_neg (by simp [hlow])]
    rfl
  · refine Completes.of_act (g := Dev.warmDone) rfl ?_
    rw [Dev.warmDone_due hr hdue hlow hbusy]
    generalize hm : ({ s.dev with arb := _, boot := _ } : Dev) = m
    refine ⟨Dev.flag_of_zero (m.f_setF_same .DEV_STATUS_WARM_BUSY 0 0 0 (by decide)), fun a => ?_, fun r i j h => ?_,
      by rw [← hm]; rfl, by rw [← hm]; rfl⟩
    · rw [← hm]
      unfold Dev.lfsr
      rfl
    · rw [← hm]
      exact Dev.reg_setF_ne _ _ r _ _ _ i j (by simpa using h)

end Sys2Proof.Machine
end

section
/-! PROOFS. The Scaler: samples, periods, signatures and records (R342, R346, R347, R349). -/

namespace Sys2Proof.Machine

/-! ## Samples -/

/-- A sample out of range is counted and marked. -/
def Dev.rangeNoted (d : Dev) (iOut vOut : Bool) : Dev :=
  if iOut || vOut then
    (d.addF .SCL_STATUS_RANGE (b2n iOut + b2n vOut)).updScl (fun s => { s with range := true }) else d

theorem Dev.rangeNoted_spec (d : Dev) (iOut vOut : Bool) :
    (d.rangeNoted iOut vOut).scl = { d.scl with range := d.scl.range || iOut || vOut } ∧
    d.regsBut (d.rangeNoted iOut vOut) [Reg.code .SCL_STATUS 0 0] ∧
    ((iOut || vOut) = true → d.bumped (d.rangeNoted iOut vOut) .SCL_STATUS_RANGE (b2n iOut + b2n vOut)) ∧
    ((iOut || vOut) = false → d.rangeNoted iOut vOut = d) := by
  unfold Dev.rangeNoted
  rw [Bool.or_assoc]
  cases h : iOut || vOut
  · refine ⟨?_, .refl d _, fun hn => absurd hn (by decide), fun _ => if_neg (by decide)⟩
    rw [Bool.or_false]
    rfl
  · refine ⟨?_, ((Dev.regsBut.refl d _).addF _ (by simp [Reg.code])).congr rfl, fun _ => ?_, fun hn => absurd hn (by decide)⟩
    · rw [Bool.or_true]
      rfl
    · exact d.bumped_addF .SCL_STATUS_RANGE _ 0 0 (by decide)

/-- The energy of a pair of codes in units of 2^-32 uJ, with what was short of a whole uJ before. -/
def Dev.energyOf (d : Dev) (rail i v : Nat) : Nat :=
  Config.sampleEnergy (d.scl.gain.getD rail 0) (d.scl.offset.getD rail 0) (i * v) + SMap.get 0 d.scl.part rail

/-- Energy joins a rail and the session's total, and its remainder stays. -/
def Dev.energyJoined (d : Dev) (rail e : Nat) : Dev :=
  let m := d.updScl (fun s => { s with part := SMap.set 0 s.part rail (e % 2 ^ 32) })
  (m.setReg .SCL_RAIL (m.reg .SCL_RAIL rail + BitVec.ofNat 64 (e / 2 ^ 32)) rail).setReg .SCL_ENERGY
    (m.reg .SCL_ENERGY + BitVec.ofNat 64 (e / 2 ^ 32))

theorem Dev.sample_eq {d : Dev} {rail : Nat} {i v : BitVec 16} {iOut vOut : Bool} (h : d.metering = true) :
    d.sample rail i v iOut vOut = (d.rangeNoted iOut vOut).energyJoined rail
      ((d.rangeNoted iOut vOut).energyOf rail (adcCode i iOut) (adcCode v vOut)) :=
  if_neg (by simp [h])

theorem Dev.energyJoined_spec (d : Dev) (rail e : Nat) :
    (d.energyJoined rail e).reg .SCL_RAIL rail = d.reg .SCL_RAIL rail + BitVec.ofNat 64 (e / 2 ^ 32) ∧
    (d.energyJoined rail e).reg .SCL_ENERGY = d.reg .SCL_ENERGY + BitVec.ofNat 64 (e / 2 ^ 32) ∧
    (d.energyJoined rail e).scl = { d.scl with part := SMap.set 0 d.scl.part rail (e % 2 ^ 32) } ∧
    d.regsBut (d.energyJoined rail e) [Reg.code .SCL_RAIL rail 0, Reg.code .SCL_ENERGY 0 0] := by
  refine ⟨?_, Dev.reg_setReg_same .., rfl, ?_⟩
  · exact (Dev.reg_setReg_ne _ _ _ _ _ _ (by decide)).trans (Dev.reg_setReg_same ..)
  · exact (((Dev.regsBut.refl d _).congr rfl).setReg _ (by simp)).setReg _ (by simp)

/-- A sample while metering: its energy joins its rail and the session, and what was out of range is counted. -/
theorem Dev.sample_spec {d : Dev} (rail : Nat) (i v : BitVec 16) (iOut vOut : Bool) (hm : d.metering = true) :
    let e0 := d.energyOf rail (adcCode i iOut) (adcCode v vOut)
    let e := d.sample rail i v iOut vOut
    e.reg .SCL_RAIL rail = d.reg .SCL_RAIL rail + BitVec.ofNat 64 (e0 / 2 ^ 32) ∧
    e.reg .SCL_ENERGY = d.reg .SCL_ENERGY + BitVec.ofNat 64 (e0 / 2 ^ 32) ∧
    SMap.get 0 e.scl.part rail = e0 % 2 ^ 32 ∧
    d.regsBut e [Reg.code .SCL_RAIL rail 0, Reg.code .SCL_ENERGY 0 0, Reg.code .SCL_STATUS 0 0] ∧
    e.scl = { d.scl with part := e.scl.part, range := d.scl.range || iOut || vOut } ∧
    ((iOut || vOut) = true → d.bumped e .SCL_STATUS_RANGE (b2n iOut + b2n vOut)) ∧
    ((iOut || vOut) = false → e.reg .SCL_STATUS = d.reg .SCL_STATUS) := by
  dsimp only
  rw [Dev.sample_eq hm]
  obtain ⟨hscl, hbut, hcount, hsame⟩ := d.rangeNoted_spec iOut vOut
  generalize d.rangeNoted iOut vOut = m at *
  have he : m.energyOf rail (adcCode i iOut) (adcCode v vOut) = d.energyOf rail (adcCode i iOut) (adcCode v vOut) := by
    unfold Dev.energyOf
    rw [hscl]
  rw [he]
  generalize d.energyOf rail (adcCode i iOut) (adcCode v vOut) = e0
  obtain ⟨hrail, henergy, hscl', hbut'⟩ := m.energyJoined_spec rail e0
  generalize m.energyJoined rail e0 = e at *
  have hkeep : ∀ r, r ≠ .SCL_STATUS → ∀ i, m.reg r i 0 = d.reg r i 0 := fun r hr i =>
    hbut r i 0 (by simpa using Reg.code_ne hr _ _ _ _)
  have hstatus : e.reg .SCL_STATUS = m.reg .SCL_STATUS :=
    hbut' .SCL_STATUS 0 0 (by simpa using ⟨Reg.code_ne (by decide) _ _ _ _, Reg.code_ne (by decide) _ _ _ _⟩)
  refine ⟨hrail.trans (by rw [hkeep _ (by decide)]), henergy.trans (by rw [hkeep _ (by decide)]), ?_,
    (hbut.mono (by simp)).trans (hbut'.mono (by simp)), ?_, fun h => ?_, fun h => ?_⟩
  · rw [hscl', SMap.get_set, if_pos rfl]
  · rw [hscl', hscl]
  · exact (congrArg Fld.SCL_STATUS_RANGE.of hstatus).trans (hcount h)
  · rw [hstatus, hsame h]

/-! ## The end of a period -/

/-- The rails set to 0, one after another. -/
theorem Dev.clearRails_spec (d : Dev) : ((List.range 8).foldl (fun d r => d.setReg .SCL_RAIL 0 r) d).scl = d.scl ∧
    ∀ r < 8, ((List.range 8).foldl (fun d r => d.setReg .SCL_RAIL 0 r) d).reg .SCL_RAIL r = 0 := by
  have h := Dev.foldl_sets (I := fun e => e.scl = d.scl) (P := fun r e => e.reg .SCL_RAIL r = 0) (as := List.range 8)
    (g := fun d r => d.setReg .SCL_RAIL 0 r) (fun e r _ he => he) (fun e r _ _ => e.reg_setReg_same ..)
    (fun e r _ k _ hk => e.setReg_zero_stays _ _ _ _ _ _ hk) rfl
  exact ⟨h.1, fun r hr => h.2 r (.inl (List.mem_range.mpr hr))⟩

/-- A period that closes leaves one unsigned record, behind the others, and the next period begins. -/
theorem Dev.closePeriod_spec (d : Dev) (t : SclTally) (last next : Nat) (early : Bool) :
    let e := d.closePeriod t last next early
    e.scl.records = d.scl.records ++ [⟨d.recordBytes t last early, false⟩] ∧ e.scl.start = next ∧
    e.scl.seqNo = d.scl.seqNo + 1 ∧ e.scl.pairs = (d.scl.tally.since t).pairs ∧ (∀ r < 8, e.reg .SCL_RAIL r = 0) ∧
    e.reg .SCL_ENERGY = d.reg .SCL_ENERGY := by
  have henergy := (d.closePeriod_moves t last next early).reg .SCL_ENERGY 0 0 (by decide) (by decide)
  unfold Dev.closePeriod at henergy ⊢
  dsimp only at henergy ⊢
  rw [(Dev.clearRails_spec _).1]
  refine ⟨?_, ?_, ?_, ?_, (Dev.clearRails_spec _).2, henergy⟩
  · split <;> rfl
  · split <;> rfl
  · split <;> rfl
  · split <;> rfl

/-! ## Records -/

/-- The oldest unsigned record is signed, chained to the digest before it. -/
theorem Dev.signTally_of_records {d : Dev} {done rest : List SclRecord} {b : List Byte}
    (hrec : d.scl.records = done ++ ⟨b, false⟩ :: rest) (hdone : done.all SclRecord.signed = true) :
    d.signTally = { d with scl := { d.scl with
      records := done ++ ⟨patch b 48 d.scl.prev ++ rsaSign d.fuses.sclKey.n d.fuses.sclKey.d (patch b 48 d.scl.prev), true⟩ :: rest
      prev := sha512 (patch b 48 d.scl.prev ++ rsaSign d.fuses.sclKey.n d.fuses.sclKey.d (patch b 48 d.scl.prev)) } } := by
  have hspan : d.scl.records.span SclRecord.signed = (done, ⟨b, false⟩ :: rest) := by
    have hall : ∀ x ∈ done, x.signed = true := by simpa using hdone
    rw [hrec, List.span_eq_takeWhile_dropWhile, List.takeWhile_append_of_pos hall, List.dropWhile_append_of_pos hall]
    simp
  unfold Dev.signTally
  rw [hspan]
  rfl

/-- The oldest record, once signed, is written into its slot of the ring, whose tail moves on. -/
theorem Dev.writeTally_of_records {d : Dev} {rest : List SclRecord} {b : List Byte} (hrec : d.scl.records = ⟨b, true⟩ :: rest)
    (hcan : d.canWriteHost = true) (hen : d.flag .SEC_TALLY_CFG_ENABLE = true) (hfull : d.tallyFull = false) :
    ∃ t ph, d.writeTally = ((({ d with
      scl := { d.scl with records := rest }
      out := d.out ++ [.memWrite (d.f .SEC_TALLY_BASE_BASE * 4096 + d.f .SEC_TALLY_TAIL_TAIL * 4096) b] } : Dev).setF
        .SEC_TALLY_TAIL_TAIL t).setF .SEC_TALLY_TAIL_PHASE ph) := by
  unfold Dev.writeTally
  rw [if_neg (by simp [hcan, hen, hfull]), hrec]
  exact ⟨_, _, rfl⟩

/-- Settles O31: samples join their rails, periods close or are deferred, records are signed and written in order. -/
theorem scalerTallies : Obligations.ScalerTallies := by
  unfold Obligations.ScalerTallies
  intro s
  refine ⟨fun rail i v iOut vOut hm => ?_, fun hdue => ⟨fun hroom => ?_, fun hfull => ?_⟩, fun done rest b hrec hdone => ?_,
    fun b rest hrec hcan hen hfull => ?_⟩
  · refine Completes.of_act (g := fun d => d.sample rail i v iOut vOut) rfl ?_
    have h := Dev.sample_spec rail i v iOut vOut hm
    unfold Dev.energyOf at h
    dsimp only at h ⊢
    generalize s.dev.sample rail i v iOut vOut = e at *
    exact h
  · refine Completes.of_act (g := Dev.tallyEnd) rfl ?_
    rw [show s.dev.tallyEnd = _ from (if_pos hdue).trans (if_pos hroom)]
    have h := s.dev.closePeriod_spec s.dev.scl.before (s.dev.count / s.dev.f .SCL_PERIOD_PERIOD * s.dev.f .SCL_PERIOD_PERIOD - 1)
      (s.dev.count / s.dev.f .SCL_PERIOD_PERIOD * s.dev.f .SCL_PERIOD_PERIOD) false
    dsimp only at h ⊢
    generalize Dev.closePeriod _ _ _ _ _ = e at *
    exact h
  · refine Completes.of_act (g := Dev.tallyEnd) rfl ?_
    rw [show s.dev.tallyEnd = _ from (if_pos hdue).trans (if_neg (by omega))]
    exact ⟨rfl, rfl, rfl, rfl⟩
  · refine Completes.of_act (g := Dev.signTally) rfl ?_
    rw [Dev.signTally_of_records hrec hdone]
    rfl
  · refine Completes.of_act (g := Dev.writeTally) rfl ?_
    obtain ⟨t, ph, he⟩ := Dev.writeTally_of_records hrec hcan hen hfull
    rw [he]
    exact ⟨rfl, rfl, (((Dev.regsBut.refl s.dev _).congr rfl).setF t (by simp)).setF ph (by simp)⟩

end Sys2Proof.Machine
end

section
/-! PROOFS. Metrology commands, and the security controller's services (R351, R352, R354, R355). -/

namespace Sys2Proof.Machine

/-! ## Nonces -/

/-- The nonce is read from its four registers alone. -/
theorem Dev.nonce_congr {d e : Dev} (h : ∀ i, e.reg .SCL_NONCE i = d.reg .SCL_NONCE i) : e.nonce = d.nonce := by
  unfold Dev.nonce
  simp only [h]

/-- The nonce as its four words. -/
theorem Dev.nonce_eq (d : Dev) : d.nonce = BitVec.ofNat 256 (0 + (d.reg .SCL_NONCE 0).toNat * 2 ^ (64 * 0) +
    (d.reg .SCL_NONCE 1).toNat * 2 ^ (64 * 1) + (d.reg .SCL_NONCE 2).toNat * 2 ^ (64 * 2) +
    (d.reg .SCL_NONCE 3).toNat * 2 ^ (64 * 3)) := by
  unfold Dev.nonce
  rw [show List.range 4 = [0, 1, 2, 3] from rfl]
  rw [List.foldl_cons, List.foldl_cons, List.foldl_cons, List.foldl_cons, List.foldl_nil]

/-- A number below 2^256 from its four words. -/
theorem words_sum (n : Nat) (h : n < 2 ^ 256) : 0 + bits n (64 * 0) 64 * 2 ^ (64 * 0) + bits n (64 * 1) 64 * 2 ^ (64 * 1) +
    bits n (64 * 2) 64 * 2 ^ (64 * 2) + bits n (64 * 3) 64 * 2 ^ (64 * 3) = n := by
  simp only [bits]
  omega

/-- The words written to the nonce's registers are read from them. -/
theorem Dev.setNonce_nonce (d : Dev) (k : Nat) (h : k < 2 ^ 256) :
    ((List.range 4).foldl (fun d i => d.setReg .SCL_NONCE (BitVec.ofNat 64 (bits k (64 * i) 64)) i) d).nonce = BitVec.ofNat 256 k := by
  have hlast : ∀ (e : Dev) v i, (e.setReg .SCL_NONCE v i).reg .SCL_NONCE i = v := fun e v i => e.reg_setReg_same ..
  have hstay : ∀ (e : Dev) v (i j : Nat), i < 4 → j < 4 → i ≠ j → (e.setReg .SCL_NONCE v i).reg .SCL_NONCE j = e.reg .SCL_NONCE j := by
    intro e v i j hi hj hne
    refine (e.reg_setReg ..).trans (if_neg ?_)
    rw [Reg.code_inj (by omega) (by omega) (by omega) (by omega)]
    exact fun hc => hne hc.2.1.symm
  have hword : ∀ i, (BitVec.ofNat 64 (bits k (64 * i) 64)).toNat = bits k (64 * i) 64 := fun i =>
    (BitVec.toNat_ofNat _ _).trans (Nat.mod_eq_of_lt (Nat.mod_lt _ (Nat.two_pow_pos 64)))
  rw [show List.range 4 = [0, 1, 2, 3] from rfl, List.foldl_cons, List.foldl_cons, List.foldl_cons, List.foldl_cons, List.foldl_nil,
    Dev.nonce_eq, hlast, hstay _ _ 3 2 (by decide) (by decide) (by decide), hlast, hstay _ _ 3 1 (by decide) (by decide) (by decide),
    hstay _ _ 2 1 (by decide) (by decide) (by decide), hlast, hstay _ _ 3 0 (by decide) (by decide) (by decide),
    hstay _ _ 2 0 (by decide) (by decide) (by decide), hstay _ _ 1 0 (by decide) (by decide) (by decide), hlast,
    hword, hword, hword, hword, words_sum k h]

/-- The nonce that is drawn is the free input's. -/
theorem Dev.drawNonce_nonce (d : Dev) : d.drawNonce.nonce = Config.random256 d.free :=
  (d.fresh.2.setNonce_nonce (Config.random256 d.free).toNat (BitVec.isLt _)).trans (BitVec.ofNat_toNat ..|>.trans (BitVec.setWidth_eq _))

theorem Dev.drawNonce_free (d : Dev) : d.drawNonce.free = d.free + 1 := by
  have h : ∀ (l : List Nat) (g : Nat → BitVec 64) (m : Dev), (l.foldl (fun d i => d.setReg .SCL_NONCE (g i) i) m).free = m.free := by
    intro l g
    induction l with
    | nil => exact fun _ => rfl
    | cons a l ih => exact fun m => ih _
  exact h ..

/-! ## Metrology commands -/

/-- A new nonce leaves the reports and the count, so what has been posted stays posted. -/
theorem Dev.posted.drawNonce {d e : Dev} {c : Code} {P : Report → Prop} (h : d.posted e c P) : d.posted e.drawNonce c P :=
  Dev.posted_congr rfl rfl (congrArg Dev.link e.drawNonce_spec.2 :) h

/-- A refusal is reported with its cause and draws a new nonce; nothing else but the nonce's registers and FAULT_SEEN changes. -/
theorem Dev.metRefuse_spec (d : Dev) (cause : Nat) :
    d.posted (d.metRefuse cause) .SCL_MET_REFUSED (fun r => r.index = cause) ∧ (d.metRefuse cause).scl = d.scl ∧
    (d.metRefuse cause).fuses = d.fuses ∧ (d.metRefuse cause).nonce = Config.random256 d.free ∧
    (d.metRefuse cause).free = d.free + 1 ∧ (d.metRefuse cause).reg .SCL_STATUS = d.reg .SCL_STATUS := by
  have hpost := d.post_note (c := .SCL_MET_REFUSED) 0 cause {} 0 (by decide)
  have hposted := d.post_posted_of .SCL_MET_REFUSED 0 cause {} 0 (P := fun r => r.index = cause) rfl
  unfold Dev.metRefuse
  generalize d.post .SCL_MET_REFUSED 0 cause = m at *
  have hfree : m.free = d.free := by rw [hpost]
  refine ⟨hposted.drawNonce, ?_, ?_, hfree ▸ m.drawNonce_nonce, hfree ▸ m.drawNonce_free, ?_⟩
  · rw [(congrArg Dev.scl m.drawNonce_spec.2 : _ = m.scl), hpost]
  · rw [(congrArg Dev.fuses m.drawNonce_spec.2 : _ = m.fuses), hpost]
  · rw [m.drawNonce_spec.1 .SCL_STATUS 0 0 (by decide), hpost]
    rfl

/-- The fetch of a metrology command starts with the nonce of the moment. -/
theorem Dev.metStart_starts {d : Dev} (v : BitVec 64) (h : d.flag .SCL_STATUS_MET_BUSY = false) :
    d.metStart v = { (d.setReg .SEC_MET_CMD v).setF .SCL_STATUS_MET_BUSY 1 with
      scl := { d.scl with met := some (Fld.SEC_MET_CMD_ADDR.of v, Fld.SEC_MET_CMD_LEN_64.of v * 64, d.nonce) }
      out := d.out ++ memReads (Fld.SEC_MET_CMD_ADDR.of v) (Fld.SEC_MET_CMD_LEN_64.of v * 64) } := by
  have hstatus : (d.setReg .SEC_MET_CMD v).reg .SCL_STATUS = d.reg .SCL_STATUS := d.reg_setReg_ne _ _ _ _ _ (by decide)
  have hbusy : (d.setReg .SEC_MET_CMD v).flag .SCL_STATUS_MET_BUSY = false := by
    unfold Dev.flag Dev.f at h ⊢
    rwa [show Fld.SCL_STATUS_MET_BUSY.reg = .SCL_STATUS from rfl, hstatus]
  have hnonce : (d.setReg .SEC_MET_CMD v).nonce = d.nonce := Dev.nonce_congr fun i => d.reg_setReg_ne _ _ _ _ _ (by decide)
  unfold Dev.metStart
  dsimp only
  rw [if_neg (by rw [hbusy]; decide), Dev.emitRead_eq, hnonce]
  rfl

theorem Dev.metStart_busy {d : Dev} (v : BitVec 64) (h : d.flag .SCL_STATUS_MET_BUSY = true) :
    d.metStart v = (d.setReg .SEC_MET_CMD v).metRefuse 4 := by
  have hstatus : (d.setReg .SEC_MET_CMD v).reg .SCL_STATUS = d.reg .SCL_STATUS := d.reg_setReg_ne _ _ _ _ _ (by decide)
  refine if_pos ?_
  unfold Dev.flag Dev.f at h ⊢
  rwa [show Fld.SCL_STATUS_MET_BUSY.reg = .SCL_STATUS from rfl, hstatus]

/-- The fetched command is no longer in progress. -/
def Dev.metEnded (d : Dev) : Dev := (d.setF .SCL_STATUS_MET_BUSY 0).updScl (fun s => { s with met := none })

/-- What an accepted command changes before it is reported: the flash, the seal counter and the setting that waits. -/
def Dev.metApplied (d : Dev) (bytes : List Byte) (len : Nat) (region : Option ScalerRegion) : Dev :=
  let d := d.emit (if leAt bytes 2 1 = 3 then .flashWrite 0x07F00000 (slice bytes 64 (len - 1088))
    else .regionWrite (leAt bytes 2 1) (slice bytes 64 (len - 1088)))
  let d := ({ d with fuses := { d.fuses with seals := d.fuses.seals + 1 } }).setF .SCL_SEAL_COUNT (d.fuses.seals + 1)
  d.updScl (fun s =>
    if leAt bytes 2 1 = 1 then { s with nextPeriod := some (leAt bytes 64 8) }
    else if leAt bytes 2 1 = 2 then { s with nextCal := region.map (fun r => (r.gain, r.offset, r.perGrant)) }
    else s)

/-- METROLOGY_COMMAND_DONE with its checks' answer. -/
theorem Dev.metDone_eq {d : Dev} {a len : Nat} {n : BitVec 256} (bytes : List Byte) (region : Option ScalerRegion)
    (h : d.scl.met = some (a, len, n)) :
    (∀ cause, d.metCheck n (padTo len (bytes.take len)) region = some cause →
      d.metDone bytes region = d.metEnded.metRefuse cause) ∧
    (d.metCheck n (padTo len (bytes.take len)) region = none → d.metDone bytes region =
      ((d.metEnded.metApplied (padTo len (bytes.take len)) len region).post .SCL_SEAL_EVENT).drawNonce) := by
  have hcheck : ∀ b, d.metEnded.metCheck n b region = d.metCheck n b region := fun _ => rfl
  refine ⟨fun cause hc => ?_, fun hc => ?_⟩
  · unfold Dev.metDone
    rw [h]
    have hc' := (hcheck _).trans hc
    unfold Dev.metEnded at hc'
    simp only [hc']
    rfl
  · unfold Dev.metDone
    rw [h]
    have hc' := (hcheck _).trans hc
    unfold Dev.metEnded at hc'
    simp only [hc']
    rfl

theorem Dev.metApplied_spec (d : Dev) (b : List Byte) (len : Nat) (region : Option ScalerRegion) :
    (d.metApplied b len region).scl.met = d.scl.met ∧
    (d.metApplied b len region).fuses = { d.fuses with seals := d.fuses.seals + 1 } ∧
    (d.metApplied b len region).out = d.out ++ [if leAt b 2 1 = 3 then .flashWrite 0x07F00000 (slice b 64 (len - 1088))
      else .regionWrite (leAt b 2 1) (slice b 64 (len - 1088))] ∧
    (d.metApplied b len region).link = d.link ∧ (d.metApplied b len region).count = d.count ∧
    (d.metApplied b len region).free = d.free ∧ (d.metApplied b len region).reg .SCL_STATUS = d.reg .SCL_STATUS ∧
    (leAt b 2 1 = 1 → (d.metApplied b len region).scl.nextPeriod = some (leAt b 64 8)) := by
  unfold Dev.metApplied
  refine ⟨?_, rfl, rfl, rfl, ?_, rfl, ?_, fun h => ?_⟩
  · show SclSt.met (if _ then _ else _) = _
    split
    · rfl
    · split <;> rfl
  · exact Dev.count_setF _ _ _ _ _ (by decide)
  · exact Dev.reg_setF_ne _ _ _ _ _ _ _ _ (by decide)
  · show SclSt.nextPeriod (if _ then _ else _) = _
    rw [if_pos h]

/-- Settles O32: the fetch takes the nonce of its moment, and the checks decide between the refusal and the change. -/
theorem metrologyCommands : Obligations.MetrologyCommands := by
  unfold Obligations.MetrologyCommands
  intro s
  refine ⟨fun ap v hacc => ⟨fun hbusy => ?_, fun hbusy => ?_⟩, fun bytes region a len n hmet hst => ?_⟩
  · refine Completes.of_accepted (g := fun d => d.metStart v) rfl hacc ?_
    rw [Dev.metStart_starts v hbusy]
    have hf := (s.dev.setReg .SEC_MET_CMD v).f_setF_same .SCL_STATUS_MET_BUSY 1 0 0 (by decide)
    have hbut := (((Dev.regsBut.refl s.dev [Reg.code .SCL_STATUS 0 0, Reg.code .SEC_MET_CMD 0 0]).setReg (r := .SEC_MET_CMD) v
      (i := 0) (j := 0) (by simp)).setF (f := .SCL_STATUS_MET_BUSY) 1 (i := 0) (j := 0) (by simp))
    generalize (s.dev.setReg .SEC_MET_CMD v).setF .SCL_STATUS_MET_BUSY 1 = m at *
    exact ⟨Dev.flag_of_one hf, rfl, rfl, hbut.congr rfl⟩
  · refine Completes.of_accepted (g := fun d => d.metStart v) rfl hacc ?_
    rw [Dev.metStart_busy v hbusy]
    obtain ⟨hposted, hscl, -, hnonce, hfree, -⟩ := (s.dev.setReg .SEC_MET_CMD v).metRefuse_spec 4
    have hcount : (s.dev.setReg .SEC_MET_CMD v).count = s.dev.count :=
      congrArg BitVec.toNat (s.dev.reg_setReg_ne _ _ _ _ _ (by decide))
    have hp := Dev.posted_congr (d := s.dev) (d' := s.dev.setReg .SEC_MET_CMD v) rfl hcount rfl hposted
    generalize (s.dev.setReg .SEC_MET_CMD v).metRefuse 4 = e at *
    exact ⟨hp.settle, hscl, hnonce, hfree⟩
  · obtain ⟨hrefused, haccepted⟩ := Dev.metDone_eq bytes region hmet
    have hbusy : s.dev.metEnded.f .SCL_STATUS_MET_BUSY = 0 := s.dev.f_setF_same .SCL_STATUS_MET_BUSY 0 0 0 (by decide)
    have hcount : s.dev.metEnded.count = s.dev.count := Dev.count_setF s.dev _ _ _ _ (by decide)
    have hf : ∀ e : Dev, e.reg .SCL_STATUS = s.dev.metEnded.reg .SCL_STATUS → e.flag .SCL_STATUS_MET_BUSY = false := fun e he =>
      Dev.flag_of_zero ((congrArg Fld.SCL_STATUS_MET_BUSY.of he).trans hbusy)
    refine ⟨fun cause hc => ?_, fun hc => ?_⟩
    · refine Completes.of_engine (g := fun d => d.metDone bytes region) rfl hst ?_
      dsimp only
      rw [hrefused cause hc]
      obtain ⟨hposted, hscl, hfuses, hnonce, -, hreg⟩ := s.dev.metEnded.metRefuse_spec cause
      have hp := Dev.posted_congr (d := s.dev) (d' := s.dev.metEnded) rfl hcount rfl hposted
      have hb := hf _ hreg
      generalize s.dev.metEnded.metRefuse cause = e at *
      exact ⟨hb, hscl, hfuses, hp.settle, hnonce⟩
    · refine Completes.of_engine (g := fun d => d.metDone bytes region) rfl hst ?_
      dsimp only
      rw [haccepted hc]
      obtain ⟨hmet', hfuses, hout, hlink, hcnt, hfree, hreg, hper⟩ :=
        s.dev.metEnded.metApplied_spec (padTo len (bytes.take len)) len region
      generalize s.dev.metEnded.metApplied (padTo len (bytes.take len)) len region = m at *
      have hnote := m.post_note (c := .SCL_SEAL_EVENT) 0 0 {} 0 (by decide)
      have hposted := (Dev.posted_congr (d := s.dev) hlink (hcnt.trans hcount) rfl
        (m.post_posted_of .SCL_SEAL_EVENT 0 0 {} 0 (P := fun _ => True) trivial)).drawNonce
      generalize m.post .SCL_SEAL_EVENT = p at *
      have hpf : p.free = s.dev.free := by rw [hnote]; exact hfree
      have hpr : p.reg .SCL_STATUS = m.reg .SCL_STATUS := by rw [hnote]; rfl
      have hscl : p.drawNonce.scl = m.scl := (congrArg Dev.scl p.drawNonce_spec.2 : _ = p.scl).trans (by rw [hnote])
      have hfs : p.drawNonce.fuses = m.fuses := (congrArg Dev.fuses p.drawNonce_spec.2 : _ = p.fuses).trans (by rw [hnote])
      have hos : p.drawNonce.out = m.out := (congrArg Dev.out p.drawNonce_spec.2 : _ = p.out).trans (by rw [hnote])
      have hnonce := hpf ▸ p.drawNonce_nonce
      have hb := hf _ ((p.drawNonce_spec.1 .SCL_STATUS 0 0 (by decide)).trans (hpr.trans hreg))
      generalize p.drawNonce = e at *
      exact ⟨hb, (congrArg SclSt.met hscl).trans hmet', hfs.trans hfuses, hos.trans hout, hposted.settle, hnonce,
        fun h => (congrArg SclSt.nextPeriod hscl).trans (hper h)⟩

/-! ## The security controller -/

/-- A field outside the bits that a write reaches keeps its value. -/
theorem Dev.f_plainWrite_stays (d : Dev) (f : Fld) (v : BitVec 64) (i j : Nat) (hr : f.reg ≠ .PART_ARRAYS)
    (h : f.within (~~~(BitVec.ofNat 64 f.reg.spec.rw ||| BitVec.ofNat 64 f.reg.spec.w1c)) = true) :
    (d.plainWrite f.reg v i j).f f i j = d.f f i j := by
  rw [Dev.plainWrite_eq d v i j hr, Dev.f, Dev.reg_setReg_same]
  refine f.of_congr fun k hlo hk => ?_
  have hb := Fld.within_bit h hlo hk
  simp only [BitVec.getLsbD_not, BitVec.getLsbD_or, Bool.and_eq_true, Bool.not_eq_true', Bool.or_eq_false_iff] at hb
  obtain ⟨hlt, hrw, hw1c⟩ := hb
  have hlt : k < 64 := by simpa using hlt
  simp [written, BitVec.getLsbD_and, BitVec.getLsbD_or, BitVec.getLsbD_not, hrw, hw1c, hlt, -BitVec.getLsbD_eq_getElem]

/-- What the write of SEC_QUOTE_CTRL leaves in its register. -/
theorem Dev.quoteCtrl_written (d : Dev) (v : BitVec 64) :
    (d.plainWrite .SEC_QUOTE_CTRL v).f .SEC_QUOTE_CTRL_ADDR = Fld.SEC_QUOTE_CTRL_ADDR.of v ∧
    (d.plainWrite .SEC_QUOTE_CTRL v).flag .SEC_QUOTE_CTRL_BUSY = d.flag .SEC_QUOTE_CTRL_BUSY := by
  refine ⟨d.f_plainWrite .SEC_QUOTE_CTRL_ADDR v 0 0 (by decide) (by decide), ?_⟩
  unfold Dev.flag
  rw [d.f_plainWrite_stays .SEC_QUOTE_CTRL_BUSY v 0 0 (by decide) (by decide)]

theorem Dev.quoteCtrl_starts {d : Dev} {v : BitVec 64} (hgo : Fld.SEC_QUOTE_CTRL_GO.of v = 1)
    (hbusy : d.flag .SEC_QUOTE_CTRL_BUSY = false) : d.quoteCtrl v =
      { (d.plainWrite .SEC_QUOTE_CTRL v).setF .SEC_QUOTE_CTRL_BUSY 1 with
        sec := { d.sec with quote := some (Fld.SEC_QUOTE_CTRL_ADDR.of v * 64) }
        out := d.out ++ [.memRead (Fld.SEC_QUOTE_CTRL_ADDR.of v * 64) 64] } := by
  obtain ⟨haddr, hb⟩ := d.quoteCtrl_written v
  unfold Dev.quoteCtrl
  dsimp only
  rw [if_neg (by simp [hgo]), if_neg (by simp [hb, hbusy]), haddr]
  rfl

theorem Dev.quoteCtrl_busy {d : Dev} {v : BitVec 64} (hgo : Fld.SEC_QUOTE_CTRL_GO.of v = 1)
    (hbusy : d.flag .SEC_QUOTE_CTRL_BUSY = true) :
    d.quoteCtrl v = (d.plainWrite .SEC_QUOTE_CTRL v).post .SEC_QUOTE_REFUSED := by
  unfold Dev.quoteCtrl
  dsimp only
  exact (if_neg (by simp [hgo])).trans (if_pos (by rw [(d.quoteCtrl_written v).2]; exact hbusy))

/-- The quote is written after its nonce, signed by the identity key. -/
theorem Dev.quoteDone_writes {d : Dev} {a : Nat} (nonce : Line) (hq : d.sec.quote = some a) (hup : d.link.up = true) :
    d.quoteDone nonce = (({ d with
      sec := { d.sec with quote := none }
      out := d.out ++ [.memWrite (a + 64) (d.quoteBytes nonce ++
        rsaSign d.fuses.idKey.n d.fuses.idKey.d (d.quoteBytes nonce))] } : Dev).setF .SEC_QUOTE_CTRL_BUSY 0).setF .SEC_QUOTE_CTRL_DONE 1 := by
  unfold Dev.quoteDone
  rw [hq]
  exact if_neg (by simp [hup])

/-- What the write of SEC_FLASH_CTRL leaves in its register. -/
theorem Dev.flashCtrl_written (d : Dev) (v : BitVec 64) :
    (d.plainWrite .SEC_FLASH_CTRL v).f .SEC_FLASH_CTRL_DEST_64 = Fld.SEC_FLASH_CTRL_DEST_64.of v ∧
    (d.plainWrite .SEC_FLASH_CTRL v).f .SEC_FLASH_CTRL_LEN_64 = Fld.SEC_FLASH_CTRL_LEN_64.of v ∧
    (d.plainWrite .SEC_FLASH_CTRL v).flag .SEC_FLASH_CTRL_BUSY = d.flag .SEC_FLASH_CTRL_BUSY ∧
    (d.plainWrite .SEC_FLASH_CTRL v).f .SEC_FLASH_SRC_ADDR = d.f .SEC_FLASH_SRC_ADDR := by
  refine ⟨d.f_plainWrite .SEC_FLASH_CTRL_DEST_64 v 0 0 (by decide) (by decide),
    d.f_plainWrite .SEC_FLASH_CTRL_LEN_64 v 0 0 (by decide) (by decide), ?_, d.f_plainWrite_ne _ v _ _ _ _ (by decide)⟩
  unfold Dev.flag
  rw [d.f_plainWrite_stays .SEC_FLASH_CTRL_BUSY v 0 0 (by decide) (by decide)]

theorem Dev.flashCtrl_starts {d : Dev} {ap : Aperture} {v : BitVec 64} (hgo : Fld.SEC_FLASH_CTRL_GO.of v = 1)
    (hbusy : d.flag .SEC_FLASH_CTRL_BUSY = false)
    (hbad : flashBad (Fld.SEC_FLASH_CTRL_DEST_64.of v * 64) (Fld.SEC_FLASH_CTRL_LEN_64.of v * 64) = false) : d.flashCtrl ap v =
      { (d.plainWrite .SEC_FLASH_CTRL v).setF .SEC_FLASH_CTRL_BUSY 1 with
        sec := { d.sec with flash := some (Fld.SEC_FLASH_CTRL_DEST_64.of v * 64, Fld.SEC_FLASH_CTRL_LEN_64.of v * 64,
          d.f .SEC_FLASH_SRC_ADDR * 64) }
        out := d.out ++ memReads (d.f .SEC_FLASH_SRC_ADDR * 64) (Fld.SEC_FLASH_CTRL_LEN_64.of v * 64) } := by
  obtain ⟨hoff, hlen, hb, hsrc⟩ := d.flashCtrl_written v
  unfold Dev.flashCtrl
  dsimp only
  rw [if_neg (by simp [hgo]), hoff, hlen, if_neg (by simp [hb, hbusy, hbad]), hsrc, Dev.emitRead_eq]
  rfl

theorem Dev.flashCtrl_refused {d : Dev} {ap : Aperture} {v : BitVec 64} (hgo : Fld.SEC_FLASH_CTRL_GO.of v = 1)
    (h : d.flag .SEC_FLASH_CTRL_BUSY = true ∨
      flashBad (Fld.SEC_FLASH_CTRL_DEST_64.of v * 64) (Fld.SEC_FLASH_CTRL_LEN_64.of v * 64) = true) :
    d.flashCtrl ap v = ((d.plainWrite .SEC_FLASH_CTRL v).setF .SEC_FLASH_CTRL_REFUSED 1).refuseReg ap .SEC_FLASH_CTRL := by
  obtain ⟨hoff, hlen, hb, -⟩ := d.flashCtrl_written v
  unfold Dev.flashCtrl
  dsimp only
  rw [if_neg (by simp [hgo]), hoff, hlen]
  exact if_pos (by simpa [hb] using h)

theorem Dev.flashDone_writes {d : Dev} {off len src : Nat} (data : List Byte) (h : d.sec.flash = some (off, len, src)) :
    d.flashDone data = (({ d with
      sec := { d.sec with flash := none }
      out := d.out ++ [.flashWrite off (padTo len (data.take len))] } : Dev).setF .SEC_FLASH_CTRL_BUSY 0).setF .SEC_FLASH_CTRL_DONE 1 := by
  unfold Dev.flashDone
  rw [h]
  rfl

/-- BUSY cleared and DONE set in a register that holds both. -/
theorem Dev.busy_done (d : Dev) (b f : Fld) (hr : b.reg = f.reg) (hb : b.lo + b.width ≤ 64 ∧ 0 < b.width) (hf : f.lo + f.width ≤ 64 ∧ 0 < f.width)
    (hd : b.lo + b.width ≤ f.lo ∨ f.lo + f.width ≤ b.lo) :
    ((d.setF b 0).setF f 1).flag b = false ∧ ((d.setF b 0).setF f 1).flag f = true ∧
    d.regsBut ((d.setF b 0).setF f 1) [b.reg.code 0 0] := by
  refine ⟨Dev.flag_of_zero ?_, Dev.flag_of_one ?_, ((Dev.regsBut.refl d _).setF 0 (by simp)).setF 1 (by simp [hr])⟩
  · exact (Dev.f_setF_apart _ f b 1 0 0 hr hf.1 hd).trans ((d.f_setF_same b 0 0 0 hb.1).trans (Nat.zero_mod _))
  · exact (Dev.f_setF_same _ f 1 0 0 hf.1).trans (Nat.mod_eq_of_lt (Nat.one_lt_two_pow (by omega)))

/-- Settles O33: GO and the ends of the SC's work act on one register, the SC's state and one message. -/
theorem securityController : Obligations.SecurityController := by
  unfold Obligations.SecurityController
  intro s
  refine ⟨fun ap v hacc hgo => ⟨fun hbusy => ?_, fun hbusy => ?_⟩, fun nonce a hq hup hst => ?_, fun ap hans => ?_,
    fun ap v hacc hgo => ⟨fun hbusy hbad => ?_, fun hbad => ?_⟩, fun data off len src hfl => ?_⟩
  · refine Completes.of_accepted (g := fun d => d.quoteCtrl v) rfl hacc ?_
    rw [Dev.quoteCtrl_starts hgo hbusy]
    have hf := (s.dev.plainWrite .SEC_QUOTE_CTRL v).f_setF_same .SEC_QUOTE_CTRL_BUSY 1 0 0 (by decide)
    have hbut := ((Dev.regsBut.refl s.dev [Reg.code .SEC_QUOTE_CTRL 0 0]).plainWrite (r := .SEC_QUOTE_CTRL) v
      (i := 0) (j := 0) (by simp)).setF (f := .SEC_QUOTE_CTRL_BUSY) 1 (i := 0) (j := 0) (by simp)
    generalize (s.dev.plainWrite .SEC_QUOTE_CTRL v).setF .SEC_QUOTE_CTRL_BUSY 1 = m at *
    exact ⟨rfl, Dev.flag_of_one hf, rfl, hbut.congr rfl⟩
  · refine Completes.of_accepted (g := fun d => d.quoteCtrl v) rfl hacc ?_
    rw [Dev.quoteCtrl_busy hgo hbusy]
    have hp := Dev.posted_congr (d := s.dev) (d' := s.dev.plainWrite .SEC_QUOTE_CTRL v) rfl
      (congrArg BitVec.toNat (s.dev.reg_setReg_ne _ _ _ _ _ (by decide))) rfl
      ((s.dev.plainWrite .SEC_QUOTE_CTRL v).post_posted_of .SEC_QUOTE_REFUSED 0 0 {} 0 (P := fun _ => True) trivial)
    have hnote := (s.dev.plainWrite .SEC_QUOTE_CTRL v).post_note (c := .SEC_QUOTE_REFUSED) 0 0 {} 0 (by decide)
    generalize (s.dev.plainWrite .SEC_QUOTE_CTRL v).post .SEC_QUOTE_REFUSED = e at *
    exact ⟨hp.settle, (congrArg Dev.sec hnote :), (congrArg Dev.out hnote :)⟩
  · refine Completes.of_engine (g := fun d => d.quoteDone nonce) rfl hst ?_
    rw [Dev.quoteDone_writes nonce hq hup]
    generalize hm : ({ s.dev with sec := _, out := _ } : Dev) = m
    obtain ⟨hb, hd, hbut⟩ := m.busy_done .SEC_QUOTE_CTRL_BUSY .SEC_QUOTE_CTRL_DONE rfl (by decide) (by decide) (by decide)
    refine ⟨by rw [← hm]; rfl, hb, hd, by rw [← hm]; rfl, ?_⟩
    rw [← hm] at hbut ⊢
    exact hbut
  · obtain ⟨hup, hbusy, hmay⟩ := Dev.answers_iff.mp hans
    refine Completes.of_act (g := fun d => d.hostRead ap (Reg.SEC_CERT.addrOf 0 0) 4 Dev.certRead) rfl ?_
    rw [s.dev.hostRead_ok _ _ _ _ hup hbusy hmay]
    exact ⟨rfl, s.dev.f_setF_same .SEC_CERT_SEL_WORD _ 0 0 (by decide), (Dev.regsBut.refl s.dev _).setF _ (by simp)⟩
  · refine Completes.of_accepted (g := fun d => d.flashCtrl ap v) rfl hacc ?_
    rw [Dev.flashCtrl_starts hgo hbusy hbad]
    have hf := (s.dev.plainWrite .SEC_FLASH_CTRL v).f_setF_same .SEC_FLASH_CTRL_BUSY 1 0 0 (by decide)
    have hbut := ((Dev.regsBut.refl s.dev [Reg.code .SEC_FLASH_CTRL 0 0]).plainWrite (r := .SEC_FLASH_CTRL) v
      (i := 0) (j := 0) (by simp)).setF (f := .SEC_FLASH_CTRL_BUSY) 1 (i := 0) (j := 0) (by simp)
    generalize (s.dev.plainWrite .SEC_FLASH_CTRL v).setF .SEC_FLASH_CTRL_BUSY 1 = m at *
    exact ⟨rfl, Dev.flag_of_one hf, rfl, hbut.congr rfl⟩
  · refine Completes.of_accepted (g := fun d => d.flashCtrl ap v) rfl hacc ?_
    rw [Dev.flashCtrl_refused hgo hbad]
    have hf := (s.dev.plainWrite .SEC_FLASH_CTRL v).f_setF_same .SEC_FLASH_CTRL_REFUSED 1 0 0 (by decide)
    have hcount : ((s.dev.plainWrite .SEC_FLASH_CTRL v).setF .SEC_FLASH_CTRL_REFUSED 1).count = s.dev.count :=
      (Dev.count_setF _ _ _ _ _ (by decide)).trans (congrArg BitVec.toNat (s.dev.reg_setReg_ne _ _ _ _ _ (by decide)))
    have hrest := ((Dev.restSame.refl s.dev).plainWrite .SEC_FLASH_CTRL v 0 0).setF .SEC_FLASH_CTRL_REFUSED 1 0 0
    generalize (s.dev.plainWrite .SEC_FLASH_CTRL v).setF .SEC_FLASH_CTRL_REFUSED 1 = m at *
    exact ⟨Dev.flag_of_one hf, (congrArg Dev.sec hrest :), (congrArg Dev.out hrest :),
      (Dev.posted_congr (d := s.dev) (d' := m) hrest.link hcount rfl
        ((m.refuse_posted ap _ true).mono fun _ h => h.1)).settle⟩
  · refine Completes.of_act (g := fun d => d.flashDone data) rfl ?_
    rw [Dev.flashDone_writes data hfl]
    generalize hm : ({ s.dev with sec := _, out := _ } : Dev) = m
    obtain ⟨hb, hd, hbut⟩ := m.busy_done .SEC_FLASH_CTRL_BUSY .SEC_FLASH_CTRL_DONE rfl (by decide) (by decide) (by decide)
    refine ⟨by rw [← hm]; rfl, hb, hd, by rw [← hm]; rfl, ?_⟩
    rw [← hm] at hbut ⊢
    exact hbut

end Sys2Proof.Machine
end

section
/-! PROOFS. Arbiters: grants, draws and their LFSRs (R308 to R312, R344). -/

namespace Sys2Proof.Machine

/-! ## Grants -/

/-- The grants of an arbiter after one is set: its own, and every other arbiter's as it was. -/
theorem Dev.grantOf_setGrant (d : Dev) (a : Nat) (g : Option Grant) (h : ∀ x, g = some x → x.arb = a) :
    (d.setGrant a g).grantOf a = g ∧ ∀ b, b ≠ a → (d.setGrant a g).grantOf b = d.grantOf b := by
  have hfilter : ∀ b, (d.arb.grants.filter (fun x => x.arb != a)).find? (fun x => x.arb == b) =
      if b = a then none else d.grantOf b := by
    intro b
    rw [List.find?_filter]
    split
    · next hb => exact List.find?_eq_none.mpr (by simp [hb])
    · next hb =>
      refine congrArg (fun p => d.arb.grants.find? p) (funext fun x => ?_)
      by_cases hx : x.arb = b
      · simp [hx, hb]
      · simp [hx]
  unfold Dev.grantOf Dev.setGrant Dev.updArb
  simp only [List.find?_append, hfilter, if_true, Option.none_or]
  refine ⟨?_, fun b hb => ?_⟩
  · cases g with
    | none => rfl
    | some x => simp [h x rfl]
  · rw [if_neg hb]
    cases g with
    | none => exact Option.or_none
    | some x =>
      have hx : x.arb ≠ b := by rw [h x rfl]; exact fun hc => hb hc.symm
      simp [hx, Dev.grantOf]

/-- A grant found for an arbiter is that arbiter's. -/
theorem Dev.grantOf_arb {d : Dev} {a : Nat} {g : Grant} (h : d.grantOf a = some g) : g.arb = a := by
  simpa using List.find?_some h

/-- The grant is parked: its unit is not in progress any more. -/
theorem Dev.grantOf_parkGrant (d : Dev) (a : Nat) :
    (d.parkGrant a).grantOf a = (d.grantOf a).map (fun g => { g with busy := false }) ∧
    ∀ b, b ≠ a → (d.parkGrant a).grantOf b = d.grantOf b := by
  refine d.grantOf_setGrant a _ fun x hx => ?_
  obtain ⟨g, hg, rfl⟩ := Option.map_eq_some_iff.mp hx
  exact Dev.grantOf_arb (g := g) hg

/-! ## The Scaler's charge of a grant -/

theorem Dev.scalerMoves.refl (d : Dev) : d.scalerMoves d := ⟨fun _ _ _ _ _ => rfl, rfl⟩

theorem Dev.scalerMoves.trans {d m e : Dev} (h : d.scalerMoves m) (h' : m.scalerMoves e) : d.scalerMoves e where
  reg r i j h1 h2 := (h'.reg r i j h1 h2).trans (h.reg r i j h1 h2)
  rest := (congrArg (fun x : Dev => { x with regs := d.regs, scl := d.scl }) h'.rest).trans h.rest

theorem Dev.scalerMoves.sclAdd (d : Dev) (job part : Nat) (g : SclPair → SclPair) : d.scalerMoves (d.sclAdd job part g) := by
  unfold Dev.sclAdd
  dsimp only
  split
  · exact .updScl d _
  · split
    · exact (d.endPeriod_moves ..).trans (.updScl _ _)
    · exact .updScl d _

theorem Dev.scalerMoves.sclGrant (d : Dev) (k : GrantKind) (part : Option Nat) : d.scalerMoves (d.sclGrant k part) := by
  unfold Dev.sclGrant
  split
  · exact refl d
  · split
    · split
      · exact sclAdd ..
      · exact .updScl d _
    · exact .updScl d _

/-! ## Draws -/

/-- An LFSR is never 0, and an advance of one of 32 bits is one of 32 bits that is not 0. -/
theorem Dev.lfsr_pos (d : Dev) (a : Nat) : 0 < d.lfsr a := by
  have hload : ∀ s, 0 < lfsrLoad s a := fun s => by
    unfold lfsrLoad
    dsimp only
    split <;> omega
  unfold Dev.lfsr
  dsimp only
  split
  · exact hload _
  · omega

theorem lfsrStep_bounds {x : Nat} (hpos : 0 < x) (hlt : x < 2 ^ 32) : 0 < lfsrStep x ∧ lfsrStep x < 2 ^ 32 := by
  unfold lfsrStep
  split
  · refine ⟨Nat.pos_of_ne_zero fun h => ?_, Nat.xor_lt_two_pow (by omega) (by decide)⟩
    have heq : x / 2 = 0x80200003 := Nat.xor_eq_zero_iff.mp h
    omega
  · exact ⟨by omega, by omega⟩

theorem Dev.draw_lfsr (d : Dev) (a : Nat) {reqs : List (Nat × Nat)} (hlfsr : d.lfsr a < 2 ^ 32) (h : sortBy Prod.fst reqs ≠ []) :
    (d.draw a reqs).1.lfsr a = lfsrStep (d.lfsr a) ∧ (∀ b, b ≠ a → (d.draw a reqs).1.lfsr b = d.lfsr b) ∧
    (d.draw a reqs).1 = { d with arb := { d.arb with lfsr := SMap.set 0 d.arb.lfsr a (lfsrStep (d.lfsr a)) } } ∧
    (d.draw a reqs).2 = lotteryWalk (lfsrStep (d.lfsr a) * sumNat ((sortBy Prod.fst reqs).map Prod.snd) / 2 ^ 32) 0 (sortBy Prod.fst reqs) := by
  have hpos := (lfsrStep_bounds (d.lfsr_pos a) hlfsr).1
  have heq : d.draw a reqs = ({ d with arb := { d.arb with lfsr := SMap.set 0 d.arb.lfsr a (lfsrStep (d.lfsr a)) } },
      lotteryWalk (lfsrStep (d.lfsr a) * sumNat ((sortBy Prod.fst reqs).map Prod.snd) / 2 ^ 32) 0 (sortBy Prod.fst reqs)) :=
    if_neg (by simpa using h)
  rw [heq]
  refine ⟨?_, fun b hb => ?_, rfl, rfl⟩
  · show (let x := SMap.get 0 (SMap.set 0 d.arb.lfsr a (lfsrStep (d.lfsr a))) a; if x = 0 then _ else x) = _
    dsimp only
    rw [SMap.get_set, if_pos rfl, if_neg (by omega)]
  · show (let x := SMap.get 0 (SMap.set 0 d.arb.lfsr a (lfsrStep (d.lfsr a))) b; if x = 0 then _ else x) = _
    dsimp only
    rw [SMap.get_set, if_neg hb]
    rfl

/-! ### The walk along the tickets -/

theorem sumNat_eq (l : List Nat) : sumNat l = l.sum := by
  have h : ∀ (l : List Nat) n, l.foldl (· + ·) n = n + l.sum := by
    intro l
    induction l with
    | nil => exact fun n => rfl
    | cons a l ih => intro n; rw [List.foldl_cons, ih, List.sum_cons, Nat.add_assoc]
  exact (h l 0).trans (Nat.zero_add _)

/-- The walk ends at the first input at which the sum of tickets exceeds the number. -/
theorem lotteryWalk_splits (r : Nat) (t : ArbReq → Nat) (l : List ArbReq) (acc : Nat) (hlo : acc ≤ r)
    (hhi : r < acc + (l.map t).sum) : ∃ before w after, l = before ++ w :: after ∧ acc + (before.map t).sum ≤ r ∧
      r < acc + (before.map t).sum + t w ∧ lotteryWalk r acc (l.map (fun q => (q.input, t q))) = some w.input := by
  induction l generalizing acc with
  | nil => exact absurd hhi (by simpa using hlo)
  | cons q l ih =>
    rw [List.map_cons, lotteryWalk]
    by_cases h : r < acc + t q
    · exact ⟨[], q, l, rfl, by simpa using hlo, by simpa using h, if_pos h⟩
    · obtain ⟨before, w, after, rfl, h1, h2, h3⟩ := ih (acc + t q) (by omega) (by
        simpa [List.map_cons, List.sum_cons, Nat.add_assoc] using hhi)
      exact ⟨q :: before, w, after, rfl, by simpa [Nat.add_assoc] using h1, by simpa [Nat.add_assoc] using h2,
        (if_neg h).trans h3⟩

/-- A list in ascending order is left by the sort. -/
theorem sortBy_of_pairwise {α : Type} (key : α → Nat) (l : List α) (h : (l.map key).Pairwise (· < ·)) : sortBy key l = l := by
  have hinsert : ∀ (acc : List α) x, (∀ y ∈ acc, key y < key x) → insertBy key x acc = acc ++ [x] := by
    intro acc x hacc
    induction acc with
    | nil => rfl
    | cons y ys ih =>
      have hy := hacc y (.head ys)
      exact (if_neg (by omega)).trans (congrArg (y :: ·) (ih fun z hz => hacc z (.tail y hz)))
  have hfold : ∀ (acc : List α), ((acc ++ l).map key).Pairwise (· < ·) →
      l.foldl (fun acc x => insertBy key x acc) acc = acc ++ l := by
    clear h
    induction l with
    | nil => exact fun acc _ => (List.append_nil acc).symm
    | cons x l ih =>
      intro acc hp
      have hx : ∀ y ∈ acc, key y < key x := by
        rw [List.map_append, List.pairwise_append] at hp
        exact fun y hy => hp.2.2 _ (List.mem_map_of_mem hy) _ (by simp)
      rw [List.foldl_cons, hinsert acc x hx, ih _ (by simpa using hp), List.append_assoc]
      rfl
  exact hfold [] h

/-- Whose unit begins: the grant is set, and at most the Scaler is told. -/
theorem Dev.grantAmong_won {d m : Dev} {a i : Nat} {active : List ArbReq}
    (h : d.arbitrate a ((d.requests a active).map (fun r => (r.input, d.ticket (arbClass a) r))) = (m, some i)) :
    (m.setGrant a (some ⟨a, i, ((d.requests a active).find? (fun r => r.input == i)).bind ArbReq.cmd, true, false⟩)).scalerMoves
      (d.grantAmong a active) := by
  unfold Dev.grantAmong
  dsimp only
  rw [h]
  dsimp only
  split
  · exact .sclGrant ..
  · exact .sclGrant ..
  · exact .sclGrant ..
  · exact .refl _

theorem Dev.grantAmong_none {d m : Dev} {a : Nat} {active : List ArbReq}
    (h : d.arbitrate a ((d.requests a active).map (fun r => (r.input, d.ticket (arbClass a) r))) = (m, none)) :
    d.grantAmong a active = m := by
  unfold Dev.grantAmong
  dsimp only
  rw [h]

/-- The request of an input, among requests of different inputs. -/
theorem find?_input {before after : List ArbReq} {w : ArbReq}
    (h : ((before ++ w :: after).map ArbReq.input).Pairwise (· < ·)) :
    (before ++ w :: after).find? (fun r => r.input == w.input) = some w := by
  rw [List.map_append, List.pairwise_append] at h
  have hb : before.find? (fun r => r.input == w.input) = none := List.find?_eq_none.mpr fun q hq => by
    have := h.2.2 _ (List.mem_map_of_mem hq) w.input (by simp)
    simp; omega
  rw [List.find?_append, hb]
  simp

/-- The frame of a draw of an arbiter: no other arbiter, no command, no memory and no report changes. -/
def Dev.drawFrame (d e : Dev) (a : Nat) : Prop :=
  (∀ b, b ≠ a → e.lfsr b = d.lfsr b ∧ e.grantOf b = d.grantOf b) ∧ e.cmds = d.cmds ∧ e.mem = d.mem ∧ e.link = d.link

/-- What stands once an input has won. -/
theorem Dev.won_spec {d p m e : Dev} {a i : Nat} {cmd : Option Nat} (hp : p = d.parkGrant a)
    (hm : { m with arb := p.arb } = p) (hgrants : m.arb.grants = p.arb.grants) (hl : ∀ b, b ≠ a → m.lfsr b = p.lfsr b)
    (h : (m.setGrant a (some ⟨a, i, cmd, true, false⟩)).scalerMoves e) :
    d.drawFrame e a ∧ e.grantOf a = some ⟨a, i, cmd, true, false⟩ ∧ e.lfsr a = m.lfsr a ∧ e.arb.lfsr = m.arb.lfsr := by
  obtain ⟨hself, hother⟩ := m.grantOf_setGrant a (some ⟨a, i, cmd, true, false⟩) (by rintro x hx; cases hx; rfl)
  have harb : e.arb = (m.setGrant a (some ⟨a, i, cmd, true, false⟩)).arb := (congrArg Dev.arb h.rest :)
  have hgrant : ∀ b, e.grantOf b = (m.setGrant a (some ⟨a, i, cmd, true, false⟩)).grantOf b := fun b => by
    unfold Dev.grantOf
    rw [harb]
  have hlfsr : ∀ b, e.lfsr b = m.lfsr b := fun b => by
    unfold Dev.lfsr
    rw [harb]
    rfl
  have hmg : ∀ b, m.grantOf b = p.grantOf b := fun b => by
    unfold Dev.grantOf
    rw [hgrants]
  refine ⟨⟨fun b hb => ⟨?_, ?_⟩, ?_, ?_, ?_⟩, (hgrant a).trans hself, hlfsr a, by rw [harb]; rfl⟩
  · rw [hlfsr, hl b hb, hp]
    rfl
  · rw [hgrant, hother b hb, hmg, hp]
    exact (d.grantOf_parkGrant a).2 b hb
  · exact (congrArg Dev.cmds h.rest :).trans ((congrArg Dev.cmds hm :).trans (by rw [hp]; rfl))
  · exact (congrArg Dev.mem h.rest :).trans ((congrArg Dev.mem hm :).trans (by rw [hp]; rfl))
  · exact (congrArg Dev.link h.rest :).trans ((congrArg Dev.link hm :).trans (by rw [hp]; rfl))

/-- A draw among requests in ascending order advances the LFSR once and ends at one of them. -/
theorem Dev.draw_wins (d : Dev) (a : Nat) (t : ArbReq → Nat) {reqs : List ArbReq} (hne : reqs ≠ []) (ht : ∀ r, 0 < t r)
    (hsorted : (reqs.map ArbReq.input).Pairwise (· < ·)) (hlt : d.lfsr a < 2 ^ 32) :
    ∃ before w after, reqs = before ++ w :: after ∧
      (before.map t).sum ≤ lfsrStep (d.lfsr a) * (reqs.map t).sum / 2 ^ 32 ∧
      lfsrStep (d.lfsr a) * (reqs.map t).sum / 2 ^ 32 < (before.map t).sum + t w ∧
      (d.draw a (reqs.map (fun r => (r.input, t r)))).2 = some w.input ∧
      { (d.draw a (reqs.map (fun r => (r.input, t r)))).1 with arb := d.arb } = d ∧
      (d.draw a (reqs.map (fun r => (r.input, t r)))).1.arb.grants = d.arb.grants ∧
      (d.draw a (reqs.map (fun r => (r.input, t r)))).1.lfsr a = lfsrStep (d.lfsr a) ∧
      ∀ b, b ≠ a → (d.draw a (reqs.map (fun r => (r.input, t r)))).1.lfsr b = d.lfsr b := by
  have hsort : sortBy Prod.fst (reqs.map (fun r => (r.input, t r))) = reqs.map (fun r => (r.input, t r)) :=
    sortBy_of_pairwise _ _ (by simpa [List.map_map, Function.comp_def] using hsorted)
  obtain ⟨hx, hother, heq, hwin⟩ := d.draw_lfsr a hlt (reqs := reqs.map (fun r => (r.input, t r))) (by rw [hsort]; simpa using hne)
  have htickets : (reqs.map (fun r => (r.input, t r))).map Prod.snd = reqs.map t := by simp [List.map_map, Function.comp_def]
  rw [hsort, htickets, sumNat_eq] at hwin
  have hpos : 0 < (reqs.map t).sum := by
    cases reqs with
    | nil => exact absurd rfl hne
    | cons r l => rw [List.map_cons, List.sum_cons]; exact Nat.add_pos_left (ht r) _
  have hr : lfsrStep (d.lfsr a) * (reqs.map t).sum / 2 ^ 32 < 0 + (reqs.map t).sum := by
    rw [Nat.zero_add, Nat.div_lt_iff_lt_mul (by decide), Nat.mul_comm]
    exact Nat.mul_lt_mul_of_pos_left (lfsrStep_bounds (d.lfsr_pos a) hlt).2 hpos
  obtain ⟨before, w, after, hsplit, hlo, hhi, hwalk⟩ := lotteryWalk_splits _ t reqs 0 (Nat.zero_le _) hr
  rw [Nat.zero_add] at hlo hhi
  exact ⟨before, w, after, hsplit, hlo, hhi, hwin.trans hwalk, by rw [heq], by rw [heq], hx, hother⟩

theorem Dev.ticket_pos (d : Dev) (cls : Nat) (r : ArbReq) : 0 < d.ticket cls r := by
  unfold Dev.ticket
  omega

/-- The parked owner alone takes the resource without a draw, and any other request is drawn for. -/
theorem Dev.arbitrate_cases (d : Dev) (a : Nat) (reqs : List (Nat × Nat)) :
    (∀ g i t, d.grantOf a = some g → reqs = [(i, t)] → g.input = i → d.arbitrate a reqs = (d, some i)) ∧
    ((2 ≤ reqs.length ∨ ∀ g i t, d.grantOf a = some g → reqs = [(i, t)] → g.input ≠ i) →
      d.arbitrate a reqs = d.draw a reqs) := by
  refine ⟨?_, fun h => ?_⟩
  · rintro g i t hg rfl hi
    unfold Dev.arbitrate
    rw [hg]
    exact if_pos hi
  · unfold Dev.arbitrate
    split
    · next g i t hg =>
      refine if_neg fun hi => ?_
      obtain h | h := h
      · simp at h
      · exact h g i t hg rfl hi
    · rfl

/-- The draw that decides, after the grant is parked. -/
theorem Dev.lottery_drawn {d : Dev} {a : Nat} {active : List ArbReq} (hne : d.requests a active ≠ [])
    (hsorted : ((d.requests a active).map ArbReq.input).Pairwise (· < ·)) (hlt : d.lfsr a < 2 ^ 32)
    (hdraw : 2 ≤ (d.requests a active).length ∨ ∀ g w, d.grantOf a = some g → d.requests a active = [w] → g.input ≠ w.input) :
    ∃ before w after, d.requests a active = before ++ w :: after ∧
      (before.map (d.ticket (arbClass a))).sum ≤
        lfsrStep (d.lfsr a) * ((d.requests a active).map (d.ticket (arbClass a))).sum / 2 ^ 32 ∧
      lfsrStep (d.lfsr a) * ((d.requests a active).map (d.ticket (arbClass a))).sum / 2 ^ 32 <
        (before.map (d.ticket (arbClass a))).sum + d.ticket (arbClass a) w ∧
      d.drawFrame ((d.parkGrant a).grantAmong a active) a ∧
      ((d.parkGrant a).grantAmong a active).grantOf a = some ⟨a, w.input, w.cmd, true, false⟩ ∧
      ((d.parkGrant a).grantAmong a active).lfsr a = lfsrStep (d.lfsr a) := by
  have hreqs : (d.parkGrant a).requests a active = d.requests a active := rfl
  have hticket : (d.parkGrant a).ticket = d.ticket := rfl
  have hlfsr : (d.parkGrant a).lfsr a = d.lfsr a := rfl
  have hpark := (d.grantOf_parkGrant a).1
  generalize hp : d.parkGrant a = p at *
  obtain ⟨before, w, after, hsplit, hlo, hhi, hwin, hrest, hgrants, hx, hother⟩ :=
    p.draw_wins a (d.ticket (arbClass a)) hne (d.ticket_pos _) hsorted (by rwa [hlfsr])
  have harb : p.arbitrate a ((p.requests a active).map (fun r => (r.input, p.ticket (arbClass a) r))) =
      ((p.draw a ((d.requests a active).map (fun r => (r.input, d.ticket (arbClass a) r)))).1, some w.input) := by
    rw [hreqs, hticket, ← hwin]
    refine (p.arbitrate_cases a _).2 (hdraw.imp (by simp) fun h g i t hg hone hi => ?_)
    obtain ⟨g', hg', rfl⟩ := Option.map_eq_some_iff.mp (hpark ▸ hg)
    obtain ⟨q, hq, hqi⟩ := List.map_eq_singleton_iff.mp hone
    exact h g' q hg' hq (by rw [show q.input = i from congrArg Prod.fst hqi]; exact hi)
  have hfind : (p.requests a active).find? (fun r => r.input == w.input) = some w := by
    rw [hreqs, hsplit]
    exact find?_input (hsplit ▸ hsorted)
  have hwon := Dev.grantAmong_won harb
  rw [hfind] at hwon
  obtain ⟨hframe, hgrant, hl, -⟩ := Dev.won_spec hp.symm hrest hgrants hother hwon
  exact ⟨before, w, after, hsplit, by rwa [hlfsr] at hlo, by rwa [hlfsr] at hhi, hframe, hgrant, by rw [hl, hx, hlfsr]⟩

/-- Settles O35: the walk ends where the tickets first exceed the drawn number. -/
theorem lotteryGrantsByTickets : Obligations.LotteryGrantsByTickets := by
  unfold Obligations.LotteryGrantsByTickets
  intro s a active hex hfree hlt
  dsimp only
  have hlot : s.dev.lottery a.toNat active = (s.dev.parkGrant a.toNat).grantAmong a.toNat active :=
    if_neg (by simp [hex, hfree])
  refine ⟨fun h2 hsorted => ?_, fun w hw hpark => ?_, fun w g hw hg hin => ?_, fun hnone => ?_⟩
  all_goals
    refine Completes.of_act (g := fun d => d.lottery a.toNat active) rfl ?_
    rw [hlot]
  · obtain ⟨before, w, after, hsplit, hlo, hhi, hframe, hgrant, hl⟩ :=
      Dev.lottery_drawn (by rintro h; rw [h] at h2; simp at h2) hsorted hlt (.inl h2)
    generalize (s.dev.parkGrant a.toNat).grantAmong a.toNat active = e at *
    simp only [sumNat_eq, List.map_append, List.sum_append, List.map_cons, List.map_nil, List.sum_cons, List.sum_nil, Nat.add_zero]
    exact ⟨hl, hframe, before, w, after, hsplit, hlo, hhi, hgrant⟩
  · obtain ⟨before, w', after, hsplit, -, -, hframe, hgrant, hl⟩ :=
      Dev.lottery_drawn (by rw [hw]; simp) (by rw [hw]; simp) hlt (.inr fun g q hg hq => by
        obtain rfl : w = q := by simpa [hw] using hq
        exact hpark g hg)
    obtain rfl : w = w' := by
      rw [hw] at hsplit
      cases before with
      | nil => simpa using (List.cons_eq_cons.mp hsplit).1
      | cons b bs => simp at hsplit
    generalize (s.dev.parkGrant a.toNat).grantAmong a.toNat active = e at *
    exact ⟨hframe, hgrant, hl⟩
  · have hpark := (s.dev.grantOf_parkGrant a.toNat).1
    have hreqs : (s.dev.parkGrant a.toNat).requests a.toNat active = [w] := hw
    have harb := (Dev.arbitrate_cases (s.dev.parkGrant a.toNat) a.toNat
      (((s.dev.parkGrant a.toNat).requests a.toNat active).map fun r => (r.input, (s.dev.parkGrant a.toNat).ticket (arbClass a.toNat) r))).1
      { g with busy := false } w.input ((s.dev.parkGrant a.toNat).ticket (arbClass a.toNat) w) (by rw [hpark, hg]; rfl)
      (by rw [hreqs]; rfl) hin
    have hwon := Dev.grantAmong_won harb
    rw [hreqs] at hwon
    obtain ⟨hframe, hgrant, -, hlfsr⟩ := Dev.won_spec (d := s.dev) (m := s.dev.parkGrant a.toNat) rfl rfl rfl (fun _ _ => rfl) hwon
    generalize (s.dev.parkGrant a.toNat).grantAmong a.toNat active = e at *
    have hfound : ([w].find? (fun r => r.input == w.input)).bind ArbReq.cmd = w.cmd := by simp
    rw [hfound] at hgrant
    exact ⟨hframe, hgrant, hlfsr⟩
  · have hdraw : (s.dev.parkGrant a.toNat).arbitrate a.toNat (((s.dev.parkGrant a.toNat).requests a.toNat active).map
        fun r => (r.input, (s.dev.parkGrant a.toNat).ticket (arbClass a.toNat) r)) = (s.dev.parkGrant a.toNat, none) := by
      rw [show (s.dev.parkGrant a.toNat).requests a.toNat active = [] from hnone]
      exact ((Dev.arbitrate_cases _ _ _).2 (.inr fun _ _ _ _ h => by cases h)).trans rfl
    rw [Dev.grantAmong_none hdraw]
    obtain ⟨hself, hother⟩ := s.dev.grantOf_parkGrant a.toNat
    exact ⟨⟨fun b hb => ⟨rfl, hother b hb⟩, rfl, rfl, rfl⟩, rfl, hself⟩

end Sys2Proof.Machine
end

section
/-! PROOFS. Emergency requesters and the watchdog (R313 to R315). -/

namespace Sys2Proof.Machine

/-! ## Reports about a command, and its causes -/

/-- A report about a command is a report; of the commands only the sequence number of the first report changes. -/
theorem Dev.postCmd_eq (d : Dev) (id : Nat) (c : Code) (st addr index n : Nat) :
    ∃ who, d.postCmd id c st addr index n = { d.post c addr index who n with cmds := (d.postCmd id c st addr index n).cmds } := by
  unfold Dev.postCmd
  split
  · exact ⟨{}, rfl⟩
  · exact ⟨_, rfl⟩

/-- The commands after a report about one. -/
theorem Dev.cmd?_postCmd (d : Dev) (id k : Nat) (c : Code) (st addr index n : Nat) :
    ∃ q : Cmd → Nat, (d.postCmd id c st addr index n).cmd? k = (d.cmd? k).map (fun c => { c with firstSeq := q c }) := by
  have hpost : ∀ who, (d.post c addr index who n).cmd? k = d.cmd? k := fun who => by unfold Dev.cmd?; rw [Dev.post_cmds]
  unfold Dev.postCmd
  split
  · exact ⟨Cmd.firstSeq, by rw [hpost]; simp⟩
  · refine ⟨fun c : Cmd => if c.id == id then (if c.firstSeq = 0 then d.link.seq else c.firstSeq) else c.firstSeq, ?_⟩
    dsimp only
    refine Eq.trans (Dev.cmd?_updCmd _ _ _ _ ?_) ?_
    · exact fun _ => rfl
    rw [hpost]
    refine congrArg (fun f => (d.cmd? k).map f) (funext fun c => ?_)
    split <;> rfl

/-- A cause given to a live command is among its causes. -/
theorem Dev.failing_failCmd {d : Dev} {id : Nat} {c : Cmd} (st : Status) (h : d.cmd? id = some c) (hend : c.ended = false) :
    (d.failCmd id st).failing id st := by
  have hid : (c.id == id) = true := List.find?_some (p := fun x : Cmd => x.id == id) h
  refine ⟨{ c with causes := c.causes ++ [st] }, ?_, by simp⟩
  unfold Dev.failCmd
  rw [Dev.cmd?_updCmd _ _ _ _ (fun c => by split <;> rfl), h]
  simp only [Option.map_some, hid, hend, Bool.false_eq_true, if_true, if_false]

/-- A live command that is reported and given a cause. -/
theorem Dev.failing_told {d : Dev} {id : Nat} {c : Cmd} (st : Status) (code : Code) (num addr index n : Nat)
    (h : d.cmd? id = some c) (hend : c.ended = false) :
    ((d.postCmd id code num addr index n).failCmd id st).failing id st := by
  obtain ⟨q, hq⟩ := d.cmd?_postCmd id id code num addr index n
  have hc : (d.postCmd id code num addr index n).cmd? id = some { c with firstSeq := q c } := by rw [hq, h, Option.map_some]
  exact Dev.failing_failCmd st hc hend

/-! ## Emergency requesters -/

/-- An owner is a grant of its arbiter whose unit is in progress. -/
theorem Dev.owner?_grantOf {d : Dev} {a : Nat} {g : Grant} (h : d.owner? a = some g) : d.grantOf a = some g :=
  (Option.filter_eq_some_iff.mp h).1

/-- An emergency requester takes a resource: what changes is the arbiters' state and, for an owner in its unit, the count. -/
theorem Dev.arbTake_spec (d : Dev) (a : Nat) :
    { d.arbTake a with regs := d.regs, arb := d.arb } = d ∧ (d.arbTake a).arbHeld a = true ∧
    (d.arbTake a).arb.lfsr = d.arb.lfsr ∧ (∀ b, b ≠ a → (d.arbTake a).grantOf b = d.grantOf b) ∧
    (d.arbTake a).arb.emergency = d.arb.emergency ++ [(a, d.ring.edges)] ∧ (d.arbTake a).arb.capture = d.arb.capture ∧
    (∀ g, d.owner? a = some g → (d.arbTake a).grantOf a = some { g with suspended := true } ∧
      (d.arbTake a).regs = (d.addF (if arbClass a = 1 then .ARB_EMERG_REFRESH else .ARB_EMERG_DEBUG) 1).regs) ∧
    (d.owner? a = none → (d.arbTake a).grantOf a = d.grantOf a ∧ (d.arbTake a).regs = d.regs) := by
  have hheld : ∀ e : Dev, e.arb.emergency = d.arb.emergency ++ [(a, d.ring.edges)] → e.arbHeld a = true := fun e he => by
    unfold Dev.arbHeld
    simp [he]
  have hown' : (d.updArb (fun x => { x with emergency := x.emergency ++ [(a, d.ring.edges)] })).owner? a = d.owner? a := rfl
  cases hown : d.owner? a with
  | none =>
    have heq : d.arbTake a = d.updArb (fun x => { x with emergency := x.emergency ++ [(a, d.ring.edges)] }) := by
      unfold Dev.arbTake
      dsimp only
      rw [hown', hown]
    rw [heq]
    refine ⟨rfl, hheld _ rfl, rfl, fun _ _ => rfl, rfl, rfl, ?_, fun _ => ⟨rfl, rfl⟩⟩
    rintro g ⟨⟩
  | some g =>
    have heq : d.arbTake a = ((d.updArb (fun x => { x with emergency := x.emergency ++ [(a, d.ring.edges)] })).setGrant a
        (some { g with suspended := true })).addF (if arbClass a = 1 then .ARB_EMERG_REFRESH else .ARB_EMERG_DEBUG) 1 := by
      unfold Dev.arbTake
      dsimp only
      rw [hown', hown]
      dsimp only
      split <;> rfl
    obtain ⟨hself, hother⟩ := (d.updArb (fun x => { x with emergency := x.emergency ++ [(a, d.ring.edges)] })).grantOf_setGrant a
      (some { g with suspended := true }) (by rintro x ⟨⟩; exact Dev.grantOf_arb (g := g) (Dev.owner?_grantOf hown))
    rw [heq]
    refine ⟨rfl, hheld _ rfl, rfl, hother, rfl, rfl, ?_, ?_⟩
    · rintro g' ⟨⟩
      exact ⟨hself, rfl⟩
    · rintro ⟨⟩

/-- An emergency requester gives a resource up: the suspended owner goes on, and nothing but the arbiters' state changes. -/
theorem Dev.arbRelease_spec (d : Dev) (a : Nat) :
    { d.arbRelease a with arb := d.arb } = d ∧ (d.arbRelease a).arbHeld a = false ∧
    (d.arbRelease a).arb.lfsr = d.arb.lfsr ∧ (d.arbRelease a).arb.capture = d.arb.capture ∧
    (∀ b, b ≠ a → (d.arbRelease a).grantOf b = d.grantOf b) ∧
    (d.arbRelease a).arb.emergency = d.arb.emergency.filter (fun e => e.1 != a) ∧
    (d.arbHeld a = true → (d.arbRelease a).grantOf a = (d.grantOf a).map (fun g => { g with suspended := false })) := by
  by_cases h : d.arbHeld a
  · have heq : d.arbRelease a = (d.updArb (fun x => { x with emergency := x.emergency.filter (fun e => e.1 != a) })).setGrant a
        ((d.grantOf a).map (fun g => { g with suspended := false })) := if_neg (by simp [h])
    obtain ⟨hself, hother⟩ := (d.updArb (fun x => { x with emergency := x.emergency.filter (fun e => e.1 != a) })).grantOf_setGrant a
      ((d.grantOf a).map (fun g => { g with suspended := false })) (by
        intro x hx
        obtain ⟨g, hg, rfl⟩ := Option.map_eq_some_iff.mp hx
        exact Dev.grantOf_arb (g := g) hg)
    rw [heq]
    refine ⟨rfl, ?_, rfl, rfl, hother, rfl, fun _ => hself⟩
    show (d.arb.emergency.filter (fun e => e.1 != a)).any (fun e => e.1 == a) = false
    simp
  · have heq : d.arbRelease a = d := if_pos (by simp [h])
    rw [heq]
    refine ⟨rfl, by simpa using h, rfl, rfl, fun _ _ => rfl, ?_, fun hc => absurd hc h⟩
    rw [List.filter_eq_self.mpr]
    intro e he
    simp only [bne_iff_ne]
    rintro rfl
    exact h (List.any_eq_true.mpr ⟨e, he, by simp⟩)

/-! ## The watchdog -/

theorem mem_insertBy {α : Type} {key : α → Nat} {x y : α} {l : List α} (h : y ∈ insertBy key x l) : y = x ∨ y ∈ l := by
  induction l with
  | nil => exact .inl (by simpa [insertBy] using h)
  | cons z l ih =>
    unfold insertBy at h
    split at h
    · simpa using h
    · obtain rfl | h := List.mem_cons.mp h
      · exact .inr (.head l)
      · exact (ih h).imp_right (.tail z)

theorem mem_sortBy {α : Type} {key : α → Nat} {y : α} {l : List α} (h : y ∈ sortBy key l) : y ∈ l := by
  have hfold : ∀ acc, y ∈ l.foldl (fun acc x => insertBy key x acc) acc → y ∈ acc ∨ y ∈ l := by
    clear h
    induction l with
    | nil => exact fun acc h => .inl h
    | cons x l ih =>
      intro acc h
      obtain h | h := ih _ h
      · exact (mem_insertBy h).elim (fun h => .inr (h ▸ .head l)) .inl
      · exact .inr (.tail x h)
  exact (hfold [] h).resolve_left (by simp)

/-- The walk ends at one of the inputs, or nowhere. -/
theorem lotteryWalk_mem {r acc i : Nat} {l : List (Nat × Nat)} (h : lotteryWalk r acc l = some i) : ∃ t, (i, t) ∈ l := by
  induction l generalizing acc with
  | nil => cases h
  | cons x l ih =>
    obtain ⟨j, t⟩ := x
    unfold lotteryWalk at h
    split at h
    · cases h
      exact ⟨t, .head l⟩
    · obtain ⟨t', ht⟩ := ih h
      exact ⟨t', .tail _ ht⟩

/-- A draw with nothing parked grants one of the requests, or none. -/
theorem Dev.grantAmong_unparked {d : Dev} {a : Nat} {active : List ArbReq} (h : d.grantOf a = none) :
    (∀ g, (d.grantAmong a active).grantOf a = some g → ∃ r ∈ active, r.input = g.input) ∧
    { d.grantAmong a active with regs := d.regs, arb := d.arb, scl := d.scl } = d ∧
    ∀ r i j, r ≠ .SCL_PERIOD → r ≠ .SCL_RAIL → (d.grantAmong a active).reg r i j = d.reg r i j := by
  generalize hreqs : (d.requests a active).map (fun r => (r.input, d.ticket (arbClass a) r)) = reqs
  have harb : d.arbitrate a reqs = d.draw a reqs := (d.arbitrate_cases a reqs).2 (.inr fun g _ _ hg => by rw [h] at hg; cases hg)
  have hdraw : { (d.draw a reqs).1 with arb := d.arb } = d ∧ (d.draw a reqs).1.arb.grants = d.arb.grants ∧
      ∀ i, (d.draw a reqs).2 = some i → ∃ r ∈ active, r.input = i := by
    unfold Dev.draw
    dsimp only
    split
    · exact ⟨rfl, rfl, fun i hi => by cases hi⟩
    · refine ⟨rfl, rfl, fun i hi => ?_⟩
      obtain ⟨t, ht⟩ := lotteryWalk_mem hi
      obtain ⟨r, hr, hri⟩ := List.mem_map.mp (hreqs ▸ mem_sortBy ht)
      exact ⟨r, List.mem_of_mem_filter hr, congrArg Prod.fst hri⟩
  obtain ⟨hrest, hgrants, hmem⟩ := hdraw
  rw [← harb] at hrest hgrants hmem
  generalize hm : d.arbitrate a reqs = mw at *
  obtain ⟨m, win⟩ := mw
  dsimp only at hrest hgrants hmem
  rw [← hreqs] at hm
  have hreg : ∀ r i j, m.reg r i j = d.reg r i j := fun r i j => (congrArg (fun x : Dev => x.reg r i j) hrest :)
  cases win with
  | none =>
    rw [Dev.grantAmong_none hm]
    refine ⟨fun g hg => ?_, (congrArg (fun x : Dev => { x with regs := d.regs, scl := d.scl }) hrest :), fun r i j _ _ => hreg r i j⟩
    have hg' : d.grantOf a = some g := by
      unfold Dev.grantOf at hg ⊢
      rwa [hgrants] at hg
    rw [h] at hg'
    cases hg'
  | some i =>
    have hwon := Dev.grantAmong_won hm
    have hself := (m.grantOf_setGrant a (some ⟨a, i, ((d.requests a active).find? (fun r => r.input == i)).bind ArbReq.cmd, true, false⟩)
      (by rintro x hx; cases hx; rfl)).1
    refine ⟨fun g hg => ?_, ?_, fun r i j h1 h2 => (hwon.reg r i j h1 h2).trans (hreg r i j)⟩
    · have harb' : (d.grantAmong a active).arb = _ := (congrArg Dev.arb hwon.rest :)
      unfold Dev.grantOf at hg hself
      rw [harb', hself] at hg
      cases hg
      exact hmem i rfl
    · exact (congrArg (fun x : Dev => { x with regs := d.regs, arb := d.arb, scl := d.scl }) hwon.rest :).trans
        (congrArg (fun x : Dev => { x with regs := d.regs, scl := d.scl }) hrest :)

/-- The first bite is captured. -/
def Dev.biteCaptured (d : Dev) (a : Nat) (g : Grant) (cmd : Option Cmd) : Dev :=
  if d.flag .ARB_BITE_LAST_VALID then d
  else d.setReg .ARB_BITE_LAST (BitVec.ofNat 64 (a + g.input % 256 * 2 ^ 16 + cmd.elim 0 Cmd.tag % 2 ^ 31 * 2 ^ 32 + 2 ^ 63))

/-- A bite is reported, and its command is given the cause, or the abandoned request is counted. -/
def Dev.biteTold (d : Dev) (index : Nat) : Option Cmd → Dev
  | some c => (d.postCmd c.id .ARB_WATCHDOG Status.killedWatchdog.num 0 index).failCmd c.id .killedWatchdog
  | none => (d.addF .ARB_BITES_ABANDONED 1).post .ARB_WATCHDOG 0 index

theorem Dev.watchdogBite_eq {d : Dev} {a : Nat} {g : Grant} (active : List ArbReq) (hown : d.owner? a = some g)
    (hon : d.wdog (arbClass a) ≠ 0) : ∃ m, ((d.setGrant a none).addF .ARB_BITES_BITES 1).slotsMove m ∧
      d.watchdogBite a active = ((m.biteCaptured a g ((d.grantCmd g).bind d.cmd?)).biteTold (a + g.input % 256 * 2 ^ 16)
        ((d.grantCmd g).bind d.cmd?)).grantAmong a (active.filter (fun r => r.input != g.input)) := by
  unfold Dev.watchdogBite
  rw [hown]
  dsimp only
  rw [if_neg (by simpa using hon)]
  refine ⟨_, ?_, rfl⟩
  split
  · exact .leave _ _ _
  · exact .refl _

/-- The bit that shows a bite as captured. -/
theorem biteLast_valid {n : Nat} (h : n < 2 ^ 63) : Fld.ARB_BITE_LAST_VALID.of (BitVec.ofNat 64 (n + 2 ^ 63)) = 1 := by
  have hn : (BitVec.ofNat 64 (n + 2 ^ 63)).toNat = n + 2 ^ 63 := by
    rw [BitVec.toNat_ofNat, Nat.mod_eq_of_lt (by omega)]
  unfold Fld.of bits
  rw [hn]
  show (n + 2 ^ 63) / 2 ^ 63 % 2 ^ 1 = 1
  omega

theorem Dev.biteCaptured_spec (d : Dev) {a : Nat} (ha : a < 2 ^ 16) (g : Grant) (cmd : Option Cmd) :
    { d.biteCaptured a g cmd with regs := d.regs } = d ∧
    (∀ r i j, r ≠ .ARB_BITE_LAST → (d.biteCaptured a g cmd).reg r i j = d.reg r i j) ∧
    (d.flag .ARB_BITE_LAST_VALID = true → (d.biteCaptured a g cmd).reg .ARB_BITE_LAST = d.reg .ARB_BITE_LAST) ∧
    (d.flag .ARB_BITE_LAST_VALID = false → (d.biteCaptured a g cmd).flag .ARB_BITE_LAST_VALID = true) := by
  have hrest : ∀ v, { d.setReg .ARB_BITE_LAST v with regs := d.regs } = d := fun _ => rfl
  unfold Dev.biteCaptured
  cases h : d.flag .ARB_BITE_LAST_VALID
  · rw [if_neg (by decide)]
    refine ⟨hrest _, fun r i j hr => d.reg_setReg_ne _ _ _ _ _ hr, fun hc => absurd hc (by decide), fun _ => Dev.flag_of_one ?_⟩
    refine (congrArg Fld.ARB_BITE_LAST_VALID.of (d.reg_setReg_same ..)).trans (biteLast_valid ?_)
    have h1 : g.input % 256 < 256 := Nat.mod_lt _ (by decide)
    have h2 : cmd.elim 0 Cmd.tag % 2 ^ 31 < 2 ^ 31 := Nat.mod_lt _ (by decide)
    omega
  · rw [if_pos rfl]
    exact ⟨rfl, fun _ _ _ _ => rfl, fun _ => rfl, fun hc => absurd hc (by decide)⟩

theorem Dev.biteTold_spec (d : Dev) (index : Nat) (cmd : Option Cmd) (hcmd : ∀ c, cmd = some c → d.cmd? c.id = some c) :
    (d.biteTold index cmd).arb = d.arb ∧ d.posted (d.biteTold index cmd) .ARB_WATCHDOG (fun r => r.index = index) ∧
    (∀ r i j, r ≠ .ARB_BITES → r ≠ .ERR_STATUS → (d.biteTold index cmd).reg r i j = d.reg r i j) ∧
    (d.biteTold index cmd).f .ARB_BITES_BITES = d.f .ARB_BITES_BITES ∧
    (∀ c, cmd = some c → c.ended = false → (d.biteTold index cmd).failing c.id .killedWatchdog) ∧
    (cmd = none → d.bumped (d.biteTold index cmd) .ARB_BITES_ABANDONED 1 ∧ (d.biteTold index cmd).cmds = d.cmds) := by
  cases cmd with
  | none =>
    have hcount : (d.addF .ARB_BITES_ABANDONED 1).count = d.count := Dev.count_addF _ _ _ _ _ (by decide)
    have hb := d.bumped_addF .ARB_BITES_ABANDONED 1 0 0 (by decide)
    have hother := d.f_setF_apart .ARB_BITES_ABANDONED .ARB_BITES_BITES (min (d.f .ARB_BITES_ABANDONED + 1) (2 ^ Fld.ARB_BITES_ABANDONED.width - 1))
      0 0 rfl (by decide) (by decide)
    have hreg : ∀ r i j, r ≠ .ARB_BITES → (d.addF .ARB_BITES_ABANDONED 1).reg r i j = d.reg r i j := fun r i j hr =>
      d.reg_setF_ne _ r _ _ _ i j (Reg.code_ne hr _ _ _ _)
    unfold Dev.biteTold
    generalize hm : d.addF .ARB_BITES_ABANDONED 1 = m at *
    have hlink : m.link = d.link := by rw [← hm]; rfl
    have hcmds : m.cmds = d.cmds := by rw [← hm]; rfl
    have harb : m.arb = d.arb := by rw [← hm]; rfl
    refine ⟨(m.post_arb ..).trans harb, Dev.posted_congr (d' := m) hlink hcount rfl (m.post_posted_of _ _ _ _ _ rfl), fun r i j h1 h2 => ?_, ?_,
      ?_, fun _ => ⟨?_, (m.post_cmds ..).trans hcmds⟩⟩
    · exact (m.reg_post _ _ _ _ _ i j (Reg.code_ne h2 _ _ _ _)).trans (hreg r i j h1)
    · rw [m.f_post _ _ _ _ _ 0 0 (by decide), ← hm]
      exact hother
    · rintro c ⟨⟩
    · rw [Dev.bumped, m.f_post _ _ _ _ _ 0 0 (by decide)]
      exact hb
  | some c =>
    have hc := hcmd c rfl
    obtain ⟨who, heq⟩ := d.postCmd_eq c.id .ARB_WATCHDOG Status.killedWatchdog.num 0 index 0
    have hposted := d.postCmd_posted .ARB_WATCHDOG Status.killedWatchdog.num 0 index 0 hc
    have hfail := fun h => Dev.failing_told .killedWatchdog .ARB_WATCHDOG Status.killedWatchdog.num 0 index 0 hc h
    have hreg : ∀ r i j, r ≠ .ERR_STATUS → (d.postCmd c.id .ARB_WATCHDOG Status.killedWatchdog.num 0 index).reg r i j = d.reg r i j :=
      fun r i j hr => by
        rw [heq]
        exact d.reg_post _ _ _ _ _ i j (Reg.code_ne hr _ _ _ _)
    have harb : (d.postCmd c.id .ARB_WATCHDOG Status.killedWatchdog.num 0 index).arb = d.arb := by
      rw [heq]
      exact d.post_arb ..
    unfold Dev.biteTold
    dsimp only
    generalize d.postCmd c.id .ARB_WATCHDOG Status.killedWatchdog.num 0 index = m at *
    refine ⟨harb, (Dev.posted_congr rfl rfl rfl hposted).mono fun _ h => h.2.2, fun r i j _ h2 => hreg r i j h2,
      congrArg Fld.ARB_BITES_BITES.of (hreg .ARB_BITES 0 0 (by decide)), fun c' hc' h => ?_, fun hn => by cases hn⟩
    cases hc'
    exact hfail h

/-- A bite: the grant is revoked, counted, captured and reported, and the remaining inputs draw. -/
theorem Dev.watchdogBite_spec {d : Dev} {a : Nat} {g : Grant} (active : List ArbReq) (ha : a < 2 ^ 16)
    (hown : d.owner? a = some g) (hon : d.wdog (arbClass a) ≠ 0) :
    let cmd := (d.grantCmd g).bind d.cmd?
    let e := d.watchdogBite a active
    d.bumped e .ARB_BITES_BITES 1 ∧ d.posted e .ARB_WATCHDOG (fun r => r.index = a + g.input % 256 * 2 ^ 16) ∧
    (∀ c, cmd = some c → c.ended = false → e.failing c.id .killedWatchdog) ∧
    (cmd = none → d.bumped e .ARB_BITES_ABANDONED 1 ∧ e.cmds = d.cmds) ∧
    (∀ h, e.grantOf a = some h → h.input ≠ g.input) ∧ ((∀ r ∈ active, r.input = g.input) → e.grantOf a = none) ∧
    (d.flag .ARB_BITE_LAST_VALID = true → e.reg .ARB_BITE_LAST = d.reg .ARB_BITE_LAST) ∧
    (d.flag .ARB_BITE_LAST_VALID = false → e.flag .ARB_BITE_LAST_VALID = true) := by
  dsimp only
  obtain ⟨m, hm, heq⟩ := Dev.watchdogBite_eq active hown hon
  rw [heq]
  generalize hcmd : (d.grantCmd g).bind d.cmd? = cmd
  have hfound : ∀ c, cmd = some c → d.cmd? c.id = some c := by
    rintro c rfl
    obtain ⟨id, -, hid⟩ := Option.bind_eq_some_iff.mp hcmd
    have hc : c.id = id := by simpa using List.find?_some (p := fun x : Cmd => x.id == id) hid
    rwa [hc]
  -- the bite is counted
  have hb := (d.setGrant a none).bumped_addF .ARB_BITES_BITES 1 0 0 (by decide)
  have habandoned := (d.setGrant a none).f_addF_apart .ARB_BITES_BITES .ARB_BITES_ABANDONED 1 0 0 rfl (by decide) (by decide)
  have hlast : ((d.setGrant a none).addF .ARB_BITES_BITES 1).reg .ARB_BITE_LAST = d.reg .ARB_BITE_LAST :=
    Dev.reg_setF_ne _ _ _ _ _ _ _ _ (Reg.code_ne (by decide) _ _ _ _)
  have hcount : ((d.setGrant a none).addF .ARB_BITES_BITES 1).count = d.count := Dev.count_addF _ _ _ _ _ (by decide)
  have hnone : ((d.setGrant a none).addF .ARB_BITES_BITES 1).grantOf a = none := (d.grantOf_setGrant a none (by rintro x ⟨⟩)).1
  have hlink : m.link = d.link := hm.link
  have hcmds : m.cmds = d.cmds := hm.switchMoves.cmds
  have harb : m.arb = ((d.setGrant a none).addF .ARB_BITES_BITES 1).arb := (congrArg Dev.arb hm.rest :)
  have hmf : ∀ f : Fld, f.reg ∉ switchRegs → m.f f = ((d.setGrant a none).addF .ARB_BITES_BITES 1).f f := fun f hf => hm.f 0 0 hf
  have hmlast := (hm.reg .ARB_BITE_LAST 0 0 (by decide)).trans hlast
  have hmcount := hm.switchMoves.count.trans hcount
  generalize (d.setGrant a none).addF .ARB_BITES_BITES 1 = n at *
  -- it is captured
  obtain ⟨hrest, hregs, hkept, hnew⟩ := m.biteCaptured_spec ha g cmd
  have hvalid : m.flag .ARB_BITE_LAST_VALID = d.flag .ARB_BITE_LAST_VALID :=
    congrArg (fun v => decide (Fld.ARB_BITE_LAST_VALID.of v ≠ 0)) hmlast
  rw [hvalid] at hkept hnew
  generalize m.biteCaptured a g cmd = q at *
  have hqcmds : q.cmds = d.cmds := (congrArg Dev.cmds hrest :).trans hcmds
  have hqlink : q.link = d.link := (congrArg Dev.link hrest :).trans hlink
  have hqcount : q.count = d.count := (congrArg BitVec.toNat (hregs .RING_COUNT 0 0 (by decide))).trans hmcount
  have hqarb : q.arb = m.arb := (congrArg Dev.arb hrest :)
  have hqnone : q.grantOf a = none := by
    unfold Dev.grantOf at hnone ⊢
    rwa [hqarb, harb]
  have hqf : ∀ f : Fld, f.reg = .ARB_BITES → q.f f = n.f f := fun f hf =>
    (congrArg f.of (hregs f.reg 0 0 (by rw [hf]; decide))).trans (hmf f (by rw [hf]; decide))
  -- it is reported
  obtain ⟨htarb, hposted, htregs, htbites, hfail, haband⟩ := q.biteTold_spec (a + g.input % 256 * 2 ^ 16) cmd
    (fun c hc => by unfold Dev.cmd?; rw [hqcmds]; exact hfound c hc)
  generalize q.biteTold (a + g.input % 256 * 2 ^ 16) cmd = t at *
  -- the remaining inputs draw
  obtain ⟨hmem, hdrawn, hdregs⟩ := Dev.grantAmong_unparked (d := t) (a := a) (active := active.filter (fun r => r.input != g.input))
    (by unfold Dev.grantOf at hqnone ⊢; rwa [htarb])
  generalize t.grantAmong a (active.filter (fun r => r.input != g.input)) = e at *
  have hecmds : e.cmds = t.cmds := (congrArg Dev.cmds hdrawn :)
  have hef : ∀ f : Fld, f.reg = .ARB_BITES → e.f f = t.f f := fun f hf =>
    congrArg f.of (hdregs f.reg 0 0 (by rw [hf]; decide) (by rw [hf]; decide))
  have helast : e.reg .ARB_BITE_LAST = q.reg .ARB_BITE_LAST :=
    (hdregs _ 0 0 (by decide) (by decide)).trans (htregs _ 0 0 (by decide) (by decide))
  refine ⟨?_, Dev.posted_congr hqlink hqcount (congrArg Dev.link hdrawn :) hposted, fun c hc hend => ?_, fun hc => ⟨?_, ?_⟩, fun h hh => ?_,
    fun hall => ?_, fun hv => helast.trans ((hkept hv).trans hmlast), fun hv => ?_⟩
  · rw [Dev.bumped, hef _ rfl, htbites, hqf _ rfl]
    exact hb
  · obtain ⟨k, hk, hst⟩ := hfail c hc hend
    exact ⟨k, by unfold Dev.cmd? at hk ⊢; rwa [hecmds], hst⟩
  · rw [Dev.bumped, hef _ rfl]
    refine (haband hc).1.trans ?_
    rw [hqf _ rfl, habandoned]
    rfl
  · exact hecmds.trans ((haband hc).2.trans hqcmds)
  · obtain ⟨r, hr, hri⟩ := hmem h hh
    rw [← hri]
    simpa using (List.mem_filter.mp hr).2
  · cases hg : e.grantOf a with
    | none => rfl
    | some h =>
      obtain ⟨r, hr, -⟩ := hmem h hg
      obtain ⟨hr, hne⟩ := List.mem_filter.mp hr
      exact absurd (hall r hr) (by simpa using hne)
  · exact (congrArg (fun v => decide (Fld.ARB_BITE_LAST_VALID.of v ≠ 0)) helast).trans (hnew hv)

/-- Settles O36: what takes a resource suspends its owner, what releases it lets the owner go on, and a bite revokes the grant. -/
theorem emergencyAndWatchdog : Obligations.EmergencyAndWatchdog := by
  unfold Obligations.EmergencyAndWatchdog
  intro s a
  refine ⟨fun trst cnt hex hfree hwho => ?_, fun trst hoff hcls => ?_, fun hheld => ?_, fun active g hown hon => ?_⟩
  · have heq : s.dev.emergencyGrant a.toNat trst = s.dev.arbTake a.toNat := by
      refine if_neg ?_
      have hmay : arbClass a.toNat = 1 ∨ (arbClass a.toNat = 2 ∨ arbClass a.toNat = 6) ∧ s.dev.dbgUsable trst = true :=
        hwho.imp And.left fun h => ⟨h.1, h.2.1⟩
      simp [hex, hfree, hmay]
    have hcnt : cnt = if arbClass a.toNat = 1 then .ARB_EMERG_REFRESH else .ARB_EMERG_DEBUG := by
      obtain ⟨h1, rfl⟩ | ⟨h1, -, rfl⟩ := hwho
      · exact (if_pos h1).symm
      · exact (if_neg (by omega)).symm
    obtain ⟨hrest, hheld, -, -, -, -, hsome, hnone⟩ := s.dev.arbTake_spec a.toNat
    refine ⟨fun g hg => ?_, fun hn => ?_⟩
    · refine Completes.of_act (g := fun d => d.emergencyGrant a.toNat trst) rfl ?_
      rw [heq]
      obtain ⟨hgrant, hregs⟩ := hsome g hg
      rw [← hcnt] at hregs
      have hreg : cnt.reg = .ARB_EMERG := by rw [hcnt]; split <;> rfl
      have hfit : cnt.lo + cnt.width ≤ 64 := by rw [hcnt]; split <;> decide
      have hb : s.dev.bumped (s.dev.addF cnt 1) cnt 1 := s.dev.bumped_addF cnt 1 0 0 hfit
      have hbut : s.dev.regsBut (s.dev.addF cnt 1) [Reg.code .ARB_EMERG 0 0] := (Dev.regsBut.refl _ _).addF 1 (by simp [hreg])
      have hcmds : (s.dev.arbTake a.toNat).cmds = s.dev.cmds := (congrArg Dev.cmds hrest :)
      generalize s.dev.arbTake a.toNat = e at *
      have hf : e.f cnt = (s.dev.addF cnt 1).f cnt := by unfold Dev.f Dev.reg; rw [hregs]
      exact ⟨hgrant, hheld, hf.trans hb, (hbut.congr hregs).settle, hcmds⟩
    · refine Completes.of_act (g := fun d => d.emergencyGrant a.toNat trst) rfl ?_
      rw [heq]
      obtain ⟨hgrant, hregs⟩ := hnone hn
      have hcmds : (s.dev.arbTake a.toNat).cmds = s.dev.cmds := (congrArg Dev.cmds hrest :)
      generalize s.dev.arbTake a.toNat = e at *
      exact ⟨hgrant, hheld, hregs, hcmds⟩
  · refine Completes.of_act (g := fun d => d.emergencyGrant a.toNat trst) rfl ?_
    rw [show s.dev.emergencyGrant a.toNat trst = s.dev from if_pos (by simp [hoff, hcls])]
    exact Dev.same_settle s.dev
  · refine Completes.of_act (g := fun d => d.arbRelease a.toNat) rfl ?_
    obtain ⟨hrest, hfree, hlfsr, -, -, -, hgrant⟩ := s.dev.arbRelease_spec a.toNat
    have hg := hgrant hheld
    have hcmds : (s.dev.arbRelease a.toNat).cmds = s.dev.cmds := (congrArg Dev.cmds hrest :)
    have hregs : (s.dev.arbRelease a.toNat).regs = s.dev.regs := (congrArg Dev.regs hrest :)
    generalize s.dev.arbRelease a.toNat = e at *
    exact ⟨hg, hfree, hlfsr, hregs, hcmds⟩
  · refine Completes.of_act (g := fun d => d.watchdogBite a.toNat active) rfl ?_
    have h := Dev.watchdogBite_spec active a.isLt hown hon
    dsimp only at h ⊢
    generalize s.dev.watchdogBite a.toNat active = e at *
    exact h

end Sys2Proof.Machine
end

section
/-! PROOFS. The debug port (R313, R314). -/

namespace Sys2Proof.Machine

/-! ## Accesses through the port -/

/-- An access is counted, and of the arbiters only the resource's own grant may change: an owner in its unit is suspended, and
counted where the port did not hold the resource already. -/
structure Dev.debugCounted (d e : Dev) (a : Nat) : Prop where
  ops : d.bumped e .SEC_DBG_CFG_OPS 1
  regs : d.regsBut e [Reg.code .SEC_DBG_CFG 0 0, Reg.code .ARB_EMERG 0 0]
  grants : ∀ b, b ≠ a → e.grantOf b = d.grantOf b
  lfsr : e.arb.lfsr = d.arb.lfsr
  owner : ∀ g, d.arbHeld a = false → d.owner? a = some g → d.bumped e .ARB_EMERG_DEBUG 1
  quiet : d.arbHeld a = true ∨ d.owner? a = none → e.reg .ARB_EMERG = d.reg .ARB_EMERG

/-- What leaves the registers and every other arbiter's grant leaves the count. -/
theorem Dev.debugCounted.congr {d m e : Dev} {a : Nat} (h : d.debugCounted m a) (hregs : e.regs = m.regs)
    (hgrants : ∀ b, b ≠ a → e.grantOf b = m.grantOf b) (hlfsr : e.arb.lfsr = m.arb.lfsr) : d.debugCounted e a := by
  have hf : ∀ f, e.f f = m.f f := fun f => by unfold Dev.f Dev.reg; rw [hregs]
  have hreg : e.reg .ARB_EMERG = m.reg .ARB_EMERG := by unfold Dev.reg; rw [hregs]
  exact ⟨(hf _).trans h.ops, h.regs.congr hregs, fun b hb => (hgrants b hb).trans (h.grants b hb), hlfsr.trans h.lfsr,
    fun g hh hg => (hf _).trans (h.owner g hh hg), fun hq => hreg.trans (h.quiet hq)⟩

/-- The port takes a resource that it does not hold yet. -/
def Dev.debugTake (d : Dev) (a : Nat) : Dev := if d.arbHeld a then d else d.arbTake a

/-- An access that is counted and takes its resource. -/
theorem Dev.debugTake_spec {d m : Dev} {a : Nat} (hcls : arbClass a ≠ 1)
    (hm : m.regs = (d.addF .SEC_DBG_CFG_OPS 1).regs) (harb : m.arb.grants = d.arb.grants ∧ m.arb.emergency = d.arb.emergency ∧
      m.arb.lfsr = d.arb.lfsr) :
    d.debugCounted (m.debugTake a) a ∧ (m.debugTake a).arbHeld a = true ∧ (m.debugTake a).arb.capture = m.arb.capture ∧
    { m.debugTake a with regs := m.regs, arb := m.arb } = m := by
  obtain ⟨hgrants, hem, hlfsr⟩ := harb
  have hgrant : ∀ b, m.grantOf b = d.grantOf b := fun b => by unfold Dev.grantOf; rw [hgrants]
  have howner : m.owner? a = d.owner? a := by unfold Dev.owner?; rw [hgrant]
  have hheld : m.arbHeld a = d.arbHeld a := by unfold Dev.arbHeld; rw [hem]
  have hmf : ∀ f : Fld, m.f f = (d.addF .SEC_DBG_CFG_OPS 1).f f := fun f => by unfold Dev.f Dev.reg; rw [hm]
  have hops : d.bumped m .SEC_DBG_CFG_OPS 1 := (hmf _).trans (d.bumped_addF _ _ _ _ (by decide))
  have hbut : d.regsBut m [Reg.code .SEC_DBG_CFG 0 0, Reg.code .ARB_EMERG 0 0] :=
    ((Dev.regsBut.refl d _).addF (f := .SEC_DBG_CFG_OPS) 1 (i := 0) (j := 0) (by simp)).congr hm
  have hemerg : m.reg .ARB_EMERG = d.reg .ARB_EMERG := by
    have hset : (d.addF .SEC_DBG_CFG_OPS 1).reg .ARB_EMERG = d.reg .ARB_EMERG :=
      d.reg_setF_ne .SEC_DBG_CFG_OPS .ARB_EMERG _ 0 0 0 0 (Reg.code_ne (by decide) _ _ _ _)
    unfold Dev.reg at hset ⊢
    rwa [hm]
  unfold Dev.debugTake
  rw [hheld]
  cases hh : d.arbHeld a
  · rw [if_neg (by decide)]
    obtain ⟨hrest, htaken, hl, hother, -, hcap, hsome, hnone⟩ := m.arbTake_spec a
    rw [howner] at hsome hnone
    refine ⟨?_, htaken, hcap, hrest⟩
    cases hown : d.owner? a with
    | none =>
      have hbase : d.debugCounted m a := ⟨hops, hbut, fun b _ => hgrant b, hlfsr, fun g _ hg => (by rw [hown] at hg; cases hg),
        fun _ => hemerg⟩
      exact hbase.congr (hnone hown).2 hother hl
    | some g =>
      have hregs := (hsome g hown).2
      rw [if_neg hcls] at hregs
      have hef : ∀ f, (m.arbTake a).f f = (m.addF .ARB_EMERG_DEBUG 1).f f := fun f => by unfold Dev.f Dev.reg; rw [hregs]
      refine ⟨?_, (hbut.addF 1 (by simp)).congr hregs, fun b hb => (hother b hb).trans (hgrant b), hl.trans hlfsr, fun g' _ _ => ?_,
        fun hq => ?_⟩
      · rw [Dev.bumped, hef, m.f_addF_ne_reg _ _ _ _ _ _ _ (by decide)]
        exact hops
      · have hd : m.f .ARB_EMERG_DEBUG = d.f .ARB_EMERG_DEBUG := congrArg Fld.ARB_EMERG_DEBUG.of hemerg
        rw [Dev.bumped, hef, ← hd]
        exact m.bumped_addF _ _ _ _ (by decide)
      · rw [hh, hown] at hq
        simp at hq
  · rw [if_pos rfl]
    exact ⟨⟨hops, hbut, fun b _ => hgrant b, hlfsr, fun g hf => (by rw [hh] at hf; cases hf), fun _ => hemerg⟩,
      hheld.trans hh, rfl, rfl⟩

/-- The resource is given up again. -/
theorem Dev.debugCounted.release {d m : Dev} {a : Nat} (h : d.debugCounted m a) : d.debugCounted (m.arbRelease a) a := by
  obtain ⟨hrest, -, hl, -, hother, -, -⟩ := m.arbRelease_spec a
  exact h.congr (congrArg Dev.regs hrest :) hother hl

/-- A slab access through a usable port. -/
theorem Dev.slabAccess_usable {d : Dev} {arr off : Nat} {w : Bool} {line : Line} (h : d.dbgUsable true = true) :
    d.slabAccess true arr off w line =
      (((d.addF .SEC_DBG_CFG_OPS 1).debugTake (2 * 4096 + arr)).slabLine arr off w line).arbRelease (2 * 4096 + arr) := by
  unfold Dev.slabAccess
  rw [if_neg (by decide), if_neg (by simp [h])]
  rfl

theorem Dev.switchCapture_usable {d : Dev} {port : Nat} (h : d.dbgUsable true = true) : d.switchCapture true port =
    ((d.addF .SEC_DBG_CFG_OPS 1).updArb (fun x => { x with capture := x.capture.filter (· != port) ++ [port] })).debugTake
      (6 * 4096 + port) := by
  unfold Dev.switchCapture
  rw [if_neg (by decide), if_neg (by simp [h])]
  rfl

/-- The line that is written, or the line that answers the read where no word holds an error. -/
theorem Dev.slabLine_spec (d : Dev) (arr off : Nat) (line : Line) :
    (d.slabLine arr off true line = { d with mem := { d.mem with
      slab := writeBytes d.mem.slab (slabKey arr (off / 64 * 64)) (leBytes 64 line.toNat)
      slabBad := d.mem.slabBad.filter (fun w => !overlaps w 8 (slabKey arr (off / 64 * 64)) 64) } }) ∧
    (d.mem.slabBad = [] → d.slabLine arr off false line =
      { d with out := d.out ++ [.slabLine (readBytes d.mem.slab (slabKey arr (off / 64 * 64)) 64)] }) := by
  refine ⟨rfl, fun h => ?_⟩
  unfold Dev.slabLine
  rw [h]
  rfl

/-- An access to the line gives the port up again, and keeps what the line's read or write has left. -/
theorem Dev.slabAccess_counted {d : Dev} {arr off : Nat} {w : Bool} {line : Line} (h : d.dbgUsable true = true) (harr : arr < 152)
    (hline : ∀ m : Dev, m.mem = d.mem → (m.slabLine arr off w line).regs = m.regs ∧ (m.slabLine arr off w line).arb = m.arb) :
    d.debugCounted (d.slabAccess true arr off w line) (2 * 4096 + arr) ∧
    (d.slabAccess true arr off w line).arbHeld (2 * 4096 + arr) = false ∧
    ∃ m : Dev, m.mem = d.mem ∧ m.out = d.out ∧ (d.slabAccess true arr off w line).mem = (m.slabLine arr off w line).mem ∧
      (d.slabAccess true arr off w line).out = (m.slabLine arr off w line).out := by
  have hcls : arbClass (2 * 4096 + arr) ≠ 1 := by unfold arbClass; omega
  obtain ⟨hcounted, -, -, hrest⟩ := Dev.debugTake_spec (d := d) (m := d.addF .SEC_DBG_CFG_OPS 1) hcls rfl ⟨rfl, rfl, rfl⟩
  have hmem : ((d.addF .SEC_DBG_CFG_OPS 1).debugTake (2 * 4096 + arr)).mem = d.mem := (congrArg Dev.mem hrest :)
  have hout : ((d.addF .SEC_DBG_CFG_OPS 1).debugTake (2 * 4096 + arr)).out = d.out := (congrArg Dev.out hrest :)
  rw [Dev.slabAccess_usable h]
  generalize (d.addF .SEC_DBG_CFG_OPS 1).debugTake (2 * 4096 + arr) = m at *
  obtain ⟨hregs, harb⟩ := hline m hmem
  refine ⟨?_, ?_, m, hmem, hout, ?_⟩
  all_goals generalize m.slabLine arr off w line = n at *
  · exact (hcounted.congr hregs (fun b _ => by unfold Dev.grantOf; rw [harb]) (by rw [harb])).release
  · exact (n.arbRelease_spec _).2.1
  · have hrel := (n.arbRelease_spec (2 * 4096 + arr)).1
    exact ⟨(congrArg Dev.mem hrel :), (congrArg Dev.out hrel :)⟩

/-! ## The port is reset -/

/-- The holds that the debug port gives up, one after another. -/
theorem Dev.releases_spec (d : Dev) (l : List Nat) :
    { l.foldl Dev.arbRelease d with arb := d.arb } = d ∧ (l.foldl Dev.arbRelease d).arb.lfsr = d.arb.lfsr ∧
    (l.foldl Dev.arbRelease d).arb.capture = d.arb.capture ∧
    ∀ x, x ∈ (l.foldl Dev.arbRelease d).arb.emergency ↔ x ∈ d.arb.emergency ∧ x.1 ∉ l := by
  induction l generalizing d with
  | nil => exact ⟨rfl, rfl, rfl, fun x => by simp⟩
  | cons a l ih =>
    obtain ⟨hrest, hl, hcap, hem⟩ := ih (d.arbRelease a)
    obtain ⟨hrest', -, hl', hcap', -, hem', -⟩ := d.arbRelease_spec a
    rw [List.foldl_cons]
    refine ⟨(congrArg (fun x : Dev => { x with arb := d.arb }) hrest :).trans hrest', hl.trans hl', hcap.trans hcap', fun x => ?_⟩
    rw [hem, hem', List.mem_filter, List.mem_cons]
    simp only [bne_iff_ne]
    tauto

/-- TRST_N low gives up every capture and every hold but those of HBM refresh. -/
theorem Dev.dbgStop_spec (d : Dev) : { d.dbgStop with arb := d.arb } = d ∧ d.dbgStop.arb.capture = [] ∧
    d.dbgStop.arb.lfsr = d.arb.lfsr ∧ ∀ x, x ∈ d.dbgStop.arb.emergency ↔ x ∈ d.arb.emergency ∧ arbClass x.1 = 1 := by
  obtain ⟨hrest, hl, hcap, hem⟩ := (d.updArb (fun x => { x with capture := [] })).releases_spec
    ((d.arb.emergency.filter (fun e => arbClass e.1 != 1)).map Prod.fst)
  refine ⟨(congrArg (fun x : Dev => { x with arb := d.arb }) hrest :), hcap, hl, fun x => (hem x).trans ?_⟩
  refine and_congr_right fun hx => ?_
  have hx' : x ∈ d.arb.emergency := hx
  rw [List.mem_map]
  constructor
  · intro h
    by_contra hc
    exact h ⟨x, List.mem_filter.mpr ⟨hx', by simpa using hc⟩, rfl⟩
  · rintro h ⟨y, hy, hyx⟩
    have := (List.mem_filter.mp hy).2
    rw [hyx] at this
    simp [h] at this

/-! ## OPEN -/

/-- Setting OPEN from 0 to 1 is reported. -/
theorem Dev.dbgCfg_opens {d : Dev} {v : BitVec 64} (hwas : d.flag .SEC_DBG_CFG_OPEN = false) (hv : Fld.SEC_DBG_CFG_OPEN.of v = 1) :
    (d.plainWrite .SEC_DBG_CFG v).flag .SEC_DBG_CFG_OPEN = true ∧
    (d.plainWrite .SEC_DBG_CFG v).f .SEC_DBG_CFG_ALLOW = d.f .SEC_DBG_CFG_ALLOW ∧
    d.dbgCfg v = (d.plainWrite .SEC_DBG_CFG v).post .SEC_DEBUG_OPEN := by
  have hopen : (d.plainWrite .SEC_DBG_CFG v).flag .SEC_DBG_CFG_OPEN = true :=
    Dev.flag_of_one ((d.f_plainWrite .SEC_DBG_CFG_OPEN v 0 0 (by decide) (by decide)).trans hv)
  refine ⟨hopen, d.f_plainWrite_stays .SEC_DBG_CFG_ALLOW v 0 0 (by decide) (by decide), ?_⟩
  unfold Dev.dbgCfg
  dsimp only
  rw [if_neg (by simp [hopen])]
  exact if_pos (by simp [hwas])

/-- A report on a device that differs only in registers. -/
theorem Dev.restTold_post {d m : Dev} (h : d.restSame m) (c : Code) (addr index : Nat) (who : Who) (n : Nat) :
    d.restTold (m.post c addr index who n).settle := by
  have hlink := m.post_link c addr index who n
  have hrest := m.postFrom_rest c.source c addr index who n
  change { m.post c addr index who n with link := m.link, regs := m.regs } = m at hrest
  generalize m.post c addr index who n = e at *
  have hm : e.settle = { m with regs := e.regs, pins := e.settle.pins, link := e.link } :=
    (congrArg (fun x : Dev => { x with regs := e.regs, pins := e.settle.pins, link := e.link }) hrest :)
  have hd : { m with regs := e.regs, pins := e.settle.pins, link := e.link } =
      { d with regs := e.regs, pins := e.settle.pins, link := e.link } :=
    (congrArg (fun x : Dev => { x with regs := e.regs, pins := e.settle.pins, link := e.link }) h :)
  have hl : e.link = { d.link with held := e.link.held, seq := e.link.seq } := by rw [hlink, h.link]
  exact hm.trans (hd.trans (congrArg (fun l => { d with regs := e.regs, pins := e.settle.pins, link := l }) hl))

/-- Settles O34: an access takes the resource, counts itself and gives the resource up; the reset of the port gives up everything. -/
theorem debugPort : Obligations.DebugPort := by
  unfold Obligations.DebugPort
  intro s
  refine ⟨fun ap v hacc hwas hv => ?_, fun arr off line w port => ?_⟩
  · refine Completes.of_accepted (g := fun d => d.dbgCfg v) rfl hacc ?_
    obtain ⟨hopen, hallow, heq⟩ := Dev.dbgCfg_opens hwas hv
    rw [heq]
    have hbut := (Dev.regsBut.refl s.dev [Reg.code .SEC_DBG_CFG 0 0]).plainWrite (r := .SEC_DBG_CFG) v (i := 0) (j := 0) (by simp)
    have hrest := (Dev.restSame.refl s.dev).plainWrite .SEC_DBG_CFG v 0 0
    have hcount : (s.dev.plainWrite .SEC_DBG_CFG v).count = s.dev.count :=
      congrArg BitVec.toNat (s.dev.reg_setReg_ne _ _ _ _ _ (by decide))
    generalize s.dev.plainWrite .SEC_DBG_CFG v = m at *
    have htold := Dev.restTold_post hrest .SEC_DEBUG_OPEN 0 0 {} 0
    have hnote := m.post_note (c := .SEC_DEBUG_OPEN) 0 0 {} 0 (by decide)
    have hp := Dev.posted_congr (d := s.dev) (d' := m) hrest.link hcount rfl
      (m.post_posted_of .SEC_DEBUG_OPEN 0 0 {} 0 (P := fun _ => True) trivial)
    have hregs : (m.post .SEC_DEBUG_OPEN).regs = m.regs := (congrArg Dev.regs hnote :)
    generalize m.post .SEC_DEBUG_OPEN = e at *
    have hf : ∀ f, e.settle.f f = m.f f := fun f => by rw [Dev.settle_f]; unfold Dev.f Dev.reg; rw [hregs]
    refine ⟨?_, (hf _).trans hallow, hp.settle, (hbut.congr hregs).settle, htold⟩
    rw [Dev.flag, hf]
    exact hopen
  · have hout : arbClass (6 * 4096 + port.val) ≠ 1 := by unfold arbClass; omega
    dsimp only
    refine ⟨fun hus => ⟨?_, fun hgood => ?_, ?_⟩, fun hoff => ⟨?_, ?_⟩, ?_⟩
    · refine Completes.of_act (g := fun d => d.slabAccess true arr off.toNat true line) rfl ?_
      obtain ⟨⟨hops, hregs, hgrants, hl, hown, hquiet⟩, hfree, m, hmem, -, hwrite, -⟩ :=
        Dev.slabAccess_counted (off := off.toNat) (w := true) (line := line) hus arr.isLt (fun _ _ => ⟨rfl, rfl⟩)
      rw [(m.slabLine_spec arr off.toNat line).1] at hwrite
      have hlen : (leBytes 64 line.toNat).length = 64 := by simp [leBytes]
      generalize s.dev.slabAccess true arr off.toNat true line = e at *
      have hslabs : e.mem.slab = writeBytes m.mem.slab (slabKey arr (off.toNat / 64 * 64)) (leBytes 64 line.toNat) :=
        congrArg MemSt.slab hwrite
      have hhbm : e.mem.hbm = m.mem.hbm := by rw [hwrite]
      refine ⟨?_, fun k hk => ?_, hhbm.trans (congrArg MemSt.hbm hmem),
        ⟨hops, hregs, hgrants, hl, hown, hquiet⟩, hfree⟩
      · rw [Dev.settle_mem, hslabs]
        exact hlen ▸ readBytes_writeBytes m.mem.slab _ (leBytes 64 line.toNat)
      · rw [Dev.settle_mem, hslabs, get_writeBytes, if_neg (by omega), hmem]
    · refine Completes.of_act (g := fun d => d.slabAccess true arr off.toNat false line) rfl ?_
      obtain ⟨⟨hops, hregs, hgrants, hl, hown, hquiet⟩, hfree, m, hmem, hmout, hkeep, hans⟩ :=
        Dev.slabAccess_counted (off := off.toNat) (w := false) (line := line) hus arr.isLt
          (fun m hm => by rw [(m.slabLine_spec arr off.toNat line).2 (by rw [hm]; exact hgood)]; exact ⟨rfl, rfl⟩)
      rw [(m.slabLine_spec arr off.toNat line).2 (by rw [hmem]; exact hgood)] at hkeep hans
      generalize s.dev.slabAccess true arr off.toNat false line = e at *
      refine ⟨?_, hkeep.trans hmem, ⟨hops, hregs, hgrants, hl, hown, hquiet⟩, hfree⟩
      rw [Dev.settle_out, hans, hmem, hmout]
    · refine Completes.of_act (g := fun d => d.switchCapture true port) rfl ?_
      rw [Dev.switchCapture_usable hus]
      obtain ⟨hcounted, hheld, hcap, hrest⟩ := Dev.debugTake_spec (d := s.dev) (m := (s.dev.addF .SEC_DBG_CFG_OPS 1).updArb
        (fun x => { x with capture := x.capture.filter (· != port.val) ++ [port.val] })) hout rfl ⟨rfl, rfl, rfl⟩
      have hmem := (congrArg Dev.mem hrest :)
      obtain ⟨hops, hregs, hgrants, hl, hown, hquiet⟩ := hcounted
      generalize Dev.debugTake _ (6 * 4096 + port.val) = e at *
      exact ⟨hcap, ⟨hops, hregs, hgrants, hl, hown, hquiet⟩, hheld, hmem⟩
    · refine Completes.of_act (g := fun d => d.slabAccess true arr off.toNat w line) rfl ?_
      rw [show s.dev.slabAccess true arr off.toNat w line = s.dev from (if_neg (by decide)).trans (if_pos (by simp [hoff]))]
      exact Dev.same_settle s.dev
    · refine Completes.of_act (g := fun d => d.switchCapture true port) rfl ?_
      rw [show s.dev.switchCapture true port = s.dev from (if_neg (by decide)).trans (if_pos (by simp [hoff]))]
      exact Dev.same_settle s.dev
    · obtain ⟨hrest, hcap, hl, hem⟩ := s.dev.dbgStop_spec
      have hstop : ∀ e : Dev, e = s.dev.dbgStop → e.settle = { s.dev with pins := e.settle.pins, arb := e.settle.arb } ∧
          e.settle.arb.capture = [] ∧ e.settle.arb.lfsr = s.dev.arb.lfsr ∧
          ∀ x, x ∈ e.settle.arb.emergency ↔ x ∈ s.dev.arb.emergency ∧ arbClass x.1 = 1 := by
        rintro e rfl
        generalize s.dev.dbgStop = e at *
        exact ⟨(congrArg (fun x : Dev => { x with pins := e.settle.pins, arb := e.arb }) hrest :), hcap, hl, hem⟩
      intro i hi
      simp only [List.mem_cons, List.not_mem_nil, or_false] at hi
      obtain rfl | rfl := hi
      · exact Completes.of_act (g := fun d => d.slabAccess false arr off.toNat w line) rfl (hstop _ (if_pos rfl))
      · exact Completes.of_act (g := fun d => d.switchCapture false port) rfl (hstop _ (if_pos rfl))

end Sys2Proof.Machine
end

section
/-! PROOFS. Error rates and replacement reasons (R331, R334, R335). -/

namespace Sys2Proof.Machine

/-! ## A bit set or cleared -/

/-- A number with one bit set or cleared, by its parts above and below the bit. -/
theorem setBit_eq (n i : Nat) (v : Bool) : setBit n i v = 2 ^ i * (2 * (n / 2 ^ i / 2) + b2n v) + n % 2 ^ i := by
  have hn := Nat.div_add_mod n (2 ^ i)
  have hq := Nat.div_add_mod (n / 2 ^ i) 2
  have hbit : bit n i = decide (n / 2 ^ i % 2 = 1) := rfl
  have hlow : n - (if bit n i then 2 ^ i else 0) = 2 ^ i * (2 * (n / 2 ^ i / 2)) + n % 2 ^ i := by
    rw [hbit]
    generalize n / 2 ^ i = a at *
    rcases Nat.mod_two_eq_zero_or_one a with h | h
    · have ha : 2 * (a / 2) = a := by omega
      rw [h, ha]
      simpa using hn.symm
    · have ha : 2 ^ i * a = 2 ^ i * (2 * (a / 2)) + 2 ^ i := by
        rw [← Nat.mul_succ]
        exact congrArg (2 ^ i * ·) (by omega)
      rw [h, if_pos (by decide)]
      omega
  unfold setBit
  cases v
  · exact hlow
  · dsimp only
    rw [if_pos rfl, hlow, Nat.mul_add]
    simp [b2n]
    omega

theorem bit_eq_testBit (n i : Nat) : bit n i = n.testBit i := by
  rw [Nat.testBit_eq_decide_div_mod_eq]
  rfl

/-- A bit set or cleared, and every other bit as it was. -/
theorem bit_setBit (n i k : Nat) (v : Bool) : bit (setBit n i v) k = if k = i then v else bit n k := by
  rw [bit_eq_testBit, setBit_eq, Nat.testBit_two_pow_mul_add _ (Nat.mod_lt _ (Nat.two_pow_pos i)), bit_eq_testBit]
  by_cases hlt : k < i
  · rw [if_pos hlt, if_neg (by omega), Nat.testBit_mod_two_pow]
    simp [hlt]
  · rw [if_neg hlt]
    by_cases hk : k = i
    · subst hk
      rw [if_pos rfl, Nat.sub_self, Nat.testBit_zero]
      cases v <;> simp [b2n]
    · obtain ⟨m, rfl⟩ : ∃ m, k = i + 1 + m := ⟨k - (i + 1), by omega⟩
      rw [if_neg hk, show i + 1 + m - i = m + 1 by omega, Nat.testBit_succ]
      have hhalf : (2 * (n / 2 ^ i / 2) + b2n v) / 2 = n / 2 ^ (i + 1) := by
        rw [Nat.div_div_eq_div_mul, ← Nat.pow_succ]
        cases v
        · simp [b2n]
        · simp [b2n]
          omega
      rw [hhalf, Nat.testBit_div_two_pow, Nat.add_comm]

/-! ## Rates -/

/-- An event joins its item's count; the count that reaches the threshold for the first time in the window is reported, and
sets the reason. -/
theorem Dev.rateEvent_spec (d : Dev) (kind item n : Nat) :
    let key := kind * 65536 + item % 65536
    let c := SMap.get 0 d.err.rates key + n
    let over_ := d.rateLimit kind ≠ 0 ∧ d.rateLimit kind ≤ c ∧ key ∉ d.err.rated
    let e := d.rateEvent kind item n
    SMap.get 0 e.err.rates key = c ∧
    (over_ → d.posted e .ERR_RATE (fun r => r.index = kind + 256 * (item % 65536)) ∧
      bit (e.f .ERR_REPLACE_REASON) 3 = true ∧ key ∈ e.err.rated) ∧
    (¬over_ → e.link = d.link ∧ e.regs = d.regs) ∧
    e.cmds = d.cmds ∧ e.mem = d.mem ∧ e.out = d.out ∧ (∀ r i j, r ≠ .ERR_REPLACE → r ≠ .ERR_STATUS → e.reg r i j = d.reg r i j) ∧
    d.heldGrows e := by
  dsimp only
  unfold Dev.rateEvent
  dsimp only
  have hlimit : ∀ x : ErrSt, ({ d with err := x } : Dev).rateLimit kind = d.rateLimit kind := fun x => by
    unfold Dev.rateLimit
    split <;> rfl
  rw [hlimit]
  split
  · next hover =>
    generalize hm : ({ d with err := _ } : Dev) = m
    have hmreg : ∀ r i j, m.reg r i j = d.reg r i j := fun _ _ _ => by rw [← hm]; rfl
    have hreason : bit ((m.setF .ERR_REPLACE_REASON (setBit (m.f .ERR_REPLACE_REASON) 3 true)).f .ERR_REPLACE_REASON) 3 = true := by
      rw [m.f_setF_same .ERR_REPLACE_REASON _ 0 0 (by decide), bit_eq_testBit, Nat.testBit_mod_two_pow, ← bit_eq_testBit, bit_setBit]
      rfl
    have hreg : ∀ r i j, r ≠ .ERR_REPLACE → (m.setF .ERR_REPLACE_REASON (setBit (m.f .ERR_REPLACE_REASON) 3 true)).reg r i j = d.reg r i j :=
      fun r i j hr => (m.reg_setF_ne .ERR_REPLACE_REASON r _ 0 0 i j (Reg.code_ne hr _ _ _ _)).trans (hmreg r i j)
    have hrest : ∀ x, { m.setF .ERR_REPLACE_REASON x with regs := d.regs, err := d.err } = d := fun x => by rw [← hm]; rfl
    have herr : ∀ x, (m.setF .ERR_REPLACE_REASON x).err = m.err := fun _ => rfl
    have hrates : SMap.get 0 m.err.rates (kind * 65536 + item % 65536) = SMap.get 0 d.err.rates (kind * 65536 + item % 65536) + n := by
      rw [← hm]
      exact (SMap.get_set ..).trans (if_pos rfl)
    have hrated : kind * 65536 + item % 65536 ∈ m.err.rated := by
      rw [← hm]
      simp
    have hrest' := hrest (setBit (m.f .ERR_REPLACE_REASON) 3 true)
    have herr' := herr (setBit (m.f .ERR_REPLACE_REASON) 3 true)
    generalize m.setF .ERR_REPLACE_REASON (setBit (m.f .ERR_REPLACE_REASON) 3 true) = q at *
    have hqlink : q.link = d.link := (congrArg Dev.link hrest' :)
    have hqcount : q.count = d.count := congrArg BitVec.toNat (hreg .RING_COUNT 0 0 (by decide))
    have hgrows := Dev.heldGrows.post q .ERR_RATE 0 (kind + 256 * (item % 65536)) {} 0
    have hpcmds := q.post_cmds .ERR_RATE 0 (kind + 256 * (item % 65536)) {} 0
    have hpmem := q.post_mem .ERR_RATE 0 (kind + 256 * (item % 65536)) {} 0
    have hpout := q.post_out .ERR_RATE 0 (kind + 256 * (item % 65536)) {} 0
    have hperr := q.post_err .ERR_RATE 0 (kind + 256 * (item % 65536)) {} 0
    have hposted := Dev.posted_congr (d := d) hqlink hqcount rfl
      (q.post_posted_of .ERR_RATE 0 (kind + 256 * (item % 65536)) {} 0 (P := fun r => r.index = kind + 256 * (item % 65536)) rfl)
    have hpreg : ∀ r i j, r ≠ .ERR_STATUS → (q.post .ERR_RATE 0 (kind + 256 * (item % 65536))).reg r i j = q.reg r i j :=
      fun r i j hr => q.reg_post _ _ _ _ _ i j (Reg.code_ne hr _ _ _ _)
    generalize q.post .ERR_RATE 0 (kind + 256 * (item % 65536)) = e at *
    refine ⟨?_, fun _ => ⟨hposted, ?_, ?_⟩, fun h => absurd hover h, hpcmds.trans (congrArg Dev.cmds hrest' :),
      hpmem.trans (congrArg Dev.mem hrest' :), hpout.trans (congrArg Dev.out hrest' :),
      fun r i j h1 h2 => (hpreg r i j h2).trans (hreg r i j h1), (Dev.heldGrows.of_link hqlink).trans hgrows⟩
    · rw [hperr, herr', hrates]
    · exact (congrArg (fun v => bit (Fld.ERR_REPLACE_REASON.of v) 3) (hpreg .ERR_REPLACE 0 0 (by decide))).trans hreason
    · rw [hperr, herr']
      exact hrated
  · next hover => exact ⟨by rw [SMap.get_set, if_pos rfl], fun h => absurd h hover, fun _ => ⟨rfl, rfl⟩, rfl, rfl, rfl, fun _ _ _ _ _ => rfl,
      .of_link rfl⟩

/-- An event that is counted by its own counter joins the rates. -/
theorem Dev.rateCounted_spec (d : Dev) (cnt : Fld) (i kind item n : Nat) (hcnt : cnt.lo + cnt.width ≤ 64)
    (hreg : cnt.reg ∉ [Reg.ERR_THRESH0, .ERR_THRESH1, .ERR_REPLACE, .ERR_STATUS, .RING_COUNT]) :
    let key := kind * 65536 + item % 65536
    let c := SMap.get 0 d.err.rates key + n
    let over_ := d.rateLimit kind ≠ 0 ∧ d.rateLimit kind ≤ c ∧ key ∉ d.err.rated
    let e := (d.addF cnt n i).rateEvent kind item n
    d.bumped e cnt n i ∧ SMap.get 0 e.err.rates key = c ∧
    (over_ → d.posted e .ERR_RATE (fun r => r.index = kind + 256 * (item % 65536)) ∧
      bit (e.f .ERR_REPLACE_REASON) 3 = true ∧ key ∈ e.err.rated) ∧
    (¬over_ → e.link = d.link ∧ e.reg .ERR_REPLACE = d.reg .ERR_REPLACE) ∧ e.cmds = d.cmds := by
  simp only [List.mem_cons, List.not_mem_nil, or_false, not_or] at hreg
  obtain ⟨h0, h1, h2, h3, h4⟩ := hreg
  have hne : ∀ r, r ≠ cnt.reg → ∀ i' j', (d.addF cnt n i).reg r i' j' = d.reg r i' j' := fun r hr i' j' =>
    d.reg_setF_ne cnt r _ i 0 i' j' (Reg.code_ne hr _ _ _ _)
  have hlimit : (d.addF cnt n i).rateLimit kind = d.rateLimit kind := by
    have hf : ∀ f : Fld, f.reg = .ERR_THRESH0 ∨ f.reg = .ERR_THRESH1 → (d.addF cnt n i).f f = d.f f := by
      rintro f (hf | hf)
      · exact congrArg f.of (hne f.reg (by rw [hf]; exact Ne.symm h0) 0 0)
      · exact congrArg f.of (hne f.reg (by rw [hf]; exact Ne.symm h1) 0 0)
    unfold Dev.rateLimit
    split <;> simp [hf]
  have h := (d.addF cnt n i).rateEvent_spec kind item n
  have hb := d.bumped_addF cnt n i 0 hcnt
  have hcount : (d.addF cnt n i).count = d.count := congrArg BitVec.toNat (hne .RING_COUNT (Ne.symm h4) 0 0)
  have hrep := hne .ERR_REPLACE (Ne.symm h2) 0 0
  dsimp only at h ⊢
  rw [hlimit] at h
  obtain ⟨hrates, hover, hnot, hcmds, -, -, hregs, -⟩ := h
  generalize hm : d.addF cnt n i = m at *
  have hlink : m.link = d.link := by rw [← hm]; rfl
  have herr : m.err = d.err := by rw [← hm]; rfl
  have hmcmds : m.cmds = d.cmds := by rw [← hm]; rfl
  rw [herr] at hrates hover hnot
  generalize m.rateEvent kind item n = e at *
  refine ⟨?_, hrates, fun ho => ?_, fun ho => ?_, hcmds.trans hmcmds⟩
  · exact (congrArg cnt.of (hregs cnt.reg i 0 h2 h3)).trans hb
  · obtain ⟨hp, hbit, hin⟩ := hover ho
    exact ⟨Dev.posted_congr hlink hcount rfl hp, hbit, hin⟩
  · obtain ⟨hl, hr⟩ := hnot ho
    refine ⟨hl.trans hlink, Eq.trans ?_ hrep⟩
    unfold Dev.reg
    rw [hr]

/-- REPLACE_REQ_N goes from released to asserted and is reported. -/
theorem Dev.replaceReq_asserts {d : Dev} (hpin : d.pins.replace = false) (hcold : d.boot.cold = false) (hreasons : d.reasons ≠ 0) :
    (d.replaceReq).settle.pins.replace = true ∧ d.posted d.replaceReq .REPLACE_REQ (fun r => r.index = d.f .ERR_REPLACE_REASON) ∧
    d.replaceReq.regs = d.regs ∧ d.replaceReq.cmds = d.cmds := by
  have heq : d.replaceReq = ({ d with pins := { d.pins with replace := true } } : Dev).post .REPLACE_REQ 0 (d.f .ERR_REPLACE_REASON) :=
    if_neg (by simp [hpin, hcold, hreasons])
  rw [heq]
  generalize hm : ({ d with pins := { d.pins with replace := true } } : Dev) = m
  have hnote := m.post_note (c := .REPLACE_REQ) 0 (d.f .ERR_REPLACE_REASON) {} 0 (by decide)
  have hposted := m.post_posted_of .REPLACE_REQ 0 (d.f .ERR_REPLACE_REASON) {} 0 (P := fun r => r.index = d.f .ERR_REPLACE_REASON) rfl
  have hlink : m.link = d.link := by rw [← hm]
  have hcount : m.count = d.count := by rw [← hm]; rfl
  have hmr : m.reasons = d.reasons := by rw [← hm]; rfl
  have hmp : m.pins.replace = true := by rw [← hm]
  have hmc : m.boot.cold = false := by rw [← hm]; exact hcold
  have hmregs : m.regs = d.regs := by rw [← hm]
  have hmcmds : m.cmds = d.cmds := by rw [← hm]
  generalize m.post .REPLACE_REQ 0 (d.f .ERR_REPLACE_REASON) = e at *
  have her : e.regs = m.regs := (congrArg Dev.regs hnote :)
  have hereasons : e.reasons = m.reasons := by
    unfold Dev.reasons Dev.f Dev.reg
    rw [her]
  have hep : e.pins = m.pins := (congrArg Dev.pins hnote :)
  have heb : e.boot = m.boot := (congrArg Dev.boot hnote :)
  refine ⟨?_, Dev.posted_congr hlink hcount rfl hposted, her.trans hmregs, (congrArg Dev.cmds hnote :).trans hmcmds⟩
  show (!e.boot.cold && e.pins.replace && decide (e.reasons ≠ 0)) = true
  rw [heb, hep, hereasons, hmc, hmp, hmr]
  simpa using hreasons

/-- Settles O37: an event counted by its own counter joins its item's rate, and the rate decides what is reported. -/
theorem ratesAndReasons : Obligations.RatesAndReasons := by
  unfold Obligations.RatesAndReasons
  intro s
  refine ⟨fun ap v hacc => ?_, fun hc hcold hst => ?_, fun kind item n it i cnt hkind => ?_, fun hend => ?_, fun hpin hcold hreasons => ?_⟩
  · refine Completes.of_accepted (g := fun d => d.plainWrite .ERR_REPLACE (v.zeroExtend 64)) rfl hacc ?_
    have heq := s.dev.plainWrite_eq (r := .ERR_REPLACE) (v.zeroExtend 64) 0 0 (by decide)
    have hbut := (Dev.regsBut.refl s.dev [Reg.code .ERR_REPLACE 0 0]).plainWrite (r := .ERR_REPLACE) (v.zeroExtend 64) (i := 0) (j := 0) (by simp)
    have hrest := (Dev.restSame.refl s.dev).plainWrite .ERR_REPLACE (v.zeroExtend 64) 0 0
    have hreg : (s.dev.plainWrite .ERR_REPLACE (v.zeroExtend 64)).reg .ERR_REPLACE = written .ERR_REPLACE (s.dev.reg .ERR_REPLACE) (v.zeroExtend 64) := by
      rw [heq, Dev.reg_setReg_same]
    generalize s.dev.plainWrite .ERR_REPLACE (v.zeroExtend 64) = e at *
    exact ⟨hreg, hbut.settle, hrest.settle⟩
  · refine Completes.of_engine (g := fun d => if d.count % 2 ^ 20 = 0 then d.conserve none else d) rfl hst ?_
    dsimp only
    rw [if_pos hc]
    obtain ⟨hb, hbut, hrest⟩ := Dev.conserve_spec none hcold
    generalize s.dev.conserve none = e at *
    exact ⟨hb, hbut.settle, (congrArg (fun x : Dev => { x with pins := e.settle.pins }) hrest :)⟩
  · dsimp only
    refine Completes.of_act (g := fun d => d.rateRow kind item n) rfl ?_
    have hit : it % 65536 = it := by omega
    have hrow : s.dev.rateRow kind item n = (s.dev.addF cnt n i).rateEvent kind it n := by
      obtain ⟨rfl, hlt, rfl, rfl, rfl⟩ | ⟨rfl, hlt, rfl, rfl, rfl⟩ | ⟨rfl, rfl, rfl, rfl⟩ | ⟨rfl, rfl, rfl, rfl⟩ := hkind
      · exact if_pos hlt
      · exact if_pos hlt
      · rfl
      · rfl
    have hcnt : cnt.lo + cnt.width ≤ 64 ∧ cnt.reg ∉ [Reg.ERR_THRESH0, .ERR_THRESH1, .ERR_REPLACE, .ERR_STATUS, .RING_COUNT] := by
      obtain ⟨-, -, -, rfl, -⟩ | ⟨-, -, -, rfl, -⟩ | ⟨-, -, rfl, -⟩ | ⟨-, -, rfl, -⟩ := hkind <;> decide
    have h := s.dev.rateCounted_spec cnt i kind it n hcnt.1 hcnt.2
    rw [hrow]
    dsimp only at h
    rw [hit] at h
    generalize (s.dev.addF cnt n i).rateEvent kind it n = e at *
    exact h
  · refine Completes.of_act (g := Dev.rateEnd) rfl ?_
    rw [show s.dev.rateEnd = _ from if_neg (by omega)]
    exact ⟨rfl, rfl, rfl⟩
  · refine Completes.of_act (g := Dev.replaceReq) rfl ?_
    obtain ⟨hp, hposted, hregs, hcmds⟩ := Dev.replaceReq_asserts hpin hcold hreasons
    generalize s.dev.replaceReq = e at *
    exact ⟨hp, hposted.settle, hregs, hcmds⟩

end Sys2Proof.Machine
end

section
/-! PROOFS. Droop, temperature and the VDD_CORE target (R340, R341, R371). -/

namespace Sys2Proof.Machine

/-! ## The temperature shown -/

/-- A field of 8 bits that is below 256 is shown as it is. -/
theorem Dev.setTemp_spec (d : Dev) (t : Nat) :
    (d.setTemp t).f .ERR_THERM_TEMP = min t 255 ∧ (d.setTemp t).f .ERR_THERM_MAX = max (min t 255) (d.f .ERR_THERM_MAX) ∧
    (d.setTemp t).f .ERR_THERM_WARN = d.f .ERR_THERM_WARN ∧ d.regsBut (d.setTemp t) [Reg.code .ERR_THERM 0 0] ∧
    { d.setTemp t with regs := d.regs } = d := by
  have hmax : d.f .ERR_THERM_MAX < 2 ^ 8 := Nat.mod_lt _ (by decide)
  unfold Dev.setTemp
  refine ⟨?_, ?_, ?_, ((Dev.regsBut.refl d _).setF _ (by simp)).setF _ (by simp), rfl⟩
  · rw [Dev.f_setF_apart _ .ERR_THERM_MAX .ERR_THERM_TEMP _ 0 0 rfl (by decide) (by decide), d.f_setF_same _ _ _ _ (by decide)]
    exact Nat.mod_eq_of_lt (show min t 255 < 2 ^ 8 by omega)
  · rw [Dev.f_setF_same _ _ _ _ _ (by decide)]
    exact Nat.mod_eq_of_lt (show max (min t 255) (d.f .ERR_THERM_MAX) < 2 ^ 8 by omega)
  · rw [Dev.f_setF_apart _ .ERR_THERM_MAX .ERR_THERM_WARN _ 0 0 rfl (by decide) (by decide),
      d.f_setF_apart .ERR_THERM_TEMP .ERR_THERM_WARN _ 0 0 rfl (by decide) (by decide)]

/-! ## Droop -/

theorem Dev.postFirst_link (d : Dev) (c : Code) (item addr index : Nat) (who : Who) :
    (d.postFirst c item addr index who).err.droop = d.err.droop := by
  unfold Dev.postFirst
  dsimp only
  split
  · rfl
  · rw [Dev.post_err]

/-- A stretch event is counted for the device and its domain, and one beyond the allowance also in OVER. -/
theorem Dev.droop_spec (d : Dev) (dom : Nat) (x : Bool) :
    d.bumped (d.droop dom x) .ERR_DROOP_EVENTS 1 ∧
    SMap.get 0 (d.droop dom x).err.droop dom = min (SMap.get 0 d.err.droop dom + 1) (2 ^ 32 - 1) ∧
    (x = true → d.bumped (d.droop dom x) .ERR_DROOP_OVER 1) ∧
    (x = false → (d.droop dom x).f .ERR_DROOP_OVER = d.f .ERR_DROOP_OVER ∧ (d.droop dom x).link = d.link) ∧
    (d.droop dom x).cmds = d.cmds := by
  have hb := d.bumped_addF .ERR_DROOP_EVENTS 1 0 0 (by decide)
  have hover := d.f_addF_apart .ERR_DROOP_EVENTS .ERR_DROOP_OVER 1 0 0 rfl (by decide) (by decide)
  unfold Dev.droop
  dsimp only
  generalize hm : ({ d.addF .ERR_DROOP_EVENTS 1 with err := _ } : Dev) = m
  have hmf : ∀ f, m.f f = (d.addF .ERR_DROOP_EVENTS 1).f f := fun _ => by rw [← hm]; rfl
  have hcount : SMap.get 0 m.err.droop dom = min (SMap.get 0 d.err.droop dom + 1) (2 ^ 32 - 1) := by
    rw [← hm]
    exact (SMap.get_set ..).trans (if_pos rfl)
  have hlink : m.link = d.link := by rw [← hm]; rfl
  have hcmds : m.cmds = d.cmds := by rw [← hm]; rfl
  cases x
  · rw [if_neg (by decide)]
    exact ⟨(hmf _).trans hb, hcount, fun h => absurd h (by decide), fun _ => ⟨(hmf _).trans hover, hlink⟩, hcmds⟩
  · rw [if_pos rfl]
    have hmove := Dev.switchMoves.postFirst (m.addF .ERR_DROOP_OVER 1) .DROOP_EXCESS 0 0 dom {}
    have hdroop := (m.addF .ERR_DROOP_OVER 1).postFirst_link .DROOP_EXCESS 0 0 dom {}
    have hob := m.bumped_addF .ERR_DROOP_OVER 1 0 0 (by decide)
    have heb := m.f_addF_apart .ERR_DROOP_OVER .ERR_DROOP_EVENTS 1 0 0 rfl (by decide) (by decide)
    generalize (m.addF .ERR_DROOP_OVER 1).postFirst .DROOP_EXCESS 0 0 dom {} = e at *
    have hf : ∀ f : Fld, f.reg = .ERR_DROOP → e.f f = (m.addF .ERR_DROOP_OVER 1).f f := fun f hf =>
      hmove.f 0 0 (by rw [hf]; decide)
    refine ⟨?_, (by rw [hdroop]; exact hcount), fun _ => ?_, fun h => absurd h (by decide), hmove.cmds.trans hcmds⟩
    · rw [Dev.bumped, hf _ rfl, heb, hmf]
      exact hb
    · rw [Dev.bumped, hf _ rfl, ← hover, ← hmf]
      exact hob

/-! ## Temperature -/

/-- The hottest sensor at WARN is reported once. -/
theorem Dev.tempHigh_posts {d : Dev} {t : Nat} (hw : d.f .ERR_THERM_WARN ≤ t) (harm : d.err.tempArmed = true) :
    d.tempHigh t = ({ d.setTemp t with err := { d.err with tempArmed := false } } : Dev).post .TEMP_HIGH := by
  obtain ⟨-, -, hwarn, -, hrest⟩ := d.setTemp_spec t
  have herr : (d.setTemp t).err = d.err := (congrArg Dev.err hrest :)
  unfold Dev.tempHigh
  dsimp only
  rw [herr, hwarn]
  exact if_pos (by simp [harm, hw])

theorem Dev.tempHigh_unarmed {d : Dev} {t : Nat} (harm : d.err.tempArmed = false) : d.tempHigh t = d.setTemp t :=
  if_neg (by
    rw [show (d.setTemp t).err.tempArmed = d.err.tempArmed from rfl, harm, Bool.false_and]
    decide)

theorem Dev.tempBelow_arms {d : Dev} {t : Nat} (h : t + 5 ≤ d.f .ERR_THERM_WARN) :
    d.tempBelow t = { d.setTemp t with err := { d.err with tempArmed := true } } := by
  obtain ⟨-, -, hwarn, -, -⟩ := d.setTemp_spec t
  unfold Dev.tempBelow
  dsimp only
  rw [hwarn]
  exact if_pos h

theorem Dev.thermTrip_posts {d : Dev} {t : Nat} (ht : 115 ≤ t) (hpin : d.pins.therm = false) (hcold : d.boot.cold = false) :
    d.thermTrip t = ({ d.setTemp t with pins := { d.pins with therm := true } } : Dev).post .THERM_TRIP := by
  have hnot : (decide (t < 115) || d.pins.therm || d.boot.cold) = false := by
    rw [hpin, hcold]
    simpa using ht
  exact if_neg (fun h : (decide (t < 115) || d.pins.therm || d.boot.cold) = true => by rw [hnot] at h; cases h)

/-- A FAULT that is posted shows in FAULT_SEEN. -/
theorem Dev.post_faultSeen (d : Dev) {c : Code} (addr index : Nat) (who : Who) (n : Nat) (h : c.severity = .fault) :
    (d.post c addr index who n).flag .ERR_STATUS_FAULT_SEEN = true := by
  unfold Dev.post Dev.postFrom
  dsimp only
  rw [if_pos h]
  exact Dev.flag_of_one (Dev.f_setF_same _ .ERR_STATUS_FAULT_SEEN 1 0 0 (by decide))

/-! ## The VDD_CORE target -/

/-- The step that is free and within the range is taken. -/
theorem Dev.vddStep_taken {d : Dev} {t : Nat} {up : Bool} (hcross : d.f .ERR_THERM_TEMP / 10 ≠ t / 10) (hstage : 3 ≤ d.stage)
    (hfree : ∀ c, d.boot.vddAt = some c → c + 2 ^ 20 ≤ d.count)
    (hlo : 680 ≤ if up then d.boot.vdd + 5 else d.boot.vdd - 5) (hhi : (if up then d.boot.vdd + 5 else d.boot.vdd - 5) ≤ 800) :
    d.vddStep t up = { d.setTemp t with boot := { d.boot with
      vdd := if up then d.boot.vdd + 5 else d.boot.vdd - 5, vddAt := some (d.setTemp t).count } } := by
  unfold Dev.vddStep
  refine if_pos ?_
  simp only [Bool.and_eq_true, decide_eq_true_eq]
  refine ⟨⟨⟨hcross, ?_⟩, hstage⟩, hlo, hhi⟩
  split
  · rfl
  · next c hc => exact decide_eq_true (hfree c hc)

/-- A step out of the range, or within 2^20 counts of the last, is not taken. -/
theorem Dev.vddStep_not {d : Dev} {t : Nat} {up : Bool}
    (h : ((if up then d.boot.vdd + 5 else d.boot.vdd - 5) < 680 ∨ 800 < if up then d.boot.vdd + 5 else d.boot.vdd - 5) ∨
      ∃ c, d.boot.vddAt = some c ∧ d.count < c + 2 ^ 20) : d.vddStep t up = d.setTemp t := by
  unfold Dev.vddStep
  refine if_neg ?_
  simp only [Bool.and_eq_true, decide_eq_true_eq]
  rintro ⟨⟨⟨-, hfree⟩, -⟩, hlo, hhi⟩
  obtain h | ⟨c, hc, hlt⟩ := h
  · omega
  · rw [hc] at hfree
    have := of_decide_eq_true hfree
    omega

/-- Settles O38: events are counted by their own fields, and the temperature shown decides what is reported and stepped. -/
theorem droopAndTemperature : Obligations.DroopAndTemperature := by
  unfold Obligations.DroopAndTemperature
  intro s
  refine ⟨fun dom x => ?_, fun t => ?_⟩
  · refine Completes.of_act (g := fun d => d.droop dom x) rfl ?_
    have h := s.dev.droop_spec dom x
    generalize s.dev.droop dom x = e at *
    exact h
  obtain ⟨htemp, hmax, hwarn, hbut, hrest⟩ := s.dev.setTemp_spec t
  have hlink : (s.dev.setTemp t).link = s.dev.link := (congrArg Dev.link hrest :)
  have herr : (s.dev.setTemp t).err = s.dev.err := (congrArg Dev.err hrest :)
  have hcmds : (s.dev.setTemp t).cmds = s.dev.cmds := (congrArg Dev.cmds hrest :)
  have hboot : (s.dev.setTemp t).boot = s.dev.boot := (congrArg Dev.boot hrest :)
  have hcount : (s.dev.setTemp t).count = s.dev.count :=
    congrArg BitVec.toNat (hbut .RING_COUNT 0 0 (by simpa using Reg.code_ne (by decide) _ _ _ _))
  refine ⟨fun hw harm => ?_, fun harm => ?_, fun hlo => ?_, fun ht hpin hcold => ?_, fun up => ⟨fun hcross hst hfree hlo hhi => ?_, fun hout => ?_⟩,
    fun up c hc hlt => ?_⟩
  · refine Completes.of_act (g := fun d => d.tempHigh t) rfl ?_
    rw [Dev.tempHigh_posts hw harm]
    generalize s.dev.setTemp t = m at *
    have hnote := Dev.post_note { m with err := { s.dev.err with tempArmed := false } } (c := .TEMP_HIGH) 0 0 {} 0 (by decide)
    have hp := Dev.posted_congr (d := s.dev) (d' := { m with err := { s.dev.err with tempArmed := false } }) hlink hcount rfl
      (Dev.post_posted_of _ .TEMP_HIGH 0 0 {} 0 (P := fun _ => True) trivial)
    generalize Dev.post { m with err := _ } .TEMP_HIGH = e at *
    have hregs : e.regs = m.regs := (congrArg Dev.regs hnote :)
    have hf : ∀ f, e.settle.f f = m.f f := fun f => by rw [Dev.settle_f]; unfold Dev.f Dev.reg; rw [hregs]
    refine ⟨hp.settle, ?_, (hf _).trans htemp, (hf _).trans hmax, (hbut.congr hregs).settle, (congrArg Dev.cmds hnote :).trans hcmds⟩
    exact (congrArg (fun x : Dev => x.err.tempArmed) hnote :)
  · refine Completes.of_act (g := fun d => d.tempHigh t) rfl ?_
    rw [Dev.tempHigh_unarmed harm]
    exact ⟨hlink, herr⟩
  · refine Completes.of_act (g := fun d => d.tempBelow t) rfl ?_
    rw [Dev.tempBelow_arms hlo]
    generalize s.dev.setTemp t = m at *
    exact ⟨rfl, hlink, hbut.congr rfl⟩
  · refine Completes.of_act (g := fun d => d.thermTrip t) rfl ?_
    rw [Dev.thermTrip_posts ht hpin hcold]
    generalize s.dev.setTemp t = m at *
    generalize hq : ({ m with pins := { s.dev.pins with therm := true } } : Dev) = q
    have hqlink : q.link = s.dev.link := by rw [← hq]; exact hlink
    have hqcount : q.count = s.dev.count := by rw [← hq]; exact hcount
    have hqbut : s.dev.regsBut q [Reg.code .ERR_THERM 0 0] := hbut.congr (by rw [← hq])
    have hqcmds : q.cmds = s.dev.cmds := by rw [← hq]; exact hcmds
    have hqboot : q.boot.cold = false := by rw [← hq]; exact (congrArg Boot.cold hboot).trans hcold
    have hqpin : q.pins.therm = true := by rw [← hq]
    have hp := Dev.posted_congr (d := s.dev) hqlink hqcount rfl (q.post_posted_of .THERM_TRIP 0 0 {} 0 (P := fun _ => True) trivial)
    have hseen := q.post_faultSeen (c := .THERM_TRIP) 0 0 {} 0 rfl
    have hregs := (hqbut.mono (l' := [Reg.code .ERR_THERM 0 0, Reg.code .ERR_STATUS 0 0]) (by simp)).post .THERM_TRIP 0 0 {} 0 (by simp)
    have hpc := q.post_cmds .THERM_TRIP 0 0 {} 0
    have hpb := q.post_boot .THERM_TRIP 0 0 {} 0
    have hpp := q.post_pins .THERM_TRIP 0 0 {} 0
    generalize q.post .THERM_TRIP = e at *
    refine ⟨?_, hp.settle, hseen, hregs.settle, hpc.trans hqcmds⟩
    show (!e.boot.cold && e.pins.therm) = true
    rw [hpb, hpp, hqboot, hqpin]
    rfl
  · refine Completes.of_act (g := fun d => d.vddStep t up) rfl ?_
    rw [Dev.vddStep_taken hcross hst hfree hlo hhi, hcount]
    generalize s.dev.setTemp t = m at *
    exact ⟨rfl, htemp, hbut.congr rfl, hlink⟩
  · refine Completes.of_act (g := fun d => d.vddStep t up) rfl ?_
    rw [Dev.vddStep_not (.inl hout)]
    exact hboot
  · refine Completes.of_act (g := fun d => d.vddStep t up) rfl ?_
    rw [Dev.vddStep_not (.inr ⟨c, hc, hlt⟩)]
    exact hboot

end Sys2Proof.Machine
end

section
/-! PROOFS. Mesh failures and the HBM scrub (R19, R217 to R219). -/

namespace Sys2Proof.Machine

/-! ## Events that are counted, then reported -/

/-- A counted event of a rate kind: the counter goes up, records held stay, and commands, memory and messages are as they were. -/
theorem Dev.rateCounted_frame (d : Dev) (cnt : Fld) (i kind item n : Nat) (hcnt : cnt.lo + cnt.width ≤ 64)
    (h1 : cnt.reg ≠ .ERR_REPLACE) (h2 : cnt.reg ≠ .ERR_STATUS) :
    d.bumped ((d.addF cnt n i).rateEvent kind item n) cnt n i ∧ ((d.addF cnt n i).rateEvent kind item n).cmds = d.cmds ∧
    ((d.addF cnt n i).rateEvent kind item n).mem = d.mem ∧ ((d.addF cnt n i).rateEvent kind item n).out = d.out ∧
    d.heldGrows ((d.addF cnt n i).rateEvent kind item n) := by
  have hb := d.bumped_addF cnt n i 0 hcnt
  obtain ⟨-, -, -, hcmds, hmem, hout, hregs, hgrows⟩ := (d.addF cnt n i).rateEvent_spec kind item n
  have hheld : d.heldGrows (d.addF cnt n i) := .of_link rfl
  have hc : (d.addF cnt n i).cmds = d.cmds ∧ (d.addF cnt n i).mem = d.mem ∧ (d.addF cnt n i).out = d.out := ⟨rfl, rfl, rfl⟩
  generalize d.addF cnt n i = m at *
  exact ⟨(congrArg cnt.of (hregs cnt.reg i 0 h1 h2)).trans hb, hcmds.trans hc.1, hmem.trans hc.2.1, hout.trans hc.2.2, hheld.trans hgrows⟩

/-- A report of a command, or of none, is held behind the others. -/
theorem Dev.heldGrows.then_report {d m e : Dev} {r : Report} (h : d.heldGrows m) (he : e.link.held = m.link.held ++ [.report r]) :
    ∃ l, e.link.held = d.link.held ++ l ++ [.report r] := by
  obtain ⟨l, hl⟩ := h
  exact ⟨l, by rw [he, hl]⟩

/-! ## MESH_CRC -/

/-- A mesh failure reported, with the command it belongs to. -/
def Dev.meshTold (d : Dev) (stop : Nat) : Option Nat → Dev
  | some i => (d.postCmd i .MESH_CRC Status.faultData.num 0 stop).failCmd i .faultData
  | none => d.post .MESH_CRC 0 stop

theorem Dev.meshTold_spec (d : Dev) (stop : Nat) (id : Option Nat) :
    (∃ r, (d.meshTold stop id).link.held = d.link.held ++ [.report r] ∧ r.code = .MESH_CRC ∧ r.index = stop) ∧
    (∀ i c, id = some i → d.cmd? i = some c → c.ended = false → (d.meshTold stop id).failing i .faultData) ∧
    (id = none → (d.meshTold stop id).cmds = d.cmds) ∧ (d.meshTold stop id).out = d.out ∧
    (d.meshTold stop id).f .ERR_MESH_CRC = d.f .ERR_MESH_CRC := by
  cases id with
  | none =>
    refine ⟨⟨d.reportOf .MESH_CRC 0 stop {} 0, ?_, rfl, rfl⟩, ?_, fun _ => d.post_cmds .., d.post_out .., d.f_post _ _ _ _ _ 0 0 (by decide)⟩
    · exact congrArg LinkSt.held (d.post_link .MESH_CRC 0 stop {} 0)
    · rintro i c ⟨⟩
  | some i =>
    obtain ⟨who, heq⟩ := d.postCmd_eq i .MESH_CRC Status.faultData.num 0 stop 0
    refine ⟨⟨d.reportOf .MESH_CRC 0 stop who 0, ?_, rfl, rfl⟩, ?_, ?_, ?_, ?_⟩
    · show (d.postCmd i .MESH_CRC Status.faultData.num 0 stop).link.held = _
      rw [heq]
      exact congrArg LinkSt.held (d.post_link .MESH_CRC 0 stop who 0)
    · rintro i c ⟨⟩ hc hend
      exact Dev.failing_told .faultData .MESH_CRC _ 0 stop 0 hc hend
    · rintro ⟨⟩
    · show (d.postCmd i .MESH_CRC Status.faultData.num 0 stop).out = _
      rw [heq]
      exact d.post_out ..
    · show (d.postCmd i .MESH_CRC Status.faultData.num 0 stop).f .ERR_MESH_CRC = _
      rw [heq]
      exact d.f_post _ _ _ _ _ 0 0 (by decide)

/-- The answer of a control-space read that failed. -/
def Dev.readZero (d : Dev) : Option Nat → Dev
  | some n => d.emit (.readData n 0)
  | none => d

theorem Dev.meshCrc_eq (d : Dev) (stop : Nat) (id read : Option Nat) :
    d.meshCrc stop id read = (((d.addF .ERR_MESH_CRC 1).rateEvent 7 0 1).meshTold stop id).readZero read := by
  cases id <;> cases read <;> rfl

/-! ## SCRUB -/

/-- The scrub of a stack moves on to the next line. -/
def Dev.scrubbed (d : Dev) (stack : Nat) : Dev :=
  { d with mem := { d.mem with scrub := SMap.set 0 d.mem.scrub stack ((SMap.get 0 d.mem.scrub stack + 1) % stackLines) } }

/-- A scrub of a line that is neither retired nor marked already. -/
theorem Dev.scrub_eq {d : Dev} {stack : Nat} (hen : d.flag .TIER_SCRUB_ENABLE = true) (hst : 8 ≤ d.stage)
    (hframe : stackLine stack (SMap.get 0 d.mem.scrub stack) / 65536 ∉ d.mem.frames)
    (hbad : stackLine stack (SMap.get 0 d.mem.scrub stack) ∉ d.mem.hbmBad) :
    d.scrub stack .clean = d.scrubbed stack ∧
    d.scrub stack .corrected = ((d.scrubbed stack).addF .TIER_HBM_ERR_CORRECTED 1 stack).rateEvent 0 stack 1 ∧
    d.scrub stack .uncorrectable = ({ d.scrubbed stack with mem := { (d.scrubbed stack).mem with
      hbmBad := d.mem.hbmBad ++ [stackLine stack (SMap.get 0 d.mem.scrub stack)] } } : Dev).hbmUe none
        (stackLine stack (SMap.get 0 d.mem.scrub stack)) := by
  have hgo : (!d.flag .TIER_SCRUB_ENABLE || decide (d.stage < 8)) = false := by simp [hen, hst]
  have h : ∀ f, d.scrub stack f = _ := fun f => (if_neg (by simp [hgo])).trans ((if_neg hframe).trans (if_neg hbad))
  exact ⟨h .clean, h .corrected, h .uncorrectable⟩

/-- A line's stack is read from its address. -/
theorem stackLine_stack {stack : Nat} (k : Nat) (h : stack < 8) : bits (stackLine stack k) 12 3 = stack := by
  unfold stackLine bits
  have : (k / 64 * 8 + stack) * 4096 + k % 64 * 64 < (k / 64 * 8 + stack) * 4096 + 4096 := by omega
  omega

/-- An uncorrectable error that no command met is counted, latched and reported. -/
theorem Dev.hbmUe_none_spec (d : Dev) (a : Nat) :
    d.bumped (d.hbmUe none a) .TIER_HBM_ERR_UNCORRECTABLE 1 (bits a 12 3) ∧
    (∃ l r, (d.hbmUe none a).link.held = d.link.held ++ l ++ [.report r] ∧ r.code = .TIER_HBM_UE ∧ r.address = a) ∧
    (d.hbmUe none a).mem = d.mem ∧ (d.hbmUe none a).cmds = d.cmds := by
  obtain ⟨hb, hcmds, hmem, -, hgrows⟩ :=
    d.rateCounted_frame .TIER_HBM_ERR_UNCORRECTABLE (bits a 12 3) 2 (bits a 12 3) 1 (by decide) (by decide) (by decide)
  unfold Dev.hbmUe
  dsimp only
  generalize (d.addF .TIER_HBM_ERR_UNCORRECTABLE 1 (bits a 12 3)).rateEvent 2 (bits a 12 3) 1 = m at *
  have hlatch : (m.setReg .TIER_UE_ADDR (BitVec.ofNat 64 (a % 2 ^ 40))).f .TIER_HBM_ERR_UNCORRECTABLE (bits a 12 3) =
      m.f .TIER_HBM_ERR_UNCORRECTABLE (bits a 12 3) :=
    congrArg Fld.TIER_HBM_ERR_UNCORRECTABLE.of (m.reg_setReg_ne _ _ _ _ _ (by decide))
  have hl : (m.setReg .TIER_UE_ADDR (BitVec.ofNat 64 (a % 2 ^ 40))).link = m.link := rfl
  have hc : (m.setReg .TIER_UE_ADDR (BitVec.ofNat 64 (a % 2 ^ 40))).cmds = m.cmds := rfl
  have hm : (m.setReg .TIER_UE_ADDR (BitVec.ofNat 64 (a % 2 ^ 40))).mem = m.mem := rfl
  generalize m.setReg .TIER_UE_ADDR (BitVec.ofNat 64 (a % 2 ^ 40)) = q at *
  have hheld : (q.post .TIER_HBM_UE a).link.held = m.link.held ++ [.report (q.reportOf .TIER_HBM_UE a 0 {} 0)] :=
    (congrArg LinkSt.held (q.post_link .TIER_HBM_UE a 0 {} 0)).trans (by rw [hl])
  obtain ⟨l, hl'⟩ := hgrows.then_report hheld
  refine ⟨?_, ⟨l, _, hl', rfl, rfl⟩, (q.post_mem ..).trans (hm.trans hmem), (q.post_cmds ..).trans (hc.trans hcmds)⟩
  rw [Dev.bumped, q.f_post _ _ _ _ _ _ 0 (by decide), hlatch]
  exact hb

/-- Settles O39: each failure is counted by its own counter and reported behind the records held. -/
theorem meshAndScrub : Obligations.MeshAndScrub := by
  unfold Obligations.MeshAndScrub
  intro s
  refine ⟨fun stop id read => ?_, fun stack hen hst hstall => ?_⟩
  · refine Completes.of_act (g := fun d => d.meshCrc stop id (read.map Fin.val)) rfl ?_
    rw [Dev.meshCrc_eq]
    obtain ⟨hb, hcmds, -, hout, hgrows⟩ := s.dev.rateCounted_frame .ERR_MESH_CRC 0 7 0 1 (by decide) (by decide) (by decide)
    generalize (s.dev.addF .ERR_MESH_CRC 1).rateEvent 7 0 1 = m at *
    obtain ⟨⟨r, hheld, hcode, hindex⟩, hfail, hnone, htout, htf⟩ := m.meshTold_spec stop id
    generalize m.meshTold stop id = t at *
    have hread : (t.readZero (read.map Fin.val)).link = t.link ∧ (t.readZero (read.map Fin.val)).cmds = t.cmds ∧
        (t.readZero (read.map Fin.val)).regs = t.regs ∧
        (t.readZero (read.map Fin.val)).out = t.out ++ read.elim [] (fun n => [Out.readData n.val 0]) := by
      cases read with
      | none => exact ⟨rfl, rfl, rfl, (List.append_nil _).symm⟩
      | some n => exact ⟨rfl, rfl, rfl, rfl⟩
    generalize t.readZero (read.map Fin.val) = e at *
    obtain ⟨hl, hc, hr, ho⟩ := hread
    obtain ⟨l, hl'⟩ := hgrows.then_report hheld
    refine ⟨?_, ⟨l, r, (congrArg LinkSt.held hl).trans hl', hcode, hindex⟩, fun i c hid hcmd hend => ?_, fun hid => ?_, ?_⟩
    · have hef : e.settle.f .ERR_MESH_CRC = t.f .ERR_MESH_CRC := by rw [Dev.settle_f]; unfold Dev.f Dev.reg; rw [hr]
      exact hef.trans (htf.trans hb)
    · obtain ⟨k, hk, hst⟩ := hfail i c hid (by unfold Dev.cmd? at hcmd ⊢; rwa [hcmds]) hend
      exact ⟨k, by unfold Dev.cmd? at hk ⊢; rw [Dev.settle_cmds, hc]; exact hk, hst⟩
    · exact hc.trans ((hnone hid).trans hcmds)
    · refine ho.trans ((congrArg (· ++ read.elim [] (fun n => [Out.readData n.val 0])) (htout.trans hout)).trans ?_)
      cases read with
      | none => rfl
      | some n => rfl
  · dsimp only
    intro hframe hbad
    obtain ⟨hclean, hcorr, hunc⟩ := Dev.scrub_eq hen hst hframe hbad
    have hnext : SMap.get 0 (s.dev.scrubbed stack).mem.scrub stack = (SMap.get 0 s.dev.mem.scrub stack + 1) % stackLines :=
      (SMap.get_set ..).trans (if_pos rfl)
    refine ⟨?_, ?_, ?_⟩
    · refine Completes.of_engine (g := fun d => d.scrub stack .clean) rfl hstall ?_
      rw [hclean]
      exact ⟨hnext, rfl, rfl, rfl, rfl, rfl⟩
    · refine Completes.of_engine (g := fun d => d.scrub stack .corrected) rfl hstall ?_
      rw [hcorr]
      obtain ⟨hb, hcmds, hmem, -, -⟩ :=
        (s.dev.scrubbed stack).rateCounted_frame .TIER_HBM_ERR_CORRECTED stack 0 stack 1 (by decide) (by decide) (by decide)
      generalize ((s.dev.scrubbed stack).addF .TIER_HBM_ERR_CORRECTED 1 stack).rateEvent 0 stack 1 = e at *
      exact ⟨(congrArg (fun m => SMap.get 0 (MemSt.scrub m) stack) hmem).trans hnext, hb, (congrArg MemSt.hbm hmem :), hcmds⟩
    · refine Completes.of_engine (g := fun d => d.scrub stack .uncorrectable) rfl hstall ?_
      rw [hunc]
      generalize hm : ({ s.dev.scrubbed stack with mem := _ } : Dev) = m
      have hmregs : m.regs = s.dev.regs := by rw [← hm]; rfl
      have hmlink : m.link = s.dev.link := by rw [← hm]; rfl
      have hmcmds : m.cmds = s.dev.cmds := by rw [← hm]; rfl
      have hmbad : m.mem.hbmBad = s.dev.mem.hbmBad ++ [stackLine stack (SMap.get 0 s.dev.mem.scrub stack)] := by rw [← hm]
      have hmhbm : m.mem.hbm = s.dev.mem.hbm := by rw [← hm]; rfl
      obtain ⟨hb, ⟨l, r, hheld, hcode, haddr⟩, hmem, hcmds⟩ := m.hbmUe_none_spec (stackLine stack (SMap.get 0 s.dev.mem.scrub stack))
      rw [stackLine_stack _ stack.isLt] at hb
      generalize m.hbmUe none (stackLine stack (SMap.get 0 s.dev.mem.scrub stack)) = e at *
      refine ⟨?_, ?_, ⟨l, r, by rw [Dev.settle_link, hheld, hmlink], hcode, haddr⟩, (congrArg MemSt.hbm hmem).trans hmhbm, hcmds.trans hmcmds⟩
      · rw [Dev.settle_mem, hmem, hmbad]
        simp
      · have hf : m.f .TIER_HBM_ERR_UNCORRECTABLE stack = s.dev.f .TIER_HBM_ERR_UNCORRECTABLE stack := by
          unfold Dev.f Dev.reg
          rw [hmregs]
        rw [Dev.bumped, ← hf]
        exact hb

end Sys2Proof.Machine
end

section

/-! PROOFS. A router LAYER fetched after its SIEVE has ended (DescriptorFetched). -/

namespace Sys2Proof.Machine

/-- The descriptor of a LAYER with a router on queue 1, job 7: TAG 9, two inputs, and the TAG 9 its score tiles carry. -/
def routerLayer : Line :=
  0x0101#512 ||| 7#512 <<< 16 ||| 9#512 <<< 64 ||| 1#512 <<< 192 ||| 2#512 <<< 224 ||| 1#512 <<< 352 ||| 9#512 <<< 448

/-- A SIEVE of queue 1 for the score tiles of TAG 9, launched, killed and not yet gone. -/
def killedSieve : Cmd :=
  { newCmd 0 1 (0x0002#512 ||| 7#512 <<< 16 ||| 9#512 <<< 352) with launched := true, ended := true }

/-- A device in READY: queue 1 is bound to partition 0 and job 7, one descriptor waits in it, and the record of its killed
SIEVE is held for the host. -/
def endedSieve : Dev :=
  let regs : List (Fld × Nat × Nat) :=
    [(.DEV_STATUS_STAGE, 8, 0), (.PART_CTRL_VALID, 1, 0), (.PART_CTRL_JOB, 7, 0), (.CMD_SQ_CFG_SIZE_LOG2, 4, 1),
      (.CMD_SQ_CFG_PRIV, 1, 1), (.CMD_SQ_CFG_JOB, 7, 1), (.CMD_SQ_CFG_MAX_INFLIGHT, 8, 1), (.CMD_SQ_CTRL_ENABLE, 1, 1),
      (.CMD_SQ_TAIL_TAIL, 1, 1)]
  regs.foldl (fun d e => d.setF e.1 e.2.1 e.2.2)
    { State.reset.dev with
      boot := { cold := false }
      nextId := 1
      cmds := [killedSieve]
      link := { up := true, held := [.completion ⟨0, .killedPreempt, 2, 7, 0, 0, 0, 1, 0, false⟩] } }

theorem endedSieve_mayFetch : endedSieve.mayFetch 1 = true := by decide +kernel

/-- The descriptor passes R51's checks: a SIEVE of its TAG, unpaired and before it, is still listed. -/
theorem endedSieve_descOk :
    ((endedSieve.setF .CMD_SQ_HEAD_HEAD ((endedSieve.f .CMD_SQ_HEAD_HEAD 1 + 1) % endedSieve.sqSize 1) 1).accept 1 routerLayer).descOk 1
      (newCmd endedSieve.nextId 1 routerLayer) = true := by decide +kernel

/-- The fetched LAYER fails at once with the status its SIEVE ended with. -/
theorem endedSieve_fetch_causes :
    ((endedSieve.fetch 1 routerLayer).cmds.filter (fun k => k.id == endedSieve.nextId)).map Cmd.causes = [[.killedPreempt]] := by
  decide +kernel

/-- What the statement would say of the causes of a fetched command. -/
theorem fetchedWithoutCause_of_descriptorFetched (h : Obligations.DescriptorFetched) (d : Dev) (q : Fin 64) (desc : Line)
    (hmay : d.mayFetch q = true)
    (hok : ((d.setF .CMD_SQ_HEAD_HEAD ((d.f .CMD_SQ_HEAD_HEAD q + 1) % d.sqSize q) q).accept q desc).descOk q
      (newCmd d.nextId q desc) = true) :
    [] ∈ ((d.fetch q desc).cmds.filter (fun k => k.id == d.nextId)).map Cmd.causes := by
  obtain ⟨t, hexec, -, -, -, -, -, -, -, -, hgood, -⟩ := h ⟨d, []⟩ q desc hmay
  obtain ⟨-, k, hk, hid, -, -, -, -, hcauses, -⟩ := hgood hok
  obtain rfl : ⟨(d.fetch q desc).settle, []⟩ = t := Host.Outcome.next.inj hexec
  exact List.mem_map.mpr ⟨k, List.mem_filter.mpr ⟨hk, beq_iff_eq.mpr hid⟩, hcauses⟩

/-- Refutes O40: a router LAYER fetched while the completion record of its ended SIEVE is still held passes every check and
has a cause of failure from the start. -/
theorem not_descriptorFetched : ¬ Obligations.DescriptorFetched := fun h => by
  have hnone := fetchedWithoutCause_of_descriptorFetched h endedSieve 1 routerLayer endedSieve_mayFetch endedSieve_descOk
  rw [show ((1 : Fin 64) : Nat) = 1 from rfl, endedSieve_fetch_causes] at hnone
  exact absurd hnone (by decide)

end Sys2Proof.Machine
end

section

/-! PROOFS. Launch of an eligible command (CommandLaunches; R47, R57). -/

namespace Sys2Proof.Machine

/-- With no superseded version there is none to release. -/
theorem Dev.releaseAll_none {d : Dev} (h : d.mem.superseded = []) : d.releaseAll = d := by
  rw [Dev.releaseAll, h, List.filter_nil, List.foldl_nil]

/-- A command with the count since which it is eligible. -/
def Cmd.sinceCount (c : Cmd) (n : Nat) : Cmd := { c with eligible := some (c.eligible.getD n) }

/-- The eligible command is noted with the count at which it became so. -/
def Dev.markEligible (d : Dev) (c : Cmd) : Dev :=
  d.updCmd c.id (fun k => { k with eligible := some (c.eligible.getD d.count) })

/-- What COMMAND_LAUNCH does with the queue's next command when nothing else is due. -/
theorem Dev.launchRow_next {d : Dev} {q : Nat} {c : Cmd} (hnext : d.nextLaunch q = some c) (hc : d.cmd? c.id = some c)
    (hrun : d.ring.running = true) (hstall : d.stalled = false) (hdue : d.settleDue = d) (hsup : d.mem.superseded = []) :
    d.launchRow q =
      if !d.eligibleNow c then d
      else if (c.gated && d.flag .SV_GATE_AWAITING c.part) || (d.markEligible c).launchDue (c.sinceCount d.count) || !(d.markEligible c).roomFor (c.sinceCount d.count) then
        d.markEligible c
      else if (d.markEligible c).launchHeld (c.sinceCount d.count) then
        (d.markEligible c).updCmd c.id (fun k => { k with heldAt := some (k.heldAt.getD d.count) })
      else (d.markEligible c).launch (c.sinceCount d.count) := by
  unfold Dev.launchRow
  rw [hnext]
  dsimp only
  rw [hrun, hstall, hdue, Dev.releaseAll_none hsup, hc]
  rfl

/-- A command of the given number, once updated, is found updated. -/
theorem Dev.cmd?_updCmd_some {d : Dev} {id : Nat} {k : Cmd} (g : Cmd → Cmd) (hk : d.cmd? id = some k)
    (hg : ∀ c, (g c).id = c.id) : (d.updCmd id g).cmd? id = some (g k) := by
  have hid : (k.id == id) = true := List.find?_some (p := fun c : Cmd => c.id == id) hk
  rw [d.cmd?_updCmd id id g hg, hk, Option.map_some, if_pos hid]

/-- The commands from LOAD_PROGRAM to STEP_GRANT need no engine's room. -/
theorem Dev.roomFor_control (d : Dev) {c : Cmd} (h : 0x0A ≤ c.opcode) : d.roomFor c = true := by
  unfold Dev.roomFor
  split
  iterate 6 omega
  rfl

/-- Marking a command eligible leaves no other command less or more due to stop a launch. -/
theorem Dev.launchDue_markEligible (d : Dev) (c : Cmd) (n : Nat) :
    (d.markEligible c).launchDue (c.sinceCount n) = d.launchDue c := by
  unfold Dev.launchDue Dev.markEligible Dev.updCmd mapIf
  rw [List.any_map]
  refine congrArg (List.any d.cmds) (funext fun k => ?_)
  dsimp only [Function.comp]
  split <;> rfl

/-- A command from LOAD_PROGRAM to STEP_GRANT with no handles claims nothing at its launch. -/
theorem Dev.outputsOf_control (d : Dev) {c : Cmd} (h : 0x0A ≤ c.opcode) (hno : c.noHandles = true) : d.outputsOf c = [] := by
  simp only [Cmd.noHandles, Bool.and_eq_true, beq_iff_eq] at hno
  obtain ⟨⟨-, ho0⟩, ho1⟩ := hno
  have h1 : c.opcode ≠ 1 := by omega
  have h9 : c.opcode ≠ 9 := by omega
  simp [Dev.outputsOf, Dev.listedOf, Dev.targetsOf, ho0, ho1, h1, h9]

/-- Nor has it an input. -/
theorem Cmd.inputHandles_control {c : Cmd} (h : 0x0A ≤ c.opcode) (hno : c.noHandles = true) : c.inputHandles = [] := by
  simp only [Cmd.noHandles, Bool.and_eq_true, beq_iff_eq] at hno
  obtain ⟨⟨⟨⟨hi0, hi1⟩, hi2⟩, -⟩, -⟩ := hno
  have h4 : c.opcode ≠ 4 := by omega
  simp [Cmd.inputHandles, hi0, hi1, hi2, h4]

/-- Nothing holds its launch for a buffer. -/
theorem Dev.launchHeld_control (d : Dev) {c : Cmd} (h : 0x0A ≤ c.opcode) (hno : c.noHandles = true) : d.launchHeld c = false := by
  have h8 : c.opcode ≠ 8 := by omega
  simp [Dev.launchHeld, Dev.placeHeld, d.outputsOf_control h hno, h8]

/-- Its launch starts no engine. -/
theorem startWork_control {c : Cmd} (h : 0x0A ≤ c.opcode) : startWork c = pure () := by
  unfold startWork
  split
  iterate 8 omega
  rfl

/-- A command with no input and no claim names no version that has died. -/
theorem Dev.refuseDead_free {d : Dev} {id : Nat} {c : Cmd} (hc : d.cmd? id = some c) (hin : c.inputs = []) (hcl : c.claims = []) :
    d.refuseDead id = d := by
  simp [Dev.refuseDead, hc, hin, hcl]

/-- The launch of a command from LOAD_PROGRAM to STEP_GRANT counts its wait and marks it launched. -/
theorem Dev.launch_control {d : Dev} {c k : Cmd} (h : 0x0A ≤ c.opcode) (hno : c.noHandles = true) (hk : d.cmd? c.id = some k)
    (hin : k.inputs = []) (hcl : k.claims = []) :
    d.launch c = (d.addF .CMD_ACCT_WAIT_WAIT (d.count - c.eligible.getD d.count) c.queue).updCmd c.id (fun k =>
      { k with launched := true, launchAt := d.count, step := d.f .RING_STEP_STEP k.part, heldAt := none }) := by
  have hcount : (d.addF .CMD_ACCT_WAIT_WAIT (d.count - c.eligible.getD d.count) c.queue).count = d.count :=
    d.count_addF _ _ _ _ (by decide)
  have hstep : ∀ p, (d.addF .CMD_ACCT_WAIT_WAIT (d.count - c.eligible.getD d.count) c.queue).f .RING_STEP_STEP p =
      d.f .RING_STEP_STEP p := fun p => d.f_addF_ne_reg _ _ _ _ _ _ _ (by decide)
  unfold Dev.launch
  rw [d.outputsOf_control h hno, c.inputHandles_control h hno, startWork_control h]
  simp only [List.foldl_nil, hcount, hstep]
  have hcmd := Dev.cmd?_updCmd_some (d := d.addF .CMD_ACCT_WAIT_WAIT (d.count - c.eligible.getD d.count) c.queue) (id := c.id)
    (fun k => { k with launched := true, launchAt := d.count, step := d.f .RING_STEP_STEP k.part, heldAt := none }) hk (fun _ => rfl)
  rw [Dev.refuseDead_free hcmd hin hcl]
  split <;> rfl

/-- The command next to launch has not launched. -/
theorem Dev.nextLaunch_unlaunched {d : Dev} {q : Nat} {c : Cmd} (h : d.nextLaunch q = some c) : c.launched = false := by
  have := List.find?_some h
  simp only [Bool.and_eq_true, Bool.not_eq_true'] at this
  exact this.1.2

/-- Settles O41, by the one equation of the queue's next command when nothing else is due. -/
theorem commandLaunches : Obligations.CommandLaunches := by
  unfold Obligations.CommandLaunches
  intro s q c hnext hc hrun hstall hdue hsup
  have hrow := Dev.launchRow_next hnext hc hrun hstall hdue hsup
  have hmark : (s.dev.markEligible c).cmd? c.id = some (c.sinceCount s.dev.count) :=
    Dev.cmd?_updCmd_some _ hc (fun _ => rfl)
  refine ⟨fun hel hlo hhi hno hin hcl hldue => ?_, fun hel => ?_, fun hel hg haw => ?_⟩
  · have hcauses : c.causes = [] := by
      simp only [Dev.eligibleNow, Bool.and_eq_true, List.isEmpty_iff] at hel
      exact hel.1.1.1
    have hgate : c.gated = false := by
      have : ¬ c.opcode ≤ 4 := by omega
      simp [Cmd.gated, this]
    refine Completes.of_engine (g := fun d => d.launchRow q) rfl hstall ?_
    rw [hrow, hel, hgate, s.dev.launchDue_markEligible, hldue, (s.dev.markEligible c).roomFor_control (c := c.sinceCount s.dev.count) hlo,
      (s.dev.markEligible c).launchHeld_control (c := c.sinceCount s.dev.count) hlo hno]
    have hwait := Dev.bumped_addF s.dev .CMD_ACCT_WAIT_WAIT (s.dev.count - c.eligible.getD s.dev.count) c.queue 0 (by decide)
    have hregs := (Dev.regsBut.refl s.dev [Reg.code .CMD_ACCT_WAIT c.queue 0]).addF (f := .CMD_ACCT_WAIT_WAIT)
      (s.dev.count - c.eligible.getD s.dev.count) (i := c.queue) (j := 0) List.mem_cons_self
    have hlaunch := Dev.launch_control (d := s.dev.markEligible c) (c := c.sinceCount s.dev.count)
      hlo hno hmark hin hcl
    rw [Bool.false_and, Bool.false_or, Bool.false_or, Bool.not_true, if_neg (by decide), if_neg (by decide), if_neg (by decide), hlaunch]
    refine ⟨⟨_, Dev.cmd?_updCmd_some _ hmark (fun _ => rfl), rfl, rfl, rfl, hcauses, hin, hcl⟩, ?_, ?_, rfl, rfl⟩
    · exact hwait
    · exact hregs.congr rfl
  · refine Completes.of_engine (g := fun d => d.launchRow q) rfl hstall ?_
    rw [hrow, hel]
    exact s.dev.same_settle
  · refine Completes.of_engine (g := fun d => d.launchRow q) rfl hstall ?_
    rw [hrow, hel, hg, haw]
    exact ⟨⟨_, hmark, (Dev.nextLaunch_unlaunched hnext :), rfl⟩, rfl⟩

end Sys2Proof.Machine
end

section

/-! PROOFS. Object table entries read back, and what the tables' commit changes (R203, R207). -/

namespace Sys2Proof.Machine

/-! ## Little-endian numbers -/

theorem leNat_append (a b : List Byte) : leNat (a ++ b) = leNat a + 256 ^ a.length * leNat b := by
  induction a with
  | nil => simp [leNat]
  | cons x a ih =>
    rw [List.cons_append, leNat, leNat, ih, List.length_cons, Nat.pow_succ]
    ring

@[simp] theorem leBytes_length (k n : Nat) : (leBytes k n).length = k := by
  induction k generalizing n with
  | zero => rfl
  | succ k ih => rw [leBytes, List.length_cons, ih]

theorem leNat_leBytes {k n : Nat} (h : n < 256 ^ k) : leNat (leBytes k n) = n := by
  induction k generalizing n with
  | zero =>
    obtain rfl : n = 0 := by simpa using h
    rfl
  | succ k ih =>
    have hd : n / 256 < 256 ^ k := Nat.div_lt_of_lt_mul (by rwa [Nat.pow_succ, Nat.mul_comm] at h)
    rw [leBytes, leNat, ih hd, BitVec.toNat_ofNat]
    exact Nat.mod_add_div n 256

/-! ## Entries (Table 10.2) -/

/-- The fields of an entry fit their places, and its members are those of its stripe. -/
structure ObjEntry.fits (e : ObjEntry) : Prop where
  tier : e.tier < 4
  versions : e.versionsM1 < 4
  cur : e.cur < 4
  array : e.array < 256
  width : e.widthM1 < 256
  size : e.size64 < 2 ^ 32
  base : e.base < 2 ^ 48
  gen : e.gen < 2 ^ 32
  members : ∀ m ∈ e.members, m < 256
  count : e.members.length = if e.tier = 2 then min (e.widthM1 + 1) 8 else 0

theorem ObjEntry.fits_ofBytes {bs : List Byte} (h : 28 ≤ bs.length) : (ObjEntry.ofBytes bs).fits := by
  have hbits : ∀ n b lo w, field n b lo w < 2 ^ w := fun n b lo w => Nat.mod_lt _ (Nat.two_pow_pos w)
  refine ⟨hbits _ 0 0 2, hbits _ 0 2 2, hbits _ 0 4 2, hbits _ 1 0 8, hbits _ 2 0 8, hbits _ 4 0 32, hbits _ 8 0 48, hbits _ 16 0 32, ?_, ?_⟩
  · unfold ObjEntry.ofBytes
    intro m hm
    dsimp only at hm
    split at hm
    · obtain ⟨b, -, rfl⟩ := List.mem_map.mp hm
      exact b.isLt
    · cases hm
  · unfold ObjEntry.ofBytes
    dsimp only
    split
    · simp [slice]
      omega
    · rfl

theorem ObjEntry.bytes_length (e : ObjEntry) : e.bytes.length = 32 := by
  unfold ObjEntry.bytes
  split <;> simp

/-- The number an entry's first 20 bytes spell. -/
theorem ObjEntry.leNat_bytes {e : ObjEntry} (h : e.fits) : ∃ m, leNat e.bytes =
    (e.tier + e.versionsM1 * 4 + e.cur * 16 + b2n e.hasCur * 64) + 2 ^ 8 * e.array + 2 ^ 16 * e.widthM1 + 2 ^ 32 * e.size64 +
      2 ^ 64 * e.base + 2 ^ 128 * e.gen + 2 ^ 160 * m := by
  obtain ⟨ht, hv, hc, ha, hw, hs, hb, hg, -, -⟩ := h
  have hcur : b2n e.hasCur ≤ 1 := by cases e.hasCur <;> decide
  unfold ObjEntry.bytes
  generalize hM : (if e.tier = 2 then _ else _ : List Byte) ++ List.replicate 4 0 = M
  refine ⟨leNat M, ?_⟩
  rw [List.append_assoc _ _ (List.replicate 4 0), hM]
  simp only [leNat_append, leBytes_length, List.length_append, List.length_cons, List.length_nil]
  rw [leNat_leBytes (by omega), leNat_leBytes (by omega), leNat_leBytes (by omega), leNat_leBytes (by omega), leNat_leBytes (by omega),
    leNat_leBytes (by omega)]
  have hzero : (0 : Byte).toNat = 0 := rfl
  simp only [leNat, hzero]
  ring

/-- The members that an entry of a slab placement spells. -/
theorem ObjEntry.slice_bytes {e : ObjEntry} (h : e.fits) (h2 : e.tier = 2) :
    (slice e.bytes 20 (min (e.widthM1 + 1) 8)).map BitVec.toNat = e.members := by
  have hlen : e.members.length = min (e.widthM1 + 1) 8 := by simpa [h2] using h.count
  have hdrop : e.bytes.drop 20 = (List.range 8).map (fun j => BitVec.ofNat 8 (e.members.getD j 255)) ++ List.replicate 4 0 := by
    unfold ObjEntry.bytes
    rw [if_pos h2, List.append_assoc _ _ (List.replicate 4 0), List.drop_append_of_le_length (by simp)]
    simp [leBytes]
  rw [slice, hdrop, ← hlen]
  refine List.ext_getElem (by simp; omega) (fun i hi hi' => ?_)
  have h8 : i < 8 := by omega
  have hm := h.members _ (List.getElem_mem hi')
  rw [List.getElem_map, List.getElem_take, List.getElem_append_left (by simpa using h8), List.getElem_map, List.getElem_range,
    List.getD_eq_getElem _ _ hi', BitVec.toNat_ofNat, Nat.mod_eq_of_lt hm]

/-- An entry read back from its bytes is the entry. -/
theorem ObjEntry.ofBytes_bytes {e : ObjEntry} (h : e.fits) : ObjEntry.ofBytes e.bytes = e := by
  obtain ⟨m, hn⟩ := ObjEntry.leNat_bytes h
  have hcur : b2n e.hasCur ≤ 1 := by cases e.hasCur <;> decide
  obtain ⟨ht, hv, hc, ha, hw, hs, hb, hg, -, hcount⟩ := id h
  have htier : field (leNat e.bytes) 0 0 2 = e.tier := by unfold field bits; rw [hn]; omega
  have hwidth : field (leNat e.bytes) 2 0 8 = e.widthM1 := by unfold field bits; rw [hn]; omega
  have hbit : field (leNat e.bytes) 0 6 1 = b2n e.hasCur := by unfold field bits; rw [hn]; omega
  unfold ObjEntry.ofBytes
  dsimp only
  rw [htier, hwidth, hbit]
  have hmembers : (if e.tier = 2 then (slice e.bytes 20 (min (e.widthM1 + 1) 8)).map BitVec.toNat else []) = e.members := by
    split
    · exact ObjEntry.slice_bytes h ‹_›
    · rw [if_neg ‹_›] at hcount
      exact (List.length_eq_zero_iff.mp hcount).symm
  rw [hmembers]
  have h1 : field (leNat e.bytes) 0 2 2 = e.versionsM1 := by unfold field bits; rw [hn]; omega
  have h2 : field (leNat e.bytes) 0 4 2 = e.cur := by unfold field bits; rw [hn]; omega
  have h3 : field (leNat e.bytes) 1 0 8 = e.array := by unfold field bits; rw [hn]; omega
  have h4 : field (leNat e.bytes) 4 0 32 = e.size64 := by unfold field bits; rw [hn]; omega
  have h5 : field (leNat e.bytes) 8 0 48 = e.base := by unfold field bits; rw [hn]; omega
  have h6 : field (leNat e.bytes) 16 0 32 = e.gen := by unfold field bits; rw [hn]; omega
  have h7 : decide (b2n e.hasCur = 1) = e.hasCur := by cases e.hasCur <;> rfl
  rw [h1, h2, h3, h4, h5, h6, h7]

/-- An entry that the table holds fits its places. -/
theorem Dev.entry_fits {d : Dev} {p obj : Nat} {e : ObjEntry} (h : d.entry p obj = .ok (some e)) : e.fits := by
  unfold Dev.entry at h
  split at h
  · cases h
  · split at h
    · cases h
    · rename_i bs hread
      cases h
      refine ObjEntry.fits_ofBytes ?_
      unfold Dev.physRead at hread
      split at hread
      · cases hread
      · split at hread <;> cases hread
        simp [readBytes]

/-- A write of memory keeps the registers and every readable line readable. -/
theorem Dev.physWrite_spec {d m : Dev} {a : Nat} {bs : List Byte} (h : d.physWrite a bs = .ok m) :
    m = { d with mem := m.mem } ∧ m.mem.hbmBad ⊆ d.mem.hbmBad ∧
    m.mem = { d.mem with hbm := writeBytes d.mem.hbm a bs, hbmBad := m.mem.hbmBad } := by
  unfold Dev.physWrite at h
  split at h
  · cases h
  · split at h <;> cases h
    exact ⟨rfl, fun _ hl => List.mem_of_mem_filter hl, rfl⟩

/-- What a read of physical memory answers holds no uncorrectable error. -/
theorem Dev.physRead_clean {d : Dev} {a n : Nat} {bs : List Byte} (h : d.physRead a n = .ok bs) :
    ∀ l ∈ d.mem.hbmBad, overlaps l 64 a n = false := by
  unfold Dev.physRead at h
  split at h
  · cases h
  · split at h
    · cases h
    · rename_i hnone
      exact fun l hl => by simpa using List.find?_eq_none.mp hnone l hl

/-- An entry once readable is read back as it was written. -/
theorem Dev.entry_setEntry {d m : Dev} {p obj : Nat} {e0 e : ObjEntry} (hread : d.entry p obj = .ok (some e0)) (he : e.fits)
    (hset : d.setEntry p obj e = .ok m) : m.entry p obj = .ok (some e) := by
  obtain ⟨hm, hbad, -⟩ := Dev.physWrite_spec hset
  have hsize : m.tableSize p = d.tableSize p := by rw [hm]; rfl
  have haddr : m.entryAddr p obj = d.entryAddr p obj := by rw [hm]; rfl
  unfold Dev.entry at hread ⊢
  rw [hsize, haddr]
  split at hread
  · cases hread
  · rename_i hlt
    rw [if_neg hlt]
    split at hread
    · cases hread
    · rename_i hphys
      have hclean : m.mem.hbmBad.all (fun l => !overlaps l 64 (d.entryAddr p obj) e.bytes.length) = true := by
        rw [e.bytes_length]
        exact List.all_eq_true.mpr fun l hl => by rw [Dev.physRead_clean hphys l (hbad hl)]; rfl
      have hback := Dev.physRead_physWrite d m _ _ hset hclean
      rw [e.bytes_length] at hback
      rw [hback]
      exact congrArg (fun e => Except.ok (some e)) (ObjEntry.ofBytes_bytes he)

/-! ## What a tables' commit changes -/

/-- Only TIER_USE and memory change, and neither the slabs nor the translation cache. -/
def Dev.tablesOnly (d e : Dev) : Prop :=
  e = { d with regs := e.regs, mem := e.mem } ∧ e.mem.slab = d.mem.slab ∧ e.mem.xu = d.mem.xu ∧
  ∀ r i j, r ≠ .TIER_USE → e.reg r i j = d.reg r i j

theorem Dev.tablesOnly.of_mem {d e : Dev} (h : e = { d with mem := e.mem }) (hslab : e.mem.slab = d.mem.slab)
    (hxu : e.mem.xu = d.mem.xu) : d.tablesOnly e := by
  rw [h] at hslab hxu ⊢
  exact ⟨rfl, hslab, hxu, fun _ _ _ _ => rfl⟩

theorem Dev.tablesOnly.refl (d : Dev) : d.tablesOnly d := .of_mem rfl rfl rfl

theorem Dev.tablesOnly.trans {d m e : Dev} (h : d.tablesOnly m) (h' : m.tablesOnly e) : d.tablesOnly e := by
  obtain ⟨hrest, hslab, hxu, hreg⟩ := h
  obtain ⟨hrest', hslab', hxu', hreg'⟩ := h'
  exact ⟨by rw [hrest', hrest], hslab'.trans hslab, hxu'.trans hxu, fun r i j hr => (hreg' r i j hr).trans (hreg r i j hr)⟩

theorem Dev.setEntry_tablesOnly {d m : Dev} {p obj : Nat} {e : ObjEntry} (h : d.setEntry p obj e = .ok m) : d.tablesOnly m := by
  obtain ⟨hrest, -, hmem⟩ := Dev.physWrite_spec h
  exact .of_mem hrest (by rw [hmem]) (by rw [hmem])

theorem Dev.supersede_tablesOnly (d : Dev) (v : Version) : d.tablesOnly (d.supersede v) := .of_mem rfl rfl rfl

theorem Dev.tablesOnly.setF {d m : Dev} (h : d.tablesOnly m) (f : Fld) (n i j : Nat) (hf : f.reg = .TIER_USE) :
    d.tablesOnly (m.setF f n i j) := by
  obtain ⟨hrest, hslab, hxu, hreg⟩ := h
  exact ⟨by rw [hrest]; rfl, hslab, hxu, fun r i' j' hr =>
    (m.reg_setF_ne f r n i j i' j' (fun hc => hr ((Reg.code_reg hc).trans hf))).trans (hreg r i' j' hr)⟩

theorem Dev.settleCharges_tablesOnly (d : Dev) (p : Nat) : d.tablesOnly (d.settleCharges p) :=
  Dev.tablesOnly.setF (Dev.tablesOnly.setF (.of_mem rfl rfl rfl) _ _ _ _ rfl) _ _ _ _ rfl

theorem Dev.charge_tablesOnly (d : Dev) (p obj : Nat) (e : ObjEntry) : d.tablesOnly (d.charge p obj e) := by
  refine Dev.tablesOnly.trans ?_ (Dev.settleCharges_tablesOnly _ p)
  exact .of_mem rfl rfl rfl

theorem Dev.commitClaim_tablesOnly {d m : Dev} {k : Claim} (h : d.commitClaim k = .ok m) : d.tablesOnly m := by
  unfold Dev.commitClaim at h
  split at h
  · cases h
  · cases h; exact .refl d
  · split at h
    · cases h; exact .refl d
    · dsimp only at h
      split at h
      · cases h
      · rename_i hset
        cases h
        refine (Dev.setEntry_tablesOnly hset).trans ?_
        split
        · exact Dev.supersede_tablesOnly _ _
        · exact .refl _

theorem Dev.commitClaims_tablesOnly (ks : List Claim) {d m : Dev} (h : d.commitClaims ks = .ok m) : d.tablesOnly m := by
  induction ks generalizing d with
  | nil => cases h; exact .refl _
  | cons k ks ih =>
    unfold Dev.commitClaims at h
    split at h
    · cases h
    · rename_i hk
      exact (Dev.commitClaim_tablesOnly hk).trans (ih h)

theorem Dev.commitPlace_tablesOnly {d m : Dev} {c : Cmd} {obj : Nat} {x : ObjEntry} (h : d.commitPlace c obj x = .ok m) :
    d.tablesOnly m := by
  unfold Dev.commitPlace at h
  split at h
  · cases h
  · cases h; exact .refl d
  · dsimp only at h
    split at h
    · cases h
    · rename_i hset
      cases h
      refine ((Dev.setEntry_tablesOnly hset).trans ?_).trans (Dev.charge_tablesOnly _ _ _ _)
      split
      · exact Dev.supersede_tablesOnly _ _
      · exact .refl _

theorem Dev.commitPlaces_tablesOnly (c : Cmd) (es : List (Nat × ObjEntry)) {d m : Dev} (h : d.commitPlaces c es = .ok m) :
    d.tablesOnly m := by
  induction es generalizing d with
  | nil => cases h; exact .refl _
  | cons x es ih =>
    unfold Dev.commitPlaces at h
    split at h
    · cases h
    · rename_i hx
      exact (Dev.commitPlace_tablesOnly hx).trans (ih h)

/-- A tables' commit reaches the object tables, the charges and the superseded versions alone. -/
theorem Dev.commitTables_tablesOnly {d m : Dev} {c : Cmd} (h : d.commitTables c = .ok m) : d.tablesOnly m := by
  unfold Dev.commitTables at h
  split at h
  · cases h
  · rename_i hc
    exact (Dev.commitClaims_tablesOnly _ hc).trans (Dev.commitPlaces_tablesOnly c _ h)

theorem Dev.commitClaim_places {d m : Dev} {k : Claim} (h : d.commitClaim k = .ok m) : m.mem.places = d.mem.places := by
  unfold Dev.commitClaim at h
  split at h
  · cases h
  · cases h; rfl
  · split at h
    · cases h; rfl
    · dsimp only at h
      split at h
      · cases h
      · rename_i hset
        cases h
        obtain ⟨-, -, hmem⟩ := Dev.physWrite_spec hset
        refine Eq.trans ?_ (congrArg MemSt.places hmem :)
        split <;> rfl

/-- A command with one claim and no placement commits its claim. -/
theorem Dev.commitTables_claim {d m : Dev} {c : Cmd} {k : Claim} (hk : c.claims = [k]) (hp : d.placesOf c.id = [])
    (h : d.commitTables c = .ok m) : d.commitClaim k = .ok m := by
  unfold Dev.commitTables at h
  rw [hk] at h
  unfold Dev.commitClaims at h
  split at h
  · cases h
  · rename_i m' hm'
    split at hm'
    · cases hm'
    · rename_i m'' hclaim
      cases hm'
      have hplaces : m'.placesOf c.id = [] := by
        rw [Dev.placesOf, Dev.commitClaim_places hclaim]
        exact hp
      rw [hplaces] at h
      cases h
      exact hclaim

theorem ObjEntry.fits.taken {e : ObjEntry} (h : e.fits) {b : Nat} (hb : b < 4) (n : Nat) :
    { e with cur := b, hasCur := true, gen := n % 2 ^ 32 }.fits :=
  ⟨h.tier, h.versions, hb, h.array, h.width, h.size, h.base, Nat.mod_lt _ (Nat.two_pow_pos 32), h.members, h.count⟩

/-- A claim that takes effect: the entry takes the claimed buffer, and what was current is superseded (R207). -/
theorem Dev.commitClaim_takes {d m : Dev} {k : Claim} {e0 : ObjEntry} (hread : d.entry k.ver.part k.ver.obj = .ok (some e0))
    (hbuf : k.ver.buf < 4) (hsame : e0.same k.ver.entry = true) (h : d.commitClaim k = .ok m) :
    m.entry k.ver.part k.ver.obj = .ok (some { e0 with cur := k.ver.buf, hasCur := true, gen := (e0.gen + 1) % 2 ^ 32 }) ∧
    m.mem.superseded = d.mem.superseded ++ (if e0.hasCur then [⟨⟨k.ver.part, k.ver.obj, e0, e0.cur⟩⟩] else []) := by
  unfold Dev.commitClaim at h
  rw [hread] at h
  dsimp only at h
  rw [hsame] at h
  rw [if_neg (by decide)] at h
  split at h
  · cases h
  · rename_i m' hset
    cases h
    obtain ⟨-, -, hmem⟩ := Dev.physWrite_spec hset
    have hsup : m'.mem.superseded = d.mem.superseded := by rw [hmem]
    have hentry := Dev.entry_setEntry hread ((Dev.entry_fits hread).taken hbuf _) hset
    split
    · exact ⟨hentry, congrArg (· ++ _) hsup⟩
    · exact ⟨hentry, by rw [hsup, List.append_nil]⟩

end Sys2Proof.Machine
end

section

/-! PROOFS. The ends of a command: commit, kill, and the release of versions (CommitKillRelease; R54, R58 to R60, R209). -/

namespace Sys2Proof.Machine

/-! ## What an ending command's engine leaves -/

/-- The registers that the count and the object tables are read from. -/
@[simp] def ledgerRegs : List Reg := [.RING_COUNT, .TIER_OBJTAB]

/-- Memory but for planned placements and cached translations, what the host is sent, the commands, the count and the place of
the object tables. -/
structure Ledger where
  mem : MemSt
  link : LinkSt
  cmds : List Cmd
  reg : Reg → Nat → Nat → BitVec 64

def Dev.ledger (d : Dev) : Ledger :=
  ⟨{ d.mem with places := [], xu := [] }, d.link, d.cmds, fun r i j => if r ∈ ledgerRegs then d.reg r i j else 0⟩

/-- The translation, rank and window table caches. -/
def Dev.caches (d : Dev) : List XuPage × List (Nat × Nat × Nat) × SMap Nat := (d.mem.xu, d.fab.ranks, d.win.table)

section
variable {d e : Dev}

theorem Dev.ledger_congr (hmem : { e.mem with places := [], xu := [] } = { d.mem with places := [], xu := [] }) (hlink : e.link = d.link)
    (hcmds : e.cmds = d.cmds) (hregs : e.regs = d.regs) : e.ledger = d.ledger := by
  unfold Dev.ledger Dev.reg
  rw [hmem, hlink, hcmds, hregs]

theorem Dev.ledger_reg (h : e.ledger = d.ledger) {r : Reg} (hr : r ∈ ledgerRegs) (i j : Nat) : e.reg r i j = d.reg r i j := by
  simpa only [Dev.ledger, if_pos hr] using congrFun (congrFun (congrFun (congrArg Ledger.reg h) r) i) j

theorem Dev.ledger_count (h : e.ledger = d.ledger) : e.count = d.count :=
  congrArg BitVec.toNat (Dev.ledger_reg h (by simp) 0 0)

theorem Dev.ledger_mem (h : e.ledger = d.ledger) : e.mem = { d.mem with places := e.mem.places, xu := e.mem.xu } := by
  have hmem : { e.mem with places := [], xu := [] } = { d.mem with places := [], xu := [] } := congrArg Ledger.mem h
  exact congrArg (fun m => { m with places := e.mem.places, xu := e.mem.xu }) hmem

/-- The object tables are where they were and hold what they held. -/
theorem Dev.ledger_entry (h : e.ledger = d.ledger) (p obj : Nat) : e.entry p obj = d.entry p obj := by
  have hf : ∀ f : Fld, f.reg = .TIER_OBJTAB → e.f f p = d.f f p := fun f hf => by
    rw [Dev.f, Dev.f, hf, Dev.ledger_reg h (by simp)]
  have hread : ∀ a n, e.physRead a n = d.physRead a n := fun a n => by
    unfold Dev.physRead Dev.physCheck
    rw [Dev.ledger_mem h]
  unfold Dev.entry Dev.tableSize Dev.entryAddr
  rw [hf _ rfl, hf _ rfl, hread]

theorem Dev.foldl_ledger {α : Type} {g : Dev → α → Dev} (hg : ∀ (d : Dev) (a : α), (g d a).ledger = d.ledger) (l : List α) (d : Dev) :
    (l.foldl g d).ledger = d.ledger := by
  induction l generalizing d with
  | nil => rfl
  | cons a l ih => rw [List.foldl_cons, ih, hg]

theorem Dev.foldl_caches {α : Type} {g : Dev → α → Dev} (hg : ∀ (d : Dev) (a : α), (g d a).caches = d.caches) (l : List α) (d : Dev) :
    (l.foldl g d).caches = d.caches := by
  induction l generalizing d with
  | nil => rfl
  | cons a l ih => rw [List.foldl_cons, ih, hg]

end

section
variable (d : Dev)

@[simp] theorem Dev.setReg_ledger (r : Reg) (v : BitVec 64) (i j : Nat) (h : r ∉ ledgerRegs) : (d.setReg r v i j).ledger = d.ledger := by
  have hreg : (d.setReg r v i j).ledger.reg = d.ledger.reg := by
    funext q a b
    show (if q ∈ ledgerRegs then (d.setReg r v i j).reg q a b else 0) = if q ∈ ledgerRegs then d.reg q a b else 0
    split
    · exact d.reg_setReg_ne v i j a b (fun hq => h (hq ▸ ‹q ∈ ledgerRegs›))
    · rfl
  exact congrArg (Ledger.mk { d.mem with places := [], xu := [] } d.link d.cmds) hreg

@[simp] theorem Dev.setF_ledger (f : Fld) (n i j : Nat) (h : f.reg ∉ ledgerRegs) : (d.setF f n i j).ledger = d.ledger :=
  d.setReg_ledger f.reg _ i j h

@[simp] theorem Dev.addF_ledger (f : Fld) (n i j : Nat) (h : f.reg ∉ ledgerRegs) : (d.addF f n i j).ledger = d.ledger :=
  d.setF_ledger f _ i j h

@[simp] theorem Dev.subF_ledger (f : Fld) (n i j : Nat) (h : f.reg ∉ ledgerRegs) : (d.subF f n i j).ledger = d.ledger :=
  d.setF_ledger f _ i j h

@[simp] theorem Dev.updXe_ledger (g : XeSt → XeSt) : (d.updXe g).ledger = d.ledger := Dev.ledger_congr rfl rfl rfl rfl
@[simp] theorem Dev.updColl_ledger (g : CollSt → CollSt) : (d.updColl g).ledger = d.ledger := Dev.ledger_congr rfl rfl rfl rfl
@[simp] theorem Dev.updFab_ledger (g : FabSt → FabSt) : (d.updFab g).ledger = d.ledger := Dev.ledger_congr rfl rfl rfl rfl

@[simp] theorem Dev.lndReturn_ledger (b : LndBuf) : (d.lndReturn b).ledger = d.ledger := by
  unfold Dev.lndReturn
  dsimp only
  split
  · rw [Dev.addF_ledger _ _ _ _ _ (by decide)]
    exact (Dev.ledger_congr rfl rfl rfl rfl).trans (d.subF_ledger .TIER_LND_USE_USED 1 b.part b.pool (by decide))
  · rw [Dev.setF_ledger _ _ _ _ _ (by decide)]
    exact (Dev.ledger_congr rfl rfl rfl rfl).trans (d.subF_ledger .TIER_LND_USE_USED 1 b.part b.pool (by decide))

@[simp] theorem Dev.lndReturnUser_ledger (u : LndUser) : (d.lndReturnUser u).ledger = d.ledger :=
  Dev.foldl_ledger Dev.lndReturn_ledger _ _

@[simp] theorem Dev.lndReturnUser_caches (u : LndUser) : (d.lndReturnUser u).caches = d.caches := by
  refine Dev.foldl_caches (fun d b => ?_) _ _
  unfold Dev.lndReturn
  dsimp only
  split <;> rfl

@[simp] theorem Dev.freeCtx_ledger (x : XCtx) : (d.freeCtx x).ledger = d.ledger := by simp [Dev.freeCtx]

@[simp] theorem Dev.leaveReserve_ledger (c : Cmd) : (d.leaveReserve c).ledger = d.ledger := by
  unfold Dev.leaveReserve
  split
  · simp [Dev.dropReserve]
  · rfl

@[simp] theorem Dev.markGrains_ledger (c : Cmd) (b : Bool) : (d.markGrains c b).ledger = d.ledger := by
  unfold Dev.markGrains
  split <;> simp

@[simp] theorem Dev.xeCommit_ledger (c : Cmd) : (d.xeCommit c).ledger = d.ledger := by
  unfold Dev.xeCommit
  split
  · rfl
  · dsimp only
    split <;> simp

@[simp] theorem Dev.collFree_ledger (x : CollCtx) : (d.collFree x).ledger = d.ledger := by simp [Dev.collFree, Dev.noteColl]

@[simp] theorem Dev.collCommit_ledger (c : Cmd) : (d.collCommit c).ledger = d.ledger := by
  unfold Dev.collCommit
  dsimp only
  split
  · split <;> simp
  · split <;> simp

@[simp] theorem Dev.addRelease_ledger (id : Nat) : (d.addRelease id).ledger = d.ledger := by
  unfold Dev.addRelease
  split <;> simp

@[simp] theorem Dev.endSwap_ledger (id : Nat) : (d.endSwap id).ledger = d.ledger := by
  unfold Dev.endSwap
  split
  · rfl
  · rw [Dev.setF_ledger _ _ _ _ _ (by decide), Dev.setReg_ledger _ _ _ _ _ (by decide)]
    exact Dev.ledger_congr rfl rfl rfl rfl

@[simp] theorem Dev.commitLayer_ledger (c : Cmd) : (d.commitLayer c).ledger = d.ledger := by
  unfold Dev.commitLayer
  split
  · rfl
  · dsimp only
    split
    · simp
    · split <;> simp

@[simp] theorem Dev.commitFence_ledger (c : Cmd) : (d.commitFence c).ledger = d.ledger := by
  unfold Dev.commitFence
  split
  · rfl
  · exact Dev.ledger_congr rfl rfl rfl rfl

@[simp] theorem Dev.noteReasons_ledger : d.noteReasons.ledger = d.ledger := by
  unfold Dev.noteReasons
  split <;> simp

@[simp] theorem Dev.setArrState_ledger (n st : Nat) : (d.setArrState n st).ledger = d.ledger := by simp [Dev.setArrState]

@[simp] theorem Dev.setFree_ledger (k n : Nat) : (d.setFree k n).ledger = d.ledger := by
  unfold Dev.setFree
  dsimp only
  split <;> simp

@[simp] theorem Dev.lndRetireFrame_ledger (frame : Nat) : (d.lndRetireFrame frame).ledger = d.ledger := by
  refine Dev.foldl_ledger (fun d k => Dev.foldl_ledger (fun d i => ?_) _ d) _ d
  dsimp only
  split
  · rfl
  · split
    · exact Dev.ledger_congr rfl rfl rfl rfl
    · rw [Dev.addF_ledger _ _ _ _ _ (by decide), Dev.setFree_ledger]
      exact Dev.ledger_congr rfl rfl rfl rfl

@[simp] theorem Dev.commitDisable_ledger (c : Cmd) : (d.commitDisable c).ledger = d.ledger := by
  unfold Dev.commitDisable
  split
  · unfold Dev.retireArray
    split <;> simp
  · simp
  · rfl

@[simp] theorem Dev.substitute_ledger (spare retired : Nat) : (d.substitute spare retired).ledger = d.ledger := by
  refine (Dev.setArrState_ledger _ _ _).trans (Dev.foldl_ledger (fun d p => ?_) _ d)
  dsimp only
  split
  · simp
  · rfl

@[simp] theorem Dev.commitEffects_ledger (c : Cmd) : (d.commitEffects c).ledger = d.ledger := by
  unfold Dev.commitEffects
  split <;> simp

@[simp] theorem Dev.commitStatus_ledger (c : Cmd) : (d.commitStatus c).1.ledger = d.ledger := by
  unfold Dev.commitStatus
  split <;> simp

theorem Dev.commitStatus_snd (c : Cmd) : (d.commitStatus c).2 = if c.suspect then .suspect else .ok := by
  unfold Dev.commitStatus
  split <;> rfl

theorem Dev.commitStatus_caches (c : Cmd) : (d.commitStatus c).1.caches = d.caches := by
  unfold Dev.commitStatus
  split <;> rfl

@[simp] theorem Dev.dropWork_ledger (id : Nat) : (d.dropWork id).ledger = d.ledger :=
  (Dev.lndReturnUser_ledger _ _).trans (Dev.ledger_congr rfl rfl rfl rfl)

theorem Dev.dropWork_caches (id : Nat) : (d.dropWork id).caches = d.caches := (Dev.lndReturnUser_caches _ _).trans rfl

@[simp] theorem Dev.xeKill_ledger (c : Cmd) : (d.xeKill c).ledger = d.ledger := by
  unfold Dev.xeKill
  refine (Dev.foldl_ledger Dev.freeCtx_ledger _ _).trans ?_
  dsimp only
  split
  · split <;> simp [Dev.setXid]
  · simp [Dev.setXid]

@[simp] theorem Dev.collKill_ledger (c : Cmd) : (d.collKill c).ledger = d.ledger := by
  unfold Dev.collKill
  refine (Dev.foldl_ledger Dev.collFree_ledger _ _).trans ?_
  simp [Dev.setCid]

@[simp] theorem Dev.killEffects_ledger (c : Cmd) : (d.killEffects c).ledger = d.ledger := by
  unfold Dev.killEffects
  split <;> simp

@[simp] theorem Dev.dropTraffic_ledger (id : Nat) : (d.dropTraffic id).ledger = d.ledger := Dev.ledger_congr rfl rfl rfl rfl

/-- The end of a command: its completion is held, and memory, the registers and the caches are as they were. -/
theorem Dev.endCmd_spec {id : Nat} {c : Cmd} (st : Status) (count parts : Nat) (hc : d.cmd? id = some c) :
    (d.endCmd id st count parts).link.held = d.link.held ++ [.completion
      { cmd := id, status := st, opcode := c.opcode, job := c.job, tag := c.tag, count := count, parts := parts
        queue := c.queue, seq := c.firstSeq, notify := c.notify }] ∧
    (∃ k, (d.endCmd id st count parts).cmd? id = some k ∧ k.ended = true) ∧
    (d.endCmd id st count parts).mem = d.mem ∧ (d.endCmd id st count parts).caches = d.caches ∧
    (d.endCmd id st count parts).regs = d.regs := by
  unfold Dev.endCmd
  rw [hc]
  refine ⟨rfl, ?_, rfl, rfl, rfl⟩
  have hend := Dev.cmd?_updCmd_some (d := { d with link := { d.link with held := d.link.held ++ [.completion
      { cmd := id, status := st, opcode := c.opcode, job := c.job, tag := c.tag, count := count, parts := parts
        queue := c.queue, seq := c.firstSeq, notify := c.notify }] } })
    (fun c => { c with ended := true, ready := false, deltas := [] }) hc (fun _ => rfl)
  have hwoken := find?_mapIf (fun w : Cmd => (w.waitOn == some id) && !w.ended) (fun c : Cmd => c.id == id)
    (fun w => if st = .ok ∨ st = .suspect then { w with waitOn := none } else { w with waitOn := none, causes := w.causes ++ [st] })
    (Dev.updCmd { d with link := { d.link with held := d.link.held ++ [.completion
      { cmd := id, status := st, opcode := c.opcode, job := c.job, tag := c.tag, count := count, parts := parts
        queue := c.queue, seq := c.firstSeq, notify := c.notify }] } } id
      (fun c => { c with ended := true, ready := false, deltas := [] })).cmds (fun w => by split <;> rfl)
  exact ⟨_, hwoken.trans (congrArg _ hend), by simp⟩

end

/-! ## COMMIT and KILL -/

/-- The record of a command whose device, at its end, has the ledger of the one it began with. -/
theorem Dev.recorded_of_ledger {d m : Dev} {c : Cmd} (st : Status) (parts : Nat) (hc : d.cmd? c.id = some c) (h : m.ledger = d.ledger) :
    d.recorded (m.endCmd c.id st d.count parts) c st parts := by
  have hcm : m.cmd? c.id = some c := (congrArg (fun l => l.find? (fun k : Cmd => k.id == c.id)) (congrArg Ledger.cmds h :)).trans hc
  obtain ⟨hheld, hended, -, -, -⟩ := m.endCmd_spec st d.count parts hcm
  have hlink : m.link = d.link := congrArg Ledger.link h
  rw [hlink] at hheld
  exact ⟨hheld, hended⟩

/-- What a commit leaves once its tables are committed. -/
theorem Dev.commitCmd_spec {d m : Dev} {c : Cmd} (hc : d.cmd? c.id = some c) (htab : d.commitTables c = .ok m) :
    d.recorded (d.commitCmd c.id) c (if c.suspect then .suspect else .ok) 0 ∧
    (d.commitCmd c.id).mem = { m.mem with places := (d.commitCmd c.id).mem.places, xu := (d.commitCmd c.id).mem.xu } ∧
    (∀ p obj, (d.commitCmd c.id).entry p obj = m.entry p obj) ∧
    (d.commitCmd c.id).caches = (m.commitEffects c).caches := by
  obtain ⟨hrest, hslab, hxu, -⟩ := Dev.commitTables_tablesOnly htab
  have hlink : m.link = d.link := by rw [hrest]
  have hcount : m.count = d.count := by
    have := (Dev.clock_spec (Dev.commitTables_clock htab)).1
    rw [Dev.count, Dev.count, this]
  have hcm : m.cmd? c.id = some c := by rw [hrest]; exact hc
  have hcommit : d.commitCmd c.id = (((m.commitEffects c).commitStatus c).1.dropWork c.id).endCmd c.id
      (if c.suspect then .suspect else .ok) m.count 0 := by
    have hnow : ((m.commitEffects c).commitStatus c).1.count = m.count := Dev.ledger_count (by simp)
    rw [← hnow, ← (m.commitEffects c).commitStatus_snd c]
    unfold Dev.commitCmd
    rw [hc]
    dsimp only
    rw [htab]
  rw [hcommit]
  have hcaches := ((Dev.dropWork_caches _ c.id).trans ((m.commitEffects c).commitStatus_caches c))
  generalize hw : ((m.commitEffects c).commitStatus c).1.dropWork c.id = w at hcaches ⊢
  have hled : w.ledger = m.ledger := by rw [← hw]; simp
  have hcw : w.cmd? c.id = some c := (congrArg (fun l => l.find? (fun k : Cmd => k.id == c.id)) (congrArg Ledger.cmds hled :)).trans hcm
  obtain ⟨-, -, hmem, hca, hregs⟩ := w.endCmd_spec (if c.suspect then .suspect else .ok) m.count 0 hcw
  obtain ⟨hheld, hended⟩ := Dev.recorded_of_ledger (if c.suspect then .suspect else .ok) 0 hcm hled
  rw [hlink] at hheld
  generalize w.endCmd c.id _ m.count 0 = e at hmem hca hregs hheld hended ⊢
  refine ⟨⟨hcount ▸ hheld, hended⟩, ?_, fun p obj => ?_, hca.trans hcaches⟩
  · rw [hmem]
    exact Dev.ledger_mem hled
  · have : e.entry p obj = w.entry p obj := by
      unfold Dev.entry Dev.tableSize Dev.entryAddr Dev.physRead Dev.physCheck Dev.f Dev.reg
      rw [hmem, hregs]
    rw [this, Dev.ledger_entry hled]

/-- A cause given to a command's pair, where it has one, changes no more than causes. -/
theorem Dev.failPair_causes {d : Dev} {id : Nat} {c : Cmd} (pair : Option Nat) (st : Status) (hc : d.cmd? id = some c) :
    ∃ c', (pair.elim d (fun k => d.failCmd k st)).cmd? id = some c' ∧ c' = { c with causes := c'.causes } := by
  cases pair with
  | none => exact ⟨c, hc, rfl⟩
  | some k =>
    have h := (d.cmd?_updCmd k id (fun c => if c.ended then c else { c with causes := c.causes ++ [st] })
      (fun c => by split <;> rfl)).trans (congrArg _ hc)
    refine ⟨_, h, ?_⟩
    dsimp only
    split
    · split <;> rfl
    · rfl

/-- What a kill leaves of a command that a cause has reached. -/
theorem Dev.killCmd_spec {d : Dev} {c : Cmd} {st : Status} (hc : d.cmd? c.id = some c) (hst : c.killStatus = some st)
    (hlive : c.ended = false) :
    d.recorded (d.killCmd c.id) c st (if st = .partFailed then partsMask c.failed else 0) ∧
    (d.killCmd c.id).mem = { d.mem with places := (d.killCmd c.id).mem.places, xu := (d.killCmd c.id).mem.xu } := by
  generalize hw : ((d.killEffects c).dropTraffic c.id).dropWork c.id = w
  have hled : w.ledger = d.ledger := by rw [← hw]; simp
  have hcw : w.cmd? c.id = some c := (congrArg (fun l => l.find? (fun k : Cmd => k.id == c.id)) (congrArg Ledger.cmds hled :)).trans hc
  have hcount := Dev.ledger_count hled
  have hlink : w.link = d.link := congrArg Ledger.link hled
  generalize hv : c.pair.elim w (fun k => w.failCmd k st) = v
  have hvmem : v.mem = w.mem := by rw [← hv]; cases c.pair <;> rfl
  have hvlink : v.link = w.link := by rw [← hv]; cases c.pair <;> rfl
  have hvcount : v.count = w.count := by rw [← hv]; cases c.pair <;> rfl
  obtain ⟨c', hcv, hsame⟩ : ∃ c', v.cmd? c.id = some c' ∧ c' = { c with causes := c'.causes } := hv ▸ Dev.failPair_causes c.pair st hcw
  have hkill : d.killCmd c.id = v.endCmd c.id st v.count (if st = .partFailed then partsMask c.failed else 0) := by
    unfold Dev.killCmd
    rw [hc]
    dsimp only
    rw [hst]
    dsimp only
    rw [hlive, hw, ← hv]
    cases c.pair <;> rfl
  obtain ⟨hheld, hended, hmem, -, -⟩ := v.endCmd_spec st v.count (if st = .partFailed then partsMask c.failed else 0) hcv
  rw [hkill]
  generalize v.endCmd c.id st v.count _ = e at *
  rw [hvlink, hlink, hvcount, hcount, hsame] at hheld
  exact ⟨⟨hheld, hended⟩, by rw [hmem, hvmem]; exact Dev.ledger_mem hled⟩

/-! ## VERSION_RELEASE -/

/-- A version's grain table is classified in its counters alone. -/
theorem Dev.classify_rest (d : Dev) (v : Version) :
    (d.classify v).mem = d.mem ∧ (d.classify v).cmds = d.cmds ∧ (d.classify v).link = d.link := by
  unfold Dev.classify
  split
  · exact ⟨rfl, rfl, rfl⟩
  · dsimp only
    split
    · exact ⟨rfl, rfl, rfl⟩
    · split <;> exact ⟨rfl, rfl, rfl⟩

/-- A list without one of its items sums to that item's less, at least. -/
theorem sumNat_filter_add {α : Type} {l : List α} {g : α → Nat} {p q : α → Bool} {a : α} (ha : a ∈ l) (hp : p a = true) (hq : q a = false) :
    sumNat (((l.filter q).filter p).map g) + g a ≤ sumNat ((l.filter p).map g) := by
  rw [sumNat_eq, sumNat_eq]
  induction l with
  | nil => cases ha
  | cons b l ih =>
    obtain rfl | hin := List.mem_cons.mp ha
    · have hsub : ((l.filter q).filter p).Sublist (l.filter p) := (List.filter_sublist (p := q)).filter p
      rw [List.filter_cons_of_neg (by simp [hq]), List.filter_cons_of_pos hp, List.map_cons, List.sum_cons]
      exact (Nat.add_comm _ _).trans_le (Nat.add_le_add_left ((hsub.map g).sum_le_sum (fun _ _ => Nat.zero_le _)) _)
    · have := ih hin
      rw [List.filter_cons, List.filter_cons]
      split <;> split <;> simp_all <;> omega

/-- The charges of a partition settled: only those of live placements and of placements with a version held stay, and the use
is shown. -/
theorem Dev.settleCharges_spec (d : Dev) (p : Nat) :
    (d.settleCharges p).mem = { d.mem with charges := d.mem.charges.filter (fun k => k.live ||
      d.mem.superseded.any (fun y => y.ver.part == k.part && y.ver.obj == k.obj && y.ver.entry.same k.entry)) } ∧
    (d.settleCharges p).cmds = d.cmds ∧ (d.settleCharges p).link = d.link ∧
    (d.settleCharges p).f .TIER_USE_HBM_64K p = ceilDiv ((d.settleCharges p).useHbm p) 65536 % 2 ^ Fld.TIER_USE_HBM_64K.width ∧
    (d.settleCharges p).f .TIER_USE_SLAB_KIB p = ceilDiv ((d.settleCharges p).useSlab p) 1024 % 2 ^ Fld.TIER_USE_SLAB_KIB.width := by
  unfold Dev.settleCharges
  generalize d.mem.charges.filter _ = keep
  dsimp only
  generalize hm : ({ d with mem := { d.mem with charges := keep } } : Dev) = m
  refine ⟨?_, ?_, ?_, ?_, ?_⟩
  · show m.mem = _
    rw [← hm]
  · show m.cmds = _
    rw [← hm]
  · show m.link = _
    rw [← hm]
  · rw [Dev.f_setF_apart _ .TIER_USE_SLAB_KIB .TIER_USE_HBM_64K _ _ _ rfl (by decide) (by decide),
      Dev.f_setF_same _ .TIER_USE_HBM_64K _ _ _ (by decide)]
    rfl
  · rw [Dev.f_setF_same _ _ _ _ _ (by decide)]
    rfl

/-- A commit takes its claims and placements to the tables, holds its record, and a FENCE with PROTECT empties the caches. -/
theorem commit_completes {s : State} {c : Cmd} {d : Dev} (hc : s.dev.cmd? c.id = some c) (h2 : c.opcode ≠ 2) (h9 : c.opcode ≠ 9)
    (hcan : s.dev.canCommit c = true) (hstall : s.dev.stalled = false) (htab : s.dev.commitTables c = .ok d) :
    Completes (.commit c.id) s (fun e =>
      s.dev.recorded e c (if c.suspect then .suspect else .ok) 0 ∧ e.mem.hbm = d.mem.hbm ∧ e.mem.slab = s.dev.mem.slab ∧
      e.mem.superseded = d.mem.superseded ∧
      (∀ k e0, c.claims = [k] → s.dev.placesOf c.id = [] → k.ver.buf < 4 →
        s.dev.entry k.ver.part k.ver.obj = .ok (some e0) → e0.same k.ver.entry = true →
        e.entry k.ver.part k.ver.obj = .ok (some { e0 with cur := k.ver.buf, hasCur := true, gen := (e0.gen + 1) % 2 ^ 32 }) ∧
        e.mem.superseded = s.dev.mem.superseded ++
          (if e0.hasCur then [⟨⟨k.ver.part, k.ver.obj, e0, e0.cur⟩⟩] else [])) ∧
      (c.opcode = 0x0B →
        if c.arg 0 0 1 = 1 then e.mem.xu = [] ∧ e.fab.ranks = [] ∧ e.win.table = []
        else e.mem.xu = s.dev.mem.xu ∧ e.fab.ranks = s.dev.fab.ranks ∧ e.win.table = s.dev.win.table)) := by
  obtain ⟨hrec, hmem, hentry, hcaches⟩ := Dev.commitCmd_spec hc htab
  obtain ⟨-, hslab, hxu, -⟩ := Dev.commitTables_tablesOnly htab
  refine Completes.of_engine (g := fun d => d.commitRow c.id) rfl hstall ?_
  have hrow : s.dev.commitRow c.id = s.dev.commitCmd c.id := by
    unfold Dev.commitRow
    rw [hc]
    simp [hcan, h2, h9, hstall]
  rw [hrow]
  generalize s.dev.commitCmd c.id = e at *
  have hsup : e.mem.superseded = d.mem.superseded := (congrArg MemSt.superseded hmem :)
  refine ⟨hrec, (congrArg MemSt.hbm hmem :), ?_, hsup, fun k e0 hk hp hbuf hread hsame => ?_, fun hop => ?_⟩
  · exact (congrArg MemSt.slab hmem :).trans hslab
  · obtain ⟨htake, htsup⟩ := Dev.commitClaim_takes hread hbuf hsame (Dev.commitTables_claim hk hp htab)
    exact ⟨(hentry _ _).trans htake, hsup.trans htsup⟩
  · have heff : d.commitEffects c = d.commitFence c := by
      unfold Dev.commitEffects
      rw [hop]
      rfl
    rw [heff] at hcaches
    have hrest : d.caches = s.dev.caches := by
      obtain ⟨hd, -⟩ := Dev.commitTables_tablesOnly htab
      unfold Dev.caches
      rw [hxu, hd]
    unfold Dev.commitFence at hcaches
    have hbit : c.arg 0 0 1 < 2 := Nat.mod_lt _ (by decide)
    by_cases harg : c.arg 0 0 1 = 0
    · rw [if_pos harg, hrest] at hcaches
      rw [if_neg (by omega)]
      exact ⟨congrArg Prod.fst hcaches, congrArg (fun x => x.2.1) hcaches, congrArg (fun x => x.2.2) hcaches⟩
    · rw [if_neg harg] at hcaches
      rw [if_pos (by omega)]
      exact ⟨congrArg Prod.fst hcaches, congrArg (fun x => x.2.1) hcaches, congrArg (fun x => x.2.2) hcaches⟩

/-- A kill holds the record of its cause and leaves every object. -/
theorem kill_completes {s : State} {c : Cmd} {st : Status} (hc : s.dev.cmd? c.id = some c) (hst : c.killStatus = some st)
    (hlive : c.ended = false) (hstall : s.dev.stalled = false) :
    Completes (.kill c.id) s (fun e =>
      s.dev.recorded e c st (if st = .partFailed then partsMask c.failed else 0) ∧
      e.mem.hbm = s.dev.mem.hbm ∧ e.mem.slab = s.dev.mem.slab ∧ e.mem.charges = s.dev.mem.charges ∧
      e.mem.superseded = s.dev.mem.superseded) := by
  obtain ⟨hrec, hmem⟩ := Dev.killCmd_spec hc hst hlive
  refine Completes.of_engine (g := fun d => d.killRow c.id) rfl hstall ?_
  have hrow : s.dev.killRow c.id = s.dev.killCmd c.id := if_neg (by rw [hstall]; decide)
  rw [hrow]
  generalize s.dev.killCmd c.id = e at *
  exact ⟨hrec, (congrArg MemSt.hbm hmem :), (congrArg MemSt.slab hmem :), (congrArg MemSt.charges hmem :),
    (congrArg MemSt.superseded hmem :)⟩

/-- A superseded version released: it is listed no more, and the charges of its partition are settled. -/
theorem Dev.releaseVer_spec (d : Dev) (x : Superseded) :
    (d.releaseVer x).mem = { d.mem with
      superseded := d.mem.superseded.erase x
      charges := d.mem.charges.filter (fun k => k.live ||
        (d.mem.superseded.erase x).any (fun y => y.ver.part == k.part && y.ver.obj == k.obj && y.ver.entry.same k.entry)) } ∧
    (d.releaseVer x).cmds = d.cmds ∧ (d.releaseVer x).link = d.link ∧
    (d.releaseVer x).f .TIER_USE_HBM_64K x.ver.part =
      ceilDiv ((d.releaseVer x).useHbm x.ver.part) 65536 % 2 ^ Fld.TIER_USE_HBM_64K.width ∧
    (d.releaseVer x).f .TIER_USE_SLAB_KIB x.ver.part =
      ceilDiv ((d.releaseVer x).useSlab x.ver.part) 1024 % 2 ^ Fld.TIER_USE_SLAB_KIB.width := by
  unfold Dev.releaseVer
  dsimp only
  generalize hm : ({ d with mem := { d.mem with superseded := d.mem.superseded.erase x } } : Dev) = m
  have hmem : m.mem = { d.mem with superseded := d.mem.superseded.erase x } := by rw [← hm]
  have hcmds : m.cmds = d.cmds := by rw [← hm]
  have hlink : m.link = d.link := by rw [← hm]
  obtain ⟨hcm, hcc, hcl⟩ := m.classify_rest x.ver
  obtain ⟨hsm, hsc, hsl, hhbm, hslab⟩ := (m.classify x.ver).settleCharges_spec x.ver.part
  rw [hcm, hmem] at hsm
  exact ⟨hsm, hsc.trans (hcc.trans hcmds), hsl.trans (hcl.trans hlink), hhbm, hslab⟩

theorem Dev.settle_useHbm (d : Dev) (p : Nat) : d.settle.useHbm p = d.useHbm p := rfl
theorem Dev.settle_useSlab (d : Dev) (p : Nat) : d.settle.useSlab p = d.useSlab p := rfl

/-- A released version goes, with the charges that nothing else holds. -/
theorem versionRelease_completes {s : State} {p : Fin 16} {obj : BitVec 24} {buf : Fin 4} {x : Superseded}
    (hx : s.dev.mem.superseded.find? (fun y => y.ver.part == p.val && y.ver.obj == obj.toNat && y.ver.buf == buf.val &&
      !s.dev.readBy y.ver) = some x) :
    let rest := s.dev.mem.superseded.erase x
    let held := fun (k : Charge) => rest.any (fun y => y.ver.part == k.part && y.ver.obj == k.obj && y.ver.entry.same k.entry)
    Completes (.versionRelease p obj buf) s (fun e =>
      e.mem.superseded = rest ∧ e.mem.charges = s.dev.mem.charges.filter (fun k => k.live || held k) ∧
      (∀ k ∈ s.dev.mem.charges, k.part = p → k.live = false → held k = false → k ∉ e.mem.charges ∧
        e.useHbm p + k.hbm ≤ s.dev.useHbm p ∧ e.useSlab p + k.slab ≤ s.dev.useSlab p) ∧
      e.f .TIER_USE_HBM_64K p = ceilDiv (e.useHbm p) 65536 % 2 ^ Fld.TIER_USE_HBM_64K.width ∧
      e.f .TIER_USE_SLAB_KIB p = ceilDiv (e.useSlab p) 1024 % 2 ^ Fld.TIER_USE_SLAB_KIB.width ∧
      e.mem.hbm = s.dev.mem.hbm ∧ e.mem.slab = s.dev.mem.slab ∧ e.cmds = s.dev.cmds ∧ e.link = s.dev.link) := by
  intro rest held
  have hmem : x ∈ s.dev.mem.superseded := List.mem_of_find?_eq_some hx
  have hp : x.ver.part = p := by
    have := List.find?_some hx
    simp only [Bool.and_eq_true, beq_iff_eq] at this
    exact this.1.1.1
  refine Completes.of_act (g := fun d => d.versionRelease p obj.toNat buf) rfl ?_
  have hrow : s.dev.versionRelease p obj.toNat buf = s.dev.releaseVer x := by
    unfold Dev.versionRelease
    rw [hx]
  obtain ⟨hsm, hsc, hsl, hhbm, hslab⟩ := s.dev.releaseVer_spec x
  rw [hrow]
  rw [hp] at hhbm hslab
  generalize s.dev.releaseVer x = e at *
  have hcharges : e.mem.charges = s.dev.mem.charges.filter (fun k => k.live || held k) := by rw [hsm]
  have huse : ∀ d : Dev, d.useHbm p = sumNat ((d.mem.charges.filter (fun c => c.part == (p : Nat))).map Charge.hbm) := fun _ => rfl
  have huses : ∀ d : Dev, d.useSlab p = sumNat ((d.mem.charges.filter (fun c => c.part == (p : Nat))).map Charge.slab) := fun _ => rfl
  refine ⟨by rw [Dev.settle_mem, hsm], by rw [Dev.settle_mem, hcharges], fun k hk hkp hlive hheld => ⟨?_, ?_, ?_⟩, ?_, ?_, by rw [Dev.settle_mem, hsm],
    by rw [Dev.settle_mem, hsm], ?_, ?_⟩
  · rw [Dev.settle_mem, hcharges, List.mem_filter, not_and]
    intro _
    rw [hlive, hheld]
    decide
  · rw [huse, huse, Dev.settle_mem, hcharges]
    exact sumNat_filter_add hk (by simpa using hkp) (by rw [hlive, hheld]; rfl)
  · rw [huses, huses, Dev.settle_mem, hcharges]
    exact sumNat_filter_add hk (by simpa using hkp) (by rw [hlive, hheld]; rfl)
  · rw [Dev.settle_f, Dev.settle_useHbm]
    exact hhbm
  · rw [Dev.settle_f, Dev.settle_useSlab]
    exact hslab
  · rw [Dev.settle_cmds, hsc]
  · rw [Dev.settle_link, hsl]

/-- Settles O42: the engines' ends leave memory and the host's records alone, a claim's entry reads back as written, and a
released version's charges go with it. -/
theorem commitKillRelease : Obligations.CommitKillRelease := by
  unfold Obligations.CommitKillRelease
  intro s id c
  refine ⟨fun d hc h2 h9 hcan hstall htab => ?_, fun st hc hst hlive hstall => ?_, fun p obj buf x hx => versionRelease_completes hx⟩
  · obtain rfl : c.id = id := by simpa using List.find?_some hc
    exact commit_completes hc h2 h9 hcan hstall htab
  · obtain rfl : c.id = id := by simpa using List.find?_some hc
    exact kill_completes hc hst hlive hstall

end Sys2Proof.Machine
end

section

/-! PROOFS. FENCE, PREEMPT, DISABLE and ENABLE_SPARE (ControlCommandsAct; R61 to R64). -/

namespace Sys2Proof.Machine

/-! ## A command that kills others and waits for them -/

/-- The one command of its number is the one found under it. -/
theorem Dev.sole.found {d : Dev} {k : Cmd} (h : d.sole k) : d.cmd? k.id = some k := by
  obtain ⟨hk, hone⟩ := h
  cases hf : d.cmd? k.id with
  | none => exact absurd (List.find?_eq_none.mp hf k hk) (by simp)
  | some x =>
    have hid : x.id = k.id := by simpa using List.find?_some hf
    rw [hone x (List.mem_of_find?_eq_some hf) hid]

/-- A command of another number is as it was. -/
theorem Dev.cmd?_updCmd_ne (d : Dev) {k id : Nat} (g : Cmd → Cmd) (hk : k ≠ id) (hg : ∀ c, (g c).id = c.id) :
    (d.updCmd id g).cmd? k = d.cmd? k := by
  rw [d.cmd?_updCmd id k g hg]
  cases hx : d.cmd? k with
  | none => rfl
  | some x =>
    have hid : x.id = k := by simpa using List.find?_some hx
    rw [Option.map_some, if_neg (by simpa [hid] using hk)]

/-- What a list of commands is given as a cause: the listed that live have it, and the others are as they were. -/
theorem Dev.cmd?_foldl_failCmd (st : Status) (l : List Nat) {d : Dev} {k : Nat} {x : Cmd} (hx : d.cmd? k = some x) :
    ∃ y, (l.foldl (fun d i => d.failCmd i st) d).cmd? k = some y ∧
      (st ∈ x.causes ∨ k ∈ l ∧ x.ended = false → st ∈ y.causes) ∧ (k ∉ l → y = x) := by
  induction l generalizing d x with
  | nil => exact ⟨x, hx, fun h => h.elim id (fun h => absurd h.1 List.not_mem_nil), fun _ => rfl⟩
  | cons i l ih =>
    have hid : x.id = k := by simpa using List.find?_some hx
    have hstep : (d.failCmd i st).cmd? k =
        some (if x.id == i then (if x.ended then x else { x with causes := x.causes ++ [st] }) else x) := by
      unfold Dev.failCmd
      rw [Dev.cmd?_updCmd _ _ _ _ (fun c => by split <;> rfl), hx]
      rfl
    obtain ⟨y, hy, hin, hout⟩ := ih hstep
    by_cases hki : k = i
    · refine ⟨y, hy, ?_, fun h => absurd (hki ▸ List.mem_cons_self) h⟩
      rw [hid, hki, beq_self_eq_true, if_pos rfl] at hin
      split at hin
      · exact fun h => hin (h.imp_right fun h => absurd h.2 (by simp [*]))
      · exact fun _ => hin (.inl (by simp))
    · rw [if_neg (by simp [hid, hki])] at hin hout
      exact ⟨y, hy, fun h => hin (h.imp_right fun h => ⟨(List.mem_cons.mp h.1).resolve_left hki, h.2⟩),
        fun h => hout (fun hl => h (List.mem_cons_of_mem _ hl))⟩

theorem Dev.foldl_failCmd_rest (st : Status) (l : List Nat) (d : Dev) :
    l.foldl (fun d i => d.failCmd i st) d = { d with cmds := (l.foldl (fun d i => d.failCmd i st) d).cmds } := by
  induction l generalizing d with
  | nil => rfl
  | cons i l ih => exact ih (d.failCmd i st)

/-- A command that has acted: those it kills have the cause, those it does not are as they were, and it waits for the killed. -/
theorem Dev.actOn_spec {d : Dev} {id : Nat} {c : Cmd} (st : Status) (l : List Nat) (hc : d.cmd? id = some c) (hid : id ∉ l) :
    d.actOn id st l = { d with cmds := (d.actOn id st l).cmds } ∧
    (d.actOn id st l).cmd? id = some { c with passed := [0], waits := l } ∧
    (∀ k x, d.cmd? k = some x → k ≠ id → ∃ y, (d.actOn id st l).cmd? k = some y ∧
      (k ∈ l → x.ended = false → st ∈ y.causes) ∧ (k ∉ l → y = x)) := by
  unfold Dev.actOn
  have hrest := Dev.foldl_failCmd_rest st l d
  obtain ⟨y, hy, -, hout⟩ := Dev.cmd?_foldl_failCmd st l hc
  refine ⟨by rw [hrest]; rfl, ?_, fun k x hx hk => ?_⟩
  · rw [← hout hid]
    exact Dev.cmd?_updCmd_some _ hy (fun _ => rfl)
  · obtain ⟨z, hz, hin, hout⟩ := Dev.cmd?_foldl_failCmd st l hx
    exact ⟨z, (Dev.cmd?_updCmd_ne _ (fun c => { c with passed := [0], waits := l }) hk (fun _ => rfl)).trans hz, fun hl hend => hin (.inr ⟨hl, hend⟩), hout⟩

/-- Waiting for what it killed, a command becomes ready or nothing changes. -/
theorem Dev.waitsDone_spec {d : Dev} {id : Nat} {c : Cmd} (hc : d.cmd? id = some c) :
    d.waitsDone id = { d with cmds := (d.waitsDone id).cmds } ∧
    (∀ k, k ≠ id → (d.waitsDone id).cmd? k = d.cmd? k) ∧
    (c.running = true → c.passed ≠ [] → c.waits = [] → (d.waitsDone id).readied id) := by
  have hfin : d.waitsDone id = d ∨ d.waitsDone id = d.finish id := by
    unfold Dev.waitsDone
    rw [hc]
    dsimp only
    split
    · exact .inr rfl
    · exact .inl rfl
  refine ⟨?_, fun k hk => ?_, fun hrun hpassed hwaits => ?_⟩
  · obtain h | h := hfin <;> rw [h]
    rfl
  · obtain h | h := hfin <;> rw [h]
    exact d.cmd?_updCmd_ne _ hk (fun _ => rfl)
  · have : d.waitsDone id = d.finish id := by
      unfold Dev.waitsDone
      rw [hc]
      dsimp only
      rw [if_pos (by simp [hrun, hpassed, hwaits])]
    rw [this]
    exact ⟨_, d.cmd?_finish id hc, rfl⟩

/-- A command that acts on others: what it kills, what it leaves, and when it is ready at once. -/
theorem Dev.acted_spec {d : Dev} {id : Nat} {c : Cmd} (st : Status) (l : List Nat) (hc : d.cmd? id = some c) (hrun : c.running = true)
    (hid : id ∉ l) :
    let e := (d.actOn id st l).waitsDone id
    e = { d with cmds := e.cmds } ∧ (l = [] → e.readied id) ∧
    (∀ k x, d.cmd? k = some x → k ≠ id → (k ∈ l → x.ended = false → e.failing k st) ∧ (k ∉ l → e.cmd? k = some x)) := by
  obtain ⟨hact, hself, hothers⟩ := Dev.actOn_spec st l hc hid
  obtain ⟨hwait, hkeep, hready⟩ := Dev.waitsDone_spec hself
  refine ⟨by rw [hwait, hact], fun hl => hready hrun (by simp) hl, fun k x hx hk => ?_⟩
  obtain ⟨y, hy, hin, hout⟩ := hothers k x hx hk
  rw [← hkeep k hk] at hy
  exact ⟨fun hl hend => ⟨y, hy, hin hl hend⟩, fun hl => hout hl ▸ hy⟩

/-! ## FENCE and ENABLE_SPARE -/

theorem fence_completes {s : State} {id : Nat} {c : Cmd} (hc : s.dev.cmd? id = some c) (hrun : c.running = true) (hready : c.ready = false)
    (hstall : s.dev.stalled = false) (hop : c.opcode = 0x0B) :
    ((∀ e ∈ s.dev.cmds, e.queue = c.queue → c.id ≤ e.id) →
      Completes (.fence id) s (fun e => e.readied id ∧ e = { s.dev with cmds := e.cmds, pins := e.pins })) ∧
    ((∃ e ∈ s.dev.cmds, e.queue = c.queue ∧ e.id < c.id) → Completes (.fence id) s (fun e => s.dev.same e)) := by
  have hrow : s.dev.fenceRun id =
      if s.dev.cmds.all (fun e => e.queue != c.queue || decide (c.id ≤ e.id)) then s.dev.finish id else s.dev := by
    unfold Dev.fenceRun
    rw [hc]
    simp [hrun, hready, hop]
  refine ⟨fun hall => ?_, fun ⟨e, he, hq, hlt⟩ => ?_⟩
  · refine Completes.of_engine (g := fun d => d.fenceRun id) rfl hstall ?_
    have hall' : s.dev.cmds.all (fun e => e.queue != c.queue || decide (c.id ≤ e.id)) = true := by
      simpa [List.all_eq_true, Decidable.imp_iff_not_or] using hall
    rw [hrow, if_pos hall']
    exact ⟨⟨_, s.dev.cmd?_finish id hc, rfl⟩, rfl⟩
  · refine Completes.of_engine (g := fun d => d.fenceRun id) rfl hstall ?_
    rw [hrow, if_neg]
    · exact s.dev.same_settle
    · intro hall
      have := List.all_eq_true.mp hall e he
      simp [hq] at this
      omega

theorem enableSpare_completes {s : State} {id : Nat} {c : Cmd} (hc : s.dev.cmd? id = some c) (hrun : c.running = true)
    (hready : c.ready = false) (hstall : s.dev.stalled = false) (hop : c.opcode = 0x0E) :
    let ok := s.dev.arrState (c.arg 0 0 16) = 1 ∧ s.dev.arrState (c.arg 2 0 16) = 3
    (ok → Completes (.enableSpare id) s (fun e => e.readied id ∧ e = { s.dev with cmds := e.cmds, pins := e.pins })) ∧
    (¬ok → Completes (.enableSpare id) s (fun e => e.failing id .badDescriptor ∧ e.regs = s.dev.regs)) := by
  intro ok
  have hrow : s.dev.spareRun id = if s.dev.arrState (c.arg 0 0 16) = 1 ∧ s.dev.arrState (c.arg 2 0 16) = 3 then s.dev.finish id
      else s.dev.failCmd id .badDescriptor := by
    unfold Dev.spareRun
    rw [hc]
    simp [hrun, hready, hop]
  have hlive : c.ended = false := by
    simp only [Cmd.running, Bool.and_eq_true, Bool.not_eq_true'] at hrun
    exact hrun.1.2
  refine ⟨fun hok => ?_, fun hok => ?_⟩
  · refine Completes.of_engine (g := fun d => d.spareRun id) rfl hstall ?_
    rw [hrow, if_pos hok]
    exact ⟨⟨_, s.dev.cmd?_finish id hc, rfl⟩, rfl⟩
  · refine Completes.of_engine (g := fun d => d.spareRun id) rfl hstall ?_
    rw [hrow, if_neg hok]
    exact ⟨Dev.failing_failCmd .badDescriptor hc hlive, rfl⟩

/-! ## PREEMPT -/

/-- Queues are halted by PREEMPT in their HALTED bits alone. -/
theorem Dev.haltQueues_spec (d : Dev) (qs : List Nat) :
    let e := qs.foldl (fun d q => d.setF .CMD_SQ_CTRL_HALTED 1 q) d
    e = { d with regs := e.regs } ∧ ∀ q ∈ qs, e.flag .CMD_SQ_CTRL_HALTED q = true := by
  have h := Dev.foldl_sets (I := fun e => e = { d with regs := e.regs }) (P := fun q e => e.flag .CMD_SQ_CTRL_HALTED q = true)
    (as := qs) (g := fun d q => d.setF .CMD_SQ_CTRL_HALTED 1 q) (d := d)
    (fun e q _ he => by rw [he]; rfl)
    (fun e q _ _ => Dev.flag_of_one (e.f_setF_same .CMD_SQ_CTRL_HALTED 1 q 0 (by decide)))
    (fun e q _ k _ hk => ?_) rfl
  · exact ⟨h.1, fun q hq => h.2 q (.inl hq)⟩
  · by_cases hcode : Reg.CMD_SQ_CTRL.code k 0 = Reg.CMD_SQ_CTRL.code q 0
    · have hsame : ∀ e : Dev, e.flag .CMD_SQ_CTRL_HALTED k = e.flag .CMD_SQ_CTRL_HALTED q := fun e => by
        unfold Dev.flag Dev.f Dev.reg
        rw [hcode]
      rw [hsame]
      exact Dev.flag_of_one (e.f_setF_same .CMD_SQ_CTRL_HALTED 1 q 0 (by decide))
    · unfold Dev.flag at hk ⊢
      rwa [e.f_setF_ne_code .CMD_SQ_CTRL_HALTED .CMD_SQ_CTRL_HALTED 1 q 0 k 0 hcode]

theorem preempt_completes {s : State} {id : Nat} {c : Cmd} (hc : s.dev.cmd? id = some c) (hrun : c.running = true)
    (hready : c.ready = false) (hstall : s.dev.stalled = false) (hop : c.opcode = 0x0C) (hpassed : c.passed = []) :
    let t := c.arg 1 0 8
    let hit := fun (k : Cmd) => k.id ≠ id ∧ k.ended = false ∧ (if c.arg 0 0 8 = 0 then k.part = t else k.queue = t)
    Completes (.preempt id) s (fun e =>
      (∀ k, s.dev.sole k → hit k → e.failing k.id .killedPreempt) ∧
      (∀ k, s.dev.sole k → ¬hit k → k.id ≠ id → e.cmd? k.id = some k) ∧
      (c.arg 2 0 1 = 1 → ∀ q : Fin 64, (if c.arg 0 0 8 = 0 then s.dev.boundTo q t = true else q.val = t) →
        e.flag .CMD_SQ_CTRL_HALTED q = true) ∧
      (c.arg 2 0 1 = 0 → e.regs = s.dev.regs) ∧
      ((∀ k ∈ s.dev.cmds, ¬hit k) → e.readied id) ∧ e.mem = s.dev.mem ∧ e.link = s.dev.link) := by
  intro t hit
  have hid : c.id = id := by simpa using List.find?_some hc
  have hhit : ∀ k, (k.id != c.id && !k.ended && (if c.arg 0 0 8 = 0 then k.part == t else k.queue == t)) = true ↔ hit k := fun k => by
    rw [hid]
    show _ ↔ _ ∧ _ ∧ _
    split <;> simp [and_assoc]
  generalize hhits : (s.dev.cmds.filter (fun k => k.id != c.id && !k.ended &&
    (if c.arg 0 0 8 = 0 then k.part == t else k.queue == t))).map Cmd.id = hits
  have hmem : ∀ i, i ∈ hits ↔ ∃ k ∈ s.dev.cmds, hit k ∧ k.id = i := fun i => by
    simp only [← hhits, List.mem_map, List.mem_filter, hhit, and_assoc]
  have hsole : ∀ k, s.dev.sole k → (k.id ∈ hits ↔ hit k) := fun k hk => by
    rw [hmem]
    exact ⟨fun ⟨x, hx, hxh, hxi⟩ => hk.2 x hx hxi ▸ hxh, fun h => ⟨k, hk.1, h, rfl⟩⟩
  have hself : id ∉ hits := fun h => by
    obtain ⟨k, -, hk, hki⟩ := (hmem id).mp h
    exact hk.1 hki
  generalize hqs : (if c.arg 0 0 8 = 0 then (List.range 64).filter (fun q => s.dev.boundTo q t) else [t]) = qs
  generalize hm : (if c.arg 2 0 1 = 1 then qs.foldl (fun d q => d.setF .CMD_SQ_CTRL_HALTED 1 q) s.dev else s.dev) = m
  have hrow : s.dev.preemptRun id = (m.actOn id .killedPreempt hits).waitsDone id := by
    unfold Dev.preemptRun Dev.preemptAct
    have hgo : (!c.running || c.ready || decide (c.opcode ≠ 0x0C)) = false := by simp [hrun, hready, hop]
    rw [hc]
    dsimp only
    rw [hgo, if_neg (by decide), if_pos (by rw [hpassed]; rfl)]
    rw [hqs, hm, hhits, hid]
  obtain ⟨hhalted, hflags⟩ := s.dev.haltQueues_spec qs
  have hmrest : m = { s.dev with regs := m.regs } := by
    rw [← hm]
    split
    · exact hhalted
    · rfl
  have hmc : ∀ k, m.cmd? k = s.dev.cmd? k := fun k => by rw [hmrest]; rfl
  obtain ⟨hrest, hready', hothers⟩ := Dev.acted_spec .killedPreempt hits ((hmc id).trans hc) hrun hself
  refine Completes.of_engine (g := fun d => d.preemptRun id) rfl hstall ?_
  rw [hrow]
  generalize (m.actOn id .killedPreempt hits).waitsDone id = e at *
  have hregs : e.regs = m.regs := by rw [hrest]
  refine ⟨fun k hk hkh => ?_, fun k hk hkh hne => ?_, fun harg q hq => ?_, fun harg => ?_, fun hnone => ?_, ?_, ?_⟩
  · exact (hothers k.id k ((hmc _).trans hk.found) hkh.1).1 ((hsole k hk).mpr hkh) hkh.2.1
  · exact (hothers k.id k ((hmc _).trans hk.found) hne).2 (fun h => hkh ((hsole k hk).mp h))
  · have hqm : (q : Nat) ∈ qs := by
      rw [← hqs]
      by_cases hpart : c.arg 0 0 8 = 0
      · rw [if_pos hpart] at hq ⊢
        exact List.mem_filter.mpr ⟨List.mem_range.mpr q.isLt, hq⟩
      · rw [if_neg hpart] at hq ⊢
        exact List.mem_singleton.mpr hq
    have := hflags q hqm
    rw [if_pos harg] at hm
    rw [hm] at this
    unfold Dev.flag Dev.f Dev.reg at this ⊢
    rw [Dev.settle_regs, hregs]
    exact this
  · rw [Dev.settle_regs, hregs, ← hm, if_neg (by rw [harg]; decide)]
  · exact hready' (List.eq_nil_iff_forall_not_mem.mpr fun i hi => by
      obtain ⟨k, hk, hkh, -⟩ := (hmem i).mp hi
      exact hnone k hk hkh)
  · rw [Dev.settle_mem, hrest, hmrest]
  · rw [Dev.settle_link, hrest, hmrest]

/-! ## DISABLE -/

theorem Dev.failing.congr {d e : Dev} (h : e.cmds = d.cmds) {k : Nat} {st : Status} (hf : d.failing k st) : e.failing k st := by
  unfold Dev.failing Dev.cmd? at hf ⊢
  rwa [h]

theorem Dev.readied.congr {d e : Dev} (h : e.cmds = d.cmds) {k : Nat} (hr : d.readied k) : e.readied k := by
  unfold Dev.readied Dev.cmd? at hr ⊢
  rwa [h]

/-- The replacement reasons are noted in their register alone. -/
theorem Dev.noteReasons_sets (d : Dev) : Dev.setsOnly [.ERR_REPLACE] d d.noteReasons := (Dev.setsOnly.refl _ d).noteReasons (by simp)

/-- What a DISABLE does that has not acted yet. -/
theorem Dev.disableRun_acts {d : Dev} {id : Nat} {c : Cmd} (hc : d.cmd? id = some c) (hrun : c.running = true) (hready : c.ready = false)
    (hop : c.opcode = 0x0D) (hpassed : c.passed = []) : d.disableRun id = ((d.disableAct c).waitsDone id).noteReasons := by
  have hgo : (!c.running || c.ready || decide (c.opcode ≠ 0x0D)) = false := by simp [hrun, hready, hop]
  unfold Dev.disableRun
  rw [hc]
  dsimp only
  rw [hgo, if_neg (by decide), if_pos (by rw [hpassed]; rfl)]

/-- What is left when a DISABLE has killed a list of commands from a device with the same commands. -/
theorem disable_acted {s : State} {id : Nat} {c : Cmd} {m : Dev} {l : List Nat} (hc : s.dev.cmd? id = some c) (hrun : c.running = true)
    (hready : c.ready = false) (hstall : s.dev.stalled = false) (hop : c.opcode = 0x0D) (hpassed : c.passed = [])
    (hact : s.dev.disableAct c = m.actOn id .killedDisable l) (hm : m.cmds = s.dev.cmds) (hid : id ∉ l) {P : Dev → Prop}
    (hP : ∀ e, (∀ g i j, g.reg ≠ .ERR_REPLACE → e.f g i j = m.f g i j) → e.mem = m.mem → (l = [] → e.readied id) →
      (∀ k, s.dev.sole k → k.ended = false → k.id ∈ l → e.failing k.id .killedDisable) → P e) :
    Completes (.disable id) s P := by
  refine Completes.of_engine (g := fun d => d.disableRun id) rfl hstall ?_
  rw [Dev.disableRun_acts hc hrun hready hop hpassed, hact]
  have hmc : ∀ k, m.cmd? k = s.dev.cmd? k := fun k => by unfold Dev.cmd?; rw [hm]
  obtain ⟨hrest, hready', hothers⟩ := Dev.acted_spec .killedDisable l ((hmc id).trans hc) hrun hid
  generalize (m.actOn id .killedDisable l).waitsDone id = w at *
  have hsets := w.noteReasons_sets
  have hcmds : w.noteReasons.cmds = w.cmds := (congrArg Dev.cmds hsets.rest :)
  generalize w.noteReasons = e at *
  have hmem : e.mem = w.mem := (congrArg Dev.mem hsets.rest :)
  refine hP _ (fun g i j hg => ?_) ?_ (fun hl => (hready' hl).congr hcmds) (fun k hk hend hkl => ?_)
  · rw [Dev.settle_f, hsets.f g i j (by simpa using hg), hrest]
    rfl
  · rw [Dev.settle_mem, hmem, hrest]
  · have hne : k.id ≠ id := fun h => hid (h ▸ hkl)
    exact ((hothers k.id k ((hmc _).trans hk.found) hne).1 hkl hend).congr hcmds

theorem Dev.usesArray_live {d : Dev} {k : Cmd} {n : Nat} (h : d.usesArray k n = true) : k.ended = false := by
  unfold Dev.usesArray at h
  simp only [Bool.and_eq_true, Bool.not_eq_true'] at h
  exact h.1.2

/-- DISABLE of an array kills what uses it. -/
theorem disable_array_completes {s : State} {id : Nat} {c : Cmd} (hc : s.dev.cmd? id = some c) (hrun : c.running = true)
    (hready : c.ready = false) (hstall : s.dev.stalled = false) (hop : c.opcode = 0x0D) (hpassed : c.passed = []) (h0 : c.arg 0 0 8 = 0) :
    let i := c.arg 2 0 16
    Completes (.disable id) s (fun e =>
      (∀ k, s.dev.sole k → s.dev.arrState i = 0 → k.id ≠ id → s.dev.usesArray k i = true → e.failing k.id .killedDisable) ∧
      (s.dev.arrState i ≠ 0 → e.readied id) ∧ e.mem = s.dev.mem) := by
  intro i
  have hid : c.id = id := by simpa using List.find?_some hc
  generalize hl : (if s.dev.arrState i = 0 then s.dev.cmds.filter (fun k => k.id != c.id && s.dev.usesArray k i) else []).map Cmd.id = l
  have hself : id ∉ l := fun h => by
    rw [← hl] at h
    split at h
    · obtain ⟨k, hk, hki⟩ := List.mem_map.mp h
      simp [hid, hki] at hk
    · exact List.not_mem_nil h
  have hact : s.dev.disableAct c = s.dev.actOn id .killedDisable l := by
    unfold Dev.disableAct
    rw [h0, ← hl, ← hid]
    rfl
  refine disable_acted hc hrun hready hstall hop hpassed hact rfl hself (fun e _ hmem hreadied hfail => ⟨fun k hk hst hne huse => ?_,
    fun hst => hreadied ?_, hmem⟩)
  · refine hfail k hk (Dev.usesArray_live huse) ?_
    rw [← hl, if_pos hst]
    exact List.mem_map_of_mem (List.mem_filter.mpr ⟨hk.1, by simp [hid, hne, huse]⟩)
  · rw [← hl, if_neg hst]
    rfl

theorem Dev.linkUsers_spec {d : Dev} {id l i : Nat} (h : i ∈ d.linkUsers id l) : ∃ k ∈ d.cmds, k.id = i ∧ k.id ≠ id ∧ k.ended = false := by
  obtain ⟨k, hk, hki⟩ := List.mem_map.mp h
  obtain ⟨hkd, hk⟩ := List.mem_filter.mp hk
  simp only [Bool.and_eq_true, bne_iff_ne, Bool.not_eq_true'] at hk
  exact ⟨k, hkd, hki, hk.1.1, hk.1.2⟩

theorem Dev.linkUsers_live {d : Dev} {id l : Nat} {k : Cmd} (hk : d.sole k) (h : k.id ∈ d.linkUsers id l) : k.ended = false := by
  obtain ⟨x, hx, hxk, -, hend⟩ := Dev.linkUsers_spec h
  exact hk.2 x hx hxk ▸ hend

theorem Dev.linkUsers_self (d : Dev) (id l : Nat) : id ∉ d.linkUsers id l := fun h => by
  obtain ⟨k, -, hki, hne, -⟩ := Dev.linkUsers_spec h
  exact hne hki

/-- DISABLE of a link kills the commands with a billet queued for it. -/
theorem disable_link_completes {s : State} {id : Nat} {c : Cmd} (hc : s.dev.cmd? id = some c) (hrun : c.running = true)
    (hready : c.ready = false) (hstall : s.dev.stalled = false) (hop : c.opcode = 0x0D) (hpassed : c.passed = []) (h1 : c.arg 0 0 8 = 1) :
    let i := c.arg 2 0 16
    Completes (.disable id) s (fun e => e.linkState i = 5 ∧
      (∀ k, s.dev.sole k → k.id ∈ s.dev.linkUsers id i → e.failing k.id .killedDisable) ∧
      (s.dev.linkUsers id i = [] → e.readied id)) := by
  intro i
  have hid : c.id = id := by simpa using List.find?_some hc
  have hact : s.dev.disableAct c = (s.dev.disableLink i).actOn id .killedDisable (s.dev.linkUsers id i) := by
    unfold Dev.disableAct
    rw [h1, ← hid]
    rfl
  have hcmds : (s.dev.disableLink i).cmds = s.dev.cmds := by
    unfold Dev.disableLink
    split
    · rfl
    · exact (s.dev.linkGoDown_moves i 5).cmds
  have hstate : (s.dev.disableLink i).linkState i = 5 := by
    unfold Dev.disableLink
    split
    · assumption
    · exact (Dev.f_setF_apart _ .FAB_LINK_STATUS_CAUSE .FAB_LINK_STATUS_STATE 5 i 0 rfl (by decide) (by decide)).trans
        (Dev.linkState_setF _ 5 i)
  refine disable_acted hc hrun hready hstall hop hpassed hact hcmds (s.dev.linkUsers_self id i)
    (fun e hf _ hreadied hfail => ⟨(hf .FAB_LINK_STATUS_STATE i 0 (by decide)).trans hstate,
      fun k hk hki => hfail k hk (Dev.linkUsers_live hk hki) hki, hreadied⟩)

/-- DISABLE of a frame adds it to the retired frames. -/
theorem disable_frame_completes {s : State} {id : Nat} {c : Cmd} (hc : s.dev.cmd? id = some c) (hrun : c.running = true)
    (hready : c.ready = false) (hstall : s.dev.stalled = false) (hop : c.opcode = 0x0D) (hpassed : c.passed = []) (h3 : c.arg 0 0 8 = 3)
    (hnew : s.dev.mem.frames.contains (c.arg 8 0 64 / 65536) = false) (hroom : s.dev.mem.frames.length < 4096) :
    Completes (.disable id) s (fun e =>
      e.mem = { s.dev.mem with frames := s.dev.mem.frames ++ [c.arg 8 0 64 / 65536] } ∧
      e.f .TIER_RETIRED_FRAMES = s.dev.mem.frames.length + 1 ∧ e.readied id) := by
  have hid : c.id = id := by simpa using List.find?_some hc
  generalize hm : (Dev.setF { s.dev with mem := { s.dev.mem with frames := s.dev.mem.frames ++ [c.arg 8 0 64 / 65536] } }
    .TIER_RETIRED_FRAMES (s.dev.mem.frames ++ [c.arg 8 0 64 / 65536]).length) = m
  have hact : s.dev.disableAct c = m.actOn id .killedDisable [] := by
    have : s.dev.disableAct c = s.dev.disableFrame c (c.arg 8 0 64 / 65536) := by
      unfold Dev.disableAct
      rw [h3]
      rfl
    rw [this, Dev.disableFrame, hnew, if_neg (by decide), if_neg (by omega), ← hm, hid]
  have hmf : m.f .TIER_RETIRED_FRAMES = s.dev.mem.frames.length + 1 := by
    rw [← hm, Dev.f_setF_same _ _ _ _ _ (by decide), List.length_append, List.length_singleton]
    exact Nat.mod_eq_of_lt (Nat.lt_of_le_of_lt (Nat.succ_le_of_lt hroom) (by decide))
  refine disable_acted hc hrun hready hstall hop hpassed hact (by rw [← hm]; rfl) List.not_mem_nil
    (fun e hf hmem hreadied _ => ⟨by rw [hmem, ← hm]; rfl, (hf .TIER_RETIRED_FRAMES 0 0 (by decide)).trans hmf, hreadied rfl⟩)

/-- A link's loss leaves the lanes it has retired. -/
theorem Dev.linkGoDown_retired (d : Dev) (l cause : Nat) :
    (d.linkGoDown l cause).f .FAB_LINK_STATUS_RETIRED l = d.f .FAB_LINK_STATUS_RETIRED l := by
  obtain ⟨m, hm, hcase⟩ := d.linkGoDown_cases l cause
  rw [hm.f .FAB_LINK_STATUS_RETIRED l 0 (by decide)]
  have hstate : ∀ n, (d.setF .FAB_LINK_STATUS_STATE n l).f .FAB_LINK_STATUS_RETIRED l = d.f .FAB_LINK_STATUS_RETIRED l := fun n =>
    d.f_setF_apart .FAB_LINK_STATUS_STATE .FAB_LINK_STATUS_RETIRED n l 0 rfl (by decide) (by decide)
  obtain ⟨-, rfl⟩ | ⟨-, rfl⟩ | rfl := hcase
  · rfl
  · exact hstate 1
  · exact (Dev.f_setF_apart _ .FAB_LINK_STATUS_CAUSE .FAB_LINK_STATUS_RETIRED cause l 0 rfl (by decide) (by decide)).trans (hstate 0)

/-- A link with one more lane retired, before it goes down. -/
def Dev.laneRetired (d : Dev) (l lane : Nat) : Dev :=
  let m := d.setF .FAB_LINK_STATUS_RETIRED (setBit (d.f .FAB_LINK_STATUS_RETIRED l) lane true) l
  if m.f .FAB_LINK_STATUS_LANES l = 0 then m else m.setF .FAB_LINK_STATUS_LANES (setBit (d.lanesOf l) lane false) l

theorem Dev.laneRetired_rest (d : Dev) (l lane : Nat) : d.laneRetired l lane = { d with regs := (d.laneRetired l lane).regs } := by
  unfold Dev.laneRetired
  dsimp only
  split <;> rfl

/-- The lane shows as retired. -/
theorem Dev.laneRetired_bit (d : Dev) (l : Nat) {lane : Nat} (h : lane < 4) :
    bit ((d.laneRetired l lane).f .FAB_LINK_STATUS_RETIRED l) lane = true := by
  have hput : bit ((d.setF .FAB_LINK_STATUS_RETIRED (setBit (d.f .FAB_LINK_STATUS_RETIRED l) lane true) l).f
      .FAB_LINK_STATUS_RETIRED l) lane = true := by
    rw [Dev.f_setF_same _ _ _ _ _ (by decide), bit_eq_testBit, Nat.testBit_mod_two_pow, ← bit_eq_testBit, bit_setBit, if_pos rfl]
    simpa using h
  unfold Dev.laneRetired
  dsimp only
  split
  · exact hput
  · rwa [Dev.f_setF_apart _ .FAB_LINK_STATUS_LANES .FAB_LINK_STATUS_RETIRED _ _ _ rfl (by decide) (by decide)]

/-- A command with a cause of failure is not made ready. -/
theorem Dev.waitsDone_failing {d : Dev} {id : Nat} {st : Status} (h : d.failing id st) : d.waitsDone id = d := by
  obtain ⟨k, hk, hst⟩ := h
  have hrun : k.running = false := by
    have : k.causes ≠ [] := List.ne_nil_of_mem hst
    simp [Cmd.running, this]
  unfold Dev.waitsDone
  rw [hk]
  simp [hrun]

/-- DISABLE of a lane retires it and kills the commands with a billet queued for the link, unless fewer than two would be left. -/
theorem disable_lane_completes {s : State} {id : Nat} {c : Cmd} (hc : s.dev.cmd? id = some c) (hrun : c.running = true)
    (hready : c.ready = false) (hstall : s.dev.stalled = false) (hop : c.opcode = 0x0D) (hpassed : c.passed = []) (h2 : c.arg 0 0 8 = 2)
    (hlane : c.arg 4 0 8 < 4) :
    let i := c.arg 2 0 16
    let left := setBit (s.dev.lanesOf i) (c.arg 4 0 8) false
    Completes (.disable id) s (fun e =>
      (2 ≤ popCount left 4 → bit (e.f .FAB_LINK_STATUS_RETIRED i) (c.arg 4 0 8) = true ∧ e.linkState i ≠ 3 ∧
        (∀ k, s.dev.sole k → k.id ∈ s.dev.linkUsers id i → e.failing k.id .killedDisable) ∧
        (s.dev.linkUsers id i = [] → e.readied id)) ∧
      (popCount left 4 < 2 → e.failing id .badDescriptor ∧
        e.f .FAB_LINK_STATUS_RETIRED i = s.dev.f .FAB_LINK_STATUS_RETIRED i)) := by
  intro i left
  have hid : c.id = id := by simpa using List.find?_some hc
  have hact : s.dev.disableAct c = s.dev.disableLane c i (c.arg 4 0 8) := by
    unfold Dev.disableAct
    rw [h2]
    rfl
  by_cases hleft : popCount left 4 < 2
  · have hfail : s.dev.disableLane c i (c.arg 4 0 8) = s.dev.failCmd id .badDescriptor := by
      rw [← hid]
      exact if_pos hleft
    have hlive : c.ended = false := by
      simp only [Cmd.running, Bool.and_eq_true, Bool.not_eq_true'] at hrun
      exact hrun.1.2
    have hfailing := Dev.failing_failCmd .badDescriptor hc hlive
    refine Completes.of_engine (g := fun d => d.disableRun id) rfl hstall ?_
    rw [Dev.disableRun_acts hc hrun hready hop hpassed, hact, hfail, Dev.waitsDone_failing hfailing]
    have hsets := (s.dev.failCmd id .badDescriptor).noteReasons_sets
    refine ⟨fun h => absurd hleft (by omega), fun _ => ⟨hfailing.congr (congrArg Dev.cmds hsets.rest :), ?_⟩⟩
    exact hsets.f .FAB_LINK_STATUS_RETIRED i 0 (by decide)
  · have hacted : s.dev.disableAct c =
        ((s.dev.laneRetired i (c.arg 4 0 8)).linkGoDown i 5).actOn id .killedDisable (s.dev.linkUsers id i) := by
      have husers : (s.dev.laneRetired i (c.arg 4 0 8)).linkUsers c.id i = s.dev.linkUsers id i := by
        rw [Dev.laneRetired_rest, hid]
        rfl
      rw [hact, ← husers, ← hid]
      exact if_neg hleft
    have hcmds : ((s.dev.laneRetired i (c.arg 4 0 8)).linkGoDown i 5).cmds = s.dev.cmds := by
      rw [(Dev.linkGoDown_moves _ i 5).cmds, Dev.laneRetired_rest]
    refine disable_acted hc hrun hready hstall hop hpassed hacted hcmds (s.dev.linkUsers_self id i)
      (fun e hf _ hreadied hfail => ⟨fun _ => ⟨?_, ?_, fun k hk hki => hfail k hk (Dev.linkUsers_live hk hki) hki, hreadied⟩,
        fun h => absurd h hleft⟩)
    · rw [hf .FAB_LINK_STATUS_RETIRED i 0 (by decide), Dev.linkGoDown_retired]
      exact s.dev.laneRetired_bit i hlane
    · rw [Dev.linkState, hf .FAB_LINK_STATUS_STATE i 0 (by decide)]
      exact (Dev.linkGoDown_state _ 5).1

/-- Settles O43: each control command acts once, on the commands its target names, and waits for those it kills. -/
theorem controlCommandsAct : Obligations.ControlCommandsAct := by
  unfold Obligations.ControlCommandsAct
  intro s id c hc hrun hready hstall
  exact ⟨fence_completes hc hrun hready hstall, preempt_completes hc hrun hready hstall, fun hop hpassed =>
    ⟨disable_array_completes hc hrun hready hstall hop hpassed, disable_link_completes hc hrun hready hstall hop hpassed,
      fun h2 _ hlane => disable_lane_completes hc hrun hready hstall hop hpassed h2 hlane,
      disable_frame_completes hc hrun hready hstall hop hpassed⟩, enableSpare_completes hc hrun hready hstall⟩

end Sys2Proof.Machine
end

section

/-! PROOFS. Live commands, their failure, and the reports of failed accesses (R215, R217, R218, R390). -/

namespace Sys2Proof.Machine

/-! ## Live commands and their failure -/

/-- A command in flight that has not ended. -/
def Dev.live (d : Dev) (id : Nat) : Prop := ∃ k, d.cmd? id = some k ∧ k.ended = false

/-- Where the numbers and ends of commands are kept, a command that lives still lives. -/
theorem Dev.live_of_kept {d e : Dev} {id : Nat} (h : e.kept = d.kept) (hl : d.live id) : e.live id := by
  obtain ⟨k, hk, hend⟩ := hl
  have hends : e.cmds.map (fun c => (c.id, c.ended)) = d.cmds.map (fun c => (c.id, c.ended)) := by
    have hall : e.cmds.map (fun c => (c.id, c.ended, c.claims)) = d.cmds.map (fun c => (c.id, c.ended, c.claims)) :=
      congrArg Kept.ends h
    have := congrArg (List.map (fun x : Nat × Bool × List Claim => (x.1, x.2.1))) hall
    rw [List.map_map, List.map_map] at this
    exact this
  have hfind : ∀ l : List Cmd, (l.find? (fun c => c.id == id)).map (fun c => (c.id, c.ended)) =
      (l.map (fun c => (c.id, c.ended))).find? (fun x => x.1 == id) := fun l => by
    rw [List.find?_map]
    rfl
  have hsame : (e.cmd? id).map (fun c => (c.id, c.ended)) = (d.cmd? id).map (fun c => (c.id, c.ended)) := by
    unfold Dev.cmd?
    rw [hfind, hfind, hends]
  rw [hk] at hsame
  obtain ⟨q, hq, hqe⟩ := Option.map_eq_some_iff.mp hsame
  exact ⟨q, hq, (congrArg Prod.snd hqe).trans hend⟩

theorem Dev.live_of_running {d : Dev} {id : Nat} {c : Cmd} (hc : d.cmd? id = some c) (hrun : c.running = true) : d.live id := by
  simp only [Cmd.running, Bool.and_eq_true, Bool.not_eq_true'] at hrun
  exact ⟨c, hc, hrun.1.2⟩

/-- A part of a live command that fails leaves the command with a cause. -/
theorem Dev.failed_failPart {d : Dev} {id : Nat} (j : Nat) (st : Status) (h : d.live id) : (d.failPart id j st).failed id := by
  obtain ⟨k, hk, hend⟩ := h
  refine ⟨_, Dev.cmd?_updCmd_some _ hk (fun c => by split_ifs <;> rfl), ?_⟩
  rw [hend, if_neg (by decide)]
  split <;> simp

theorem Dev.failed_failCmd {d : Dev} {id : Nat} (st : Status) (h : d.live id) : (d.failCmd id st).failed id := by
  obtain ⟨k, hk, hend⟩ := h
  obtain ⟨q, hq, hst⟩ := Dev.failing_failCmd st hk hend
  exact ⟨q, hq, List.ne_nil_of_mem hst⟩

/-- An access that fails for a part of a live command leaves the command with a cause. -/
theorem Dev.failed_memFail {d : Dev} {id : Nat} (j : Nat) (e : MemErr) (h : d.live id) : (d.memFail id j e).failed id :=
  Dev.failed_failPart j e.status (Dev.live_of_kept (d.memReport_kept (some id) e) h)

/-! ## Reports of failed accesses -/

/-- A report about a command, or about none. -/
def Dev.tell (d : Dev) (id : Option Nat) (c : Code) (st addr index : Nat) (who : Who) : Dev :=
  id.elim (d.post c addr index who) (fun i => d.postCmd i c st addr index)

@[simp] theorem Dev.postCmd_mem (d : Dev) (id : Nat) (c : Code) (st addr index n : Nat) : (d.postCmd id c st addr index n).mem = d.mem := by
  obtain ⟨who, h⟩ := d.postCmd_eq id c st addr index n
  rw [h]
  exact Dev.post_mem ..

theorem Dev.reg_postCmd (d : Dev) (id : Nat) (c : Code) (st addr index n : Nat) {r : Reg} (i j : Nat) (h : r ≠ .ERR_STATUS) :
    (d.postCmd id c st addr index n).reg r i j = d.reg r i j := by
  obtain ⟨who, he⟩ := d.postCmd_eq id c st addr index n
  rw [he]
  exact d.reg_post c addr index who n i j (fun hc => h (Reg.code_reg hc))

/-- A report is the last that is held, and changes beside it no memory and no register but ERR_STATUS. -/
theorem Dev.tell_spec (d : Dev) (id : Option Nat) (c : Code) (st addr index : Nat) (who : Who) :
    (d.tell id c st addr index who).mem = d.mem ∧
    (∀ r i j, r ≠ .ERR_STATUS → (d.tell id c st addr index who).reg r i j = d.reg r i j) ∧
    d.posted (d.tell id c st addr index who) c (fun r => r.address = addr ∧ r.index = index) := by
  cases id with
  | none => exact ⟨Dev.post_mem .., fun r i j h => d.reg_post c addr index who 0 i j (fun hc => h (Reg.code_reg hc)),
      d.post_posted_of c addr index who 0 ⟨rfl, rfl⟩⟩
  | some k =>
    obtain ⟨who, he⟩ := d.postCmd_eq k c st addr index 0
    refine ⟨d.postCmd_mem k c st addr index 0, fun r i j h => d.reg_postCmd k c st addr index 0 i j h, ?_⟩
    show d.posted (d.postCmd k c st addr index 0) c _
    rw [he]
    exact Dev.posted_congr (d' := d) rfl rfl rfl (d.post_posted_of c addr index who 0 ⟨rfl, rfl⟩)

/-- An uncorrectable HBM error, for a command or none, is counted and latched; no byte changes. -/
theorem Dev.hbmUe_spec (d : Dev) (id : Option Nat) (a : Nat) :
    d.bumped (d.hbmUe id a) .TIER_HBM_ERR_UNCORRECTABLE 1 (bits a 12 3) ∧
    (d.hbmUe id a).reg .TIER_UE_ADDR = BitVec.ofNat 64 (a % 2 ^ 40) ∧ (d.hbmUe id a).mem = d.mem := by
  obtain ⟨hb, -, hmem, -, -⟩ :=
    d.rateCounted_frame .TIER_HBM_ERR_UNCORRECTABLE (bits a 12 3) 2 (bits a 12 3) 1 (by decide) (by decide) (by decide)
  have htell : d.hbmUe id a = (((d.addF .TIER_HBM_ERR_UNCORRECTABLE 1 (bits a 12 3)).rateEvent 2 (bits a 12 3) 1).setReg .TIER_UE_ADDR
      (BitVec.ofNat 64 (a % 2 ^ 40))).tell id .TIER_HBM_UE Status.faultData.num a 0 {} := by
    unfold Dev.hbmUe
    cases id <;> rfl
  rw [htell]
  generalize (d.addF .TIER_HBM_ERR_UNCORRECTABLE 1 (bits a 12 3)).rateEvent 2 (bits a 12 3) 1 = m at *
  obtain ⟨htm, htr, -⟩ := (m.setReg .TIER_UE_ADDR (BitVec.ofNat 64 (a % 2 ^ 40))).tell_spec id .TIER_HBM_UE Status.faultData.num a 0 {}
  refine ⟨?_, ?_, htm.trans hmem⟩
  · rw [Dev.bumped, ← hb]
    exact congrArg Fld.TIER_HBM_ERR_UNCORRECTABLE.of ((htr _ _ _ (by decide)).trans (m.reg_setReg_ne _ _ _ _ _ (by decide)))
  · exact (htr _ _ _ (by decide)).trans (m.reg_setReg_same _ _ _ _)

/-- A double error of a slab word, for a command or none, is counted and latched; no byte changes. -/
theorem Dev.slabUe_spec (d : Dev) (id : Option Nat) (arr off : Nat) :
    d.bumped (d.slabUe id arr off) .TIER_SLAB_ERR_UNCORRECTABLE 1 ∧
    (d.slabUe id arr off).reg .TIER_UE_ADDR = BitVec.ofNat 64 (2 ^ 40 + arr * 4194304 + off) ∧ (d.slabUe id arr off).mem = d.mem := by
  have hb := d.bumped_addF .TIER_SLAB_ERR_UNCORRECTABLE 1 0 0 (by decide)
  have hm : (d.addF .TIER_SLAB_ERR_UNCORRECTABLE 1).mem = d.mem := rfl
  have htell : d.slabUe id arr off = ((d.addF .TIER_SLAB_ERR_UNCORRECTABLE 1).setReg .TIER_UE_ADDR
      (BitVec.ofNat 64 (2 ^ 40 + arr * 4194304 + off))).tell id .TIER_SLAB_UE Status.faultData.num off (arr * 2 ^ 40) {} := by
    unfold Dev.slabUe
    cases id <;> rfl
  rw [htell]
  generalize d.addF .TIER_SLAB_ERR_UNCORRECTABLE 1 = m at *
  obtain ⟨htm, htr, -⟩ := (m.setReg .TIER_UE_ADDR (BitVec.ofNat 64 (2 ^ 40 + arr * 4194304 + off))).tell_spec id .TIER_SLAB_UE
    Status.faultData.num off (arr * 2 ^ 40) {}
  refine ⟨?_, ?_, htm.trans hm⟩
  · rw [Dev.bumped, ← hb]
    exact congrArg Fld.TIER_SLAB_ERR_UNCORRECTABLE.of ((htr _ _ _ (by decide)).trans (m.reg_setReg_ne _ _ _ _ _ (by decide)))
  · exact (htr _ _ _ (by decide)).trans (m.reg_setReg_same _ _ _ _)

/-- The latch of a translation fault, where it is free. -/
def Dev.latchXu (d : Dev) (p : Nat) (v tag : BitVec 64) : Dev :=
  if d.flag .XU_FAULT_VALID p then d else (d.setReg .XU_FAULT v p).setReg .XU_FAULT_TAG tag p

theorem Dev.latchXu_spec (d : Dev) (p : Nat) (v tag : BitVec 64) :
    (d.latchXu p v tag).mem = d.mem ∧ (d.latchXu p v tag).f .XU_FAULT_CNT_FAULTS p = d.f .XU_FAULT_CNT_FAULTS p ∧
    (Fld.XU_FAULT_VALID.of v = 1 → (d.latchXu p v tag).flag .XU_FAULT_VALID p = true) := by
  unfold Dev.latchXu
  split
  · exact ⟨rfl, rfl, fun _ => ‹_›⟩
  · refine ⟨rfl, congrArg Fld.XU_FAULT_CNT_FAULTS.of ?_, fun hv => Dev.flag_of_one ?_⟩
    · exact ((d.setReg .XU_FAULT v p).reg_setReg_ne _ _ _ _ _ (by decide)).trans (d.reg_setReg_ne _ _ _ _ _ (by decide))
    · refine Eq.trans (congrArg Fld.XU_FAULT_VALID.of ?_) hv
      exact ((d.setReg .XU_FAULT v p).reg_setReg_ne _ _ _ _ _ (by decide)).trans (d.reg_setReg_same _ _ _ _)

/-- A latched fault shows VALID. -/
theorem Fld.XU_FAULT_VALID_of {n : Nat} (h : n < 2 ^ 63) : Fld.XU_FAULT_VALID.of (BitVec.ofNat 64 (n + 2 ^ 63)) = 1 := by
  unfold Fld.of bits
  rw [BitVec.toNat_ofNat]
  show (n + 2 ^ 63) % 2 ^ 64 / 2 ^ 63 % 2 ^ 1 = 1
  omega

/-- The report of a translation fault: the count, the latch, then the record. -/
theorem Dev.xuFault_eq (d : Dev) (id : Option Nat) (p va kind : Nat) (w : Bool) : ∃ tag who,
    d.xuFault id p va kind w = ((d.addF .XU_FAULT_CNT_FAULTS 1 p).latchXu p
      (BitVec.ofNat 64 (va % 2 ^ 48 + kind * 2 ^ 48 + b2n w * 2 ^ 51 + 2 ^ 63)) tag).tell id .XU_FAULT Status.faultXlat.num va kind who := by
  generalize hv : BitVec.ofNat 64 (va % 2 ^ 48 + kind * 2 ^ 48 + b2n w * 2 ^ 51 + 2 ^ 63) = v
  unfold Dev.xuFault
  rw [hv]
  cases id with
  | none => exact ⟨_, _, rfl⟩
  | some i => exact ⟨_, {}, rfl⟩

/-- A translation fault, for a command or none, is counted and latched; no byte changes. -/
theorem Dev.xuFault_spec (d : Dev) (id : Option Nat) (p va kind : Nat) (w : Bool) :
    d.bumped (d.xuFault id p va kind w) .XU_FAULT_CNT_FAULTS 1 p ∧ (kind < 8 → (d.xuFault id p va kind w).flag .XU_FAULT_VALID p = true) ∧
    (d.xuFault id p va kind w).mem = d.mem := by
  obtain ⟨tag, who, he⟩ := d.xuFault_eq id p va kind w
  have hvalid : kind < 8 → Fld.XU_FAULT_VALID.of (BitVec.ofNat 64 (va % 2 ^ 48 + kind * 2 ^ 48 + b2n w * 2 ^ 51 + 2 ^ 63)) = 1 := fun hk => by
    have hw : b2n w ≤ 1 := by cases w <;> decide
    exact Fld.XU_FAULT_VALID_of (by omega)
  rw [he]
  generalize BitVec.ofNat 64 (va % 2 ^ 48 + kind * 2 ^ 48 + b2n w * 2 ^ 51 + 2 ^ 63) = v at *
  have hb := d.bumped_addF .XU_FAULT_CNT_FAULTS 1 p 0 (by decide)
  have hmem : (d.addF .XU_FAULT_CNT_FAULTS 1 p).mem = d.mem := rfl
  generalize d.addF .XU_FAULT_CNT_FAULTS 1 p = m at *
  obtain ⟨hlm, hlf, hlv⟩ := m.latchXu_spec p v tag
  generalize m.latchXu p v tag = l at *
  obtain ⟨htm, htr, -⟩ := l.tell_spec id .XU_FAULT Status.faultXlat.num va kind who
  have hf : ∀ g : Fld, g.reg ≠ .ERR_STATUS → (l.tell id .XU_FAULT Status.faultXlat.num va kind who).f g p = l.f g p :=
    fun g hg => congrArg g.of (htr g.reg p 0 hg)
  refine ⟨?_, fun hk => ?_, htm.trans (hlm.trans hmem)⟩
  · rw [Dev.bumped, hf _ (by decide), hlf]
    exact hb
  · rw [Dev.flag, hf _ (by decide)]
    exact hlv (hvalid hk)

/-- The report and latches of a failed access leave memory. -/
@[simp] theorem Dev.memReport_mem (d : Dev) (id : Option Nat) (e : MemErr) : (d.memReport id e).mem = d.mem := by
  cases e with
  | range a => cases id <;> simp [Dev.memReport]
  | retired => rfl
  | badLine a => exact (d.hbmUe_spec id a).2.2
  | badWord arr off => exact (d.slabUe_spec id arr off).2.2
  | xlat p va k w => exact (d.xuFault_spec id p va k w).2.2

end Sys2Proof.Machine
end

section

/-! PROOFS. Reads of memory change the translation cache and its walk count alone (R213, R214); failed accesses
(FailedAccessesReported). -/

namespace Sys2Proof.Machine

/-! ## What a read leaves -/

/-- The device but for the translation cache and its walk count. -/
def Dev.unread (d : Dev) : Dev × (Reg → Nat → Nat → BitVec 64) :=
  ({ d with regs := [], mem := { d.mem with xu := [] } }, fun r i j => if r = .XU_WALKS then 0 else d.reg r i j)

section
variable {d e : Dev}

theorem Dev.unread_reg (h : e.unread = d.unread) {r : Reg} (hr : r ≠ .XU_WALKS) (i j : Nat) : e.reg r i j = d.reg r i j := by
  simpa only [Dev.unread, if_neg hr] using congrFun (congrFun (congrFun (congrArg Prod.snd h) r) i) j

theorem Dev.unread_f (h : e.unread = d.unread) {g : Fld} (hg : g.reg ≠ .XU_WALKS) (i j : Nat) : e.f g i j = d.f g i j :=
  congrArg g.of (Dev.unread_reg h hg i j)

theorem Dev.unread_rest (h : e.unread = d.unread) : { e with regs := d.regs, mem := { e.mem with xu := d.mem.xu } } = d := by
  have h1 : ({ e with regs := [], mem := { e.mem with xu := [] } } : Dev) = { d with regs := [], mem := { d.mem with xu := [] } } :=
    congrArg Prod.fst h
  exact congrArg (fun x : Dev => { x with regs := d.regs, mem := { x.mem with xu := d.mem.xu } }) h1

theorem Dev.unread_congr (hreg : ∀ r i j, r ≠ .XU_WALKS → e.reg r i j = d.reg r i j)
    (hrest : { e with regs := d.regs, mem := { e.mem with xu := d.mem.xu } } = d) : e.unread = d.unread := by
  refine Prod.ext ?_ (funext fun r => funext fun i => funext fun j => ?_)
  · exact (congrArg (fun x : Dev => ({ x with regs := [], mem := { x.mem with xu := [] } } : Dev)) hrest :)
  · show (if r = .XU_WALKS then 0 else e.reg r i j) = if r = .XU_WALKS then 0 else d.reg r i j
    split
    · rfl
    · exact hreg r i j ‹_›

end

variable (d : Dev)

theorem Dev.cached_unread (x : List XuPage) : Dev.unread { d with mem := { d.mem with xu := x } } = d.unread := by
  exact Dev.unread_congr (fun _ _ _ _ => rfl) rfl

theorem Dev.walked_unread (n : Nat) : (d.addF .XU_WALKS_WALKS n).unread = d.unread :=
  Dev.unread_congr (fun r i j hr => d.reg_setF_ne .XU_WALKS_WALKS r _ 0 0 i j (fun hc => hr (Reg.code_reg hc))) rfl

@[simp] theorem Dev.translate_unread (p va : Nat) (w : Bool) : (d.translate p va w).1.unread = d.unread := by
  have hwalk := d.walked_unread 1
  unfold Dev.translate
  split
  · split <;> rfl
  · dsimp only
    split
    · exact hwalk
    · split
      · exact hwalk
      · exact (Dev.cached_unread _ _).trans hwalk

@[simp] theorem Dev.pieces_unread (p : Nat) (w : Bool) (fuel va n : Nat) : (d.pieces p w fuel va n).1.unread = d.unread := by
  induction fuel generalizing d va n with
  | zero => rfl
  | succ fuel ih =>
    unfold Dev.pieces
    split
    · rfl
    · have ht := d.translate_unread p va w
      dsimp only
      split
      · simp_all
      · rename_i e pa h
        have hp := ih e (va + min n (65536 - va % 65536)) (n - min n (65536 - va % 65536))
        split <;> simp_all

@[simp] theorem Dev.vaRead_unread (p va n : Nat) : (d.vaRead p va n).1.unread = d.unread := by
  have h := d.pieces_unread p false (n / 65536 + 2) va n
  unfold Dev.vaRead
  split <;> simp_all

@[simp] theorem Dev.verReadM_unread (v : Version) (m off n : Nat) : (d.verReadM v m off n).1.unread = d.unread := by
  unfold Dev.verReadM
  split <;> simp

@[simp] theorem Dev.verRead_unread (v : Version) (off n : Nat) : (d.verRead v off n).1.unread = d.unread := d.verReadM_unread ..

/-! ## The kinds of translation faults (Table 10.6) -/

/-- A translation fault of a kind that the latch holds, or another error. -/
def MemErr.kindFits : MemErr → Prop
  | .xlat _ _ k _ => k < 8
  | _ => True

theorem Dev.physRead_kindFits {d : Dev} {a n : Nat} {e : MemErr} (h : d.physRead a n = .error e) : e.kindFits := by
  unfold Dev.physRead Dev.physCheck at h
  split at h
  · rename_i hc
    cases h
    split at hc
    · cases hc; trivial
    · split at hc <;> cases hc
      trivial
  · split at h <;> cases h
    trivial

/-- Only errors of the given kind are thrown. -/
def throwsOnly {ε α : Type} (P : ε → Prop) (m : Except ε α) : Prop := ∀ e, m = .error e → P e

theorem throwsOnly.bind {ε α β : Type} {P : ε → Prop} {m : Except ε α} {f : α → Except ε β} (hm : throwsOnly P m)
    (hf : ∀ a, throwsOnly P (f a)) : throwsOnly P (m >>= f) := by
  intro e he
  cases m with
  | error x => cases he; exact hm _ rfl
  | ok a => exact hf a e he

theorem throwsOnly.pure {ε α : Type} {P : ε → Prop} (a : α) : throwsOnly P (.ok a : Except ε α) := fun _ h => by cases h

theorem throwsOnly.throw {ε α : Type} {P : ε → Prop} {e : ε} (h : P e) : throwsOnly P (.error e : Except ε α) := fun _ he => by
  cases he; exact h

theorem Dev.walkEntry_kindFits (p va level table idx : Nat) (w : Bool) :
    throwsOnly MemErr.kindFits (d.walkEntry p va level table idx w) := by
  have hthrow : ∀ {α : Type} k, k < 8 → throwsOnly MemErr.kindFits (throw (.xlat p va k w) : Except MemErr α) := fun k hk => .throw hk
  have hread : throwsOnly MemErr.kindFits (d.physRead (table + 8 * idx) 8) := fun _ => Dev.physRead_kindFits
  unfold Dev.walkEntry
  dsimp only
  split
  · exact hthrow 4 (by decide)
  · refine throwsOnly.bind hread fun bs => ?_
    generalize (if level = 1 then 65536 else _) = align
    split
    · exact hthrow 1 (by decide)
    · split
      · exact hthrow 3 (by decide)
      · split
        · exact hthrow 4 (by decide)
        · exact .pure _

theorem Dev.walk_kindFits (p va : Nat) (w : Bool) : throwsOnly MemErr.kindFits (d.walk p va w) := by
  have hentry : ∀ level table idx, throwsOnly MemErr.kindFits (d.walkEntry p va level table idx w) :=
    fun level table idx => d.walkEntry_kindFits p va level table idx w
  unfold Dev.walk
  dsimp only
  split
  · exact .throw (show (0 : Nat) < 8 by decide)
  · refine throwsOnly.bind (hentry _ _ _) fun _ => throwsOnly.bind (hentry _ _ _) fun e => ?_
    split
    · exact .pure _
    · exact throwsOnly.bind (hentry _ _ _) fun _ => .pure _

/-- A translation fault is of one of the five kinds. -/
theorem Dev.translate_kindFits {p va : Nat} {w : Bool} {e : MemErr} (h : (d.translate p va w).2 = .error e) : e.kindFits := by
  unfold Dev.translate at h
  split at h
  · split at h <;> cases h
    exact (by decide : 2 < 8)
  · dsimp only at h
    split at h
    · cases h
      exact (d.addF .XU_WALKS_WALKS 1).walk_kindFits p va w _ ‹_›
    · split at h <;> cases h
      exact (by decide : 2 < 8)

/-! ## The obligation -/

theorem Dev.reg_of_regs {d e : Dev} (h : e.regs = d.regs) (r : Reg) (i j : Nat) : e.reg r i j = d.reg r i j := by
  simp only [Dev.reg, h]

theorem Dev.f_of_regs {d e : Dev} (h : e.regs = d.regs) (g : Fld) (i j : Nat) : e.f g i j = d.f g i j := by
  simp only [Dev.f, Dev.reg, h]

/-- What a failed access leaves: memory as it was, no command ended, and its command with a cause. -/
theorem accessFails_spec {d : Dev} {id : Option Nat} (j : Nat) (x : MemErr) (halive : d.alive id = true) :
    d.noneEnds (d.accessFails id j x) ∧ (d.accessFails id j x).mem = d.mem ∧
    (d.accessFails id j x).regs = (d.memReport id x).regs ∧ (d.accessFails id j x).link = (d.memReport id x).link ∧
    (∀ i, id = some i → (d.accessFails id j x).failed i) := by
  cases id with
  | none =>
    exact ⟨Dev.noneEnds_of_kept (d.memReport_kept none x), d.memReport_mem none x, rfl, rfl, fun i hi => by cases hi⟩
  | some i =>
    refine ⟨Dev.noneEnds_of_kept (d.memFail_kept i j x), d.memReport_mem (some i) x, rfl, rfl, fun k hk => ?_⟩
    cases hk
    unfold Dev.alive at halive
    obtain ⟨c, hc, hrun⟩ := (Option.any_eq_true ..).mp halive
    exact Dev.failed_memFail j x (Dev.live_of_running hc hrun)

section
variable {d m : Dev} {id j va : Nat} {w : Bool} {c : Cmd}

theorem Dev.xuEvent_fails (hc : d.cmd? id = some c) (hrun : c.running = true) {x : MemErr}
    (h : d.translate c.part va w = (m, .error x)) : d.xuEvent id j va w = m.memFail id j x := by
  simp [Dev.xuEvent, hc, hrun, h]

theorem Dev.xuEvent_passes (hc : d.cmd? id = some c) (hrun : c.running = true) {a : Nat}
    (h : d.translate c.part va w = (m, .ok a)) : d.xuEvent id j va w = m := by
  simp [Dev.xuEvent, hc, hrun, h]

end

/-- XU_FAULT: an address that does not translate is counted and latched, and fails the command. -/
theorem xuFault_completes {s : State} {id part : Nat} {va : BitVec 48} {write : Bool} {c : Cmd} (hstall : s.dev.stalled = false)
    (hc : s.dev.cmd? id = some c) (hrun : c.running = true) :
    Completes (.xuFault id part va write) s (fun e => e.mem.hbm = s.dev.mem.hbm ∧ e.mem.slab = s.dev.mem.slab ∧
      s.dev.noneEnds e ∧
      (∀ p v k w, (s.dev.translate c.part va.toNat write).2 = .error (.xlat p v k w) →
        s.dev.bumped e .XU_FAULT_CNT_FAULTS 1 p ∧ e.flag .XU_FAULT_VALID p = true ∧ e.failed id) ∧
      (∀ x, (s.dev.translate c.part va.toNat write).2 = .error x → e.failed id) ∧
      (∀ a, (s.dev.translate c.part va.toNat write).2 = .ok a → e.cmds = s.dev.cmds ∧ e.link = s.dev.link)) := by
  refine Completes.of_engine (g := fun d => d.xuEvent id part va.toNat write) rfl hstall ?_
  have hkind : ∀ {e}, (s.dev.translate c.part va.toNat write).2 = .error e → e.kindFits := s.dev.translate_kindFits
  have hread := s.dev.translate_unread c.part va.toNat write
  have hkept := s.dev.translate_kept c.part va.toNat write
  rcases hm : s.dev.translate c.part va.toNat write with ⟨m, x | a⟩ <;> rw [hm] at hkind hread hkept
  · rw [Dev.xuEvent_fails hc hrun hm]
    have hlive := Dev.live_of_kept hkept (Dev.live_of_running hc hrun)
    have hmem := Dev.unread_rest hread
    have hends : s.dev.noneEnds (m.memFail id part x) := Dev.noneEnds_of_kept ((m.memFail_kept id part x).trans hkept)
    have hm' : (m.memFail id part x).mem = m.mem := m.memReport_mem (some id) x
    have hfail := Dev.failed_memFail part x hlive
    refine ⟨?_, ?_, hends, ?_, fun _ _ => hfail, fun a ha => by cases ha⟩
    · exact (congrArg MemSt.hbm hm').trans (congrArg (fun y => y.mem.hbm) hmem)
    · exact (congrArg MemSt.slab hm').trans (congrArg (fun y => y.mem.slab) hmem)
    · rintro p v k w ⟨⟩
      obtain ⟨hb, hv, -⟩ := m.xuFault_spec (some id) p v k w
      refine ⟨?_, hv (hkind rfl), hfail⟩
      rw [Dev.bumped, ← Dev.unread_f hread (g := .XU_FAULT_CNT_FAULTS) (by decide)]
      exact hb
  · rw [Dev.xuEvent_passes hc hrun hm]
    have hmem := Dev.unread_rest hread
    exact ⟨(congrArg (fun y => y.mem.hbm) hmem :), (congrArg (fun y => y.mem.slab) hmem :), Dev.noneEnds_of_kept hkept,
      (by rintro p v k w ⟨⟩), (by rintro x ⟨⟩), fun _ _ => ⟨(congrArg Dev.cmds hmem :), (congrArg Dev.link hmem :)⟩⟩

/-- The device with a line of HBM bad. -/
def Dev.withBadLine (d : Dev) (line : Nat) : Dev :=
  if d.mem.hbmBad.contains line then d else { d with mem := { d.mem with hbmBad := d.mem.hbmBad ++ [line] } }

theorem Dev.withBadLine_spec (d : Dev) (line : Nat) : line ∈ (d.withBadLine line).mem.hbmBad ∧
    (d.withBadLine line).mem.hbm = d.mem.hbm ∧ (d.withBadLine line).mem.slab = d.mem.slab ∧ d.noneEnds (d.withBadLine line) ∧
    (d.withBadLine line).regs = d.regs ∧ (d.withBadLine line).cmds = d.cmds := by
  unfold Dev.withBadLine
  split
  · exact ⟨List.contains_iff_mem.mp ‹_›, rfl, rfl, ⟨rfl, rfl, rfl, rfl⟩, rfl, rfl⟩
  · exact ⟨List.mem_append_right _ List.mem_cons_self, rfl, rfl, ⟨rfl, rfl, rfl, rfl⟩, rfl, rfl⟩

/-- The device with a word of a slab bad. -/
def Dev.withBadWord (d : Dev) (k : Nat) : Dev :=
  if d.mem.slabBad.contains k then d else { d with mem := { d.mem with slabBad := d.mem.slabBad ++ [k] } }

theorem Dev.withBadWord_spec (d : Dev) (k : Nat) : k ∈ (d.withBadWord k).mem.slabBad ∧
    (d.withBadWord k).mem.hbm = d.mem.hbm ∧ (d.withBadWord k).mem.slab = d.mem.slab ∧ d.noneEnds (d.withBadWord k) ∧
    (d.withBadWord k).regs = d.regs ∧ (d.withBadWord k).cmds = d.cmds := by
  unfold Dev.withBadWord
  split
  · exact ⟨List.contains_iff_mem.mp ‹_›, rfl, rfl, ⟨rfl, rfl, rfl, rfl⟩, rfl, rfl⟩
  · exact ⟨List.mem_append_right _ List.mem_cons_self, rfl, rfl, ⟨rfl, rfl, rfl, rfl⟩, rfl, rfl⟩

theorem Dev.alive_congr {d e : Dev} (h : e.cmds = d.cmds) (id : Option Nat) : e.alive id = d.alive id := by
  cases id with
  | none => rfl
  | some i => simp only [Dev.alive, Dev.cmd?, h]

theorem Dev.noneEnds.trans {d e k : Dev} (h1 : d.noneEnds e) (h2 : e.noneEnds k) : d.noneEnds k := by
  obtain ⟨a1, b1, c1, e1⟩ := h1
  obtain ⟨a2, b2, c2, e2⟩ := h2
  exact ⟨a2.trans a1, b2.trans b1, c2.trans c1, e2.trans e1⟩

/-- TIER_HBM_UE: the line stays bad, the error is counted and latched, and its command fails. -/
theorem tierHbmUe_completes {s : State} {id : Option Nat} {part : Nat} {addr : BitVec 40} (hstall : s.dev.stalled = false)
    (halive : s.dev.alive id = true) {line : Nat} (hline : line = addr.toNat / 64 * 64) (hok : s.dev.physCheck line 64 = none) :
    Completes (.tierHbmUe id part addr) s (fun e => s.dev.noneEnds e ∧
      line ∈ e.mem.hbmBad ∧ e.mem.hbm = s.dev.mem.hbm ∧ e.mem.slab = s.dev.mem.slab ∧
      s.dev.bumped e .TIER_HBM_ERR_UNCORRECTABLE 1 (bits line 12 3) ∧
      e.reg .TIER_UE_ADDR = BitVec.ofNat 64 line ∧ (∀ i, id = some i → e.failed i)) := by
  refine Completes.of_engine (g := fun d => d.hbmEvent id part addr.toNat) rfl hstall ?_
  have hrow : s.dev.hbmEvent id part addr.toNat = (s.dev.withBadLine line).accessFails id part (.badLine line) := by
    unfold Dev.hbmEvent
    dsimp only
    rw [← hline, halive, hok]
    rfl
  have hfit : line % 2 ^ 40 = line := by omega
  rw [hrow]
  obtain ⟨hbad, hhbm, hslab, hnone, hregs, hcmds⟩ := s.dev.withBadLine_spec line
  generalize s.dev.withBadLine line = m at *
  obtain ⟨hends, hmem, hereg, -, hfail⟩ := accessFails_spec part (.badLine line) ((Dev.alive_congr hcmds id).trans halive)
  obtain ⟨hb, hreg, -⟩ := m.hbmUe_spec id line
  refine ⟨hnone.trans hends, by rw [Dev.settle_mem, hmem]; exact hbad, by rw [Dev.settle_mem, hmem]; exact hhbm,
    by rw [Dev.settle_mem, hmem]; exact hslab, ?_, ?_, hfail⟩
  · rw [Dev.bumped, Dev.settle_f, Dev.f_of_regs hereg, ← Dev.f_of_regs hregs]
    exact hb
  · rw [Dev.settle_reg, Dev.reg_of_regs hereg]
    exact hreg.trans (by rw [hfit])

/-- TIER_SLAB_UE: the word stays bad, the error is counted and latched, and its command fails. -/
theorem tierSlabUe_completes {s : State} {id : Option Nat} {part : Nat} {arr : Fin 152} {off : BitVec 22} (hstall : s.dev.stalled = false)
    (halive : s.dev.alive id = true) (hin : s.dev.arrRetired arr = false) :
    let at_ := off.toNat / 8 * 8
    Completes (.tierSlabUe id part arr off) s (fun e => s.dev.noneEnds e ∧
      slabKey arr at_ ∈ e.mem.slabBad ∧ e.mem.hbm = s.dev.mem.hbm ∧ e.mem.slab = s.dev.mem.slab ∧
      s.dev.bumped e .TIER_SLAB_ERR_UNCORRECTABLE 1 ∧
      e.reg .TIER_UE_ADDR = BitVec.ofNat 64 (2 ^ 40 + arr * 4194304 + at_) ∧ (∀ i, id = some i → e.failed i)) := by
  intro at_
  refine Completes.of_engine (g := fun d => d.slabEvent id part arr off.toNat) rfl hstall ?_
  have hrow : s.dev.slabEvent id part arr off.toNat =
      (s.dev.withBadWord (slabKey arr at_)).accessFails id part (.badWord arr at_) := by
    unfold Dev.slabEvent
    dsimp only
    rw [halive, hin]
    rfl
  rw [hrow]
  obtain ⟨hbad, hhbm, hslab, hnone, hregs, hcmds⟩ := s.dev.withBadWord_spec (slabKey arr at_)
  generalize s.dev.withBadWord (slabKey arr at_) = m at *
  obtain ⟨hends, hmem, hereg, -, hfail⟩ := accessFails_spec part (.badWord arr at_) ((Dev.alive_congr hcmds id).trans halive)
  obtain ⟨hb, hreg, -⟩ := m.slabUe_spec id arr at_
  refine ⟨hnone.trans hends, by rw [Dev.settle_mem, hmem]; exact hbad, by rw [Dev.settle_mem, hmem]; exact hhbm,
    by rw [Dev.settle_mem, hmem]; exact hslab, ?_, ?_, hfail⟩
  · rw [Dev.bumped, Dev.settle_f, Dev.f_of_regs hereg, ← Dev.f_of_regs hregs]
    exact hb
  · rw [Dev.settle_reg, Dev.reg_of_regs hereg]
    exact hreg

/-- TIER_PHYS_RANGE: an address beyond HBM is reported and fails its command; one within it changes nothing. -/
theorem tierPhysRange_completes {s : State} {id : Option Nat} {part : Nat} {addr : BitVec 40} (hstall : s.dev.stalled = false)
    (halive : s.dev.alive id = true) :
    (hbmEnd ≤ addr.toNat → Completes (.tierPhysRange id part addr) s (fun e => s.dev.noneEnds e ∧
       s.dev.posted e .TIER_PHYS_RANGE (fun r => r.address = addr.toNat) ∧ e.mem = s.dev.mem ∧
       (∀ i, id = some i → e.failed i))) ∧
    (addr.toNat < hbmEnd → Completes (.tierPhysRange id part addr) s (fun e => s.dev.same e)) := by
  refine ⟨fun h => ?_, fun h => ?_⟩ <;>
    refine Completes.of_engine (g := fun d => d.rangeEvent id part addr.toNat) rfl hstall ?_
  · have hrow : s.dev.rangeEvent id part addr.toNat = s.dev.accessFails id part (.range addr.toNat) := by
      unfold Dev.rangeEvent
      rw [halive, decide_eq_false (Nat.not_lt.mpr h)]
      rfl
    rw [hrow]
    obtain ⟨hends, hmem, -, hlink, hfail⟩ := accessFails_spec part (.range addr.toNat) halive
    have htell : s.dev.memReport id (.range addr.toNat) =
        s.dev.tell id .TIER_PHYS_RANGE (id.elim 0 (fun _ => Status.faultData.num)) addr.toNat 0 {} := by
      cases id <;> rfl
    obtain ⟨-, -, hposted⟩ := s.dev.tell_spec id .TIER_PHYS_RANGE (id.elim 0 (fun _ => Status.faultData.num)) addr.toNat 0 {}
    rw [← htell] at hposted
    obtain ⟨r, hheld, hcode, hseq, hcount, haddr, -⟩ := hposted
    exact ⟨hends, ⟨r, (congrArg LinkSt.held hlink).trans hheld, hcode, hseq, hcount, haddr⟩, hmem, hfail⟩
  · have hrow : s.dev.rangeEvent id part addr.toNat = s.dev := by
      unfold Dev.rangeEvent
      rw [decide_eq_true h, Bool.or_true, if_pos rfl]
    rw [hrow]
    exact Dev.same_settle _

/-- Settles O51: a failed access is reported as its kind demands, and fails the command that it is made for. -/
theorem failedAccessesReported : Obligations.FailedAccessesReported := by
  unfold Obligations.FailedAccessesReported
  intro s hstall
  exact ⟨fun id part va write c hc hrun => xuFault_completes hstall hc hrun,
    fun id part addr halive => ⟨tierHbmUe_completes hstall halive rfl, tierPhysRange_completes hstall halive⟩,
    fun id part arr off halive hin => tierSlabUe_completes hstall halive hin⟩

end Sys2Proof.Machine
end

section

/-! PROOFS. The Landing pools: grants, returns and placement (LandingPools; R230 to R232, R333). -/

namespace Sys2Proof.Machine

/-- The free count of a pool is set, and no register but it changes. -/
theorem Dev.setFree_spec (d : Dev) (k : Nat) {n : Nat} (h : n < 2 ^ 17) : (d.setFree k n).f .TIER_LND_FREE_FREE k = n ∧
    d.regsBut (d.setFree k n) [Reg.code .TIER_LND_FREE k 0] ∧ d.restSame (d.setFree k n) := by
  have hset : (d.setF .TIER_LND_FREE_FREE n k).f .TIER_LND_FREE_FREE k = n := d.f_setF_fit _ _ _ (by decide) h
  have hframe : d.regsBut (d.setF .TIER_LND_FREE_FREE n k) [Reg.code .TIER_LND_FREE k 0] := .setF (.refl d _) n List.mem_cons_self
  have hrest : d.restSame (d.setF .TIER_LND_FREE_FREE n k) := .setF (.refl d) _ _ _ _
  unfold Dev.setFree
  dsimp only
  split
  · exact ⟨(Dev.f_setF_apart _ .TIER_LND_FREE_LOW .TIER_LND_FREE_FREE n k 0 rfl (by decide) (by decide)).trans hset,
      hframe.setF n List.mem_cons_self, hrest.setF _ _ _ _⟩
  · exact ⟨hset, hframe, hrest⟩

theorem Dev.postCmd_lnd (d : Dev) (id : Nat) (c : Code) (st addr index n : Nat) : (d.postCmd id c st addr index n).lnd = d.lnd := by
  obtain ⟨who, h⟩ := d.postCmd_eq id c st addr index n
  rw [h]
  exact Dev.post_lnd ..

/-- A change of the Landing state beside one of registers. -/
theorem Dev.restSame_of_lnd {d e : Dev} (l : LndSt) (h : d.restSame e) :
    d.restSame { Dev.settle { e with lnd := l } with lnd := d.lnd } :=
  (congrArg (fun x : Dev => { x with lnd := d.lnd, pins := (Dev.settle { e with lnd := l }).pins }) h :)

section
variable {d m : Dev} {p k id : Nat} {c : Cmd}

theorem Dev.lndRequest_granted (hc : d.cmd? id = some c) (hrun : c.running = true) (hp : c.part = p) {i : Nat}
    (h : d.lndAlloc p k (.command id) = (m, .ok i)) : d.lndRequest p k id = m := by
  simp [Dev.lndRequest, hc, hrun, hp, h]

theorem Dev.lndRequest_refused (hc : d.cmd? id = some c) (hrun : c.running = true) (hp : c.part = p) {st : Status}
    (h : d.lndAlloc p k (.command id) = (m, .error st)) : d.lndRequest p k id = m.failPart id 0 st := by
  simp [Dev.lndRequest, hc, hrun, hp, h]

end

section
variable {s : State} {p : Fin 16} {k : Fin 8} {id : Nat} {c : Cmd}

/-- LANDING_ALLOC grants the buffer of R231's rule. -/
theorem landingAlloc_granted (hstall : s.dev.stalled = false) (hc : s.dev.cmd? id = some c) (hrun : c.running = true)
    (hp : c.part = p) {i : Nat} (hrule : s.dev.lndRule p k = .ok i) :
    Completes (.landingAlloc p k id) s (fun e =>
      e.lnd.held = s.dev.lnd.held ++ [⟨k, i, p, .command id, false⟩] ∧
      e.f .TIER_LND_FREE_FREE k = s.dev.f .TIER_LND_FREE_FREE k - 1 ∧ s.dev.bumped e .TIER_LND_USE_USED 1 p k ∧
      s.dev.regsBut e [Reg.code .TIER_LND_FREE k 0, Reg.code .TIER_LND_USE p k] ∧ s.dev.restSame { e with lnd := s.dev.lnd }) := by
  refine Completes.of_engine (g := fun d => d.lndRequest p k id) rfl hstall ?_
  have hrow : s.dev.lndRequest p k id = (fun m : Dev => { m with lnd := { m.lnd with held := m.lnd.held ++ [⟨k, i, p, .command id, false⟩] } })
      ((s.dev.setFree k (s.dev.f .TIER_LND_FREE_FREE k - 1)).addF .TIER_LND_USE_USED 1 p k) := by
    refine Dev.lndRequest_granted hc hrun hp (i := i) ?_
    unfold Dev.lndAlloc
    rw [hrule]
  have hfit : s.dev.f .TIER_LND_FREE_FREE k - 1 < 2 ^ 17 :=
    Nat.lt_of_le_of_lt (Nat.sub_le _ _) (s.dev.f_lt .TIER_LND_FREE_FREE k 0)
  obtain ⟨hfree, hbut, hrest⟩ := s.dev.setFree_spec k hfit
  rw [hrow]
  generalize s.dev.setFree k (s.dev.f .TIER_LND_FREE_FREE k - 1) = m at *
  have hused : m.f .TIER_LND_USE_USED p k = s.dev.f .TIER_LND_USE_USED p k :=
    congrArg Fld.TIER_LND_USE_USED.of (hbut _ _ _ (by
      rw [List.mem_singleton]
      exact fun h => absurd (Reg.code_reg h) (by decide)))
  have hb := m.bumped_addF .TIER_LND_USE_USED 1 p k (by decide)
  have hlnd : (m.addF .TIER_LND_USE_USED 1 p k).lnd = s.dev.lnd := (congrArg Dev.lnd hrest :)
  refine ⟨?_, ?_, ?_, ?_, ?_⟩
  · rw [Dev.settle_lnd]
    exact congrArg (fun l : LndSt => l.held ++ [_]) hlnd
  · exact (m.f_setF_ne_reg .TIER_LND_USE_USED .TIER_LND_FREE_FREE _ _ _ _ _ (by decide)).trans hfree
  · rw [Dev.bumped, ← hused]
    exact hb
  · exact ((hbut.mono (by simp)).addF 1 (by simp)).settle
  · exact Dev.restSame_of_lnd _ (Dev.restSame.setF hrest .TIER_LND_USE_USED _ p k)

/-- LANDING_ALLOC that the rule refuses is counted and reported, holds nothing and fails the command. -/
theorem landingAlloc_refused (hstall : s.dev.stalled = false) (hc : s.dev.cmd? id = some c) (hrun : c.running = true)
    (hp : c.part = p) {st : Status} (hrule : s.dev.lndRule p k = .error st) :
    Completes (.landingAlloc p k id) s (fun e =>
      e.lnd = s.dev.lnd ∧ s.dev.bumped e .TIER_LND_USE_FAILS 1 p k ∧ e.failed id ∧
      e.f .TIER_LND_FREE_FREE k = s.dev.f .TIER_LND_FREE_FREE k ∧
      s.dev.posted e (if st = .quota then .LND_QUOTA else .LND_EMPTY) (fun r => r.status = st.num ∧ r.index = k)) := by
  refine Completes.of_engine (g := fun d => d.lndRequest p k id) rfl hstall ?_
  have hrow : s.dev.lndRequest p k id = ((s.dev.addF .TIER_LND_USE_FAILS 1 p k).postCmd id
      (if st = .quota then .LND_QUOTA else .LND_EMPTY) st.num 0 k).failPart id 0 st := by
    refine Dev.lndRequest_refused hc hrun hp (st := st) ?_
    unfold Dev.lndAlloc
    rw [hrule]
  rw [hrow]
  have hb := s.dev.bumped_addF .TIER_LND_USE_FAILS 1 p k (by decide)
  have hfree := s.dev.f_setF_ne_reg .TIER_LND_USE_FAILS .TIER_LND_FREE_FREE
    (min (s.dev.f .TIER_LND_USE_FAILS p k + 1) (2 ^ 15 - 1)) p k k 0 (by decide)
  have hc' : (s.dev.addF .TIER_LND_USE_FAILS 1 p k).cmd? id = some c := hc
  have hlnd : (s.dev.addF .TIER_LND_USE_FAILS 1 p k).lnd = s.dev.lnd := rfl
  have hlink : (s.dev.addF .TIER_LND_USE_FAILS 1 p k).link = s.dev.link := rfl
  have hcount := s.dev.count_addF .TIER_LND_USE_FAILS 1 p k (by decide)
  change (s.dev.addF .TIER_LND_USE_FAILS 1 p k).f .TIER_LND_FREE_FREE k = _ at hfree
  generalize s.dev.addF .TIER_LND_USE_FAILS 1 p k = m at *
  generalize (if st = .quota then Code.LND_QUOTA else Code.LND_EMPTY) = code
  have hlive := Dev.live_of_kept (m.postCmd_kept id code st.num 0 k 0) (Dev.live_of_running hc' hrun)
  have hreg : ∀ g : Fld, g.reg ≠ .ERR_STATUS → ∀ i j, ((m.postCmd id code st.num 0 k).failPart id 0 st).f g i j = m.f g i j :=
    fun g hg i j => congrArg g.of (m.reg_postCmd id code st.num 0 k 0 i j hg)
  have hposted : m.posted (m.postCmd id code st.num 0 k) code (fun r => r.status = st.num ∧ r.index = k) :=
    (m.postCmd_posted code st.num 0 k 0 hc').mono fun _ ⟨hst, _, hk⟩ => ⟨hst, hk⟩
  refine ⟨?_, ?_, Dev.failed_failPart 0 st hlive, (hreg _ (by decide) _ _).trans hfree, ?_⟩
  · rw [Dev.settle_lnd, ← hlnd]
    exact m.postCmd_lnd id code st.num 0 k 0
  · rw [Dev.bumped, Dev.settle_f, hreg _ (by decide)]
    exact hb
  · exact Dev.posted_congr hlink hcount rfl hposted

end

/-! ## Returns -/

section
variable {s : State} {k : Fin 8} {idx : Nat} {b : LndBuf}

/-- LANDING_RETURN of a buffer whose user is done with it. -/
theorem landingReturn_completes (hb : s.dev.lnd.held.find? (fun b => b.pool == k.val && b.idx == idx) = some b) :
    (s.dev.lndDone b = true → Completes (.landingReturn k idx) s (fun e =>
      e.lnd.held = s.dev.lnd.held.erase b ∧
      e.f .TIER_LND_USE_USED b.part k = s.dev.f .TIER_LND_USE_USED b.part k - 1 ∧
      (b.retiring = false → e.f .TIER_LND_FREE_FREE k = (s.dev.f .TIER_LND_FREE_FREE k + 1) % 2 ^ 17 ∧
        e.lnd.retired = s.dev.lnd.retired) ∧
      (b.retiring = true → e.f .TIER_LND_FREE_FREE k = s.dev.f .TIER_LND_FREE_FREE k ∧
        s.dev.bumped e .ERR_LND_RETIRED_RETIRED 1 k ∧ e.lnd.retired = s.dev.lnd.retired ++ [(k.val, idx)]))) ∧
    (s.dev.lndDone b = false → Completes (.landingReturn k idx) s (fun e => s.dev.same e)) := by
  have hrow : s.dev.lndGiveBack k idx = if s.dev.lndDone b then s.dev.lndReturn b else s.dev := by
    unfold Dev.lndGiveBack
    rw [hb]
  have hat : b.pool = k.val ∧ b.idx = idx := by simpa using List.find?_some hb
  obtain ⟨hpool, hidx⟩ := hat
  refine ⟨fun hdone => Completes.of_act (g := fun d => d.lndGiveBack k idx) rfl ?_, fun hdone =>
    Completes.of_act (g := fun d => d.lndGiveBack k idx) rfl ?_⟩
  · rw [hrow, if_pos hdone]
    unfold Dev.lndReturn
    dsimp only
    have hused := s.dev.f_setF_fit .TIER_LND_USE_USED b.part k (by decide)
      (Nat.lt_of_le_of_lt (Nat.sub_le _ 1) (s.dev.f_lt .TIER_LND_USE_USED b.part k))
    have hother := fun (g : Fld) (hg : g.reg ≠ .TIER_LND_USE) => s.dev.f_setF_ne_reg .TIER_LND_USE_USED g
      (s.dev.f .TIER_LND_USE_USED b.part k - 1) b.part k k 0 hg
    have hlnd : (s.dev.subF .TIER_LND_USE_USED 1 b.part k).lnd = s.dev.lnd := rfl
    change (s.dev.subF .TIER_LND_USE_USED 1 b.part k).f _ _ _ = _ at hused
    change ∀ g : Fld, g.reg ≠ .TIER_LND_USE → (s.dev.subF .TIER_LND_USE_USED 1 b.part k).f g k = s.dev.f g k at hother
    rw [hpool, hidx]
    generalize s.dev.subF .TIER_LND_USE_USED 1 b.part k = m at *
    rw [← hlnd, ← hother .TIER_LND_FREE_FREE (by decide)]
    cases hret : b.retiring with
    | false =>
      refine ⟨rfl, ?_, fun _ => ⟨?_, rfl⟩, by rintro ⟨⟩⟩
      · exact (Dev.f_setF_ne_reg _ .TIER_LND_FREE_FREE .TIER_LND_USE_USED _ _ _ _ _ (by decide)).trans hused
      · exact Dev.f_setF_same _ .TIER_LND_FREE_FREE _ _ _ (by decide)
    | true =>
      refine ⟨rfl, ?_, by rintro ⟨⟩, fun _ => ⟨?_, ?_, rfl⟩⟩
      · exact (Dev.f_setF_ne_reg _ .ERR_LND_RETIRED_RETIRED .TIER_LND_USE_USED _ _ _ _ _ (by decide)).trans hused
      · exact Dev.f_setF_ne_reg _ .ERR_LND_RETIRED_RETIRED .TIER_LND_FREE_FREE _ _ _ _ _ (by decide)
      · rw [Dev.bumped, ← hother .ERR_LND_RETIRED_RETIRED (by decide)]
        exact Dev.bumped_addF _ .ERR_LND_RETIRED_RETIRED 1 k 0 (by decide)
  · rw [hrow, hdone, if_neg (by decide)]
    exact Dev.same_settle _

end

/-! ## Placement -/

/-- A pool placed anew has every buffer free but those over retired frames. -/
theorem Dev.lndPlace_counts (d : Dev) (k : Nat) :
    (d.lndPlace k).f .TIER_LND_FREE_FREE k =
      (d.lndPlace k).lndCount k - ((d.lndPlace k).lnd.retired.filter (fun b => b.1 == k)).length ∧
    (d.lndPlace k).f .TIER_LND_FREE_LOW k = (d.lndPlace k).f .TIER_LND_FREE_FREE k ∧
    (d.lndPlace k).reg .TIER_LND_POOL k = d.reg .TIER_LND_POOL k ∧
    d.regsBut (d.lndPlace k) [Reg.code .TIER_LND_FREE k 0, Reg.code .ERR_LND_RETIRED k 0] := by
  generalize hgone : (d.mem.frames.flatMap (d.lndInFrame k)).dedup = gone
  generalize hm : ({ d with lnd := { d.lnd with retired := d.lnd.retired.filter (fun (b : Nat × Nat) => b.1 ≠ k) ++ gone.map (fun i => (k, i)) } } : Dev) = m
  have hplace : d.lndPlace k = ((m.setF .ERR_LND_RETIRED_RETIRED gone.length k).setF .TIER_LND_FREE_FREE (m.lndCount k - gone.length) k).setF
      .TIER_LND_FREE_LOW (m.lndCount k - gone.length) k := by
    unfold Dev.lndPlace
    rw [hgone]
    dsimp only
    rw [hm]
  have hretired : ((d.lndPlace k).lnd.retired.filter (fun b => b.1 == k)).length = gone.length := by
    have : (d.lndPlace k).lnd.retired = d.lnd.retired.filter (fun (b : Nat × Nat) => b.1 ≠ k) ++ gone.map (fun i => (k, i)) := by
      rw [hplace, ← hm]
      rfl
    have hold : (d.lnd.retired.filter (fun (b : Nat × Nat) => b.1 ≠ k)).filter (fun b => b.1 == k) = [] := by
      rw [List.filter_filter, List.filter_eq_nil_iff]
      simp
    have hnew : (gone.map (fun i => (k, i))).filter (fun b => b.1 == k) = gone.map (fun i => (k, i)) := by
      rw [List.filter_eq_self]
      simp
    rw [this, List.filter_append, hold, hnew, List.nil_append, List.length_map]
  have hframe : d.regsBut (d.lndPlace k) [Reg.code .TIER_LND_FREE k 0, Reg.code .ERR_LND_RETIRED k 0] := by
    rw [hplace]
    exact .setF (.setF (.setF ((Dev.regsBut.refl d _).congr (by rw [← hm])) _ (by simp)) _ (by simp)) _ (by simp)
  have hpool : (d.lndPlace k).reg .TIER_LND_POOL k = d.reg .TIER_LND_POOL k := hframe _ _ _ (by
    simp only [List.mem_cons, List.not_mem_nil, or_false, not_or]
    exact ⟨fun h => absurd (Reg.code_reg h) (by decide), fun h => absurd (Reg.code_reg h) (by decide)⟩)
  have hcount : (d.lndPlace k).lndCount k = m.lndCount k := by
    rw [Dev.lndCount, Dev.f, hpool, ← hm]
    rfl
  have hfit : m.lndCount k - gone.length < 2 ^ 17 := by
    have := m.f_lt .TIER_LND_POOL_COUNT_M1 k 0
    have hlt : m.lndCount k < 2 ^ 17 := by
      show m.f .TIER_LND_POOL_COUNT_M1 k + 1 < 2 ^ 17
      change _ < 2 ^ 16 at this
      omega
    omega
  have hfree : (d.lndPlace k).f .TIER_LND_FREE_FREE k = m.lndCount k - gone.length := by
    rw [hplace]
    exact (Dev.f_setF_apart _ .TIER_LND_FREE_LOW .TIER_LND_FREE_FREE _ k 0 rfl (by decide) (by decide)).trans
      (Dev.f_setF_fit _ .TIER_LND_FREE_FREE _ _ (by decide) hfit)
  have hlow : (d.lndPlace k).f .TIER_LND_FREE_LOW k = m.lndCount k - gone.length := by
    rw [hplace]
    exact Dev.f_setF_fit _ .TIER_LND_FREE_LOW _ _ (by decide) hfit
  exact ⟨by rw [hfree, hcount, hretired], hlow.trans hfree.symm, hpool, hframe⟩

/-- TIER_LND_POOL places the pool anew, while no partition is valid. -/
theorem tierLndPool_completes {s : State} {ap : Aperture} {k : Fin 8} {v : BitVec 64} (hacc : s.dev.accepts ap .TIER_LND_POOL k = true) :
    (s.dev.anyValid = false → Completes (.tierLndPool ap k v) s (fun e =>
      e.reg .TIER_LND_POOL k = written .TIER_LND_POOL (s.dev.reg .TIER_LND_POOL k) v ∧
      e.f .TIER_LND_FREE_FREE k = e.lndCount k - (e.lnd.retired.filter (fun b => b.1 == k.val)).length ∧
      e.f .TIER_LND_FREE_LOW k = e.f .TIER_LND_FREE_FREE k ∧
      s.dev.regsBut e [Reg.code .TIER_LND_POOL k 0, Reg.code .TIER_LND_FREE k 0, Reg.code .ERR_LND_RETIRED k 0])) ∧
    (s.dev.anyValid = true → Completes (.tierLndPool ap k v) s (fun e =>
      s.dev.posted e .FAULT_PROT (fun r => r.address = Reg.TIER_LND_POOL.addrOf k 0) ∧ s.dev.restTold e ∧
      e.reg .TIER_LND_POOL k = s.dev.reg .TIER_LND_POOL k)) := by
  refine ⟨fun hv => Completes.of_accepted (g := fun d => d.lndPool ap k v) rfl hacc ?_,
    fun hv => Completes.of_accepted (g := fun d => d.lndPool ap k v) rfl hacc ?_⟩
  · rw [Dev.lndPool, hv, if_neg (by decide)]
    obtain ⟨hfree, hlow, hpool, hframe⟩ := (s.dev.plainWrite .TIER_LND_POOL v k).lndPlace_counts k
    have hwritten : (s.dev.plainWrite .TIER_LND_POOL v k).reg .TIER_LND_POOL k = written .TIER_LND_POOL (s.dev.reg .TIER_LND_POOL k) v := by
      rw [Dev.plainWrite_eq _ _ _ _ (by decide), Dev.reg_setReg_same]
    have hw : s.dev.regsBut (s.dev.plainWrite .TIER_LND_POOL v k)
        [Reg.code .TIER_LND_POOL k 0, Reg.code .TIER_LND_FREE k 0, Reg.code .ERR_LND_RETIRED k 0] :=
      (Dev.regsBut.refl s.dev _).plainWrite v List.mem_cons_self
    generalize s.dev.plainWrite .TIER_LND_POOL v k = m at *
    generalize m.lndPlace k = e at *
    have hcount : e.settle.lndCount k = e.lndCount k := congrArg (· + 1) (e.settle_f .TIER_LND_POOL_COUNT_M1 k 0)
    refine ⟨?_, ?_, ?_, (hw.trans (hframe.mono (List.subset_cons_self _ _))).settle⟩
    · rw [Dev.settle_reg, hpool, hwritten]
    · rw [Dev.settle_f, hcount, Dev.settle_lnd, hfree]
    · rw [Dev.settle_f, Dev.settle_f, hlow]
  · rw [Dev.lndPool, hv, if_pos rfl]
    exact ⟨((s.dev.refuse_posted ap _ true).mono fun _ h => h.1).settle, Dev.restTold_refuse ap _ (.refl _), rfl⟩

/-- TIER_LND_PART is written where the reservations fit the pool. -/
theorem tierLndPart_completes {s : State} {ap : Aperture} {p : Fin 16} {k : Fin 8} {v : BitVec 32}
    (hacc : s.dev.accepts ap .TIER_LND_PART p = true) :
    let others := sumNat (((List.range 16).filter (· ≠ p.val)).map (fun q => s.dev.f .TIER_LND_PART_RESV q k))
    (others + v.toNat % 65536 ≤ s.dev.lndCount k → Completes (.tierLndPart ap p k v) s (fun e =>
      e.reg .TIER_LND_PART p k = written .TIER_LND_PART (s.dev.reg .TIER_LND_PART p k) (v.zeroExtend 64) ∧
      s.dev.regsBut e [Reg.code .TIER_LND_PART p k] ∧ s.dev.restSame e)) ∧
    (s.dev.lndCount k < others + v.toNat % 65536 → Completes (.tierLndPart ap p k v) s (fun e =>
      s.dev.posted e .FAULT_PROT (fun r => r.address = Reg.TIER_LND_PART.addrOf p k) ∧ s.dev.restTold e ∧
      e.reg .TIER_LND_PART p k = s.dev.reg .TIER_LND_PART p k)) := by
  intro others
  have hresv : Fld.TIER_LND_PART_RESV.of (v.zeroExtend 64) = v.toNat % 65536 := by
    unfold Fld.of bits
    simp
  have hrow : s.dev.lndPart ap p k v = if s.dev.lndCount k < others + v.toNat % 65536 then s.dev.refuseReg ap .TIER_LND_PART p k
      else s.dev.plainWrite .TIER_LND_PART (v.zeroExtend 64) p k := by
    rw [← hresv]
    rfl
  refine ⟨fun hfit => Completes.of_accepted (g := fun d => d.lndPart ap p k v) rfl hacc ?_,
    fun hover => Completes.of_accepted (g := fun d => d.lndPart ap p k v) rfl hacc ?_⟩
  · rw [hrow, if_neg (by omega)]
    refine ⟨?_, ((Dev.regsBut.refl s.dev _).plainWrite _ (by simp)).settle, ((Dev.restSame.refl s.dev).plainWrite _ _ _ _).settle⟩
    rw [Dev.settle_reg, Dev.plainWrite_eq _ _ _ _ (by decide), Dev.reg_setReg_same]
  · rw [hrow, if_pos hover]
    exact ⟨((s.dev.refuse_posted ap _ true).mono fun _ h => h.1).settle, Dev.restTold_refuse ap _ (.refl _), rfl⟩

/-- Settles O52: a pool grants, takes back, retires and places its buffers as its counts say. -/
theorem landingPools : Obligations.LandingPools := by
  unfold Obligations.LandingPools
  intro s k
  exact ⟨fun p id c hstall hc hrun hp => ⟨fun i => landingAlloc_granted hstall hc hrun hp,
      fun st => landingAlloc_refused hstall hc hrun hp⟩,
    fun idx b hb => landingReturn_completes hb, fun ap v hacc => tierLndPool_completes hacc,
    fun ap p v hacc => tierLndPart_completes hacc⟩

end Sys2Proof.Machine
end

section

/-! PROOFS. The failures of an engine's work have a cause that is still to be told, and telling it leaves the command with a cause
of failure (R54, R55). -/

namespace Sys2Proof.Machine

/-! ## Failures that name their cause -/

section
variable {α β : Type}

/-- An operation that never fails with a failure told already. -/
structure Op.causes (m : Op α) : Prop where
  named (d e : Dev) : m.run.run d ≠ (.error .given, e)

namespace Op.causes

theorem bind {m : Op α} {f : α → Op β} (hm : Op.causes m) (hf : ∀ a, Op.causes (f a)) : Op.causes (m >>= f) := by
  constructor
  intro d e h
  rcases hr : m.run.run d with ⟨x | a, k⟩
  · rw [Op.run_bind_error hr] at h
    cases h
    exact hm.named d _ hr
  · rw [Op.run_bind_ok hr] at h
    exact (hf a).named k e h

@[simp] theorem pure (a : α) : Op.causes (Pure.pure a : Op α) := ⟨fun _ _ h => by cases h⟩

@[simp] theorem throw {x : Fail} (h : x ≠ .given) : Op.causes (MonadExcept.throw x : Op α) := ⟨fun _ _ he => h (by cases he; rfl)⟩

@[simp] theorem get : Op.causes (MonadState.get : Op Dev) := ⟨fun _ _ h => by cases h⟩

@[simp] theorem set (d : Dev) : Op.causes (MonadStateOf.set d : Op PUnit) := ⟨fun _ _ h => by cases h⟩

@[simp] theorem act (g : Dev → Dev) : Op.causes (Op.act g) := ⟨fun _ _ h => by cases h⟩

@[simp] theorem modify (g : Dev → Dev) : Op.causes (modifyGet fun s => (⟨⟩, g s) : Op PUnit) := ⟨fun _ _ h => by cases h⟩

/-- An access of memory. -/
@[simp] theorem mem (g : Dev → Dev × Except MemErr α) : Op.causes (Op.mem g) := by
  refine bind get fun d => ?_
  rcases g d with ⟨e, x | a⟩
  · exact bind (set e) fun _ => throw (by simp)
  · exact bind (set e) fun _ => pure a

@[simp] theorem map {m : Op α} (h : Op.causes m) (f : α → β) : Op.causes (f <$> m) := by
  rw [map_eq_pure_bind]
  exact bind h fun _ => pure _

@[simp] theorem forM {f : α → Op PUnit} (h : ∀ a, Op.causes (f a)) (l : List α) : Op.causes (l.forM f) := by
  induction l with
  | nil => exact pure _
  | cons a l ih => exact bind (h a) fun _ => ih

@[simp] theorem mapM {f : α → Op β} (h : ∀ a, Op.causes (f a)) (l : List α) : Op.causes (l.mapM f) := by
  induction l with
  | nil => exact pure _
  | cons a l ih =>
    rw [List.mapM_cons]
    exact bind (h a) fun _ => bind ih fun _ => pure _

@[simp] theorem foldlM {f : β → α → Op β} (h : ∀ b a, Op.causes (f b a)) (l : List α) (b : β) : Op.causes (l.foldlM f b) := by
  induction l generalizing b with
  | nil => exact pure _
  | cons a l ih => exact bind (h b a) fun b => ih b

end Op.causes
end

/-! ## What a failure tells -/

theorem Op.succeeds_true {α : Type} {d : Dev} {m : Op α} (h : Op.succeeds d m = true) : ∃ a e, m.run.run d = (.ok a, e) := by
  unfold Op.succeeds at h
  rcases hr : m.run.run d with ⟨x | a, e⟩
  · rw [hr] at h
    cases h
  · exact ⟨a, e, rfl⟩

theorem Op.succeeds_false {α : Type} {d : Dev} {m : Op α} (h : Op.succeeds d m = false) : ∃ x e, m.run.run d = (.error x, e) := by
  unfold Op.succeeds at h
  rcases hr : m.run.run d with ⟨x | a, e⟩
  · exact ⟨x, e, rfl⟩
  · rw [hr] at h
    cases h

theorem Dev.work_ok {d e : Dev} {id j : Nat} {m : Op Unit} (h : m.run.run d = (.ok (), e)) : d.work id j m = e := by
  unfold Dev.work
  rw [h]

theorem Dev.work_error {d e : Dev} {id j : Nat} {m : Op Unit} {x : Fail} (h : m.run.run d = (.error x, e)) :
    d.work id j m = e.failWith id j x := by
  unfold Dev.work
  rw [h]

/-- The bad record of a live command's tile leaves the command with a cause. -/
theorem Dev.failed_tileFails {d : Dev} {id : Nat} (crc : Bool) (index : Nat) (h : d.live id) : (d.tileFails id crc index).failed id := by
  have hcount : (if crc then d.addF .SK_ERR_CRC 1 else d.addF .SK_ERR_GEOM 1).live id := by
    cases crc <;> exact h
  unfold Dev.tileFails
  dsimp only
  generalize (if crc then d.addF .SK_ERR_CRC 1 else d.addF .SK_ERR_GEOM 1) = m at *
  split
  · exact Dev.failed_failCmd _ hcount
  · have hlive := Dev.live_of_kept (m.postCmd_kept id (if crc then .SK_TILE_CRC else .SK_TILE_GEOM) Status.faultData.num 0 index 0) hcount
    obtain ⟨k, hk, hcause⟩ := Dev.failed_failCmd .faultData hlive
    exact ⟨_, Dev.cmd?_updCmd_some (fun k => { k with tileBad := true }) hk (fun _ => rfl), hcause⟩

/-- A failure of a live command's work that names its cause leaves the command with it. -/
theorem Dev.failed_failWith {d : Dev} {id : Nat} (j : Nat) {x : Fail} (hx : x ≠ .given) (h : d.live id) : (d.failWith id j x).failed id := by
  have hpost : ∀ c st a i, (d.postCmd id c st a i).live id := fun c st a i => Dev.live_of_kept (d.postCmd_kept id c st a i 0) h
  cases x with
  | mem e => exact Dev.failed_memFail j e h
  | report st c a i => exact Dev.failed_failPart j st (hpost c st.num a i)
  | kill st c a i => exact Dev.failed_failCmd st (hpost c st.num a i)
  | tile crc i => exact Dev.failed_tileFails crc i h
  | plain st => exact Dev.failed_failPart j st h
  | given => exact absurd rfl hx

/-- Work for a live command that fails leaves the command with a cause. -/
theorem Dev.failed_work {d : Dev} {id : Nat} (j : Nat) {m : Op Unit} (hcause : Op.causes m)
    (hlives : ∀ {r e}, m.run.run d = (r, e) → e.live id) (hfail : Op.succeeds d m = false) : (d.work id j m).failed id := by
  obtain ⟨x, e, hr⟩ := Op.succeeds_false hfail
  rw [Dev.work_error hr]
  exact Dev.failed_failWith j (fun hx => hcause.named d e (hx ▸ hr)) (hlives hr)

theorem Dev.failed_work_kept {d : Dev} {id : Nat} (j : Nat) {m : Op Unit} (hm : Op.keeps Dev.kept m) (hcause : Op.causes m)
    (hlive : d.live id) (hfail : Op.succeeds d m = false) : (d.work id j m).failed id :=
  Dev.failed_work j hcause (fun hr => Dev.live_of_kept (hm.run hr) hlive) hfail

/-! ## The model's own failures name their cause -/

@[simp] theorem stripeFault_named (obj : Nat) : ¬stripeFault obj = .given := nofun
@[simp] theorem operand_named (item : Nat) : ¬operand item = .given := nofun
@[simp] theorem badRank_named (rank : Nat) : ¬badRank rank = .given := nofun
@[simp] theorem mapInvalid_named : ¬mapInvalid = .given := nofun
@[simp] theorem tableInvalid_named : ¬tableInvalid = .given := nofun
@[simp] theorem sizeFault_named (obj : Nat) : ¬sizeFault obj = .given := nofun

/-! ## Memory and layouts -/

@[simp] theorem need_causes (b : Bool) {f : Fail} (h : f ≠ .given) : Op.causes (need b f) := by
  cases b
  · exact .throw h
  · exact .pure ()

@[simp] theorem rd_causes (v : Version) (off n : Nat) : Op.causes (rd v off n) := by simp [rd]

@[simp] theorem rdNat_causes (v : Version) (off n : Nat) : Op.causes (rdNat v off n) :=
  (rd_causes v off n).bind fun _ => .pure _

@[simp] theorem wr_causes (v : Version) (off : Nat) (bs : List Byte) : Op.causes (wr v off bs) := by simp [wr]

@[simp] theorem Region.rd_causes (g : Region) (j off n : Nat) : Op.causes (Region.rd g j off n) := by
  simp [Region.rd]

@[simp] theorem Region.entry_causes (g : Region) (i j : Nat) : Op.causes (Region.entry g i j) := by
  simp [Region.entry]

@[simp] theorem Region.record_causes (g : Region) (i j : Nat) (own : Bool) :
    Op.causes (Region.record g i j own) := by
  unfold Region.record
  repeat' first | with_reducible apply Op.causes.bind | intro _
  all_goals simp

@[simp] theorem Region.tile_causes (g : Region) (i j : Nat) (own : Bool) :
    Op.causes (Region.tile g i j own) := by
  simp [Region.tile]

@[simp] theorem matrixAt_causes (v : Version) (off : Nat) : Op.causes (matrixAt v off) := by
  simp [matrixAt]

@[simp] theorem writeObject_causes (v : Version) (bs : List Byte) (full : Code) (matrix : Bool) :
    Op.causes (writeObject v bs full matrix) := by
  unfold writeObject
  repeat' first | with_reducible apply Op.causes.bind | intro _
  all_goals simp

@[simp] theorem stripeWrite_causes (v : Version) (rows cols fmt : Nat) (scaled colblk : Bool) (records : List
    (List Byte)) :
    Op.causes (stripeWrite v rows cols fmt scaled colblk records) := by
  unfold stripeWrite
  repeat' first | with_reducible apply Op.causes.bind | with_reducible apply Op.causes.forM | intro _ | split
  all_goals simp

@[simp] theorem writeMatrix_causes (v : Version) (rows cols fmt : Nat) (scaled colblk : Bool) (records : List
    (List Byte)) :
    Op.causes (writeMatrix v rows cols fmt scaled colblk records) := by
  unfold writeMatrix
  repeat' first | with_reducible apply Op.causes.bind | intro _ | split
  all_goals simp

@[simp] theorem tokenRows_causes (v : Version) : Op.causes (tokenRows v) := by
  unfold tokenRows
  repeat' first | with_reducible apply Op.causes.bind | intro _
  all_goals simp

@[simp] theorem TokenRows.row_causes (t : TokenRows) (e : Nat) : Op.causes (TokenRows.row t e) := by
  simp [TokenRows.row]

@[simp] theorem recvObject_causes (v : Version) {bad : Fail} (h : bad ≠ .given) : Op.causes (recvObject v bad) := by
  unfold recvObject
  repeat' first | with_reducible apply Op.causes.bind | intro _
  all_goals simp [h]

@[simp] theorem Region.rowVec_causes (g : Region) (r : Nat) : Op.causes (Region.rowVec g r) := by
  simp [Region.rowVec]

@[simp] theorem grainTable_causes (v : Version) {bad : Fail} (h : bad ≠ .given) : Op.causes (grainTable v bad) := by
  unfold grainTable
  repeat' first | with_reducible apply Op.causes.bind | intro _
  all_goals simp [h]

@[simp] theorem rowTarget_causes (v : Version) : Op.causes (rowTarget v) := by
  unfold rowTarget
  repeat' first | with_reducible apply Op.causes.bind | intro _
  all_goals simp

@[simp] theorem Region.tilesFor_causes (g : Region) (rows cols : List Nat) (own : Nat → Bool) :
    Op.causes (Region.tilesFor g rows cols own) := by
  unfold Region.tilesFor
  repeat' first | with_reducible apply Op.causes.bind | with_reducible apply Op.causes.mapM | intro _ | split
  all_goals simp

@[simp] theorem Region.els_causes (g : Region) (rows cols : List Nat) (own : Nat → Bool) :
    Op.causes (Region.els g rows cols own) := by
  simp [Region.els]

@[simp] theorem ActSrc.els_causes (a : ActSrc) (rows positions : List Nat) :
    Op.causes (ActSrc.els a rows positions) := by
  unfold ActSrc.els
  repeat' first | with_reducible apply Op.causes.bind | intro _ | split
  all_goals simp

@[simp] theorem inVer_causes (c : Cmd) (obj : Nat) : Op.causes (inVer c obj) := by
  unfold inVer
  repeat' first | with_reducible apply Op.causes.bind | intro _ | split
  all_goals simp

@[simp] theorem takeBuffers_causes (id p k n : Nat) : Op.causes (takeBuffers id p k n) := by
  induction n with
  | zero => exact .pure _
  | succ n ih =>
    refine .bind .get fun d => ?_
    split
    · exact .bind (.set _) fun _ => ih.bind fun _ => .pure _
    · exact .bind (.set _) fun _ => .throw (by simp)

@[simp] theorem LayerRun.dzRows_causes (r : LayerRun) (c : Cmd) (fl : Bool) (tokens ns : List Nat) :
    Op.causes (LayerRun.dzRows r c fl tokens ns) := by
  unfold LayerRun.dzRows
  repeat' first | with_reducible apply Op.causes.bind | intro _ | split
  all_goals simp

@[simp] theorem LayerRun.narrowEvents_causes (r : LayerRun) (c : Cmd) (ev : Ev) :
    Op.causes (LayerRun.narrowEvents r c ev) := by
  unfold LayerRun.narrowEvents
  repeat' first | with_reducible apply Op.causes.bind | intro _ | split
  all_goals simp

@[simp] theorem formDz_causes (id : Nat) (c : Cmd) (r : LayerRun) (fl : Bool) (arr : Nat) (tokens : List Nat) :
    Op.causes (formDz id c r fl arr tokens) := by
  unfold formDz
  dsimp only
  repeat' first
    | with_reducible apply Op.causes.bind
    | with_reducible apply Op.causes.forM
    | with_reducible apply Op.causes.mapM
    | with_reducible apply Op.causes.map
    | intro _
    | split
  all_goals simp

@[simp] theorem LayerRun.weightRows_causes (r : LayerRun) (u : LUnit) (g : Region) (ps : List Nat) :
    Op.causes (LayerRun.weightRows r u g ps) := by
  unfold LayerRun.weightRows
  repeat' first | with_reducible apply Op.causes.bind | intro _ | split
  all_goals simp

@[simp] theorem LayerRun.streamed_causes (r : LayerRun) (c : Cmd) (fl : Bool) (u : LUnit) (ps : List Nat) :
    Op.causes (LayerRun.streamed r c fl u ps) := by
  unfold LayerRun.streamed
  repeat' first | with_reducible apply Op.causes.bind | intro _ | split
  all_goals simp

@[simp] theorem LayerRun.stationary_causes (r : LayerRun) (c : Cmd) (fl : Bool) (u : LUnit) (ps : List Nat) :
    Op.causes (LayerRun.stationary r c fl u ps) := by
  unfold LayerRun.stationary
  repeat' first | with_reducible apply Op.causes.bind | intro _ | split
  all_goals simp

@[simp] theorem LayerRun.entering_causes (r : LayerRun) (c : Cmd) (fl : Bool) (u : LUnit) :
    Op.causes (LayerRun.entering r c fl u) := by
  unfold LayerRun.entering
  repeat' first | with_reducible apply Op.causes.bind | intro _ | split
  all_goals simp

@[simp] theorem LayerRun.results_causes (r : LayerRun) (c : Cmd) (fl : Bool) (u : LUnit) (acc : List (BitVec 32)) :
    Op.causes (LayerRun.results r c fl u acc) := by
  unfold LayerRun.results
  repeat' first | with_reducible apply Op.causes.bind | intro _ | split
  all_goals simp

@[simp] theorem LayerRun.keys_causes (r : LayerRun) (u : LUnit) : Op.causes (LayerRun.keys r u) := by
  unfold LayerRun.keys
  repeat' first | with_reducible apply Op.causes.bind | intro _ | split
  all_goals simp

@[simp] theorem Delta.addRow_causes (x : Delta) (fl : Bool) (row : Nat) (vs : List (Nat × F32)) : Op.causes (x.addRow fl row vs) :=
  .bind (.mem _) fun _ => .bind (.mem _) fun _ => .pure _

@[simp] theorem endUnit_causes (id i : Nat) (c : Cmd) (r : LayerRun) (u : LUnit) (acc : List (BitVec 32)) (fl : Bool) :
    Op.causes (endUnit id i c r u acc fl) := by
  unfold endUnit
  repeat' first | with_reducible apply Op.causes.bind | intro _ | split
  all_goals simp

@[simp] theorem castTile_causes (id : Nat) (c : Cmd) (u : LUnit) (fmt : Nat) (t : TileWork) (enter : List
    (BitVec 32)) :
    Op.causes (castTile id c u fmt t enter) := by
  unfold castTile
  repeat' first | with_reducible apply Op.causes.bind | with_reducible apply Op.causes.forM | intro _ | split
  all_goals simp

@[simp] theorem coppiceParts_causes (v : Version) : Op.causes (coppiceParts v) := by
  unfold coppiceParts
  repeat' first | with_reducible apply Op.causes.bind | intro _
  all_goals simp

@[simp] theorem coppiceMid_causes (c : Cmd) (r : LayerRun) (u : LUnit) (fl : Bool) (rk : Nat) (acc : List
    (BitVec 32)) :
    Op.causes (coppiceMid c r u fl rk acc) := by
  simp [coppiceMid]

@[simp] theorem coppiceTile_causes (id i : Nat) (c : Cmd) (r : LayerRun) (u : LUnit) (fl shape : Bool) (w : Nat)
    (f : Option ArrayFault) : Op.causes (coppiceTile id i c r u fl shape w f) := by
  unfold coppiceTile
  split
  · simp
  · refine .bind (by simp) fun ab => ?_
    dsimp only
    split
    · refine .bind (by simp) fun x => .bind (by simp) fun _ => .bind (by simp) fun wts => .bind (by simp) fun o =>
        .bind (by simp) fun _ => ?_
      split
      · exact .bind (by simp) fun mid => by simp
      · simp
    · split <;>
        exact .bind (by simp) fun acts => .bind (by simp) fun wts => .bind (castTile_causes ..) fun o => endUnit_causes ..

@[simp] theorem productTile_causes (id i : Nat) (c : Cmd) (r : LayerRun) (u : LUnit) (fl shape : Bool) (w : Nat)
    (f : Option ArrayFault) :
    Op.causes (productTile id i c r u fl shape w f) := by
  unfold productTile
  repeat' first | with_reducible apply Op.causes.bind | intro _ | split
  all_goals simp

@[simp] theorem blockData_causes (r : LayerRun) (b : TBlock) (fl : Bool) : Op.causes (blockData r b fl) := by
  unfold blockData
  repeat' first | with_reducible apply Op.causes.bind | intro _ | split
  all_goals simp

@[simp] theorem blockBytes_causes (r : LayerRun) (b : TBlock) : Op.causes (blockBytes r b) := by
  have hstored (js : List Nat) (g : Region) (k : Nat) : Op.causes (do
      let recs ← ((b.rows.map (· / 32)).dedup).mapM (fun i => js.mapM (fun j => g.record i j false))
      return sumNat (recs.flatten.map (fun x => ceilDiv (x.2.length * k) (max 1 x.1.cols)))) :=
    .bind (.mapM (fun i => .mapM (fun j => g.record_causes i j false) js) _) fun _ => .pure _
  unfold blockBytes
  dsimp only
  split
  · cases (r.entries[b.entry]?).bind LEntry.weights with
    | none => exact .pure 0
    | some g => exact hstored _ g _
  · split
    · exact hstored _ _ _
    · exact .pure _

@[simp] theorem stageWeights_causes (id i : Nat) (c : Cmd) (q : LayerRun) (u : LUnit) (g : Region) (h : Fin 2)
    (shape : Bool) (w : Nat) :
    Op.causes (stageWeights id i c q u g h shape w) := by
  unfold stageWeights
  repeat' first | with_reducible apply Op.causes.bind | intro _
  all_goals simp

@[simp] theorem coppiceOk_causes (arr : Nat) (v : Version) (k n : Nat) : Op.causes (coppiceOk arr v k n) := by
  unfold coppiceOk
  dsimp only
  repeat' first
    | with_reducible apply Op.causes.bind
    | with_reducible apply Op.causes.forM
    | with_reducible apply Op.causes.mapM
    | with_reducible apply Op.causes.map
    | intro _
    | split
  all_goals simp

@[simp] theorem outVer_causes (c : Cmd) (obj : Nat) : Op.causes (outVer c obj) := by
  unfold outVer
  repeat' first | with_reducible apply Op.causes.bind | intro _ | split
  all_goals simp

@[simp] theorem writeOut_causes (c : Cmd) (r : LayerRun) (fl : Bool) : Op.causes (writeOut c r fl) := by
  unfold writeOut
  repeat' first | with_reducible apply Op.causes.bind | intro _ | split
  all_goals simp

@[simp] theorem addGrads_causes (id : Nat) (c : Cmd) (r : LayerRun) (fl : Bool) :
    Op.causes (addGrads id c r fl) := by
  unfold addGrads
  repeat' first | with_reducible apply Op.causes.bind | with_reducible apply Op.causes.forM | intro _ | split
  all_goals simp

@[simp] theorem layerFinish_causes (id : Nat) (c : Cmd) (r : LayerRun) : Op.causes (layerFinish id c r) := by
  unfold layerFinish
  repeat' first | with_reducible apply Op.causes.bind | intro _ | split
  all_goals simp

@[simp] theorem rankNode_causes (p rank : Nat) : Op.causes (rankNode p rank) := by
  unfold rankNode
  repeat' first | with_reducible apply Op.causes.bind | intro _ | split
  all_goals simp

@[simp] theorem capTable_causes (experts : Nat) (bs : List Byte) : Op.causes (capTable experts bs) := by
  simp [capTable]

@[simp] theorem sieveLoad_causes (c : Cmd) (x : SvCtx) : Op.causes (sieveLoad c x) := by
  unfold sieveLoad
  repeat' first | with_reducible apply Op.causes.bind | intro _ | split
  all_goals simp

@[simp] theorem dlbReplica_causes (x : SvCtx) (expert : Nat) (ent : BitVec 256) :
    Op.causes (dlbReplica x expert ent) := by
  unfold dlbReplica
  repeat' first | with_reducible apply Op.causes.bind | with_reducible apply Op.causes.mapM | intro _ | split
  all_goals simp

@[simp] theorem pickReplica_causes (x : SvCtx) (slot token expert : Nat) (ent : BitVec 256) :
    Op.causes (pickReplica x slot token expert ent) := by
  unfold pickReplica
  repeat' first | with_reducible apply Op.causes.bind | intro _ | split
  all_goals simp

@[simp] theorem fillChoice_causes (c : Cmd) (x : SvCtx) (g : Grain) : Op.causes (fillChoice c x g) := by
  unfold fillChoice
  dsimp only
  repeat' first
    | with_reducible apply Op.causes.bind
    | with_reducible apply Op.causes.forM
    | with_reducible apply Op.causes.mapM
    | with_reducible apply Op.causes.map
    | intro _
    | split
  all_goals simp

@[simp] theorem fillAll_causes (c : Cmd) (x : SvCtx) (gs : List Grain) : Op.causes (fillAll c x gs) := by
  induction gs generalizing x with
  | nil => exact .pure _
  | cons g gs ih => exact .bind (fillChoice_causes c x g) fun r => .bind (ih r.1) fun _ => .pure _

@[simp] theorem sieveWrite_causes (c : Cmd) (obj off : Nat) (bs : List Byte) :
    Op.causes (sieveWrite c obj off bs) := by
  unfold sieveWrite
  repeat' first | with_reducible apply Op.causes.bind | intro _
  all_goals simp

@[simp] theorem spillRuns_causes (c : Cmd) (x : SvCtx) : Op.causes (spillRuns c x) := by
  unfold spillRuns
  dsimp only
  split
  · exact .pure _
  · exact .bind (takeBuffers_causes ..) fun _ => .bind (.forM (fun _ => .mem _) _) fun _ => .pure _

@[simp] theorem selectToken_causes (c : Cmd) (x : SvCtx) (r : SvRow) : Op.causes (selectToken c x r) := by
  unfold selectToken
  dsimp only
  repeat' first
    | with_reducible apply Op.causes.bind
    | with_reducible apply Op.causes.forM
    | with_reducible apply Op.causes.mapM
    | with_reducible apply Op.causes.map
    | intro _
    | split
  all_goals simp

@[simp] theorem sieveTail_causes (c : Cmd) (x : SvCtx) : Op.causes (sieveTail c x) := by
  unfold sieveTail
  repeat' first | with_reducible apply Op.causes.bind | with_reducible apply Op.causes.forM | intro _ | split
  all_goals simp

@[simp] theorem expertMap_causes (v : Version) : Op.causes (expertMap v) := by
  unfold expertMap
  repeat' first | with_reducible apply Op.causes.bind | intro _
  all_goals simp

@[simp] theorem xeRows_causes (v : Version) : Op.causes (xeRows v) := by
  unfold xeRows
  repeat' first | with_reducible apply Op.causes.bind | intro _
  all_goals simp

@[simp] theorem xeForm_causes (c : Cmd) : Op.causes (xeForm c) := by
  unfold xeForm
  repeat' first | with_reducible apply Op.causes.bind | intro _ | split
  all_goals simp

@[simp] theorem xeShare_causes (c : Cmd) (rank : Nat) : Op.causes (xeShare c rank) := by
  unfold xeShare
  repeat' first | with_reducible apply Op.causes.bind | intro _ | split
  all_goals simp

@[simp] theorem xeData_causes (c : Cmd) (f : XForm) (node self : Nat) (s : Share) :
    Op.causes (xeData c f node self s) := by
  simp [xeData]

@[simp] theorem XMsg.read_causes (m : XMsg) : Op.causes (XMsg.read m) := by
  unfold XMsg.read
  repeat' first | with_reducible apply Op.causes.bind | intro _ | split
  all_goals simp

@[simp] theorem headerOk_causes (c : Cmd) (src : Nat) (h : XHdr) : Op.causes (headerOk c src h) := by
  unfold headerOk
  repeat' first | with_reducible apply Op.causes.bind | intro _ | split
  all_goals simp

@[simp] theorem Recv.putBytes_causes (_r : Recv) (v : Version) (off : Nat) (bs : List Byte) :
    Op.causes (Recv.putBytes _r v off bs) := by
  unfold Recv.putBytes
  repeat' first | with_reducible apply Op.causes.bind | intro _
  all_goals simp

@[simp] theorem Recv.putRow_causes (r : Recv) (v : Version) (row : Nat) (vec : List Byte) :
    Op.causes (Recv.putRow r v row vec) := by
  unfold Recv.putRow
  repeat' first | with_reducible apply Op.causes.bind | with_reducible apply Op.causes.forM | intro _ | split
  all_goals simp

@[simp] theorem receivePlan_causes (c : Cmd) (x : XCtx) : Op.causes (receivePlan c x) := by
  unfold receivePlan
  repeat' first | with_reducible apply Op.causes.bind | intro _
  all_goals simp

@[simp] theorem takeHeader_causes (serial src : Nat) (c : Cmd) (m : XMsg) : Op.causes (takeHeader serial src c m) := by
  unfold takeHeader
  refine .bind m.read_causes fun bs => ?_
  split
  · exact .throw (by simp)
  · exact .bind (headerOk_causes ..) fun ok => .bind (need_causes _ (by simp)) fun _ => .bind (.act _) fun _ => .bind (.act _)
      fun _ => .act _

@[simp] theorem takeVector_causes (serial src idx : Nat) (c : Cmd) (m : XMsg) (h : XHead) :
    Op.causes (takeVector serial src idx c m h) := by
  unfold takeVector
  dsimp only
  repeat' first
    | with_reducible apply Op.causes.bind
    | with_reducible apply Op.causes.forM
    | with_reducible apply Op.causes.mapM
    | with_reducible apply Op.causes.map
    | intro _
    | split
  all_goals simp

@[simp] theorem combineWrite_causes (c : Cmd) (x : XCtx) : Op.causes (combineWrite c x) := by
  unfold combineWrite
  dsimp only
  repeat' first
    | with_reducible apply Op.causes.bind
    | with_reducible apply Op.causes.forM
    | with_reducible apply Op.causes.mapM
    | with_reducible apply Op.causes.map
    | intro _
    | split
  all_goals simp

@[simp] theorem heldVals_causes (c : Cmd) (x : CollCtx) (k : CChunk) : Op.causes (heldVals c x k) := by
  unfold heldVals
  repeat' first | with_reducible apply Op.causes.bind | intro _ | split
  all_goals simp

@[simp] theorem placeOut_causes (c : Cmd) (serial e : Nat) (vals : List (BitVec 32)) :
    Op.causes (placeOut c serial e vals) := by
  unfold placeOut
  repeat' first | with_reducible apply Op.causes.bind | intro _ | split
  all_goals simp

@[simp] theorem placeBlock_causes (c : Cmd) (serial chunk r : Nat) (vals : List (BitVec 32)) (n : Nat) :
    Op.causes (placeBlock c serial chunk r vals n) := by
  unfold placeBlock
  repeat' first | with_reducible apply Op.causes.bind | with_reducible apply Op.causes.forM | intro _ | split
  all_goals simp

@[simp] theorem placeStep_causes (c : Cmd) (serial chunk k : Nat) (vals : List (BitVec 32)) :
    Op.causes (placeStep c serial chunk k vals) := by
  unfold placeStep
  dsimp only
  split
  · split
    · exact placeOut_causes ..
    · exact .pure _
  · split
    · exact placeOut_causes ..
    · exact .pure _
  · exact placeBlock_causes ..
  · exact placeOut_causes ..

@[simp] theorem outShape_causes (c : Cmd) : Op.causes (outShape c) := by
  unfold outShape
  repeat' first | with_reducible apply Op.causes.bind | intro _ | split
  all_goals simp

@[simp] theorem writeColl_causes (c : Cmd) (x : CollCtx) : Op.causes (writeColl c x) := by
  unfold writeColl
  repeat' first | with_reducible apply Op.causes.bind | intro _ | split
  all_goals simp

@[simp] theorem readIn_causes (c : Cmd) (chunk handle : Nat) : Op.causes (readIn c chunk handle) := by
  unfold readIn
  repeat' first | with_reducible apply Op.causes.bind | intro _ | split
  all_goals simp

@[simp] theorem CMsg.vals_causes (m : CMsg) (c : Cmd) (n : Nat) : Op.causes (CMsg.vals m c n) := by
  unfold CMsg.vals
  repeat' first | with_reducible apply Op.causes.bind | intro _ | split
  all_goals simp

@[simp] theorem sendAdd_causes (c : Cmd) (slot gen : Nat) : Op.causes (sendAdd c slot gen) := by
  unfold sendAdd
  repeat' first | with_reducible apply Op.causes.bind | intro _ | split
  all_goals simp

@[simp] theorem readMember_causes (v : Version) (m : Nat) : Op.causes (readMember v m) := by
  simp [readMember]

@[simp] theorem readWhole_causes (v : Version) : Op.causes (readWhole v) := by
  simp [readWhole]

@[simp] theorem readImages_causes (v : Version) : Op.causes (readImages v) := by
  simp [readImages]

@[simp] theorem copyImages_causes (imgs : List (List Byte)) (dst : Version) :
    Op.causes (copyImages imgs dst) := by
  unfold copyImages
  repeat' first | with_reducible apply Op.causes.bind | with_reducible apply Op.causes.forM | intro _ | split
  all_goals simp

@[simp] theorem copyVersion_causes (src dst : Version) : Op.causes (copyVersion src dst) := by
  unfold copyVersion
  repeat' first | with_reducible apply Op.causes.bind | intro _
  all_goals simp

@[simp] theorem copyObject_causes (id : Nat) (c : Cmd) : Op.causes (copyObject id c) := by
  unfold copyObject
  repeat' first | with_reducible apply Op.causes.bind | intro _
  all_goals simp

@[simp] theorem copyIn_causes (id : Nat) (c : Cmd) (data : List Byte) : Op.causes (copyIn id c data) := by
  unfold copyIn
  repeat' first | with_reducible apply Op.causes.bind | intro _
  all_goals simp

@[simp] theorem copyOut_causes (id : Nat) (c : Cmd) : Op.causes (copyOut id c) := by
  unfold copyOut
  repeat' first | with_reducible apply Op.causes.bind | intro _
  all_goals simp

@[simp] theorem streamOut_causes (id : Nat) (c : Cmd) (data : List Byte) : Op.causes (streamOut id c data) := by
  unfold streamOut
  repeat' first | with_reducible apply Op.causes.bind | intro _ | split
  all_goals simp

@[simp] theorem verifyEntry_causes (k i : Nat) (e : SwapEntry) : Op.causes (verifyEntry k i e) := by
  unfold verifyEntry
  exact .bind (rd_causes ..) fun bs => .bind (need_causes _ (by simp [swapFault])) fun _ => .bind (.act _) fun _ => .bind (.act _)
    fun _ => .act _

@[simp] theorem foldDelta_causes (c : Cmd) (x : Delta) : Op.causes (foldDelta c x) := by
  unfold foldDelta
  repeat' first | with_reducible apply Op.causes.bind | with_reducible apply Op.causes.mapM | intro _ | split
  all_goals simp

end Sys2Proof.Machine
end

section

/-! PROOFS. What an engine's accesses leave: reads change the translation cache, and writes change bytes beside it; and what an
operation that succeeds leads to. -/

namespace Sys2Proof.Machine

/-! ## What an access leaves -/

/-- The device but for the bytes of memory, the translation cache and its walk count. -/
def Dev.beside (d : Dev) : Dev × (Reg → Nat → Nat → BitVec 64) :=
  ({ d with regs := [], mem := { d.mem with hbm := [], slab := [], hbmBad := [], slabBad := [], xu := [] } },
    fun r i j => if r = .XU_WALKS then 0 else d.reg r i j)

section
variable {d e : Dev}

theorem Dev.beside_reg (h : e.beside = d.beside) {r : Reg} (hr : r ≠ .XU_WALKS) (i j : Nat) : e.reg r i j = d.reg r i j := by
  simpa only [Dev.beside, if_neg hr] using congrFun (congrFun (congrFun (congrArg Prod.snd h) r) i) j

theorem Dev.beside_f (h : e.beside = d.beside) {g : Fld} (hg : g.reg ≠ .XU_WALKS) (i j : Nat) : e.f g i j = d.f g i j :=
  congrArg g.of (Dev.beside_reg h hg i j)

theorem Dev.beside_rest (h : e.beside = d.beside) : { e with regs := d.regs, mem := { e.mem with
    hbm := d.mem.hbm, slab := d.mem.slab, hbmBad := d.mem.hbmBad, slabBad := d.mem.slabBad, xu := d.mem.xu } } = d := by
  have h1 : ({ e with regs := [], mem := { e.mem with hbm := [], slab := [], hbmBad := [], slabBad := [], xu := [] } } : Dev) =
      { d with regs := [], mem := { d.mem with hbm := [], slab := [], hbmBad := [], slabBad := [], xu := [] } } := congrArg Prod.fst h
  exact congrArg (fun x : Dev => { x with regs := d.regs, mem := { x.mem with
    hbm := d.mem.hbm, slab := d.mem.slab, hbmBad := d.mem.hbmBad, slabBad := d.mem.slabBad, xu := d.mem.xu } }) h1

theorem Dev.beside_of_unread (h : e.unread = d.unread) : e.beside = d.beside :=
  congrArg (fun x : Dev × (Reg → Nat → Nat → BitVec 64) =>
    (({ x.1 with mem := { x.1.mem with hbm := [], slab := [], hbmBad := [], slabBad := [] } } : Dev), x.2)) h

theorem Dev.beside_of_bytes (hb sb xb : _) (b1 b2 : _) :
    Dev.beside { d with mem := { d.mem with hbm := hb, slab := sb, hbmBad := b1, slabBad := b2, xu := xb } } = d.beside := rfl

theorem Dev.physWrite_beside {a : Nat} {bs : List Byte} (h : d.physWrite a bs = .ok e) : e.beside = d.beside := by
  unfold Dev.physWrite at h
  split at h
  · cases h
  · split at h <;> cases h
    rfl

theorem Dev.slabWrite_beside {arr off : Nat} {bs : List Byte} (h : d.slabWrite arr off bs = .ok e) : e.beside = d.beside := by
  simp only [Dev.slabWrite] at h
  split at h
  · cases h
  · split at h <;> cases h
    rfl

end

variable (d : Dev)

@[simp] theorem Dev.writePieces_beside (ps : List (Nat × Nat)) (bs : List Byte) : (d.writePieces ps bs).1.beside = d.beside := by
  induction ps generalizing d bs with
  | nil => rfl
  | cons p ps ih =>
    unfold Dev.writePieces
    split
    · rfl
    · exact (ih ..).trans (Dev.physWrite_beside ‹_›)

@[simp] theorem Dev.vaWrite_beside (p va : Nat) (bs : List Byte) : (d.vaWrite p va bs).1.beside = d.beside := by
  have h := Dev.beside_of_unread (d.pieces_unread p true (bs.length / 65536 + 2) va bs.length)
  unfold Dev.vaWrite
  split <;> simp_all

@[simp] theorem Dev.verWriteM_beside (v : Version) (m off : Nat) (bs : List Byte) : (d.verWriteM v m off bs).1.beside = d.beside := by
  unfold Dev.verWriteM
  split
  · split
    · rfl
    · exact Dev.slabWrite_beside ‹_›
  · simp

@[simp] theorem Dev.verWrite_beside (v : Version) (off : Nat) (bs : List Byte) : (d.verWrite v off bs).1.beside = d.beside :=
  d.verWriteM_beside ..

/-! ## Reads and writes as operations -/

@[simp] theorem Op.keeps.beside_of_unread {α : Type} {m : Op α} (h : Op.keeps Dev.unread m) : Op.keeps Dev.beside m :=
  ⟨fun d => Dev.beside_of_unread (h.after d)⟩

@[simp] theorem need_unread (b : Bool) (f : Fail) : Op.keeps Dev.unread (need b f) := by
  cases b
  · exact .throw f
  · exact .pure ()

@[simp] theorem rd_unread (v : Version) (off n : Nat) : Op.keeps Dev.unread (rd v off n) := by simp [rd]

@[simp] theorem rdNat_unread (v : Version) (off n : Nat) : Op.keeps Dev.unread (rdNat v off n) :=
  (rd_unread v off n).bind fun _ => .pure _

@[simp] theorem wr_beside (v : Version) (off : Nat) (bs : List Byte) : Op.keeps Dev.beside (wr v off bs) := by simp [wr]

@[simp] theorem Region.rd_unread (g : Region) (j off n : Nat) : Op.keeps Dev.unread (Region.rd g j off n) := by simp [Region.rd]

@[simp] theorem Region.entry_unread (g : Region) (i j : Nat) : Op.keeps Dev.unread (Region.entry g i j) := by simp [Region.entry]

@[simp] theorem Region.record_unread (g : Region) (i j : Nat) (own : Bool) : Op.keeps Dev.unread (Region.record g i j own) := by
  unfold Region.record
  repeat' first | with_reducible apply Op.keeps.bind | intro _
  all_goals simp

@[simp] theorem Region.tile_unread (g : Region) (i j : Nat) (own : Bool) : Op.keeps Dev.unread (Region.tile g i j own) := by
  simp [Region.tile]

@[simp] theorem matrixAt_unread (v : Version) (off : Nat) : Op.keeps Dev.unread (matrixAt v off) := by simp [matrixAt]

@[simp] theorem rowTarget_unread (v : Version) : Op.keeps Dev.unread (rowTarget v) := by
  unfold rowTarget
  repeat' first | with_reducible apply Op.keeps.bind | intro _
  all_goals simp

@[simp] theorem outVer_unread (c : Cmd) (obj : Nat) : Op.keeps Dev.unread (outVer c obj) := by
  unfold outVer
  split <;> simp

@[simp] theorem writeObject_beside (v : Version) (bs : List Byte) (full : Code) (matrix : Bool) :
    Op.keeps Dev.beside (writeObject v bs full matrix) := by
  unfold writeObject
  repeat' first | with_reducible apply Op.keeps.bind | intro _
  all_goals simp

@[simp] theorem stripeWrite_beside (v : Version) (rows cols fmt : Nat) (scaled colblk : Bool) (records : List (List Byte)) :
    Op.keeps Dev.beside (stripeWrite v rows cols fmt scaled colblk records) := by
  unfold stripeWrite
  repeat' first | with_reducible apply Op.keeps.bind | with_reducible apply Op.keeps.forM | intro _ | split
  all_goals simp

@[simp] theorem writeMatrix_beside (v : Version) (rows cols fmt : Nat) (scaled colblk : Bool) (records : List (List Byte)) :
    Op.keeps Dev.beside (writeMatrix v rows cols fmt scaled colblk records) := by
  unfold writeMatrix
  repeat' first | with_reducible apply Op.keeps.bind | intro _ | split
  all_goals simp

/-! ## What an operation leads to -/

/-- From a device of which P holds, an operation that succeeds leads to a result and a device of which Q holds. -/
structure Op.leads {α : Type} (P : Dev → Prop) (m : Op α) (Q : α → Dev → Prop) : Prop where
  holds {d e : Dev} {a : α} : P d → m.run.run d = (.ok a, e) → Q a e

namespace Op.leads

section
variable {α β κ : Type} {P : Dev → Prop} {R : α → Dev → Prop} {Q : β → Dev → Prop} {π : Dev → κ}

theorem bind {m : Op α} {f : α → Op β} (hm : Op.leads P m R) (hf : ∀ a, Op.leads (R a) (f a) Q) : Op.leads P (m >>= f) Q := by
  constructor
  intro d e b hp h
  rcases hr : m.run.run d with ⟨x | a, k⟩
  · rw [Op.run_bind_error hr] at h
    cases h
  · rw [Op.run_bind_ok hr] at h
    exact (hf a).holds (hm.holds hp hr) h

theorem of_keeps {m : Op α} (h : Op.keeps π m) (k : κ) : Op.leads (fun d => π d = k) m (fun _ e => π e = k) :=
  ⟨fun hd hr => (h.run hr).trans hd⟩

/-- A step that keeps what is known of the device. -/
theorem step {m : Op α} {f : α → Op β} {k : κ} (hm : Op.keeps π m) (hf : ∀ a, Op.leads (fun d => π d = k) (f a) Q) :
    Op.leads (fun d => π d = k) (m >>= f) Q := (of_keeps hm k).bind hf

theorem act {g : Dev → Dev} {Q : PUnit → Dev → Prop} (h : ∀ d, P d → Q ⟨⟩ (g d)) : Op.leads P (Op.act g) Q :=
  ⟨fun hd hr => by cases hr; exact h _ hd⟩

theorem pure {a : α} (h : ∀ d, P d → R a d) : Op.leads P (Pure.pure a) R := ⟨fun hd hr => by cases hr; exact h _ hd⟩

theorem throw (x : Fail) : Op.leads P (MonadExcept.throw x : Op α) R := ⟨fun _ hr => by cases hr⟩

/-- What an operation does may hang on the device it finds. -/
theorem get {f : Dev → Op α} (h : ∀ d, P d → Op.leads (· = d) (f d) R) : Op.leads P (MonadState.get >>= f) R := by
  constructor
  intro d e a hp hr
  rw [Op.run_bind_ok (m := MonadState.get) (a := d) (e := d) rfl] at hr
  exact (h d hp).holds rfl hr

theorem weaken {m : Op α} {P' : Dev → Prop} {R' : α → Dev → Prop} (h : Op.leads P m R) (hp : ∀ d, P' d → P d)
    (hr : ∀ a e, R a e → R' a e) : Op.leads P' m R' := ⟨fun hd he => hr _ _ (h.holds (hp _ hd) he)⟩

/-- A condition that has passed holds. -/
theorem need {b : Bool} {x : Fail} {f : PUnit → Op α} (h : b = true → Op.leads P (f ⟨⟩) R) :
    Op.leads P (Machine.need b x >>= f) R := by
  cases b with
  | false => exact bind (R := fun _ _ => False) (throw x) fun _ => ⟨fun hd => hd.elim⟩
  | true => exact bind (R := fun _ => P) (pure fun _ hd => hd) fun _ => h rfl

end
end Op.leads

end Sys2Proof.Machine
end

section

/-! PROOFS. Object table clears and near-memory folds (ObjectTablesAndFolds; R204, R222, R223). -/

namespace Sys2Proof.Machine

/-- Work that succeeds leads to what its operation leads to. -/
theorem Dev.work_leads {d : Dev} {id j : Nat} {m : Op Unit} {P Q : Dev → Prop} (h : Op.leads P m (fun _ => Q)) (hp : P d)
    (hs : Op.succeeds d m = true) : Q (d.work id j m) := by
  obtain ⟨a, e, hr⟩ := Op.succeeds_true hs
  rw [Dev.work_ok hr]
  exact h.holds hp hr

/-! ## Clears -/

/-- An address listed no more reads the default; others read as before. -/
theorem SMap.get_filter {α : Type} (dflt : α) (m : SMap α) (p : Nat → Bool) (k : Nat) :
    SMap.get dflt (m.filter (fun e => p e.1)) k = if p k then SMap.get dflt m k else dflt := by
  induction m with
  | nil => simp [SMap.get]
  | cons e m ih =>
    obtain ⟨a, v⟩ := e
    by_cases hp : p a = true
    · rw [List.filter_cons_of_pos (by exact hp), SMap.get, SMap.get, ih]
      by_cases hk : a = k
      · rw [if_pos hk, if_pos hk, if_pos (hk ▸ hp)]
      · rw [if_neg hk, if_neg hk]
    · rw [List.filter_cons_of_neg (by exact hp), ih, SMap.get]
      by_cases hk : a = k
      · rw [if_neg (hk ▸ hp), if_neg (hk ▸ hp)]
      · rw [if_neg hk]

section
variable {s : State} {p : Fin 16}

/-- TIER_OBJTAB_CLEAR begins the clear of the table of a partition without a job. -/
theorem objtab_clears {ap : Aperture} {v : BitVec 64} (hacc : s.dev.accepts ap .TIER_OBJTAB p = true) (hv : s.dev.valid p = false)
    (hclear : bit v.toNat 45 = true) :
    Completes (.tierObjtabClear ap p v) s (fun e =>
      e.flag .TIER_OBJTAB_BUSY p = true ∧ (p.val, e.entryAddr p 0, e.tableSize p * 32) ∈ e.mem.clearing ∧
      (∀ c ∈ e.mem.charges, c.part ≠ p) ∧ e.mem.hbm = s.dev.mem.hbm ∧ e.mem.slab = s.dev.mem.slab ∧
      s.dev.regsBut e [Reg.code .TIER_OBJTAB p 0]) := by
  refine Completes.of_accepted (g := fun d => d.objtab ap p v) rfl hacc ?_
  have hof : Fld.TIER_OBJTAB_CLEAR.of v ≠ 0 := by
    simp only [bit, decide_eq_true_eq] at hclear
    show v.toNat / 2 ^ 45 % 2 ^ 1 ≠ 0
    omega
  unfold Dev.objtab
  rw [hv, if_neg (by decide)]
  dsimp only
  rw [if_neg hof]
  have hw : s.dev.regsBut (s.dev.plainWrite .TIER_OBJTAB v p) [Reg.code .TIER_OBJTAB p 0] :=
    (Dev.regsBut.refl s.dev _).plainWrite v List.mem_cons_self
  have hmem : (s.dev.plainWrite .TIER_OBJTAB v p).mem = s.dev.mem := rfl
  generalize s.dev.plainWrite .TIER_OBJTAB v p = m at *
  generalize hn : ({ m with mem := { m.mem with
      charges := m.mem.charges.filter (fun c => c.part != p)
      clearing := m.mem.clearing.filter (fun (c : Nat × Nat × Nat) => c.1 != p) ++ [(p.val, m.entryAddr p 0, m.tableSize p * 32)] } } : Dev) = n
  have hf : ∀ g : Fld, (n.setF .TIER_OBJTAB_BUSY 1 p).f g p = (m.setF .TIER_OBJTAB_BUSY 1 p).f g p := by
    intro g
    rw [← hn]
    rfl
  have happart : ∀ g : Fld, g.reg = .TIER_OBJTAB → g.lo + g.width ≤ 46 → (n.setF .TIER_OBJTAB_BUSY 1 p).settle.f g p = m.f g p :=
    fun g hg hlo => (hf g).trans (m.f_setF_apart .TIER_OBJTAB_BUSY g 1 p 0 hg (by decide) (.inl hlo))
  have hbase : (n.setF .TIER_OBJTAB_BUSY 1 p).settle.entryAddr p 0 = m.entryAddr p 0 := by
    rw [Dev.entryAddr, happart .TIER_OBJTAB_BASE rfl (by decide)]
    rfl
  have hsize : (n.setF .TIER_OBJTAB_BUSY 1 p).settle.tableSize p = m.tableSize p := by
    rw [Dev.tableSize, happart .TIER_OBJTAB_SIZE_LOG2 rfl (by decide)]
    rfl
  have hnm : (n.setF .TIER_OBJTAB_BUSY 1 p).settle.mem = n.mem := rfl
  refine ⟨Dev.flag_of_one (Dev.f_setF_fit _ _ _ _ (by decide) (by decide)), ?_, ?_, ?_, ?_, ?_⟩
  · rw [hbase, hsize, hnm, ← hn]
    exact List.mem_append_right _ List.mem_cons_self
  · rw [hnm, ← hn]
    intro c hc
    simpa using (List.mem_filter.mp hc).2
  · rw [hnm, ← hn, ← hmem]
  · rw [hnm, ← hn, ← hmem]
  · have hregs : n.regs = m.regs := by rw [← hn]
    exact ((hw.congr hregs).setF 1 (by simp)).settle

/-- TIER_OBJTAB_CLEAR is refused while the partition holds a job. -/
theorem objtab_refused {ap : Aperture} {v : BitVec 64} (hacc : s.dev.accepts ap .TIER_OBJTAB p = true) (hv : s.dev.valid p = true) :
    Completes (.tierObjtabClear ap p v) s (fun e =>
      s.dev.posted e .FAULT_PROT (fun r => r.address = Reg.TIER_OBJTAB.addrOf p 0) ∧ s.dev.restTold e ∧
      e.reg .TIER_OBJTAB p = s.dev.reg .TIER_OBJTAB p) := by
  refine Completes.of_accepted (g := fun d => d.objtab ap p v) rfl hacc ?_
  unfold Dev.objtab
  rw [hv, if_pos rfl]
  exact ⟨((s.dev.refuse_posted ap _ true).mono fun _ h => h.1).settle, Dev.restTold_refuse ap _ (.refl _), rfl⟩

/-- Whether an address lies in a range outside the retired frames. -/
def Dev.zeroed (d : Dev) (base n a : Nat) : Bool := decide (base ≤ a ∧ a < base + n) && !d.mem.frames.contains (a / 65536)

/-- OBJTAB_CLEAR_DONE: the table reads zero, and BUSY ends. -/
theorem objtabClearDone_completes {q base n : Nat} (hfind : s.dev.mem.clearing.find? (fun c => c.1 == p.val) = some (q, base, n)) :
    Completes (.objtabClearDone p) s (fun e =>
      (∀ a, base ≤ a → a < base + n → a / 65536 ∉ s.dev.mem.frames → SMap.get 0 e.mem.hbm a = 0) ∧
      (∀ a, (a < base ∨ base + n ≤ a ∨ a / 65536 ∈ s.dev.mem.frames) →
        SMap.get 0 e.mem.hbm a = SMap.get 0 s.dev.mem.hbm a) ∧
      e.flag .TIER_OBJTAB_BUSY p = false ∧ (∀ c ∈ e.mem.clearing, c.1 ≠ p.val) ∧ e.mem.slab = s.dev.mem.slab ∧
      s.dev.regsBut e [Reg.code .TIER_OBJTAB p 0, Reg.code .TIER_USE p 0]) := by
  refine Completes.of_act (g := fun d => d.objtabDone p) rfl ?_
  generalize hm : ({ s.dev with mem := { s.dev.mem with
      hbm := s.dev.mem.hbm.filter (fun e => !s.dev.zeroed base n e.1), hbmBad := s.dev.mem.hbmBad.filter (fun l => !s.dev.zeroed base n l)
      clearing := s.dev.mem.clearing.filter (fun (c : Nat × Nat × Nat) => c.1 != p)
      superseded := s.dev.mem.superseded.filter (fun x => x.ver.part != p) } } : Dev) = m
  have hrow : s.dev.objtabDone p = (m.setF .TIER_OBJTAB_BUSY 0 p).settleCharges p := by
    unfold Dev.objtabDone
    rw [hfind, ← hm]
    rfl
  have hregs : m.regs = s.dev.regs := by rw [← hm]
  have hbusy : (m.setF .TIER_OBJTAB_BUSY 0 p).f .TIER_OBJTAB_BUSY p = 0 := Dev.f_setF_fit _ _ _ _ (by decide) (by decide)
  have hframe : s.dev.regsBut (m.setF .TIER_OBJTAB_BUSY 0 p) [Reg.code .TIER_OBJTAB p 0, Reg.code .TIER_USE p 0] :=
    ((Dev.regsBut.refl s.dev _).congr hregs).setF 0 (by simp)
  have hmem : (m.setF .TIER_OBJTAB_BUSY 0 p).mem = m.mem := rfl
  rw [hrow]
  generalize m.setF .TIER_OBJTAB_BUSY 0 p = k at *
  obtain ⟨hcharged, -, -, -, -⟩ := k.settleCharges_spec p
  have hcharges : k.regsBut (k.settleCharges p) [Reg.code .TIER_USE p 0] := by
    unfold Dev.settleCharges
    exact .setF (.setF ((Dev.regsBut.refl k _).congr rfl) _ (by simp)) _ (by simp)
  generalize k.settleCharges p = e at *
  have hhbm : e.mem.hbm = s.dev.mem.hbm.filter (fun e => !s.dev.zeroed base n e.1) := by
    rw [hcharged, hmem, ← hm]
  have hget := fun a => SMap.get_filter (0 : Byte) s.dev.mem.hbm (fun a => !s.dev.zeroed base n a) a
  rw [← hhbm] at hget
  refine ⟨fun a hlo hhi hframes => ?_, fun a ha => ?_, ?_, ?_, ?_, (hframe.trans (hcharges.mono (List.subset_cons_self _ _))).settle⟩
  · have hz : s.dev.zeroed base n a = true := by simp [Dev.zeroed, hlo, hhi, hframes]
    rw [Dev.settle_mem, hget, hz]
    rfl
  · have hz : s.dev.zeroed base n a = false := by
      unfold Dev.zeroed
      rcases ha with ha | ha | ha
      · simp [show ¬(base ≤ a) by omega]
      · simp [show ¬(a < base + n) by omega]
      · simp [ha]
    rw [Dev.settle_mem, hget, hz]
    rfl
  · have hreg := hcharges .TIER_OBJTAB p 0 (by
      rw [List.mem_singleton]
      exact fun h => absurd (Reg.code_reg h) (by decide))
    have hf : e.settle.f .TIER_OBJTAB_BUSY p = 0 := by
      rw [Dev.settle_f, Dev.f, hreg]
      exact hbusy
    exact Dev.flag_of_zero hf
  · rw [Dev.settle_mem, hcharged, hmem, ← hm]
    intro c hc
    simpa using (List.mem_filter.mp hc).2
  · rw [Dev.settle_mem, hcharged, hmem, ← hm]

end

/-! ## Folds -/


theorem Dev.beside_cmds {d e : Dev} (h : e.beside = d.beside) : e.cmds = d.cmds :=
  (congrArg Dev.cmds (Dev.beside_rest h) :)

theorem Dev.beside_link {d e : Dev} (h : e.beside = d.beside) : e.link = d.link :=
  (congrArg Dev.link (Dev.beside_rest h) :)

/-- The deltas of an object marked as folded. -/
def Cmd.markFolded (obj : Nat) (c : Cmd) : Cmd :=
  { c with deltas := mapIf (fun y => y.obj == obj) (fun y => { y with folded := true }) c.deltas }

theorem Cmd.markFolded_deltas {obj : Nat} {c : Cmd} {y : Delta} (hy : y ∈ (c.markFolded obj).deltas) (hobj : y.obj = obj) :
    y.folded = true := by
  obtain ⟨x, -, rfl⟩ := List.mem_map.mp hy
  split at hobj <;> simp_all

/-- A fold that succeeds marks the deltas of its object as folded. -/
theorem foldDelta_leads {d : Dev} {c : Cmd} (x : Delta) (hc : d.cmd? c.id = some c) :
    Op.leads (fun e => e.beside = d.beside) (foldDelta c x) (fun _ e => ∃ k, e.cmd? c.id = some k ∧
      ∀ y ∈ k.deltas, y.obj = x.obj → y.folded = true) := by
  unfold foldDelta
  refine .step (Op.keeps.beside_of_unread (outVer_unread ..)) fun v => .step .get fun _ => .step (.mem fun _ => rfl) fun e => ?_
  extract_lets tr tc rest
  have hrest : ∀ old, Op.leads (fun e => e.beside = d.beside) (rest old) (fun _ e => ∃ k, e.cmd? c.id = some k ∧
      ∀ y ∈ k.deltas, y.obj = x.obj → y.folded = true) := fun old => by
    refine .step (.mapM (fun i => .mapM (fun j => ?_) _) _) fun recs => .step (writeMatrix_beside ..) fun _ =>
      .bind (R := fun _ e => e.cmds = d.cmds) (.act fun e he => show e.cmds = d.cmds from Dev.beside_cmds he) fun _ =>
        .act fun e he => ?_
    · repeat' first | with_reducible apply Op.keeps.bind | with_reducible apply Op.keeps.mapM | intro _ | split
      all_goals simp
    · have hc' : e.cmd? c.id = some c := by rw [Dev.cmd?, he]; exact hc
      exact ⟨_, Dev.cmd?_updCmd_some (Cmd.markFolded x.obj) hc' (fun _ => rfl), fun y => Cmd.markFolded_deltas⟩
  split
  · split
    · exact .step (Op.keeps.beside_of_unread (.map (rowTarget_unread _) _)) hrest
    · exact .step (.pure _) hrest
  · exact .step (.pure _) hrest

/-- NMA_FOLD folds a ready command's delta, or the command fails. -/
theorem nmaFold_completes {s : State} {id obj : Nat} {c : Cmd} {x : Delta} (hstall : s.dev.stalled = false)
    (hc : s.dev.cmd? id = some c) (hrun : c.running = true) (hready : c.ready = true)
    (hx : c.deltas.find? (fun x => x.obj == obj && !x.folded) = some x) (hfree : s.dev.foldBlocked c obj = false) :
    Completes (.nmaFold id obj) s (fun e => s.dev.noneEnds e ∧
      (Op.succeeds s.dev (foldDelta c x) = true → ∃ k, e.cmd? id = some k ∧ ∀ y ∈ k.deltas, y.obj = obj → y.folded = true) ∧
      (Op.succeeds s.dev (foldDelta c x) = false → e.failed id)) := by
  refine Completes.of_engine (g := fun d => d.nmaFold id obj) rfl hstall ?_
  have hrow : s.dev.nmaFold id obj = s.dev.work id 0 (foldDelta c x) := by
    simp [Dev.nmaFold, hc, hx, hrun, hready, hfree]
  have hid : c.id = id := by simpa using List.find?_some hc
  have hobj : x.obj = obj := by
    have := List.find?_some hx
    simp only [Bool.and_eq_true, beq_iff_eq] at this
    exact this.1
  rw [hrow]
  refine ⟨Dev.noneEnds_of_kept ((Dev.settle_kept _).trans (s.dev.work_kept (foldDelta_keeps c x))), fun hs => ?_, fun hs =>
    Dev.failed_work_kept 0 (foldDelta_keeps c x) (foldDelta_causes c x) (Dev.live_of_running hc hrun) hs⟩
  rw [← hobj, ← hid]
  exact Dev.work_leads (foldDelta_leads x (hid ▸ hc)) rfl hs

/-- Settles O53: a clear is started, done or refused, and a fold marks its delta or fails its command. -/
theorem objectTablesAndFolds : Obligations.ObjectTablesAndFolds := by
  unfold Obligations.ObjectTablesAndFolds
  intro s
  exact ⟨fun ap p v hacc => ⟨objtab_clears hacc, objtab_refused hacc⟩, fun p q base n => objtabClearDone_completes,
    fun id obj c x hstall hc hrun hready hx hfree => nmaFold_completes hstall hc hrun hready hx hfree⟩

end Sys2Proof.Machine
end

section

/-! PROOFS. What the telling of a failure and the Landing pools' work for an engine leave, and STEP_GRANT (R94 to R96). -/

namespace Sys2Proof.Machine

/-! ## What the telling of a failure reaches -/

/-- The registers that failures are counted and latched in. -/
def failRegs : List Reg := [.TIER_HBM_ERR, .TIER_SLAB_ERR, .TIER_UE_ADDR, .XU_FAULT_CNT, .XU_FAULT, .XU_FAULT_TAG, .SK_ERR,
  .ERR_REPLACE, .ERR_STATUS]

/-- Only commands, what is held for the host, the error counts and the registers of failures have changed. -/
structure Dev.failMoves (d e : Dev) : Prop where
  reg : ∀ r i j, r ∉ failRegs → e.reg r i j = d.reg r i j
  rest : { e with regs := d.regs, cmds := d.cmds, err := d.err, link := { e.link with held := d.link.held, seq := d.link.seq } } = d

namespace Dev.failMoves

section
variable {d m e : Dev}

theorem refl (d : Dev) : Dev.failMoves d d := ⟨fun _ _ _ _ => rfl, rfl⟩

theorem trans (h : Dev.failMoves d m) (h' : Dev.failMoves m e) : Dev.failMoves d e where
  reg r i j hr := (h'.reg r i j hr).trans (h.reg r i j hr)
  rest := (congrArg (fun x : Dev => { x with
    regs := d.regs, cmds := d.cmds, err := d.err, link := { x.link with held := d.link.held, seq := d.link.seq } }) h'.rest).trans h.rest

theorem setReg (d : Dev) (r : Reg) (v : BitVec 64) (i j : Nat) (hr : r ∈ failRegs) : Dev.failMoves d (d.setReg r v i j) where
  reg q i' j' hq := d.reg_setReg_ne v i j i' j' (by rintro rfl; exact hq hr)
  rest := rfl

theorem setF (d : Dev) (f : Fld) (n i j : Nat) (hf : f.reg ∈ failRegs) : Dev.failMoves d (d.setF f n i j) := setReg d f.reg _ i j hf

theorem updCmd (d : Dev) (id : Nat) (g : Cmd → Cmd) : Dev.failMoves d (d.updCmd id g) := ⟨fun _ _ _ _ => rfl, rfl⟩

theorem set_err (d : Dev) (x : ErrSt) : Dev.failMoves d { d with err := x } := ⟨fun _ _ _ _ => rfl, rfl⟩

theorem post (d : Dev) (c : Code) (addr index : Nat) (who : Who) (n : Nat) : Dev.failMoves d (d.post c addr index who n) where
  reg r i j hr := d.reg_post c addr index who n i j (fun hc => hr (Reg.code_reg hc ▸ by decide))
  rest := (congrArg (fun x : Dev => { x with
    regs := d.regs, cmds := d.cmds, err := d.err, link := { x.link with held := d.link.held, seq := d.link.seq } })
    (d.post_eq c addr index who n) :)

theorem postCmd (d : Dev) (id : Nat) (c : Code) (st addr index n : Nat) : Dev.failMoves d (d.postCmd id c st addr index n) := by
  unfold Dev.postCmd
  split
  · exact post ..
  · exact (post ..).trans (updCmd ..)

theorem rateEvent (d : Dev) (kind item n : Nat) : Dev.failMoves d (d.rateEvent kind item n) := by
  unfold Dev.rateEvent
  dsimp only
  split
  · exact ((set_err d _).trans ((set_err _ _).trans (setF _ .ERR_REPLACE_REASON _ _ _ (by decide)))).trans (post ..)
  · exact set_err d _

theorem hbmUe (d : Dev) (id : Option Nat) (a : Nat) : Dev.failMoves d (d.hbmUe id a) := by
  have hcount := ((setF d .TIER_HBM_ERR_UNCORRECTABLE (min (d.f .TIER_HBM_ERR_UNCORRECTABLE (bits a 12 3) + 1) (2 ^ 16 - 1))
    (bits a 12 3) 0 (by decide)).trans (rateEvent _ 2 (bits a 12 3) 1)).trans
    (setReg _ .TIER_UE_ADDR (BitVec.ofNat 64 (a % 2 ^ 40)) 0 0 (by decide))
  unfold Dev.hbmUe
  cases id with
  | none => exact hcount.trans (post ..)
  | some i => exact hcount.trans (postCmd ..)

theorem slabUe (d : Dev) (id : Option Nat) (arr off : Nat) : Dev.failMoves d (d.slabUe id arr off) := by
  have hcount := fun n => (setF d .TIER_SLAB_ERR_UNCORRECTABLE n 0 0 (by decide)).trans
    (setReg _ .TIER_UE_ADDR (BitVec.ofNat 64 (2 ^ 40 + arr * 4194304 + off)) 0 0 (by decide))
  unfold Dev.slabUe
  cases id with
  | none => exact (hcount _).trans (post ..)
  | some i => exact (hcount _).trans (postCmd ..)

theorem xuFault (d : Dev) (id : Option Nat) (p va kind : Nat) (w : Bool) : Dev.failMoves d (d.xuFault id p va kind w) := by
  obtain ⟨tag, who, he⟩ := d.xuFault_eq id p va kind w
  have hlatch : ∀ (m : Dev) v, Dev.failMoves m (m.latchXu p v tag) := fun m v => by
    unfold Dev.latchXu
    split
    · exact refl m
    · exact (setReg m .XU_FAULT _ _ _ (by decide)).trans (setReg _ .XU_FAULT_TAG _ _ _ (by decide))
  have htell : ∀ m : Dev, Dev.failMoves m (m.tell id .XU_FAULT Status.faultXlat.num va kind who) := fun m => by
    cases id with
    | none => exact post m .XU_FAULT va kind who 0
    | some i => exact postCmd m i .XU_FAULT Status.faultXlat.num va kind 0
  rw [he]
  exact ((setF d .XU_FAULT_CNT_FAULTS _ _ _ (by decide)).trans (hlatch _ _)).trans (htell _)

theorem memReport (d : Dev) (id : Option Nat) (x : MemErr) : Dev.failMoves d (d.memReport id x) := by
  cases x with
  | range a => cases id with
    | none => exact post ..
    | some i => exact postCmd ..
  | retired => exact refl d
  | badLine a => exact hbmUe d id a
  | badWord arr off => exact slabUe d id arr off
  | xlat p va k w => exact xuFault d id p va k w

theorem tileFails (d : Dev) (id : Nat) (crc : Bool) (index : Nat) : Dev.failMoves d (d.tileFails id crc index) := by
  have hcount : Dev.failMoves d (if crc then d.addF .SK_ERR_CRC 1 else d.addF .SK_ERR_GEOM 1) := by
    split
    · exact setF d .SK_ERR_CRC _ _ _ (by decide)
    · exact setF d .SK_ERR_GEOM _ _ _ (by decide)
  unfold Dev.tileFails
  dsimp only
  generalize (if crc then d.addF .SK_ERR_CRC 1 else d.addF .SK_ERR_GEOM 1) = m at *
  split
  · exact hcount.trans (updCmd ..)
  · exact ((hcount.trans (postCmd ..)).trans (updCmd ..)).trans (updCmd ..)

/-- What a failure does to a command and its report. -/
theorem failWith (d : Dev) (id j : Nat) (x : Fail) : Dev.failMoves d (d.failWith id j x) := by
  cases x with
  | mem e => exact (memReport d (some id) e).trans (updCmd ..)
  | report st c a i => exact (postCmd ..).trans (updCmd ..)
  | kill st c a i => exact (postCmd ..).trans (updCmd ..)
  | tile crc i => exact tileFails d id crc i
  | plain st => exact updCmd ..
  | given => exact refl d

variable (h : Dev.failMoves d e)
include h

theorem f (g : Fld) (i j : Nat) (hg : g.reg ∉ failRegs) : e.f g i j = d.f g i j := congrArg g.of (h.reg g.reg i j hg)
theorem mem : e.mem = d.mem := (congrArg Dev.mem h.rest :)
theorem sv : e.sv = d.sv := (congrArg Dev.sv h.rest :)
theorem out : e.out = d.out := (congrArg Dev.out h.rest :)
theorem swaps : e.swaps = d.swaps := (congrArg Dev.swaps h.rest :)

end

end Dev.failMoves

/-! ## Buffers taken and returned for an engine -/

/-- The registers that the taking and the return of buffers reach. -/
def landRegs : List Reg := [.TIER_LND_FREE, .TIER_LND_USE, .ERR_LND_RETIRED, .ERR_STATUS]

/-- Only the Landing state, the Exchange Engine's and what is held for the host have changed, and registers of the pools. -/
structure Dev.landMoves (d e : Dev) : Prop where
  reg : ∀ r i j, r ∉ landRegs → e.reg r i j = d.reg r i j
  rest : { e with regs := d.regs, lnd := d.lnd, xe := d.xe, link := { e.link with held := d.link.held, seq := d.link.seq } } = d

namespace Dev.landMoves

section
variable {d m e : Dev}

theorem refl (d : Dev) : Dev.landMoves d d := ⟨fun _ _ _ _ => rfl, rfl⟩

theorem trans (h : Dev.landMoves d m) (h' : Dev.landMoves m e) : Dev.landMoves d e where
  reg r i j hr := (h'.reg r i j hr).trans (h.reg r i j hr)
  rest := (congrArg (fun x : Dev => { x with
    regs := d.regs, lnd := d.lnd, xe := d.xe, link := { x.link with held := d.link.held, seq := d.link.seq } }) h'.rest).trans h.rest

theorem setF (d : Dev) (f : Fld) (n i j : Nat) (hf : f.reg ∈ landRegs) : Dev.landMoves d (d.setF f n i j) where
  reg r i' j' hr := d.reg_setReg_ne _ i j i' j' (by rintro rfl; exact hr hf)
  rest := rfl

theorem post (d : Dev) (c : Code) (addr index : Nat) (who : Who) (n : Nat) : Dev.landMoves d (d.post c addr index who n) where
  reg r i j hr := d.reg_post c addr index who n i j (fun hc => hr (Reg.code_reg hc ▸ by decide))
  rest := (congrArg (fun x : Dev => { x with
    regs := d.regs, lnd := d.lnd, xe := d.xe, link := { x.link with held := d.link.held, seq := d.link.seq } }) (d.post_eq c addr index who n) :)

theorem foldl {α : Type} {g : Dev → α → Dev} (hg : ∀ (d : Dev) (a : α), Dev.landMoves d (g d a)) (as : List α) (d : Dev) :
    Dev.landMoves d (as.foldl g d) := by
  induction as generalizing d with
  | nil => exact refl d
  | cons a as ih => exact (hg d a).trans (ih _)

theorem setFree (d : Dev) (k n : Nat) : Dev.landMoves d (d.setFree k n) := by
  unfold Dev.setFree
  dsimp only
  split
  · exact (setF d .TIER_LND_FREE_FREE _ _ _ (by decide)).trans (setF _ .TIER_LND_FREE_LOW _ _ _ (by decide))
  · exact setF d .TIER_LND_FREE_FREE _ _ _ (by decide)

theorem set_lnd (d : Dev) (l : LndSt) : Dev.landMoves d { d with lnd := l } := ⟨fun _ _ _ _ => rfl, rfl⟩

theorem updXe (d : Dev) (g : XeSt → XeSt) : Dev.landMoves d (d.updXe g) := ⟨fun _ _ _ _ => rfl, rfl⟩

/-- A buffer is taken for an engine, or refused. -/
theorem lndAlloc (d : Dev) (p k : Nat) {user : LndUser} (hu : ∀ id, user ≠ .command id) : Dev.landMoves d (d.lndAlloc p k user).1 := by
  unfold Dev.lndAlloc
  split
  · exact ((setFree d _ _).trans (setF _ .TIER_LND_USE_USED _ _ _ (by decide))).trans (set_lnd _ _)
  · dsimp only
    split
    · exact absurd rfl (hu _)
    · exact (setF d .TIER_LND_USE_FAILS _ _ _ (by decide)).trans (post ..)

theorem lndReturn (d : Dev) (b : LndBuf) : Dev.landMoves d (d.lndReturn b) := by
  have hheld : Dev.landMoves d { d.subF .TIER_LND_USE_USED 1 b.part b.pool with lnd := { d.lnd with held := d.lnd.held.erase b } } :=
    (setF d .TIER_LND_USE_USED _ _ _ (by decide)).trans (set_lnd _ _)
  unfold Dev.lndReturn
  dsimp only
  split
  · exact (hheld.trans (set_lnd _ _)).trans (setF _ .ERR_LND_RETIRED_RETIRED _ _ _ (by decide))
  · exact hheld.trans (setF _ .TIER_LND_FREE_FREE _ _ _ (by decide))

theorem lndReturnUser (d : Dev) (u : LndUser) : Dev.landMoves d (d.lndReturnUser u) := foldl lndReturn _ d

/-- The reservations of a partition are made anew. -/
theorem reserve (d : Dev) (p : Nat) (table : List Byte) : Dev.landMoves d (d.reserve p table) := by
  have htake : ∀ (l : List Nat) (a : Dev × Bool), Dev.landMoves a.1 (l.foldl (fun (a : Dev × Bool) n =>
      match a.1.lndAlloc p (lndClass (roundUp n 64)).1 (.reserve p) with
      | (d, .ok _) => (d, a.2)
      | (d, .error _) => (d, true)) a).1 := fun l => by
    induction l with
    | nil => exact fun a => refl _
    | cons n l ih =>
      intro a
      have h := lndAlloc a.1 p (lndClass (roundUp n 64)).1 (user := .reserve p) (by simp)
      rw [List.foldl_cons]
      split <;> rename_i hr <;> rw [hr] at h <;> exact h.trans (ih (_, _))
  have hdrop : Dev.landMoves d (d.dropReserve p) := (lndReturnUser d _).trans (updXe _ _)
  unfold Dev.reserve
  dsimp only
  split
  · exact (hdrop.trans (htake _ (_, _))).trans (post ..)
  · exact hdrop.trans (htake _ (_, _))

variable (h : Dev.landMoves d e)
include h

theorem f (g : Fld) (i j : Nat) (hg : g.reg ∉ landRegs) : e.f g i j = d.f g i j := congrArg g.of (h.reg g.reg i j hg)
theorem cmds : e.cmds = d.cmds := (congrArg Dev.cmds h.rest :)
theorem mem : e.mem = d.mem := (congrArg Dev.mem h.rest :)
theorem sv : e.sv = d.sv := (congrArg Dev.sv h.rest :)
theorem out : e.out = d.out := (congrArg Dev.out h.rest :)
theorem count : e.count = d.count := congrArg BitVec.toNat (h.reg .RING_COUNT 0 0 (by decide))

end

end Dev.landMoves

/-! ## STEP_GRANT -/

@[simp] theorem inVer_unread (c : Cmd) (obj : Nat) : Op.keeps Dev.unread (inVer c obj) := by
  unfold inVer
  split <;> simp

@[simp] theorem readMember_unread (v : Version) (m : Nat) : Op.keeps Dev.unread (readMember v m) := by simp [readMember]

@[simp] theorem readWhole_unread (v : Version) : Op.keeps Dev.unread (readWhole v) := by simp [readWhole]

theorem readGrant_unread (c : Cmd) : Op.keeps Dev.unread (readGrant c) := by
  unfold readGrant
  dsimp only
  repeat' first | with_reducible apply Op.keeps.bind | intro _ | split
  all_goals simp

theorem readGrant_keeps (c : Cmd) : Op.keeps Dev.kept (readGrant c) := by
  unfold readGrant
  dsimp only
  repeat' first | with_reducible apply Op.keeps.bind | intro _ | split
  all_goals simp

theorem readGrant_causes (c : Cmd) : Op.causes (readGrant c) := by
  unfold readGrant
  dsimp only
  repeat' first | with_reducible apply Op.causes.bind | intro _ | split
  all_goals simp

/-- A grant that has been read is of its command's partition and SEQ. -/
theorem readGrant_leads (c : Cmd) : Op.leads (fun _ => True) (readGrant c) (fun g _ => g.part = c.part ∧ g.seq = c.grantSeq) :=
  .bind (R := fun _ _ => True) ⟨fun _ _ => trivial⟩ fun _ => .bind (R := fun _ _ => True) ⟨fun _ _ => trivial⟩ fun _ =>
    .pure fun _ _ => ⟨rfl, rfl⟩

theorem Dev.landMoves.kept {d e : Dev} (h : Dev.landMoves d e) : e.kept = d.kept := by
  have hreg : ∀ r ∈ keptRegs, ∀ i j, e.reg r i j = d.reg r i j := fun r hr i j => h.reg r i j (by
    simp only [keptRegs, List.mem_cons, List.not_mem_nil, or_false] at hr
    rcases hr with rfl | rfl | rfl | rfl <;> decide)
  have hrest : e.kept = { d.kept with reg := e.kept.reg } :=
    (congrArg (fun x : Dev => { x.kept with reg := e.kept.reg }) h.rest :)
  rw [hrest]
  have : e.kept.reg = d.kept.reg := funext fun r => funext fun i => funext fun j => by
    show (if r ∈ keptRegs then e.reg r i j else 0) = if r ∈ keptRegs then d.reg r i j else 0
    split
    · exact hreg r ‹_› i j
    · rfl
  rw [this]

/-- A grant's tables are noted, and buffers are reserved by them. -/
theorem Dev.applyGrant_moves (d : Dev) (g : StoredGrant) :
    ∃ caps, Dev.landMoves { d with sv := { d.sv with caps := caps } } (d.applyGrant g) := by
  unfold Dev.applyGrant
  cases g.caps <;> cases g.recv
  · exact ⟨d.sv.caps, .refl _⟩
  · exact ⟨d.sv.caps, .reserve ..⟩
  · exact ⟨_, .refl _⟩
  · exact ⟨_, .reserve ..⟩

@[simp] theorem Dev.applyGrant_kept (d : Dev) (g : StoredGrant) : (d.applyGrant g).kept = d.kept := by
  obtain ⟨caps, h⟩ := d.applyGrant_moves g
  exact h.kept.trans (d.set_sv_kept _)

@[simp] theorem Dev.openGate_kept (d : Dev) (p seq : Nat) : (d.openGate p seq).kept = d.kept := by
  simp [Dev.openGate, Dev.updSvSt]

/-- What a grant does to its gate leaves the kept part. -/
@[simp] theorem Dev.evalGrant_kept (d : Dev) (id : Nat) (g : StoredGrant) : (d.evalGrant id g).kept = d.kept := by
  unfold Dev.evalGrant
  dsimp only
  repeat' split
  all_goals simp [Dev.showStored, Dev.updSvSt]

theorem Dev.readied_finish {d : Dev} {id : Nat} {c : Cmd} (hc : d.cmd? id = some c) : (d.finish id).readied id :=
  ⟨_, Dev.cmd?_updCmd_some (fun k => { k with ready := true }) hc (fun _ => rfl), rfl⟩

theorem Dev.postCmd_sv (d : Dev) (id : Nat) (c : Code) (st addr index n : Nat) : (d.postCmd id c st addr index n).sv = d.sv := by
  obtain ⟨who, h⟩ := d.postCmd_eq id c st addr index n
  rw [h]
  exact Dev.post_sv ..

/-- Table 4.14: what STEP_GRANT leaves, with a grant of its own partition. -/
theorem Dev.evalGrant_spec {d : Dev} {id : Nat} {c : Cmd} {g : StoredGrant} (hc : d.cmd? id = some c) (hlive : c.ended = false)
    (hparts : c.parts = 1) :
    let p := g.part
    let e := d.evalGrant id g
    let stored := d.sv.grants.filter (fun h => h.part == p && h.seq != g.seq)
    (g.seq ≤ d.f .SV_REL_SEQ_REL_SEQ p → d.bumped e .SV_GRANTS_STALE 1 p ∧
      d.posted e .SV_GRANT_STALE (fun r => r.index = g.seq) ∧ e.sv = d.sv ∧ e.readied id) ∧
    (d.f .SV_REL_SEQ_REL_SEQ p < g.seq → d.f .SV_SEQ_SEQ p < g.seq →
      (4 ≤ stored.length → e.failing id .quota ∧ e.sv = d.sv) ∧
      (stored.length < 4 → g ∈ e.sv.grants ∧ e.readied id)) ∧
    (d.f .SV_REL_SEQ_REL_SEQ p < g.seq → g.seq ≤ d.f .SV_SEQ_SEQ p →
      (d.withinBounds g = true → e.f .SV_REL_SEQ_REL_SEQ p = g.seq % 2 ^ 32 ∧ e.flag .SV_GATE_AWAITING p = false ∧ e.readied id) ∧
      (d.withinBounds g = false → d.posted e .SV_BOUNDS (fun r => r.index = g.seq) ∧ e.sv = d.sv ∧
        e.reg .SV_GATE p = d.reg .SV_GATE p ∧ e.readied id)) := by
  intro p e stored
  refine ⟨fun h1 => ?_, fun h1 h2 => ⟨fun h3 => ?_, fun h3 => ?_⟩, fun h1 h2 => ⟨fun h3 => ?_, fun h3 => ?_⟩⟩
  · have he : e = ((d.addF .SV_GRANTS_STALE 1 p).postCmd id .SV_GRANT_STALE 0 0 g.seq).finish id := if_pos h1
    have hb := d.bumped_addF .SV_GRANTS_STALE 1 p 0 (by decide)
    have hc' : (d.addF .SV_GRANTS_STALE 1 p).cmd? id = some c := hc
    have hcount := d.count_addF .SV_GRANTS_STALE 1 p 0 (by decide)
    have hlink : (d.addF .SV_GRANTS_STALE 1 p).link = d.link := rfl
    have hsv : (d.addF .SV_GRANTS_STALE 1 p).sv = d.sv := rfl
    rw [he]
    generalize d.addF .SV_GRANTS_STALE 1 p = m at *
    obtain ⟨q, hq⟩ := m.cmd?_postCmd id id .SV_GRANT_STALE 0 0 g.seq 0
    rw [hc'] at hq
    refine ⟨?_, ?_, ?_, Dev.readied_finish hq⟩
    · rw [Dev.bumped, ← hb]
      exact congrArg Fld.SV_GRANTS_STALE.of (m.reg_postCmd id .SV_GRANT_STALE 0 0 g.seq 0 p 0 (by decide))
    · exact Dev.posted_congr hlink hcount rfl ((m.postCmd_posted .SV_GRANT_STALE 0 0 g.seq 0 hc').mono fun _ ⟨_, _, h⟩ => h)
    · rw [← hsv]
      exact m.postCmd_sv id .SV_GRANT_STALE 0 0 g.seq 0
  · have he : e = d.failPart id 0 .quota := by
      unfold e Dev.evalGrant
      rw [if_neg (Nat.not_le.mpr h1), if_pos h2]
      exact if_pos h3
    rw [he]
    refine ⟨⟨_, Dev.cmd?_updCmd_some _ hc (fun c => by split_ifs <;> rfl), ?_⟩, rfl⟩
    rw [hlive, if_neg (by decide), if_pos (by simp [hparts])]
    exact List.mem_append_right _ List.mem_cons_self
  · have he : e = ((d.updSvSt (fun s => { s with grants := s.grants.filter (fun h => !(h.part == g.part && h.seq == g.seq)) ++ [g] })).showStored
        p).finish id := by
      unfold e Dev.evalGrant
      rw [if_neg (Nat.not_le.mpr h1), if_pos h2]
      exact if_neg (Nat.not_le.mpr h3)
    rw [he]
    exact ⟨List.mem_append_right _ List.mem_cons_self, Dev.readied_finish hc⟩
  · have he : e = ((d.applyGrant g).openGate p g.seq).finish id := by
      unfold e Dev.evalGrant
      rw [if_neg (Nat.not_le.mpr h1), if_neg (Nat.not_lt.mpr h2), if_pos h3]
    obtain ⟨caps, h⟩ := d.applyGrant_moves g
    have hc' : (d.applyGrant g).cmd? id = some c := by rw [Dev.cmd?, h.cmds]; exact hc
    rw [he]
    generalize d.applyGrant g = m at *
    refine ⟨?_, Dev.flag_of_zero (Dev.f_setF_fit _ .SV_GATE_AWAITING _ _ (by decide) (by decide)), Dev.readied_finish hc'⟩
    exact (Dev.f_setF_ne_reg _ .SV_GATE_AWAITING .SV_REL_SEQ_REL_SEQ _ _ _ _ _ (by decide)).trans
      (Dev.f_setF_same _ .SV_REL_SEQ_REL_SEQ _ _ _ (by decide))
  · have he : e = (d.postCmd id .SV_BOUNDS 0 0 g.seq).finish id := by
      unfold e Dev.evalGrant
      rw [if_neg (Nat.not_le.mpr h1), if_neg (Nat.not_lt.mpr h2), if_neg (by simp [h3])]
    obtain ⟨q, hq⟩ := d.cmd?_postCmd id id .SV_BOUNDS 0 0 g.seq 0
    rw [hc] at hq
    rw [he]
    exact ⟨(d.postCmd_posted .SV_BOUNDS 0 0 g.seq 0 hc).mono fun _ ⟨_, _, h⟩ => h, d.postCmd_sv id .SV_BOUNDS 0 0 g.seq 0,
      d.reg_postCmd id .SV_BOUNDS 0 0 g.seq 0 p 0 (by decide), Dev.readied_finish hq⟩

/-- STEP_GRANT evaluates its grant by Table 4.14 once its tables have been read. -/
theorem stepGrant_evaluates {s : State} {id : Nat} {c : Cmd} (hstall : s.dev.stalled = false) (hc : s.dev.cmd? id = some c)
    (hrun : c.running = true) (hready : c.ready = false) (hop : c.opcode = 0x0F) (hparts : c.parts = 1) {g : StoredGrant} {d : Dev}
    (hread : (readGrant c).run.run s.dev = (.ok g, d)) :
    let p := c.part
    let stored := s.dev.sv.grants.filter (fun h => h.part == p && h.seq != g.seq)
    Completes (.stepGrant id) s (fun e =>
      g.part = p ∧ g.seq = c.grantSeq ∧ s.dev.noneEnds e ∧
      (g.seq ≤ s.dev.f .SV_REL_SEQ_REL_SEQ p → s.dev.bumped e .SV_GRANTS_STALE 1 p ∧
        s.dev.posted e .SV_GRANT_STALE (fun r => r.index = g.seq) ∧ e.sv = s.dev.sv ∧ e.readied id) ∧
      (s.dev.f .SV_REL_SEQ_REL_SEQ p < g.seq → s.dev.f .SV_SEQ_SEQ p < g.seq →
        (4 ≤ stored.length → e.failing id .quota ∧ e.sv = s.dev.sv) ∧
        (stored.length < 4 → g ∈ e.sv.grants ∧ e.readied id)) ∧
      (s.dev.f .SV_REL_SEQ_REL_SEQ p < g.seq → g.seq ≤ s.dev.f .SV_SEQ_SEQ p →
        (s.dev.withinBounds g = true → e.f .SV_REL_SEQ_REL_SEQ p = g.seq ∧ e.flag .SV_GATE_AWAITING p = false ∧ e.readied id) ∧
        (s.dev.withinBounds g = false → s.dev.posted e .SV_BOUNDS (fun r => r.index = g.seq) ∧ e.sv = s.dev.sv ∧
          e.reg .SV_GATE p = s.dev.reg .SV_GATE p ∧ e.readied id))) := by
  intro p stored
  refine Completes.of_engine (g := fun d => d.stepGrant id) rfl hstall ?_
  obtain ⟨hpart, hseq⟩ := (readGrant_leads c).holds trivial hread
  have hunread := (readGrant_unread c).run hread
  have hrow : s.dev.stepGrant id = d.evalGrant id g := by
    have hrun' : (readGrant c >>= fun g => Op.act (fun d => d.evalGrant id g)).run.run s.dev = (.ok (), d.evalGrant id g) := by
      rw [Op.run_bind_ok hread]
      rfl
    rw [← Dev.work_ok (id := id) (j := 0) hrun']
    simp [Dev.stepGrant, hc, hrun, hready, hop]
  have hrest := Dev.unread_rest hunread
  have hcmds : d.cmds = s.dev.cmds := (congrArg Dev.cmds hrest :)
  have hlink : d.link = s.dev.link := (congrArg Dev.link hrest :)
  have hsv : d.sv = s.dev.sv := (congrArg Dev.sv hrest :)
  have hcount : d.count = s.dev.count := congrArg BitVec.toNat (Dev.unread_reg hunread (r := .RING_COUNT) (by decide) 0 0)
  have hkept := (readGrant_keeps c).run hread
  have hfit : g.seq < 2 ^ 32 := by
    rw [hseq]
    exact Nat.mod_lt _ (by decide)
  have hlive : c.ended = false := by
    simp only [Cmd.running, Bool.and_eq_true, Bool.not_eq_true'] at hrun
    exact hrun.1.2
  obtain ⟨hstale, hstore, hopen⟩ := Dev.evalGrant_spec (g := g) (show d.cmd? id = some c by rw [Dev.cmd?, hcmds]; exact hc) hlive hparts
  have hf : ∀ h : Fld, h.reg ≠ .XU_WALKS → d.f h p = s.dev.f h p := fun h hh => Dev.unread_f hunread hh p 0
  have hwithin : d.withinBounds g = s.dev.withinBounds g := by unfold Dev.withinBounds; rw [hsv]
  have hposted : ∀ {e : Dev} {code : Code} {P : Report → Prop}, d.posted e code P → s.dev.posted e code P :=
    Dev.posted_congr hlink hcount rfl
  rw [hpart, hf _ (by decide)] at hstale
  rw [hpart, hf _ (by decide), hf _ (by decide), hsv] at hstore
  rw [hpart, hf _ (by decide), hf _ (by decide), hwithin, hsv, Dev.unread_reg hunread (by decide), Nat.mod_eq_of_lt hfit] at hopen
  rw [hrow]
  have hends := Dev.noneEnds_of_kept ((d.evalGrant_kept id g).trans hkept)
  generalize d.evalGrant id g = e at *
  refine ⟨hpart, hseq, hends, fun h => ?_, hstore, fun h1 h2 => ⟨(hopen h1 h2).1, fun h3 => ?_⟩⟩
  · obtain ⟨hb, hp, hrest⟩ := hstale h
    exact ⟨by rw [Dev.bumped, ← hf _ (by decide)]; exact hb, hposted hp, hrest.1.trans hsv, hrest.2⟩
  · obtain ⟨hp, hrest⟩ := (hopen h1 h2).2 h3
    exact ⟨hposted hp, hrest⟩

/-- STEP_GRANT whose tables cannot be read fails, and changes nothing of the gate. -/
theorem stepGrant_fails {s : State} {id : Nat} {c : Cmd} (hstall : s.dev.stalled = false) (hc : s.dev.cmd? id = some c)
    (hrun : c.running = true) (hready : c.ready = false) (hop : c.opcode = 0x0F) (hfail : Op.succeeds s.dev (readGrant c) = false) :
    Completes (.stepGrant id) s (fun e => e.failed id ∧ e.sv = s.dev.sv ∧ e.reg .SV_GATE c.part = s.dev.reg .SV_GATE c.part ∧
      s.dev.noneEnds e) := by
  refine Completes.of_engine (g := fun d => d.stepGrant id) rfl hstall ?_
  obtain ⟨x, d, hread⟩ := Op.succeeds_false hfail
  have hunread := (readGrant_unread c).run hread
  have hkept := (readGrant_keeps c).run hread
  have hx : x ≠ .given := fun hx => (readGrant_causes c).named s.dev d (hx ▸ hread)
  have hrow : s.dev.stepGrant id = d.failWith id 0 x := by
    rw [← Dev.work_error (id := id) (j := 0) (Op.run_bind_error hread (fun g => Op.act (fun d => d.evalGrant id g)))]
    simp [Dev.stepGrant, hc, hrun, hready, hop]
  rw [hrow]
  have hfailed := Dev.failed_failWith 0 hx (Dev.live_of_kept hkept (Dev.live_of_running hc hrun))
  have hends := Dev.noneEnds_of_kept ((d.failWith_kept id 0 x).trans hkept)
  have htold := Dev.failMoves.failWith d id 0 x
  generalize d.failWith id 0 x = e at *
  refine ⟨hfailed, htold.sv.trans (congrArg Dev.sv (Dev.unread_rest hunread) :), ?_, hends⟩
  exact (htold.reg .SV_GATE c.part 0 (by decide)).trans (Dev.unread_reg hunread (by decide) _ _)

end Sys2Proof.Machine
end

section

/-! PROOFS. The Step Report and the gate at a SIEVE's commit (GrantGateAndReport; R92 to R96). -/

namespace Sys2Proof.Machine

/-! ## Numbers in a block of bytes -/

/-- The number between two known lengths of bytes. -/
theorem leAt_middle (pre mid post : List Byte) {off n : Nat} (hoff : pre.length = off) (hn : mid.length = n) :
    leAt (pre ++ (mid ++ post)) off n = leNat mid := by
  unfold leAt slice
  rw [List.drop_left' hoff, List.take_left' hn]

/-- The header of a Step Report holds its SEQ and its command's TAG. -/
theorem Dev.stepReport_header (d : Dev) (c : Cmd) (x : SvCtx) {seq : Nat} (pre exceeded : Bool) (slot : Nat) (hseq : seq < 2 ^ 32) :
    leAt (d.stepReport c x seq pre exceeded slot) 8 4 = seq ∧ leAt (d.stepReport c x seq pre exceeded slot) 12 4 = c.tag := by
  have htag : c.tag < 2 ^ 32 := Nat.mod_lt _ (by decide)
  have hsplit : ∃ a0 a1 a2 a3 rest, d.stepReport c x seq pre exceeded slot =
      (leBytes 4 a0 ++ leBytes 2 a1 ++ leBytes 1 a2 ++ leBytes 1 a3) ++ (leBytes 4 seq ++ (leBytes 4 c.tag ++ rest)) := by
    simp only [Dev.stepReport, padTo, List.append_assoc]
    exact ⟨_, _, _, _, _, rfl⟩
  obtain ⟨a0, a1, a2, a3, rest, h⟩ := hsplit
  constructor
  · rw [h, leAt_middle _ _ _ (by simp [leBytes_length]) (leBytes_length ..), leNat_leBytes (by omega)]
  · rw [h, ← List.append_assoc _ (leBytes 4 seq), leAt_middle _ _ _ (by simp [leBytes_length]) (leBytes_length ..), leNat_leBytes (by omega)]

/-! ## What the gate's part of a commit leaves -/

/-- The registers that the gate's part of a commit reaches, once the report is written. -/
def gateRegs : List Reg := .SV_GATE :: .SV_REL_SEQ :: landRegs

/-- Only what the gate holds, the Landing state, the Exchange Engine's and the host's records have changed. -/
structure Dev.gateMoves (d e : Dev) : Prop where
  reg : ∀ r i j, r ∉ gateRegs → e.reg r i j = d.reg r i j
  rest : { e with
    regs := d.regs, lnd := d.lnd, xe := d.xe, sv := { e.sv with caps := d.sv.caps, closedAt := d.sv.closedAt }
    link := { e.link with held := d.link.held, seq := d.link.seq } } = d

namespace Dev.gateMoves

section
variable {d m e : Dev}

theorem refl (d : Dev) : Dev.gateMoves d d := ⟨fun _ _ _ _ => rfl, rfl⟩

theorem trans (h : Dev.gateMoves d m) (h' : Dev.gateMoves m e) : Dev.gateMoves d e where
  reg r i j hr := (h'.reg r i j hr).trans (h.reg r i j hr)
  rest := (congrArg (fun x : Dev => { x with
    regs := d.regs, lnd := d.lnd, xe := d.xe, sv := { x.sv with caps := d.sv.caps, closedAt := d.sv.closedAt }
    link := { x.link with held := d.link.held, seq := d.link.seq } }) h'.rest).trans h.rest

theorem of_land (h : Dev.landMoves d e) : Dev.gateMoves d e where
  reg r i j hr := h.reg r i j (fun hm => hr (List.mem_cons_of_mem _ (List.mem_cons_of_mem _ hm)))
  rest := (congrArg (fun x : Dev => { x with sv := { x.sv with caps := d.sv.caps, closedAt := d.sv.closedAt } }) h.rest :)

theorem setF (d : Dev) (f : Fld) (n i j : Nat) (hf : f.reg ∈ gateRegs) : Dev.gateMoves d (d.setF f n i j) where
  reg r i' j' hr := d.reg_setReg_ne _ i j i' j' (by rintro rfl; exact hr hf)
  rest := rfl

theorem caps (d : Dev) (x : List (Nat × List Byte)) : Dev.gateMoves d { d with sv := { d.sv with caps := x } } := ⟨fun _ _ _ _ => rfl, rfl⟩

theorem closedAt (d : Dev) (g : SvSt → SMap Nat) : Dev.gateMoves d (d.updSvSt (fun s => { s with closedAt := g s })) :=
  ⟨fun _ _ _ _ => rfl, rfl⟩

theorem openGate (d : Dev) (p seq : Nat) : Dev.gateMoves d (d.openGate p seq) :=
  ((closedAt d _).trans (setF _ .SV_REL_SEQ_REL_SEQ _ _ _ (by decide))).trans (setF _ .SV_GATE_AWAITING _ _ _ (by decide))

theorem closeGate (d : Dev) (p : Nat) : Dev.gateMoves d (d.closeGate p) :=
  (closedAt d _).trans (setF _ .SV_GATE_AWAITING _ _ _ (by decide))

theorem applyGrant (d : Dev) (g : StoredGrant) : Dev.gateMoves d (d.applyGrant g) := by
  obtain ⟨x, h⟩ := d.applyGrant_moves g
  exact (caps d x).trans (of_land h)

theorem postBounds (d : Dev) (p seq : Nat) : Dev.gateMoves d (d.postBounds p seq) := of_land (.post ..)

variable (h : Dev.gateMoves d e)
include h

theorem f (g : Fld) (i j : Nat) (hg : g.reg ∉ gateRegs) : e.f g i j = d.f g i j := congrArg g.of (h.reg g.reg i j hg)
theorem cmds : e.cmds = d.cmds := (congrArg Dev.cmds h.rest :)
theorem mem : e.mem = d.mem := (congrArg Dev.mem h.rest :)
theorem ctxs : e.sv.ctxs = d.sv.ctxs := (congrArg (fun x => x.sv.ctxs) h.rest :)
theorem out : e.out = d.out := (congrArg Dev.out h.rest :)
theorem count : e.count = d.count := congrArg BitVec.toNat (h.reg .RING_COUNT 0 0 (by decide))

end

end Dev.gateMoves

/-! ## The report -/

/-- The registers that a SIEVE's counts reach. -/
def grainRegs : List Reg := [.SV_EMITTED, .SV_DROPPED, .SV_EXITED, .XE_OUTSTANDING]

/-- The device with a SIEVE's grains counted and its SEQ shown. -/
theorem Dev.countGrains_spec (d : Dev) (c : Cmd) (x : SvCtx) :
    (∀ r i j, r ∉ grainRegs → (d.countGrains c x).reg r i j = d.reg r i j) ∧
    (d.countGrains c x).out = d.out ∧ (d.countGrains c x).cmds = d.cmds ∧ (d.countGrains c x).mem = d.mem ∧
    (d.countGrains c x).sv.ctxs = d.sv.ctxs ∧ (d.countGrains c x).sv.grants = d.sv.grants := by
  have hregs : ∀ r i j, r ∉ grainRegs → (d.countGrains c x).reg r i j = ((((d.addF .SV_EMITTED_EMITTED x.grains.length c.part).addF
      .SV_DROPPED_DROPPED (x.grains.length - x.routed) c.part).addF .SV_EXITED_EXITED x.exited.length c.part).addF
      .XE_OUTSTANDING_OUTSTANDING x.routed c.part).reg r i j := fun r i j _ => by
    unfold Dev.countGrains
    dsimp only
    split <;> rfl
  have hsets : Dev.setsOnly grainRegs d ((((d.addF .SV_EMITTED_EMITTED x.grains.length c.part).addF
      .SV_DROPPED_DROPPED (x.grains.length - x.routed) c.part).addF .SV_EXITED_EXITED x.exited.length c.part).addF
      .XE_OUTSTANDING_OUTSTANDING x.routed c.part) :=
    .setF (.setF (.setF (.setF (.refl _ d) .SV_EMITTED_EMITTED _ _ _ (by decide)) .SV_DROPPED_DROPPED _ _ _ (by decide))
      .SV_EXITED_EXITED _ _ _ (by decide)) .XE_OUTSTANDING_OUTSTANDING _ _ _ (by decide)
  refine ⟨fun r i j hr => (hregs r i j hr).trans (hsets.reg r i j hr), ?_⟩
  unfold Dev.countGrains
  dsimp only
  split <;> exact ⟨rfl, rfl, rfl, rfl, rfl⟩

theorem Dev.emitWrite_eq (d : Dev) (addr : Nat) (bs : List Byte) : d.emitWrite addr bs = { d with out := d.out ++ memWrites addr bs } :=
  Dev.foldl_emit (fun m : Nat × Nat => Out.memWrite (addr + m.1) (slice bs m.1 m.2)) (messageSizes bs.length) d

/-- The device once a SIEVE's counts, its SEQ and its report are out, before its gate closes or opens. -/
def Dev.reported (d : Dev) (c : Cmd) (x : SvCtx) (seq : Nat) (bs : List Byte) : Dev :=
  ((((d.countGrains c x).setF .SV_SEQ_SEQ seq c.part).updSvSt (fun s => { s with
    grants := s.grants.filter (fun g => !(g.part == c.part && g.seq == seq)) })).writeRpt c.part bs).showStored c.part

/-- A commit reports, and then closes the gate unless a stored grant opens it. -/
theorem Dev.sieveCommit_cases (d : Dev) (c : Cmd) (x : SvCtx) {seq : Nat} (hdef : (d.f .SV_SEQ_SEQ c.part + 1) % 2 ^ 32 = seq) :
    ∃ bs, leAt bs 8 4 = seq ∧ leAt bs 12 4 = c.tag ∧ Dev.gateMoves (d.reported c x seq bs) (d.sieveCommit c x) ∧
      ((d.countGrains c x).sv.grants.find? (fun g => g.part == c.part && g.seq == seq) = none →
        d.sieveCommit c x = (d.reported c x seq bs).closeGate c.part) := by
  have hseq : seq < 2 ^ 32 := by omega
  generalize hn : ((d.countGrains c x).setF .SV_SEQ_SEQ seq c.part).updSvSt (fun s => { s with
    grants := s.grants.filter (fun g => !(g.part == c.part && g.seq == seq)) }) = n
  have hrep : ∀ bs, d.reported c x seq bs = (n.writeRpt c.part bs).showStored c.part := fun bs => by rw [← hn]; rfl
  have hheader := fun pre exceeded => n.stepReport_header c x pre exceeded (2 ^ n.f .SV_RPT_CFG_SLOT_LOG2 c.part) hseq
  cases hst : (d.countGrains c x).sv.grants.find? (fun g => g.part == c.part && g.seq == seq) with
  | none =>
    have hcommit : d.sieveCommit c x = (d.reported c x seq (n.stepReport c x seq false false
        (2 ^ n.f .SV_RPT_CFG_SLOT_LOG2 c.part))).closeGate c.part := by
      simp only [Dev.sieveCommit, Dev.setF_sv, hdef, hst, hn, hrep, Bool.false_eq_true, if_false]
    obtain ⟨h1, h2⟩ := hheader false false
    exact ⟨_, h1, h2, by rw [hcommit]; exact .closeGate .., fun _ => hcommit⟩
  | some g =>
    cases hin : n.withinBounds g with
    | true =>
      have hcommit : d.sieveCommit c x = ((d.reported c x seq (n.stepReport c x seq true false
          (2 ^ n.f .SV_RPT_CFG_SLOT_LOG2 c.part))).applyGrant g).openGate c.part seq := by
        simp only [Dev.sieveCommit, Dev.setF_sv, hdef, hst, hn, hrep, hin, Bool.false_eq_true, if_true, if_false]
      obtain ⟨h1, h2⟩ := hheader true false
      exact ⟨_, h1, h2, by rw [hcommit]; exact (Dev.gateMoves.applyGrant ..).trans (.openGate ..), fun h => by cases h⟩
    | false =>
      have hcommit : d.sieveCommit c x = ((d.reported c x seq (n.stepReport c x seq false true
          (2 ^ n.f .SV_RPT_CFG_SLOT_LOG2 c.part))).postBounds c.part seq).closeGate c.part := by
        simp only [Dev.sieveCommit, Dev.setF_sv, hdef, hst, hn, hrep, hin, Bool.false_eq_true, if_true, if_false]
      obtain ⟨h1, h2⟩ := hheader false true
      exact ⟨_, h1, h2, by rw [hcommit]; exact (Dev.gateMoves.postBounds ..).trans (.closeGate ..), fun h => by cases h⟩

/-- What is out once a SIEVE has reported. -/
theorem Dev.reported_spec (d : Dev) (c : Cmd) (x : SvCtx) {seq : Nat} (bs : List Byte) (hseq : seq < 2 ^ 32) :
    let p := c.part
    let e := d.reported c x seq bs
    e.f .SV_SEQ_SEQ p = seq ∧ e.f .SV_RPT_TAIL_TAIL p = (d.f .SV_RPT_TAIL_TAIL p + 1) % d.rptSize p ∧
    e.out = d.out ++ memWrites (d.f .SV_RPT_BASE_BASE p * 4096 + d.f .SV_RPT_TAIL_TAIL p * 2 ^ d.f .SV_RPT_CFG_SLOT_LOG2 p) bs ∧
    e.cmds = d.cmds ∧ e.mem = d.mem ∧ e.sv.ctxs = d.sv.ctxs ∧ e.count = d.count := by
  intro p e
  obtain ⟨hreg, hout, hcmds, hmem, hctxs, -⟩ := d.countGrains_spec c x
  have hf : ∀ g : Fld, g.reg ∉ grainRegs → (d.countGrains c x).f g p = d.f g p := fun g hg => congrArg g.of (hreg g.reg p 0 hg)
  have hcount : (d.countGrains c x).count = d.count := congrArg BitVec.toNat (hreg .RING_COUNT 0 0 (by decide))
  have he : e = ((((d.countGrains c x).setF .SV_SEQ_SEQ seq p).updSvSt (fun s => { s with
      grants := s.grants.filter (fun g => !(g.part == p && g.seq == seq)) })).writeRpt p bs).showStored p := rfl
  clear_value e
  generalize d.countGrains c x = k at *
  generalize hn : (k.setF .SV_SEQ_SEQ seq p).updSvSt (fun s => { s with
      grants := s.grants.filter (fun g => !(g.part == p && g.seq == seq)) }) = n at *
  have hnseq : n.f .SV_SEQ_SEQ p = seq := by
    rw [← hn]
    exact Dev.f_setF_fit k .SV_SEQ_SEQ p 0 (by decide) hseq
  have hnf : ∀ g : Fld, g.reg ≠ .SV_SEQ → g.reg ∉ grainRegs → n.f g p = d.f g p := fun g hg hgr => by
    rw [← hn, ← hf g hgr]
    exact k.f_setF_ne_reg .SV_SEQ_SEQ g seq p 0 p 0 hg
  have hsize : n.rptSize p = d.rptSize p := by rw [Dev.rptSize, hnf _ (by decide) (by decide)]; rfl
  have hncount : n.count = d.count := by
    rw [← hn, ← hcount]
    exact k.count_setF .SV_SEQ_SEQ seq p 0 (by decide)
  have hfit : (n.f .SV_RPT_TAIL_TAIL p + 1) % n.rptSize p < 2 ^ 16 := by
    have hlog : n.f .SV_RPT_CFG_SIZE_LOG2 p < 2 ^ 4 := n.f_lt .SV_RPT_CFG_SIZE_LOG2 p 0
    refine Nat.lt_of_lt_of_le (Nat.mod_lt _ (Nat.two_pow_pos _)) (Nat.pow_le_pow_right (by decide) (by omega))
  rw [hsize, hnf .SV_RPT_TAIL_TAIL (by decide) (by decide)] at hfit
  have hout' : n.out = d.out := by rw [← hn, ← hout]; rfl
  have hcmds' : n.cmds = d.cmds := by rw [← hn, ← hcmds]; rfl
  have hmem' : n.mem = d.mem := by rw [← hn, ← hmem]; rfl
  have hctxs' : n.sv.ctxs = d.sv.ctxs := by rw [← hn, ← hctxs]; rfl
  have haddr : n.f .SV_RPT_BASE_BASE p * 4096 + n.f .SV_RPT_TAIL_TAIL p * 2 ^ n.f .SV_RPT_CFG_SLOT_LOG2 p =
      d.f .SV_RPT_BASE_BASE p * 4096 + d.f .SV_RPT_TAIL_TAIL p * 2 ^ d.f .SV_RPT_CFG_SLOT_LOG2 p := by
    rw [hnf .SV_RPT_BASE_BASE (by decide) (by decide), hnf .SV_RPT_CFG_SLOT_LOG2 (by decide) (by decide),
      hnf .SV_RPT_TAIL_TAIL (by decide) (by decide)]
  obtain ⟨addr, hat⟩ : ∃ addr, d.f .SV_RPT_BASE_BASE p * 4096 + d.f .SV_RPT_TAIL_TAIL p * 2 ^ d.f .SV_RPT_CFG_SLOT_LOG2 p = addr :=
    ⟨_, rfl⟩
  rw [hat] at haddr ⊢
  have hwrite : e = (Dev.setF { n with out := n.out ++ memWrites addr bs } .SV_RPT_TAIL_TAIL
      ((d.f .SV_RPT_TAIL_TAIL p + 1) % d.rptSize p) p).showStored p := by
    have hemit := n.emitWrite_eq addr bs
    rw [he, Dev.writeRpt, haddr, hemit, ← hnf .SV_RPT_TAIL_TAIL (by decide) (by decide), ← hsize]
    rfl
  obtain ⟨tail, htail⟩ : ∃ tail, (d.f .SV_RPT_TAIL_TAIL p + 1) % d.rptSize p = tail := ⟨_, rfl⟩
  rw [htail] at hwrite hfit ⊢
  generalize memWrites addr bs = os at hwrite ⊢
  generalize ho : ({ n with out := n.out ++ os } : Dev) = o at *
  have hof : ∀ (g : Fld) i, o.f g i = n.f g i := fun g i => by rw [← ho]; rfl
  rw [hwrite]
  refine ⟨?_, ?_, ?_, ?_, ?_, ?_, ?_⟩
  · rw [← hnseq, ← hof]
    exact (Dev.f_setF_ne_reg _ .SV_GATE_STORED .SV_SEQ_SEQ _ _ _ _ _ (by decide)).trans
      (o.f_setF_ne_reg .SV_RPT_TAIL_TAIL .SV_SEQ_SEQ _ _ _ _ _ (by decide))
  · exact (Dev.f_setF_ne_reg _ .SV_GATE_STORED .SV_RPT_TAIL_TAIL _ _ _ _ _ (by decide)).trans
      (o.f_setF_fit .SV_RPT_TAIL_TAIL p 0 (by decide) hfit)
  · rw [← hout', show ((o.setF .SV_RPT_TAIL_TAIL tail p).showStored p).out = o.out from rfl, ← ho]
  · rw [← hcmds', show ((o.setF .SV_RPT_TAIL_TAIL tail p).showStored p).cmds = o.cmds from rfl, ← ho]
  · rw [← hmem', show ((o.setF .SV_RPT_TAIL_TAIL tail p).showStored p).mem = o.mem from rfl, ← ho]
  · rw [← hctxs', show ((o.setF .SV_RPT_TAIL_TAIL tail p).showStored p).sv = o.sv from rfl, ← ho]
  · rw [← hncount]
    refine (Dev.count_setF _ .SV_GATE_STORED _ _ _ (by decide)).trans ((o.count_setF .SV_RPT_TAIL_TAIL tail p 0 (by decide)).trans ?_)
    rw [← ho]
    rfl

/-- A SIEVE's commit: its SEQ and its ring move on, its report goes to its slot, and the gate closes but for a stored grant. -/
theorem Dev.sieveCommit_spec (d : Dev) (c : Cmd) (x : SvCtx) {seq : Nat} (hdef : (d.f .SV_SEQ_SEQ c.part + 1) % 2 ^ 32 = seq) :
    let p := c.part
    let e := d.sieveCommit c x
    e.f .SV_SEQ_SEQ p = seq ∧ e.f .SV_RPT_TAIL_TAIL p = (d.f .SV_RPT_TAIL_TAIL p + 1) % d.rptSize p ∧
    (∃ bs, e.out = d.out ++ memWrites (d.f .SV_RPT_BASE_BASE p * 4096 + d.f .SV_RPT_TAIL_TAIL p * 2 ^ d.f .SV_RPT_CFG_SLOT_LOG2 p) bs ∧
      leAt bs 8 4 = seq ∧ leAt bs 12 4 = c.tag) ∧
    e.cmds = d.cmds ∧ e.mem = d.mem ∧ e.sv.ctxs = d.sv.ctxs ∧ e.count = d.count ∧
    (d.sv.grants.all (fun g => g.part != p || g.seq != seq) = true → e.flag .SV_GATE_AWAITING p = true ∧
      SMap.get 0 e.sv.closedAt p = d.count) := by
  intro p e
  obtain ⟨bs, hseqAt, htagAt, hmoves, hclose⟩ := d.sieveCommit_cases c x hdef
  obtain ⟨hseq, htail, hout, hcmds, hmem, hctxs, hcount⟩ := d.reported_spec c x bs (seq := seq) (by omega)
  obtain ⟨-, -, -, -, -, hgrants⟩ := d.countGrains_spec c x
  refine ⟨(hmoves.f .SV_SEQ_SEQ p 0 (by decide)).trans hseq, (hmoves.f .SV_RPT_TAIL_TAIL p 0 (by decide)).trans htail,
    ⟨bs, hmoves.out.trans hout, hseqAt, htagAt⟩, hmoves.cmds.trans hcmds, hmoves.mem.trans hmem, hmoves.ctxs.trans hctxs,
    hmoves.count.trans hcount, fun hall => ?_⟩
  have hnone : (d.countGrains c x).sv.grants.find? (fun g => g.part == c.part && g.seq == seq) = none := by
    rw [hgrants, List.find?_eq_none]
    intro g hg
    have := List.all_eq_true.mp hall g hg
    simp only [Bool.or_eq_true, bne_iff_ne, ne_eq] at this
    simp only [Bool.and_eq_true, beq_iff_eq, not_and]
    rintro h1 h2
    exact this.elim (fun h => h h1) (fun h => h h2)
  have he : e = (d.reported c x seq bs).closeGate p := hclose hnone
  rw [he, ← hcount]
  generalize d.reported c x seq bs = m
  refine ⟨Dev.flag_of_one (Dev.f_setF_fit _ .SV_GATE_AWAITING _ _ (by decide) (by decide)), ?_⟩
  exact (SMap.get_set 0 m.sv.closedAt p p m.count).trans (if_pos rfl)

/-- An ended command's work is dropped: its buffers, contexts and placements to come. -/
theorem Dev.dropWork_spec (d : Dev) (id : Nat) :
    (∀ r i j, r ∉ landRegs → (d.dropWork id).reg r i j = d.reg r i j) ∧ (d.dropWork id).out = d.out ∧ (d.dropWork id).cmds = d.cmds ∧
    (d.dropWork id).mem.hbm = d.mem.hbm ∧ (d.dropWork id).sv = { d.sv with ctxs := d.sv.ctxs.filter (fun x => x.id != id) } := by
  generalize hm : ({ d.dropPlaces id with
      arr := { d.arr with runs := d.arr.runs.filter (fun r => r.id != id), chunks := d.arr.chunks.filter (fun h => h.id != id) }
      sv := { d.sv with ctxs := d.sv.ctxs.filter (fun x => x.id != id) } } : Dev) = m
  have hdrop : d.dropWork id = m.lndReturnUser (.command id) := by rw [← hm]; rfl
  have hmoves := Dev.landMoves.lndReturnUser m (.command id)
  rw [hdrop]
  exact ⟨fun r i j hr => (hmoves.reg r i j hr).trans (by rw [← hm]; rfl), hmoves.out.trans (by rw [← hm]; rfl),
    hmoves.cmds.trans (by rw [← hm]; rfl), (congrArg MemSt.hbm hmoves.mem).trans (by rw [← hm]; rfl), hmoves.sv.trans (by rw [← hm])⟩

theorem Dev.endCmd_rest (d : Dev) (id : Nat) (st : Status) (count parts : Nat) :
    (d.endCmd id st count parts).sv = d.sv ∧ (d.endCmd id st count parts).out = d.out := by
  unfold Dev.endCmd
  split <;> exact ⟨rfl, rfl⟩

/-- STEP_REPORT writes a SIEVE's report and ends it. -/
theorem stepReport_completes {s : State} {k : Fin 2} {x : SvCtx} {c : Cmd} {d : Dev} (hstall : s.dev.stalled = false)
    (hx : s.dev.sv? k = some x) (hc : s.dev.cmd? x.id = some c) (hrun : c.running = true) (htail : x.tailDone = true)
    (hready : s.dev.rptReady c.part = true) (htab : s.dev.commitTables c = .ok d) :
    let p := c.part
    let seq := (s.dev.f .SV_SEQ_SEQ p + 1) % 2 ^ 32
    Completes (.stepReport k) s (fun e =>
      e.f .SV_SEQ_SEQ p = seq ∧ e.f .SV_RPT_TAIL_TAIL p = (s.dev.f .SV_RPT_TAIL_TAIL p + 1) % s.dev.rptSize p ∧
      (∃ bs, e.out = s.dev.out ++ memWrites (s.dev.f .SV_RPT_BASE_BASE p * 4096 + s.dev.f .SV_RPT_TAIL_TAIL p *
        2 ^ s.dev.f .SV_RPT_CFG_SLOT_LOG2 p) bs ∧ leAt bs 8 4 = seq ∧ leAt bs 12 4 = c.tag) ∧
      (∃ r : Completion, .completion r ∈ e.link.held ∧ r.cmd = x.id ∧ r.status = .ok ∧ r.tag = c.tag) ∧
      (∃ h, e.cmd? c.id = some h ∧ h.ended = true) ∧ e.mem.hbm = d.mem.hbm ∧
      e.sv.ctxs = s.dev.sv.ctxs.filter (fun y => y.id != c.id) ∧
      (s.dev.sv.grants.all (fun g => g.part != p || g.seq != seq) = true → e.flag .SV_GATE_AWAITING p = true ∧
        SMap.get 0 e.sv.closedAt p = s.dev.count)) := by
  intro p seq
  have hdef : (s.dev.f .SV_SEQ_SEQ c.part + 1) % 2 ^ 32 = seq := rfl
  clear_value seq
  refine Completes.of_engine (g := fun d => d.stepReportRow k) rfl hstall ?_
  have hid : c.id = x.id := by simpa using List.find?_some hc
  have hrow : s.dev.stepReportRow k = ((d.sieveCommit c x).dropWork c.id).endCmd c.id .ok ((d.sieveCommit c x).dropWork c.id).count 0 := by
    simp [Dev.stepReportRow, hx, hc, hrun, htail, hready, hstall, htab]
  obtain ⟨hrest, -, -, hreg⟩ := Dev.commitTables_tablesOnly htab
  have hf : ∀ g : Fld, g.reg ≠ .TIER_USE → d.f g c.part = s.dev.f g c.part := fun g hg => congrArg g.of (hreg g.reg _ 0 hg)
  have hsize : d.rptSize c.part = s.dev.rptSize c.part := by rw [Dev.rptSize, hf _ (by decide)]; rfl
  have hcount : d.count = s.dev.count := congrArg BitVec.toNat (hreg .RING_COUNT 0 0 (by decide))
  have hcmds : d.cmds = s.dev.cmds := (congrArg Dev.cmds hrest :)
  have hout : d.out = s.dev.out := (congrArg Dev.out hrest :)
  have hsv : d.sv = s.dev.sv := (congrArg Dev.sv hrest :)
  have hspec := d.sieveCommit_spec c x (seq := seq) (by rw [hf .SV_SEQ_SEQ (by decide)]; exact hdef)
  dsimp only at hspec
  rw [hf .SV_RPT_TAIL_TAIL (by decide), hf .SV_RPT_BASE_BASE (by decide), hf .SV_RPT_CFG_SLOT_LOG2 (by decide), hsize, hout, hcmds,
    hsv, hcount] at hspec
  obtain ⟨hseq, htl, hrep, hcmds', hmem', hctxs', -, hgate⟩ := hspec
  rw [hrow]
  generalize d.sieveCommit c x = m at *
  obtain ⟨hdreg, hdout, hdcmds, hdhbm, hdsv⟩ := m.dropWork_spec c.id
  generalize m.dropWork c.id = n at *
  have hcn : n.cmd? c.id = some c := by rw [Dev.cmd?, hdcmds, hcmds', hid]; exact hc
  obtain ⟨hheld, hended, hemem, -, heregs⟩ := n.endCmd_spec .ok n.count 0 hcn
  obtain ⟨hesv, heout⟩ := n.endCmd_rest c.id .ok n.count 0
  generalize n.endCmd c.id .ok n.count 0 = e at *
  have hef : ∀ g : Fld, g.reg ∉ landRegs → e.settle.f g p = m.f g p := fun g hg => by
    rw [Dev.settle_f, Dev.f_of_regs heregs]
    exact congrArg g.of (hdreg g.reg p 0 hg)
  refine ⟨(hef _ (by decide)).trans hseq, (hef _ (by decide)).trans htl, ?_, ?_, hended, ?_, ?_, fun hall => ⟨?_, ?_⟩⟩
  · rw [Dev.settle_out, heout, hdout]
    exact hrep
  · rw [Dev.settle_link, hheld]
    exact ⟨_, List.mem_append_right _ List.mem_cons_self, hid, rfl, rfl⟩
  · rw [Dev.settle_mem, hemem, hdhbm, hmem']
  · rw [Dev.settle_sv, hesv, hdsv, hctxs']
  · rw [Dev.flag, hef _ (by decide)]
    exact (hgate hall).1
  · rw [Dev.settle_sv, hesv, hdsv]
    exact (hgate hall).2

/-- Settles O44: a grant acts by Table 4.14 once read, and a report goes out with its SIEVE's commit. -/
theorem grantGateAndReport : Obligations.GrantGateAndReport := by
  unfold Obligations.GrantGateAndReport
  intro s id c hstall
  exact ⟨fun hc hrun hready hop hparts => ⟨fun g d hread => stepGrant_evaluates hstall hc hrun hready hop hparts hread,
      stepGrant_fails hstall hc hrun hready hop⟩,
    fun k x d hx hc hrun htail hready htab => stepReport_completes hstall hx hc hrun htail hready htab⟩

end Sys2Proof.Machine
end

section
/-! PROOFS. Links that train, are discovered, come UP and go down (R245, R248, R249; O54). -/

namespace Sys2Proof.Machine

/-! ## Slots only leave -/

/-- The Switch Core but for its slots, the billets that wait for one and the credits released. -/
def FabSt.still (f : FabSt) : FabSt := { f with slots := [], serial := 0, inject := [], released := [] }

theorem FabSt.still_spec {f g : FabSt} (h : g.still = f.still) :
    g.inbox = f.inbox ∧ g.arrivals = f.arrivals ∧ g.disc = f.disc ∧ g.matched = f.matched :=
  ⟨(congrArg FabSt.inbox h :), (congrArg FabSt.arrivals h :), (congrArg FabSt.disc h :), (congrArg FabSt.matched h :)⟩

/-- Every slot is one that lay there, with its place at most another, though others may be gone; nothing else of the Switch Core
has changed. -/
structure Dev.slotsThin (d e : Dev) : Prop where
  slots : ∀ x ∈ e.fab.slots, ∃ y ∈ d.fab.slots, x = { y with shared := x.shared }
  still : e.fab.still = d.fab.still
  inject : e.fab.inject = d.fab.inject

namespace Dev.slotsThin

variable {d m e : Dev}

theorem of_fab (h : e.fab = d.fab) : d.slotsThin e := ⟨fun x hx => ⟨x, h ▸ hx, rfl⟩, by rw [h], by rw [h]⟩

theorem refl (d : Dev) : d.slotsThin d := of_fab rfl

theorem trans (h : d.slotsThin m) (h' : m.slotsThin e) : d.slotsThin e where
  slots x hx := by
    obtain ⟨y, hy, hx⟩ := h'.slots x hx
    obtain ⟨z, hz, hy⟩ := h.slots y hy
    exact ⟨z, hz, hx.trans (congrArg (fun y : Slot => { y with shared := x.shared }) hy)⟩
  still := h'.still.trans h.still
  inject := h'.inject.trans h.inject

theorem foldl {α : Type} {g : Dev → α → Dev} (hg : ∀ (d : Dev) a, d.slotsThin (g d a)) (l : List α) (d : Dev) :
    d.slotsThin (l.foldl g d) := by
  induction l generalizing d with
  | nil => exact refl d
  | cons a l ih => exact (hg d a).trans (ih _)

theorem filter (d : Dev) (p : Slot → Bool) : d.slotsThin (d.updFab (fun f => { f with slots := f.slots.filter p })) :=
  ⟨fun x hx => ⟨x, (List.mem_filter.mp hx).1, rfl⟩, rfl, rfl⟩

theorem pushOut (d : Dev) : d.slotsThin d.pushOut := by
  unfold Dev.pushOut
  split
  · exact refl d
  · exact (filter d _).trans (of_fab rfl)

theorem pushOuts (n : Nat) (d : Dev) : d.slotsThin (d.pushOuts n) := by
  induction n generalizing d with
  | zero => exact refl d
  | succ n ih => exact (pushOut d).trans (ih _)

theorem release (d : Dev) (key n : Nat) : d.slotsThin (d.release key n) := ⟨fun x hx => ⟨x, hx, rfl⟩, rfl, rfl⟩

theorem grantShared (d : Dev) (l : Nat) : d.slotsThin (d.grantShared l) := by
  unfold Dev.grantShared
  split
  · exact refl d
  · exact (((pushOuts _ d).trans (of_fab rfl)).trans (release _ _ _)).trans (of_fab (Dev.noteShared_fab _))

theorem grantAll (d : Dev) : d.slotsThin d.grantAll := (of_fab d.noteShared_fab).trans (foldl grantShared _ _)

/-- A slot that takes the static place of another keeps its copies. -/
theorem restore (d : Dev) (t : Slot) : d.slotsThin (d.updFab (fun f =>
    { f with slots := mapIf (fun u => u.serial == t.serial) (fun u => { u with shared := false }) f.slots })) := by
  refine ⟨fun x hx => ?_, rfl, rfl⟩
  obtain ⟨y, hy, rfl⟩ := List.mem_map.mp hx
  refine ⟨y, hy, ?_⟩
  split <;> rfl

/-- A slot is freed: it alone, and those of its number, have left. -/
theorem freeSlot (d : Dev) (s : Slot) :
    (d.updFab (fun f => { f with slots := f.slots.filter (fun t => t.serial != s.serial) })).slotsThin (d.freeSlot s) := by
  unfold Dev.freeSlot
  dsimp only
  generalize d.updFab (fun f => { f with slots := f.slots.filter (fun t => t.serial != s.serial) }) = m
  split
  · exact grantAll m
  split
  · exact grantAll m
  refine trans ?_ (grantAll _)
  have hback : ∀ x : Dev, m.slotsThin x → ∀ b : Bool, m.slotsThin (if b = true then
      x.setF .FAB_LINK_OCC_SHARED_OUT (x.sharedOut s.input - 1) s.input else x) := by
    intro x hx b
    split
    · exact hx.trans (of_fab rfl)
    · exact hx
  refine hback _ ?_ _
  split
  · exact release m _ _
  split
  · exact release m _ _
  · exact (release m _ _).trans (restore _ _)

end Dev.slotsThin

/-! ## No billet that came by a link or waits for it -/

/-- No billet lies here that came by a link, and no copy waits for it. -/
def Dev.avoids (d : Dev) (l : Nat) : Prop := ∀ x ∈ d.fab.slots, x.input ≠ l ∧ ∀ k ∈ x.copies, k.port ≠ l

theorem Dev.avoids.thin {d e : Dev} {l : Nat} (h : d.avoids l) (ht : d.slotsThin e) : e.avoids l := by
  intro x hx
  obtain ⟨y, hy, hxy⟩ := ht.slots x hx
  rw [hxy]
  exact h y hy

/-- Copies go to internal ports and to links that are UP. -/
def Dev.reaches (d : Dev) (k : Copy) : Prop := 36 ≤ k.port ∨ d.linkUp k.port = true

theorem Dev.pickLink_up {d : Dev} {ls : List Nat} {l : Nat} (h : d.pickLink ls = some l) : d.linkUp l = true := by
  refine List.foldlRecOn (motive := fun o : Option Nat => ∀ l, o = some l → d.linkUp l = true) (ls.filter d.linkUp) _
    (by rintro _ ⟨⟩) (fun best hbest k hk l hl => ?_) l h
  have hup := (List.mem_filter.mp hk).2
  cases best with
  | none => exact (Option.some.inj hl) ▸ hup
  | some c =>
    dsimp only at hl
    split at hl
    · exact (Option.some.inj hl) ▸ hup
    · exact (Option.some.inj hl) ▸ hbest c rfl

theorem localPort_internal (b : Billet) : 36 ≤ localPort b := by
  unfold localPort
  split
  · omega
  · split
    · omega
    · split <;> omega
  all_goals omega

theorem Dev.reaches_local (d : Dev) (b c : Billet) : d.reaches ⟨localPort b, c⟩ := .inl (localPort_internal b)

theorem Dev.reaches_pick {d : Dev} {ls : List Nat} {g : Nat → Copy} (hg : ∀ l, (g l).port = l) {k : Copy}
    (h : (d.pickLink ls).map g = some k) : d.reaches k := by
  obtain ⟨l, hl, rfl⟩ := Option.map_eq_some_iff.mp h
  exact .inr ((hg l).symm ▸ d.pickLink_up hl)

theorem Dev.reaches_uni {d : Dev} {input : Nat} {b : Billet} {k : Copy} (h : d.routeUni input b = some k) : d.reaches k := by
  unfold Dev.routeUni at h
  dsimp only at h
  split at h
  · cases h
  split at h
  · exact Dev.reaches_pick (fun _ => rfl) h
  split at h
  · exact (Option.some.inj h) ▸ d.reaches_local b b
  unfold Dev.routeX at h
  dsimp only at h
  split at h
  · exact Dev.reaches_pick (fun _ => rfl) h
  split at h <;> exact Dev.reaches_pick (fun _ => rfl) h

theorem Dev.reaches_mcast {d : Dev} {input : Nat} {b : Billet} {mask : Nat} {dim : Dim} {plus : Bool} {ls set : List Nat} {k : Copy}
    (h : d.mcastCopy input b mask dim plus ls set = some k) : d.reaches k := Dev.reaches_pick (fun _ => rfl) h

theorem Dev.reaches_multi {d : Dev} {input : Nat} {b : Billet} (ks : List Dim) (mask : Nat) {k : Copy}
    (h : some k ∈ d.routeMulti input b ks mask) : d.reaches k := by
  have hpair : ∀ {c : Prop} [Decidable c] {a : Option Copy}, (a = some k → d.reaches k) →
      some k ∈ (if c then [] else [a]) → d.reaches k := by
    intro c _ a ha hk
    split at hk
    · exact absurd hk List.not_mem_nil
    · exact ha (List.mem_singleton.mp hk).symm
  induction ks generalizing mask with
  | nil =>
    rw [Dev.routeMulti, List.mem_singleton] at h
    exact (Option.some.inj h) ▸ d.reaches_local b b
  | cons dim ks ih =>
    have hring : ∀ {a : Nat} {set minus plus : List Nat} {A B : Option Copy}, (A = some k → d.reaches k) → (B = some k → d.reaches k) →
        some k ∈ (if a ∈ set then ((if plus.isEmpty = true then [] else [A]) ++ if minus.isEmpty = true then [] else [B]) ++
            d.routeMulti input b ks (setTargets mask dim [a])
          else (if plus.isEmpty = true then [] else [A]) ++ if minus.isEmpty = true then [] else [B]) → d.reaches k := by
      intro a set minus plus A B hA hB hk
      split at hk
      · rcases List.mem_append.mp hk with hk | hk
        · rcases List.mem_append.mp hk with hk | hk
          · exact hpair hA hk
          · exact hpair hB hk
        · exact ih _ hk
      · rcases List.mem_append.mp hk with hk | hk
        · exact hpair hA hk
        · exact hpair hB hk
    cases dim with
    | x =>
      rw [Dev.routeMulti] at h
      rcases List.mem_append.mp h with h | h
      · obtain ⟨p, -, hp⟩ := List.mem_map.mp h
        exact Dev.reaches_mcast hp
      · split at h
        · exact (Option.some.inj (List.mem_singleton.mp h)) ▸ d.reaches_local b b
        · exact absurd h List.not_mem_nil
    | y => exact hring Dev.reaches_mcast Dev.reaches_mcast h
    | z => exact hring Dev.reaches_mcast Dev.reaches_mcast h
    | w => exact hring Dev.reaches_mcast Dev.reaches_mcast h

/-- No route leads over a link that is not UP. -/
theorem Dev.reaches_route {d : Dev} {input : Nat} {b : Billet} {k : Copy} (h : some k ∈ d.route input b) : d.reaches k := by
  unfold Dev.route at h
  split at h
  · exact Dev.reaches_multi _ _ h
  · exact Dev.reaches_uni (List.mem_singleton.mp h).symm

/-! ## Waiting billets leave such a link alone -/

/-- The Switch Core's own moves leave the state of every link. -/
theorem Dev.switchMoves.linkUp {d e : Dev} (h : d.switchMoves e) (l : Nat) : e.linkUp l = d.linkUp l := by
  unfold Dev.linkUp Dev.linkState
  rw [h.f (f := .FAB_LINK_STATUS_STATE) l 0 (by decide)]

theorem Dev.avoids.enqueue {d : Dev} {l : Nat} (h : d.avoids l) (hl : l < 36) (hdown : d.linkUp l = false) {input : Nat}
    (hin : 36 ≤ input) (shared : Bool) (b : Billet) (since : Nat) (owner : Option (Nat × Nat)) {copies : List (Option Copy)}
    (hc : ∀ k, some k ∈ copies → d.reaches k) : (d.enqueue input shared b since owner copies).avoids l := by
  have hport : ∀ k : Copy, some k ∈ copies → k.port ≠ l := by
    rintro k hk rfl
    rcases hc k hk with hk | hk
    · omega
    · exact Bool.noConfusion (hk.symm.trans hdown)
  unfold Dev.enqueue
  dsimp only
  generalize hs : (Slot.mk d.fab.serial input (bTc b) (bVc b) shared (bJob b) (copies.filterMap id) _ _ _) = s
  have hadd : (d.updFab (fun f => { f with slots := f.slots ++ [s], serial := f.serial + 1 })).avoids l := by
    intro x hx
    rcases List.mem_append.mp hx with hx | hx
    · exact h x hx
    obtain rfl := List.mem_singleton.mp hx
    subst hs
    exact ⟨by dsimp only; omega, fun k hk => hport k (by simpa using hk)⟩
  have hnote := hadd.thin (.of_fab (((Dev.noteShared_fab _).trans (Dev.unroutable_fab _ b (copies.length - (copies.filterMap id).length)))))
  split
  · exact hnote.thin ((Dev.slotsThin.filter _ _).trans (.freeSlot _ s))
  · exact hnote

theorem Dev.avoids.injectOne {d : Dev} {l : Nat} (h : d.avoids l) (hl : l < 36) (hdown : d.linkUp l = false) (i : Inject) :
    (d.injectOne i).1.avoids l := by
  unfold Dev.injectOne
  dsimp only
  split
  · exact h.thin (.of_fab (Dev.post_fab_eq ..))
  split
  · exact h
  rename_i shared _
  have hpush : ∀ b : Bool, d.slotsThin (if b = true then d.pushOut else d) ∧ d.slotsMove (if b = true then d.pushOut else d) := by
    intro b
    split
    · exact ⟨.pushOut d, .pushOut d⟩
    · exact ⟨.refl d, .refl d⟩
  obtain ⟨ht, hm⟩ := hpush (shared && d.sharedFree == 0)
  generalize (if (shared && d.sharedFree == 0) = true then d.pushOut else d) = m at ht hm ⊢
  have hcount : m.slotsThin (if i.engine = 0 then m.addF .XE_BILLETS_TX_TX 1 else m) ∧
      m.slotsMove (if i.engine = 0 then m.addF .XE_BILLETS_TX_TX 1 else m) := by
    split
    · exact ⟨.of_fab rfl, .setF m _ _ _ _ (by decide)⟩
    · exact ⟨.refl m, .refl m⟩
  obtain ⟨ht', hm'⟩ := hcount
  generalize (if i.engine = 0 then m.addF .XE_BILLETS_TX_TX 1 else m) = n at ht' hm' ⊢
  have hup := (hm.trans hm').switchMoves.linkUp l
  refine (h.thin (ht.trans ht')).enqueue hl (hup.trans hdown) (by omega) _ _ _ _ (fun k hk => ?_)
  split at hk
  · split at hk
    · rename_i hk'
      obtain rfl := Option.some.inj (List.mem_singleton.mp hk)
      exact .inr hk'
    · exact absurd hk List.not_mem_nil
  · exact Dev.reaches_route hk

theorem Dev.avoids.pump {d : Dev} {l : Nat} (h : d.avoids l) (hl : l < 36) (hdown : d.linkUp l = false) : d.pump.avoids l := by
  have hlist : ∀ (is : List Inject) (d : Dev), d.avoids l → d.linkUp l = false → (d.pumpList is).1.avoids l := by
    intro is
    induction is with
    | nil => exact fun d h _ => h
    | cons i is ih =>
      intro d h hdown
      exact ih _ (h.injectOne hl hdown i) (((Dev.switchMoves.injectOne d i).linkUp l).trans hdown)
  exact hlist d.fab.inject d h hdown

/-! ## The flush -/

/-- Of the billets that did not come by the link, only those of the listed slots may have copies that wait for it. -/
def Dev.flushed (d : Dev) (l : Nat) (serials : List Nat) : Prop :=
  ∀ x ∈ d.fab.slots, x.input ≠ l ∧ ((∃ k ∈ x.copies, k.port = l) → x.serial ∈ serials)

theorem Dev.flushed.leave {d : Dev} {l n : Nat} {ns : List Nat} {s : Slot} (h : d.flushed l (n :: ns)) (hs : s.serial = n) :
    (d.leave s l).flushed l ns := by
  have hother : ∀ y ∈ d.fab.slots, y.serial ≠ n → y.input ≠ l ∧ ((∃ k ∈ y.copies, k.port = l) → y.serial ∈ ns) :=
    fun y hy hne => ⟨(h y hy).1, fun hk => (List.mem_cons.mp ((h y hy).2 hk)).resolve_left hne⟩
  unfold Dev.leave
  dsimp only
  split
  · intro x hx
    obtain ⟨y, hy, hxy⟩ := (Dev.slotsThin.freeSlot d s).slots x hx
    obtain ⟨hy, hne⟩ := List.mem_filter.mp hy
    rw [hxy]
    exact hother y hy (by simpa [hs] using hne)
  · intro x hx
    obtain ⟨y, hy, rfl⟩ := List.mem_map.mp hx
    split
    · refine ⟨(h y hy).1, ?_⟩
      rintro ⟨k, hk, rfl⟩
      simp at hk
    · rename_i hne
      exact hother y hy (by simpa [hs] using hne)

/-- The flush of the copies that wait for a link, of one slot. -/
def Dev.flushSlot (l : Nat) (d : Dev) (n : Nat) : Dev :=
  match d.fab.slots.find? (fun s => s.serial == n) with
  | none => d
  | some s => (d.addF .FAB_LINK_FLUSH_FLUSHED (s.copies.filter (fun c => c.port == l)).length l).leave s l

theorem Dev.flushed.flushSlot {d : Dev} {l n : Nat} {ns : List Nat} (h : d.flushed l (n :: ns)) : (d.flushSlot l n).flushed l ns := by
  unfold Dev.flushSlot
  split
  · rename_i hnone
    refine fun x hx => ⟨(h x hx).1, fun hk => (List.mem_cons.mp ((h x hx).2 hk)).resolve_left ?_⟩
    simpa using List.find?_eq_none.mp hnone x hx
  · rename_i s hfind
    exact Dev.flushed.leave (d := d.addF .FAB_LINK_FLUSH_FLUSHED _ l) h (by simpa using List.find?_some hfind)

theorem Dev.flushed.foldl {l : Nat} (ns : List Nat) {d : Dev} (h : d.flushed l ns) : (ns.foldl (Dev.flushSlot l) d).avoids l := by
  induction ns generalizing d with
  | nil => exact fun x hx => ⟨(h x hx).1, fun k hk hp => absurd ((h x hx).2 ⟨k, hk, hp⟩) List.not_mem_nil⟩
  | cons n ns ih => exact ih h.flushSlot

/-- A link that is flushed has no billet here that came by it, and no copy that waits for it (R248). -/
theorem Dev.avoids_flushLink (d : Dev) (l : Nat) : (d.flushLink l).avoids l := by
  refine Dev.flushed.foldl _ (fun x hx => ⟨?_, ?_⟩)
  · simpa using (List.mem_filter.mp hx).2
  · rintro ⟨k, hk, rfl⟩
    exact List.mem_map.mpr ⟨x, List.mem_filter.mpr ⟨hx, List.any_eq_true.mpr ⟨k, hk, by simp⟩⟩, rfl⟩

/-! ## The rest of the Switch Core -/

theorem Dev.enqueue_still (d : Dev) (input : Nat) (shared : Bool) (b : Billet) (since : Nat) (owner : Option (Nat × Nat))
    (copies : List (Option Copy)) : (d.enqueue input shared b since owner copies).fab.still = d.fab.still := by
  have hslot : ∀ (g : FabSt → FabSt) n, (∀ f, (g f).still = f.still) →
      ((d.updFab g).unroutable b n).noteShared.fab.still = d.fab.still := fun g n hg => by
    rw [Dev.noteShared_fab, Dev.unroutable_fab]
    exact hg d.fab
  unfold Dev.enqueue
  dsimp only
  split
  · rw [(Dev.slotsThin.freeSlot _ _).still]
    exact hslot _ _ (fun _ => rfl)
  · exact hslot _ _ (fun _ => rfl)

theorem Dev.injectOne_still (d : Dev) (i : Inject) : (d.injectOne i).1.fab.still = d.fab.still := by
  unfold Dev.injectOne
  dsimp only
  split
  · exact congrArg FabSt.still (Dev.post_fab_eq ..)
  split
  · rfl
  rw [Dev.enqueue_still]
  have hpush : ∀ b : Bool, (if b = true then d.pushOut else d).fab.still = d.fab.still := by
    intro b
    split
    · exact (Dev.slotsThin.pushOut d).still
    · rfl
  split
  · exact hpush _
  · exact hpush _

/-- Billets that take slots leave the rest of the Switch Core. -/
theorem Dev.pump_still (d : Dev) : d.pump.fab.still = d.fab.still := by
  have hlist : ∀ (is : List Inject) (d : Dev), (d.pumpList is).1.fab.still = d.fab.still := by
    intro is
    induction is with
    | nil => exact fun _ => rfl
    | cons i is ih => exact fun d => (ih _).trans (d.injectOne_still i)
  exact hlist d.fab.inject d


end Sys2Proof.Machine
end

section
/-! PROOFS. Links train, are discovered, come UP and go down (O54). -/

namespace Sys2Proof.Machine

/-! ## A link that starts again -/

theorem Dev.restartLink_link (d : Dev) (l : Nat) : (d.restartLink l).link = d.link := by
  unfold Dev.restartLink
  dsimp only
  exact ((Dev.slotsMove.setF _ .FAB_LINK_OCC_SHARED_OUT 0 l 0 (by decide)).trans (.grantAll _)).link

theorem Dev.restartLink_state (d : Dev) (l k : Nat) : (d.restartLink l).linkState k = d.linkState k :=
  (Dev.linkMoves.restartLink (l := switchRegs) d l (fun _ h => h)).f .FAB_LINK_STATUS_STATE k 0 (by decide)

theorem Dev.avoids.congr {d e : Dev} {l : Nat} (h : d.avoids l) (hs : e.fab.slots = d.fab.slots) : e.avoids l := by
  unfold Dev.avoids
  rwa [hs]

theorem Dev.avoids.restartLink {d : Dev} {l : Nat} (h : d.avoids l) : (d.restartLink l).avoids l := by
  unfold Dev.restartLink
  dsimp only
  refine Dev.avoids.thin ?_ (.grantAll _)
  exact h.congr rfl

/-- A link whose training starts is TRAINING, and no other link's state, record or command changes. -/
theorem Dev.trains_spec (d : Dev) (l : Fin 36) :
    let e := (d.setF .FAB_LINK_STATUS_STATE 1 l).restartLink l
    e.linkState l = 1 ∧ (∀ k : Fin 36, k ≠ l → e.linkState k = d.linkState k) ∧ e.link = d.link ∧
    e.cmds = d.cmds ∧ e.mem = d.mem := by
  have hm := Dev.linkMoves.restartLink (l := switchRegs) (d.setF .FAB_LINK_STATUS_STATE 1 l) l (fun _ h => h)
  refine ⟨?_, fun k hk => ?_, Dev.restartLink_link _ l, hm.cmds, hm.mem⟩
  · exact (Dev.restartLink_state _ l l).trans (Dev.linkState_setF d 1 l)
  · rw [Dev.restartLink_state]
    exact d.linkState_setF_other 1 rfl l.isLt k.isLt (fun h => hk (Fin.ext h))

theorem trainingStart_spec (s : State) (l : Fin 36) :
    (s.dev.boot.cold = false → s.dev.boot.halted = false → 5 ≤ s.dev.stage → s.dev.flag .DEV_STATUS_WARM_BUSY = false →
      s.dev.linkHeld l = false → (s.dev.linkState l = 0 ∨ s.dev.linkState l = 4) →
      Completes (.linkTrainingStart l) s (fun e =>
        e.linkState l = 1 ∧ (∀ k : Fin 36, k ≠ l → e.linkState k = s.dev.linkState k) ∧ e.link = s.dev.link ∧
        e.cmds = s.dev.cmds ∧ e.mem = s.dev.mem)) ∧
    (s.dev.stage < 5 ∨ s.dev.flag .DEV_STATUS_WARM_BUSY = true ∨ s.dev.linkHeld l = true ∨
      (s.dev.linkState l ≠ 0 ∧ s.dev.linkState l ≠ 4) → Completes (.linkTrainingStart l) s (fun e => s.dev.same e)) := by
  refine ⟨fun hcold hhalt hstage hwarm hheld hst => Completes.of_act (g := fun d => d.trainingStart l) rfl ?_,
    fun h => Completes.of_act (g := fun d => d.trainingStart l) rfl ?_⟩
  · have hrow : s.dev.trainingStart l = (s.dev.setF .FAB_LINK_STATUS_STATE 1 l).restartLink l := by
      simp [Dev.trainingStart, hcold, hhalt, hwarm, hheld, hst, hstage]
    rw [hrow]
    exact s.dev.trains_spec l
  · have hrow : s.dev.trainingStart l = s.dev := by
      unfold Dev.trainingStart
      split
      · rfl
      · rename_i hgo
        rw [if_neg]
        simp only [Bool.or_eq_true, decide_eq_true_eq, not_or] at hgo
        obtain ⟨⟨⟨-, hstage⟩, hwarm⟩, hheld⟩ := hgo
        rintro hst
        rcases h with h | h | h | h
        · exact hstage h
        · exact hwarm h
        · exact hheld h
        · exact hst.elim h.1 h.2
    rw [hrow]
    exact Dev.same_settle _

/-- A counter that read the same before other writes. -/
theorem Dev.bumped.of_f {d m e : Dev} {f : Fld} {n i j : Nat} (h : m.bumped e f n i j) (hf : m.f f i j = d.f f i j) :
    d.bumped e f n i j := by
  unfold Dev.bumped at h ⊢
  rwa [← hf]

/-! ## Training -/

theorem trained_spec (s : State) (l : Fin 36) (lanes : BitVec 4) (t : BitVec 64) {ok : Nat} (hst : s.dev.linkState l = 1)
    (hok : Nat.land lanes.toNat (15 - s.dev.f .FAB_LINK_STATUS_RETIRED l) = ok) :
    Completes (.linkTrained l lanes t) s (fun e =>
      (2 ≤ popCount ok 4 → e.linkState l = 2 ∧ e.f .FAB_LINK_STATUS_LANES l = ok ∧
        s.dev.bumped e .FAB_LINK_TX_TX 1 l ∧ ∃ b, e.out = s.dev.out ++ [.billet l b]) ∧
      (popCount ok 4 < 2 → e.linkState l = 0 ∧ e.f .FAB_LINK_STATUS_LANES l = 0 ∧ s.dev.restSame e) ∧
      e.link = s.dev.link ∧ e.mem = s.dev.mem) := by
  refine Completes.of_act (g := fun d => d.trained l lanes.toNat t.toNat) rfl ?_
  have hlt : ok < 2 ^ 4 := by
    rw [← hok]
    exact Nat.lt_of_le_of_lt Nat.and_le_left lanes.isLt
  have hstate : ∀ m n : Nat, ((s.dev.setF .FAB_LINK_STATUS_STATE m l).setF .FAB_LINK_STATUS_LANES n l).linkState l = m % 2 ^ 3 :=
    fun m n => (Dev.f_setF_apart _ .FAB_LINK_STATUS_LANES .FAB_LINK_STATUS_STATE n l 0 rfl (by decide) (by decide)).trans
      (s.dev.linkState_setF m l)
  unfold Dev.trained
  rw [if_neg (by simp [hst]), hok]
  dsimp only
  split
  · next hlow =>
    refine ⟨fun h => absurd hlow (by omega), fun _ => ⟨hstate 0 0, Dev.f_setF_fit _ _ _ _ (by decide) (by decide), ?_⟩, rfl, rfl⟩
    exact (Dev.restSame.setF (.setF (.refl _) ..) ..).settle
  · next hlow =>
    refine ⟨fun _ => ⟨?_, ?_, ?_, _, rfl⟩, fun h => absurd h hlow, rfl, rfl⟩
    · exact (Dev.f_setF_ne_reg _ .FAB_LINK_TX_TX .FAB_LINK_STATUS_STATE _ _ _ _ _ (by decide)).trans (hstate 2 ok)
    · exact (Dev.f_setF_ne_reg _ .FAB_LINK_TX_TX .FAB_LINK_STATUS_LANES _ _ _ _ _ (by decide)).trans
        (Dev.f_setF_fit _ _ _ _ (by decide) hlt)
    · refine Dev.bumped.of_f (Dev.bumped_addF ((s.dev.setF .FAB_LINK_STATUS_STATE 2 l).setF .FAB_LINK_STATUS_LANES ok l)
        .FAB_LINK_TX_TX 1 l 0 (by decide)) ?_
      rw [Dev.f_setF_ne_reg _ .FAB_LINK_STATUS_LANES .FAB_LINK_TX_TX _ _ _ _ _ (by decide),
        Dev.f_setF_ne_reg _ .FAB_LINK_STATUS_STATE .FAB_LINK_TX_TX _ _ _ _ _ (by decide)]

/-! ## Discovery -/

theorem Dev.switchMoves.foldl {α : Type} {g : Dev → α → Dev} (hg : ∀ (d : Dev) a, d.switchMoves (g d a)) (l : List α) (d : Dev) :
    d.switchMoves (l.foldl g d) := by
  induction l generalizing d with
  | nil => exact .refl d
  | cons a l ih => exact (hg d a).trans (ih _)

theorem Dev.sendAlignAll_still (d : Dev) : d.sendAlignAll.fab.still = d.fab.still := by
  unfold Dev.sendAlignAll
  split
  · rfl
  · exact List.foldlRecOn (motive := fun e : Dev => e.fab.still = d.fab.still) _ Dev.sendAlign rfl
      (fun e he l _ => (Dev.pump_still _).trans he)

/-- A link that comes up is UP; its status else, the delays and the links found as wired are as they were. -/
theorem Dev.linkComeUp_spec (d : Dev) (l : Nat) :
    (d.linkComeUp l).linkState l = 3 ∧ (d.linkComeUp l).f .FAB_LINK_STATUS_PEER l = d.f .FAB_LINK_STATUS_PEER l ∧
    (d.linkComeUp l).ring = d.ring ∧ (d.linkComeUp l).fab.matched = d.fab.matched := by
  have hpost : ∀ m : Dev, m.switchMoves (if d.fab.wasUp.any (· == l) = true then m.post .FAB_LINK_UP 0 l
      else m.updFab (fun f => { f with wasUp := f.wasUp ++ [l] })) := by
    intro m
    split
    · exact .post m ..
    · exact (Dev.slotsMove.updFab m _).switchMoves
  have hsend : ∀ m : Dev, m.switchMoves m.sendAlignAll := by
    intro m
    unfold Dev.sendAlignAll
    split
    · exact .refl m
    · exact Dev.switchMoves.foldl Dev.sendAlign_moves _ m
  have hmoves := ((hpost (d.setF .FAB_LINK_STATUS_STATE 3 l)).trans (Dev.slotsMove.grantShared _ l).switchMoves).trans (hsend _)
  refine ⟨(hmoves.f (f := .FAB_LINK_STATUS_STATE) l 0 (by decide)).trans (d.linkState_setF 3 l),
    (hmoves.f (f := .FAB_LINK_STATUS_PEER) l 0 (by decide)).trans ?_, (congrArg Dev.ring hmoves.rest :), ?_⟩
  · exact Dev.f_setF_apart _ .FAB_LINK_STATUS_STATE .FAB_LINK_STATUS_PEER 3 l 0 rfl (by decide) (by decide)
  · refine (FabSt.still_spec ((Dev.sendAlignAll_still _).trans (Dev.slotsThin.grantShared _ l).still)).2.2.2.trans ?_
    split
    · exact congrArg FabSt.matched (Dev.post_fab ..)
    · rfl

/-- What is noted of a far end before its billet is compared: the register, and the billet is taken. -/
def Dev.hears (d : Dev) (rest : List DiscIn) (l far : Nat) : Dev :=
  (d.updFab (fun f => { f with disc := rest })).setF .FAB_LINK_STATUS_PEER far l

/-- A far end is echoed once. -/
def Dev.echoes (d : Dev) (l t stamp : Nat) : Dev :=
  if l ∈ d.fab.echoed then d else (d.updFab (fun f => { f with echoed := f.echoed ++ [l] })).sendDisc l true t stamp

/-- A link whose far end is as wired, and whose delay is known, comes up. -/
def Dev.settleLink (d : Dev) (l : Nat) : Dev :=
  if d.linkState l = 2 ∧ l ∈ d.fab.matched ∧ SMap.get 0 d.ring.delay l ≠ 0 then d.linkComeUp l else d

/-- The measured one-way delay of a link. -/
def Dev.measures (d : Dev) (l rtt : Nat) : Dev :=
  { d with ring := { d.ring with delay := SMap.set 0 d.ring.delay l (rtt / 2 % 2 ^ 20 + 1) } }

theorem Dev.measures_delay (d : Dev) (l rtt : Nat) : SMap.get 0 (d.measures l rtt).ring.delay l = rtt / 2 % 2 ^ 20 + 1 := by
  unfold Dev.measures
  dsimp only
  rw [SMap.get_set, if_pos rfl]

/-- A link found as wired. -/
def Dev.matches (d : Dev) (l : Nat) : Dev :=
  d.updFab (fun f => { f with matched := if l ∈ f.matched then f.matched else f.matched ++ [l] })

theorem Dev.discovery_eq {d : Dev} {t : Nat} {b : DiscIn} {rest : List DiscIn} (h : d.fab.disc = b :: rest)
    (hst : d.linkState b.link = 2) : d.discovery t =
      (let far := bPay b.b 0 0 16
       let m := d.hears rest b.link far
       (if bPay b.b 3 7 1 = 1 then m.measures b.link (b.stamp - bPay b.b 12 0 64)
        else
          let n := m.echoes b.link t (bPay b.b 4 0 64)
          if far == n.linkPeer b.link && n.wiredTo b.link (bPay b.b 2 0 8) (bPay b.b 3 0 3) then n.matches b.link
          else (n.setF .FAB_LINK_STATUS_STATE 4 b.link).post .FAB_MISWIRE far b.link).settleLink b.link) := by
  have hst' : (d.updFab (fun f => { f with disc := rest })).linkState b.link = 2 := hst
  unfold Dev.discovery
  rw [h]
  dsimp only
  rw [if_neg (by simp [hst'])]
  rfl

/-- While a discovery billet is worked on, the link is in DISCOVERY with the far end's address, and its delay, its wiring, the reports
and the device's own place are as they were. -/
structure Dev.discovering (d : Dev) (l far : Nat) (e : Dev) : Prop where
  state : e.linkState l = 2
  peer : e.f .FAB_LINK_STATUS_PEER l = far
  ring : e.ring = d.ring
  matched : e.fab.matched = d.fab.matched
  link : e.link = d.link
  count : e.count = d.count
  node : e.node = d.node
  dims : e.dimLen = d.dimLen

theorem bPay_lt (b : Billet) (o lo n : Nat) : bPay b o lo n < 2 ^ n := by
  unfold bPay field bits
  exact Nat.mod_lt _ (Nat.two_pow_pos n)

theorem Dev.hears_discovering {d : Dev} {l far : Nat} (rest : List DiscIn) (hst : d.linkState l = 2) (hfar : far < 2 ^ 16) :
    d.discovering l far (d.hears rest l far) where
  state := (Dev.f_setF_apart _ .FAB_LINK_STATUS_PEER .FAB_LINK_STATUS_STATE far l 0 rfl (by decide) (by decide)).trans hst
  peer := Dev.f_setF_fit _ .FAB_LINK_STATUS_PEER l 0 (by decide) hfar
  ring := rfl
  matched := rfl
  link := rfl
  count := Dev.count_setF _ .FAB_LINK_STATUS_PEER far l 0 (by decide)
  node := Dev.f_setF_ne_reg _ .FAB_LINK_STATUS_PEER .FAB_NODE_NODE _ _ _ _ _ (by decide)
  dims := by
    funext k
    unfold Dev.dimLen Dev.hears
    simp (disch := decide) only [Dev.f_setF_ne_reg]
    rfl

theorem Dev.discovering.echoes {d m : Dev} {l far : Nat} (h : d.discovering l far m) (t stamp : Nat) : d.discovering l far (m.echoes l t stamp) := by
  have hne : ∀ (f : Fld) i, f.reg ≠ .FAB_LINK_TX → (m.echoes l t stamp).f f i = m.f f i := by
    intro f i hf
    unfold Dev.echoes
    split
    · rfl
    · exact Dev.f_setF_ne_reg _ .FAB_LINK_TX_TX f _ _ _ _ _ hf
  have hrest : (m.echoes l t stamp).ring = m.ring ∧ (m.echoes l t stamp).fab.matched = m.fab.matched ∧
      (m.echoes l t stamp).link = m.link ∧ (m.echoes l t stamp).count = m.count := by
    unfold Dev.echoes
    split
    · exact ⟨rfl, rfl, rfl, rfl⟩
    · exact ⟨rfl, rfl, rfl, Dev.count_setF _ .FAB_LINK_TX_TX _ l 0 (by decide)⟩
  obtain ⟨hring, hmatched, hlink, hcount⟩ := hrest
  refine ⟨(hne .FAB_LINK_STATUS_STATE l (by decide)).trans h.state, (hne .FAB_LINK_STATUS_PEER l (by decide)).trans h.peer,
    hring.trans h.ring, hmatched.trans h.matched, hlink.trans h.link, hcount.trans h.count,
    (hne .FAB_NODE_NODE 0 (by decide)).trans h.node, ?_⟩
  rw [← h.dims]
  funext k
  unfold Dev.dimLen
  cases k <;> simp (disch := decide) only [hne]

theorem Dev.discovering.wired {d m : Dev} {l far : Nat} (h : d.discovering l far m) (a g : Nat) :
    m.linkPeer l = d.linkPeer l ∧ m.wiredTo l a g = d.wiredTo l a g := by
  have hp : m.linkPeer l = d.linkPeer l := by
    unfold Dev.linkPeer
    rw [h.node, h.dims]
  refine ⟨hp, ?_⟩
  unfold Dev.wiredTo
  rw [hp, h.node]

/-- A link comes up exactly where it is in DISCOVERY, found as wired and measured. -/
theorem Dev.settleLink_spec (d : Dev) (l : Nat) :
    (d.settleLink l).linkState l = (if d.linkState l = 2 ∧ l ∈ d.fab.matched ∧ SMap.get 0 d.ring.delay l ≠ 0 then 3 else d.linkState l) ∧
    (d.settleLink l).f .FAB_LINK_STATUS_PEER l = d.f .FAB_LINK_STATUS_PEER l ∧ (d.settleLink l).ring = d.ring ∧
    (d.settleLink l).fab.matched = d.fab.matched := by
  unfold Dev.settleLink
  split
  · exact d.linkComeUp_spec l
  · exact ⟨rfl, rfl, rfl, rfl⟩

theorem discovery_spec (s : State) (t : BitVec 64) {b : DiscIn} {rest : List DiscIn} (hdisc : s.dev.fab.disc = b :: rest)
    (hst : s.dev.linkState b.link = 2) {far : Nat} (hfar : bPay b.b 0 0 16 = far) {wired : Prop}
    (hwired : wired ↔ far = s.dev.linkPeer b.link ∧ s.dev.wiredTo b.link (bPay b.b 2 0 8) (bPay b.b 3 0 3) = true) :
    Completes (.discovery t) s (fun e => e.f .FAB_LINK_STATUS_PEER b.link = far ∧
      (bPay b.b 3 7 1 = 1 → SMap.get 0 e.ring.delay b.link = (b.stamp - bPay b.b 12 0 64) / 2 % 2 ^ 20 + 1 ∧
        e.linkState b.link = (if b.link ∈ s.dev.fab.matched then 3 else 2)) ∧
      (bPay b.b 3 7 1 = 0 → ¬wired → e.linkState b.link = 4 ∧ s.dev.posted e .FAB_MISWIRE (fun r => r.address = far)) ∧
      (bPay b.b 3 7 1 = 0 → wired → b.link ∈ e.fab.matched ∧
        e.linkState b.link = (if SMap.get 0 s.dev.ring.delay b.link = 0 then 2 else 3))) := by
  refine Completes.of_act (g := fun d => d.discovery t.toNat) rfl ?_
  rw [Dev.discovery_eq hdisc hst]
  dsimp only
  rw [hfar]
  have hm := Dev.hears_discovering rest hst (hfar ▸ bPay_lt b.b 0 0 16)
  generalize s.dev.hears rest b.link far = m at hm ⊢
  generalize b.link = l at *
  by_cases hecho : bPay b.b 3 7 1 = 1
  · rw [if_pos hecho]
    obtain ⟨hstate, hpeer, hring, -⟩ := (m.measures l (b.stamp - bPay b.b 12 0 64)).settleLink_spec l
    refine ⟨hpeer.trans hm.peer, fun _ => ⟨?_, ?_⟩, fun h => absurd h (by omega), fun h => absurd h (by omega)⟩
    · rw [Dev.settle_ring, hring]
      exact m.measures_delay l _
    · have hdelay : SMap.get 0 (m.measures l (b.stamp - bPay b.b 12 0 64)).ring.delay l ≠ 0 := by
        rw [m.measures_delay]
        exact Nat.succ_ne_zero _
      refine hstate.trans ?_
      rw [show (m.measures l (b.stamp - bPay b.b 12 0 64)).linkState l = 2 from hm.state,
        show (m.measures l (b.stamp - bPay b.b 12 0 64)).fab.matched = s.dev.fab.matched from hm.matched]
      simp only [hdelay, ne_eq, not_false_eq_true, true_and, and_true]
  · rw [if_neg hecho]
    have hn := hm.echoes t.toNat (bPay b.b 4 0 64)
    generalize m.echoes l t.toNat (bPay b.b 4 0 64) = n at hn ⊢
    obtain ⟨hlp, hwt⟩ := hn.wired (bPay b.b 2 0 8) (bPay b.b 3 0 3)
    rw [hlp, hwt]
    by_cases hw : wired
    · obtain ⟨hpeer', hto⟩ := hwired.mp hw
      rw [if_pos (by rw [hto, Bool.and_true]; exact beq_iff_eq.mpr hpeer')]
      obtain ⟨hstate, hpeer, -, hmatched⟩ := (n.matches l).settleLink_spec l
      have hmem : l ∈ (n.matches l).fab.matched := by
        unfold Dev.matches Dev.updFab
        dsimp only
        split
        · assumption
        · exact List.mem_append_right _ (List.mem_singleton.mpr rfl)
      refine ⟨hpeer.trans hn.peer, fun h => absurd h hecho, fun _ h => absurd hw h, fun _ _ => ⟨hmatched ▸ hmem, hstate.trans ?_⟩⟩
      rw [show (n.matches l).linkState l = 2 from hn.state, show (n.matches l).ring = s.dev.ring from hn.ring]
      simp only [hmem, true_and, ite_not, ne_eq]
    · rw [if_neg (fun h => hw (hwired.mpr (by simpa using h)))]
      have hpost := Dev.switchMoves.post (n.setF .FAB_LINK_STATUS_STATE 4 l) .FAB_MISWIRE far l {} 0
      have h4 : ((n.setF .FAB_LINK_STATUS_STATE 4 l).post .FAB_MISWIRE far l).linkState l = 4 :=
        (hpost.f (f := .FAB_LINK_STATUS_STATE) l 0 (by decide)).trans (n.linkState_setF 4 l)
      rw [show ((n.setF .FAB_LINK_STATUS_STATE 4 l).post .FAB_MISWIRE far l).settleLink l = _ from
        if_neg (fun h => absurd (h4.symm.trans h.1) (by decide))]
      refine ⟨?_, fun h => absurd h hecho, fun _ _ => ⟨h4, ?_⟩, fun _ h => absurd h hw⟩
      · refine (hpost.f (f := .FAB_LINK_STATUS_PEER) l 0 (by decide)).trans ?_
        exact (Dev.f_setF_apart _ .FAB_LINK_STATUS_STATE .FAB_LINK_STATUS_PEER 4 l 0 rfl (by decide) (by decide)).trans hn.peer
      · refine Dev.posted_congr (d' := n.setF .FAB_LINK_STATUS_STATE 4 l) hn.link ?_ rfl (Dev.post_posted_of _ _ _ _ _ _ rfl)
        exact (Dev.count_setF _ .FAB_LINK_STATUS_STATE 4 l 0 (by decide)).trans hn.count

/-! ## A link that goes down -/

/-- The loss of a link that has been UP leaves nothing that came by it or waits for it, is counted and reported (R248). -/
theorem Dev.loseUp_spec {d : Dev} {l : Nat} (cause : Nat) (hl : l < 36) (hdown : d.linkUp l = false) :
    (d.loseUp l cause).avoids l ∧ d.bumped (d.loseUp l cause) .FAB_LINK_ERR_DOWNS 1 l ∧
    ∃ r : Report, .report r ∈ (d.loseUp l cause).link.held ∧ r.code = .FAB_LINK_DOWN ∧ r.index = cause := by
  have hb := d.bumped_addF .FAB_LINK_ERR_DOWNS 1 l 0 (by decide)
  have hup : (d.addF .FAB_LINK_ERR_DOWNS 1 l).linkState l = d.linkState l :=
    Dev.f_setF_ne_reg _ .FAB_LINK_ERR_DOWNS .FAB_LINK_STATUS_STATE _ _ _ _ _ (by decide)
  unfold Dev.loseUp
  generalize d.addF .FAB_LINK_ERR_DOWNS 1 l = c at *
  have hflush := (Dev.linkMoves.rateEvent c 4 l 1 (l := .FAB_LINK_FLUSH :: .ERR_REPLACE :: switchRegs) (by decide) (by decide)).trans
    (.flushLink _ l (by decide) (by decide))
  have hav := Dev.avoids_flushLink (c.rateEvent 4 l 1) l
  generalize (c.rateEvent 4 l 1).flushLink l = m at *
  have hmoves := hflush.trans ((Dev.linkMoves.restartLink m l (by decide)).trans (.post _ .FAB_LINK_DOWN 0 cause {} 0 (by decide)))
  have hav' : ((m.restartLink l).post .FAB_LINK_DOWN 0 cause).avoids l := hav.restartLink.congr (congrArg FabSt.slots (Dev.post_fab ..))
  obtain ⟨r, hheld, hcode, -, -, hindex⟩ := Dev.post_posted_of (m.restartLink l) .FAB_LINK_DOWN 0 cause {} 0
    (P := fun r => r.index = cause) rfl
  generalize (m.restartLink l).post .FAB_LINK_DOWN 0 cause = n at *
  have hn : n.linkUp l = false := by
    unfold Dev.linkUp at hdown ⊢
    rwa [show n.linkState l = c.linkState l from hmoves.f .FAB_LINK_STATUS_STATE l 0 (by decide), hup]
  refine ⟨hav'.pump hl hn, ?_, r, ?_, hcode, hindex⟩
  · unfold Dev.bumped at hb ⊢
    rw [← hb]
    exact (hmoves.trans (.pump n (by decide))).f .FAB_LINK_ERR_DOWNS l 0 (by decide)
  · obtain ⟨rest, hrest⟩ := Dev.heldGrows.pump n
    rw [hrest, hheld]
    simp

theorem Dev.countLoss_frame (d : Dev) (l cause : Nat) :
    (d.countLoss l cause).link = d.link ∧ (d.countLoss l cause).f .FAB_LINK_ERR_DOWNS l = d.f .FAB_LINK_ERR_DOWNS l := by
  unfold Dev.countLoss
  split
  · exact ⟨rfl, Dev.f_setF_apart _ .FAB_LINK_ERR_UNCORR .FAB_LINK_ERR_DOWNS _ l 0 rfl (by decide) (by decide)⟩
  · exact ⟨rfl, Dev.f_setF_apart _ .FAB_LINK_ERR_CRC .FAB_LINK_ERR_DOWNS _ l 0 rfl (by decide) (by decide)⟩
  · exact ⟨rfl, Dev.f_setF_apart _ .FAB_LINK_ERR_CW_CRC .FAB_LINK_ERR_DOWNS _ l 0 rfl (by decide) (by decide)⟩
  · exact ⟨rfl, rfl⟩

/-- The state, the cause and what is left beside the Switch Core of a link that is shown to be down. -/
theorem Dev.linkMoves.shown {d e : Dev} {l cause : Nat} (h : Dev.linkMoves lossRegs (d.showDown l cause) e) (hc : cause < 8) :
    e.linkState l = 0 ∧ e.f .FAB_LINK_STATUS_CAUSE l = cause ∧ e.cmds = d.cmds ∧ e.mem = d.mem :=
  ⟨(h.f .FAB_LINK_STATUS_STATE l 0 (by decide)).trans (d.linkState_showDown l cause),
    (h.f .FAB_LINK_STATUS_CAUSE l 0 (by decide)).trans (Dev.f_setF_fit _ _ _ _ (by decide) hc), h.cmds, h.mem⟩

theorem linkDown_spec (s : State) (l : Fin 36) (cause : Fin 8) :
    (cause.val = 7 ∨ s.dev.linkState l = 5 → Completes (.linkDown l cause) s (fun e => s.dev.same e)) ∧
    (cause.val ≠ 7 → s.dev.linkState l = 3 → Completes (.linkDown l cause) s (fun e =>
      e.linkState l = 0 ∧ e.f .FAB_LINK_STATUS_CAUSE l = cause ∧ s.dev.bumped e .FAB_LINK_ERR_DOWNS 1 l ∧
      (∀ x ∈ e.fab.slots, x.input ≠ l ∧ ∀ k ∈ x.copies, k.port ≠ l) ∧
      (∃ r : Report, .report r ∈ e.link.held ∧ r.code = .FAB_LINK_DOWN ∧ r.index = cause) ∧
      e.cmds = s.dev.cmds ∧ e.mem = s.dev.mem)) ∧
    (cause.val ≠ 7 → s.dev.linkState l = 1 ∨ s.dev.linkState l = 2 ∨ (s.dev.linkState l = 4 ∧ cause.val ≠ 4) →
      Completes (.linkDown l cause) s (fun e => e.linkState l = 0 ∧ e.f .FAB_LINK_STATUS_CAUSE l = cause ∧
        e.link = s.dev.link ∧ e.cmds = s.dev.cmds ∧ e.mem = s.dev.mem)) ∧
    (cause.val = 4 → s.dev.linkState l = 4 → Completes (.linkDown l cause) s (fun e => e.linkState l = 1 ∧
      e.link = s.dev.link ∧ e.cmds = s.dev.cmds ∧ e.mem = s.dev.mem)) := by
  have hrow : ∀ P : Dev → Prop, cause.val ≠ 7 → P (s.dev.linkGoDown l cause).settle → Completes (.linkDown l cause) s P :=
    fun P hc h => Completes.of_act (g := fun d => if cause.val = 7 then d else d.linkGoDown l cause) rfl (by rwa [if_neg hc])
  have hcount := Dev.countLoss_moves (s.dev.showDown l cause) l cause
  obtain ⟨hlink, hdowns⟩ := (s.dev.showDown l cause).countLoss_frame l cause
  refine ⟨fun h => ?_, fun hc hst => hrow _ hc ?_, fun hc hst => hrow _ hc ?_, fun hc hst => hrow _ (by omega) ?_⟩
  · refine Completes.of_act (g := fun d => if cause.val = 7 then d else d.linkGoDown l cause) rfl ?_
    split
    · exact Dev.same_settle _
    · next h7 =>
      rw [show s.dev.linkGoDown l cause = s.dev from if_pos (h.resolve_left h7)]
      exact Dev.same_settle _
  · rw [Dev.linkGoDown_lost (by omega) (by omega) (by omega), if_pos hst]
    have hshown := (hcount.trans (Dev.loseUp_moves _ l cause)).shown cause.isLt
    have hdown : ((s.dev.showDown l cause).countLoss l cause).linkUp l = false := by
      unfold Dev.linkUp
      rw [show ((s.dev.showDown l cause).countLoss l cause).linkState l = 0 from (hcount.shown cause.isLt).1]
      rfl
    obtain ⟨hav, hb, hreport⟩ := Dev.loseUp_spec cause l.isLt hdown
    generalize ((s.dev.showDown l cause).countLoss l cause).loseUp l cause = e at *
    obtain ⟨h0, hcause, hcmds, hmem⟩ := hshown
    refine ⟨h0, hcause, hb.of_f (hdowns.trans ?_), hav, hreport, hcmds, hmem⟩
    unfold Dev.showDown
    rw [Dev.f_setF_ne_reg _ .FAB_LINK_STATUS_CAUSE .FAB_LINK_ERR_DOWNS _ _ _ _ _ (by decide),
      Dev.f_setF_ne_reg _ .FAB_LINK_STATUS_STATE .FAB_LINK_ERR_DOWNS _ _ _ _ _ (by decide)]
  · rw [Dev.linkGoDown_lost (by omega) (by omega) (by omega), if_neg (by omega)]
    obtain ⟨h0, hcause, hcmds, hmem⟩ := (hcount.trans (.restartLink _ l (by decide))).shown cause.isLt
    exact ⟨h0, hcause, (Dev.restartLink_link _ l).trans hlink, hcmds, hmem⟩
  · rw [show s.dev.linkGoDown l cause = (s.dev.setF .FAB_LINK_STATUS_STATE 1 l).restartLink l from
      (if_neg (by omega)).trans (if_pos ⟨hst, hc⟩)]
    obtain ⟨h1, -, hrest⟩ := s.dev.trains_spec l
    exact ⟨h1, hrest⟩

/-- Settles O54: what training, discovery and the loss of a link do to its state, over every state of the device. -/
theorem linksTrainAndFail : Obligations.LinksTrainAndFail := by
  unfold Obligations.LinksTrainAndFail
  exact fun s => ⟨trainingStart_spec s, fun l lanes t hst => trained_spec s l lanes t hst rfl,
    fun t b rest hdisc hst => discovery_spec s t hdisc hst rfl Iff.rfl, linkDown_spec s⟩

end Sys2Proof.Machine
end

section
/-! PROOFS. The Borer: samples, the enabling of slots and the reads of histograms (R137 to R141; O47). -/

namespace Sys2Proof.Machine

@[simp] theorem Dev.settle_flag (d : Dev) (f : Fld) (i j : Nat) : d.settle.flag f i j = d.flag f i j := rfl

/-! ## Histograms -/

theorem Hist.count_bins (h : Hist) (b a : Nat) :
    SMap.get 0 (h.count (some b)).bins a = if a = b then min (SMap.get 0 h.bins b + 1) (2 ^ 32 - 1) else SMap.get 0 h.bins a := by
  unfold Hist.count
  exact SMap.get_set ..

/-- A histogram that is changed is the slot's and step's still. -/
theorem Dev.hist?_updHist {d : Dev} {s step : Nat} {g : Hist → Hist} (hg : ∀ h, (g h).slot = h.slot ∧ (g h).step = h.step) :
    (d.updHist s step g).hist? s step = (d.hist? s step).map g := by
  refine (find?_mapIf (fun h : Hist => h.slot == s && h.step == step) (fun h : Hist => h.slot == s && h.step == step) g
    d.borer.hists (fun h => by rw [(hg h).1, (hg h).2])).trans ?_
  unfold Dev.hist?
  refine Option.map_congr (fun h hh => if_pos ?_)
  exact List.find?_some (p := fun h : Hist => h.slot == s && h.step == step) hh

theorem Dev.updHist_none {d : Dev} {s step : Nat} {g : Hist → Hist} (h : d.hist? s step = none) :
    (d.updHist s step g).borer.hists = d.borer.hists := by
  unfold Dev.updHist Dev.updBorer mapIf
  dsimp only
  refine (List.map_congr_left (fun x hx => ?_)).trans (List.map_id _)
  have := List.find?_eq_none.mp h x hx
  rw [if_neg this]
  rfl

/-! ## Samples -/

/-- A sample of a sealed step is counted, and reported for the first of the step in progress. -/
theorem Dev.lateSample_spec {d e : Dev} {x : Sample} (hon : d.brOn x.slot x.part = true) (hsealed : d.brSealed x.part x.step = true)
    {step : Nat} (hstep : d.f .RING_STEP_STEP x.part = step) (he : d.takeSample x = e) :
    (d.bumped e .MA_BR_STAT_LATE 1 x.slot ∧ e.flag .PART_DET_EVENTS_BORER_LATE x.part = true ∧
      e.borer.hists = d.borer.hists ∧ e.borer.waiting = d.borer.waiting ∧ e.mem = d.mem ∧ e.cmds = d.cmds) ∧
    (SMap.get 0 d.borer.late x.slot = step + 1 → e.link = d.link) ∧
    (SMap.get 0 d.borer.late x.slot ≠ step + 1 → SMap.get 0 e.borer.late x.slot = step + 1 ∧
      d.posted e .BORER_LATE (fun r => r.part = some x.part)) := by
  let m := (d.addF .MA_BR_STAT_LATE 1 x.slot).setF .PART_DET_EVENTS_BORER_LATE 1 x.part
  have hnow : m.f .RING_STEP_STEP x.part = step := by
    rw [Dev.f_setF_ne_reg _ .PART_DET_EVENTS_BORER_LATE .RING_STEP_STEP _ _ _ _ _ (by decide),
      show (d.addF .MA_BR_STAT_LATE 1 x.slot).f .RING_STEP_STEP x.part = _ from
        Dev.f_setF_ne_reg _ .MA_BR_STAT_LATE .RING_STEP_STEP _ _ _ _ _ (by decide), hstep]
  have hlate : d.bumped m .MA_BR_STAT_LATE 1 x.slot :=
    (Dev.f_setF_ne_reg _ .PART_DET_EVENTS_BORER_LATE .MA_BR_STAT_LATE _ _ _ _ _ (by decide)).trans
      (d.bumped_addF .MA_BR_STAT_LATE 1 x.slot 0 (by decide))
  have hdet : m.f .PART_DET_EVENTS_BORER_LATE x.part = 1 := Dev.f_setF_fit _ _ _ _ (by decide) (by decide)
  have hrow : d.takeSample x = if SMap.get 0 d.borer.late x.slot = step + 1 then m
      else (m.updBorer (fun b => { b with late := SMap.set 0 b.late x.slot (step + 1) })).post .BORER_LATE 0 0
        { job := m.jobOf x.part, part := some x.part } := by
    unfold Dev.takeSample
    rw [hon, hsealed]
    simp only [Bool.not_true, Bool.false_eq_true, if_false, if_true]
    rw [show ((d.addF .MA_BR_STAT_LATE 1 x.slot).setF .PART_DET_EVENTS_BORER_LATE 1 x.part).f .RING_STEP_STEP x.part = step from hnow]
    rfl
  rw [hrow] at he
  by_cases hfirst : SMap.get 0 d.borer.late x.slot = step + 1
  · rw [if_pos hfirst] at he
    subst he
    exact ⟨⟨hlate, Dev.flag_of_one hdet, rfl, rfl, rfl, rfl⟩, fun _ => rfl, fun h => absurd hfirst h⟩
  · rw [if_neg hfirst] at he
    have hcount : m.count = d.count := (Dev.count_setF _ _ _ _ _ (by decide)).trans (Dev.count_setF _ _ _ _ _ (by decide))
    let n := m.updBorer (fun b => { b with late := SMap.set 0 b.late x.slot (step + 1) })
    have hpost := Dev.post_posted_of n .BORER_LATE 0 0 { job := m.jobOf x.part, part := some x.part } 0
      (P := fun r => r.part = some x.part) rfl
    have hmoves := Dev.switchMoves.post n .BORER_LATE 0 0 { job := m.jobOf x.part, part := some x.part } 0
    rw [show n.post .BORER_LATE 0 0 { job := m.jobOf x.part, part := some x.part } = e from he] at hpost hmoves
    have hborer : e.borer = n.borer := (congrArg Dev.borer hmoves.rest :)
    refine ⟨⟨(hmoves.f (f := .MA_BR_STAT_LATE) _ 0 (by decide)).trans hlate, Dev.flag_of_one
      ((hmoves.f (f := .PART_DET_EVENTS_BORER_LATE) _ 0 (by decide)).trans hdet), by rw [hborer]; rfl, by rw [hborer]; rfl,
      (congrArg Dev.mem hmoves.rest :), (congrArg Dev.cmds hmoves.rest :)⟩, fun h => absurd h hfirst, fun _ => ⟨?_, ?_⟩⟩
    · rw [hborer]
      exact (SMap.get_set 0 m.borer.late x.slot x.slot (step + 1)).trans (if_pos rfl)
    · exact Dev.posted_congr (d' := n) rfl hcount rfl hpost

theorem borerSample_spec (s : State) (slot : Fin 64) {x : Sample} (hstalled : s.dev.stalled = false)
    (hfind : s.dev.borer.waiting.find? (fun x => x.slot == slot.val) = some x) {step : Nat}
    (hstep : s.dev.f .RING_STEP_STEP x.part = step) : Completes (.borerSample slot) s (fun e =>
      e.borer.waiting = s.dev.borer.waiting.erase x ∧ e.mem = s.dev.mem ∧ e.cmds = s.dev.cmds ∧
      (s.dev.brOn slot x.part = false → e.regs = s.dev.regs ∧ e.borer.hists = s.dev.borer.hists ∧ e.link = s.dev.link) ∧
      (s.dev.brOn slot x.part = true → s.dev.brSealed x.part x.step = true →
        s.dev.bumped e .MA_BR_STAT_LATE 1 slot ∧ e.flag .PART_DET_EVENTS_BORER_LATE x.part = true ∧
        e.borer.hists = s.dev.borer.hists ∧
        (SMap.get 0 s.dev.borer.late slot = step + 1 → e.link = s.dev.link) ∧
        (SMap.get 0 s.dev.borer.late slot ≠ step + 1 → SMap.get 0 e.borer.late slot = step + 1 ∧
          s.dev.posted e .BORER_LATE (fun r => r.part = some x.part))) ∧
      (s.dev.brOn slot x.part = true → s.dev.brSealed x.part x.step = false → e.regs = s.dev.regs ∧ e.link = s.dev.link ∧
        (s.dev.hist? slot x.step = none → e.borer.hists = s.dev.borer.hists) ∧
        (∀ h, s.dev.hist? slot x.step = some h → ∃ g, e.hist? slot x.step = some g ∧ g.closed = h.closed ∧
          (∀ b, x.expo = some b → SMap.get 0 g.bins b = min (SMap.get 0 h.bins b + 1) (2 ^ 32 - 1) ∧ g.zeros = h.zeros ∧
            ∀ a, a ≠ b → SMap.get 0 g.bins a = SMap.get 0 h.bins a) ∧
          (x.expo = none → g.zeros = min (h.zeros + 1) (2 ^ 32 - 1) ∧ g.bins = h.bins)))) := by
  have hslot : slot.val = x.slot := (by simpa using List.find?_some hfind : x.slot = slot.val).symm
  refine Completes.of_engine (g := fun d => d.nextSample slot) rfl hstalled ?_
  rw [hslot]
  have hrow : s.dev.nextSample x.slot = (s.dev.updBorer (fun b => { b with waiting := b.waiting.erase x })).takeSample x := by
    unfold Dev.nextSample
    rw [← hslot, hfind]
  rw [hrow]
  generalize hd : s.dev.updBorer (fun b => { b with waiting := b.waiting.erase x }) = d
  have hreads : d.brOn x.slot x.part = s.dev.brOn x.slot x.part ∧ d.brSealed x.part x.step = s.dev.brSealed x.part x.step ∧
      d.borer.waiting = s.dev.borer.waiting.erase x ∧ d.hist? x.slot x.step = s.dev.hist? x.slot x.step := by
    subst hd
    exact ⟨rfl, rfl, rfl, rfl⟩
  obtain ⟨hon, hsealed, hwaiting, hhist⟩ := hreads
  rw [← hon, ← hsealed, ← hhist]
  by_cases h1 : d.brOn x.slot x.part = true
  · by_cases h2 : d.brSealed x.part x.step = true
    · obtain ⟨⟨hlate, hflag, hhists, hwait, hmem, hcmds⟩, hold, hnew⟩ := Dev.lateSample_spec (d := d) h1 h2 (step := step)
        (by subst hd; exact hstep) rfl
      generalize d.takeSample x = e at *
      subst hd
      exact ⟨hwait, hmem, hcmds, fun h => absurd h1 (by simp [h]), fun _ _ => ⟨hlate, hflag, hhists, hold, hnew⟩,
        fun _ h => absurd h2 (by simp [h])⟩
    · have htake : d.takeSample x = d.updHist x.slot x.step (fun h => h.count x.expo) := by
        simp [Dev.takeSample, h1, h2]
      rw [htake]
      refine ⟨hwaiting, ?_, ?_, fun h => absurd h1 (by simp [h]), fun _ h => absurd h h2, fun _ _ => ⟨?_, ?_, fun h => ?_, fun h hh => ?_⟩⟩
      · subst hd; rfl
      · subst hd; rfl
      · subst hd; rfl
      · subst hd; rfl
      · refine (Dev.updHist_none (g := fun h => h.count x.expo) h).trans ?_
        subst hd
        rfl
      · refine ⟨h.count x.expo, ?_, ?_, fun b hb => ?_, fun hb => ?_⟩
        · refine (Dev.hist?_updHist (d := d) (s := x.slot) (step := x.step) (g := fun h => h.count x.expo) (fun h => ?_)).trans ?_
          · cases x.expo <;> exact ⟨rfl, rfl⟩
          · rw [hh]
            rfl
        · cases x.expo <;> rfl
        · rw [hb]
          exact ⟨(h.count_bins b b).trans (if_pos rfl), rfl, fun a ha => (h.count_bins b a).trans (if_neg ha)⟩
        · rw [hb]
          exact ⟨rfl, rfl⟩
  · have htake : d.takeSample x = d := by
      simp [Dev.takeSample, h1]
    rw [htake]
    refine ⟨hwaiting, ?_, ?_, fun _ => ⟨?_, ?_, ?_⟩, fun h => absurd h h1, fun h => absurd h h1⟩ <;> subst hd <;> rfl

/-! ## Enabling and disabling -/

/-- A proposal of the fallback with no headroom. -/
theorem Dev.setProp_fallback (m : Dev) (s sc n : Nat) :
    let e := m.setProp s (m.f .MA_BR_CFG_FALLBACK s) 1 sc 0 n
    e.f .MA_BR_PROP_FORMAT s = m.f .MA_BR_CFG_FALLBACK s ∧ e.f .MA_BR_PROP_FALLBACK_USED s = 1 ∧ e.f .MA_BR_PROP_D s = 0 ∧
    m.regsBut e [Reg.code .MA_BR_PROP s 0] := by
  refine ⟨?_, ?_, ?_, ?_⟩
  · exact (Dev.f_setF_apart _ .MA_BR_PROP_STEP .MA_BR_PROP_FORMAT n s 0 rfl (by decide) (by decide)).trans
      ((Dev.f_setF_apart _ .MA_BR_PROP_D .MA_BR_PROP_FORMAT 0 s 0 rfl (by decide) (by decide)).trans
      ((Dev.f_setF_apart _ .MA_BR_PROP_SCALE .MA_BR_PROP_FORMAT sc s 0 rfl (by decide) (by decide)).trans
      ((Dev.f_setF_apart _ .MA_BR_PROP_FALLBACK_USED .MA_BR_PROP_FORMAT 1 s 0 rfl (by decide) (by decide)).trans
      (Dev.f_setF_fit _ _ _ _ (by decide) (m.f_lt .MA_BR_CFG_FALLBACK s 0)))))
  · exact (Dev.f_setF_apart _ .MA_BR_PROP_STEP .MA_BR_PROP_FALLBACK_USED n s 0 rfl (by decide) (by decide)).trans
      ((Dev.f_setF_apart _ .MA_BR_PROP_D .MA_BR_PROP_FALLBACK_USED 0 s 0 rfl (by decide) (by decide)).trans
      ((Dev.f_setF_apart _ .MA_BR_PROP_SCALE .MA_BR_PROP_FALLBACK_USED sc s 0 rfl (by decide) (by decide)).trans
      (Dev.f_setF_fit _ _ _ _ (by decide) (by decide))))
  · exact (Dev.f_setF_apart _ .MA_BR_PROP_STEP .MA_BR_PROP_D n s 0 rfl (by decide) (by decide)).trans
      (Dev.f_setF_fit _ _ _ _ (by decide) (by decide))
  · exact (((((Dev.regsBut.refl m _).setF _ (by simp)).setF _ (by simp)).setF _ (by simp)).setF _ (by simp)).setF _ (by simp)

/-- A slot that is enabled is cleared, begins its histogram and proposes the fallback. -/
theorem Dev.brEnable_eq (d : Dev) {s : Nat} {m : Dev}
    (hm : (d.brBegin s (d.f .RING_STEP_STEP (d.f .MA_BR_CFG_PARTITION s))).fresh.2 = m) :
    ∃ sc, d.brEnable s = m.setProp s (m.f .MA_BR_CFG_FALLBACK s) 1 sc 0 (d.f .RING_STEP_STEP (d.f .MA_BR_CFG_PARTITION s)) := by
  subst hm
  unfold Dev.brEnable Dev.proposeFallback
  exact ⟨_, rfl⟩

/-- A slot that is enabled holds one open histogram, of the step in progress, and no waiting sample; no other slot's is touched. -/
theorem Dev.brEnable_spec {d e : Dev} {s : Nat} (he : d.brEnable s = e) :
    (∀ h, h ∈ e.borer.hists ∧ h.slot = s ↔ h = ⟨s, d.f .RING_STEP_STEP (d.f .MA_BR_CFG_PARTITION s), false, [], 0, false⟩) ∧
    (∀ h, h.slot ≠ s → (h ∈ e.borer.hists ↔ h ∈ d.borer.hists)) ∧ (∀ x ∈ e.borer.waiting, x.slot ≠ s) ∧
    e.f .MA_BR_PROP_FORMAT s = d.f .MA_BR_CFG_FALLBACK s ∧ e.flag .MA_BR_PROP_FALLBACK_USED s = true ∧
    e.f .MA_BR_PROP_D s = 0 ∧ e.mem = d.mem ∧ e.link = d.link ∧ d.regsBut e [Reg.code .MA_BR_PROP s 0] := by
  obtain ⟨m, hm⟩ : ∃ m, (d.brBegin s (d.f .RING_STEP_STEP (d.f .MA_BR_CFG_PARTITION s))).fresh.2 = m := ⟨_, rfl⟩
  obtain ⟨sc, hrow⟩ := d.brEnable_eq hm
  have hmd : m.regs = d.regs ∧ m.mem = d.mem ∧ m.link = d.link ∧ m.borer.waiting = d.borer.waiting.filter (fun x => x.slot != s) ∧
      m.borer.hists = d.borer.hists.filter (fun h => h.slot != s) ++
        [⟨s, d.f .RING_STEP_STEP (d.f .MA_BR_CFG_PARTITION s), false, [], 0, false⟩] := by
    subst hm
    simp [Dev.brBegin, Dev.fresh, Dev.openHist, Dev.brClear, Dev.updBorer]
  clear hm
  obtain ⟨hmregs, hmmem, hmlink, hmwait, hmhists⟩ := hmd
  have hmf : ∀ f i, m.f f i = d.f f i := fun f i => Dev.f_of_regs hmregs f i 0
  obtain ⟨hformat, hused, hd, hregs⟩ := m.setProp_fallback s sc (d.f .RING_STEP_STEP (d.f .MA_BR_CFG_PARTITION s))
  rw [← hrow, he] at hformat hused hd hregs
  obtain ⟨hborer, hmem, hlink⟩ : e.borer = m.borer ∧ e.mem = m.mem ∧ e.link = m.link := by
    rw [← he, hrow]
    simp [Dev.setProp]
  rw [hborer, hmhists, hmwait]
  refine ⟨fun h => ?_, fun h hh => ?_, fun x hx => ?_, hformat.trans (hmf _ s), Dev.flag_of_one hused, hd, hmem.trans hmmem,
    hlink.trans hmlink, ?_⟩
  · constructor
    · rintro ⟨hin, rfl⟩
      rcases List.mem_append.mp hin with hin | hin
      · exact absurd (List.mem_filter.mp hin).2 (by simp)
      · exact List.mem_singleton.mp hin
    · rintro rfl
      exact ⟨List.mem_append_right _ (List.mem_singleton.mpr rfl), rfl⟩
  · rw [List.mem_append, List.mem_singleton, List.mem_filter]
    refine ⟨?_, fun hin => .inl ⟨hin, by simpa using hh⟩⟩
    rintro (⟨hin, -⟩ | rfl)
    · exact hin
    · exact absurd rfl hh
  · simpa using (List.mem_filter.mp hx).2
  · exact fun r i j hn => (hregs r i j hn).trans (Dev.reg_of_regs hmregs r i j)

/-- A slot's settings while it is disabled are written plainly; ENABLE is bit 0. -/
theorem brCfg_on (v : BitVec 64) : Fld.MA_BR_CFG_ENABLE.of (v &&& 0xFFFFFFFF#64) = 1 ↔ v.getLsbD 0 = true := by
  have hbit : (Fld.MA_BR_CFG_ENABLE.of (v &&& 0xFFFFFFFF#64)).testBit 0 = v.getLsbD 0 := by
    rw [Fld.of_bit, BitVec.getLsbD_and]
    simp
  have hlt : Fld.MA_BR_CFG_ENABLE.of (v &&& 0xFFFFFFFF#64) < 2 ^ 1 := Nat.mod_lt _ (by decide)
  rw [← hbit, Nat.testBit_zero, decide_eq_true_iff]
  generalize Fld.MA_BR_CFG_ENABLE.of (v &&& 0xFFFFFFFF#64) = n at hlt ⊢
  omega

theorem Dev.brUnfeed_spec (d : Dev) (s : Nat) :
    ∀ r ∈ (d.brUnfeed s).arr.runs, ∀ c, d.cmd? r.id = some c → c.bslot = s → r.feed = false := by
  intro r hr c hc hs
  obtain ⟨r', -, rfl⟩ := List.mem_map.mp hr
  split at hc
  · next hn => rw [if_pos hn]
  · next hn =>
    refine absurd ?_ hn
    dsimp only
    rw [hc]
    exact beq_iff_eq.mpr hs

theorem maBrCfgEnable_spec (s : State) (slot : Fin 64) (ap : Aperture) (v : BitVec 64)
    (hacc : s.dev.accepts ap .MA_BR_CFG slot = true) {kept : BitVec 64}
    (hkept : Fld.MA_BR_CFG_ENABLE.put (v &&& 0xFFFFFFFF#64 &&& BitVec.ofNat 64 Reg.MA_BR_CFG.spec.rw) 1 = kept) :
    (s.dev.flag .MA_BR_CFG_ENABLE slot = false → v.getLsbD 0 = true →
      Completes (.maBrCfgEnable ap slot v) s (fun e =>
        e.reg .MA_BR_CFG slot = written .MA_BR_CFG (s.dev.reg .MA_BR_CFG slot) (v &&& 0xFFFFFFFF#64) ∧
        (∀ h, h ∈ e.borer.hists ∧ h.slot = slot ↔
          h = ⟨slot, e.f .RING_STEP_STEP (e.f .MA_BR_CFG_PARTITION slot), false, [], 0, false⟩) ∧
        (∀ h, h.slot ≠ slot.val → (h ∈ e.borer.hists ↔ h ∈ s.dev.borer.hists)) ∧ (∀ x ∈ e.borer.waiting, x.slot ≠ slot) ∧
        e.f .MA_BR_PROP_FORMAT slot = e.f .MA_BR_CFG_FALLBACK slot ∧ e.flag .MA_BR_PROP_FALLBACK_USED slot = true ∧
        e.f .MA_BR_PROP_D slot = 0 ∧ e.mem = s.dev.mem ∧ e.link = s.dev.link ∧
        s.dev.regsBut e [Reg.code .MA_BR_CFG slot 0, Reg.code .MA_BR_PROP slot 0])) ∧
    (s.dev.flag .MA_BR_CFG_ENABLE slot = true → kept = s.dev.reg .MA_BR_CFG slot → v.getLsbD 0 = true →
      Completes (.maBrCfgEnable ap slot v) s (fun e => s.dev.same e)) ∧
    (s.dev.flag .MA_BR_CFG_ENABLE slot = true → kept = s.dev.reg .MA_BR_CFG slot → v.getLsbD 0 = false →
      Completes (.maBrCfgEnable ap slot v) s (fun e =>
        e.flag .MA_BR_CFG_ENABLE slot = false ∧ e.borer = s.dev.borer ∧
        (∀ r ∈ e.arr.runs, ∀ c, s.dev.cmd? r.id = some c → c.bslot = slot → r.feed = false) ∧
        s.dev.regsBut e [Reg.code .MA_BR_CFG slot 0] ∧ e.mem = s.dev.mem ∧ e.link = s.dev.link)) ∧
    (s.dev.flag .MA_BR_CFG_ENABLE slot = true → kept ≠ s.dev.reg .MA_BR_CFG slot →
      Completes (.maBrCfgEnable ap slot v) s (fun e =>
        s.dev.posted e .FAULT_PROT (fun r => r.address = Reg.MA_BR_CFG.addrOf slot 0) ∧ s.dev.restTold e ∧
        e.reg .MA_BR_CFG slot = s.dev.reg .MA_BR_CFG slot)) := by
  have hrow : ∀ P : Dev → Prop, P (s.dev.brCfg ap slot v).settle → Completes (.maBrCfgEnable ap slot v) s P :=
    fun P h => Completes.of_accepted (g := fun d => d.brCfg ap slot v) rfl hacc h
  refine ⟨fun hoff hv => hrow _ ?_, fun hon hk hv => hrow _ ?_, fun hon hk hv => hrow _ ?_, fun hon hk => hrow _ ?_⟩
  · have hcfg : s.dev.brCfg ap slot v = (s.dev.plainWrite .MA_BR_CFG (v &&& 0xFFFFFFFF#64) slot).brEnable slot := by
      simp [Dev.brCfg, hoff, (brCfg_on v).mpr hv]
    rw [hcfg, Dev.plainWrite_eq _ _ _ _ (by decide)]
    generalize hm : s.dev.setReg .MA_BR_CFG _ slot 0 = m
    obtain ⟨hown, hother, hwait, hformat, hused, hd, hmem, hlink, hregs⟩ := Dev.brEnable_spec (d := m) (s := slot) rfl
    generalize m.brEnable slot = e at *
    have hcfg' : ∀ f : Fld, f.reg ≠ .MA_BR_PROP → ∀ i, e.f f i = m.f f i := fun f hf i =>
      congrArg f.of (hregs f.reg i 0 (by simpa using Reg.code_ne hf _ _ _ _))
    rw [Dev.settle_f, Dev.settle_f, Dev.settle_f, hcfg' .MA_BR_CFG_PARTITION (by decide), hcfg' .RING_STEP_STEP (by decide),
      Dev.settle_f, hcfg' .MA_BR_CFG_FALLBACK (by decide)]
    have hreg : e.reg .MA_BR_CFG slot = m.reg .MA_BR_CFG slot :=
      hregs .MA_BR_CFG slot 0 (by simpa using Reg.code_ne (r := .MA_BR_CFG) (by decide) _ _ _ _)
    have hm' : s.dev.regsBut m [Reg.code .MA_BR_CFG slot 0, Reg.code .MA_BR_PROP slot 0] := by
      subst hm
      exact (Dev.regsBut.refl s.dev _).setReg _ (by simp)
    rw [Dev.settle_reg, Dev.settle_flag, Dev.settle_f, Dev.settle_borer, Dev.settle_mem, Dev.settle_link]
    refine ⟨hreg.trans ?_, hown, fun h hh => (hother h hh).trans ?_, hwait, hformat, hused, hd, hmem.trans ?_, hlink.trans ?_,
      (hm'.trans (hregs.mono (by simp))).settle⟩
    · subst hm
      exact Dev.reg_setReg_same ..
    all_goals subst hm; rfl
  · have hcfg : s.dev.brCfg ap slot v = s.dev := by
      simp [Dev.brCfg, hon, (brCfg_on v).mpr hv, hkept, hk]
    rw [hcfg]
    exact Dev.same_settle _
  · have hcfg : s.dev.brCfg ap slot v = s.dev.brDisable slot := by
      have hoff : ¬Fld.MA_BR_CFG_ENABLE.of (v &&& 0xFFFFFFFF#64) = 1 := by rw [brCfg_on, hv]; decide
      unfold Dev.brCfg
      simp [hon, hkept, hk, hoff]
    rw [hcfg]
    rw [Dev.settle_flag, Dev.settle_borer, Dev.settle_arr, Dev.settle_mem, Dev.settle_link]
    refine ⟨Dev.flag_of_zero (Dev.f_setF_same s.dev .MA_BR_CFG_ENABLE 0 slot 0 (by decide)), rfl, ?_, ?_, rfl, rfl⟩
    · exact Dev.brUnfeed_spec (s.dev.setF .MA_BR_CFG_ENABLE 0 slot) slot
    · exact ((Dev.regsBut.refl s.dev _).setF _ (by simp)).settle
  · have hcfg : s.dev.brCfg ap slot v = s.dev.refuseReg ap .MA_BR_CFG slot := by
      simp [Dev.brCfg, hon, hkept, hk]
    rw [hcfg]
    exact ⟨((s.dev.refuse_posted ap (Reg.MA_BR_CFG.addrOf slot 0) true).mono fun _ h => h.1).settle,
      Dev.restTold_refuse ap _ (.refl _), rfl⟩

/-! ## Reads of a histogram -/

theorem maBrHdata_spec (s : State) (ap : Aperture) (hans : s.dev.answers ap (Reg.MA_BR_HDATA.addrOf 0 0) = true) :
    Completes (.maBrHdata ap) s (fun e =>
      e.out = s.dev.out ++ [.readData 4 (BitVec.ofNat 64 s.dev.brHdata)] ∧
      e.f .MA_BR_HSEL_BIN = (if s.dev.flag .MA_BR_HSEL_ZEROS = true then s.dev.f .MA_BR_HSEL_BIN
        else (s.dev.f .MA_BR_HSEL_BIN + 1) % 256) ∧
      s.dev.regsBut e [Reg.code .MA_BR_HSEL 0 0] ∧ e.mem = s.dev.mem ∧ e.link = s.dev.link ∧ e.borer = s.dev.borer) := by
  refine Completes.of_act (g := fun d => d.hostRead ap (Reg.MA_BR_HDATA.addrOf 0 0) 4
    (fun d => (d.brHdataNext, BitVec.ofNat 64 d.brHdata))) rfl ?_
  obtain ⟨hup, hbusy, hmay⟩ := Dev.answers_iff.mp hans
  rw [Dev.hostRead_ok _ _ _ _ _ hup hbusy hmay]
  unfold Dev.brHdataNext
  cases hz : s.dev.flag .MA_BR_HSEL_ZEROS
  · simp only [Bool.false_eq_true, if_false]
    exact ⟨rfl, Dev.f_setF_fit s.dev .MA_BR_HSEL_BIN 0 0 (by decide) (Nat.mod_lt _ (by decide)),
      ((Dev.regsBut.refl s.dev _).setF _ (by simp)).congr rfl, rfl, rfl, rfl⟩
  · exact ⟨rfl, rfl, (Dev.regsBut.refl s.dev _).congr rfl, rfl, rfl, rfl⟩

/-- Settles O47: what a sample does to its slot's histogram, what the enabling write leaves, and what a read advances. -/
theorem borerCommandsAct : Obligations.BorerCommandsAct := by
  unfold Obligations.BorerCommandsAct
  exact fun s slot => ⟨fun x hstalled hfind => borerSample_spec s slot hstalled hfind rfl,
    fun ap v hacc => maBrCfgEnable_spec s slot ap v hacc rfl, fun ap hans => maBrHdata_spec s ap hans⟩

end Sys2Proof.Machine
end

section
/-! PROOFS. The owner of a window serves or refuses the requests it is sent (R275, R276, R277; O57). -/

namespace Sys2Proof.Machine

/-! ## A billet that its engine takes -/

theorem Dev.leave_still (d : Dev) (s : Slot) (port : Nat) : (d.leave s port).fab.still = d.fab.still := by
  unfold Dev.leave
  dsimp only
  split
  · exact (Dev.slotsThin.freeSlot d s).still
  · rfl

/-- A billet that is taken has left its port; the rest of the Switch Core but for the slots is as it was. -/
theorem Dev.taken_still (d : Dev) (a : Arrival) : (d.taken a).fab.still = { d.fab with inbox := d.fab.inbox.erase a }.still := by
  unfold Dev.taken Dev.consume
  split
  · exact Dev.leave_still ..
  · rfl

theorem Dev.taken_inbox (d : Dev) (a : Arrival) : (d.taken a).fab.inbox = d.fab.inbox.erase a :=
  (FabSt.still_spec (d.taken_still a)).1

/-! ## What serving a request reaches -/

theorem Dev.memReport_none_cmds (d : Dev) (e : MemErr) : (d.memReport none e).cmds = d.cmds := by
  have hrate : ∀ (m : Dev) kind item n, (m.rateEvent kind item n).cmds = m.cmds := by
    intro m kind item n
    unfold Dev.rateEvent
    dsimp only
    split
    · exact Dev.post_cmds ..
    · rfl
  cases e with
  | range a => simp [Dev.memReport]
  | retired => rfl
  | badLine a =>
    rw [Dev.memReport]
    unfold Dev.hbmUe
    dsimp only
    rw [Dev.post_cmds, Dev.setReg_cmds, hrate]
    rfl
  | badWord arr off =>
    rw [Dev.memReport]
    unfold Dev.slabUe
    dsimp only
    rw [Dev.post_cmds, Dev.setReg_cmds]
    rfl
  | xlat p va k w =>
    obtain ⟨tag, who, he⟩ := d.xuFault_eq none p va k w
    have hlatch : ∀ (m : Dev) v, (m.latchXu p v tag).cmds = m.cmds := by
      intro m v
      unfold Dev.latchXu
      split <;> simp
    simp only [Dev.memReport, he, Dev.tell, Option.elim_none, Dev.post_cmds, hlatch, Dev.addF, Dev.setF_cmds]

/-- The Switch Core, the commands and the counters of the owner of a window are as they were. -/
structure Dev.unserved (d e : Dev) : Prop where
  fab : e.fab = d.fab
  cmds : e.cmds = d.cmds
  served : ∀ f : Fld, f.reg = .WIN_SERVED ∨ f.reg = .WIN_REFUSED → e.f f = d.f f

namespace Dev.unserved

variable {d m e : Dev}

theorem refl (d : Dev) : d.unserved d := ⟨rfl, rfl, fun _ _ => rfl⟩

theorem trans (h : d.unserved m) (h' : m.unserved e) : d.unserved e :=
  ⟨h'.fab.trans h.fab, h'.cmds.trans h.cmds, fun f hf => (h'.served f hf).trans (h.served f hf)⟩

theorem of_beside (h : e.beside = d.beside) : d.unserved e where
  fab := (congrArg Dev.fab (Dev.beside_rest h) :)
  cmds := (congrArg Dev.cmds (Dev.beside_rest h) :)
  served f hf := Dev.beside_f h (by rcases hf with hf | hf <;> rw [hf] <;> decide) 0 0

theorem of_unread (h : e.unread = d.unread) : d.unserved e := of_beside (Dev.beside_of_unread h)

theorem memReport (d : Dev) (e : MemErr) : d.unserved (d.memReport none e) where
  fab := (congrArg Dev.fab (Dev.failMoves.memReport d none e).rest :)
  cmds := d.memReport_none_cmds e
  served f hf := (Dev.failMoves.memReport d none e).f f 0 0 (by rcases hf with hf | hf <;> rw [hf] <;> decide)

/-- The owner's counter that is advanced after nothing else has reached it. -/
theorem bumped (h : d.unserved m) (f : Fld) (hf : f.reg = .WIN_SERVED ∨ f.reg = .WIN_REFUSED) (hw : f.lo + f.width ≤ 64) :
    d.bumped (m.addF f 1) f 1 :=
  (m.bumped_addF f 1 0 0 hw).of_f (h.served f hf)

end Dev.unserved

theorem Dev.winEntry_unserved (d : Dev) (w : Nat) : d.unserved (d.winEntry w).1 ∧ (d.winEntry w).1.mem = d.mem := by
  unfold Dev.winEntry
  split
  · exact ⟨.refl d, rfl⟩
  · split
    · exact ⟨.refl d, rfl⟩
    · exact ⟨⟨rfl, rfl, fun _ _ => rfl⟩, rfl⟩

/-- The end of a request that an access fails: its status, and the counter of its check. -/
theorem Dev.winMemFail_spec {d m : Dev} (h : d.unserved m) (e : MemErr) {r : Dev × Status} (hr : m.winMemFail e = r) :
    r.1.fab = d.fab ∧ r.1.cmds = d.cmds ∧ r.1.mem = m.mem ∧ r.2 ≠ .faultProt ∧
    (r.2 = .faultXlat → d.bumped r.1 .WIN_REFUSED_XLAT 1) := by
  subst hr
  have hq := h.trans (.memReport m e)
  have hmem : (m.memReport none e).mem = m.mem := m.memReport_mem none e
  unfold Dev.winMemFail
  dsimp only
  generalize m.memReport none e = n at hq hmem ⊢
  cases e with
  | xlat p va k w => exact ⟨hq.fab, hq.cmds, hmem, by simp [MemErr.status], fun _ => hq.bumped .WIN_REFUSED_XLAT (.inr rfl) (by decide)⟩
  | _ => exact ⟨hq.fab, hq.cmds, hmem, by simp [MemErr.status], by simp [MemErr.status]⟩

theorem Dev.winRefuse_spec {d m : Dev} (h : d.unserved m) (slot window : Nat) (who : Who) {r : Dev × Status}
    (hr : m.winRefuse slot window who = r) :
    r.1.fab = d.fab ∧ r.1.cmds = d.cmds ∧ r.1.mem = m.mem ∧ r.2 = .faultProt ∧ d.bumped r.1 .WIN_REFUSED_PROT 1 := by
  subst hr
  unfold Dev.winRefuse
  have hb := h.bumped .WIN_REFUSED_PROT (.inr rfl) (by decide)
  have hfab : (m.addF .WIN_REFUSED_PROT 1).fab = d.fab := h.fab
  have hcmds : (m.addF .WIN_REFUSED_PROT 1).cmds = d.cmds := h.cmds
  have hmem : (m.addF .WIN_REFUSED_PROT 1).mem = m.mem := rfl
  generalize m.addF .WIN_REFUSED_PROT 1 = n at *
  have hpost := Dev.switchMoves.postFirst n .WIN_REFUSED 0 window slot who
  refine ⟨(Dev.post_fab_eq n .WIN_REFUSED 0 window slot who).trans hfab, (congrArg Dev.cmds hpost.rest :).trans hcmds,
    (congrArg Dev.mem hpost.rest :).trans hmem, rfl, ?_⟩
  unfold Dev.bumped at hb ⊢
  rw [← hb]
  exact hpost.f (f := .WIN_REFUSED_PROT) 0 0 (by decide)

/-- A request is served, counted by its kind, or refused under its check; a LOAD changes no byte, nor does a request that the
window's rights refuse. -/
structure Dev.serves (d : Dev) (p : Nat) (load : Bool) (r : Dev × Except Status (List Byte)) : Prop where
  fab : r.1.fab = d.fab
  cmds : r.1.cmds = d.cmds
  bytes : load = true → r.1.mem.hbm = d.mem.hbm ∧ r.1.mem.slab = d.mem.slab
  loaded : ∀ bs, r.2 = .ok bs → load = true → d.bumped r.1 .WIN_SERVED_LOADS 1
  stored : ∀ bs, r.2 = .ok bs → load = false → d.bumped r.1 .WIN_SERVED_STORES 1 ∧ r.1.flag .PART_DET_EVENTS_WIN_STORE p = true
  prot : r.2 = .error .faultProt → d.bumped r.1 .WIN_REFUSED_PROT 1 ∧ r.1.mem.hbm = d.mem.hbm
  xlat : r.2 = .error .faultXlat → d.bumped r.1 .WIN_REFUSED_XLAT 1

theorem Dev.serves.memFail {d m : Dev} {p : Nat} {load : Bool} (h : d.unserved m)
    (hbytes : load = true → m.mem.hbm = d.mem.hbm ∧ m.mem.slab = d.mem.slab) (e : MemErr) :
    d.serves p load ((m.winMemFail e).1, .error (m.winMemFail e).2) := by
  obtain ⟨hfab, hcmds, hmem, hprot, hxlat⟩ := Dev.winMemFail_spec h e rfl
  generalize m.winMemFail e = x at *
  exact ⟨hfab, hcmds, fun hl => by rw [hmem]; exact hbytes hl, (fun _ hok => nomatch hok), (fun _ hok => nomatch hok),
    fun hst => absurd (Except.error.inj hst) hprot, fun hst => hxlat (Except.error.inj hst)⟩

theorem Dev.serves.refuse {d m : Dev} {p : Nat} {load : Bool} (h : d.unserved m) (hmem : m.mem = d.mem) (slot window : Nat) (who : Who) :
    d.serves p load ((m.winRefuse slot window who).1, .error (m.winRefuse slot window who).2) := by
  obtain ⟨hfab, hcmds, hmem', hst, hb⟩ := Dev.winRefuse_spec h slot window who rfl
  generalize m.winRefuse slot window who = x at *
  refine ⟨hfab, hcmds, fun _ => ⟨by rw [hmem', hmem], by rw [hmem', hmem]⟩, (fun _ hok => nomatch hok), (fun _ hok => nomatch hok),
    fun _ => ⟨hb, by rw [hmem', hmem]⟩, fun hx => ?_⟩
  exact absurd ((Except.error.inj hx).symm.trans hst) (by decide)

theorem Dev.serves.load {d m : Dev} {p : Nat} (h : d.unserved m) (hbytes : m.mem.hbm = d.mem.hbm ∧ m.mem.slab = d.mem.slab)
    (bs : List Byte) : d.serves p true (m.addF .WIN_SERVED_LOADS 1, .ok bs) :=
  ⟨h.fab, h.cmds, fun _ => hbytes, fun _ _ _ => h.bumped .WIN_SERVED_LOADS (.inl rfl) (by decide), (fun _ _ hl => nomatch hl),
    (fun hst => nomatch hst), (fun hst => nomatch hst)⟩

theorem Dev.serves.store {d m : Dev} (p : Nat) (h : d.unserved m) :
    d.serves p false ((m.addF .WIN_SERVED_STORES 1).setF .PART_DET_EVENTS_WIN_STORE 1 p, .ok []) := by
  refine ⟨h.fab, h.cmds, (fun hl => nomatch hl), (fun _ _ hl => nomatch hl), fun _ _ _ => ⟨?_, ?_⟩, (fun hst => nomatch hst),
    (fun hst => nomatch hst)⟩
  · exact (Dev.f_setF_ne_reg _ .PART_DET_EVENTS_WIN_STORE .WIN_SERVED_STORES _ _ _ _ _ (by decide)).trans
      (h.bumped .WIN_SERVED_STORES (.inl rfl) (by decide))
  · exact Dev.flag_of_one (Dev.f_setF_fit _ _ _ _ (by decide) (by decide))

theorem Dev.winServe_serves (d : Dev) (p job slot window offset : Nat) (store : Option (List Byte)) :
    d.serves p store.isNone (d.winServe p job slot window offset store) := by
  obtain ⟨hq, hm⟩ := d.winEntry_unserved window
  unfold Dev.winServe
  generalize d.winEntry window = x at hq hm ⊢
  obtain ⟨m, res⟩ := x
  dsimp only at hq hm
  cases res with
  | error e => exact .memFail hq (fun _ => ⟨by rw [hm], by rw [hm]⟩) e
  | ok e =>
    cases store with
    | none =>
      simp only [Option.isSome_none, Bool.false_eq_true, if_false]
      split
      · exact .refuse hq hm ..
      have hread := m.vaRead_unread p ((field e 8 0 48 + offset) % 2 ^ 48) 64
      generalize m.vaRead p ((field e 8 0 48 + offset) % 2 ^ 48) 64 = y at hread ⊢
      obtain ⟨n, out⟩ := y
      dsimp only at hread
      have hqn := hq.trans (.of_unread hread)
      have hbytes : n.mem.hbm = d.mem.hbm ∧ n.mem.slab = d.mem.slab := by
        rw [← hm]
        exact ⟨(congrArg (fun x : Dev => x.mem.hbm) (Dev.unread_rest hread) :), (congrArg (fun x : Dev => x.mem.slab) (Dev.unread_rest hread) :)⟩
      cases out with
      | error x => exact .memFail hqn (fun _ => hbytes) x
      | ok bs => exact .load hqn hbytes bs
    | some bs =>
      simp only [Option.isSome_some, if_true]
      split
      · exact .refuse hq hm ..
      have hwrite := m.vaWrite_beside p ((field e 8 0 48 + offset) % 2 ^ 48) bs
      generalize m.vaWrite p ((field e 8 0 48 + offset) % 2 ^ 48) bs = y at hwrite ⊢
      obtain ⟨n, out⟩ := y
      dsimp only at hwrite
      have hqn := hq.trans (.of_beside hwrite)
      cases out with
      | error x => exact .memFail hqn (by rintro ⟨⟩) x
      | ok _ => exact .store p hqn

/-! ## The row -/

/-- The reply that the owner sends takes a slot, and reaches nothing else. -/
theorem Dev.winReply_spec (d : Dev) (reply : Billet) {e : Dev} (he : (d.inject 41 none [reply]).pump = e) :
    e.fab.inbox = d.fab.inbox ∧ e.mem = d.mem ∧ e.cmds = d.cmds ∧
    ∀ f : Fld, f.reg = .WIN_SERVED ∨ f.reg = .WIN_REFUSED ∨ f.reg = .PART_DET_EVENTS → ∀ i, e.f f i = d.f f i := by
  subst he
  have hmoves := (Dev.slotsMove.updFab d (fun f => { f with inject := f.inject ++ [reply].map (fun b => ⟨Fin.ofNat 8 (41 - 36), b, none, none⟩) })).switchMoves.trans
    (.pump _)
  refine ⟨(FabSt.still_spec (Dev.pump_still _)).1, (congrArg Dev.mem hmoves.rest :), (congrArg Dev.cmds hmoves.rest :), fun f hf i => ?_⟩
  exact hmoves.f (f := f) i 0 (by rcases hf with hf | hf | hf <;> rw [hf] <;> decide)

theorem Dev.taken_partOf (d : Dev) (a : Arrival) (job : Nat) : (d.taken a).partOf job = d.partOf job :=
  (Dev.slotsMove.taken d a).partOf job

/-- The row once its request, and a STORE's second billet, have been taken. -/
def Dev.winAnswers (d : Dev) (b : Billet) (store : Option (List Byte)) : Dev :=
  let kind := bits (bTag b) 22 2
  match d.partOf (bJob b) with
  | none => d
  | some p =>
    if 1 < kind then d
    else
      let (d, res) := d.winServe p (bJob b) (coord (bSrc b) .x) (bPay b 0 0 8) (bPay b 8 0 64) store
      let h : Hdr := { tc := 3, job := bJob b, tag := 3 * 2 ^ 22 + bTag b % 2 ^ 22, dest := bSrc b, src := d.node }
      let reply := match res, store with
        | .ok bs, none => mkBillet { h with tag := 2 * 2 ^ 22 + bTag b % 2 ^ 22 } bs
        | .ok _, some _ => mkBillet h [0]
        | .error st, _ => mkBillet h (leBytes 1 st.num)
      (d.inject 41 none [reply]).pump

theorem Dev.winAnswers_none {d : Dev} {b : Billet} {store : Option (List Byte)} (h : d.partOf (bJob b) = none ∨ 1 < bits (bTag b) 22 2) :
    d.winAnswers b store = d := by
  unfold Dev.winAnswers
  dsimp only
  split
  · rfl
  · next p hp => rw [if_pos (h.resolve_left (by rw [hp]; simp))]

theorem Dev.winAnswers_some {d : Dev} {b : Billet} {store : Option (List Byte)} {p : Nat} (hp : d.partOf (bJob b) = some p)
    (hk : ¬1 < bits (bTag b) 22 2) : ∃ reply, d.winAnswers b store =
      ((d.winServe p (bJob b) (coord (bSrc b) .x) (bPay b 0 0 8) (bPay b 8 0 64) store).1.inject 41 none [reply]).pump := by
  unfold Dev.winAnswers
  dsimp only
  rw [hp]
  dsimp only
  rw [if_neg hk]
  exact ⟨_, rfl⟩

@[simp] theorem Dev.winEntry_kept (d : Dev) (w : Nat) : (d.winEntry w).1.kept = d.kept := by
  unfold Dev.winEntry
  split
  · rfl
  · split <;> rfl

@[simp] theorem Dev.winMemFail_kept (d : Dev) (e : MemErr) : (d.winMemFail e).1.kept = d.kept := by
  unfold Dev.winMemFail
  dsimp only
  split
  · rw [Dev.addF_kept _ _ _ _ _ (by decide), Dev.memReport_kept]
  · rw [Dev.addF_kept _ _ _ _ _ (by decide), Dev.memReport_kept]

@[simp] theorem Dev.winRefuse_kept (d : Dev) (slot window : Nat) (who : Who) : (d.winRefuse slot window who).1.kept = d.kept :=
  (Dev.postFirst_kept ..).trans (Dev.addF_kept _ _ _ _ _ (by decide))

/-- Serving a request ends no command. -/
@[simp] theorem Dev.winServe_kept (d : Dev) (p job slot window offset : Nat) (store : Option (List Byte)) :
    (d.winServe p job slot window offset store).1.kept = d.kept := by
  have hentry := d.winEntry_kept window
  unfold Dev.winServe
  generalize d.winEntry window = x at hentry ⊢
  obtain ⟨m, res⟩ := x
  cases res with
  | error e => exact (m.winMemFail_kept e).trans hentry
  | ok e =>
    dsimp only
    cases store with
    | none =>
      simp only [Option.isSome_none, Bool.false_eq_true, if_false]
      split
      · exact (Dev.winRefuse_kept ..).trans hentry
      have hread := m.vaRead_kept p ((field e 8 0 48 + offset) % 2 ^ 48) 64
      generalize m.vaRead p ((field e 8 0 48 + offset) % 2 ^ 48) 64 = y at hread ⊢
      obtain ⟨n, out⟩ := y
      cases out with
      | error x => exact (n.winMemFail_kept x).trans (hread.trans hentry)
      | ok bs => exact (Dev.addF_kept _ _ _ _ _ (by decide)).trans (hread.trans hentry)
    | some bs =>
      simp only [Option.isSome_some, if_true]
      split
      · exact (Dev.winRefuse_kept ..).trans hentry
      have hwrite := m.vaWrite_kept p ((field e 8 0 48 + offset) % 2 ^ 48) bs
      generalize m.vaWrite p ((field e 8 0 48 + offset) % 2 ^ 48) bs = y at hwrite ⊢
      obtain ⟨n, out⟩ := y
      cases out with
      | error x => exact (n.winMemFail_kept x).trans (hwrite.trans hentry)
      | ok _ => exact (Dev.setF_kept _ _ _ _ _ (by decide)).trans ((Dev.addF_kept _ _ _ _ _ (by decide)).trans (hwrite.trans hentry))

theorem Dev.winAnswers_kept (d : Dev) (b : Billet) (store : Option (List Byte)) : (d.winAnswers b store).kept = d.kept := by
  unfold Dev.winAnswers
  dsimp only
  split
  · rfl
  split
  · rfl
  · rw [Dev.pump_kept, Dev.inject_kept, Dev.winServe_kept]

theorem Dev.taken_kept (d : Dev) (a : Arrival) : (d.taken a).kept = d.kept := (Dev.consume_kept _ a).trans rfl

/-- A request that is served, or refused: what the owner's row leaves. -/
theorem Dev.winAnswers_spec {d : Dev} {b : Billet} {store : Option (List Byte)} {p : Nat} (hp : d.partOf (bJob b) = some p)
    (hk : ¬1 < bits (bTag b) 22 2) {e : Dev} (he : d.winAnswers b store = e) {r : Dev × Except Status (List Byte)}
    (hr : d.winServe p (bJob b) (coord (bSrc b) .x) (bPay b 0 0 8) (bPay b 8 0 64) store = r) :
    e.fab.inbox = d.fab.inbox ∧ e.cmds = d.cmds ∧ e.mem = r.1.mem ∧
    (store = none → e.mem.hbm = d.mem.hbm ∧ e.mem.slab = d.mem.slab) ∧
    (∀ bs, r.2 = .ok bs → store = none → d.bumped e .WIN_SERVED_LOADS 1) ∧
    (∀ bs, r.2 = .ok bs → store ≠ none → d.bumped e .WIN_SERVED_STORES 1 ∧ e.flag .PART_DET_EVENTS_WIN_STORE p = true) ∧
    (r.2 = .error .faultProt → d.bumped e .WIN_REFUSED_PROT 1 ∧ e.mem.hbm = d.mem.hbm) ∧
    (r.2 = .error .faultXlat → d.bumped e .WIN_REFUSED_XLAT 1) := by
  have hs := d.winServe_serves p (bJob b) (coord (bSrc b) .x) (bPay b 0 0 8) (bPay b 8 0 64) store
  obtain ⟨reply, hrow⟩ := Dev.winAnswers_some (store := store) hp hk
  rw [hr] at hs hrow
  obtain ⟨hin, hmem, hcmds, hf⟩ := r.1.winReply_spec reply (hrow.symm.trans he)
  have hb : ∀ f : Fld, f.reg = .WIN_SERVED ∨ f.reg = .WIN_REFUSED → d.bumped r.1 f 1 → d.bumped e f 1 := fun f hreg h => by
    unfold Dev.bumped at h ⊢
    rw [hf f (by tauto) 0, h]
  refine ⟨by rw [hin, hs.fab], hcmds.trans hs.cmds, hmem, fun hst => ?_, fun bs hok hst => ?_, fun bs hok hst => ?_, fun hx => ?_,
    fun hx => hb _ (.inr rfl) (hs.xlat hx)⟩
  · rw [hmem]
    exact hs.bytes (by rw [hst]; rfl)
  · exact hb _ (.inl rfl) (hs.loaded bs hok (by rw [hst]; rfl))
  · obtain ⟨hstored, hflag⟩ := hs.stored bs hok (by cases store with | none => exact absurd rfl hst | some _ => rfl)
    refine ⟨hb _ (.inl rfl) hstored, ?_⟩
    unfold Dev.flag at hflag ⊢
    rwa [hf .PART_DET_EVENTS_WIN_STORE (by simp) p]
  · obtain ⟨hprot, hhbm⟩ := hs.prot hx
    exact ⟨hb _ (.inr rfl) hprot, by rw [hmem, hhbm]⟩

theorem Dev.winRequest_eq {d : Dev} {a : Arrival} (h : d.fab.inbox.find? d.winWhole = some a) :
    (bits (bTag a.b) 22 2 ≠ 1 → d.winRequest = (d.taken a).winAnswers a.b none) ∧
    (∀ m, bits (bTag a.b) 22 2 = 1 → (d.fab.inbox.erase a).find? (winMate a.b) = some m →
      d.winRequest = ((d.taken a).taken m).winAnswers a.b (some (bPayload m.b))) := by
  have htake : d.takeInbox d.winWhole = some (a, d.taken a) := d.takeInbox_of_find h
  refine ⟨fun hk => ?_, fun m hk hm => ?_⟩
  · unfold Dev.winRequest
    rw [htake]
    dsimp only
    rw [if_neg hk]
    rfl
  · have hmate : (d.taken a).takeInbox (winMate a.b) = some (m, (d.taken a).taken m) :=
      Dev.takeInbox_of_find (by rw [Dev.taken_inbox]; exact hm)
    unfold Dev.winRequest
    rw [htake]
    dsimp only
    rw [if_pos hk, hmate]
    rfl

/-- Taking a request's billet moves a slot and nothing else. -/
theorem Dev.taken_frame (d : Dev) (a : Arrival) : (d.taken a).mem = d.mem ∧ (d.taken a).cmds = d.cmds ∧
    ∀ f : Fld, f.reg = .WIN_SERVED ∨ f.reg = .WIN_REFUSED → (d.taken a).f f = d.f f := by
  have hmoves := Dev.slotsMove.taken d a
  refine ⟨(congrArg Dev.mem hmoves.rest :), (congrArg Dev.cmds hmoves.rest :), fun f hf => ?_⟩
  exact hmoves.f 0 0 (by rcases hf with hf | hf <;> rw [hf] <;> decide)

/-- A LOAD, or a message whose KIND is no request's, at the owner. -/
theorem windowLoad {d e : Dev} {a : Arrival} (he : (d.taken a).winAnswers a.b none = e) :
    e.fab.inbox = d.fab.inbox.erase a ∧ e.mem.hbm = d.mem.hbm ∧ e.mem.slab = d.mem.slab ∧ e.cmds = d.cmds ∧
    (∀ p, bits (bTag a.b) 22 2 = 0 → d.partOf (bJob a.b) = some p →
      let res := ((d.taken a).winServe p (bJob a.b) (coord (bSrc a.b) .x) (bPay a.b 0 0 8) (bPay a.b 8 0 64) none).2
      (∀ bs, res = .ok bs → d.bumped e .WIN_SERVED_LOADS 1) ∧ (res = .error .faultProt → d.bumped e .WIN_REFUSED_PROT 1) ∧
      (res = .error .faultXlat → d.bumped e .WIN_REFUSED_XLAT 1)) ∧
    (d.partOf (bJob a.b) = none ∨ 1 < bits (bTag a.b) 22 2 → e.regs = (d.taken a).regs ∧ e.fab = (d.taken a).fab) := by
  obtain ⟨hmem, hcmds, hf⟩ := d.taken_frame a
  by_cases hnone : d.partOf (bJob a.b) = none ∨ 1 < bits (bTag a.b) 22 2
  · rw [Dev.winAnswers_none (by rwa [d.taken_partOf])] at he
    subst he
    refine ⟨d.taken_inbox a, by rw [hmem], by rw [hmem], hcmds, fun p h0 hp => ?_, fun _ => ⟨rfl, rfl⟩⟩
    rcases hnone with hnone | hnone
    · exact absurd (hnone.symm.trans hp) (by simp)
    · omega
  · obtain ⟨hsome, hlow⟩ := not_or.mp hnone
    obtain ⟨q, hq⟩ := Option.ne_none_iff_exists'.mp hsome
    obtain ⟨hin, hc, -, hbytes, hloads, -, hprot, hxlat⟩ := Dev.winAnswers_spec (by rw [d.taken_partOf, hq]) hlow he rfl
    obtain ⟨hhbm, hslab⟩ := hbytes rfl
    have hb : ∀ f : Fld, f.reg = .WIN_SERVED ∨ f.reg = .WIN_REFUSED → (d.taken a).bumped e f 1 → d.bumped e f 1 :=
      fun f hr h => h.of_f (hf f hr)
    refine ⟨hin.trans (d.taken_inbox a), hhbm.trans (by rw [hmem]), hslab.trans (by rw [hmem]), hc.trans hcmds,
      fun p h0 hp => ?_, fun h => absurd h hnone⟩
    obtain rfl : q = p := Option.some.inj (hq.symm.trans hp)
    exact ⟨fun bs hok => hb _ (.inl rfl) (hloads bs hok rfl), fun hx => hb _ (.inr rfl) (hprot hx).1,
      fun hx => hb _ (.inr rfl) (hxlat hx)⟩

/-- A STORE at the owner. -/
theorem windowStore {d e : Dev} {a m : Arrival} (hk : bits (bTag a.b) 22 2 = 1)
    (he : ((d.taken a).taken m).winAnswers a.b (some (bPayload m.b)) = e) :
    e.fab.inbox = (d.fab.inbox.erase a).erase m ∧
    (d.partOf (bJob a.b) = none → e.regs = ((d.taken a).taken m).regs ∧ e.mem = d.mem) ∧
    (∀ p, d.partOf (bJob a.b) = some p →
      let r := ((d.taken a).taken m).winServe p (bJob a.b) (coord (bSrc a.b) .x) (bPay a.b 0 0 8) (bPay a.b 8 0 64)
        (some (bPayload m.b))
      (∀ bs, r.2 = .ok bs → d.bumped e .WIN_SERVED_STORES 1 ∧ e.flag .PART_DET_EVENTS_WIN_STORE p = true) ∧
      (r.2 = .error .faultProt → d.bumped e .WIN_REFUSED_PROT 1 ∧ e.mem.hbm = d.mem.hbm) ∧
      e.mem.hbm = r.1.mem.hbm) := by
  obtain ⟨hmem, -, hf⟩ := d.taken_frame a
  obtain ⟨hmem', -, hf'⟩ := (d.taken a).taken_frame m
  have hpart : ((d.taken a).taken m).partOf (bJob a.b) = d.partOf (bJob a.b) := (Dev.taken_partOf ..).trans (d.taken_partOf a _)
  have hinbox : ((d.taken a).taken m).fab.inbox = (d.fab.inbox.erase a).erase m := by rw [Dev.taken_inbox, Dev.taken_inbox]
  cases hp : d.partOf (bJob a.b) with
  | none =>
    rw [Dev.winAnswers_none (.inl (hpart.trans hp))] at he
    subst he
    exact ⟨hinbox, fun _ => ⟨rfl, hmem'.trans hmem⟩, fun p h => nomatch h⟩
  | some q =>
    obtain ⟨hin, -, hm, -, -, hstores, hprot, -⟩ := Dev.winAnswers_spec (hpart.trans hp) (by omega) he rfl
    have hb : ∀ f : Fld, f.reg = .WIN_SERVED ∨ f.reg = .WIN_REFUSED → ((d.taken a).taken m).bumped e f 1 → d.bumped e f 1 :=
      fun f hr h => h.of_f ((hf' f hr).trans (hf f hr))
    refine ⟨hin.trans hinbox, (fun h => nomatch h), fun p h => ?_⟩
    obtain rfl : q = p := Option.some.inj h
    refine ⟨fun bs hok => ?_, fun hx => ?_, by rw [hm]⟩
    · obtain ⟨hstored, hflag⟩ := hstores bs hok (by simp)
      exact ⟨hb _ (.inl rfl) hstored, hflag⟩
    · obtain ⟨hrefused, hhbm⟩ := hprot hx
      exact ⟨hb _ (.inr rfl) hrefused, by rw [hhbm, hmem', hmem]⟩

/-- Settles O57: a request is served by its job's partition, or refused under the check that fails. -/
theorem windowOwner : Obligations.WindowOwner := by
  unfold Obligations.WindowOwner
  intro s a hstalled hfind
  obtain ⟨hload, hstore⟩ := Dev.winRequest_eq hfind
  dsimp only
  refine ⟨fun hk => Completes.of_engine (g := Dev.winRequest) rfl hstalled ?_,
    fun m hk hm => Completes.of_engine (g := Dev.winRequest) rfl hstalled ?_⟩
  · rw [hload hk, Dev.settle_fab, Dev.settle_mem, Dev.settle_cmds, Dev.settle_regs]
    have hends := Dev.noneEnds_of_kept ((Dev.settle_kept _).trans (((s.dev.taken a).winAnswers_kept a.b none).trans (s.dev.taken_kept a)))
    obtain ⟨hin, hhbm, hslab, hrest⟩ := windowLoad (d := s.dev) (a := a) rfl
    exact ⟨hin, hhbm, hslab, hends, hrest⟩
  · rw [hstore m hk hm, Dev.settle_fab, Dev.settle_mem, Dev.settle_regs]
    have hends := Dev.noneEnds_of_kept ((Dev.settle_kept _).trans ((((s.dev.taken a).taken m).winAnswers_kept a.b (some (bPayload m.b))).trans
      ((Dev.taken_kept _ m).trans (s.dev.taken_kept a))))
    obtain ⟨hin, hrest⟩ := windowStore (d := s.dev) (m := m) hk rfl
    exact ⟨hin, hends, hrest⟩

end Sys2Proof.Machine
end

section
/-! PROOFS. Model swap: the list's checks, weight billets and verification (R237 to R239; O50). -/

namespace Sys2Proof.Machine

/-! ## Frames of a command's work -/

/-- What an operation and a failure leave, work leaves. -/
theorem Dev.work_frame {κ : Type} {π : Dev → κ} {d : Dev} {id j : Nat} {m : Op Unit} (hm : Op.keeps π m)
    (hf : ∀ (e : Dev) x, π (e.failWith id j x) = π e) : π (d.work id j m) = π d := by
  unfold Dev.work
  split
  · next e h => exact hm.run h
  · next x e h => exact (hf e x).trans (hm.run h)

/-- From a device of which P holds, an operation that fails leaves one of which Q holds. -/
structure Op.throws {α : Type} (P : Dev → Prop) (m : Op α) (Q : Dev → Prop) : Prop where
  holds {d e : Dev} {x : Fail} : P d → m.run.run d = (.error x, e) → Q e

namespace Op.throws

variable {α β κ : Type} {P Q : Dev → Prop} {R : α → Dev → Prop} {π : Dev → κ}

theorem bind {m : Op α} {f : α → Op β} (hm : Op.throws P m Q) (hl : Op.leads P m R) (hf : ∀ a, Op.throws (R a) (f a) Q) :
    Op.throws P (m >>= f) Q := by
  constructor
  intro d e x hp h
  rcases hr : m.run.run d with ⟨y | a, k⟩
  · rw [Op.run_bind_error hr] at h
    cases h
    exact hm.holds hp hr
  · rw [Op.run_bind_ok hr] at h
    exact (hf a).holds (hl.holds hp hr) h

theorem of_keeps {m : Op α} (h : Op.keeps π m) (k : κ) : Op.throws (fun d => π d = k) m (fun e => π e = k) :=
  ⟨fun hd hr => (h.run hr).trans hd⟩

/-- A step that keeps what is known of the device, whether it fails or not. -/
theorem step {m : Op α} {f : α → Op β} {k : κ} (hm : Op.keeps π m) (hf : ∀ a, Op.throws (fun d => π d = k) (f a) (fun e => π e = k)) :
    Op.throws (fun d => π d = k) (m >>= f) (fun e => π e = k) := (of_keeps hm k).bind (.of_keeps hm k) hf

theorem act (g : Dev → Dev) : Op.throws P (Op.act g) Q := ⟨fun _ hr => by cases hr⟩

/-- An act that does not fail, before what does not fail either. -/
theorem after_act {g : Dev → Dev} {f : PUnit → Op β} (hf : Op.throws (fun _ => True) (f ⟨⟩) Q) : Op.throws P (Op.act g >>= f) Q :=
  (act g).bind (R := fun _ _ => True) (.act fun _ _ => trivial) fun _ => hf

end Op.throws

theorem Dev.work_throws {d : Dev} {id j : Nat} {m : Op Unit} {P Q : Dev → Prop} (h : Op.throws P m Q) (hp : P d)
    (hs : Op.succeeds d m = false) : ∃ x e, Q e ∧ d.work id j m = e.failWith id j x := by
  obtain ⟨x, e, hr⟩ := Op.succeeds_false hs
  exact ⟨x, e, h.holds hp hr, Dev.work_error hr⟩

/-- The Switch Core and the swap contexts. -/
def Dev.swapping (d : Dev) : FabSt × List SwapCtx := (d.fab, d.swaps)

theorem Dev.swapping_of_beside {d e : Dev} (h : e.beside = d.beside) : e.swapping = d.swapping :=
  (congrArg Dev.swapping (Dev.beside_rest h) :)

theorem Dev.failWith_swapping (d : Dev) (id j : Nat) (x : Fail) : (d.failWith id j x).swapping = d.swapping :=
  (congrArg Dev.swapping (Dev.failMoves.failWith d id j x).rest :)

/-! ## The list -/

theorem Dev.swap?_updSwap {d : Dev} {k : Nat} {x : SwapCtx} {g : SwapCtx → SwapCtx} (hg : ∀ y, (g y).ctx = y.ctx)
    (h : d.swap? k = some x) : (d.updSwap k g).swap? k = some (g x) := by
  refine (find?_mapIf (fun y : SwapCtx => y.ctx == k) (fun y : SwapCtx => y.ctx == k) g d.swaps (fun y => by rw [hg])).trans ?_
  rw [show d.swaps.find? (fun y => y.ctx == k) = some x from h]
  exact congrArg some (if_pos (List.find?_some (p := fun y : SwapCtx => y.ctx == k) h))

theorem swap_completes {s : State} (hstall : s.dev.stalled = false) {id : Nat} {c : Cmd} {x : SwapCtx} (hc : s.dev.cmd? id = some c)
    (hrun : c.running = true) (hx : s.dev.swaps.find? (fun x => x.id == id) = some x) (hclosed : x.open_ = false)
    (hctx : s.dev.swap? x.ctx = some x) {bad : Option Nat} (hbad : x.badEntry (c.outp 0) (s.dev.swaps.filter (fun y => y.id != id)) = bad) :
    (bad = none → Completes (.swap id) s (fun e => e.swap? x.ctx = some { x with open_ := true } ∧
      e = { s.dev with swaps := e.swaps, pins := e.pins })) ∧
    (∀ i, bad = some i → Completes (.swap id) s (fun e => e.failing id .faultData ∧ e.swaps = s.dev.swaps ∧
      s.dev.noneEnds e ∧ e.mem = s.dev.mem ∧ s.dev.posted e .SWAP_LIST (fun r => r.index = i))) := by
  refine ⟨fun h => Completes.of_engine (g := fun d => d.swapCheck id) rfl hstall ?_,
    fun i h => Completes.of_engine (g := fun d => d.swapCheck id) rfl hstall ?_⟩
  · have hrow : s.dev.swapCheck id = s.dev.updSwap x.ctx (fun x => { x with open_ := true }) := by
      simp [Dev.swapCheck, hc, hx, hrun, hclosed, hbad, h]
    rw [hrow]
    exact ⟨Dev.swap?_updSwap (g := fun x => { x with open_ := true }) (fun _ => rfl) hctx, rfl⟩
  · have hrow : s.dev.swapCheck id = (s.dev.postCmd id .SWAP_LIST Status.faultData.num 0 i).failCmd id .faultData := by
      simp [Dev.swapCheck, hc, hx, hrun, hclosed, hbad, h]
    have hkept : (s.dev.swapCheck id).kept = s.dev.kept := by simp [hrow]
    have hend : c.ended = false := by
      simp only [Cmd.running, Bool.and_eq_true, Bool.not_eq_true'] at hrun
      exact hrun.1.2
    have hfailing := Dev.failing_told .faultData .SWAP_LIST Status.faultData.num 0 i 0 hc hend
    have hposted := s.dev.postCmd_posted .SWAP_LIST Status.faultData.num 0 i 0 hc
    have hmoves := Dev.failMoves.postCmd s.dev id .SWAP_LIST Status.faultData.num 0 i 0
    have hmem := s.dev.postCmd_mem id .SWAP_LIST Status.faultData.num 0 i 0
    rw [hrow] at hkept ⊢
    generalize s.dev.postCmd id .SWAP_LIST Status.faultData.num 0 i = e at *
    refine ⟨hfailing, hmoves.swaps, Dev.noneEnds_of_kept ((Dev.settle_kept _).trans hkept), hmem, hposted.mono fun r hr => hr.2.2⟩

/-! ## Weight billets -/

theorem Dev.weightWrite_swapping (d : Dev) (x : SwapCtx) (b : Billet) : (d.weightWrite x b).swapping = d.swapping := by
  unfold Dev.weightWrite
  dsimp only
  split
  · rfl
  · refine Dev.work_frame ?_ (fun e y => e.failWith_swapping _ _ y)
    exact .bind ⟨fun d => Dev.swapping_of_beside ((wr_beside ..).after d)⟩ fun _ => .act fun _ => rfl

/-- The billets that a context has received of a segment. -/
def SwapCtx.got (x : SwapCtx) (stream seg : Nat) : List Nat :=
  ((x.segs.find? (fun g => g.stream == stream && g.seg == seg)).map SwapSeg.got).getD []

/-- A context once a billet of a segment has joined those received: the segment is complete with the last of them. -/
def SwapCtx.receive (x : SwapCtx) (b : Billet) (got : List Nat) : SwapCtx :=
  let rest := x.segs.filter (fun s => !(s.stream == wStream b && s.seg == wSeg b))
  if got.length = bTotal b then { x with full := x.full ++ [(wStream b, wSeg b)], segs := rest }
  else { x with segs := rest ++ [⟨wStream b, wSeg b, got⟩] }

theorem Dev.weightTake_new {d : Dev} {x : SwapCtx} {b : Billet}
    (h : (x.full.contains (wStream b, wSeg b) || (x.got (wStream b) (wSeg b)).contains (bSeq b)) = false) :
    d.weightTake x b = (d.updSwap x.ctx (fun y => y.receive b (x.got (wStream b) (wSeg b) ++ [bSeq b]))).weightWrite x b := by
  unfold Dev.weightTake
  dsimp only
  exact if_neg (by simpa [SwapCtx.got] using h)

theorem Dev.weightTake_again {d : Dev} {x : SwapCtx} {b : Billet}
    (h : (x.full.contains (wStream b, wSeg b) || (x.got (wStream b) (wSeg b)).contains (bSeq b)) = true) :
    d.weightTake x b = d.addF .TIER_SWAP_DUP_DUP 1 x.ctx := if_pos h

theorem SwapCtx.receive_spec (x : SwapCtx) (b : Billet) (got : List Nat) :
    (x.receive b got).ctx = x.ctx ∧
    (got.length = bTotal b → (x.receive b got).full = x.full ++ [(wStream b, wSeg b)] ∧
      ∀ g ∈ (x.receive b got).segs, (g.stream, g.seg) ≠ (wStream b, wSeg b)) ∧
    (got.length ≠ bTotal b → (x.receive b got).full = x.full ∧ (⟨wStream b, wSeg b, got⟩ : SwapSeg) ∈ (x.receive b got).segs) := by
  unfold SwapCtx.receive
  dsimp only
  split
  · next h =>
    refine ⟨rfl, fun _ => ⟨rfl, fun g hg => ?_⟩, fun hn => absurd h hn⟩
    have hother := (List.mem_filter.mp hg).2
    rintro hkey
    simp only [Prod.mk.injEq] at hkey
    simp [hkey] at hother
  · next h => exact ⟨rfl, fun he => absurd he h, fun _ => ⟨rfl, List.mem_append_right _ (List.mem_singleton.mpr rfl)⟩⟩

theorem Dev.weightWrite_none {d : Dev} {x : SwapCtx} {b : Billet}
    (h : ∀ n ∈ x.entries, ¬(n.stream = wStream b ∧ n.offset ≤ wSeg b * 2097152 + 64 * bSeq b ∧
      wSeg b * 2097152 + 64 * bSeq b < n.offset + n.range.2)) : d.weightWrite x b = d := by
  unfold Dev.weightWrite
  dsimp only
  split
  · rfl
  · next n i hfind =>
    refine absurd ?_ (h n ?_)
    · simpa using List.find?_some hfind
    · obtain ⟨-, -, hmem⟩ := List.mem_zipIdx (List.mem_of_find?_eq_some hfind)
      exact hmem ▸ List.getElem_mem _

theorem weightBillet_completes {s : State} (hstall : s.dev.stalled = false) {a : Arrival}
    (hin : s.dev.fab.inbox.find? (fun a => a.port == 42 && s.dev.weightReady a.b) = some a) :
    Completes .weightBillet s (fun e => e.fab = (s.dev.taken a).fab ∧ s.dev.noneEnds e ∧
      (s.dev.swapFor a.b = none → s.dev.bumped e .TIER_SWAP_ORPHAN_ORPHAN 1 ∧ e.swaps = s.dev.swaps ∧
        e.mem = s.dev.mem ∧ e.cmds = s.dev.cmds) ∧
      (∀ x, s.dev.swapFor a.b = some x → s.dev.swap? x.ctx = some x →
        ((x.full.contains (wStream a.b, wSeg a.b) || (x.got (wStream a.b) (wSeg a.b)).contains (bSeq a.b)) = true →
          s.dev.bumped e .TIER_SWAP_DUP_DUP 1 x.ctx ∧ e.swaps = s.dev.swaps ∧ e.mem = s.dev.mem ∧ e.cmds = s.dev.cmds) ∧
        ((x.full.contains (wStream a.b, wSeg a.b) || (x.got (wStream a.b) (wSeg a.b)).contains (bSeq a.b)) = false →
          (∃ y, e.swap? x.ctx = some y ∧
            ((x.got (wStream a.b) (wSeg a.b)).length + 1 = bTotal a.b → y.full = x.full ++ [(wStream a.b, wSeg a.b)] ∧
              ∀ g ∈ y.segs, (g.stream, g.seg) ≠ (wStream a.b, wSeg a.b)) ∧
            ((x.got (wStream a.b) (wSeg a.b)).length + 1 ≠ bTotal a.b → y.full = x.full ∧
              (⟨wStream a.b, wSeg a.b, x.got (wStream a.b) (wSeg a.b) ++ [bSeq a.b]⟩ : SwapSeg) ∈ y.segs)) ∧
          ((∀ n ∈ x.entries, ¬(n.stream = wStream a.b ∧ n.offset ≤ wSeg a.b * 2097152 + 64 * bSeq a.b ∧
            wSeg a.b * 2097152 + 64 * bSeq a.b < n.offset + n.range.2)) → e.mem = s.dev.mem ∧ e.cmds = s.dev.cmds)))) := by
  refine Completes.of_engine (g := Dev.weightBillet) rfl hstall ?_
  have hkept := (Dev.settle_kept _).trans s.dev.weightBillet_kept
  have hends := Dev.noneEnds_of_kept hkept
  have htake : s.dev.takeInbox (fun a => a.port == 42 && s.dev.weightReady a.b) = some (a, s.dev.taken a) := s.dev.takeInbox_of_find hin
  have hmoves := Dev.slotsMove.taken s.dev a
  have hswaps : (s.dev.taken a).swaps = s.dev.swaps := (congrArg Dev.swaps hmoves.rest :)
  obtain ⟨hmem, hcmds, -⟩ := s.dev.taken_frame a
  have hfor : (s.dev.taken a).swapFor a.b = s.dev.swapFor a.b := by unfold Dev.swapFor; rw [hswaps]
  cases hf : s.dev.swapFor a.b with
  | none =>
    have hrow : s.dev.weightBillet = ((s.dev.taken a).addF .TIER_SWAP_ORPHAN_ORPHAN 1).postFirst .SWAP_ORPHAN 0 0 0
        { job := bJob a.b, part := (s.dev.taken a).partOf (bJob a.b) } := by
      simp [Dev.weightBillet, htake, hfor, hf]
    have hb := ((s.dev.taken a).bumped_addF .TIER_SWAP_ORPHAN_ORPHAN 1 0 0 (by decide)).of_f
      (hmoves.f (g := .TIER_SWAP_ORPHAN_ORPHAN) 0 0 (by decide))
    rw [hrow]
    generalize hm : (s.dev.taken a).addF .TIER_SWAP_ORPHAN_ORPHAN 1 = m at *
    obtain ⟨hmfab, hmswaps, hmmem, hmcmds⟩ : m.fab = (s.dev.taken a).fab ∧ m.swaps = (s.dev.taken a).swaps ∧
        m.mem = (s.dev.taken a).mem ∧ m.cmds = (s.dev.taken a).cmds := by
      subst hm
      exact ⟨rfl, rfl, rfl, rfl⟩
    have hpost := Dev.switchMoves.postFirst m .SWAP_ORPHAN 0 0 0 { job := bJob a.b, part := (s.dev.taken a).partOf (bJob a.b) }
    refine ⟨(Dev.post_fab_eq ..).trans hmfab, hrow ▸ hends, fun _ => ⟨?_, ?_, ?_, ?_⟩, (fun x hx => nomatch hx)⟩
    · unfold Dev.bumped at hb ⊢
      rw [← hb]
      exact hpost.f (f := .TIER_SWAP_ORPHAN_ORPHAN) 0 0 (by decide)
    · exact (congrArg Dev.swaps hpost.rest :).trans (hmswaps.trans hswaps)
    · exact (congrArg Dev.mem hpost.rest :).trans (hmmem.trans hmem)
    · exact (congrArg Dev.cmds hpost.rest :).trans (hmcmds.trans hcmds)
  | some x =>
    have hrow : s.dev.weightBillet = (s.dev.taken a).weightTake x a.b := by
      simp [Dev.weightBillet, htake, hfor, hf]
    rw [hrow] at hends ⊢
    by_cases hagain : (x.full.contains (wStream a.b, wSeg a.b) || (x.got (wStream a.b) (wSeg a.b)).contains (bSeq a.b)) = true
    · rw [Dev.weightTake_again hagain] at hends ⊢
      have hb := ((s.dev.taken a).bumped_addF .TIER_SWAP_DUP_DUP 1 x.ctx 0 (by decide)).of_f
        (hmoves.f (g := .TIER_SWAP_DUP_DUP) x.ctx 0 (by decide))
      refine ⟨rfl, hends, (fun h => nomatch h), fun y hy _ => ?_⟩
      obtain rfl := Option.some.inj hy
      exact ⟨fun _ => ⟨hb, hswaps, hmem, hcmds⟩, fun h => absurd hagain (by rw [h]; decide)⟩
    · rw [Dev.weightTake_new (by simpa using hagain)] at hends ⊢
      generalize hm : (s.dev.taken a).updSwap x.ctx (fun y => y.receive a.b (x.got (wStream a.b) (wSeg a.b) ++ [bSeq a.b])) = m at *
      obtain ⟨hmfab, hmmem, hmcmds⟩ : m.fab = (s.dev.taken a).fab ∧ m.mem = (s.dev.taken a).mem ∧ m.cmds = (s.dev.taken a).cmds := by
        subst hm
        exact ⟨rfl, rfl, rfl⟩
      have hunits := m.weightWrite_swapping x a.b
      refine ⟨(congrArg Prod.fst hunits).trans hmfab, hends, (fun h => nomatch h), fun y hy hctx => ?_⟩
      obtain rfl := Option.some.inj hy
      refine ⟨fun h => absurd h hagain, fun _ => ⟨⟨x.receive a.b (x.got (wStream a.b) (wSeg a.b) ++ [bSeq a.b]), ?_,
        fun h => (x.receive_spec a.b _).2.1 (by simpa using h), fun h => (x.receive_spec a.b _).2.2 (by simpa using h)⟩, fun hnone => ?_⟩⟩
      · have hswap : m.swap? x.ctx = some (x.receive a.b (x.got (wStream a.b) (wSeg a.b) ++ [bSeq a.b])) := by
          subst hm
          exact Dev.swap?_updSwap (fun y => (y.receive_spec _ _).1) (by unfold Dev.swap?; rw [hswaps]; exact hctx)
        rw [← hswap]
        exact congrArg (fun l : List SwapCtx => l.find? (fun y => y.ctx == x.ctx)) (congrArg Prod.snd hunits)
      · rw [Dev.weightWrite_none hnone]
        exact ⟨hmmem.trans hmem, hmcmds.trans hcmds⟩

/-! ## Verification -/

theorem Dev.unread_frame {d e : Dev} (h : e.unread = d.unread) : e.cmds = d.cmds ∧ e.link = d.link ∧ e.swaps = d.swaps :=
  ⟨(congrArg Dev.cmds (Dev.unread_rest h) :), (congrArg Dev.link (Dev.unread_rest h) :), (congrArg Dev.swaps (Dev.unread_rest h) :)⟩

/-- An entry of a context marked as verified. -/
def SwapCtx.verify (i : Nat) (x : SwapCtx) : SwapCtx :=
  { x with entries := x.entries.zipIdx.map (fun y => if y.2 = i then { y.1 with verified := true } else y.1) }

theorem SwapCtx.verify_entry {x : SwapCtx} {i : Nat} {n : SwapEntry} (h : x.entries[i]? = some n) :
    (x.verify i).entries[i]? = some { n with verified := true } := by
  simp [SwapCtx.verify, h]

theorem verifyEntry_leads {d : Dev} {k i : Nat} {x : SwapCtx} (n : SwapEntry) (hx : d.swap? k = some x) :
    Op.leads (fun e => e.unread = d.unread) (verifyEntry k i n) (fun _ e => e.cmds = d.cmds ∧ e.link = d.link ∧
      e.swap? k = some (x.verify i) ∧ d.bumped e .TIER_SWAP_CTX_VERIFIED 1 k ∧
      ((x.verify i).ready = true → e.flag .TIER_SWAP_CTX_READY k = true)) := by
  unfold verifyEntry
  refine .step (rd_unread ..) fun bs => .need fun _ =>
    .bind (R := fun _ e => e.cmds = d.cmds ∧ e.link = d.link ∧ e.swap? k = some (x.verify i) ∧
      e.f .TIER_SWAP_CTX_VERIFIED k = d.f .TIER_SWAP_CTX_VERIFIED k) (.act fun e he => ?_) fun _ =>
    .bind (R := fun _ e => e.cmds = d.cmds ∧ e.link = d.link ∧ e.swap? k = some (x.verify i) ∧ d.bumped e .TIER_SWAP_CTX_VERIFIED 1 k)
      (.act fun e he => ?_) fun _ => .act fun e he => ?_
  · obtain ⟨hc, hl, hs⟩ := Dev.unread_frame he
    refine ⟨hc, hl, Dev.swap?_updSwap (g := SwapCtx.verify i) (fun _ => rfl) (by unfold Dev.swap?; rw [hs]; exact hx), ?_⟩
    exact Dev.unread_f he (g := .TIER_SWAP_CTX_VERIFIED) (by decide) k 0
  · obtain ⟨hc, hl, hs, hf⟩ := he
    exact ⟨hc, hl, hs, (e.bumped_addF .TIER_SWAP_CTX_VERIFIED 1 k 0 (by decide)).of_f hf⟩
  · obtain ⟨hc, hl, hs, hb⟩ := he
    rw [hs]
    by_cases hr : (x.verify i).ready = true
    · rw [if_pos (by simpa using hr)]
      refine ⟨hc, hl, hs, ?_, fun _ => Dev.flag_of_one (Dev.f_setF_fit _ _ _ _ (by decide) (by decide))⟩
      exact (Dev.f_setF_apart _ .TIER_SWAP_CTX_READY .TIER_SWAP_CTX_VERIFIED 1 k 0 rfl (by decide) (by decide)).trans hb
    · rw [if_neg (by simpa using hr)]
      exact ⟨hc, hl, hs, hb, fun h => absurd h hr⟩

theorem verifyEntry_throws (d : Dev) (k i : Nat) (n : SwapEntry) :
    Op.throws (fun e => e.unread = d.unread) (verifyEntry k i n) (fun e => e.unread = d.unread) := by
  unfold verifyEntry
  exact .step (rd_unread ..) fun bs => .step (need_unread ..) fun _ => .after_act (.after_act (.act _))

theorem swapVerify_completes {s : State} (hstall : s.dev.stalled = false) {k : Fin 4} {i : Nat} {x : SwapCtx} {n : SwapEntry} {c : Cmd}
    (hx : s.dev.swap? k = some x) (hn : x.entries[i]? = some n) (hc : s.dev.cmd? x.id = some c) (hrun : c.running = true)
    (hopen : x.open_ = true) (hnew : n.verified = false) (harr : x.arrived n = true) :
    Completes (.swapVerify k i) s (fun e => s.dev.noneEnds e ∧
      (Op.succeeds s.dev (verifyEntry k i n) = true → e.cmds = s.dev.cmds ∧ e.link = s.dev.link ∧
        ∃ y, e.swap? k = some y ∧ y.entries[i]? = some { n with verified := true } ∧ s.dev.bumped e .TIER_SWAP_CTX_VERIFIED 1 k ∧
        (y.ready = true → e.flag .TIER_SWAP_CTX_READY k = true)) ∧
      (Op.succeeds s.dev (verifyEntry k i n) = false → e.failed x.id ∧ e.swaps = s.dev.swaps)) := by
  refine Completes.of_engine (g := fun d => d.swapVerify k i) rfl hstall ?_
  have hrow : s.dev.swapVerify k i = s.dev.work x.id i (verifyEntry k i n) := by
    simp [Dev.swapVerify, hx, hn, hc, hrun, hopen, hnew, harr]
  rw [hrow]
  refine ⟨Dev.noneEnds_of_kept ((Dev.settle_kept _).trans (s.dev.work_kept (verifyEntry_keeps k i n))), fun hs => ?_, fun hs =>
    ⟨Dev.failed_work_kept i (verifyEntry_keeps k i n) (verifyEntry_causes k i n) (Dev.live_of_running hc hrun) hs, ?_⟩⟩
  · obtain ⟨hcmds, hlink, hswap, hb, hready⟩ := Dev.work_leads (id := x.id) (j := i)
      (Q := fun e => e.cmds = s.dev.cmds ∧ e.link = s.dev.link ∧ e.swap? k = some (x.verify i) ∧
        s.dev.bumped e .TIER_SWAP_CTX_VERIFIED 1 k ∧ ((x.verify i).ready = true → e.flag .TIER_SWAP_CTX_READY k = true))
      (verifyEntry_leads n hx) rfl hs
    exact ⟨hcmds, hlink, x.verify i, hswap, SwapCtx.verify_entry hn, hb, hready⟩
  · obtain ⟨y, e, hu, he⟩ := Dev.work_throws (id := x.id) (j := i) (verifyEntry_throws s.dev k i n) rfl hs
    rw [he, Dev.settle_swaps, (Dev.failMoves.failWith e x.id i y).swaps]
    exact (Dev.unread_frame hu).2.2

/-- Settles O50: the list's check, the billets of a segment, and an object's verification. -/
theorem swapBuilds : Obligations.SwapBuilds := by
  unfold Obligations.SwapBuilds
  exact fun s hstall => ⟨fun id c x hc hrun hx hclosed hctx => swap_completes hstall hc hrun hx hclosed hctx rfl,
    fun a hin => weightBillet_completes hstall hin,
    fun k i x n c hx hn hc hrun hopen hnew harr => swapVerify_completes hstall hx hn hc hrun hopen hnew harr⟩

end Sys2Proof.Machine
end

section
/-! PROOFS. Remote add: messages sent once, acknowledged, and applied at the owner (R304 to R307; O59). -/

namespace Sys2Proof.Machine

/-! ## What remote add leaves -/

/-- The Switch Core, the collective engines and the commands. -/
def Dev.adding (d : Dev) : FabSt × CollSt × List Cmd := (d.fab, d.coll, d.cmds)

theorem Dev.adding_of_beside {d e : Dev} (h : e.beside = d.beside) : e.adding = d.adding :=
  (congrArg Dev.adding (Dev.beside_rest h) :)

theorem Dev.memReport_none_adding (d : Dev) (e : MemErr) : (d.memReport none e).adding = d.adding := by
  have hrest := (Dev.failMoves.memReport d none e).rest
  exact Prod.ext (congrArg Dev.fab hrest :) (Prod.ext (congrArg Dev.coll hrest :) (d.memReport_none_cmds e))

theorem Dev.dedupWrite_spec {d e : Dev} {p rank : Nat} {u : Dedup} (h : d.dedupWrite p rank u = .ok e) : e = { d with mem := e.mem } := by
  unfold Dev.dedupWrite at h
  split at h
  · split at h
    · cases h
      rfl
    · split at h
      · cases h
      · next hw =>
        have h1 := (Dev.physWrite_spec hw).1
        have h2 := (Dev.physWrite_spec h).1
        rw [h1] at h2
        exact h2
  · cases h
    rfl

/-- What an ADD that is applied counts. -/
def Dev.addCounted (d : Dev) (m : AddMsg) (u : Dedup) (bad sat : Nat) (ev : Ev) : Dev :=
  let d := ((d.addF .COLL_EVENTS_RESIDUE bad m.part).addF .COLL_EVENTS_SAT sat m.part).addF .COLL_ADD_STAT_APPLIED 1 m.part
  let d := d.fmtEvents m.part ev
  let d := if u = .plain true then d.addF .COLL_ADD_STAT_OUTSIDE 1 m.part else d
  if m.type ≠ 2 ∨ sat ≠ 0 then d.setF .PART_DET_EVENTS_ADD_ORDER 1 m.part else d

theorem Dev.addCounted_adding (d : Dev) (m : AddMsg) (u : Dedup) (bad sat : Nat) (ev : Ev) :
    (d.addCounted m u bad sat ev).adding = d.adding := by
  unfold Dev.addCounted
  dsimp only
  split <;> split <;> rfl

theorem Dev.addCounted_applied (d : Dev) (m : AddMsg) (u : Dedup) (bad sat : Nat) (ev : Ev) :
    d.bumped (d.addCounted m u bad sat ev) .COLL_ADD_STAT_APPLIED 1 m.part := by
  have hb := ((d.addF .COLL_EVENTS_RESIDUE bad m.part).addF .COLL_EVENTS_SAT sat m.part).bumped_addF .COLL_ADD_STAT_APPLIED 1
    m.part 0 (by decide)
  have hstart : ((d.addF .COLL_EVENTS_RESIDUE bad m.part).addF .COLL_EVENTS_SAT sat m.part).f .COLL_ADD_STAT_APPLIED m.part =
      d.f .COLL_ADD_STAT_APPLIED m.part :=
    (Dev.f_setF_ne_reg _ .COLL_EVENTS_SAT .COLL_ADD_STAT_APPLIED _ _ _ _ _ (by decide)).trans
      (Dev.f_setF_ne_reg _ .COLL_EVENTS_RESIDUE .COLL_ADD_STAT_APPLIED _ _ _ _ _ (by decide))
  unfold Dev.addCounted
  dsimp only
  generalize ((d.addF .COLL_EVENTS_RESIDUE bad m.part).addF .COLL_EVENTS_SAT sat m.part).addF .COLL_ADD_STAT_APPLIED 1 m.part = k at *
  have hk := hb.of_f hstart
  have hfmt : (k.fmtEvents m.part ev).f .COLL_ADD_STAT_APPLIED m.part = k.f .COLL_ADD_STAT_APPLIED m.part :=
    (Dev.f_setF_ne_reg _ .MA_FMT_EVENTS_FLUSHED .COLL_ADD_STAT_APPLIED _ _ _ _ _ (by decide)).trans
      ((Dev.f_setF_ne_reg _ .MA_FMT_EVENTS_NAN .COLL_ADD_STAT_APPLIED _ _ _ _ _ (by decide)).trans
        (Dev.f_setF_ne_reg _ .MA_FMT_EVENTS_SAT .COLL_ADD_STAT_APPLIED _ _ _ _ _ (by decide)))
  generalize k.fmtEvents m.part ev = n at *
  have hout : ∀ o : Dev, (o = n ∨ o = n.addF .COLL_ADD_STAT_OUTSIDE 1 m.part) →
      o.f .COLL_ADD_STAT_APPLIED m.part = n.f .COLL_ADD_STAT_APPLIED m.part := by
    rintro o (rfl | rfl)
    · rfl
    · exact Dev.f_setF_apart _ .COLL_ADD_STAT_OUTSIDE .COLL_ADD_STAT_APPLIED _ m.part 0 rfl (by decide) (by decide)
  have ho := hout (if u = .plain true then n.addF .COLL_ADD_STAT_OUTSIDE 1 m.part else n) (by split <;> simp)
  generalize (if u = .plain true then n.addF .COLL_ADD_STAT_OUTSIDE 1 m.part else n) = o at *
  unfold Dev.bumped at hk ⊢
  rw [← hk, ← hfmt, ← ho]
  split
  · exact Dev.f_setF_ne_reg _ .PART_DET_EVENTS_ADD_ORDER .COLL_ADD_STAT_APPLIED _ _ _ _ _ (by decide)
  · rfl

/-! ## The owner -/

/-- How an ADD ends: an access fails, its rank names another node, it is a duplicate, or it is applied and recorded. -/
inductive Dev.addEnds (d : Dev) (m : AddMsg) (r : Dev × Status × Bool) : Prop where
  | fails (k : Dev) (e : MemErr) (hk : k.adding = d.adding) (hr : r = (k.memReport none e, e.status, false))
  | stranger (hr : r = (d, .faultProt, false))
  | again (hr : r = (d.addF .COLL_ADD_STAT_DUP 1 m.part, .ok, true))
  | applied (k : Dev) (u : Dedup) (bad sat : Nat) (ev : Ev) (hk : k.beside = d.beside)
      (hw : (k.addCounted m u bad sat ev).dedupWrite m.part m.rank u = .ok r.1) (hr : r.2 = (.ok, false))

theorem Dev.applyAdd_ends (d : Dev) (m : AddMsg) (fault : Option AdderFault) : d.addEnds m (d.applyAdd m fault) := by
  unfold Dev.applyAdd
  split
  · exact .fails d _ rfl rfl
  · exact .stranger rfl
  split
  · exact .fails d _ rfl rfl
  · exact .again rfl
  next u _ _ =>
  dsimp only
  have hpieces := d.pieces_unread m.part true (m.count * typeBytes m.type / 65536 + 2) m.va (m.count * typeBytes m.type)
  generalize d.pieces m.part true (m.count * typeBytes m.type / 65536 + 2) m.va (m.count * typeBytes m.type) = x at hpieces ⊢
  obtain ⟨n, res⟩ := x
  have hn := Dev.beside_of_unread hpieces
  cases res with
  | error e => exact .fails n e (Dev.adding_of_beside hn) rfl
  | ok ps =>
    dsimp only
    split
    · exact .fails n _ (Dev.adding_of_beside hn) rfl
    next old _ =>
    generalize hrs : (List.range m.count).map _ = rs
    have hwrite := n.writePieces_beside ps (rs.flatMap (fun r => leBytes (typeBytes m.type) r.1))
    generalize n.writePieces ps (rs.flatMap (fun r => leBytes (typeBytes m.type) r.1)) = y at hwrite ⊢
    obtain ⟨k, res⟩ := y
    have hk : k.beside = d.beside := hwrite.trans hn
    cases res with
    | error e => exact .fails k e (Dev.adding_of_beside hk) rfl
    | ok _ =>
      have hcounted := k.addCounted_adding m u (sumNat (rs.map (·.2.1.bad))) (sumNat (rs.map (·.2.1.held)))
        ((rs.map (·.2.2)).foldl Ev.add {})
      have hwrites := fun e => Dev.addEnds.applied (d := d) (m := m) (r := (e, .ok, false)) k u (sumNat (rs.map (·.2.1.bad)))
        (sumNat (rs.map (·.2.1.held))) ((rs.map (·.2.2)).foldl Ev.add {}) hk
      dsimp only
      split
      · exact .fails _ _ (hcounted.trans (Dev.adding_of_beside hk)) rfl
      · next e he => exact hwrites e he rfl

/-- Applying an ADD leaves the Switch Core, the engines and the commands; only one that is applied changes memory's bytes. -/
theorem Dev.applyAdd_spec (d : Dev) (m : AddMsg) (fault : Option AdderFault) {r : Dev × Status × Bool} (hr : d.applyAdd m fault = r) :
    r.1.adding = d.adding ∧ (r.2 = (.ok, false) → d.bumped r.1 .COLL_ADD_STAT_APPLIED 1 m.part) := by
  have hends := d.applyAdd_ends m fault
  rw [hr] at hends
  cases hends with
  | fails k e hk he =>
    subst he
    refine ⟨(k.memReport_none_adding e).trans hk, fun h => ?_⟩
    cases e <;> cases h
  | stranger he => subst he; exact ⟨rfl, fun h => nomatch h⟩
  | again he => subst he; exact ⟨rfl, fun h => nomatch h⟩
  | applied k u bad sat ev hk hw he =>
    have hcounted := k.addCounted_adding m u bad sat ev
    have hb := k.addCounted_applied m u bad sat ev
    have hmem := Dev.dedupWrite_spec hw
    have hout : r.1.adding = (k.addCounted m u bad sat ev).adding := (congrArg Dev.adding hmem :)
    refine ⟨hout.trans (hcounted.trans (Dev.adding_of_beside hk)), fun _ => ?_⟩
    have hf : r.1.f .COLL_ADD_STAT_APPLIED m.part = (k.addCounted m u bad sat ev).f .COLL_ADD_STAT_APPLIED m.part :=
      Dev.f_of_regs (congrArg Dev.regs hmem :) _ _ _
    have hk' := hb.of_f (Dev.beside_f hk (g := .COLL_ADD_STAT_APPLIED) (by decide) m.part 0)
    unfold Dev.bumped at hk' ⊢
    rw [hf, hk']

theorem Dev.applyAdd_stranger {d : Dev} {m : AddMsg} {fault : Option AdderFault} (h : d.rankNames m.part m.rank m.src = .ok false) :
    (d.applyAdd m fault).1 = d := by
  unfold Dev.applyAdd
  rw [h]

theorem Dev.applyAdd_again {d : Dev} {m : AddMsg} {fault : Option AdderFault} (h : d.rankNames m.part m.rank m.src = .ok true)
    (hd : d.dedup m.part m.rank m.opId = .ok .duplicate) : (d.applyAdd m fault).1 = d.addF .COLL_ADD_STAT_DUP 1 m.part := by
  unfold Dev.applyAdd
  rw [h]
  dsimp only
  rw [hd]

/-! ## What a CE takes in -/

theorem Dev.consume_still (d : Dev) (a : Arrival) : (d.consume a).fab.still = d.fab.still := by
  unfold Dev.consume
  split
  · exact Dev.leave_still ..
  · rfl

/-- A CE's delivered ADD billets. -/
def addBillet (ce : Nat) (a : Arrival) : Bool := a.port == 37 + ce && bType a.b != 1 && bKind a.b == 4

theorem Dev.addIntake_spec (d : Dev) (ce : Nat) :
    (d.addIntake ce).fab.inbox = d.fab.inbox.filter (fun a => !addBillet ce a) ∧ (d.addIntake ce).mem = d.mem ∧
    (d.addIntake ce).cmds = d.cmds ∧ (∀ job, (d.addIntake ce).partOf job = d.partOf job) ∧
    ∀ r, r ∉ switchRegs → ∀ i j, (d.addIntake ce).reg r i j = d.reg r i j := by
  let n := (d.updFab (fun f => { f with inbox := f.inbox.filter (fun a => !addBillet ce a) })).updColl (fun x =>
    { x with addIn := x.addIn ++ d.fab.inbox.filter (addBillet ce) })
  have hmoves : n.slotsMove (d.addIntake ce) := .foldl Dev.slotsMove.consume _ n
  have hstill : ∀ (as : List Arrival) (k : Dev), (as.foldl Dev.consume k).fab.still = k.fab.still := by
    intro as
    induction as with
    | nil => exact fun _ => rfl
    | cons a as ih => exact fun k => (ih _).trans (k.consume_still a)
  refine ⟨?_, (congrArg Dev.mem hmoves.rest :), (congrArg Dev.cmds hmoves.rest :), fun job => (hmoves.partOf job).trans rfl,
    fun r hr i j => hmoves.reg r i j hr⟩
  exact (FabSt.still_spec (hstill (d.fab.inbox.filter (addBillet ce)) n)).1

/-! ## The rows -/

/-- Billets that an engine sends reach the Switch Core alone, and not its ports. -/
theorem Dev.inject_pump_spec (d : Dev) (port : Nat) (owner : Option (Nat × Nat)) (bs : List Billet) :
    (d.inject port owner bs).pump.fab.inbox = d.fab.inbox ∧ d.switchMoves (d.inject port owner bs).pump :=
  ⟨(FabSt.still_spec (Dev.pump_still _)).1, (Dev.slotsMove.updFab d _).switchMoves.trans (.pump _)⟩

/-- The billets that a CE has taken in that make a whole message. -/
def Dev.addWhole (d : Dev) (ce : Nat) (a : Arrival) : Bool := a.port == 37 + ce && (d.addBillets ce a.b).length == bTotal a.b

/-- A CE without the billets of one message. -/
def Dev.addTaken (d : Dev) (ce : Nat) (b : Billet) : Dev :=
  d.updColl (fun x => { x with addIn := x.addIn.filter (fun y => !(d.addBillets ce b).contains y) })

/-- The message that a CE's billets hold. -/
def Dev.addMessage (d : Dev) (ce p : Nat) (b : Billet) : AddMsg :=
  addMsgOf p (bSrc b) ((d.addBillets ce b).flatMap (fun m => bPayload m.b))

theorem Dev.addIn_waits {d : Dev} {ce : Nat} {f : Option AdderFault}
    (h : (d.addIntake ce).coll.addIn.find? ((d.addIntake ce).addWhole ce) = none) : d.addIn ce f = d.addIntake ce := by
  unfold Dev.addWhole at h
  unfold Dev.addIn
  dsimp only
  rw [h]

theorem Dev.addIn_applies {d k : Dev} {ce p : Nat} {f : Option AdderFault} {a : Arrival} (hk : d.addIntake ce = k)
    (h : k.coll.addIn.find? (k.addWhole ce) = some a) (hp : k.partOf (bJob a.b) = some p) :
    ∃ bs, d.addIn ce f = (((k.addTaken ce a.b).applyAdd (k.addMessage ce p a.b) f).1.inject (37 + ce) none bs).pump := by
  have hp' : (k.addTaken ce a.b).partOf (bJob a.b) = some p := hp
  unfold Dev.addWhole at h
  unfold Dev.addTaken at *
  unfold Dev.addIn
  rw [hk]
  dsimp only
  rw [h]
  dsimp only
  rw [hp']
  exact ⟨_, rfl⟩

theorem add_completes {s : State} (hstall : s.dev.stalled = false) (ce : Fin 4) (f : Option AdderFault) {d : Dev}
    (hd : s.dev.addIntake ce = d) :
    (∀ x ∈ d.fab.inbox, ¬(x.port = 37 + ce.val ∧ bType x.b ≠ 1 ∧ bKind x.b = 4)) ∧
    (d.coll.addIn.find? (d.addWhole ce) = none → Completes (.add ⟨ce, f⟩) s (fun e => e.coll = d.coll ∧ e.fab = d.fab ∧
      e.mem = s.dev.mem ∧ e.cmds = s.dev.cmds ∧ s.dev.noneEnds e)) ∧
    (∀ (a : Arrival) (p : Nat), d.coll.addIn.find? (d.addWhole ce) = some a → s.dev.partOf (bJob a.b) = some p →
      Completes (.add ⟨ce, f⟩) s (fun e => e.fab.inbox = d.fab.inbox ∧ e.coll.addIn = (d.addTaken ce a.b).coll.addIn ∧
        e.cmds = s.dev.cmds ∧ s.dev.noneEnds e ∧
        ((d.addTaken ce a.b).rankNames p (d.addMessage ce p a.b).rank (d.addMessage ce p a.b).src = .ok false →
          e.mem.hbm = s.dev.mem.hbm ∧ e.reg .COLL_ADD_STAT p = s.dev.reg .COLL_ADD_STAT p) ∧
        ((d.addTaken ce a.b).rankNames p (d.addMessage ce p a.b).rank (d.addMessage ce p a.b).src = .ok true →
          (d.addTaken ce a.b).dedup p (d.addMessage ce p a.b).rank (d.addMessage ce p a.b).opId = .ok .duplicate →
          s.dev.bumped e .COLL_ADD_STAT_DUP 1 p ∧ e.mem.hbm = s.dev.mem.hbm) ∧
        (((d.addTaken ce a.b).applyAdd (d.addMessage ce p a.b) f).2 = (.ok, false) → s.dev.bumped e .COLL_ADD_STAT_APPLIED 1 p ∧
          e.mem.hbm = ((d.addTaken ce a.b).applyAdd (d.addMessage ce p a.b) f).1.mem.hbm))) := by
  obtain ⟨hinbox, hmem, hcmds, hpart, hreg⟩ := s.dev.addIntake_spec ce
  have hends := Dev.noneEnds_of_kept ((Dev.settle_kept _).trans (s.dev.addIn_kept ce f))
  rw [hd] at hinbox hmem hcmds hpart hreg
  refine ⟨fun x hx => ?_, fun hnone => Completes.of_engine (g := fun d => d.addIn ce f) rfl hstall ?_,
    fun a p hfind hp => Completes.of_engine (g := fun d => d.addIn ce f) rfl hstall ?_⟩
  · rw [hinbox] at hx
    have hx' := (List.mem_filter.mp hx).2
    rintro ⟨h1, h2, h3⟩
    simp [addBillet, h1, h2, h3] at hx'
  · have hrow : s.dev.addIn ce f = d := (Dev.addIn_waits (by rw [hd]; exact hnone)).trans hd
    rw [hrow] at hends ⊢
    exact ⟨rfl, rfl, hmem, hcmds, hends⟩
  · obtain ⟨bs, hrow⟩ := Dev.addIn_applies (f := f) hd hfind ((hpart _).trans hp)
    rw [hrow] at hends ⊢
    have hspec := (d.addTaken ce a.b).applyAdd_spec (d.addMessage ce p a.b) f rfl
    have hstranger := Dev.applyAdd_stranger (d := d.addTaken ce a.b) (m := d.addMessage ce p a.b) (fault := f)
    have hagain := Dev.applyAdd_again (d := d.addTaken ce a.b) (m := d.addMessage ce p a.b) (fault := f)
    have hmp : (d.addMessage ce p a.b).part = p := rfl
    rw [hmp] at hspec hstranger hagain
    generalize hr : (d.addTaken ce a.b).applyAdd (d.addMessage ce p a.b) f = r at *
    obtain ⟨hadding, happlied⟩ := hspec
    obtain ⟨hin, hmoves⟩ := r.1.inject_pump_spec (37 + ce) none bs
    obtain ⟨hrfab, hrcoll, hrcmds⟩ : r.1.fab = d.fab ∧ r.1.coll = (d.addTaken ce a.b).coll ∧ r.1.cmds = d.cmds :=
      ⟨congrArg Prod.fst hadding, congrArg (fun x => x.2.1) hadding, congrArg (fun x => x.2.2) hadding⟩
    generalize (r.1.inject (37 + ce) none bs).pump = e at *
    obtain ⟨hecoll, hemem, hecmds⟩ : e.coll = r.1.coll ∧ e.mem = r.1.mem ∧ e.cmds = r.1.cmds :=
      ⟨(congrArg Dev.coll hmoves.rest :), (congrArg Dev.mem hmoves.rest :), (congrArg Dev.cmds hmoves.rest :)⟩
    have hstat : e.reg .COLL_ADD_STAT p = r.1.reg .COLL_ADD_STAT p := hmoves.reg .COLL_ADD_STAT p 0 (by decide)
    have hstat' : (d.addTaken ce a.b).reg .COLL_ADD_STAT p = s.dev.reg .COLL_ADD_STAT p := hreg .COLL_ADD_STAT (by decide) p 0
    have hbump : ∀ g : Fld, g.reg = .COLL_ADD_STAT → (d.addTaken ce a.b).bumped r.1 g 1 p → s.dev.bumped e g 1 p := by
      intro g hg h
      have hfe : e.f g p = r.1.f g p := congrArg g.of (by rw [hg]; exact hstat)
      have hfd : (d.addTaken ce a.b).f g p = s.dev.f g p := congrArg g.of (by rw [hg]; exact hstat')
      unfold Dev.bumped at h ⊢
      rw [hfe, h, hfd]
    have hdmem : (d.addTaken ce a.b).mem = s.dev.mem := hmem
    refine ⟨hin.trans (by rw [hrfab]), by rw [Dev.settle_coll, hecoll, hrcoll], hecmds.trans (hrcmds.trans hcmds), hends, fun h => ?_,
      fun h hdup => ?_, fun h => ⟨hbump _ rfl (happlied h), by rw [Dev.settle_mem, hemem]⟩⟩
    · have hsame := hstranger h
      exact ⟨by rw [Dev.settle_mem, hemem, hsame, hdmem], by rw [Dev.settle_reg, hstat, hsame, hstat']⟩
    · have hsame := hagain h hdup
      refine ⟨hbump _ rfl ?_, by rw [Dev.settle_mem, hemem, hsame]; exact congrArg MemSt.hbm hdmem⟩
      rw [hsame]
      exact Dev.bumped_addF _ .COLL_ADD_STAT_DUP 1 p 0 (by decide)

/-- A status carried by an ACK is OK exactly where its code is OK's. -/
theorem statusOf_ok (n : Nat) : statusOf n = .ok ↔ n = Status.ok.num := by
  unfold statusOf
  constructor
  · intro h
    cases hf : List.find? (fun s => s.num == n) ([.ok, .suspect, .killedPreempt, .killedDisable, .killedWatchdog, .faultXlat,
      .faultData, .faultProt, .poolEmpty, .quota, .partFailed, .swapNotReady, .stepStall, .badDescriptor] : List Status) with
    | none => rw [hf] at h; cases h
    | some st =>
      rw [hf] at h
      obtain rfl : st = .ok := h
      exact (by simpa using List.find?_some hf : Status.ok.num = n).symm
  · rintro rfl
    rfl

theorem ack_completes {s : State} (hstall : s.dev.stalled = false) (ce : Fin 4) {a : Arrival}
    (hin : s.dev.fab.inbox.find? (fun a => a.port == 37 + ce.val && bType a.b != 1 && bKind a.b == 5) = some a) {slot : Nat}
    (hslot : bits (bTag a.b) 0 8 = slot) :
    (∀ x c, s.dev.coll.adds.find? (fun x => x.slot == slot && x.sent) = some x → s.dev.cmd? x.id = some c →
      c.ended = false → bits (bTag a.b) 8 8 = s.dev.addGen slot →
      Completes (.ack ce) s (fun e => e.regs = (s.dev.taken a).regs ∧ e.fab = (s.dev.taken a).fab ∧ s.dev.noneEnds e ∧
        e.mem = s.dev.mem ∧ (bPay a.b 0 0 8 = Status.ok.num → e.readied x.id) ∧
        (bPay a.b 0 0 8 ≠ Status.ok.num → e.failed x.id))) ∧
    (s.dev.coll.adds.find? (fun x => x.slot == slot && x.sent) = none ∨ bits (bTag a.b) 8 8 ≠ s.dev.addGen slot →
      Completes (.ack ce) s (fun e => s.dev.bumped e .COLL_LATE_LATE 1 ∧ e.cmds = s.dev.cmds ∧ e.mem = s.dev.mem ∧
        e.fab = (s.dev.taken a).fab)) := by
  have htake : s.dev.takeInbox (fun a => a.port == 37 + ce.val && bType a.b != 1 && bKind a.b == 5) = some (a, s.dev.taken a) :=
    s.dev.takeInbox_of_find hin
  have hmoves := Dev.slotsMove.taken s.dev a
  have hcoll : (s.dev.taken a).coll = s.dev.coll := (congrArg Dev.coll hmoves.rest :)
  have hgen : (s.dev.taken a).addGen slot = s.dev.addGen slot := by unfold Dev.addGen; rw [hcoll]
  obtain ⟨hmem, hcmds, -⟩ := s.dev.taken_frame a
  have hends := Dev.noneEnds_of_kept ((Dev.settle_kept _).trans (s.dev.ackIn_kept ce))
  refine ⟨fun x c hx hc hend hg => Completes.of_engine (g := fun d => d.ackIn ce) rfl hstall ?_,
    fun hlate => Completes.of_engine (g := fun d => d.ackIn ce) rfl hstall ?_⟩
  · have hcd : (s.dev.taken a).cmd? x.id = some c := by unfold Dev.cmd?; rw [hcmds]; exact hc
    have hrow : s.dev.ackIn ce = if statusOf (bPay a.b 0 0 8) = .ok then (s.dev.taken a).finish x.id
        else (s.dev.taken a).failPart x.id 0 (statusOf (bPay a.b 0 0 8)) := by
      simp [Dev.ackIn, htake, hslot, hcoll, hx, hgen, hg]
    rw [hrow] at hends ⊢
    by_cases hok : bPay a.b 0 0 8 = Status.ok.num
    · rw [if_pos ((statusOf_ok _).mpr hok)] at hends ⊢
      exact ⟨rfl, rfl, hends, hmem, fun _ => Dev.readied_finish hcd, fun h => absurd hok h⟩
    · rw [if_neg (fun h => hok ((statusOf_ok _).mp h))] at hends ⊢
      exact ⟨rfl, rfl, hends, hmem, fun h => absurd h hok, fun _ => Dev.failed_failPart 0 _ ⟨c, hcd, hend⟩⟩
  · have hrow : s.dev.ackIn ce = (s.dev.taken a).addF .COLL_LATE_LATE 1 := by
      unfold Dev.ackIn
      rw [htake]
      dsimp only
      rw [hslot, hcoll, hgen]
      rcases hlate with hnone | hg
      · rw [hnone]
      · split
        · rfl
        · rw [if_pos hg]
    rw [hrow]
    exact ⟨((s.dev.taken a).bumped_addF .COLL_LATE_LATE 1 0 0 (by decide)).of_f (hmoves.f (g := .COLL_LATE_LATE) 0 0 (by decide)),
      hcmds, hmem, rfl⟩

/-! ## The sender -/

/-- The collective engines and the commands. -/
def Dev.sending (d : Dev) : CollSt × List Cmd := (d.coll, d.cmds)

theorem Op.keeps.sending_of_unread {α : Type} {m : Op α} (h : Op.keeps Dev.unread m) : Op.keeps Dev.sending m :=
  ⟨fun d => congrArg Prod.snd (Dev.adding_of_beside (Dev.beside_of_unread (h.after d)))⟩

theorem rankNode_sending (p rank : Nat) : Op.keeps Dev.sending (rankNode p rank) := by
  unfold rankNode
  refine .bind .get fun d => ?_
  split
  · exact .pure _
  · exact .bind (.sending_of_unread (need_unread ..)) fun _ => .bind (.mem fun _ => rfl) fun _ =>
      .bind (.sending_of_unread (need_unread ..)) fun _ => .bind (.act fun _ => rfl) fun _ => .pure _

theorem sendAdd_sending (c : Cmd) (slot gen : Nat) : Op.keeps Dev.sending (sendAdd c slot gen) := by
  unfold sendAdd
  dsimp only
  split
  · exact .pure _
  · refine .bind (.sending_of_unread (need_unread ..)) fun _ => .bind (.sending_of_unread (rd_unread ..)) fun _ =>
      .bind (rankNode_sending ..) fun _ => .bind .get fun d => .act fun d => ?_
    exact (congrArg Dev.sending (Dev.inject_pump_spec d _ _ _).2.rest :)

theorem addMsg_completes {s : State} (hstall : s.dev.stalled = false) {id : Nat} {c : Cmd} {x : AddSlot} (hc : s.dev.cmd? id = some c)
    (hx : s.dev.coll.adds.find? (fun a => a.id == id) = some x) (hrun : c.running = true) (hop : c.opcode = 6) (hnew : x.sent = false)
    {d : Dev} (hd : s.dev.updColl (fun y => { y with adds := mapIf (fun b => b.id == id) (fun b => { b with sent := true }) y.adds }) = d) :
    Completes (.addMsg id) s (fun e => e.coll = d.coll ∧ s.dev.noneEnds e ∧
      (Op.succeeds d (sendAdd c x.slot (s.dev.addGen x.slot)) = true → e.cmds = s.dev.cmds) ∧
      (Op.succeeds d (sendAdd c x.slot (s.dev.addGen x.slot)) = false → e.failed id)) := by
  refine Completes.of_engine (g := fun d => d.addMsg id) rfl hstall ?_
  have hcd : d.cmd? id = some c := by subst hd; exact hc
  have hcmds : d.cmds = s.dev.cmds := by subst hd; rfl
  have hgen : d.addGen x.slot = s.dev.addGen x.slot := by subst hd; rfl
  have hrow : s.dev.addMsg id = d.work id 0 (sendAdd c x.slot (s.dev.addGen x.slot)) := by
    rw [← hgen]
    subst hd
    simp [Dev.addMsg, hc, hx, hrun, hop, hnew]
  have hends := Dev.noneEnds_of_kept ((Dev.settle_kept _).trans (s.dev.addMsg_kept id))
  rw [hrow] at hends ⊢
  refine ⟨?_, hends, fun hs => ?_, fun hs => Dev.failed_work_kept 0 (sendAdd_keeps ..) (sendAdd_causes ..) (Dev.live_of_running hcd hrun) hs⟩
  · refine Dev.work_frame (π := Dev.coll) ⟨fun d => congrArg Prod.fst ((sendAdd_sending ..).after d)⟩ (fun e y => ?_)
    exact (congrArg Dev.coll (Dev.failMoves.failWith e id 0 y).rest :)
  · rw [← hcmds]
    exact Dev.work_leads (Q := fun e => e.cmds = d.cmds) ⟨fun hp hr => congrArg Prod.snd (((sendAdd_sending ..).run hr).trans hp)⟩
      (P := fun e => e.sending = d.sending) rfl hs

/-- Settles O59: a message is sent once, acknowledged by slot and generation, and applied at most once. -/
theorem remoteAdds : Obligations.RemoteAdds := by
  unfold Obligations.RemoteAdds
  exact fun s hstall => ⟨fun id c x hc hx hrun hop hnew => addMsg_completes hstall hc hx hrun hop hnew rfl,
    fun ce a hin => ack_completes hstall ce hin rfl, fun ce f => add_completes hstall ce f rfl⟩

end Sys2Proof.Machine
end

section
/-! PROOFS. The load of a SIEVE and the tiles that its context accepts (R75, R78; O45). -/

namespace Sys2Proof.Machine

/-! ## The engines' own state -/

/-- The state of the engines that work on commands. -/
def Dev.engines (d : Dev) : ArrSt × SvSt × XeSt × CollSt × BorerSt × List SwapCtx × WinSt :=
  (d.arr, d.sv, d.xe, d.coll, d.borer, d.swaps, d.win)

section
variable {d e : Dev}

theorem Dev.engines_of_beside (h : e.beside = d.beside) : e.engines = d.engines := (congrArg Dev.engines (Dev.beside_rest h) :)

theorem Dev.failMoves.engines (h : Dev.failMoves d e) : e.engines = d.engines := (congrArg Dev.engines h.rest :)

theorem Dev.switchMoves.engines (h : d.switchMoves e) : e.engines = d.engines := (congrArg Dev.engines h.rest :)

@[simp] theorem Dev.failWith_engines (d : Dev) (id j : Nat) (x : Fail) : (d.failWith id j x).engines = d.engines :=
  (Dev.failMoves.failWith d id j x).engines

@[simp] theorem Dev.postCmd_engines (d : Dev) (id : Nat) (c : Code) (st addr index n : Nat) :
    (d.postCmd id c st addr index n).engines = d.engines := (Dev.failMoves.postCmd d id c st addr index n).engines

@[simp] theorem Dev.addF_engines (d : Dev) (f : Fld) (n i j : Nat) : (d.addF f n i j).engines = d.engines := rfl

theorem Dev.engines_sv (h : e.engines = d.engines) : e.sv = d.sv := congrArg (fun x => x.2.1) h

theorem Dev.engines_arr (h : e.engines = d.engines) : e.arr = d.arr := congrArg Prod.fst h

end

theorem Op.keeps.engines_of_beside {α : Type} {m : Op α} (h : Op.keeps Dev.beside m) : Op.keeps Dev.engines m :=
  ⟨fun d => Dev.engines_of_beside (h.after d)⟩

theorem Op.keeps.engines_of_unread {α : Type} {m : Op α} (h : Op.keeps Dev.unread m) : Op.keeps Dev.engines m :=
  .engines_of_beside h.beside_of_unread

/-- A value that is at hand changes nothing. -/
theorem Op.leads.pure_bind {α β : Type} {P : Dev → Prop} {Q : β → Dev → Prop} {f : α → Op β} {a : α} (h : Op.leads P (f a) Q) :
    Op.leads P (Pure.pure a >>= f) Q := ⟨fun hd hr => h.holds hd hr⟩

/-- Two things that a success tells are told together. -/
theorem Op.leads.both {α : Type} {P P' : Dev → Prop} {Q Q' : α → Dev → Prop} {m : Op α} (h : Op.leads P m Q)
    (h' : Op.leads P' m Q') : Op.leads (fun d => P d ∧ P' d) m (fun a e => Q a e ∧ Q' a e) :=
  ⟨fun hd hr => ⟨h.holds hd.1 hr, h'.holds hd.2 hr⟩⟩

/-- What is known of a result, apart from the device, is at hand. -/
theorem Op.leads.assuming {α : Type} {p : Prop} {P : Dev → Prop} {Q : α → Dev → Prop} {m : Op α} (h : p → Op.leads P m Q) :
    Op.leads (fun d => p ∧ P d) m Q := ⟨fun hd hr => (h hd.1).holds hd.2 hr⟩

/-- A step that keeps what is known of the device, and of whose result something is known. -/
theorem Op.leads.step_with {α β κ : Type} {π : Dev → κ} {p : α → Prop} {Q : β → Dev → Prop} {m : Op α} {f : α → Op β} {k : κ}
    (hm : Op.keeps π m) (hp : Op.leads (fun _ => True) m (fun a _ => p a)) (hf : ∀ a, p a → Op.leads (fun d => π d = k) (f a) Q) :
    Op.leads (fun d => π d = k) (m >>= f) Q :=
  .bind (R := fun a e => p a ∧ π e = k) ⟨fun hd hr => ⟨hp.holds trivial hr, (hm.run hr).trans hd⟩⟩ fun a => .assuming (hf a)

/-! ## Contexts of the Sieve -/

theorem Dev.sv?_updSv {d : Dev} {k : Nat} {x : SvCtx} {g : SvCtx → SvCtx} (hg : ∀ y, y.ctx = k → (g y).ctx = k) (h : d.sv? k = some x) :
    (d.updSv k g).sv? k = some (g x) := by
  have hfind : ∀ l : List SvCtx, (mapIf (fun y => y.ctx == k) g l).find? (fun y => y.ctx == k) = (l.find? (fun y => y.ctx == k)).map g := by
    intro l
    induction l with
    | nil => rfl
    | cons y l ih =>
      by_cases hy : y.ctx = k
      · simp [mapIf, hy, hg y hy]
      · simpa [mapIf, List.find?_cons, hy] using ih
  unfold Dev.sv? Dev.updSv at *
  dsimp only
  rw [hfind, h, Option.map_some]

/-! ## The load -/

@[simp] theorem capTable_unread (experts : Nat) (bs : List Byte) : Op.keeps Dev.unread (capTable experts bs) :=
  (need_unread ..).bind fun _ => .pure _

@[simp] theorem grainTable_unread (v : Version) (bad : Fail) : Op.keeps Dev.unread (grainTable v bad) := by
  unfold grainTable
  repeat' first | with_reducible apply Op.keeps.bind | intro _
  all_goals simp

/-- What a context's load ends with. -/
def SvCtx.load (map : List (BitVec 256)) (caps : Option (List Nat)) (status : Option (List Byte)) (groups : List Grain) (x : SvCtx) : SvCtx :=
  { x with loaded := true, map := map, caps := caps, status := status, groups := groups }

/-- Where a load of a context has gone through. -/
def Dev.sieveLoaded (d : Dev) (c : Cmd) (x : SvCtx) (e : Dev) : Prop :=
  d.quietly e ∧ ∃ y, e.sv? x.ctx = some y ∧ y.loaded = true ∧ y.head = x.head ∧
    y.map.length = (if c.stage = 1 then 0 else mapExperts x.head.toNat)

theorem Dev.sieveLoaded_of_unread {d e : Dev} {c : Cmd} {x : SvCtx} {map : List (BitVec 256)} (hx : d.sv? x.ctx = some x)
    (hmap : map.length = (if c.stage = 1 then 0 else mapExperts x.head.toNat)) (caps : Option (List Nat))
    (status : Option (List Byte)) (groups : List Grain) (he : e.unread = d.unread) :
    d.sieveLoaded c x (e.updSv x.ctx (SvCtx.load map caps status groups)) := by
  have hr := Dev.unread_rest he
  refine ⟨⟨(congrArg Dev.cmds hr :), (congrArg Dev.link hr :), (congrArg (fun y : Dev => y.mem.hbm) hr :),
    (congrArg (fun y : Dev => y.mem.slab) hr :), congrArg BitVec.toNat (Dev.unread_reg he (r := .RING_COUNT) (by decide) 0 0)⟩,
    SvCtx.load map caps status groups x, Dev.sv?_updSv (fun y hy => hy) ?_, rfl, rfl, hmap⟩
  unfold Dev.sv? at *
  rw [Dev.engines_sv (Dev.engines_of_beside (Dev.beside_of_unread he))]
  exact hx

/-- A load that succeeds gives the context the map's entries, and reaches nothing beside it. -/
theorem sieveLoad_leads (d : Dev) {c : Cmd} {x : SvCtx} (hx : d.sv? x.ctx = some x) :
    Op.leads (fun e => e.unread = d.unread) (sieveLoad c x) (fun _ e => d.sieveLoaded c x e) := by
  unfold sieveLoad
  extract_lets experts rest
  have hrest : ∀ map, map.length = (if c.stage = 1 then 0 else mapExperts x.head.toNat) →
      Op.leads (fun e => e.unread = d.unread) (rest map) (fun _ e => d.sieveLoaded c x e) := by
    intro map hmap
    unfold rest
    extract_lets rest2
    have hrest2 : ∀ caps, Op.leads (fun e => e.unread = d.unread) (rest2 caps) (fun _ e => d.sieveLoaded c x e) := by
      intro caps
      unfold rest2
      extract_lets rest3
      have hrest3 : ∀ status, Op.leads (fun e => e.unread = d.unread) (rest3 status) (fun _ e => d.sieveLoaded c x e) := by
        intro status
        have hend : ∀ groups, Op.leads (fun e => e.unread = d.unread)
            (Op.act (fun d => d.updSv x.ctx (SvCtx.load map caps status groups))) (fun _ e => d.sieveLoaded c x e) :=
          fun groups => .act fun e he => Dev.sieveLoaded_of_unread hx hmap caps status groups he
        unfold rest3
        extract_lets rest4
        split
        · exact .step (inVer_unread ..) fun v => .step (grainTable_unread ..) fun t => .step (.pure _) hend
        · exact .step (.pure _) hend
      split
      · exact .step (.pure _) hrest3
      · exact .step (inVer_unread ..) fun v => .step (.map (rd_unread ..) _) hrest3
    split
    · exact .step (.pure _) hrest2
    · split
      · exact .step (inVer_unread ..) fun v => .step (rd_unread ..) fun bs => .step (.map (capTable_unread ..) _) hrest2
      · exact .step (.pure _) hrest2
  split
  next hs => exact .pure_bind (hrest _ (by simp [hs]))
  next hs =>
    exact .step (inVer_unread ..) fun v => .step (rd_unread ..) fun bs => .pure_bind (hrest _ (by simp [hs, experts]))

/-- SIEVE ends its load, or fails. -/
theorem sieve_completes {s : State} (hstall : s.dev.stalled = false) {id : Nat} {c : Cmd} {x : SvCtx} (hc : s.dev.cmd? id = some c)
    (hrun : c.running = true) (hx : s.dev.sv? x.ctx = some x) (hfind : s.dev.sv.ctxs.find? (fun y => y.id == id) = some x)
    (hnew : x.loaded = false) :
    (Op.succeeds s.dev (sieveLoad c x) = true →
      Completes (.sieve id) s (fun e => s.dev.noneEnds e ∧ s.dev.sieveLoaded c x e)) ∧
    (Op.succeeds s.dev (sieveLoad c x) = false → Completes (.sieve id) s (fun e => s.dev.noneEnds e ∧ e.failed id)) := by
  have hrow : s.dev.sieve id = s.dev.work id 0 (sieveLoad c x) := by simp [Dev.sieve, hc, hfind, hrun, hnew]
  have hends : s.dev.noneEnds (s.dev.work id 0 (sieveLoad c x)).settle :=
    Dev.noneEnds_of_kept ((Dev.settle_kept _).trans (s.dev.work_kept (sieveLoad_keeps c x)))
  refine ⟨fun hs => Completes.of_engine (g := fun d => d.sieve id) rfl hstall ?_,
    fun hs => Completes.of_engine (g := fun d => d.sieve id) rfl hstall ?_⟩
  · rw [hrow]
    refine ⟨hends, ?_⟩
    have h := Dev.work_leads (id := id) (j := 0) (sieveLoad_leads s.dev hx) rfl hs
    generalize s.dev.work id 0 (sieveLoad c x) = e at *
    exact h
  · rw [hrow]
    exact ⟨hends, Dev.failed_work_kept 0 (sieveLoad_keeps c x) (sieveLoad_causes c x) (Dev.live_of_running hc hrun) hs⟩

end Sys2Proof.Machine
end

section
/-! PROOFS. The Sieve's tiles, tokens and tail (R78, R81 to R91; O45). -/

namespace Sys2Proof.Machine

/-! ## What the selection keeps of the engines -/

@[simp] theorem rankNode_engines (p rank : Nat) : Op.keeps Dev.engines (rankNode p rank) := by
  unfold rankNode
  refine .bind .get fun d => ?_
  split
  · exact .pure _
  · exact .bind (.engines_of_unread (need_unread ..)) fun _ => .bind (.mem fun _ => rfl) fun _ =>
      .bind (.engines_of_unread (need_unread ..)) fun _ => .bind (.act fun _ => rfl) fun _ => .pure _

@[simp] theorem dlbReplica_engines (x : SvCtx) (expert : Nat) (ent : BitVec 256) : Op.keeps Dev.engines (dlbReplica x expert ent) := by
  unfold dlbReplica
  exact .bind (.mapM (fun _ => .bind (rankNode_engines ..) fun _ => .bind .get fun _ => .pure _) _) fun _ => .pure _

@[simp] theorem pickReplica_engines (x : SvCtx) (slot token expert : Nat) (ent : BitVec 256) :
    Op.keeps Dev.engines (pickReplica x slot token expert ent) := by
  unfold pickReplica
  refine .bind .get fun d => ?_
  split
  · exact dlbReplica_engines ..
  · exact .pure _

@[simp] theorem fillChoice_engines (c : Cmd) (x : SvCtx) (g : Grain) : Op.keeps Dev.engines (fillChoice c x g) := by
  unfold fillChoice
  dsimp only
  split
  · exact .pure _
  split
  · exact .pure _
  · exact .bind (pickReplica_engines ..) fun _ => .pure _

@[simp] theorem fillAll_engines (c : Cmd) (x : SvCtx) (gs : List Grain) : Op.keeps Dev.engines (fillAll c x gs) := by
  induction gs generalizing x with
  | nil => exact .pure _
  | cons g gs ih => exact .bind (fillChoice_engines c x g) fun r => .bind (ih r.1) fun _ => .pure _

@[simp] theorem sieveWrite_beside (c : Cmd) (obj off : Nat) (bs : List Byte) : Op.keeps Dev.beside (sieveWrite c obj off bs) := by
  unfold sieveWrite
  exact .bind (outVer_unread ..).beside_of_unread fun _ => .bind (need_unread ..).beside_of_unread fun _ =>
    .bind (need_unread ..).beside_of_unread fun _ => wr_beside ..

@[simp] theorem Dev.lndAlloc_engines (d : Dev) (p k : Nat) (user : LndUser) : (d.lndAlloc p k user).1.engines = d.engines := by
  unfold Dev.lndAlloc
  split
  · have hfree : ∀ n, (d.setFree k n).engines = d.engines := fun n => by
      unfold Dev.setFree
      dsimp only
      split <;> rfl
    exact hfree _
  · dsimp only
    split
    · exact Dev.postCmd_engines ..
    · exact (congrArg Dev.engines ((d.addF .TIER_LND_USE_FAILS 1 p k).post_eq ..) :)

@[simp] theorem takeBuffers_engines (id p k n : Nat) : Op.keeps Dev.engines (takeBuffers id p k n) := by
  induction n with
  | zero => exact .pure _
  | succ n ih =>
    refine .of_get fun d => ?_
    have h := d.lndAlloc_engines p k (.command id)
    split
    · refine (Op.keeps.after_set (ih.bind fun _ => .pure _)).trans ?_
      simp_all
    · refine (Op.keeps.after_set (.throw _)).trans ?_
      simp_all

@[simp] theorem spillRuns_engines (c : Cmd) (x : SvCtx) : Op.keeps Dev.engines (spillRuns c x) := by
  unfold spillRuns
  dsimp only
  split
  · exact .pure _
  · refine .bind (takeBuffers_engines ..) fun bufs => .bind (.forM (fun b => .mem fun d => ?_) _) fun _ => .pure _
    split
    · exact Dev.engines_of_beside (Dev.physWrite_beside ‹_›)
    · rfl

/-! ## A token's selection -/

theorem fillChoice_leads (c : Cmd) (x : SvCtx) (g : Grain) :
    Op.leads (fun _ => True) (fillChoice c x g) (fun a _ => a.1.ctx = x.ctx ∧ a.2.1.expert = g.expert) := by
  unfold fillChoice
  dsimp only
  split
  · exact .pure fun _ _ => ⟨rfl, rfl⟩
  split
  · exact .pure fun _ _ => ⟨rfl, rfl⟩
  · exact .bind (R := fun _ _ => True) ⟨fun _ _ => trivial⟩ fun _ => .pure fun _ _ => ⟨rfl, rfl⟩

/-- The choices of a token keep their experts and their order. -/
theorem fillAll_leads (c : Cmd) (x : SvCtx) (gs : List Grain) : Op.leads (fun _ => True) (fillAll c x gs)
    (fun a _ => a.1.ctx = x.ctx ∧ a.2.1.map Grain.expert = gs.map Grain.expert) := by
  induction gs generalizing x with
  | nil => exact .pure fun _ _ => ⟨rfl, rfl⟩
  | cons g gs ih =>
    refine .bind (fillChoice_leads c x g) fun a => ?_
    refine .weaken (P := fun _ => (a.1.ctx = x.ctx ∧ a.2.1.expert = g.expert) ∧ True) (.assuming fun ha => ?_)
      (fun _ h => ⟨h, trivial⟩) (fun _ _ h => h)
    exact .bind (ih a.1) fun b => .pure fun _ hb => ⟨hb.1.trans ha.1, by rw [List.map_cons, hb.2, ha.2, List.map_cons]⟩

theorem renormalise_experts (gs : List Grain) : (renormalise gs).map Grain.expert = gs.map Grain.expert := by
  unfold renormalise
  dsimp only
  split
  · rw [List.map_map]
    refine List.map_congr_left fun g _ => ?_
    dsimp only [Function.comp]
    split <;> rfl
  · rfl

/-- Where the next token of a context has been processed: its grains follow those before, and its row is chosen. -/
def SvCtx.processed (x : SvCtx) (c : Cmd) (r : SvRow) (y : SvCtx) : Prop :=
  y.tokens = x.tokens + 1 ∧ x.grains <+: y.grains ∧
    (y.grains.drop x.grains.length).map Grain.expert = (x.select c r).1.map Prod.fst ∧
    ∀ z ∈ y.rows, z.slot = r.slot → z.token = r.token → z.chosen = true

theorem SvCtx.processed_of {x y : SvCtx} {c : Cmd} {r : SvRow} {gs : List Grain} (htokens : y.tokens = x.tokens + 1)
    (hgrains : y.grains = x.grains ++ gs) (hgs : gs.map Grain.expert = (x.select c r).1.map Prod.fst)
    (hrows : y.rows = mapIf (fun z => z.slot == r.slot && z.token == r.token) (fun z => { z with chosen := true }) x.rows) :
    x.processed c r y := by
  refine ⟨htokens, ⟨gs, hgrains.symm⟩, ?_, fun z hz hs ht => ?_⟩
  · rw [hgrains, List.drop_left, hgs]
  · rw [hrows, mapIf, List.mem_map] at hz
    obtain ⟨y, _, rfl⟩ := hz
    by_cases h : (y.slot == r.slot && y.token == r.token) = true
    · rw [if_pos h]
    · rw [if_neg h] at hs ht ⊢
      exact absurd (by simp [hs, ht]) h

theorem selectToken_leads (d : Dev) {c : Cmd} {x : SvCtx} (r : SvRow) (hx : d.sv? x.ctx = some x) :
    Op.leads (fun e => e.engines = d.engines) (selectToken c x r) (fun _ e => ∃ y, e.sv? x.ctx = some y ∧ x.processed c r y) := by
  unfold selectToken
  split
  next picks exits nans hsel =>
  extract_lets grains rest2 rest
  have hgrains : grains.map Grain.expert = (x.select c r).1.map Prod.fst := by
    rw [hsel, List.map_map]
    exact (List.map_map (l := picks.zipIdx) (f := Prod.fst) (g := Prod.fst)).symm.trans
      (congrArg (List.map Prod.fst) (List.zipIdx_map_fst ..))
  have hrest2 : ∀ a : SvCtx × List Grain × Nat, a.1.ctx = x.ctx → a.2.1.map Grain.expert = grains.map Grain.expert →
      Op.leads (fun e => e.engines = d.engines) (rest2 a) (fun _ e => ∃ y, e.sv? x.ctx = some y ∧ x.processed c r y) := by
    intro a hctx hgs
    unfold rest2
    split
    next x' gs miss =>
    extract_lets passes y rest3
    have hrest3 : Op.leads (fun e => e.engines = d.engines) (rest3 ()) (fun _ e => ∃ y, e.sv? x.ctx = some y ∧ x.processed c r y) := by
      unfold rest3
      refine .step (.act fun _ => Dev.addF_engines ..) fun _ => ?_
      refine .step (.act fun _ => Dev.addF_engines ..) fun _ => .step (.engines_of_beside (sieveWrite_beside ..)) fun _ => ?_
      refine .step (spillRuns_engines ..) fun runs => .act fun e he => ⟨_, Dev.sv?_updSv (x := x) (fun _ _ => hctx) ?_,
        SvCtx.processed_of rfl rfl (hgs.trans hgrains) rfl⟩
      unfold Dev.sv? at *
      rw [Dev.engines_sv he]
      exact hx
    split
    · exact .step (.act fun _ => Dev.postCmd_engines ..) fun _ => hrest3
    · exact hrest3
  clear_value rest2
  have hrest : Op.leads (fun e => e.engines = d.engines) (rest ()) (fun _ e => ∃ y, e.sv? x.ctx = some y ∧ x.processed c r y) := by
    unfold rest
    refine .step (.act fun _ => Dev.addF_engines ..) fun _ => ?_
    split
    · exact .step .get fun e => .pure_bind (hrest2 _ rfl List.map_map)
    · refine .step_with (fillAll_engines ..) (fillAll_leads ..) fun ⟨x', gs, miss⟩ ha => .pure_bind (hrest2 _ ha.1 ?_)
      dsimp only
      split
      · exact (renormalise_experts _).trans ha.2
      · exact ha.2
  split
  · exact .step (.act fun _ => Dev.postCmd_engines ..) fun _ => hrest
  · exact hrest

/-! ## Score tiles -/

/-- A failure that a command's engine reports: the command has a cause, one report is held, and nothing else is touched. -/
theorem Dev.failReport_told (d : Dev) {id : Nat} {c : Cmd} (j : Nat) (st : Status) (code : Code) (hc : d.cmd? id = some c)
    (hrun : c.running = true) : Dev.failMoves d (d.failReport id j st code) ∧ (d.failReport id j st code).failed id ∧
      d.posted (d.failReport id j st code) code (fun r => r.status = st.num) :=
  ⟨(Dev.failMoves.postCmd ..).trans (.updCmd ..),
    Dev.failed_failPart j st (Dev.live_of_kept (d.postCmd_kept ..) (Dev.live_of_running hc hrun)),
    (d.postCmd_posted code st.num 0 0 0 hc).mono fun _ h => h.1⟩

theorem SvCtx.take_keeps {x y : SvCtx} {stage i : Nat} {t : ScoreTile} (h : x.take stage t i = .ok y) :
    y.ctx = x.ctx ∧ y.id = x.id ∧ y.tokens = x.tokens := by
  simp only [SvCtx.take] at h
  repeat' split at h
  all_goals cases h
  all_goals exact ⟨rfl, rfl, rfl⟩

theorem SvCtx.takeAll_keeps {x y : SvCtx} {stage : Nat} {t : ScoreTile} {is : List Nat} (h : x.takeAll stage t is = .ok y) :
    y.ctx = x.ctx ∧ y.id = x.id ∧ y.tokens = x.tokens := by
  induction is generalizing x with
  | nil =>
    cases h
    exact ⟨rfl, rfl, rfl⟩
  | cons i is ih =>
    unfold SvCtx.takeAll at h
    split at h
    · cases h
    · next z hz =>
      obtain ⟨hctx, hid, htokens⟩ := take_keeps hz
      obtain ⟨hctx', hid', htokens'⟩ := ih h
      exact ⟨hctx'.trans hctx, hid'.trans hid, htokens'.trans htokens⟩

/-- A tile is refused; or its context takes it with all of its rows, unless the LAYER's last tile leaves a gap. -/
theorem Dev.scoreTile_cases {d m : Dev} {k id : Nat} {c : Cmd} {x : SvCtx} {t : ScoreTile} (hc : d.cmd? id = some c)
    (hrun : c.running = true) (hid : x.id = id) (hx : d.sv? k = some x) (hload : x.loaded = true)
    (ht : d.arr.scores.find? (fun t => c.pair == some t.layer) = some t)
    (hm : ({ d with arr := { d.arr with scores := d.arr.scores.erase t } } : Dev).addF .SV_TILES_TILES 1 = m) :
    (∃ code, x.takeAll c.stage t (List.range t.rows) = .error code ∧ d.scoreTile k = m.failReport id 0 .faultData code) ∨
    ∃ y z o, x.takeAll c.stage t (List.range t.rows) = .ok y ∧ o = { m with sv := o.sv } ∧ o.sv? k = some z ∧ z.rows = y.rows ∧
      z.tokens = x.tokens ∧ d.scoreTile k = if m.scoresDone c y && y.gap c.stage then
        o.failReport id 0 .faultData .SV_SCORE_GAP else o := by
  have hk : x.ctx = k := by simpa using List.find?_some hx
  have hmx : m.sv? k = some x := by rw [← hm]; exact hx
  simp only [Dev.scoreTile, hx, hid, hc, hrun, hload, ht, hm, Bool.not_true, Bool.or_self, Bool.false_eq_true, if_false]
  clear hm
  cases hta : x.takeAll c.stage t (List.range t.rows) with
  | error code => exact .inl ⟨code, rfl, rfl⟩
  | ok y =>
    obtain ⟨hctx, hyid, htokens⟩ := SvCtx.takeAll_keeps hta
    have hy : (m.updSv k (fun _ => y)).sv? k = some y := Dev.sv?_updSv (fun _ _ => hctx.trans hk) hmx
    have hdone : (m.updSv k (fun _ => y)).scoresDone c y = m.scoresDone c y := rfl
    refine .inr ⟨y, ?_⟩
    dsimp only
    rw [hdone, hyid, hid]
    cases m.scoresDone c y with
    | false => exact ⟨y, _, rfl, rfl, hy, rfl, htokens, rfl⟩
    | true => exact ⟨_, _, rfl, rfl, Dev.sv?_updSv (g := fun x => { x with last := true }) (fun _ h => h) hy, rfl, htokens, rfl⟩

theorem scoreTile_completes {s : State} (hstall : s.dev.stalled = false) {k : Fin 2} {id : Nat} {c : Cmd} {x : SvCtx}
    (hc : s.dev.cmd? id = some c) (hrun : c.running = true) (hid : x.id = id) (hx : s.dev.sv? x.ctx = some x) (hk : x.ctx = k)
    (hload : x.loaded = true) {t : ScoreTile} (ht : s.dev.arr.scores.find? (fun t => c.pair == some t.layer) = some t) {d : Dev}
    (hd : { s.dev with arr := { s.dev.arr with scores := s.dev.arr.scores.erase t } } = d) :
    Completes (.scoreTile k) s (fun e =>
      e.arr = d.arr ∧ s.dev.bumped e .SV_TILES_TILES 1 ∧ e.mem = s.dev.mem ∧ s.dev.noneEnds e ∧
      (∀ y, x.takeAll c.stage t (List.range t.rows) = .ok y →
        (∃ z, e.sv? k = some z ∧ z.rows = y.rows ∧ z.tokens = x.tokens) ∧
        ((d.scoresDone c y && y.gap c.stage) = false → e.cmds = s.dev.cmds ∧ e.link = s.dev.link) ∧
        ((d.scoresDone c y && y.gap c.stage) = true → e.failed id ∧
          s.dev.posted e .SV_SCORE_GAP (fun r => r.status = Status.faultData.num))) ∧
      (∀ code, x.takeAll c.stage t (List.range t.rows) = .error code →
        e.failed id ∧ s.dev.posted e code (fun r => r.status = Status.faultData.num) ∧ e.sv = s.dev.sv)) := by
  refine Completes.of_engine (g := fun d => d.scoreTile k) rfl hstall ?_
  have hends := Dev.noneEnds_of_kept ((Dev.settle_kept _).trans (s.dev.scoreTile_kept k))
  have hdone : ∀ y, (d.addF .SV_TILES_TILES 1).scoresDone c y = d.scoresDone c y := fun _ => rfl
  have hframe : ∀ o : Dev, o = { (d.addF .SV_TILES_TILES 1) with sv := o.sv } → o.arr = d.arr ∧ s.dev.bumped o .SV_TILES_TILES 1 ∧
      o.mem = s.dev.mem ∧ o.cmds = s.dev.cmds ∧ o.link = s.dev.link ∧ o.count = s.dev.count := by
    intro o ho
    rw [ho, ← hd]
    exact ⟨rfl, Dev.bumped_addF _ .SV_TILES_TILES 1 0 0 (by decide), rfl, rfl, rfl, Dev.count_setF _ .SV_TILES_TILES _ 0 0 (by decide)⟩
  have hfail : ∀ (o : Dev) (code : Code), o = { (d.addF .SV_TILES_TILES 1) with sv := o.sv } →
      let e := (o.failReport id 0 .faultData code).settle
      e.arr = d.arr ∧ s.dev.bumped e .SV_TILES_TILES 1 ∧ e.mem = s.dev.mem ∧ e.sv = o.sv ∧ e.failed id ∧
        s.dev.posted e code (fun r => r.status = Status.faultData.num) := by
    intro o code ho
    obtain ⟨harr, hb, hmem, hcmds, hlink, hcount⟩ := hframe o ho
    have hoc : o.cmd? id = some c := by
      unfold Dev.cmd?
      rw [hcmds]
      exact hc
    obtain ⟨hmoves, hfailed, hposted⟩ := o.failReport_told 0 .faultData code hoc hrun
    have hf := hmoves.f .SV_TILES_TILES 0 0 (by decide)
    generalize o.failReport id 0 .faultData code = e at *
    exact ⟨(Dev.engines_arr hmoves.engines).trans harr, hf.trans hb, hmoves.mem.trans hmem, hmoves.sv, hfailed,
      Dev.posted_congr hlink hcount rfl hposted⟩
  rcases Dev.scoreTile_cases (m := d.addF .SV_TILES_TILES 1) hc hrun hid (hk ▸ hx) hload ht (by rw [hd]) with
    ⟨code, hta, hrow⟩ | ⟨y, z, o, hta, ho, hz, hrows, htokens, hrow⟩
  · obtain ⟨harr, hb, hmem, hsv, hfailed, hposted⟩ := hfail (d.addF .SV_TILES_TILES 1) code rfl
    rw [hrow] at hends ⊢
    generalize ((d.addF .SV_TILES_TILES 1).failReport id 0 .faultData code).settle = e at *
    refine ⟨harr, hb, hmem, hends, fun y hy => ?_, fun code' hc' => ?_⟩
    · rw [hta] at hy
      cases hy
    · rw [hta] at hc'
      cases hc'
      exact ⟨hfailed, hposted, hsv.trans (by rw [← hd]; rfl)⟩
  · have hif : ∀ b : Bool,
        let e := (if b then o.failReport id 0 .faultData .SV_SCORE_GAP else o).settle
        e.arr = d.arr ∧ s.dev.bumped e .SV_TILES_TILES 1 ∧ e.mem = s.dev.mem ∧ e.sv = o.sv ∧
          (b = false → e.cmds = s.dev.cmds ∧ e.link = s.dev.link) ∧
          (b = true → e.failed id ∧ s.dev.posted e .SV_SCORE_GAP (fun r => r.status = Status.faultData.num)) := by
      intro b
      cases b with
      | false =>
        obtain ⟨harr, hb, hmem, hcmds, hlink, _⟩ := hframe o ho
        exact ⟨harr, hb, hmem, rfl, fun _ => ⟨hcmds, hlink⟩, by rintro ⟨⟩⟩
      | true =>
        obtain ⟨harr, hb, hmem, hsv, hfailed⟩ := hfail o .SV_SCORE_GAP ho
        exact ⟨harr, hb, hmem, hsv, by rintro ⟨⟩, fun _ => hfailed⟩
    rw [hrow, hdone] at hends ⊢
    obtain ⟨harr, hb, hmem, hsv, hquiet, hgap⟩ := hif (d.scoresDone c y && y.gap c.stage)
    generalize (if (d.scoresDone c y && y.gap c.stage) = true then o.failReport id 0 .faultData .SV_SCORE_GAP else o).settle = e at *
    refine ⟨harr, hb, hmem, hends, fun y' hy' => ?_, fun code hcode => ?_⟩
    · obtain rfl : y = y' := by simpa using hta.symm.trans hy'
      refine ⟨⟨z, ?_, hrows, htokens⟩, hquiet, hgap⟩
      unfold Dev.sv? at *
      rw [hsv]
      exact hz
    · rw [hta] at hcode
      cases hcode

end Sys2Proof.Machine
end

section
/-! PROOFS. The rows of the Sieve's selection and its tail (R81 to R91; settles O45). -/

namespace Sys2Proof.Machine

/-! ## TOKEN_SELECT -/

theorem tokenSelect_completes {s : State} (hstall : s.dev.stalled = false) {k : Fin 2} {id : Nat} {c : Cmd} {x : SvCtx}
    (hc : s.dev.cmd? id = some c) (hrun : c.running = true) (hid : x.id = id) (hx : s.dev.sv? x.ctx = some x) (hk : x.ctx = k)
    (hload : x.loaded = true) {t : Nat × Nat} {r : SvRow} (ht : ((x.order c.stage).drop x.tokens).head? = some t)
    (hr : x.rows.find? (fun r => r.slot == t.1 && r.token == t.2 && !r.chosen) = some r) (hcomplete : x.complete c.stage r = true) :
    (Op.succeeds s.dev (selectToken c x r) = true → Completes (.tokenSelect k) s (fun e => s.dev.noneEnds e ∧
      ∃ y, e.sv? k = some y ∧ y.tokens = x.tokens + 1 ∧ x.grains <+: y.grains ∧
        (y.grains.drop x.grains.length).map Grain.expert = (x.select c r).1.map Prod.fst ∧
        (∀ z ∈ y.rows, z.slot = t.1 → z.token = t.2 → z.chosen = true))) ∧
    (Op.succeeds s.dev (selectToken c x r) = false →
      Completes (.tokenSelect k) s (fun e => s.dev.noneEnds e ∧ e.failed id)) := by
  have hrow : s.dev.tokenSelect k = s.dev.work id 0 (selectToken c x r) := by
    simp [Dev.tokenSelect, (hk ▸ hx : s.dev.sv? k = some x), hid, hc, hrun, hload, ht, hr, hcomplete]
  have hends : s.dev.noneEnds (s.dev.work id 0 (selectToken c x r)).settle :=
    Dev.noneEnds_of_kept ((Dev.settle_kept _).trans (s.dev.work_kept (selectToken_keeps c x r)))
  refine ⟨fun hs => Completes.of_engine (g := fun d => d.tokenSelect k) rfl hstall ?_,
    fun hs => Completes.of_engine (g := fun d => d.tokenSelect k) rfl hstall ?_⟩
  · rw [hrow]
    refine ⟨hends, ?_⟩
    obtain ⟨y, hy, htokens, hgrains, hexperts, hrows⟩ := Dev.work_leads (id := id) (j := 0) (selectToken_leads s.dev r hx) rfl hs
    generalize s.dev.work id 0 (selectToken c x r) = e at *
    have hrt := List.find?_some hr
    simp only [Bool.and_eq_true, beq_iff_eq] at hrt
    obtain ⟨⟨hslot, htoken⟩, _⟩ := hrt
    exact ⟨y, hk ▸ hy, htokens, hgrains, hexperts, fun z hz h1 h2 => hrows z hz (h1.trans hslot.symm) (h2.trans htoken.symm)⟩
  · rw [hrow]
    exact ⟨hends, Dev.failed_work_kept 0 (selectToken_keeps c x r) (selectToken_causes c x r) (Dev.live_of_running hc hrun) hs⟩

/-! ## SIEVE_TAIL -/

theorem sieveTail_leads (d : Dev) {c : Cmd} {x : SvCtx} (hx : d.sv? x.ctx = some x) :
    Op.leads (fun e => e.beside = d.beside) (sieveTail c x) (fun _ e => e.cmds = d.cmds ∧
      ∃ y, e.sv? x.ctx = some y ∧ y.tailDone = true ∧ y.grains = x.grains) := by
  unfold sieveTail
  refine .step (.forM (fun b => .bind (.mem fun _ => rfl) fun _ => .pure _) _) fun _ => ?_
  extract_lets idx
  refine .step .get fun d1 => ?_
  extract_lets own ranks dirs
  refine .step .get fun d2 => ?_
  extract_lets t
  have hend : Op.leads (fun e => e.beside = d.beside)
      (Op.act (fun d => (d.addF .SV_SORTED_SORTED idx.length).updSv x.ctx (fun x =>
        { x with tailDone := true, dirs := dirs.map (fun e => (e.rank, e.count)) })))
      (fun _ e => e.cmds = d.cmds ∧ ∃ y, e.sv? x.ctx = some y ∧ y.tailDone = true ∧ y.grains = x.grains) := by
    refine .act fun e he => ⟨(Dev.beside_cmds he :), _, Dev.sv?_updSv (x := x) (fun _ h => h) ?_, rfl, rfl⟩
    unfold Dev.sv? at *
    rw [← hx, ← Dev.engines_sv (Dev.engines_of_beside he)]
    rfl
  refine .step (sieveWrite_beside ..) fun _ => ?_
  split
  · exact .step (sieveWrite_beside ..) fun _ => hend
  · exact .pure_bind hend

theorem sieveTail_completes {s : State} (hstall : s.dev.stalled = false) {k : Fin 2} {id : Nat} {c : Cmd} {x : SvCtx}
    (hc : s.dev.cmd? id = some c) (hrun : c.running = true) (hid : x.id = id) (hx : s.dev.sv? x.ctx = some x) (hk : x.ctx = k)
    (hload : x.loaded = true) (hnew : x.tailDone = false) (hdone : s.dev.scoresDone c x = true) :
    (x.gap c.stage = true → Completes (.sieveTail k) s (fun e => s.dev.noneEnds e ∧ e.failed id ∧
      s.dev.posted e .SV_SCORE_GAP (fun r => r.status = Status.faultData.num) ∧ e.mem = s.dev.mem)) ∧
    ((x.order c.stage).length = x.tokens →
      (Op.succeeds s.dev (Sys2Proof.Machine.sieveTail c x) = true → Completes (.sieveTail k) s (fun e =>
        s.dev.noneEnds e ∧ e.cmds = s.dev.cmds ∧ ∃ y, e.sv? k = some y ∧ y.tailDone = true ∧ y.grains = x.grains)) ∧
      (Op.succeeds s.dev (Sys2Proof.Machine.sieveTail c x) = false →
        Completes (.sieveTail k) s (fun e => s.dev.noneEnds e ∧ e.failed id))) := by
  have hxk : s.dev.sv? k = some x := hk ▸ hx
  have hends := Dev.noneEnds_of_kept ((Dev.settle_kept _).trans (s.dev.sieveTail_kept k))
  refine ⟨fun hgap => Completes.of_engine (g := fun d => d.sieveTail k) rfl hstall ?_, fun hall => ?_⟩
  · have hrow : s.dev.sieveTail k = s.dev.failReport id 0 .faultData .SV_SCORE_GAP := by
      simp [Dev.sieveTail, hxk, hid, hc, hrun, hload, hnew, hdone, hgap]
    rw [hrow] at hends ⊢
    obtain ⟨hmoves, hfailed, hposted⟩ := s.dev.failReport_told 0 .faultData .SV_SCORE_GAP hc hrun
    generalize s.dev.failReport id 0 .faultData .SV_SCORE_GAP = e at *
    exact ⟨hends, hfailed, hposted, hmoves.mem⟩
  · have hgap : x.gap c.stage = false := by simp [SvCtx.gap, ← hall]
    have hrow : s.dev.sieveTail k = s.dev.work id 0 (Sys2Proof.Machine.sieveTail c x) := by
      simp [Dev.sieveTail, hxk, hid, hc, hrun, hload, hnew, hdone, hgap, hall]
    rw [hrow] at hends
    refine ⟨fun hs => Completes.of_engine (g := fun d => d.sieveTail k) rfl hstall ?_,
      fun hs => Completes.of_engine (g := fun d => d.sieveTail k) rfl hstall ?_⟩
    · rw [hrow]
      have h := Dev.work_leads (id := id) (j := 0) (sieveTail_leads s.dev hx) rfl hs
      generalize s.dev.work id 0 (Sys2Proof.Machine.sieveTail c x) = e at *
      exact ⟨hends, hk ▸ h⟩
    · rw [hrow]
      exact ⟨hends, Dev.failed_work_kept 0 (sieveTail_keeps c x) (sieveTail_causes c x) (Dev.live_of_running hc hrun) hs⟩

/-- Settles O45: the load, the tiles, the tokens and the tail of a SIEVE. -/
theorem sieveCommandsAct : Obligations.SieveCommandsAct := by
  unfold Obligations.SieveCommandsAct
  exact fun s id c x hc hrun hid hx hstall => ⟨fun hfind hnew => sieve_completes hstall hc hrun hx hfind hnew,
    fun k hk hload => ⟨fun t ht => scoreTile_completes hstall hc hrun hid hx hk hload ht rfl,
      fun t r ht hr hcomplete => tokenSelect_completes hstall hc hrun hid hx hk hload ht hr hcomplete,
      fun hnew hdone => sieveTail_completes hstall hc hrun hid hx hk hload hnew hdone⟩⟩

end Sys2Proof.Machine
end

section
/-! PROOFS. The copy engine's work: COPY and COPY_STREAM (R211, R233, R234; O49). -/

namespace Sys2Proof.Machine

/-! ## Whole versions -/

@[simp] theorem readImages_unread (v : Version) : Op.keeps Dev.unread (readImages v) := .mapM (fun m => readMember_unread v m) _

@[simp] theorem copyImages_beside (imgs : List (List Byte)) (dst : Version) : Op.keeps Dev.beside (copyImages imgs dst) := by
  unfold copyImages
  split
  · split
    · exact .forM (fun m => .mem fun d => d.verWriteM_beside ..) _
    · exact writeMatrix_beside ..
  · exact .bind (need_unread ..).beside_of_unread fun _ => wr_beside ..

@[simp] theorem copyVersion_beside (src dst : Version) : Op.keeps Dev.beside (copyVersion src dst) :=
  .bind (readImages_unread src).beside_of_unread fun imgs => copyImages_beside imgs dst

/-! ## COPY -/

section
variable {d e : Dev} {id : Nat} {c : Cmd}

theorem Dev.cmd?_of_beside (h : e.beside = d.beside) : e.cmd? id = d.cmd? id := by
  unfold Dev.cmd?
  rw [Dev.beside_cmds h]

theorem Dev.finish_of_beside (hc : d.cmd? id = some c) (he : e.beside = d.beside) :
    (e.finish id).readied id ∧ (e.finish id).out = d.out ∧ (e.finish id).link = d.link :=
  ⟨Dev.readied_finish ((Dev.cmd?_of_beside he).trans hc), (congrArg Dev.out (Dev.beside_rest he) :), (Dev.beside_link he :)⟩

theorem copyObject_leads (hc : d.cmd? id = some c) : Op.leads (fun e => e.beside = d.beside) (copyObject id c)
    (fun _ e => e.readied id ∧ e.out = d.out ∧ e.link = d.link) := by
  unfold copyObject
  exact .step (inVer_unread ..).beside_of_unread fun src => .step (outVer_unread ..).beside_of_unread fun dst =>
    .step (need_unread ..).beside_of_unread fun _ => .step (copyVersion_beside ..) fun _ =>
      .act fun e he => Dev.finish_of_beside hc he

theorem copyIn_leads (data : List Byte) (hc : d.cmd? id = some c) : Op.leads (fun e => e.beside = d.beside) (copyIn id c data)
    (fun _ e => e.readied id ∧ e.link = d.link) := by
  unfold copyIn
  exact .step (outVer_unread ..).beside_of_unread fun dst => .step (copyImages_beside ..) fun _ =>
    .act fun e he => ⟨(Dev.finish_of_beside hc he).1, (Dev.finish_of_beside hc he).2.2⟩

theorem copyIn_out (data : List Byte) : Op.keeps Dev.out (copyIn id c data) := by
  have hout : ∀ {α : Type} {m : Op α}, Op.keeps Dev.beside m → Op.keeps Dev.out m :=
    fun h => ⟨fun d => (congrArg Dev.out (Dev.beside_rest (h.after d)) :)⟩
  exact .bind (hout (outVer_unread ..).beside_of_unread) fun dst => .bind (hout (copyImages_beside ..)) fun _ => .act fun _ => rfl

theorem copyOut_leads (hc : d.cmd? id = some c) : Op.leads (fun e => e.unread = d.unread) (copyOut id c)
    (fun _ e => e.readied id ∧ ∃ bs, e.out = d.out ++ memWrites c.copyHost bs) := by
  unfold copyOut
  refine .step (inVer_unread ..) fun src => .step (readWhole_unread ..) fun bs => .act fun e he => ?_
  have hb := Dev.beside_of_unread he
  refine ⟨Dev.readied_finish (c := c) ?_, bs, ?_⟩
  · rw [e.emitWrite_eq]
    exact (Dev.cmd?_of_beside hb).trans hc
  · have hout : e.out = d.out := (congrArg Dev.out (Dev.beside_rest hb) :)
    rw [e.emitWrite_eq, ← hout]
    rfl

theorem copyOut_throws : Op.throws (fun e => e.unread = d.unread) (copyOut id c) (fun e => e.unread = d.unread) := by
  unfold copyOut
  exact .step (inVer_unread ..) fun src => .step (readWhole_unread ..) fun bs => .act _

/-- The bytes of HBM and of the slabs. -/
def Dev.stored (d : Dev) := (d.mem.hbm, d.mem.slab)

theorem Dev.stored_of_unread (h : e.unread = d.unread) : e.stored = d.stored := (congrArg Dev.stored (Dev.unread_rest h) :)

theorem copyOut_stored : Op.keeps Dev.stored (copyOut id c) := by
  have hs : ∀ {α : Type} {m : Op α}, Op.keeps Dev.unread m → Op.keeps Dev.stored m :=
    fun h => ⟨fun d => Dev.stored_of_unread (h.after d)⟩
  exact .bind (hs (inVer_unread ..)) fun src => .bind (hs (readWhole_unread ..)) fun bs => .act fun d => by rw [d.emitWrite_eq]; rfl

end

theorem copy_object {s : State} (hstall : s.dev.stalled = false) {id : Nat} {c : Cmd} (data : List Byte) (hc : s.dev.cmd? id = some c)
    (hrun : c.running = true) (hnew : c.ready = false) (hop : c.opcode = 7) (hmode : c.mode = 0) :
    Completes (.copy id data) s (fun e => s.dev.noneEnds e ∧
      (Op.succeeds s.dev (copyObject id c) = true → e.readied id ∧ e.out = s.dev.out ∧ e.link = s.dev.link) ∧
      (Op.succeeds s.dev (copyObject id c) = false → e.failed id)) := by
  refine Completes.of_engine (g := fun d => d.copy id data) rfl hstall ?_
  have hends := Dev.noneEnds_of_kept ((Dev.settle_kept _).trans (s.dev.copy_kept id data))
  have hrow : s.dev.copy id data = s.dev.work id 0 (copyObject id c) := by simp [Dev.copy, hc, hrun, hnew, hop, hmode]
  rw [hrow] at hends ⊢
  refine ⟨hends, fun hs => ?_,
    Dev.failed_work_kept 0 (copyObject_keeps id c) (copyObject_causes id c) (Dev.live_of_running hc hrun)⟩
  have h := Dev.work_leads (id := id) (j := 0) (copyObject_leads hc) rfl hs
  generalize s.dev.work id 0 (copyObject id c) = e at *
  exact h

theorem copy_in {s : State} (hstall : s.dev.stalled = false) {id : Nat} {c : Cmd} {data : List Byte} (hc : s.dev.cmd? id = some c)
    (hrun : c.running = true) (hnew : c.ready = false) (hop : c.opcode = 7) (hmode : c.mode = 1) (hhost : s.dev.canWriteHost = true)
    (hlen : data.length = c.copyNeeds) {asked : Dev} (hasked : s.dev.emitRead c.copyHost data.length = asked) :
    Completes (.copy id data) s (fun e => s.dev.noneEnds e ∧ e.out = s.dev.out ++ memReads c.copyHost data.length ∧
      (Op.succeeds asked (copyIn id c data) = true → e.readied id ∧ e.link = s.dev.link) ∧
      (Op.succeeds asked (copyIn id c data) = false → e.failed id)) := by
  refine Completes.of_engine (g := fun d => d.copy id data) rfl hstall ?_
  have hends := Dev.noneEnds_of_kept ((Dev.settle_kept _).trans (s.dev.copy_kept id data))
  have hrow : s.dev.copy id data = asked.work id 0 (copyIn id c data) := by
    simp [Dev.copy, hc, hrun, hnew, hop, hmode, hhost, hlen, ← hasked]
  have hout : (asked.work id 0 (copyIn id c data)).out = asked.out :=
    Dev.work_frame (copyIn_out data) (fun e x => (Dev.failMoves.failWith e id 0 x).out)
  rw [s.dev.emitRead_eq] at hasked
  have hac : asked.cmd? id = some c := by rw [← hasked]; exact hc
  rw [hrow] at hends ⊢
  refine ⟨hends, hout.trans (by rw [← hasked]), fun hs => ?_,
    Dev.failed_work_kept 0 (copyIn_keeps id c data) (copyIn_causes id c data) (Dev.live_of_running hac hrun)⟩
  have h := Dev.work_leads (id := id) (j := 0) (copyIn_leads data hac) rfl hs
  generalize asked.work id 0 (copyIn id c data) = e at *
  exact ⟨h.1, h.2.trans (by rw [← hasked])⟩

theorem copy_out {s : State} (hstall : s.dev.stalled = false) {id : Nat} {c : Cmd} (data : List Byte) (hc : s.dev.cmd? id = some c)
    (hrun : c.running = true) (hnew : c.ready = false) (hop : c.opcode = 7) (hmode : c.mode = 2) (hhost : s.dev.canWriteHost = true) :
    Completes (.copy id data) s (fun e => s.dev.noneEnds e ∧ e.mem.hbm = s.dev.mem.hbm ∧ e.mem.slab = s.dev.mem.slab ∧
      (Op.succeeds s.dev (copyOut id c) = true → e.readied id ∧ ∃ bs, e.out = s.dev.out ++ memWrites c.copyHost bs) ∧
      (Op.succeeds s.dev (copyOut id c) = false → e.failed id ∧ e.out = s.dev.out)) := by
  refine Completes.of_engine (g := fun d => d.copy id data) rfl hstall ?_
  have hends := Dev.noneEnds_of_kept ((Dev.settle_kept _).trans (s.dev.copy_kept id data))
  have hrow : s.dev.copy id data = s.dev.work id 0 (copyOut id c) := by simp [Dev.copy, hc, hrun, hnew, hop, hmode, hhost]
  have hstored : (s.dev.work id 0 (copyOut id c)).stored = s.dev.stored :=
    Dev.work_frame copyOut_stored (fun e x => congrArg (fun m : MemSt => (m.hbm, m.slab)) (Dev.failMoves.failWith e id 0 x).mem)
  rw [hrow] at hends ⊢
  refine ⟨hends, congrArg Prod.fst hstored, congrArg Prod.snd hstored, fun hs => ?_, fun hs =>
    ⟨Dev.failed_work_kept 0 (copyOut_keeps id c) (copyOut_causes id c) (Dev.live_of_running hc hrun) hs, ?_⟩⟩
  · have h := Dev.work_leads (id := id) (j := 0) (copyOut_leads hc) rfl hs
    generalize s.dev.work id 0 (copyOut id c) = e at *
    exact h
  · obtain ⟨y, e, hu, he⟩ := Dev.work_throws (id := id) (j := 0) (copyOut_throws (d := s.dev) (id := id) (c := c)) rfl hs
    rw [he, Dev.settle_out, (Dev.failMoves.failWith e id 0 y).out]
    exact (congrArg Dev.out (Dev.beside_rest (Dev.beside_of_unread hu)) :)

end Sys2Proof.Machine
end

section
/-! PROOFS. Streams, placements and program images (R208, R233, R234, R367; settles O49). -/

namespace Sys2Proof.Machine

/-! ## COPY_STREAM -/

section
variable {d e : Dev} {id : Nat} {c : Cmd}

/-- Where a stream's billets are at the Switch Core's port: the command has passed its part, and is ready once all are accepted. -/
def Dev.streams (e : Dev) (id : Nat) : Prop := ∃ k, e.cmd? id = some k ∧ k.passed = [0] ∧ (e.accepted id 0 = true → k.ready = true)

theorem Dev.streams_finish {k : Cmd} (hk : e.cmd? id = some k) (hpassed : k.passed = [0]) :
    (if e.accepted id 0 then e.finish id else e).streams id := by
  by_cases h : e.accepted id 0 = true
  · rw [if_pos h]
    exact ⟨_, Dev.cmd?_updCmd_some (fun k => { k with ready := true }) hk (fun _ => rfl), hpassed, fun _ => rfl⟩
  · rw [if_neg h]
    exact ⟨k, hk, hpassed, fun h' => absurd h' h⟩

/-- A stream's billets go to the port, and nothing but the Switch Core and the command's part is touched. -/
def Dev.passStream (d : Dev) (id : Nat) (bs : List Billet) : Dev := ((d.inject 42 (some (id, 0)) bs).passPart id 0).pump

theorem Dev.passStream_moves (d : Dev) (id : Nat) (bs : List Billet) :
    ((d.inject 42 (some (id, 0)) bs).passPart id 0).switchMoves (d.passStream id bs) := .pump _

theorem Dev.passStream_cmd (bs : List Billet) (hc : d.cmd? id = some c) (hpassed : c.passed = []) :
    ∃ k, (d.passStream id bs).cmd? id = some k ∧ k.passed = [0] := by
  have hcmds : (d.passStream id bs).cmds = ((d.inject 42 (some (id, 0)) bs).passPart id 0).cmds :=
    (congrArg Dev.cmds (d.passStream_moves id bs).rest :)
  refine ⟨{ c with passed := [0] }, ?_, rfl⟩
  unfold Dev.cmd?
  rw [hcmds]
  have hpart : { c with passed := if 0 ∈ c.passed then c.passed else c.passed ++ [0] } = { c with passed := [0] } := by simp [hpassed]
  rw [← hpart]
  exact Dev.cmd?_updCmd_some (d := d.inject 42 (some (id, 0)) bs)
    (fun k => { k with passed := if 0 ∈ k.passed then k.passed else k.passed ++ [0] }) hc (fun _ => rfl)

theorem Dev.passStream_out (d : Dev) (id : Nat) (bs : List Billet) : (d.passStream id bs).out = d.out :=
  (congrArg Dev.out (d.passStream_moves id bs).rest :)

theorem streamOut_leads (data : List Byte) (hc : d.cmd? id = some c) (hpassed : c.passed = []) :
    Op.leads (fun e => e.unread = d.unread) (streamOut id c data) (fun _ e => e.streams id) := by
  unfold streamOut
  refine .step (inVer_unread ..) fun v => .step (rdNat_unread ..) fun mask => ?_
  extract_lets rest
  have hrest : ∀ bs, Op.leads (fun e => e.unread = d.unread) (rest bs) (fun _ e => e.streams id) := fun bs =>
    .bind (R := fun _ e => ∃ k, e.cmd? id = some k ∧ k.passed = [0])
      (.act fun e he => Dev.passStream_cmd _ ((Dev.cmd?_of_beside (Dev.beside_of_unread he)).trans hc) hpassed)
      fun _ => .act fun e ⟨k, hk, hp⟩ => Dev.streams_finish hk hp
  split
  · exact .pure_bind (hrest _)
  · exact .step (inVer_unread ..) fun src => .step (need_unread ..) fun _ => .step (readWhole_unread ..) fun all => .pure_bind (hrest _)

theorem Op.keeps.out_of_unread {α : Type} {m : Op α} (h : Op.keeps Dev.unread m) : Op.keeps Dev.out m :=
  ⟨fun d => (congrArg Dev.out (Dev.unread_rest (h.after d)) :)⟩

theorem streamOut_out (id : Nat) (c : Cmd) (data : List Byte) : Op.keeps Dev.out (streamOut id c data) := by
  unfold streamOut
  refine .bind (.out_of_unread (inVer_unread ..)) fun v => .bind (.out_of_unread (rdNat_unread ..)) fun mask => ?_
  extract_lets rest
  have hrest : ∀ bs, Op.keeps Dev.out (rest bs) := fun bs =>
    .bind (.act fun d => d.passStream_out id _) fun _ => .act fun d => by split <;> rfl
  split
  · exact .bind (.pure _) hrest
  · exact .bind (.out_of_unread (inVer_unread ..)) fun src => .bind (.out_of_unread (need_unread ..)) fun _ =>
      .bind (.out_of_unread (readWhole_unread ..)) fun all => .bind (.pure _) hrest

end

/-- What COPY_STREAM does with its segments. -/
theorem streamOut_works {d : Dev} {id : Nat} {c : Cmd} (data : List Byte) (hc : d.cmd? id = some c) (hrun : c.running = true)
    (hpassed : c.passed = []) : (d.work id 0 (streamOut id c data)).settle.out = d.out ∧
      (Op.succeeds d (streamOut id c data) = true → (d.work id 0 (streamOut id c data)).settle.streams id) ∧
      (Op.succeeds d (streamOut id c data) = false → (d.work id 0 (streamOut id c data)).settle.failed id) := by
  refine ⟨Dev.work_frame (streamOut_out id c data) (fun e x => (Dev.failMoves.failWith e id 0 x).out), fun hs => ?_,
    Dev.failed_work_kept 0 (streamOut_keeps id c data) (streamOut_causes id c data) (Dev.live_of_running hc hrun)⟩
  have h := Dev.work_leads (id := id) (j := 0) (streamOut_leads data hc hpassed) rfl hs
  generalize d.work id 0 (streamOut id c data) = e at *
  exact h

section
variable {s : State} {id : Nat} {c : Cmd} {data : List Byte}

theorem copyStream_host (hstall : s.dev.stalled = false) (hc : s.dev.cmd? id = some c) (hrun : c.running = true)
    (hnew : c.ready = false) (hop : c.opcode = 7) (hmode : c.mode = 3) (hpassed : c.passed = []) (hhost : s.dev.canWriteHost = true)
    (hlen : data.length = c.streamBytes) {asked : Dev} (hasked : s.dev.emitRead c.copyHost data.length = asked) :
    Completes (.copyStream id data) s (fun e => s.dev.noneEnds e ∧ e.out = s.dev.out ++ memReads c.copyHost data.length ∧
      (Op.succeeds asked (streamOut id c data) = true → e.streams id) ∧
      (Op.succeeds asked (streamOut id c data) = false → e.failed id)) := by
  refine Completes.of_engine (g := fun d => d.copyStream id data) rfl hstall ?_
  have hends := Dev.noneEnds_of_kept ((Dev.settle_kept _).trans (s.dev.copyStream_kept id data))
  have hrow : s.dev.copyStream id data = asked.work id 0 (streamOut id c data) := by
    simp [Dev.copyStream, hc, hrun, hnew, hop, hmode, hhost, hlen, hpassed, ← hasked]
  rw [s.dev.emitRead_eq] at hasked
  have hac : asked.cmd? id = some c := by rw [← hasked]; exact hc
  rw [hrow] at hends ⊢
  obtain ⟨hout, h⟩ := streamOut_works data hac hrun hpassed
  exact ⟨hends, hout.trans (by rw [← hasked]), h⟩

theorem copyStream_object (hstall : s.dev.stalled = false) (hc : s.dev.cmd? id = some c) (hrun : c.running = true)
    (hnew : c.ready = false) (hop : c.opcode = 7) (hmode : c.mode = 4) (hpassed : c.passed = []) :
    Completes (.copyStream id data) s (fun e => s.dev.noneEnds e ∧ e.out = s.dev.out ∧
      (Op.succeeds s.dev (streamOut id c data) = true → e.streams id) ∧
      (Op.succeeds s.dev (streamOut id c data) = false → e.failed id)) := by
  refine Completes.of_engine (g := fun d => d.copyStream id data) rfl hstall ?_
  have hends := Dev.noneEnds_of_kept ((Dev.settle_kept _).trans (s.dev.copyStream_kept id data))
  have hrow : s.dev.copyStream id data = s.dev.work id 0 (streamOut id c data) := by
    simp [Dev.copyStream, hc, hrun, hnew, hop, hmode, hpassed]
  rw [hrow] at hends ⊢
  exact ⟨hends, streamOut_works data hc hrun hpassed⟩

theorem copyStream_accepted (hstall : s.dev.stalled = false) (hc : s.dev.cmd? id = some c) (hrun : c.running = true)
    (hnew : c.ready = false) (hop : c.opcode = 7) (hmode : 3 ≤ c.mode) (hpassed : 0 ∈ c.passed) (hacc : s.dev.accepted id 0 = true) :
    Completes (.copyStream id data) s (fun e => e.readied id ∧ e = { s.dev with cmds := e.cmds, pins := e.pins }) := by
  refine Completes.of_engine (g := fun d => d.copyStream id data) rfl hstall ?_
  have hrow : s.dev.copyStream id data = s.dev.finish id := by
    simp [Dev.copyStream, hc, hrun, hnew, hop, Nat.not_lt.mpr hmode, hpassed, hacc]
  rw [hrow]
  exact ⟨Dev.readied_finish hc, rfl⟩

end

/-! ## PLACE -/

/-- The current versions that a PLACE moves into its new placements. -/
def Dev.placeMoves (d : Dev) (id : Nat) (c : Cmd) (l : List (Nat × ObjEntry)) : Dev :=
  l.foldl (fun d e => match c.input e.1 with
    | some v => d.work id (e.1 - c.placeRange.1) (copyVersion v ⟨c.part, e.1, e.2, 0⟩)
    | none => d) d

theorem Dev.placeMoves_kept (d : Dev) (id : Nat) (c : Cmd) (l : List (Nat × ObjEntry)) :
    (d.placeMoves id c l).kept = d.kept ∧ (d.placeMoves id c l).mem.places = d.mem.places := by
  induction l generalizing d with
  | nil => exact ⟨rfl, rfl⟩
  | cons x l ih =>
    have hone : ∀ v, (d.work id (x.1 - c.placeRange.1) (copyVersion v ⟨c.part, x.1, x.2, 0⟩)).mem.places = d.mem.places := fun v =>
      Dev.work_frame (π := fun d => d.mem.places)
        ⟨fun d => (congrArg (fun m : Dev => m.mem.places) (Dev.beside_rest ((copyVersion_beside ..).after d)) :)⟩
        (fun e y => congrArg MemSt.places (Dev.failMoves.failWith e _ _ y).mem)
    unfold placeMoves at ih ⊢
    rw [List.foldl_cons]
    cases c.input x.1 with
    | none => exact ih d
    | some v => exact ⟨(ih _).1.trans (d.work_kept (copyVersion_keeps ..)), (ih _).2.trans (hone v)⟩

theorem place_completes {s : State} {id : Nat} {c : Cmd} (hstall : s.dev.stalled = false) (hc : s.dev.cmd? id = some c)
    (hrun : c.running = true) (hnew : c.ready = false) (hop : c.opcode = 8) :
    Completes (.place id) s (fun e => e.readied id ∧ s.dev.noneEnds e ∧ e.mem.places = s.dev.mem.places ∧
      (c.placeMove = false → e = { s.dev with cmds := e.cmds, pins := e.pins })) := by
  refine Completes.of_engine (g := fun d => d.placeRun id) rfl hstall ?_
  have hends := Dev.noneEnds_of_kept ((Dev.settle_kept _).trans (s.dev.placeRun_kept id))
  have hrow : s.dev.placeRun id = (if !c.placeMove then s.dev else s.dev.placeMoves id c (s.dev.placesOf id)).finish id := by
    simp only [Dev.placeRun, hc, hrun, hnew, hop]
    rfl
  rw [hrow] at hends ⊢
  cases hmove : c.placeMove with
  | false => exact ⟨Dev.readied_finish hc, by rwa [hmove] at hends, rfl, fun _ => rfl⟩
  | true =>
    rw [hmove] at hends
    obtain ⟨hkept, hplaces⟩ := s.dev.placeMoves_kept id c (s.dev.placesOf id)
    obtain ⟨k, hk, _⟩ := Dev.live_of_kept hkept (Dev.live_of_running hc hrun)
    exact ⟨Dev.readied_finish hk, hends, hplaces, by rintro ⟨⟩⟩

/-! ## LOAD_PROGRAM -/

/-- What the work on commands and their failures leave of each: its parts, whether it stays at its launch, and whether it is ready. -/
def Dev.launches (d : Dev) : List (Nat × Nat × Option Nat × Bool) := d.cmds.map (fun k => (k.id, k.parts, k.heldAt, k.ready))

theorem Dev.updCmd_launches (d : Dev) (id : Nat) (g : Cmd → Cmd)
    (hg : ∀ k, (g k).id = k.id ∧ (g k).parts = k.parts ∧ (g k).heldAt = k.heldAt ∧ (g k).ready = k.ready) :
    (d.updCmd id g).launches = d.launches := by
  unfold Dev.launches Dev.updCmd mapIf
  rw [List.map_map]
  refine List.map_congr_left fun k _ => ?_
  obtain ⟨h1, h2, h3, h4⟩ := hg k
  dsimp only [Function.comp]
  split
  · rw [h1, h2, h3, h4]
  · rfl

theorem Dev.launches_of_cmds {d e : Dev} (h : e.cmds = d.cmds) : e.launches = d.launches := by
  unfold launches
  rw [h]

theorem Dev.postCmd_launches (d : Dev) (id : Nat) (c : Code) (st addr index n : Nat) :
    (d.postCmd id c st addr index n).launches = d.launches := by
  have hpost : ∀ who, (d.post c addr index who n).launches = d.launches := fun who => Dev.launches_of_cmds (Dev.post_cmds ..)
  unfold Dev.postCmd
  split
  · exact hpost _
  · refine (Dev.updCmd_launches _ id _ ?_).trans (hpost _)
    exact fun _ => ⟨rfl, rfl, rfl, rfl⟩

theorem Dev.failCmd_launches (d : Dev) (id : Nat) (st : Status) : (d.failCmd id st).launches = d.launches :=
  d.updCmd_launches id _ fun k => by split <;> exact ⟨rfl, rfl, rfl, rfl⟩

theorem Dev.setReg_launches (d : Dev) (r : Reg) (v : BitVec 64) (i j : Nat) : (d.setReg r v i j).launches = d.launches :=
  Dev.launches_of_cmds (d.setReg_cmds ..)

theorem Dev.hbmUe_launches (d : Dev) (id a : Nat) : (d.hbmUe (some id) a).launches = d.launches := by
  have hrate : ∀ m : Dev, ((m.addF .TIER_HBM_ERR_UNCORRECTABLE 1 (bits a 12 3)).rateEvent 2 (bits a 12 3) 1).launches = m.launches :=
    fun m => by
      unfold Dev.rateEvent
      dsimp only
      split
      · exact Dev.launches_of_cmds (Dev.post_cmds ..)
      · rfl
  unfold Dev.hbmUe
  dsimp only
  rw [Dev.postCmd_launches, Dev.setReg_launches]
  exact hrate d

theorem Dev.slabUe_launches (d : Dev) (id arr off : Nat) : (d.slabUe (some id) arr off).launches = d.launches := by
  unfold Dev.slabUe
  dsimp only
  rw [Dev.postCmd_launches, Dev.setReg_launches]
  exact d.setReg_launches ..

theorem Dev.xuFault_launches (d : Dev) (id p va k : Nat) (w : Bool) : (d.xuFault (some id) p va k w).launches = d.launches := by
  obtain ⟨tag, who, he⟩ := d.xuFault_eq (some id) p va k w
  have hlatch : ∀ (m : Dev) v, (m.latchXu p v tag).launches = m.launches := by
    intro m v
    unfold Dev.latchXu
    split
    · rfl
    · rw [Dev.setReg_launches, Dev.setReg_launches]
  simp only [he, Dev.tell, Option.elim_some, Dev.postCmd_launches, hlatch]
  exact d.setReg_launches ..

theorem Dev.memReport_launches (d : Dev) (id : Nat) (x : MemErr) : (d.memReport (some id) x).launches = d.launches := by
  cases x with
  | range a => exact d.postCmd_launches id ..
  | retired => rfl
  | badLine a => exact d.hbmUe_launches id a
  | badWord arr off => exact d.slabUe_launches id arr off
  | xlat p va k w => exact d.xuFault_launches id p va k w

theorem Dev.tileFails_launches (d : Dev) (id : Nat) (crc : Bool) (index : Nat) : (d.tileFails id crc index).launches = d.launches := by
  have hcount : (if crc then d.addF .SK_ERR_CRC 1 else d.addF .SK_ERR_GEOM 1).launches = d.launches := by split <;> rfl
  unfold Dev.tileFails
  dsimp only
  generalize (if crc then d.addF .SK_ERR_CRC 1 else d.addF .SK_ERR_GEOM 1) = m at *
  split
  · exact (m.failCmd_launches ..).trans hcount
  · refine (Dev.updCmd_launches _ id _ ?_).trans ?_
    · exact fun _ => ⟨rfl, rfl, rfl, rfl⟩
    · rw [Dev.failCmd_launches, Dev.postCmd_launches, hcount]

theorem Dev.failWith_launches (d : Dev) (id j : Nat) (x : Fail) : (d.failWith id j x).launches = d.launches := by
  have hpart : ∀ (e : Dev) st, (e.failPart id j st).launches = e.launches := fun e st =>
    e.updCmd_launches id _ fun k => by split_ifs <;> exact ⟨rfl, rfl, rfl, rfl⟩
  cases x with
  | mem e => exact (hpart ..).trans (d.memReport_launches id e)
  | report st c a i => exact (hpart ..).trans (d.postCmd_launches ..)
  | kill st c a i => exact (Dev.failCmd_launches ..).trans (d.postCmd_launches ..)
  | tile crc i => exact d.tileFails_launches ..
  | plain st => exact hpart ..
  | given => rfl

/-- What the entries of a program image leave as it is: what has been sent, what is fixed at a launch, and the queues' waits. -/
def Dev.loading (d : Dev) : List Out × List (Nat × Nat × Option Nat × Bool) × (Nat → Nat → BitVec 64) :=
  (d.out, d.launches, fun i j => d.reg .CMD_ACCT_WAIT i j)

theorem Dev.loading_of_beside {d e : Dev} (h : e.beside = d.beside) : e.loading = d.loading := by
  have hout : e.out = d.out := (congrArg Dev.out (Dev.beside_rest h) :)
  unfold loading
  rw [hout, Dev.launches_of_cmds (Dev.beside_cmds h),
    funext fun i => funext fun j => Dev.beside_reg h (r := .CMD_ACCT_WAIT) (by decide) i j]

theorem Dev.failWith_loading (d : Dev) (id j : Nat) (x : Fail) : (d.failWith id j x).loading = d.loading := by
  have hmoves := Dev.failMoves.failWith d id j x
  unfold loading
  rw [hmoves.out, d.failWith_launches, funext fun i => funext fun j => hmoves.reg .CMD_ACCT_WAIT i j (by decide)]

theorem loadEntry_loading (id i : Nat) (c : Cmd) (entries : List (Nat × Nat)) (data : List Byte) :
    Op.keeps Dev.loading (loadEntry id i c entries data) := by
  have hb : ∀ {α : Type} {m : Op α}, Op.keeps Dev.beside m → Op.keeps Dev.loading m := fun h => ⟨fun d => Dev.loading_of_beside (h.after d)⟩
  have hclaim : ∀ (d : Dev) x, (d.updCmd id (fun c => { c with claims := c.claims ++ [x] })).loading = d.loading := by
    intro d x
    exact congrArg (fun l => (d.out, l, fun i j => d.reg .CMD_ACCT_WAIT i j)) (d.updCmd_launches id _ fun _ => ⟨rfl, rfl, rfl, rfl⟩)
  unfold loadEntry
  refine .bind (hb (need_unread ..).beside_of_unread) fun _ => .bind (.mem fun d => rfl) fun e => .of_get fun d => ?_
  split
  · rfl
  · split
    · rfl
    · refine (Op.keeps.after_set (π := Dev.loading) ?_).trans (hclaim ..)
      exact .bind (hb (need_unread ..).beside_of_unread) fun _ => .bind (hb (need_unread ..).beside_of_unread) fun _ => hb (wr_beside ..)

/-- The entries of a program image, each one part. -/
def Dev.loadEntries (d : Dev) (id : Nat) (c : Cmd) (entries : List (Nat × Nat)) (data : List Byte) (l : List Nat) : Dev :=
  l.foldl (fun d i => d.work id i (loadEntry id i c entries data)) d

theorem Dev.loadEntries_loading (d : Dev) (id : Nat) (c : Cmd) (entries : List (Nat × Nat)) (data : List Byte) (l : List Nat) :
    (d.loadEntries id c entries data l).loading = d.loading := by
  unfold loadEntries
  induction l generalizing d with
  | nil => rfl
  | cons i l ih => exact (ih _).trans (Dev.work_frame (loadEntry_loading ..) fun e x => e.failWith_loading ..)

/-- A command's launch, found by its number. -/
theorem Dev.cmd?_of_launches {d e : Dev} {id : Nat} {c : Cmd} (h : e.launches = d.launches) (hc : d.cmd? id = some c) :
    ∃ k, e.cmd? id = some k ∧ k.parts = c.parts ∧ k.heldAt = c.heldAt ∧ k.ready = c.ready := by
  have hfind : ∀ m : Dev, m.launches.find? (fun k => k.1 == id) = (m.cmd? id).map (fun k => (k.id, k.parts, k.heldAt, k.ready)) := fun m => by
    unfold launches cmd?
    rw [List.find?_map]
    rfl
  have heq := (hfind e).symm.trans ((congrArg (List.find? (fun k => k.1 == id)) h).trans (hfind d))
  rw [hc] at heq
  obtain ⟨k, hk, hk'⟩ := Option.map_eq_some_iff.mp heq
  simp only [Prod.mk.injEq] at hk'
  exact ⟨k, hk, hk'.2⟩

theorem load_bad {s : State} {id : Nat} {c : Cmd} {data : List Byte} (hstall : s.dev.stalled = false) (hc : s.dev.cmd? id = some c)
    (hrun : c.running = true) (hnew : c.ready = false) (hop : c.opcode = 10) (hhost : s.dev.canWriteHost = true)
    (hlen : data.length = c.loadBytes) (hbad : imageEntries data = none) :
    Completes (.loadProgram id data) s (fun e => e.failed id ∧ s.dev.noneEnds e ∧
      s.dev.posted e .TIER_SIZE (fun r => r.status = Status.faultData.num) ∧ e.mem = s.dev.mem ∧
      e.out = s.dev.out ++ memReads c.loadHost data.length) := by
  refine Completes.of_engine (g := fun d => d.loadProgram id data) rfl hstall ?_
  have hrow : s.dev.loadProgram id data = (s.dev.emitRead c.loadHost data.length).failReport id 0 .faultData .TIER_SIZE := by
    have hthrow : ∀ d : Dev, d.work id 0 (throw (sizeFault 0)) = d.failReport id 0 .faultData .TIER_SIZE := fun _ => rfl
    simp [Dev.loadProgram, hc, hrun, hnew, hop, hhost, hlen, hbad, hthrow]
  rw [hrow, s.dev.emitRead_eq]
  generalize hd : ({ s.dev with out := s.dev.out ++ memReads c.loadHost data.length } : Dev) = d
  have hdc : d.cmd? id = some c := by rw [← hd]; exact hc
  have hdk : d.kept = s.dev.kept := by rw [← hd]; rfl
  have hlink : d.link = s.dev.link := by rw [← hd]
  have hcount : d.count = s.dev.count := by rw [← hd]; rfl
  have hmem : d.mem = s.dev.mem := by rw [← hd]
  have hout : d.out = s.dev.out ++ memReads c.loadHost data.length := by rw [← hd]
  clear hd
  obtain ⟨hmoves, hfailed, hposted⟩ := d.failReport_told 0 .faultData .TIER_SIZE hdc hrun
  have hkept : (d.failReport id 0 .faultData .TIER_SIZE).kept = d.kept := (Dev.failPart_kept ..).trans (Dev.postCmd_kept ..)
  generalize d.failReport id 0 .faultData .TIER_SIZE = e at *
  exact ⟨hfailed, Dev.noneEnds_of_kept ((Dev.settle_kept _).trans (hkept.trans hdk)), Dev.posted_congr hlink hcount rfl hposted,
    hmoves.mem.trans hmem, hmoves.out.trans hout⟩

section
variable {s : State} {id : Nat} {c : Cmd} {data : List Byte} {es : List (Nat × Nat)}

theorem load_waits (hstall : s.dev.stalled = false) (hc : s.dev.cmd? id = some c) (hrun : c.running = true) (hnew : c.ready = false)
    (hop : c.opcode = 10) (hhost : s.dev.canWriteHost = true) (hlen : data.length = c.loadBytes) (hes : imageEntries data = some es)
    (hwait : es.any (fun x => s.dev.loadWaits id c.part x.1) = true) :
    Completes (.loadProgram id data) s (fun e => (∃ k, e.cmd? id = some k ∧ k.heldAt = some (c.heldAt.getD s.dev.count)) ∧
      e = { s.dev with cmds := e.cmds, pins := e.pins }) := by
  refine Completes.of_engine (g := fun d => d.loadProgram id data) rfl hstall ?_
  have hrow : s.dev.loadProgram id data = s.dev.updCmd id (fun c => { c with heldAt := some (c.heldAt.getD s.dev.count) }) := by
    simp [Dev.loadProgram, hc, hrun, hnew, hop, hhost, hlen, hes, hwait]
  rw [hrow]
  exact ⟨⟨_, Dev.cmd?_updCmd_some (fun c => { c with heldAt := some (c.heldAt.getD s.dev.count) }) hc (fun _ => rfl), rfl⟩, rfl⟩

/-- A LOAD_PROGRAM that goes on: the image is read, the wait is counted, and the command has a part for each entry. -/
def Dev.loadStart (d : Dev) (id : Nat) (c : Cmd) (n parts : Nat) : Dev :=
  let d := d.emitRead c.loadHost n
  let d := d.addF .CMD_ACCT_WAIT_WAIT (d.count - c.launchAt) c.queue
  d.updCmd id (fun c => { c with parts := parts, heldAt := none, launchAt := d.count, step := d.f .RING_STEP_STEP c.part })

theorem load_entries (hstall : s.dev.stalled = false) (hc : s.dev.cmd? id = some c) (hrun : c.running = true) (hnew : c.ready = false)
    (hop : c.opcode = 10) (hhost : s.dev.canWriteHost = true) (hlen : data.length = c.loadBytes) (hes : imageEntries data = some es)
    (hgo : es.any (fun x => s.dev.loadWaits id c.part x.1) = false) :
    Completes (.loadProgram id data) s (fun e =>
      (∃ k, e.cmd? id = some k ∧ k.ready = true ∧ k.parts = es.length ∧ k.heldAt = none) ∧ e.count = s.dev.count ∧
      e.mem.superseded = s.dev.mem.superseded ∧ e.mem.charges = s.dev.mem.charges ∧
      s.dev.bumped e .CMD_ACCT_WAIT_WAIT (s.dev.count - c.launchAt) c.queue ∧
      e.out = s.dev.out ++ memReads c.loadHost data.length) := by
  refine Completes.of_engine (g := fun d => d.loadProgram id data) rfl hstall ?_
  have hkept := s.dev.loadProgram_butEnds id data
  have hrow : s.dev.loadProgram id data =
      ((s.dev.loadStart id c data.length es.length).loadEntries id c es data (List.range es.length)).finish id := by
    simp [Dev.loadProgram, Dev.loadStart, Dev.loadEntries, hc, hrun, hnew, hop, hhost, hlen, hes, hgo]
  have hstart : ∃ k, (s.dev.loadStart id c data.length es.length).cmd? id = some k ∧ k.parts = es.length ∧ k.heldAt = none := by
    unfold Dev.loadStart
    rw [s.dev.emitRead_eq]
    exact ⟨_, Dev.cmd?_updCmd_some _ hc (fun _ => rfl), rfl, rfl⟩
  have hout : (s.dev.loadStart id c data.length es.length).out = s.dev.out ++ memReads c.loadHost data.length := by
    unfold Dev.loadStart
    rw [s.dev.emitRead_eq]
    rfl
  have hwait : s.dev.bumped (s.dev.loadStart id c data.length es.length) .CMD_ACCT_WAIT_WAIT (s.dev.count - c.launchAt) c.queue := by
    unfold Dev.loadStart
    rw [s.dev.emitRead_eq]
    exact Dev.bumped_addF _ .CMD_ACCT_WAIT_WAIT _ c.queue 0 (by decide)
  rw [hrow] at hkept ⊢
  have hload := (s.dev.loadStart id c data.length es.length).loadEntries_loading id c es data (List.range es.length)
  generalize (s.dev.loadStart id c data.length es.length).loadEntries id c es data (List.range es.length) = m at *
  generalize s.dev.loadStart id c data.length es.length = d at *
  simp only [Dev.loading, Prod.mk.injEq] at hload
  obtain ⟨hmout, hlaunches, hreg⟩ := hload
  obtain ⟨k, hk, hparts, hheld⟩ := hstart
  obtain ⟨n, hn, hnparts, hnheld, _⟩ := Dev.cmd?_of_launches hlaunches hk
  have hregs : (m.finish id).kept.reg = s.dev.kept.reg := (congrArg Kept.reg hkept :)
  have hcount := Dev.reg_of_kept .RING_COUNT 0 0 hregs (by simp)
  refine ⟨⟨_, Dev.cmd?_updCmd_some (fun k => { k with ready := true }) hn (fun _ => rfl), rfl, hnparts.trans hparts, hnheld.trans hheld⟩,
    congrArg BitVec.toNat hcount, congrArg Kept.superseded hkept,
    congrArg Kept.charges hkept, ?_, hmout.trans hout⟩
  exact (congrArg Fld.CMD_ACCT_WAIT_WAIT.of (congrFun (congrFun hreg c.queue) 0)).trans hwait

end

/-- Settles O49: copies, streams, program images and placements. -/
theorem copiesAndPlacementsRun : Obligations.CopiesAndPlacementsRun := by
  unfold Obligations.CopiesAndPlacementsRun
  exact fun s id c data hc hrun hnew hstall => ⟨fun hop hmode => copy_object hstall data hc hrun hnew hop hmode,
    fun hop hmode hhost hlen => copy_in hstall hc hrun hnew hop hmode hhost hlen rfl,
    fun hop hmode hhost => copy_out hstall data hc hrun hnew hop hmode hhost,
    fun hop hmode hpassed hhost hlen => copyStream_host hstall hc hrun hnew hop hmode hpassed hhost hlen rfl,
    fun hop hmode hpassed => copyStream_object hstall hc hrun hnew hop hmode hpassed,
    fun hop hmode hpassed hacc => copyStream_accepted hstall hc hrun hnew hop hmode hpassed hacc,
    fun hop hhost hlen => ⟨load_bad hstall hc hrun hnew hop hhost hlen, fun es hes =>
      ⟨load_waits hstall hc hrun hnew hop hhost hlen hes, load_entries hstall hc hrun hnew hop hhost hlen hes⟩⟩,
    place_completes hstall hc hrun hnew⟩

end Sys2Proof.Machine
end

section
/-! PROOFS. EXCHANGE and COMBINE: what they send, and how they finish (R106 to R108, R111 to R114; O48). -/

namespace Sys2Proof.Machine

/-! ## What the commands read -/

@[simp] theorem recvObject_unread (v : Version) (bad : Fail) : Op.keeps Dev.unread (recvObject v bad) := by
  unfold recvObject
  repeat' first | with_reducible apply Op.keeps.bind | intro _
  all_goals simp

@[simp] theorem TokenRows.row_unread (t : TokenRows) (e : Nat) : Op.keeps Dev.unread (TokenRows.row t e) := by simp [TokenRows.row]

@[simp] theorem Region.rowVec_unread (g : Region) (r : Nat) : Op.keeps Dev.unread (Region.rowVec g r) := by simp [Region.rowVec]

@[simp] theorem expertMap_unread (v : Version) : Op.keeps Dev.unread (expertMap v) := by
  unfold expertMap
  repeat' first | with_reducible apply Op.keeps.bind | intro _
  all_goals simp

@[simp] theorem xeRows_unread (v : Version) : Op.keeps Dev.unread (xeRows v) := by
  unfold xeRows tokenRows
  repeat' first | with_reducible apply Op.keeps.bind | intro _
  all_goals simp

@[simp] theorem xeForm_unread (c : Cmd) : Op.keeps Dev.unread (xeForm c) := by
  unfold xeForm
  repeat' first | with_reducible apply Op.keeps.bind | intro _ | split
  all_goals simp

@[simp] theorem xeShare_unread (c : Cmd) (rank : Nat) : Op.keeps Dev.unread (xeShare c rank) := by
  unfold xeShare
  repeat' first | with_reducible apply Op.keeps.bind | intro _ | split
  all_goals simp

@[simp] theorem receivePlan_unread (c : Cmd) (x : XCtx) : Op.keeps Dev.unread (receivePlan c x) := by
  unfold receivePlan
  repeat' first | with_reducible apply Op.keeps.bind | intro _
  all_goals simp

/-! ## Sending -/

theorem Dev.sendHeader_engines (d : Dev) (c : Cmd) (rank : Nat) : (d.sendHeader c rank).engines = d.engines :=
  Dev.work_frame (.bind (rankNode_engines ..) fun _ => .bind (.engines_of_unread (xeForm_unread c)) fun _ =>
    .bind (.engines_of_unread (xeShare_unread c rank)) fun _ => .bind (.engines_of_unread (need_unread ..)) fun _ =>
    .bind .get fun _ => .act fun _ => rfl) (fun e _ => e.failWith_engines ..)

theorem Dev.sendShare_engines (d : Dev) (c : Cmd) (rank : Nat) : (d.sendShare c rank).engines = d.engines :=
  Dev.work_frame (.bind (rankNode_engines ..) fun _ => .bind (.engines_of_unread (xeForm_unread c)) fun _ =>
    .bind (.engines_of_unread (xeShare_unread c rank)) fun _ => .bind .get fun _ =>
    .bind (.bind (.engines_of_unread (need_unread ..)) fun _ => .pure _) fun _ => .act fun _ => rfl) (fun e _ => e.failWith_engines ..)

/-- Every header first, where nothing has been sent yet. -/
def Dev.sendHeaders (d : Dev) (c : Cmd) (x : XCtx) : Dev :=
  if x.sent.isEmpty then (rotated c).foldl (fun d r => d.sendHeader c r) d else d

theorem Dev.sendHeaders_engines (d : Dev) (c : Cmd) (x : XCtx) : (d.sendHeaders c x).engines = d.engines := by
  unfold sendHeaders
  split
  · induction rotated c generalizing d with
    | nil => rfl
    | cons r l ih => exact (ih _).trans (d.sendHeader_engines c r)
  · rfl

theorem Dev.engines_xe {d e : Dev} (h : e.engines = d.engines) : e.xe = d.xe := congrArg (fun x => x.2.2.1) h

/-- A context that is changed is found as before, by what the change leaves. -/
theorem Dev.find?_updCtx {d : Dev} {k : Nat} {g : XCtx → XCtx} {q : XCtx → Bool} {x : XCtx} (hq : ∀ y, q (g y) = q y)
    (h : d.xe.ctxs.find? q = some x) (hk : x.serial = k) : (d.updCtx k g).xe.ctxs.find? q = some (g x) := by
  refine (find?_mapIf (fun c : XCtx => c.serial == k) q g d.xe.ctxs hq).trans ?_
  rw [h, Option.map_some, if_pos (by simpa using hk)]

/-- The next member's share is handed over, and noted. -/
theorem Dev.sendNext_sent {d : Dev} {id : Nat} {c : Cmd} {x : XCtx} {r : Nat} (hx : d.xeOf id = some x)
    (hr : (rotated c).find? (fun r => !x.sent.contains r) = some r) :
    ∃ y, (d.sendNext c x).xeOf id = some y ∧ y.sent = x.sent ++ [r] := by
  have hrow : d.sendNext c x = (((d.sendHeaders c x).sendShare c r).updCtx x.serial (fun x => { x with sent := x.sent ++ [r] })).pump := by
    simp only [Dev.sendNext, hr]
    rfl
  have hshare := ((d.sendHeaders c x).sendShare_engines c r).trans (d.sendHeaders_engines c x)
  rw [hrow]
  generalize (d.sendHeaders c x).sendShare c r = m at *
  have hpump := Dev.engines_xe (Dev.switchMoves.engines (Dev.switchMoves.pump (m.updCtx x.serial (fun x => { x with sent := x.sent ++ [r] }))))
  generalize (m.updCtx x.serial (fun x => { x with sent := x.sent ++ [r] })).pump = e at *
  refine ⟨{ x with sent := x.sent ++ [r] }, ?_, rfl⟩
  unfold Dev.xeOf at *
  rw [hpump]
  rw [← Dev.engines_xe hshare] at hx
  exact Dev.find?_updCtx (g := fun x => { x with sent := x.sent ++ [r] }) (fun _ => rfl) hx rfl

/-! ## The receive object -/

theorem Dev.memFail_launches (d : Dev) (id j : Nat) (x : MemErr) : (d.memFail id j x).launches = d.launches := d.failWith_launches id j (.mem x)

theorem Dev.failPart_launches (d : Dev) (id j : Nat) (st : Status) : (d.failPart id j st).launches = d.launches :=
  d.failWith_launches id j (.plain st)

theorem Dev.launches_of_beside {d e : Dev} (h : e.beside = d.beside) : e.launches = d.launches := Dev.launches_of_cmds (Dev.beside_cmds h)

theorem Recv.putBytes_beside (r : Recv) (v : Version) (off : Nat) (bs : List Byte) : Op.keeps Dev.beside (r.putBytes v off bs) :=
  .bind (need_unread ..).beside_of_unread fun _ => .bind (need_unread ..).beside_of_unread fun _ => wr_beside ..

theorem Dev.foldl_launches {α : Type} {g : Dev → α → Dev} (hg : ∀ d a, (g d a).launches = d.launches) (l : List α) (d : Dev) :
    (l.foldl g d).launches = d.launches := by
  induction l generalizing d with
  | nil => rfl
  | cons a l ih => exact (ih _).trans (hg d a)

/-- One record of the receive object is stored, or fails the parts whose rows it holds. -/
theorem storeRecord_launches (d : Dev) (c : Cmd) (v : Version) (off : Nat) (bs : List Byte) (srcs : List Nat) :
    (match d.verWrite v off bs with
      | (d, .ok _) => d
      | (d, .error er) => match srcs with
        | [] => d.memFail c.id c.myRank er
        | s :: ss => ss.foldl (fun d s => d.failPart c.id s er.status) (d.memFail c.id s er)).launches = d.launches := by
  have hw := Dev.launches_of_beside (d.verWrite_beside v off bs)
  generalize d.verWrite v off bs = w at *
  obtain ⟨m, res⟩ := w
  cases res with
  | ok _ => exact hw
  | error er => cases srcs with
    | nil => exact (m.memFail_launches ..).trans hw
    | cons s ss => exact (Dev.foldl_launches (fun d s => d.failPart_launches ..) ..).trans ((m.memFail_launches ..).trans hw)

theorem Dev.finishUnlessFailed {m : Dev} {id : Nat} {k : Cmd} (hk : m.cmd? id = some k) (hnew : k.ready = false) :
    ∃ n, (match m.cmd? id with
      | some k => if k.causes.isEmpty then m.finish id else m
      | none => m).cmd? id = some n ∧ (n.ready = true ↔ n.causes = []) := by
  rw [hk]
  dsimp only
  by_cases h : k.causes = []
  · rw [if_pos (by rw [h]; rfl)]
    exact ⟨_, Dev.cmd?_updCmd_some (fun k => { k with ready := true }) hk (fun _ => rfl), iff_of_true rfl h⟩
  · rw [if_neg (by simpa using h)]
    exact ⟨k, hk, iff_of_false (by rw [hnew]; decide) h⟩

/-- An EXCHANGE that has received every part is ready, unless a cause of failure has met it. -/
theorem Dev.writeReceive_spec {d : Dev} {id : Nat} {c : Cmd} (x : XCtx) (hc : d.cmd? id = some c) (hrun : c.running = true)
    (hnew : c.ready = false) :
    (∃ k, (d.writeReceive c x).cmd? id = some k ∧ (k.ready = true ↔ k.causes = [])) ∧
    (Op.succeeds d (receivePlan c x) = false → (d.writeReceive c x).failed id) := by
  obtain rfl : c.id = id := (Dev.cmd?_id hc).1
  have hlive := Dev.live_of_running hc hrun
  unfold Dev.writeReceive
  split
  next f e hr =>
    have hkept := (receivePlan_keeps c x).run hr
    have hlaunches := (e.failWith_launches c.id c.myRank f).trans (Dev.launches_of_beside (Dev.beside_of_unread ((receivePlan_unread c x).run hr)))
    obtain ⟨k, hk, hcauses⟩ := Dev.failed_failWith c.myRank (fun hx => (receivePlan_causes c x).named d e (hx ▸ hr)) (Dev.live_of_kept hkept hlive)
    obtain ⟨n, hn, _, _, hready⟩ := Dev.cmd?_of_launches hlaunches hc
    obtain rfl : n = k := by simpa using hn.symm.trans hk
    exact ⟨⟨n, hk, iff_of_false (by rw [hready, hnew]; decide) hcauses⟩, fun _ => ⟨n, hk, hcauses⟩⟩
  next v r e hr =>
    refine ⟨?_, fun hs => absurd hs ?_⟩
    · extract_lets rows vec recs cols at_ dir e1 e2 e3
      have h0 := Dev.launches_of_beside (Dev.beside_of_unread ((receivePlan_unread c x).run hr))
      have h1 : e1.launches = e.launches := Dev.work_frame (π := Dev.launches)
        ⟨fun d => Dev.launches_of_beside ((r.putBytes_beside ..).after d)⟩ (fun m f => m.failWith_launches ..)
      have h2 : e2.launches = e1.launches := Dev.foldl_launches (fun m a => storeRecord_launches m c v _ _ _) _ _
      have h3 : e3.launches = e2.launches := rfl
      obtain ⟨n, hn, _, _, hready⟩ := Dev.cmd?_of_launches (h3.trans (h2.trans (h1.trans h0))) hc
      exact Dev.finishUnlessFailed hn (hready.trans hnew)
    · simp [Op.succeeds, hr]

/-! ## The combine -/

theorem combineWrite_leads {d : Dev} {c k : Cmd} (x : XCtx) (hk : d.cmd? c.id = some k) :
    Op.leads (fun e => e.beside = d.beside) (combineWrite c x) (fun _ e => e.readied c.id) := by
  unfold combineWrite
  refine .step (inVer_unread ..).beside_of_unread fun v => .step (grainTable_unread ..).beside_of_unread fun t =>
    .step (inVer_unread ..).beside_of_unread fun v' => .step (xeRows_unread ..).beside_of_unread fun rows => .step .get fun d' => ?_
  extract_lets fl recs
  refine .step (Op.keeps.mapM (fun e => .bind (rows.row_unread e).beside_of_unread fun r => ?_) _) fun out => ?_
  · extract_lets mine kept terms
    split <;> exact .pure _
  refine .step (outVer_unread ..).beside_of_unread fun v0 => .step (writeObject_beside ..) fun _ => ?_
  extract_lets rest
  have hrest : Op.leads (fun e => e.beside = d.beside) (rest ()) (fun _ e => e.readied c.id) :=
    .bind (R := fun _ e => e.cmds = d.cmds) (.act fun e he => (Dev.beside_cmds he :)) fun _ => .act fun e he => by
      refine Dev.readied_finish (c := k) ?_
      unfold Dev.cmd? at *
      rw [← hk, ← he]
      rfl
  split
  · exact .step (outVer_unread ..).beside_of_unread fun v1 => .step (writeObject_beside ..) fun _ => hrest
  · exact hrest

/-! ## The rows -/

section
variable {s : State} {id : Nat} {c : Cmd} {x : XCtx}

theorem exchange_sends (hstall : s.dev.stalled = false) (hc : s.dev.cmd? id = some c) (hx : s.dev.xeOf id = some x)
    (hrun : c.running = true) (hnew : c.ready = false) {r : Nat} (hless : x.sent.length < c.members)
    (hr : (rotated c).find? (fun r => !x.sent.contains r) = some r) :
    (c.dir = 0 → Completes (.exchange id) s (fun e => s.dev.noneEnds e ∧ ∃ y, e.xeOf id = some y ∧ y.sent = x.sent ++ [r])) ∧
    (c.dir = 1 → Completes (.combine id) s (fun e => s.dev.noneEnds e ∧ ∃ y, e.xeOf id = some y ∧ y.sent = x.sent ++ [r])) := by
  have hends := Dev.noneEnds_of_kept ((Dev.settle_kept _).trans (s.dev.sendNext_kept c x))
  obtain hsent := Dev.sendNext_sent (c := c) hx hr
  refine ⟨fun hdir => Completes.of_engine (g := fun d => d.exchange id) rfl hstall ?_,
    fun hdir => Completes.of_engine (g := fun d => d.combine id) rfl hstall ?_⟩
  · have hrow : s.dev.exchange id = s.dev.sendNext c x := by simp [Dev.exchange, hc, hx, hrun, hnew, hdir, hless]
    rw [hrow]
    generalize s.dev.sendNext c x = e at *
    exact ⟨hends, hsent⟩
  · have hrow : s.dev.combine id = s.dev.sendNext c x := by simp [Dev.combine, hc, hx, hrun, hnew, hdir, hless]
    rw [hrow]
    generalize s.dev.sendNext c x = e at *
    exact ⟨hends, hsent⟩

theorem exchange_finishes (hstall : s.dev.stalled = false) (hc : s.dev.cmd? id = some c) (hx : s.dev.xeOf id = some x)
    (hrun : c.running = true) (hnew : c.ready = false) (hsent : c.members ≤ x.sent.length)
    (hall : (List.range c.members).all (s.dev.partDone c x) = true) (hdir : c.dir = 0) :
    Completes (.exchange id) s (fun e => s.dev.noneEnds e ∧ (∃ k, e.cmd? id = some k ∧ (k.ready = true ↔ k.causes = [])) ∧
      (Op.succeeds s.dev (receivePlan c x) = false → e.failed id)) := by
  refine Completes.of_engine (g := fun d => d.exchange id) rfl hstall ?_
  have hrow : s.dev.exchange id = s.dev.writeReceive c x := by
    simp only [Dev.exchange, hc, hx, hrun, hnew, hdir, if_neg (Nat.not_lt.mpr hsent), hall, Bool.not_true, ne_eq, not_true, decide_false,
      Bool.or_self, Bool.false_eq_true, if_false, if_true]
  have hends := Dev.noneEnds_of_kept ((Dev.settle_kept _).trans (s.dev.writeReceive_kept c x))
  have hspec := s.dev.writeReceive_spec x hc hrun hnew
  rw [hrow]
  generalize s.dev.writeReceive c x = e at *
  exact ⟨hends, hspec⟩

theorem combine_finishes (hstall : s.dev.stalled = false) (hc : s.dev.cmd? id = some c) (hx : s.dev.xeOf id = some x)
    (hrun : c.running = true) (hnew : c.ready = false) (hsent : c.members ≤ x.sent.length)
    (hall : (List.range c.members).all (s.dev.partDone c x) = true) (hdir : c.dir = 1) :
    Completes (.combine id) s (fun e => s.dev.noneEnds e ∧ (Op.succeeds s.dev (combineWrite c x) = true → e.readied id) ∧
      (Op.succeeds s.dev (combineWrite c x) = false → e.failed id)) := by
  refine Completes.of_engine (g := fun d => d.combine id) rfl hstall ?_
  have hrow : s.dev.combine id = s.dev.work id c.myRank (combineWrite c x) := by
    simp only [Dev.combine, hc, hx, hrun, hnew, hdir, if_neg (Nat.not_lt.mpr hsent), hall, Bool.not_true, ne_eq, not_true, decide_false,
      Bool.or_self, Bool.false_eq_true, if_false, if_true]
  have hid : c.id = id := (Dev.cmd?_id hc).1
  rw [hrow]
  refine ⟨Dev.noneEnds_of_kept ((Dev.settle_kept _).trans (s.dev.work_kept (combineWrite_keeps c x))), fun hs => ?_,
    Dev.failed_work_kept c.myRank (combineWrite_keeps c x) (combineWrite_causes c x) (Dev.live_of_running hc hrun)⟩
  have h := Dev.work_leads (id := id) (j := c.myRank) (combineWrite_leads (c := c) x (hid ▸ hc)) rfl hs
  generalize s.dev.work id c.myRank (combineWrite c x) = e at *
  exact hid ▸ h

end

end Sys2Proof.Machine
end

section
/-! PROOFS. Billets of the Exchange Engine: what it stores, what is late, and what waits (R100, R115, R116, R118; O48). -/

namespace Sys2Proof.Machine

/-! ## What a billet's storing leaves -/

/-- The Switch Core, the billets held, and the count of billets received. -/
def Dev.staging (d : Dev) : FabSt × List Arrival × BitVec 64 := (d.fab, d.xe.held, d.reg .XE_BILLETS_RX)

theorem Dev.staging_of {d e : Dev} (hfab : e.fab = d.fab) (hxe : e.xe.held = d.xe.held) (hreg : e.reg .XE_BILLETS_RX = d.reg .XE_BILLETS_RX) :
    e.staging = d.staging := by
  unfold staging
  rw [hfab, hxe, hreg]

section
variable {d e : Dev}

theorem Dev.lndReturn_engines (d : Dev) (b : LndBuf) : (d.lndReturn b).engines = d.engines := by
  unfold Dev.lndReturn
  dsimp only
  split <;> rfl

theorem Dev.unstage_engines (d : Dev) (m : XMsg) : (d.unstage m).engines = d.engines := by
  unfold Dev.unstage
  split
  · rfl
  · split
    · exact d.lndReturn_engines _
    · rfl

theorem Dev.unstage_staging (d : Dev) (m : XMsg) : (d.unstage m).staging = d.staging := by
  have hland : Dev.landMoves d (d.unstage m) := by
    unfold Dev.unstage
    split
    · exact .refl d
    · split
      · exact .lndReturn d _
      · exact .refl d
  exact Dev.staging_of (congrArg Dev.fab hland.rest :) (congrArg XeSt.held (Dev.engines_xe (d.unstage_engines m))) (hland.reg _ 0 0 (by decide))

theorem Dev.stageBuffer_moves (d : Dev) (x : XCtx) (n : Nat) :
    (d.stageBuffer x n).1.engines = d.engines ∧ Dev.landMoves d (d.stageBuffer x n).1 := by
  have he := d.lndAlloc_engines x.part (lndClass n).1 (.receive x.serial)
  have hl := Dev.landMoves.lndAlloc d x.part (lndClass n).1 (user := .receive x.serial) (fun _ => by simp)
  unfold Dev.stageBuffer
  dsimp only
  generalize d.lndAlloc x.part (lndClass n).1 (.receive x.serial) = r at *
  split
  · exact ⟨rfl, .set_lnd d _⟩
  · split <;> exact ⟨he, hl⟩

theorem Dev.stageBuffer_staging (d : Dev) (x : XCtx) (n : Nat) : (d.stageBuffer x n).1.staging = d.staging := by
  obtain ⟨he, hl⟩ := d.stageBuffer_moves x n
  exact Dev.staging_of (congrArg Dev.fab hl.rest :) (congrArg XeSt.held (Dev.engines_xe he)) (hl.reg _ 0 0 (by decide))

theorem Dev.failMoves.staging (h : Dev.failMoves d e) : e.staging = d.staging :=
  Dev.staging_of (congrArg Dev.fab h.rest :) (congrArg XeSt.held (Dev.engines_xe h.engines)) (h.reg _ 0 0 (by decide))

theorem Dev.staging_of_beside (h : e.beside = d.beside) : e.staging = d.staging :=
  Dev.staging_of (congrArg Dev.fab (Dev.beside_rest h) :) (congrArg XeSt.held (Dev.engines_xe (Dev.engines_of_beside h)))
    (Dev.beside_reg h (by decide) 0 0)

theorem Dev.failReceipt_staging (d : Dev) (x : XCtx) (src : Nat) (st : Status) : (d.failReceipt x src st).staging = d.staging := by
  unfold Dev.failReceipt
  split <;> rfl

theorem Dev.dropMessage_staging (d : Dev) (x : XCtx) (m : XMsg) (st : Status) : (d.dropMessage x m st).staging = d.staging :=
  (Dev.failReceipt_staging ..).trans (d.unstage_staging m)

theorem Dev.stagePiece_staging (d : Dev) (x : XCtx) (m : XMsg) (buf : Nat × Nat) (seq : Nat) (bs : List Byte) :
    (d.stagePiece x m buf seq bs).staging = d.staging := by
  unfold Dev.stagePiece
  dsimp only
  split
  next g hg => exact Dev.staging_of_beside (e := g) (Dev.physWrite_beside hg)
  next er _ => exact (Dev.dropMessage_staging ..).trans (Dev.failMoves.memReport d x.cmd er).staging

theorem Dev.stage_staging (d : Dev) (x : XCtx) (b : Billet) : (d.stage_ x b).staging = d.staging := by
  unfold Dev.stage_
  split
  · rfl
  next src _ =>
  dsimp only
  split
  · rfl
  split
  · split
    · rfl
    · split
      · rfl
      · exact d.stagePiece_staging ..
  · have hb := d.stageBuffer_staging x (64 * bTotal b)
    generalize d.stageBuffer x (64 * bTotal b) = r at *
    obtain ⟨m, res⟩ := r
    cases res with
    | ok buf => exact (Dev.stagePiece_staging ..).trans hb
    | error st => exact (Dev.failReceipt_staging ..).trans hb

theorem Dev.lateCounted_staging (d : Dev) : (d.addF .XE_LATE_LATE 1).staging = d.staging :=
  Dev.staging_of rfl rfl (d.reg_setReg_ne _ _ _ _ _ (by decide))

theorem Dev.xeLate_staging (d : Dev) (p dir xid : Nat) : (d.xeLate p dir xid).staging = d.staging := by
  unfold Dev.xeLate
  dsimp only
  split
  · exact d.lateCounted_staging
  · exact (Dev.failMoves.post ..).staging.trans d.lateCounted_staging

theorem Dev.xeTake_staging (d : Dev) (b : Billet) : (d.xeTake b).staging = d.staging := by
  unfold Dev.xeTake
  split
  · exact d.lateCounted_staging
  next p _ =>
  dsimp only
  split
  · exact d.xeLate_staging ..
  have hopen : (if (d.xe? p (bits (bTag b) 23 1) (bits (bTag b) 14 9)).isSome then d
      else d.openCtx p (bits (bTag b) 23 1) (bits (bTag b) 14 9) none).staging = d.staging := by split <;> rfl
  generalize (if (d.xe? p (bits (bTag b) 23 1) (bits (bTag b) 14 9)).isSome then d
      else d.openCtx p (bits (bTag b) 23 1) (bits (bTag b) 14 9) none) = m at *
  split
  · exact (m.stage_staging ..).trans hopen
  · exact hopen

/-! ## What a billet's storing does to its context -/

/-- What names a context, and the messages that it has met. -/
def XCtx.sameName (x y : XCtx) : Prop :=
  y.serial = x.serial ∧ y.part = x.part ∧ y.dir = x.dir ∧ y.xid = x.xid ∧ y.cmd = x.cmd ∧ y.since = x.since

/-- The sources and indices of a context's messages, in the order they were met. -/
def XCtx.met (x : XCtx) : List (Nat × Nat) := x.msgs.map (fun m => (m.src, m.index))

theorem Dev.xe?_of_engines (h : e.engines = d.engines) (p dir xid : Nat) : e.xe? p dir xid = d.xe? p dir xid := by
  unfold Dev.xe?
  rw [Dev.engines_xe h]

theorem Dev.xe?_updCtx {p dir xid k : Nat} {x : XCtx} {g : XCtx → XCtx}
    (hg : ∀ y, (g y).part = y.part ∧ (g y).dir = y.dir ∧ (g y).xid = y.xid) (h : d.xe? p dir xid = some x) (hk : x.serial = k) :
    (d.updCtx k g).xe? p dir xid = some (g x) := by
  refine Dev.find?_updCtx (q := fun x => x.part == p && x.dir == dir && x.xid == xid) (fun y => ?_) h hk
  obtain ⟨h1, h2, h3⟩ := hg y
  rw [h1, h2, h3]

/-- A receipt that fails leaves the context's messages. -/
theorem Dev.failReceipt_ctx {p dir xid src : Nat} {x w : XCtx} {st : Status} (h : d.xe? p dir xid = some w) (hk : w.serial = x.serial) :
    ∃ y, (d.failReceipt x src st).xe? p dir xid = some y ∧ w.sameName y ∧ y.msgs = w.msgs := by
  unfold Dev.failReceipt
  split
  · exact ⟨w, h, ⟨rfl, rfl, rfl, rfl, rfl, rfl⟩, rfl⟩
  · exact ⟨_, Dev.xe?_updCtx (g := fun c => { c with failed := c.failed ++ [(src, st)] }) (fun _ => ⟨rfl, rfl, rfl⟩) h hk,
      ⟨rfl, rfl, rfl, rfl, rfl, rfl⟩, rfl⟩

/-- What a message's receipt gives up. -/
def XMsg.givenUp (m : XMsg) : XMsg := { m with buf := none, got := [] }

/-- The message of a source and an index. -/
def XMsg.like (m : XMsg) (y : XMsg) : Bool := y.src == m.src && y.index == m.index

theorem Dev.dropMessage_ctx {p dir xid : Nat} {x w : XCtx} {m : XMsg} {st : Status} (h : d.xe? p dir xid = some w)
    (hk : w.serial = x.serial) :
    ∃ y, (d.dropMessage x m st).xe? p dir xid = some y ∧ w.sameName y ∧ y.msgs = mapIf m.like XMsg.givenUp w.msgs := by
  have h' : ((d.unstage m).updCtx x.serial (fun x => { x with msgs := mapIf m.like XMsg.givenUp x.msgs })).xe? p dir xid =
      some { w with msgs := mapIf m.like XMsg.givenUp w.msgs } :=
    Dev.xe?_updCtx (g := fun x => { x with msgs := mapIf m.like XMsg.givenUp x.msgs }) (fun _ => ⟨rfl, rfl, rfl⟩)
      ((Dev.xe?_of_engines (d.unstage_engines m) ..).trans h) hk
  obtain ⟨y, hy, hname, hmsgs⟩ := Dev.failReceipt_ctx (x := x) (src := m.src) (st := st) h' hk
  exact ⟨y, hy, hname, hmsgs⟩

theorem Dev.stagePiece_ok {p dir xid seq : Nat} {x w : XCtx} {m : XMsg} {buf : Nat × Nat} {bs : List Byte} {g : Dev}
    (hg : d.lndStore buf (64 * seq) bs = .ok g) (h : d.xe? p dir xid = some w) (hk : w.serial = x.serial) :
    (d.stagePiece x m buf seq bs).mem = g.mem ∧ ∃ y, (d.stagePiece x m buf seq bs).xe? p dir xid = some y ∧ w.sameName y ∧
      y.msgs = mapIf m.like (fun y => { y with got := y.got ++ [seq] }) w.msgs := by
  unfold Dev.stagePiece
  rw [hg]
  refine ⟨rfl, _, Dev.xe?_updCtx (g := fun x => { x with msgs := mapIf m.like (fun y => { y with got := y.got ++ [seq] }) x.msgs })
    (fun _ => ⟨rfl, rfl, rfl⟩) ?_ hk, ⟨rfl, rfl, rfl, rfl, rfl, rfl⟩, rfl⟩
  exact (Dev.xe?_of_engines (Dev.engines_of_beside (Dev.physWrite_beside hg)) ..).trans h

theorem Dev.stagePiece_error {p dir xid seq : Nat} {x w : XCtx} {m : XMsg} {buf : Nat × Nat} {bs : List Byte} {er : MemErr}
    (hg : d.lndStore buf (64 * seq) bs = .error er) (h : d.xe? p dir xid = some w) (hk : w.serial = x.serial) :
    ∃ y, (d.stagePiece x m buf seq bs).xe? p dir xid = some y ∧ w.sameName y ∧ y.msgs = mapIf m.like XMsg.givenUp w.msgs := by
  unfold Dev.stagePiece
  rw [hg]
  exact Dev.dropMessage_ctx ((Dev.xe?_of_engines (Dev.failMoves.memReport d x.cmd er).engines ..).trans h) hk

theorem mapIf_met (p : XMsg → Bool) {g : XMsg → XMsg} (hg : ∀ y, (g y).src = y.src ∧ (g y).index = y.index) (l : List XMsg) :
    (mapIf p g l).map (fun m => (m.src, m.index)) = l.map (fun m => (m.src, m.index)) := by
  rw [mapIf, List.map_map]
  refine List.map_congr_left fun y _ => ?_
  dsimp only [Function.comp]
  split
  · rw [(hg y).1, (hg y).2]
  · rfl

/-- A piece that is stored, or whose storing fails, leaves the context's name and the messages it has met. -/
theorem Dev.stagePiece_met {p dir xid seq : Nat} {x w : XCtx} (m : XMsg) (buf : Nat × Nat) (bs : List Byte)
    (h : d.xe? p dir xid = some w) (hk : w.serial = x.serial) :
    ∃ y, (d.stagePiece x m buf seq bs).xe? p dir xid = some y ∧ w.sameName y ∧ y.met = w.met := by
  cases hg : d.lndStore buf (64 * seq) bs with
  | ok g =>
    obtain ⟨-, y, hy, hname, hmsgs⟩ := Dev.stagePiece_ok (m := m) hg h hk
    exact ⟨y, hy, hname, by
      rw [XCtx.met, hmsgs]
      exact mapIf_met (g := fun y => { y with got := y.got ++ [seq] }) _ (fun _ => ⟨rfl, rfl⟩) _⟩
  | error er =>
    obtain ⟨y, hy, hname, hmsgs⟩ := Dev.stagePiece_error (m := m) hg h hk
    exact ⟨y, hy, hname, by
      rw [XCtx.met, hmsgs]
      exact mapIf_met (g := XMsg.givenUp) _ (fun _ => ⟨rfl, rfl⟩) _⟩

theorem mem_mapIf_find {p : XMsg → Bool} {g : XMsg → XMsg} {l : List XMsg} {m : XMsg} (h : l.find? p = some m) : g m ∈ mapIf p g l :=
  List.mem_map.mpr ⟨m, List.mem_of_find?_eq_some h, if_pos (List.find?_some h)⟩

/-- The index of the message that a billet is of. -/
def bIndex (b : Billet) : Nat := bits (bTag b) 0 14

/-- The message of a billet from a source. -/
def ofMessage (src : Nat) (b : Billet) (m : XMsg) : Bool := m.src == src && m.index == bIndex b

section
variable {x : XCtx} {b : Billet} {src : Nat} {m : XMsg}

theorem Dev.stage_skips (hsrc : d.nodeRank x.part (bSrc b) = some src)
    (hless : ((x.cmd.bind d.cmd?).map Cmd.members).any (fun n => decide (n ≤ src)) = false)
    (hm : x.msgs.find? (ofMessage src b) = some m) (hskip : m.buf = none ∨ bSeq b ∈ m.got) : d.stage_ x b = d := by
  have hm' : x.msgs.find? (fun m => m.src == src && m.index == bits (bTag b) 0 14) = some m := hm
  simp only [Dev.stage_, hsrc, hless, hm', Bool.false_eq_true, if_false]
  cases hbuf : m.buf with
  | none => rfl
  | some buf =>
    have hgot : bSeq b ∈ m.got := hskip.resolve_left (by rw [hbuf]; rintro ⟨⟩)
    simp [hgot]

theorem Dev.stage_stores {buf : Nat × Nat} (hsrc : d.nodeRank x.part (bSrc b) = some src)
    (hless : ((x.cmd.bind d.cmd?).map Cmd.members).any (fun n => decide (n ≤ src)) = false)
    (hm : x.msgs.find? (ofMessage src b) = some m) (hbuf : m.buf = some buf) (hnew : bSeq b ∉ m.got) :
    d.stage_ x b = d.stagePiece x m buf (bSeq b) (bPayload b) := by
  have hm' : x.msgs.find? (fun m => m.src == src && m.index == bits (bTag b) 0 14) = some m := hm
  simp only [Dev.stage_, hsrc, hless, hm', hbuf, Bool.false_eq_true, if_false]
  simp [hnew]

/-- A message's first billet: the context has met the message, whether or not a buffer is found for it. -/
theorem Dev.stage_meets {p dir xid : Nat} (hx : d.xe? p dir xid = some x) (hsrc : d.nodeRank x.part (bSrc b) = some src)
    (hless : ((x.cmd.bind d.cmd?).map Cmd.members).any (fun n => decide (n ≤ src)) = false)
    (hm : x.msgs.find? (ofMessage src b) = none) :
    ∃ y, (d.stage_ x b).xe? p dir xid = some y ∧ x.sameName y ∧ y.met = x.met ++ [(src, bIndex b)] := by
  have hm' : x.msgs.find? (fun m => m.src == src && m.index == bits (bTag b) 0 14) = none := hm
  simp only [Dev.stage_, hsrc, hless, hm', Bool.false_eq_true, if_false]
  have hb := (d.stageBuffer_moves x (64 * bTotal b)).1
  generalize d.stageBuffer x (64 * bTotal b) = r at *
  obtain ⟨n, res⟩ := r
  dsimp only
  have hn : ∀ m : XMsg, (n.updCtx x.serial (fun x => { x with msgs := x.msgs ++ [m] })).xe? p dir xid = some { x with msgs := x.msgs ++ [m] } :=
    fun m => Dev.xe?_updCtx (g := fun x => { x with msgs := x.msgs ++ [m] }) (fun _ => ⟨rfl, rfl, rfl⟩)
      ((Dev.xe?_of_engines hb ..).trans hx) rfl
  cases res with
  | ok buf =>
    obtain ⟨y, hy, hname, hmet⟩ := Dev.stagePiece_met (x := x) (seq := bSeq b) ⟨src, bits (bTag b) 0 14, bTotal b, bCompressed b, [], some buf, 0⟩
      buf (bPayload b) (hn _) rfl
    exact ⟨y, hy, hname, hmet.trans List.map_append⟩
  | error st =>
    obtain ⟨y, hy, hname, hmsgs⟩ := Dev.failReceipt_ctx (x := x) (src := src) (st := st)
      (hn ⟨src, bits (bTag b) 0 14, bTotal b, bCompressed b, [], none, 0⟩) rfl
    exact ⟨y, hy, hname, by rw [XCtx.met, hmsgs]; exact List.map_append⟩

end

/-- Whatever a billet does to its context, the context keeps its name. -/
theorem Dev.stage_sameName {p dir xid : Nat} {x : XCtx} (b : Billet) (hx : d.xe? p dir xid = some x) :
    ∃ y, (d.stage_ x b).xe? p dir xid = some y ∧ x.sameName y := by
  have hsame : ∃ y, d.xe? p dir xid = some y ∧ x.sameName y := ⟨x, hx, rfl, rfl, rfl, rfl, rfl, rfl⟩
  cases hsrc : d.nodeRank x.part (bSrc b) with
  | none => simpa only [Dev.stage_, hsrc] using hsame
  | some src =>
    cases hless : ((x.cmd.bind d.cmd?).map Cmd.members).any (fun n => decide (n ≤ src)) with
    | true => simpa only [Dev.stage_, hsrc, hless, if_true] using hsame
    | false =>
      cases hm : x.msgs.find? (ofMessage src b) with
      | none =>
        obtain ⟨y, hy, hname, _⟩ := Dev.stage_meets hx hsrc hless hm
        exact ⟨y, hy, hname⟩
      | some m =>
        by_cases hskip : m.buf = none ∨ bSeq b ∈ m.got
        · rwa [Dev.stage_skips hsrc hless hm hskip]
        · obtain ⟨hbuf, hnew⟩ := not_or.mp hskip
          obtain ⟨buf, hbuf⟩ := Option.ne_none_iff_exists'.mp hbuf
          rw [Dev.stage_stores hsrc hless hm hbuf hnew]
          obtain ⟨y, hy, hname, _⟩ := Dev.stagePiece_met (seq := bSeq b) m buf (bPayload b) hx rfl
          exact ⟨y, hy, hname⟩

end

end Sys2Proof.Machine
end

section
/-! PROOFS. XE_BILLET: held billets, late ones, early ones and those of an open exchange (R100, R115, R116, R118; O48). -/

namespace Sys2Proof.Machine

/-! ## How a billet is dealt with -/

section
variable {d : Dev} {b : Billet} {p : Nat}

theorem Dev.xeTake_unbound (h : d.partOf (bJob b) = none) : d.xeTake b = d.addF .XE_LATE_LATE 1 := by
  unfold Dev.xeTake
  rw [h]

theorem Dev.xeTake_closed (h : d.partOf (bJob b) = some p) (hclosed : d.xidClosed p (bits (bTag b) 23 1) (bits (bTag b) 14 9) = true) :
    d.xeTake b = d.xeLate p (bits (bTag b) 23 1) (bits (bTag b) 14 9) := by
  unfold Dev.xeTake
  rw [h]
  dsimp only
  rw [if_pos hclosed]

theorem Dev.xeTake_open {x : XCtx} (h : d.partOf (bJob b) = some p)
    (hopen : d.xidClosed p (bits (bTag b) 23 1) (bits (bTag b) 14 9) = false)
    (hx : d.xe? p (bits (bTag b) 23 1) (bits (bTag b) 14 9) = some x) : d.xeTake b = d.stage_ x b := by
  simp [Dev.xeTake, h, hopen, hx]

/-- A new context is found by its exchange. -/
theorem Dev.xe?_openCtx {dir xid : Nat} (h : d.xe? p dir xid = none) :
    ∃ x, (d.openCtx p dir xid none).xe? p dir xid = some x ∧ x.cmd = none ∧ x.since = d.count ∧ x.serial = d.xe.serial := by
  refine ⟨{ serial := d.xe.serial, part := p, job := d.jobOf p, dir := dir, xid := xid, cmd := none
            since := d.count, msgs := [], heads := [], rows := [], failed := [], sent := [], tokens := 0 }, ?_, rfl, rfl, rfl⟩
  unfold Dev.xe? at *
  show List.find? _ (d.xe.ctxs ++ [_]) = _
  rw [List.find?_append, h]
  simp

theorem Dev.xeTake_early (h : d.partOf (bJob b) = some p)
    (hopen : d.xidClosed p (bits (bTag b) 23 1) (bits (bTag b) 14 9) = false)
    (hnone : d.xe? p (bits (bTag b) 23 1) (bits (bTag b) 14 9) = none) :
    ∃ y, (d.xeTake b).xe? p (bits (bTag b) 23 1) (bits (bTag b) 14 9) = some y ∧ y.cmd = none ∧ y.since = d.count ∧
      y.serial = d.xe.serial := by
  obtain ⟨x, hx, hcmd, hsince, hserial⟩ := Dev.xe?_openCtx hnone
  have hrow : d.xeTake b = (d.openCtx p (bits (bTag b) 23 1) (bits (bTag b) 14 9) none).stage_ x b := by
    simp [Dev.xeTake, h, hopen, hnone, hx]
  obtain ⟨y, hy, hname⟩ := Dev.stage_sameName b hx
  obtain ⟨h1, -, -, -, h2, h3⟩ := hname
  rw [hrow]
  exact ⟨y, hy, h2.trans hcmd, h3.trans hsince, h1.trans hserial⟩

/-- The late billet of an exchange has been counted, and that it was late is noted. -/
def Dev.lateNoted (d : Dev) (p dir xid : Nat) : Dev :=
  (d.addF .XE_LATE_LATE 1).updXe (fun x => { x with lates := x.lates ++ [(p, dir, xid)] })

/-- A late billet is counted, and the first of its exchange reported. -/
theorem Dev.xeLate_spec (d : Dev) (p dir xid : Nat) : d.bumped (d.xeLate p dir xid) .XE_LATE_LATE 1 ∧
    (d.xeLate p dir xid).xe.ctxs = d.xe.ctxs ∧ (d.xeLate p dir xid).mem = d.mem ∧ (d.xeLate p dir xid).cmds = d.cmds ∧
    ((p, dir, xid) ∈ d.xe.lates → (d.xeLate p dir xid).link = d.link) ∧
    ((p, dir, xid) ∉ d.xe.lates → d.posted (d.xeLate p dir xid) .XE_LATE (fun r => r.part = some p)) := by
  have hb := d.bumped_addF .XE_LATE_LATE 1 0 0 (by decide)
  by_cases h : (p, dir, xid) ∈ d.xe.lates
  · have hrow : d.xeLate p dir xid = d.addF .XE_LATE_LATE 1 := if_pos h
    rw [hrow]
    exact ⟨hb, rfl, rfl, rfl, fun _ => rfl, fun hn => absurd h hn⟩
  · obtain ⟨who, hwho, hrow⟩ : ∃ who : Who, who.part = some p ∧
        d.xeLate p dir xid = (d.lateNoted p dir xid).post .XE_LATE 0 (dir * 512 + xid) who := ⟨_, rfl, if_neg h⟩
    rw [hrow]
    have hcount : (d.lateNoted p dir xid).count = d.count := Dev.count_setF _ .XE_LATE_LATE _ 0 0 (by decide)
    obtain ⟨hctxs, hmem, hcmds, hlink⟩ : (d.lateNoted p dir xid).xe.ctxs = d.xe.ctxs ∧ (d.lateNoted p dir xid).mem = d.mem ∧
      (d.lateNoted p dir xid).cmds = d.cmds ∧ (d.lateNoted p dir xid).link = d.link := ⟨rfl, rfl, rfl, rfl⟩
    have hb' : d.bumped (d.lateNoted p dir xid) .XE_LATE_LATE 1 := hb
    generalize d.lateNoted p dir xid = m at *
    have hmoves := Dev.failMoves.post m .XE_LATE 0 (dir * 512 + xid) who 0
    have hposted := m.post_posted_of .XE_LATE 0 (dir * 512 + xid) who 0 (P := fun r => r.part = some p) hwho
    have hcm : (m.post .XE_LATE 0 (dir * 512 + xid) who).cmds = m.cmds := Dev.post_cmds ..
    generalize m.post .XE_LATE 0 (dir * 512 + xid) who = e at *
    exact ⟨(hmoves.f .XE_LATE_LATE 0 0 (by decide)).trans hb', (congrArg XeSt.ctxs (Dev.engines_xe hmoves.engines)).trans hctxs,
      hmoves.mem.trans hmem, hcm.trans hcmds, fun hin => absurd hin h, fun _ => Dev.posted_congr hlink hcount rfl hposted⟩

end

/-! ## The rows -/

theorem Dev.staging_inbox {d e : Dev} (h : e.staging = d.staging) : e.fab = d.fab ∧ e.xe.held = d.xe.held ∧
    e.reg .XE_BILLETS_RX = d.reg .XE_BILLETS_RX := by
  simpa only [Dev.staging, Prod.mk.injEq] using h

theorem xeBillet_held {s : State} (hstall : s.dev.stalled = false) {a : Arrival}
    (ha : s.dev.xe.held.find? (fun a => s.dev.xeCanTake a.b) = some a) :
    Completes .xeBillet s (fun e => e.xe.held = s.dev.xe.held.erase a ∧ e.fab.inbox = s.dev.fab.inbox ∧ s.dev.noneEnds e) := by
  refine Completes.of_engine (g := Dev.xeBillet) rfl hstall ?_
  have hends := Dev.noneEnds_of_kept ((Dev.settle_kept _).trans s.dev.xeBillet_kept)
  obtain ⟨d, hd, hrow⟩ : ∃ d, d = (s.dev.updXe (fun x => { x with held := x.held.erase a })).consume a ∧
      s.dev.xeBillet = (d.setF .XE_HELD_NOW d.xe.held.length).xeTake a.b := ⟨_, rfl, by simp only [Dev.xeBillet, ha]⟩
  have hxe : d.xe = { s.dev.xe with held := s.dev.xe.held.erase a } := by
    rw [hd]
    exact (congrArg Dev.xe (Dev.slotsMove.consume _ a).rest :)
  have hin : d.fab.inbox = s.dev.fab.inbox := by
    rw [hd]
    exact (FabSt.still_spec (Dev.consume_still _ a)).1
  clear hd
  rw [hrow] at hends ⊢
  obtain ⟨hfab, hheld, -⟩ := Dev.staging_inbox ((d.setF .XE_HELD_NOW d.xe.held.length).xeTake_staging a.b)
  generalize (d.setF .XE_HELD_NOW d.xe.held.length).xeTake a.b = e at *
  exact ⟨hheld.trans (congrArg XeSt.held hxe), (congrArg FabSt.inbox hfab).trans hin, hends⟩

/-- The device once a billet has been taken off the Exchange Engine's port. -/
def Dev.xeArrived (d : Dev) (a : Arrival) : Dev := (d.updFab (fun f => { f with inbox := f.inbox.erase a })).addF .XE_BILLETS_RX_RX 1

theorem Dev.xeArrived_slots (d : Dev) (a : Arrival) : (d.xeArrived a).slotsMove ((d.xeArrived a).consume a) := .consume _ a

/-- What a billet that is taken in finds: the device as it was, but for the slots and the counts of billets. -/
structure Dev.sees (d n : Dev) : Prop where
  xe : n.xe = d.xe
  mem : n.mem = d.mem
  cmds : n.cmds = d.cmds
  link : n.link = d.link
  f : ∀ (f : Fld) i j, f.reg ∉ switchRegs → f.reg ≠ .XE_BILLETS_RX → n.f f i j = d.f f i j
  reg : ∀ (r : Reg) i j, r ∉ switchRegs → r ≠ .XE_BILLETS_RX → n.reg r i j = d.reg r i j

theorem Dev.xeArrived_sees (d : Dev) (a : Arrival) : d.sees (d.xeArrived a) where
  xe := rfl
  mem := rfl
  cmds := rfl
  link := rfl
  f f i j _ hr := congrArg f.of (Dev.reg_setReg_ne (d.updFab _) _ _ _ i j hr)
  reg _ i j _ hr := Dev.reg_setReg_ne (d.updFab _) _ _ _ i j hr

theorem Dev.sees.slots {d m n : Dev} (h : d.sees m) (hm : m.slotsMove n) : d.sees n where
  xe := (congrArg Dev.xe hm.rest :).trans h.xe
  mem := (congrArg Dev.mem hm.rest :).trans h.mem
  cmds := (congrArg Dev.cmds hm.rest :).trans h.cmds
  link := (congrArg Dev.link hm.rest :).trans h.link
  f f i j hr hne := (congrArg f.of (hm.reg f.reg i j hr)).trans (h.f f i j hr hne)
  reg r i j hr hne := (hm.reg r i j hr).trans (h.reg r i j hr hne)

namespace Dev.sees
variable {d n : Dev} (h : d.sees n)
include h

theorem partOf (job : Nat) : n.partOf job = d.partOf job := by
  have hv : ∀ p, n.valid p = d.valid p := fun p => by
    unfold Dev.valid Dev.flag
    rw [h.f _ _ _ (by decide) (by decide)]
  unfold Dev.partOf
  simp only [hv, h.f .PART_CTRL_JOB _ 0 (by decide) (by decide)]

theorem xidClosed (p dir xid : Nat) : n.xidClosed p dir xid = d.xidClosed p dir xid := by
  unfold Dev.xidClosed
  rw [h.reg _ _ _ (by decide) (by decide)]

theorem xe? (p dir xid : Nat) : n.xe? p dir xid = d.xe? p dir xid := by
  unfold Dev.xe?
  rw [h.xe]

theorem cmd? (id : Nat) : n.cmd? id = d.cmd? id := by
  unfold Dev.cmd?
  rw [h.cmds]

theorem count : n.count = d.count := congrArg BitVec.toNat (h.reg .RING_COUNT 0 0 (by decide) (by decide))

theorem xeCanTake (b : Billet) : n.xeCanTake b = d.xeCanTake b := by
  unfold Dev.xeCanTake
  simp only [h.partOf, h.xidClosed, h.xe?, h.xe]

end Dev.sees

section
variable {s : State} {a : Arrival}

/-- The row of a billet that no held one goes before. -/
theorem xeBillet_row (hnone : s.dev.xe.held.find? (fun a => s.dev.xeCanTake a.b) = none)
    (ha : s.dev.fab.inbox.find? (fun a => a.port == 36) = some a) :
    (s.dev.xeCanTake a.b = true → s.dev.xeBillet = ((s.dev.xeArrived a).consume a).xeTake a.b) ∧
    (s.dev.xeCanTake a.b = false → ∃ n, s.dev.xeBillet = ((((s.dev.xeArrived a).updXe (fun x => { x with held := x.held ++ [a] })).setF
      .XE_HELD_NOW n).addF .XE_HELD_EVENTS 1)) := by
  have hcan := (s.dev.xeArrived_sees a).xeCanTake a.b
  unfold Dev.xeArrived at hcan
  refine ⟨fun h => ?_, fun h => ⟨(s.dev.xe.held ++ [a]).length, ?_⟩⟩
  · simp only [Dev.xeBillet, hnone, ha, Dev.xeArrived]
    rw [if_pos (hcan.trans h)]
  · simp only [Dev.xeBillet, hnone, ha, Dev.xeArrived]
    rw [if_neg (by rw [hcan, h]; decide)]
    rfl

/-- A billet of an exchange that is open is stored at its place, met for the first time, or discarded. -/
theorem xeBillet_stored {d e : Dev} {p src : Nat} {x : XCtx} (he : d.xeTake a.b = e) (hp : d.partOf (bJob a.b) = some p)
    (hopen : d.xidClosed p (bits (bTag a.b) 23 1) (bits (bTag a.b) 14 9) = false)
    (hx : d.xe? p (bits (bTag a.b) 23 1) (bits (bTag a.b) 14 9) = some x) (hsrc : d.nodeRank x.part (bSrc a.b) = some src)
    (hmember : ∀ c, x.cmd.bind d.cmd? = some c → src < c.members) :
    (x.msgs.find? (ofMessage src a.b) = none → ∃ y, e.xe? p (bits (bTag a.b) 23 1) (bits (bTag a.b) 14 9) = some y ∧
      y.msgs.map (fun m => (m.src, m.index)) = x.msgs.map (fun m => (m.src, m.index)) ++ [(src, bIndex a.b)]) ∧
    (∀ m, x.msgs.find? (ofMessage src a.b) = some m → (m.buf = none ∨ bSeq a.b ∈ m.got) → e.xe = d.xe ∧ e.mem = d.mem) ∧
    (∀ m buf, x.msgs.find? (ofMessage src a.b) = some m → m.buf = some buf → bSeq a.b ∉ m.got →
      (∀ g, d.lndStore buf (64 * bSeq a.b) (bPayload a.b) = .ok g → e.mem = g.mem ∧
        ∃ y, e.xe? p (bits (bTag a.b) 23 1) (bits (bTag a.b) 14 9) = some y ∧ { m with got := m.got ++ [bSeq a.b] } ∈ y.msgs) ∧
      (∀ er, d.lndStore buf (64 * bSeq a.b) (bPayload a.b) = .error er →
        ∃ y, e.xe? p (bits (bTag a.b) 23 1) (bits (bTag a.b) 14 9) = some y ∧ { m with buf := none, got := [] } ∈ y.msgs)) := by
  have hless : ((x.cmd.bind d.cmd?).map Cmd.members).any (fun n => decide (n ≤ src)) = false := by
    cases hc : x.cmd.bind d.cmd? with
    | none => rfl
    | some c => simpa using hmember c hc
  rw [Dev.xeTake_open hp hopen hx] at he
  refine ⟨fun hm => ?_, fun m hm hskip => ?_, fun m buf hm hbuf hnew => ?_⟩
  · obtain ⟨y, hy, -, hmet⟩ := Dev.stage_meets hx hsrc hless hm
    exact ⟨y, he ▸ hy, hmet⟩
  · rw [Dev.stage_skips hsrc hless hm hskip] at he
    exact ⟨by rw [he], by rw [he]⟩
  · rw [Dev.stage_stores hsrc hless hm hbuf hnew] at he
    have hlike : m.like = ofMessage src a.b := by
      have h := List.find?_some hm
      simp only [ofMessage, Bool.and_eq_true, beq_iff_eq] at h
      funext y
      rw [XMsg.like, ofMessage, h.1, h.2]
    refine ⟨fun g hg => ?_, fun er hg => ?_⟩
    · obtain ⟨hmem, y, hy, -, hmsgs⟩ := Dev.stagePiece_ok (m := m) hg hx rfl
      refine ⟨by rw [← he]; exact hmem, y, he ▸ hy, ?_⟩
      rw [hmsgs, hlike]
      exact mem_mapIf_find hm
    · obtain ⟨y, hy, -, hmsgs⟩ := Dev.stagePiece_error (m := m) hg hx rfl
      refine ⟨y, he ▸ hy, ?_⟩
      rw [hmsgs, hlike]
      exact mem_mapIf_find hm

/-- A billet that cannot go on is held, with its credit. -/
theorem xeBillet_waits {d e : Dev} {n : Nat}
    (he : ((((d.xeArrived a).updXe (fun x => { x with held := x.held ++ [a] })).setF .XE_HELD_NOW n).addF .XE_HELD_EVENTS 1) = e) :
    e.xe = { d.xe with held := d.xe.held ++ [a] } ∧ e.fab = { d.fab with inbox := d.fab.inbox.erase a } ∧ d.bumped e .XE_HELD_EVENTS 1 ∧
      e.mem = d.mem ∧ e.cmds = d.cmds ∧ e.reg .XE_BILLETS_RX = (d.xeArrived a).reg .XE_BILLETS_RX := by
  have hevents : (((d.xeArrived a).updXe (fun x => { x with held := x.held ++ [a] })).setF .XE_HELD_NOW n).f .XE_HELD_EVENTS =
      d.f .XE_HELD_EVENTS :=
    (Dev.f_setF_apart _ .XE_HELD_NOW .XE_HELD_EVENTS n 0 0 rfl (by decide) (by decide)).trans
      ((d.xeArrived_sees a).f .XE_HELD_EVENTS 0 0 (by decide) (by decide))
  subst he
  refine ⟨rfl, rfl, ?_, rfl, rfl, ?_⟩
  · exact (Dev.bumped_addF _ .XE_HELD_EVENTS 1 0 0 (by decide)).of_f hevents
  · exact (Dev.reg_setReg_ne _ _ _ _ _ _ (by decide)).trans (Dev.reg_setReg_ne _ _ _ _ _ _ (by decide))

/-- What becomes of a billet that is taken from the port. -/
theorem xeBillet_arrived (hstall : s.dev.stalled = false) (hnone : s.dev.xe.held.find? (fun a => s.dev.xeCanTake a.b) = none)
    (ha : s.dev.fab.inbox.find? (fun a => a.port == 36) = some a) {dir xid : Nat} (hdir : bits (bTag a.b) 23 1 = dir)
    (hxid : bits (bTag a.b) 14 9 = xid) {d : Dev} (hd : (s.dev.xeArrived a).consume a = d) :
    Completes .xeBillet s (fun e =>
        e.fab.inbox = s.dev.fab.inbox.erase a ∧ s.dev.bumped e .XE_BILLETS_RX_RX 1 ∧ s.dev.noneEnds e ∧
        (s.dev.xeCanTake a.b = false → e.xe = { s.dev.xe with held := s.dev.xe.held ++ [a] } ∧
          e.fab.slots = s.dev.fab.slots ∧ s.dev.bumped e .XE_HELD_EVENTS 1 ∧ e.mem = s.dev.mem ∧ e.cmds = s.dev.cmds) ∧
        (s.dev.xeCanTake a.b = true → e.fab = d.fab) ∧
        (s.dev.partOf (bJob a.b) = none → s.dev.bumped e .XE_LATE_LATE 1 ∧ e.xe = s.dev.xe ∧ e.mem = s.dev.mem) ∧
        (∀ p, s.dev.partOf (bJob a.b) = some p → s.dev.xeCanTake a.b = true →
          (s.dev.xidClosed p dir xid = true → s.dev.bumped e .XE_LATE_LATE 1 ∧ e.xe.ctxs = s.dev.xe.ctxs ∧
            e.mem = s.dev.mem ∧ e.cmds = s.dev.cmds ∧
            ((p, dir, xid) ∈ s.dev.xe.lates → e.link = s.dev.link) ∧
            ((p, dir, xid) ∉ s.dev.xe.lates → s.dev.posted e .XE_LATE (fun r => r.part = some p))) ∧
          (s.dev.xidClosed p dir xid = false → s.dev.xe? p dir xid = none → ∃ y, e.xe? p dir xid = some y ∧
            y.cmd = none ∧ y.since = s.dev.count ∧ y.serial = s.dev.xe.serial) ∧
          (∀ x src, s.dev.xidClosed p dir xid = false → s.dev.xe? p dir xid = some x →
            d.nodeRank x.part (bSrc a.b) = some src → (∀ c, x.cmd.bind s.dev.cmd? = some c → src < c.members) →
            (x.msgs.find? (ofMessage src a.b) = none → ∃ y, e.xe? p dir xid = some y ∧
              y.msgs.map (fun m => (m.src, m.index)) = x.msgs.map (fun m => (m.src, m.index)) ++ [(src, bIndex a.b)]) ∧
            (∀ m, x.msgs.find? (ofMessage src a.b) = some m → (m.buf = none ∨ bSeq a.b ∈ m.got) → e.xe = s.dev.xe ∧ e.mem = s.dev.mem) ∧
            (∀ m buf, x.msgs.find? (ofMessage src a.b) = some m → m.buf = some buf → bSeq a.b ∉ m.got →
              (∀ g, d.lndStore buf (64 * bSeq a.b) (bPayload a.b) = .ok g → e.mem = g.mem ∧
                ∃ y, e.xe? p dir xid = some y ∧ { m with got := m.got ++ [bSeq a.b] } ∈ y.msgs) ∧
              (∀ er, d.lndStore buf (64 * bSeq a.b) (bPayload a.b) = .error er →
                ∃ y, e.xe? p dir xid = some y ∧ { m with buf := none, got := [] } ∈ y.msgs))))) := by
  subst hdir hxid
  refine Completes.of_engine (g := Dev.xeBillet) rfl hstall ?_
  have hends := Dev.noneEnds_of_kept ((Dev.settle_kept _).trans s.dev.xeBillet_kept)
  obtain ⟨hgo, hwait⟩ := xeBillet_row hnone ha
  have hrx := (s.dev.updFab (fun f => { f with inbox := f.inbox.erase a })).bumped_addF .XE_BILLETS_RX_RX 1 0 0 (by decide)
  cases hcan : s.dev.xeCanTake a.b with
  | false =>
    obtain ⟨n, hrow⟩ := hwait hcan
    rw [hrow] at hends ⊢
    generalize he : (((s.dev.xeArrived a).updXe (fun x => { x with held := x.held ++ [a] })).setF .XE_HELD_NOW n).addF .XE_HELD_EVENTS 1 = e at *
    obtain ⟨hxe, hfab, hevents, hmem, hcmds, hreg⟩ := xeBillet_waits he
    refine ⟨congrArg FabSt.inbox hfab, (congrArg Fld.XE_BILLETS_RX_RX.of hreg).trans hrx, hends,
      fun _ => ⟨hxe, (congrArg FabSt.slots hfab :), hevents, hmem, hcmds⟩, by rintro ⟨⟩, fun hp => ?_, fun p hp h => by cases h⟩
    exact absurd (show s.dev.xeCanTake a.b = true by rw [Dev.xeCanTake, hp]) (by rw [hcan]; decide)
  | true =>
    have hsees := (s.dev.xeArrived_sees a).slots (s.dev.xeArrived_slots a)
    have hin := (FabSt.still_spec (Dev.consume_still (s.dev.xeArrived a) a)).1
    have hrx' : ((s.dev.xeArrived a).consume a).reg .XE_BILLETS_RX = (s.dev.xeArrived a).reg .XE_BILLETS_RX :=
      (s.dev.xeArrived_slots a).reg _ 0 0 (by decide)
    rw [hgo hcan] at hends ⊢
    rw [hd] at hsees hin hrx' hends ⊢
    clear hd
    obtain ⟨hfab, -, hreg⟩ := Dev.staging_inbox (d.xeTake_staging a.b)
    generalize he : d.xeTake a.b = e at *
    refine ⟨(congrArg FabSt.inbox hfab).trans hin, (congrArg Fld.XE_BILLETS_RX_RX.of (hreg.trans hrx')).trans hrx, hends, by rintro ⟨⟩,
      fun _ => hfab, fun hp => ?_, fun p hp _ => ⟨fun hclosed => ?_, fun hopen hx => ?_, fun x src hopen hx hsrc hmember => ?_⟩⟩
    · rw [Dev.xeTake_unbound ((hsees.partOf _).trans hp)] at he
      have hb := d.bumped_addF .XE_LATE_LATE 1 0 0 (by decide)
      rw [he, Dev.bumped, hsees.f .XE_LATE_LATE 0 0 (by decide) (by decide)] at hb
      refine ⟨hb, ?_, ?_⟩
      · exact (congrArg Dev.xe he).symm.trans hsees.xe
      · exact (congrArg Dev.mem he).symm.trans hsees.mem
    · rw [Dev.xeTake_closed ((hsees.partOf _).trans hp) ((hsees.xidClosed ..).trans hclosed)] at he
      obtain ⟨hb, hctxs, hmem, hcmds, hquiet, hposted⟩ := d.xeLate_spec p (bits (bTag a.b) 23 1) (bits (bTag a.b) 14 9)
      rw [he] at hb hctxs hmem hcmds hquiet hposted
      rw [Dev.bumped, hsees.f .XE_LATE_LATE 0 0 (by decide) (by decide)] at hb
      rw [hsees.xe] at hctxs hquiet hposted
      exact ⟨hb, hctxs, hmem.trans hsees.mem, hcmds.trans hsees.cmds, fun h => (hquiet h).trans hsees.link,
        fun h => Dev.posted_congr hsees.link hsees.count rfl (hposted h)⟩
    · have hy := Dev.xeTake_early ((hsees.partOf _).trans hp) ((hsees.xidClosed ..).trans hopen) ((hsees.xe? ..).trans hx)
      rwa [he, hsees.count, hsees.xe] at hy
    · have hy := xeBillet_stored he ((hsees.partOf _).trans hp) ((hsees.xidClosed ..).trans hopen) ((hsees.xe? ..).trans hx) hsrc
        (fun c hc => hmember c (by rwa [show d.cmd? = s.dev.cmd? from funext hsees.cmd?] at hc))
      rwa [hsees.xe, hsees.mem] at hy

end

end Sys2Proof.Machine
end

section
/-! PROOFS. Headers, vectors and closed exchange IDs (R101, R103, R107 to R109, R118; settles O48). -/

namespace Sys2Proof.Machine

/-! ## Writing vectors -/

/-- The engines' own state and the counts that a partition's exchange has recorded. -/
def Dev.exchanging (d : Dev) := (d.engines, fun i j => d.reg .XE_LOCAL i j)

theorem Dev.exchanging_of_beside {d e : Dev} (h : e.beside = d.beside) : e.exchanging = d.exchanging := by
  unfold exchanging
  rw [Dev.engines_of_beside h, funext fun i => funext fun j => Dev.beside_reg h (r := .XE_LOCAL) (by decide) i j]

theorem Dev.failWith_exchanging (d : Dev) (id j : Nat) (x : Fail) : (d.failWith id j x).exchanging = d.exchanging := by
  have hmoves := Dev.failMoves.failWith d id j x
  unfold exchanging
  rw [hmoves.engines, funext fun i => funext fun j => hmoves.reg .XE_LOCAL i j (by decide)]

theorem Recv.putRow_beside (r : Recv) (v : Version) (row : Nat) (vec : List Byte) : Op.keeps Dev.beside (r.putRow v row vec) := by
  unfold Recv.putRow
  refine .forM (fun j => ?_) _
  refine .bind (r.putBytes_beside ..) fun _ => ?_
  split
  · exact r.putBytes_beside ..
  · exact .pure _

theorem Dev.writeVectors_exchanging (d : Dev) (c : Cmd) (k : Nat) (ys : List (Nat × Nat × List Byte)) :
    (d.writeVectors c k ys).exchanging = d.exchanging := by
  have hone : ∀ (m : Dev) (x : XCtx) (y : Nat × Nat × List Byte), (m.work c.id y.1 (do
      let (v, r) ← receivePlan c x
      match (r.rowsOf y.1)[y.2.1]? with
      | some row => r.putRow v row y.2.2
      | none => pure ())).exchanging = m.exchanging := fun m x y => by
    refine Dev.work_frame ⟨fun n => Dev.exchanging_of_beside ((Op.keeps.bind (receivePlan_unread c x).beside_of_unread fun a => ?_).after n)⟩
      (fun e f => e.failWith_exchanging ..)
    dsimp only
    split
    · exact Recv.putRow_beside ..
    · exact .pure _
  have hall : ∀ (x : XCtx) (ys : List (Nat × Nat × List Byte)) (m : Dev), (ys.foldl (fun (d : Dev) y => d.work c.id y.1 (do
      let (v, r) ← receivePlan c x
      match (r.rowsOf y.1)[y.2.1]? with
      | some row => r.putRow v row y.2.2
      | none => pure ())) m).exchanging = m.exchanging := by
    intro x ys
    induction ys with
    | nil => exact fun _ => rfl
    | cons y ys ih => exact fun m => (ih _).trans (hone m x y)
  unfold Dev.writeVectors
  split
  · rfl
  · split
    · rfl
    · exact hall _ ys d

/-! ## Headers -/

/-- The counts of an exchange are recorded once every header is held; the contexts stay as they are. -/
theorem Dev.recordLocal_spec (d : Dev) (c : Cmd) (x : XCtx) (pairs : List (Nat × Nat)) :
    (d.recordLocal c x pairs).xe.ctxs = d.xe.ctxs ∧ (c.dir = 0 → c.members ≤ x.heads.length →
      (d.recordLocal c x pairs).flag .XE_LOCAL_VALID c.part = true ∧ (d.recordLocal c x pairs).f .XE_LOCAL_LAYER c.part = c.xeLayer) := by
  unfold Dev.recordLocal
  by_cases h : c.dir ≠ 0 ∨ x.heads.length < c.members
  · rw [if_pos h]
    exact ⟨rfl, fun hdir hall => absurd h (by omega)⟩
  · rw [if_neg h]
    have hlayer : c.xeLayer < 2 ^ 8 := Nat.mod_lt _ (by decide)
    refine ⟨rfl, fun _ _ => ⟨Dev.flag_of_one (Dev.f_setF_fit _ _ _ _ (by decide) (by decide)), ?_⟩⟩
    exact (Dev.f_setF_apart _ .XE_LOCAL_VALID .XE_LOCAL_LAYER 1 c.part 0 rfl (by decide) (by decide)).trans
      (Dev.f_setF_fit _ .XE_LOCAL_LAYER _ _ (by decide) hlayer)

@[simp] theorem XMsg.read_engines (m : XMsg) : Op.keeps Dev.engines m.read := by
  unfold XMsg.read
  split
  · exact .pure _
  · exact .mem fun _ => rfl

theorem headerOk_unread (c : Cmd) (src : Nat) (h : XHdr) : Op.keeps Dev.unread (headerOk c src h) := by
  unfold headerOk
  repeat' first | with_reducible apply Op.keeps.bind | intro _ | split
  all_goals simp

/-- The context with a source's header, whose message has given up its buffer. -/
def XCtx.withHead (x : XCtx) (src : Nat) (h : XHdr) : XCtx :=
  { x with heads := x.heads ++ [⟨src, h.grains, h.nData, h.entries.map (fun e => e.2.2), ⟨h.fmt, h.scaled, h.width⟩⟩]
           msgs := mapIf (fun y => y.src == src && y.index == 0) (fun y => { y with buf := none, got := [] }) x.msgs }

theorem Dev.exchanging_spec {d e : Dev} (h : e.exchanging = d.exchanging) : e.xe = d.xe ∧
    ∀ f : Fld, f.reg = .XE_LOCAL → ∀ i, e.f f i = d.f f i := by
  simp only [Dev.exchanging, Prod.mk.injEq] at h
  refine ⟨Dev.engines_xe h.1, fun f hf i => ?_⟩
  unfold Dev.f
  rw [hf]
  exact congrArg f.of (congrFun (congrFun h.2 i) 0)

theorem takeHeader_leads {d : Dev} {k src : Nat} {c : Cmd} {x : XCtx} (m : XMsg) (hx : d.xe.ctxs.find? (fun x => x.serial == k) = some x) :
    Op.leads (fun e => e.engines = d.engines) (takeHeader k src c m) (fun _ e => ∃ y h,
      e.xe.ctxs.find? (fun x => x.serial == k) = some y ∧ y.heads = x.heads ++ [h] ∧ h.src = src ∧
      (c.dir = 0 → c.members ≤ y.heads.length → e.flag .XE_LOCAL_VALID c.part = true ∧ e.f .XE_LOCAL_LAYER c.part = c.xeLayer)) := by
  unfold takeHeader
  extract_lets bad
  refine .step (XMsg.read_engines m) fun bs => ?_
  split
  · exact .throw _
  next h _ =>
  refine .step (.engines_of_unread (headerOk_unread c src h)) fun ok => .step (.engines_of_unread (need_unread ..)) fun _ =>
    .step (.act fun e => e.unstage_engines m) fun _ => ?_
  refine .bind (R := fun _ e => e.xe.ctxs.find? (fun x => x.serial == k) = some (x.withHead src h)) (.act fun e he => ?_) fun _ =>
    .act fun e he => ?_
  · have hex : e.xe.ctxs.find? (fun x => x.serial == k) = some x := by rw [Dev.engines_xe he]; exact hx
    exact Dev.find?_updCtx (g := fun x => x.withHead src h) (fun _ => rfl) hex (by simpa using List.find?_some hex)
  · rw [he]
    dsimp only
    obtain ⟨hctxs, hlocal⟩ := e.recordLocal_spec c (x.withHead src h) (h.entries.map (fun e => (e.1, e.2.1)))
    generalize e.recordLocal c (x.withHead src h) (h.entries.map (fun e => (e.1, e.2.1))) = m at *
    obtain ⟨hxe, hf⟩ := Dev.exchanging_spec (m.writeVectors_exchanging c k (x.withHead src h).rows)
    generalize m.writeVectors c k (x.withHead src h).rows = n at *
    refine ⟨x.withHead src h, _, by rw [hxe, hctxs]; exact he, rfl, rfl, fun hdir hall => ?_⟩
    obtain ⟨hvalid, hlayer⟩ := hlocal hdir hall
    exact ⟨by rw [Dev.flag, hf _ rfl]; exact hvalid, (hf _ rfl _).trans hlayer⟩

/-! ## Vectors -/

/-- At most one vector has joined the context's rows; one has where the message is whole. -/
def XCtx.vectorTaken (x : XCtx) (m : XMsg) (h : XHead) (k src idx : Nat) (e : Dev) : Prop :=
  ∃ y vs, e.xe.ctxs.find? (fun x => x.serial == k) = some y ∧ y.rows = x.rows ++ vs ∧ vs.length ≤ 1 ∧
    (m.complete = true → vs.length = 1) ∧ ∀ v ∈ vs, v.1 = src ∧ v.2.1 = perMessage h.form.v * (idx - 1) + m.done

theorem takeVector_leads {d : Dev} {k src idx : Nat} {c : Cmd} {x : XCtx} (m : XMsg) (h : XHead)
    (hx : d.xe.ctxs.find? (fun x => x.serial == k) = some x) :
    Op.leads (fun e => e.engines = d.engines) (takeVector k src idx c m h) (fun _ e => x.vectorTaken m h k src idx e) := by
  unfold takeVector
  extract_lets f bad last mine next rest
  have hnext : ∀ got, Op.leads (fun e => e.engines = d.engines) (next got) (fun _ e => x.vectorTaken m h k src idx e) := by
    intro got
    unfold next
    have hin : ∀ e : Dev, e.engines = d.engines → e.xe.ctxs.find? (fun x => x.serial == k) = some x := fun e he => by
      rw [Dev.engines_xe he]
      exact hx
    cases got with
    | none =>
      cases hm : m.complete with
      | true => exact .throw bad
      | false => exact .pure fun e he => ⟨x, [], hin e he, (List.append_nil _).symm, Nat.zero_le _,
        fun h => absurd h (by rw [hm]; decide), fun v hv => by cases hv⟩
    | some v =>
      obtain ⟨bytes, left⟩ := v
      dsimp only
      refine .step (.engines_of_unread (need_unread ..)) fun _ => .step (.engines_of_unread (need_unread ..)) fun _ =>
        .step (.act fun e => congrArg Prod.fst (e.writeVectors_exchanging ..)) fun _ => ?_
      have hend : ∀ g : XCtx → List XMsg, Op.leads (fun e => e.engines = d.engines) (Op.act fun d => d.updCtx k fun x =>
          { x with rows := x.rows ++ [(src, perMessage f.v * (idx - 1) + m.done, bytes)], msgs := g x })
          (fun _ e => x.vectorTaken m h k src idx e) := by
        intro g
        refine .act fun e he => ⟨_, [(src, perMessage f.v * (idx - 1) + m.done, bytes)],
          Dev.find?_updCtx (q := fun x => x.serial == k) (fun _ => rfl) (hin e he) (by simpa using List.find?_some hx), rfl, Nat.le_refl _,
          fun _ => rfl, fun v hv => ?_⟩
        rw [List.mem_singleton] at hv
        subst hv
        exact ⟨rfl, rfl⟩
      split
      · exact .step (.act fun e => e.unstage_engines m) fun _ => hend _
      · exact hend _
  clear_value next
  have hrest : ∀ r, Op.leads (fun e => e.engines = d.engines) (rest r) (fun _ e => x.vectorTaken m h k src idx e) := by
    intro r
    unfold rest
    split
    · exact .pure_bind (hnext _)
    · split
      · exact .bind (R := fun _ _ => False) (.throw _) fun _ => ⟨fun h => h.elim⟩
      · exact .pure_bind (hnext _)
  refine .step (XMsg.read_engines m) fun bs => ?_
  split
  · exact .bind (R := fun _ _ => False) (.throw _) fun _ => ⟨fun h => h.elim⟩
  · exact .pure_bind (hrest _)

/-! ## The rows -/

section
variable {s : State} {k src : Nat} {x : XCtx} {c : Cmd} {m : XMsg}

theorem segmentHeader_completes (hstall : s.dev.stalled = false) (hx : s.dev.xe.ctxs.find? (fun x => x.serial == k) = some x)
    (hcmd : x.cmd = some c.id) (hc : s.dev.cmd? c.id = some c) (hrun : c.running = true) (hbuf : m.buf ≠ none)
    (hm : x.msgs.find? (fun m => m.src == src && m.index == 0) = some m) (hwhole : m.complete = true) (hfirst : ∀ h ∈ x.heads, h.src ≠ src) :
    Completes (.segmentHeader k src) s (fun e => s.dev.noneEnds e ∧
      (Op.succeeds s.dev (takeHeader k src c m) = true → ∃ y h, e.xe.ctxs.find? (fun x => x.serial == k) = some y ∧
        y.heads = x.heads ++ [h] ∧ h.src = src ∧ (c.dir = 0 → c.members ≤ y.heads.length →
          e.flag .XE_LOCAL_VALID c.part = true ∧ e.f .XE_LOCAL_LAYER c.part = c.xeLayer)) ∧
      (Op.succeeds s.dev (takeHeader k src c m) = false → e.failed c.id)) := by
  refine Completes.of_engine (g := fun d => d.segmentHeader k src) rfl hstall ?_
  have hrow : s.dev.segmentHeader k src = s.dev.work c.id src (takeHeader k src c m) := by
    simp [Dev.segmentHeader, hx, hcmd, hc, hm, hrun, hwhole, hbuf]
    exact fun h hh hs => absurd hs (hfirst h hh)
  have hends := Dev.noneEnds_of_kept ((Dev.settle_kept _).trans (s.dev.segmentHeader_kept k src))
  rw [hrow] at hends ⊢
  refine ⟨hends, fun hs => ?_, Dev.failed_work_kept src (takeHeader_keeps ..) (takeHeader_causes ..) (Dev.live_of_running hc hrun)⟩
  have h := Dev.work_leads (id := c.id) (j := src) (takeHeader_leads m hx) rfl hs
  generalize s.dev.work c.id src (takeHeader k src c m) = e at *
  exact h

theorem vectorWrite_completes {idx : Nat} {h : XHead} (hstall : s.dev.stalled = false)
    (hx : s.dev.xe.ctxs.find? (fun x => x.serial == k) = some x)
    (hcmd : x.cmd = some c.id) (hc : s.dev.cmd? c.id = some c) (hrun : c.running = true) (hbuf : m.buf ≠ none)
    (hm : x.msgs.find? (fun m => m.src == src && m.index == idx) = some m) (hh : x.heads.find? (fun h => h.src == src) = some h)
    (hidx : idx ≠ 0) (hle : idx ≤ h.nData) :
    Completes (.vectorWrite k src idx) s (fun e => s.dev.noneEnds e ∧
      (Op.succeeds s.dev (takeVector k src idx c m h) = true → x.vectorTaken m h k src idx e) ∧
      (Op.succeeds s.dev (takeVector k src idx c m h) = false → e.failed c.id)) := by
  refine Completes.of_engine (g := fun d => d.vectorWrite k src idx) rfl hstall ?_
  have hrow : s.dev.vectorWrite k src idx = s.dev.work c.id src (takeVector k src idx c m h) := by
    simp [Dev.vectorWrite, hx, hcmd, hc, hm, hh, hrun, hbuf, hidx, Nat.not_lt.mpr hle]
  have hends := Dev.noneEnds_of_kept ((Dev.settle_kept _).trans (s.dev.vectorWrite_kept k src idx))
  rw [hrow] at hends ⊢
  refine ⟨hends, fun hs => ?_, Dev.failed_work_kept src (takeVector_keeps ..) (takeVector_causes ..) (Dev.live_of_running hc hrun)⟩
  have h := Dev.work_leads (id := c.id) (j := src) (takeVector_leads m h hx) rfl hs
  generalize s.dev.work c.id src (takeVector k src idx c m _) = e at *
  exact h

end

/-! ## Closed exchange IDs -/

/-- A bit of a register that is cleared, and the others. -/
theorem bit_cleared (v : BitVec 64) (k n : Nat) :
    bit (BitVec.ofNat 64 (setBit v.toNat k false)).toNat n = if n = k then false else bit v.toNat n := by
  have hle : setBit v.toNat k false < 2 ^ 64 := by
    have hv := v.isLt
    simp only [setBit, Bool.false_eq_true, if_false]
    omega
  rw [BitVec.toNat_ofNat, Nat.mod_eq_of_lt hle, bit_setBit]

theorem Dev.xidClosed_setXid (d : Dev) (p dir xid d' x' : Nat) (h' : d' < 2) (hx' : x' < 512) (h : dir < 2) (hx : xid < 512) (hp : p < 16) :
    (d.setXid p dir xid false).xidClosed p d' x' = if (d', x') = (dir, xid) then false else d.xidClosed p d' x' := by
  unfold Dev.xidClosed Dev.setXid
  dsimp only
  rw [Dev.reg_setReg]
  have hcode : Reg.code .XE_XID_CLOSED p (d' * 8 + x' / 64) = Reg.code .XE_XID_CLOSED p (dir * 8 + xid / 64) ↔
      d' * 8 + x' / 64 = dir * 8 + xid / 64 := by
    rw [Reg.code_inj (by omega) (by omega) (by omega) (by omega)]
    exact ⟨fun h => h.2.2, fun h => ⟨rfl, rfl, h⟩⟩
  by_cases hw : d' * 8 + x' / 64 = dir * 8 + xid / 64
  · rw [if_pos (hcode.mpr hw), bit_cleared, hw]
    have hiff : x' % 64 = xid % 64 ↔ (d', x') = (dir, xid) := by
      simp only [Prod.mk.injEq]
      omega
    simp only [hiff]
  · rw [if_neg (fun hc => hw (hcode.mp hc)), if_neg]
    rintro h
    simp only [Prod.mk.injEq] at h
    exact hw (by rw [h.1, h.2])

theorem xeXidCtrl_completes {s : State} {ap : Aperture} {p : Fin 16} {v : BitVec 32} (hacc : s.dev.accepts ap .XE_XID_CTRL p = true)
    {dir xid : Nat} (hdir : bits v.toNat 9 1 = dir) (hxid : bits v.toNat 0 9 = xid) :
    (bit v.toNat 10 = true → Completes (.xeXidCtrl ap p v) s (fun e => e.xidClosed p dir xid = false ∧
      (∀ d' x', d' < 2 → x' < 512 → (d', x') ≠ (dir, xid) → e.xidClosed p d' x' = s.dev.xidClosed p d' x') ∧
      s.dev.regsBut e [Reg.code .XE_XID_CLOSED p (dir * 8 + xid / 64)] ∧ e.xe.ctxs = s.dev.xe.ctxs)) ∧
    (bit v.toNat 10 = false → Completes (.xeXidCtrl ap p v) s (fun e => s.dev.same e)) := by
  have hval : (v.zeroExtend 64).toNat = v.toNat := (BitVec.toNat_setWidth ..).trans (Nat.mod_eq_of_lt (by omega))
  have hclear : Fld.XE_XID_CTRL_CLEAR.of (v.zeroExtend 64) = bits v.toNat 10 1 := congrArg (fun n => bits n 10 1) hval
  have hd : Fld.XE_XID_CTRL_DIR.of (v.zeroExtend 64) = dir := (congrArg (fun n => bits n 9 1) hval).trans hdir
  have hx : Fld.XE_XID_CTRL_XID.of (v.zeroExtend 64) = xid := (congrArg (fun n => bits n 0 9) hval).trans hxid
  refine ⟨fun hbit => Completes.of_accepted (g := fun d => d.xidCtrl p v) rfl hacc ?_,
    fun hbit => Completes.of_accepted (g := fun d => d.xidCtrl p v) rfl hacc ?_⟩
  · have hrow : s.dev.xidCtrl p v = (s.dev.setXid p dir xid false).updXe
        (fun x => { x with lates := x.lates.filter (fun l => l != (p.val, dir, xid)) }) := by
      simp only [Dev.xidCtrl, hclear, hd, hx]
      rw [if_neg]
      simp only [bit, decide_eq_true_eq] at hbit
      simp only [bits]
      omega
    have hdl : dir < 2 := by rw [← hdir]; exact Nat.mod_lt _ (by decide)
    have hxl : xid < 512 := by rw [← hxid]; exact Nat.mod_lt _ (by decide)
    rw [hrow]
    refine ⟨?_, fun d' x' h1 h2 hne => ?_, ?_, rfl⟩
    · exact (s.dev.xidClosed_setXid p dir xid dir xid hdl hxl hdl hxl p.isLt).trans (if_pos rfl)
    · exact (s.dev.xidClosed_setXid p dir xid d' x' h1 h2 hdl hxl p.isLt).trans (if_neg hne)
    · exact (Dev.regsBut.setReg (fun _ _ _ _ => rfl) _ (List.mem_singleton.mpr rfl) : s.dev.regsBut (s.dev.setXid p dir xid false) _)
  · have hrow : s.dev.xidCtrl p v = s.dev := by
      simp only [Dev.xidCtrl, hclear]
      rw [if_pos]
      simp only [bit, decide_eq_false_iff_not] at hbit
      simp only [bits]
      omega
    rw [hrow]
    rfl

/-- Settles O48: what the Exchange Engine sends, takes in, writes and discards. -/
theorem exchangeCommandsAct : Obligations.ExchangeCommandsAct := by
  unfold Obligations.ExchangeCommandsAct
  exact fun s => ⟨fun hstall => ⟨fun id c x hc hx hrun hnew => ⟨fun r hless hr => exchange_sends hstall hc hx hrun hnew hless hr,
      fun hsent hall => ⟨exchange_finishes hstall hc hx hrun hnew hsent hall, combine_finishes hstall hc hx hrun hnew hsent hall⟩⟩,
    fun a ha => xeBillet_held hstall ha, fun a hnone ha => xeBillet_arrived hstall hnone ha rfl rfl rfl,
    fun k src x c m hx hcmd hc hrun hbuf => ⟨segmentHeader_completes hstall hx hcmd hc hrun hbuf,
      fun idx h hm hh => vectorWrite_completes hstall hx hcmd hc hrun hbuf hm hh⟩⟩,
    fun ap p v hacc => xeXidCtrl_completes hacc rfl rfl⟩

end Sys2Proof.Machine
end

section
/-! PROOFS. Billets that arrive on a link, and link control words (R246, R247, R251, R252, R264, R265; O55). -/

namespace Sys2Proof.Machine

/-! ## The counters of discarded billets -/

/-- The counters of the billets that have been discarded. -/
def Dev.dropped (d : Dev) (i j : Nat) : BitVec 64 := d.reg .FAB_DROP i j

theorem Dev.setF_dropped (d : Dev) (f : Fld) (n i j : Nat) (hf : f.reg ≠ .FAB_DROP) : (d.setF f n i j).dropped = d.dropped :=
  funext fun _ => funext fun _ => Dev.reg_setReg_ne d _ i j _ _ hf.symm

theorem Dev.noteShared_dropped (d : Dev) : d.noteShared.dropped = d.dropped := by
  unfold Dev.noteShared
  dsimp only
  split
  · rw [Dev.setF_dropped _ _ _ _ _ (by decide), Dev.setF_dropped _ _ _ _ _ (by decide)]
  · rw [Dev.setF_dropped _ _ _ _ _ (by decide)]

theorem Dev.pushOut_dropped (d : Dev) : d.pushOut.dropped = d.dropped := by
  unfold Dev.pushOut
  split
  · rfl
  · exact Dev.setF_dropped _ .FAB_PUSHOUT_PUSHED _ _ _ (by decide)

theorem Dev.pushOuts_dropped (n : Nat) (d : Dev) : (d.pushOuts n).dropped = d.dropped := by
  induction n generalizing d with
  | zero => rfl
  | succ n ih => exact (ih _).trans d.pushOut_dropped

theorem Dev.grantShared_dropped (d : Dev) (l : Nat) : (d.grantShared l).dropped = d.dropped := by
  unfold Dev.grantShared
  split
  · rfl
  · refine (Dev.noteShared_dropped _).trans ((Dev.setF_dropped _ .FAB_LINK_OCC_SHARED_OUT _ _ _ (by decide)).trans ?_)
    exact Dev.pushOuts_dropped _ d

theorem Dev.grantAll_dropped (d : Dev) : d.grantAll.dropped = d.dropped := by
  unfold Dev.grantAll
  refine (List.foldlRecOn (motive := fun m : Dev => m.dropped = d.noteShared.dropped) _ _ rfl fun m hm l _ => ?_).trans d.noteShared_dropped
  exact (m.grantShared_dropped l).trans hm

/-- A slot that empties is no discarded billet. -/
theorem Dev.freeSlot_dropped (d : Dev) (s : Slot) : (d.freeSlot s).dropped = d.dropped := by
  unfold Dev.freeSlot
  dsimp only
  split
  · exact Dev.grantAll_dropped _
  split
  · exact Dev.grantAll_dropped _
  refine (Dev.grantAll_dropped _).trans ?_
  have hback : ∀ (x : Dev) (b : Bool), (if b = true then x.setF .FAB_LINK_OCC_SHARED_OUT (x.sharedOut s.input - 1) s.input
      else x).dropped = x.dropped := by
    intro x b
    split
    · exact Dev.setF_dropped _ _ _ _ _ (by decide)
    · rfl
  refine (hback _ _).trans ?_
  split
  · rfl
  split <;> rfl

theorem Dev.leave_dropped (d : Dev) (s : Slot) (port : Nat) : (d.leave s port).dropped = d.dropped := by
  unfold Dev.leave
  dsimp only
  split
  · exact d.freeSlot_dropped s
  · rfl

theorem Dev.consume_dropped (d : Dev) (a : Arrival) : (d.consume a).dropped = d.dropped := by
  unfold Dev.consume
  split
  · exact d.leave_dropped ..
  · rfl

theorem Dev.f_postFirst (d : Dev) (c : Code) (item addr index : Nat) (who : Who) {g : Fld} (i j : Nat) (h : g.reg ≠ .ERR_STATUS) :
    (d.postFirst c item addr index who).f g i j = d.f g i j := by
  unfold Dev.postFirst
  dsimp only
  split
  · rfl
  · exact Dev.f_post _ c addr index who 0 i j h

/-- A discarded billet is counted by its cause, whatever of the first of its window is reported. -/
theorem Dev.dropped_postFirst {d m : Dev} (h : m.dropped = d.dropped) (g : Fld) (hg : g.reg = .FAB_DROP) (hw : g.lo + g.width ≤ 64)
    (c : Code) (item addr index : Nat) (who : Who) : d.bumped ((m.addF g 1).postFirst c item addr index who) g 1 := by
  have hb := m.bumped_addF g 1 0 0 hw
  have hf : m.f g 0 0 = d.f g 0 0 := congrArg g.of (by rw [hg]; exact congrFun (congrFun h 0) 0)
  unfold Dev.bumped at hb ⊢
  rw [Dev.f_postFirst _ _ _ _ _ _ _ _ (by rw [hg]; decide), hb, hf]

theorem Dev.dropMalformed_bumped {d m : Dev} (h : m.dropped = d.dropped) : d.bumped m.dropMalformed .FAB_DROP_MALFORMED 1 :=
  Dev.dropped_postFirst h .FAB_DROP_MALFORMED rfl (by decide) ..

theorem Dev.dropMalformed_fab (d : Dev) : d.dropMalformed.fab = d.fab := Dev.post_fab_eq ..

/-! ## A link that goes down -/

/-- A link that carries billets, and is lost, shows that it is down, and the cause. -/
theorem Dev.linkGoDown_shown {d : Dev} {l : Nat} {cause : Nat} (hst : d.linkState l = 2 ∨ d.linkState l = 3) (hc : cause < 8) :
    (d.linkGoDown l cause).linkState l = 0 ∧ (d.linkGoDown l cause).f .FAB_LINK_STATUS_CAUSE l = cause := by
  rw [Dev.linkGoDown_lost (by omega) (by omega) (by omega)]
  have hcount := Dev.countLoss_moves (d.showDown l cause) l cause
  split
  · obtain ⟨h0, hcause, -⟩ := (hcount.trans (Dev.loseUp_moves _ l cause)).shown hc
    exact ⟨h0, hcause⟩
  · obtain ⟨h0, hcause, -⟩ := (hcount.trans (.restartLink _ l (by decide))).shown hc
    exact ⟨h0, hcause⟩

/-! ## A billet that arrives -/

/-- The credit of a discarded billet returns: slots may go, none is filled, and no count of discarded billets changes. -/
theorem Dev.creditBack_spec (d : Dev) (l : Nat) (b : Billet) :
    d.slotsMove (d.creditBack l b) ∧ d.slotsThin (d.creditBack l b) ∧ (d.creditBack l b).dropped = d.dropped := by
  have hfree : ∀ s : Slot, d.slotsThin (d.freeSlot s) := fun s => (Dev.slotsThin.filter d _).trans (.freeSlot d s)
  unfold Dev.creditBack Dev.arrive
  split
  · exact ⟨.refl d, .refl d, rfl⟩
  split
  · exact ⟨.refl d, .refl d, rfl⟩
  · split
    · refine ⟨(Dev.slotsMove.updFab d _).trans (.freeSlot _ _), ?_, (Dev.freeSlot_dropped _ _)⟩
      exact (Dev.slotsThin.release d _ _).trans ((Dev.slotsThin.filter _ _).trans (.freeSlot _ _))
    · exact ⟨.freeSlot d _, hfree _, d.freeSlot_dropped _⟩

/-- A billet that is discarded on arrival. -/
theorem Dev.discards_spec (d : Dev) (l : Nat) (b : Billet) {m e : Dev}
    (hm : (if d.linkState l = 3 then (d.addF .FAB_LINK_RX_RX 1 l).creditBack l b else d.addF .FAB_LINK_RX_RX 1 l) = m)
    (he : m.dropMalformed = e) :
    d.bumped e .FAB_DROP_MALFORMED 1 ∧ d.bumped e .FAB_LINK_RX_RX 1 l ∧ e.linkState l = d.linkState l ∧ e.fab.disc = d.fab.disc ∧
    (∀ x ∈ e.fab.slots, ∃ y ∈ d.fab.slots, x = { y with shared := x.shared }) ∧ (d.linkState l ≠ 3 → e.fab = d.fab) := by
  have hb := d.bumped_addF .FAB_LINK_RX_RX 1 l 0 (by decide)
  have hst : (d.addF .FAB_LINK_RX_RX 1 l).linkState l = d.linkState l :=
    Dev.f_setF_ne_reg d .FAB_LINK_RX_RX .FAB_LINK_STATUS_STATE _ _ _ _ _ (by decide)
  have hdrop : (d.addF .FAB_LINK_RX_RX 1 l).dropped = d.dropped := Dev.setF_dropped d .FAB_LINK_RX_RX _ _ _ (by decide)
  have hfab : (d.addF .FAB_LINK_RX_RX 1 l).fab = d.fab := rfl
  generalize d.addF .FAB_LINK_RX_RX 1 l = c at *
  have hcm : c.slotsMove m ∧ c.slotsThin m ∧ m.dropped = c.dropped ∧ (d.linkState l ≠ 3 → m.fab = c.fab) := by
    subst hm
    split
    · next h3 =>
      obtain ⟨h1, h2, h4⟩ := c.creditBack_spec l b
      exact ⟨h1, h2, h4, fun h => absurd h3 h⟩
    · exact ⟨.refl c, .refl c, rfl, fun _ => rfl⟩
  obtain ⟨hmoves, hthin, hd, hsame⟩ := hcm
  have hmal := Dev.dropMalformed_bumped (hd.trans hdrop)
  have hmove := hmoves.switchMoves.trans (.dropMalformed m)
  have hefab := m.dropMalformed_fab
  rw [he] at hmal hmove hefab
  refine ⟨hmal, ?_, (hmove.f (f := .FAB_LINK_STATUS_STATE) l 0 (by decide)).trans hst, ?_, ?_, fun h => hefab.trans ((hsame h).trans hfab)⟩
  · unfold Dev.bumped at hb ⊢
    rw [← hb]
    exact hmove.f l 0 (by decide)
  · rw [hefab, (FabSt.still_spec hthin.still).2.2.1, hfab]
  · rw [hefab, ← hfab]
    exact hthin.slots

/-- A billet of an UP link takes the place it finds, with the copies of its route. -/
theorem Dev.arrives_spec (d : Dev) (l : Nat) (b : Billet) (since : Nat) {shared : Bool}
    (hplace : d.place? l (bTc b) (bVc b) = some shared) (hlive : (d.route l b).filterMap (fun x => x) ≠ []) {c e : Dev}
    (hc : d.addF .FAB_LINK_RX_RX 1 l = c)
    (he : c.arrive l b (fun shared m => m.enqueue l shared b since none (m.route l b)) = e) :
    d.bumped e .FAB_LINK_RX_RX 1 l ∧ ∃ x, e.fab.slots = d.fab.slots ++ [x] ∧ x.input = l ∧ x.cls = bTc b ∧ x.vc = bVc b ∧
      x.shared = shared ∧ x.job = bJob b ∧ x.copies = (d.route l b).filterMap (fun x => x) ∧ x.edge = d.ring.edges ∧ x.since = since := by
  have hb := d.bumped_addF .FAB_LINK_RX_RX 1 l 0 (by decide)
  have hroutes : d.sameRoutes (d.addF .FAB_LINK_RX_RX 1 l) := .setF d _ _ _ _ (by decide)
  have hring : (d.addF .FAB_LINK_RX_RX 1 l).ring = d.ring := rfl
  rw [hc] at hb hroutes hring
  obtain ⟨m, hm, hmroutes, hmring, hcm⟩ : ∃ m, c.arrive l b (fun shared m => m.enqueue l shared b since none (m.route l b)) =
      m.enqueue l shared b since none (m.route l b) ∧ c.sameRoutes m ∧ m.ring = c.ring ∧ c.slotsMove m := by
    unfold Dev.arrive
    rw [hroutes.place?, hplace]
    dsimp only
    split
    · exact ⟨_, rfl, ⟨rfl, fun _ _ _ _ => rfl⟩, rfl, .updFab c _⟩
    · exact ⟨_, rfl, .refl c, rfl, .refl c⟩
  rw [← he, hm]
  have hroute : m.route l b = d.route l b := (hmroutes.route l b).trans (hroutes.route l b)
  rw [hroute]
  refine ⟨?_, ?_⟩
  · unfold Dev.bumped at hb ⊢
    rw [← hb]
    exact (hcm.switchMoves.trans (.enqueue m ..)).f l 0 (by decide)
  · obtain ⟨x, hx, h1, h2, h3, h4, h5, h6, h7, h8⟩ := m.enqueue_slots l shared b since none hlive
    exact ⟨x, by rw [hx, hmroutes.slots, hroutes.slots], h1, h2, h3, h5, h4, h6, by rw [h7, hmring, hring], h8⟩

/-! ### What an arriving billet does, by its kind -/

section
variable {d : Dev} {l stamp since : Nat} {b : Billet}

theorem Dev.receive_idle (h : b = 0) : d.receive l b stamp since = d := if_pos h

theorem Dev.receive_garbled (h : b ≠ 0) (hcrc : bits b.toNat 160 32 ≠ bCrc b) :
    d.receive l b stamp since = if d.linkState l = 2 ∨ d.linkState l = 3 then d.linkGoDown l 2 else d :=
  (if_neg h).trans (if_pos hcrc)

theorem Dev.receive_sound (h : b ≠ 0) (hcrc : bits b.toNat 160 32 = bCrc b) :
    d.receive l b stamp since =
      (let c := d.addF .FAB_LINK_RX_RX 1 l
       if d.malformed b || (bType b == 2 && d.linkState l != 2) then (if d.linkState l = 3 then c.creditBack l b else c).dropMalformed
       else if bType b = 2 then c.updFab (fun f => { f with disc := f.disc ++ [⟨l, b, stamp⟩] })
       else if d.linkState l ≠ 3 then c
       else c.arrive l b (fun shared m => m.enqueue l shared b since none (m.route l b))) := by
  have hform : (d.addF .FAB_LINK_RX_RX 1 l).malformed b = d.malformed b :=
    (Dev.sameRoutes.setF d .FAB_LINK_RX_RX _ _ _ (by decide)).malformed b
  rw [← hform]
  exact (if_neg h).trans (if_neg (not_not_intro hcrc))

end

theorem billetReceive_spec (s : State) (l : Fin 36) (b : Billet) (stamp : BitVec 64) (since : BitVec 16) :
    (b = 0 → Completes (.billetReceive l b stamp since) s (fun e => s.dev.same e)) ∧
    (b ≠ 0 → bits b.toNat 160 32 ≠ bCrc b →
      (s.dev.linkState l = 2 ∨ s.dev.linkState l = 3 → Completes (.billetReceive l b stamp since) s (fun e =>
        e.linkState l = 0 ∧ e.f .FAB_LINK_STATUS_CAUSE l = 2)) ∧
      (s.dev.linkState l ≠ 2 → s.dev.linkState l ≠ 3 → Completes (.billetReceive l b stamp since) s (fun e => s.dev.same e))) ∧
    (b ≠ 0 → bits b.toNat 160 32 = bCrc b →
      (s.dev.malformed b = true ∨ (bType b = 2 ∧ s.dev.linkState l ≠ 2) →
        Completes (.billetReceive l b stamp since) s (fun e => s.dev.bumped e .FAB_DROP_MALFORMED 1 ∧
          s.dev.bumped e .FAB_LINK_RX_RX 1 l ∧ e.linkState l = s.dev.linkState l ∧ e.fab.disc = s.dev.fab.disc ∧
          (∀ x ∈ e.fab.slots, ∃ y ∈ s.dev.fab.slots, x = { y with shared := x.shared }) ∧
          (s.dev.linkState l ≠ 3 → e.fab = s.dev.fab))) ∧
      (s.dev.malformed b = false → bType b = 2 → s.dev.linkState l = 2 →
        Completes (.billetReceive l b stamp since) s (fun e => s.dev.bumped e .FAB_LINK_RX_RX 1 l ∧
          e.fab = { s.dev.fab with disc := s.dev.fab.disc ++ [⟨l, b, stamp.toNat⟩] } ∧ e.link = s.dev.link)) ∧
      (s.dev.malformed b = false → bType b ≠ 2 → s.dev.linkState l ≠ 3 →
        Completes (.billetReceive l b stamp since) s (fun e => s.dev.bumped e .FAB_LINK_RX_RX 1 l ∧
          e.fab = s.dev.fab ∧ e.link = s.dev.link)) ∧
      (∀ shared, s.dev.malformed b = false → bType b ≠ 2 → s.dev.linkState l = 3 →
        s.dev.place? l (bTc b) (bVc b) = some shared → (s.dev.route l b).filterMap (fun x => x) ≠ [] →
        Completes (.billetReceive l b stamp since) s (fun e => s.dev.bumped e .FAB_LINK_RX_RX 1 l ∧
          ∃ x, e.fab.slots = s.dev.fab.slots ++ [x] ∧ x.input = l.val ∧ x.cls = bTc b ∧ x.vc = bVc b ∧
            x.shared = shared ∧ x.job = bJob b ∧ x.copies = (s.dev.route l b).filterMap (fun x => x) ∧
            x.edge = s.dev.ring.edges ∧ x.since = since.toNat))) := by
  have hrow : ∀ P : Dev → Prop, P (s.dev.receive l b stamp.toNat since.toNat).settle → Completes (.billetReceive l b stamp since) s P :=
    fun P h => Completes.of_act (g := fun d => d.receive l b stamp.toNat since.toNat) rfl h
  have hrx := s.dev.bumped_addF .FAB_LINK_RX_RX 1 l 0 (by decide)
  refine ⟨fun h => hrow _ ?_, fun h hcrc => ⟨fun hst => hrow _ ?_, fun h2 h3 => hrow _ ?_⟩, fun h hcrc =>
    ⟨fun hbad => hrow _ ?_, fun hform ht hst => hrow _ ?_, fun hform ht hst => hrow _ ?_, fun shared hform ht hst hplace hlive => hrow _ ?_⟩⟩
  · rw [Dev.receive_idle h]
    exact Dev.same_settle _
  · rw [Dev.receive_garbled h hcrc, if_pos hst]
    exact Dev.linkGoDown_shown hst (by decide)
  · rw [Dev.receive_garbled h hcrc, if_neg (by omega)]
    exact Dev.same_settle _
  · rw [Dev.receive_sound h hcrc, if_pos (by simpa using hbad)]
    have h := Dev.discards_spec s.dev l b rfl rfl
    exact h
  · rw [Dev.receive_sound h hcrc, if_neg (by simp [hform, hst]), if_pos ht]
    exact ⟨hrx, rfl, rfl⟩
  · rw [Dev.receive_sound h hcrc, if_neg (by simp [hform, ht]), if_neg ht, if_pos hst]
    exact ⟨hrx, rfl, rfl⟩
  · rw [Dev.receive_sound h hcrc, if_neg (by simp [hform, ht]), if_neg ht, if_neg (not_not_intro hst)]
    have h := Dev.arrives_spec s.dev l b since.toNat hplace hlive rfl rfl
    exact h

/-! ## Link control words -/

/-- A link control word whose CRC is right. -/
theorem Dev.controlWord_sound {d : Dev} {l w : Nat} (hup : d.linkUp l = true) (hcrc : bits w 56 8 = crc8 w) {sel key diff : Nat}
    (hsel : bits w 0 4 = sel) (hkey : l * 16 + sel = key)
    (hdiff : (bits w 4 12 + 4096 - SMap.get 0 d.fab.lastRun key) % 4096 = diff) {e : Dev} (he : d.controlWord l w = e) :
    SMap.get 0 e.fab.lastRun key = bits w 4 12 ∧ e.regs = d.regs ∧ e.fab.slots = d.fab.slots ∧
    (sel < 14 → SMap.get 0 e.fab.sent key = SMap.get 0 d.fab.sent key - diff) ∧
    (sel = 14 → SMap.get 0 e.fab.grantsIn l = SMap.get 0 d.fab.grantsIn l + diff ∧ e.fab.sent = d.fab.sent) := by
  subst hsel hkey
  unfold Dev.controlWord at he
  rw [if_neg (by simp [hup]), if_neg (not_not_intro hcrc)] at he
  dsimp only at he
  rw [hdiff] at he
  have hrun : SMap.get 0 (SMap.set 0 d.fab.lastRun (l * 16 + bits w 0 4) (bits w 4 12)) (l * 16 + bits w 0 4) = bits w 4 12 := by
    rw [SMap.get_set, if_pos rfl]
  split at he
  · next h15 =>
    subst he
    exact ⟨hrun, rfl, rfl, fun h => absurd h (by omega), fun h => absurd h (by omega)⟩
  split at he
  · next h14 =>
    subst he
    refine ⟨hrun, rfl, rfl, fun h => absurd h (by omega), fun _ => ⟨?_, rfl⟩⟩
    exact (SMap.get_set ..).trans (if_pos rfl)
  · next h14 =>
    subst he
    refine ⟨hrun, rfl, rfl, fun _ => ?_, fun h => absurd h h14⟩
    exact (SMap.get_set ..).trans (if_pos rfl)

theorem linkControlWord_spec (s : State) (l : Fin 36) (w : BitVec 64) (hup : s.dev.linkUp l = true) {sel key diff : Nat}
    (hsel : bits w.toNat 0 4 = sel) (hkey : l.val * 16 + sel = key)
    (hdiff : (bits w.toNat 4 12 + 4096 - SMap.get 0 s.dev.fab.lastRun key) % 4096 = diff) :
    (bits w.toNat 56 8 ≠ crc8 w.toNat → Completes (.linkControlWord l w) s (fun e =>
      e.linkState l = 0 ∧ e.f .FAB_LINK_STATUS_CAUSE l = 3)) ∧
    (bits w.toNat 56 8 = crc8 w.toNat → Completes (.linkControlWord l w) s (fun e =>
      SMap.get 0 e.fab.lastRun key = bits w.toNat 4 12 ∧ e.regs = s.dev.regs ∧ e.fab.slots = s.dev.fab.slots ∧
      (sel < 14 → SMap.get 0 e.fab.sent key = SMap.get 0 s.dev.fab.sent key - diff) ∧
      (sel = 14 → SMap.get 0 e.fab.grantsIn l = SMap.get 0 s.dev.fab.grantsIn l + diff ∧
        e.fab.sent = s.dev.fab.sent))) := by
  refine ⟨fun hcrc => Completes.of_act (g := fun d => d.controlWord l w.toNat) rfl ?_,
    fun hcrc => Completes.of_act (g := fun d => d.controlWord l w.toNat) rfl ?_⟩
  · rw [show s.dev.controlWord l w.toNat = s.dev.linkGoDown l 3 from (if_neg (by simp [hup])).trans (if_pos hcrc)]
    exact Dev.linkGoDown_shown (.inr (by simpa [Dev.linkUp] using hup)) (by decide)
  · have h := Dev.controlWord_sound hup hcrc hsel hkey hdiff rfl
    exact h

end Sys2Proof.Machine
end

section
/-! PROOFS. A switch output takes a billet and sends it on, or an idle slot (R246, R263, R266, R314; O55). -/

namespace Sys2Proof.Machine

/-! ## The choice of a billet -/

/-- The Switch Core but for the pointers and the cycle of its matching. -/
def FabSt.settled (f : FabSt) : FabSt := { f with ptr := [], served := [], used := [], matching := [] }

/-- What the choice of a billet leaves: the slots and the links' counts, the registers, what has been sent and the captures. -/
def Dev.choosing (d : Dev) := (d.fab.settled, d.regs, d.out, d.arb.capture)

section
variable (d : Dev)

theorem Dev.setGrant_choosing (a : Nat) (g : Option Grant) : (d.setGrant a g).choosing = d.choosing := rfl

theorem Dev.draw_choosing (a : Nat) (reqs : List (Nat × Nat)) : (d.draw a reqs).1.choosing = d.choosing := by
  unfold Dev.draw
  dsimp only
  split <;> rfl

theorem Dev.arbitrate_choosing (a : Nat) (reqs : List (Nat × Nat)) : (d.arbitrate a reqs).1.choosing = d.choosing := by
  unfold Dev.arbitrate
  split
  · split
    · rfl
    · exact d.draw_choosing ..
  · exact d.draw_choosing ..

theorem Dev.treeGrant_choosing (a : Nat) (reqs : List (Nat × Nat)) : (d.treeGrant a reqs).1.choosing = d.choosing := by
  unfold Dev.treeGrant
  split
  · split
    · rfl
    · exact d.arbitrate_choosing ..
  · exact d.arbitrate_choosing ..

theorem Dev.rotate_choosing (site : Nat) (key : Slot × Copy → Nat) (l : List (Slot × Copy)) :
    (d.rotate site key l).1.choosing = d.choosing := by
  unfold Dev.rotate
  split <;> rfl

theorem Dev.drawOutput_choosing (port : Nat) (l : List (Slot × Copy)) : (d.drawOutput port l).1.choosing = d.choosing := by
  unfold Dev.drawOutput
  dsimp only
  split
  · exact d.treeGrant_choosing ..
  · split
    · exact (Dev.treeGrant_choosing ..).trans (d.treeGrant_choosing ..)
    · exact (Dev.treeGrant_choosing ..).trans (d.treeGrant_choosing ..)

theorem Dev.ite_choosing {α : Type} {c : Prop} [Decidable c] {x y : Dev × α} (hx : x.1.choosing = d.choosing)
    (hy : y.1.choosing = d.choosing) : (if c then x else y).1.choosing = d.choosing := by
  split
  · exact hx
  · exact hy

theorem Dev.pickOutput_choosing (port : Nat) : (d.pickOutput port).1.choosing = d.choosing :=
  d.ite_choosing (d.rotate_choosing ..) (d.ite_choosing (d.ite_choosing rfl (d.rotate_choosing ..))
    (d.ite_choosing (d.drawOutput_choosing ..) (d.rotate_choosing ..)))

theorem Dev.matchOnce_choosing (first : Bool) (m : List (Nat × Nat)) : (d.matchOnce first m).1.choosing = d.choosing := by
  unfold Dev.matchOnce
  dsimp only
  split <;> rfl

theorem Dev.beginCycle_choosing (port : Nat) : (d.beginCycle port).choosing = d.choosing := by
  have hserve : ∀ m : Dev, (m.updFab (fun f => { f with served := f.served ++ [port] })).choosing = m.choosing := fun _ => rfl
  have hcycle : ∀ (m : Dev) ms, (m.updFab (fun f => { f with served := [], used := [], matching := ms })).choosing = m.choosing :=
    fun _ _ => rfl
  unfold Dev.beginCycle
  split
  · rfl
  dsimp only
  rw [hserve]
  split
  · rw [hcycle]
    exact (Dev.matchOnce_choosing _ _ _).trans ((Dev.matchOnce_choosing _ _ _).trans (d.matchOnce_choosing _ _))
  · rfl

end

/-- What of the Switch Core the choice leaves, field by field. -/
theorem Dev.choosing_spec {d e : Dev} (h : e.choosing = d.choosing) :
    e.fab.slots = d.fab.slots ∧ e.fab.inject = d.fab.inject ∧ e.fab.blk = d.fab.blk ∧ e.fab.sent = d.fab.sent ∧
    e.fab.arrivals = d.fab.arrivals ∧ e.regs = d.regs ∧ e.out = d.out ∧ e.arb.capture = d.arb.capture :=
  have hf : e.fab.settled = d.fab.settled := congrArg Prod.fst h
  ⟨(congrArg FabSt.slots hf :), (congrArg FabSt.inject hf :), (congrArg FabSt.blk hf :), (congrArg FabSt.sent hf :),
    (congrArg FabSt.arrivals hf :), (congrArg (fun x => x.2.1) h :), (congrArg (fun x => x.2.2.1) h :), (congrArg (fun x => x.2.2.2) h :)⟩

theorem Dev.pump_idle {d : Dev} (h : d.fab.inject = []) : d.pump = d := by
  have hd : d = { d with fab := { d.fab with inject := [] } } := by rw [← h]
  unfold Dev.pump
  rw [h]
  exact hd.symm

/-! ## A billet that leaves -/

/-- The control word that follows the n-th slot of a link, if it ends a block (R246, R247). -/
def Dev.slotControl (d : Dev) (l n : Nat) : List Out :=
  if n % 11 = 0 then [.controlWord l (BitVec.ofNat 64 (ctrlWord ((n / 11 - 1) % 15) (SMap.get 0 d.fab.released (l * 16 + (n / 11 - 1) % 15))))]
  else []

theorem Dev.slotSent_eq (d : Dev) {l n : Nat} (hn : SMap.get 0 d.fab.blk l + 1 = n) :
    d.slotSent l = { d with fab := { d.fab with blk := SMap.set 0 d.fab.blk l n }, out := d.out ++ d.slotControl l n } := by
  subst hn
  unfold Dev.slotSent Dev.slotControl
  dsimp only
  by_cases h : (SMap.get 0 d.fab.blk l + 1) % 11 = 0
  · rw [if_neg (not_not_intro h), if_pos h]
    rfl
  · rw [if_pos h, if_neg h, List.append_nil]
    rfl

/-- No copy of the slots of a number waits for a port. -/
def Dev.leftBy (d : Dev) (serial port : Nat) : Prop := ∀ y ∈ d.fab.slots, y.serial = serial → ∀ z ∈ y.copies, z.port ≠ port

theorem Dev.leave_leftBy (d : Dev) (s : Slot) (port : Nat) : (d.leave s port).leftBy s.serial port := by
  intro y hy hserial
  unfold Dev.leave at hy
  dsimp only at hy
  split at hy
  · obtain ⟨z, hz, hyz⟩ := (Dev.slotsThin.freeSlot d s).slots y hy
    rw [hyz] at hserial
    exact absurd hserial (by simpa using (List.mem_filter.mp hz).2)
  · obtain ⟨z, -, hz⟩ := List.mem_map.mp hy
    split at hz
    · rw [← hz]
      exact fun k hk => by simpa using (List.mem_filter.mp hk).2
    · next h =>
      rw [← hz] at hserial
      exact absurd hserial (by simpa using h)

theorem Dev.toPort_leftBy (d : Dev) (s : Slot) (port : Nat) (b : Billet) : (d.toPort s port b).leftBy s.serial port := by
  intro y hy hserial k hk
  obtain ⟨z, -, hz⟩ := List.mem_map.mp hy
  split at hz
  · rw [← hz] at hk
    obtain ⟨c, -, hc⟩ := List.mem_map.mp hk
    split at hc
    · next h =>
      have hport := beq_iff_eq.mp h
      rw [← hc]
      dsimp only
      omega
    · next h =>
      rw [← hc]
      simpa using h
  · next h =>
    rw [← hz] at hserial
    exact absurd hserial (by simpa using h)

theorem Dev.leave_inject (d : Dev) (s : Slot) (port : Nat) : (d.leave s port).fab.inject = d.fab.inject := by
  unfold Dev.leave
  dsimp only
  split
  · exact (Dev.slotsThin.freeSlot d s).inject
  · rfl

/-- The debug port's capture ends, and nothing but the arbiters changes. -/
theorem Dev.captureBillet_spec (d : Dev) (port : Nat) (b : Billet) :
    { d.captureBillet port b with arb := d.arb } = d ∧ port ∉ (d.captureBillet port b).arb.capture := by
  unfold Dev.captureBillet
  split
  · have hrel : ∀ m : Dev, { m.arbRelease (6 * 4096 + port) with arb := m.arb } = m ∧
        (m.arbRelease (6 * 4096 + port)).arb.capture = m.arb.capture := by
      intro m
      unfold Dev.arbRelease
      split <;> exact ⟨rfl, rfl⟩
    obtain ⟨h1, h2⟩ := hrel (d.updArb (fun x => { x with capture := x.capture.filter (· != port), testReg := b.zeroExtend 768 }))
    refine ⟨(congrArg (fun m : Dev => { m with arb := d.arb }) h1 :), ?_⟩
    rw [h2]
    exact fun h => by simpa using (List.mem_filter.mp h).2
  · next h => exact ⟨rfl, by simpa using h⟩

/-- The grant is charged to the billet's job, and a capture ends: what neither reaches. -/
theorem Dev.charged_spec (m : Dev) (part : Option Nat) (port : Nat) (b : Billet) {q : Dev}
    (hq : (m.sclGrant .switch part).captureBillet port b = q) :
    q.fab = m.fab ∧ q.out = m.out ∧ port ∉ q.arb.capture ∧ q.f .FAB_LINK_TX_TX port = m.f .FAB_LINK_TX_TX port := by
  have hscl := Dev.scalerMoves.sclGrant m .switch part
  obtain ⟨hrest, hcap⟩ := (m.sclGrant .switch part).captureBillet_spec port b
  rw [hq] at hrest hcap
  refine ⟨(congrArg Dev.fab hrest :).trans (congrArg Dev.fab hscl.rest :), (congrArg Dev.out hrest :).trans (congrArg Dev.out hscl.rest :),
    hcap, (congrArg (fun d : Dev => d.f .FAB_LINK_TX_TX port) hrest :).trans ?_⟩
  exact congrArg Fld.FAB_LINK_TX_TX.of (hscl.reg .FAB_LINK_TX port 0 (by decide) (by decide))

/-- A billet that leaves by a link: its copy is gone, its credit is spent, and a control word follows where it ends a block. -/
theorem Dev.pass_link {d : Dev} {port since : Nat} {x : Slot} {k : Copy} (hport : port < 36) {n : Nat}
    (hn : SMap.get 0 d.fab.blk port + 1 = n) {e : Dev} (he : d.pass port since x k = e) :
    e.leftBy x.serial port ∧ port ∉ e.arb.capture ∧ e.fab.inject = d.fab.inject ∧ d.bumped e .FAB_LINK_TX_TX 1 port ∧
    SMap.get 0 e.fab.blk port = n ∧ ∃ b, e.out = d.out ++ .billet port b :: e.slotControl port n ∧ (bType k.b = 0 → b = k.b) ∧
      SMap.get 0 e.fab.sent (selKey port (bTc b) (bVc b)) = SMap.get 0 d.fab.sent (selKey port (bTc b) (bVc b)) + 1 := by
  have hstamp : bType k.b = 0 → d.stampAlign k.b since = k.b := fun h => if_neg (by omega)
  unfold Dev.pass at he
  simp only [hport, if_true] at he
  generalize d.stampAlign k.b since = b at *
  generalize (d.updFab (fun f => { f with used := f.used ++ [x.input] })).partOf x.job = part at he
  have hleft := Dev.leave_leftBy (d.updFab (fun f => { f with used := f.used ++ [x.input] })) x port
  have hmoves := (Dev.slotsMove.updFab d (fun f => { f with used := f.used ++ [x.input] })).trans (.leave _ x port)
  have hstill : ((d.updFab (fun f => { f with used := f.used ++ [x.input] })).leave x port).fab.blk = d.fab.blk ∧
      ((d.updFab (fun f => { f with used := f.used ++ [x.input] })).leave x port).fab.sent = d.fab.sent :=
    have h := Dev.leave_still (d.updFab (fun f => { f with used := f.used ++ [x.input] })) x port
    ⟨(congrArg FabSt.blk h :), (congrArg FabSt.sent h :)⟩
  have hinject := Dev.leave_inject (d.updFab (fun f => { f with used := f.used ++ [x.input] })) x port
  generalize (d.updFab (fun f => { f with used := f.used ++ [x.input] })).leave x port = m at *
  obtain ⟨hfab, hout, hcap, htx⟩ := m.charged_spec part port b rfl
  generalize (m.sclGrant .switch part).captureBillet port b = q at *
  have hb := (q.updFab (fun f => { f with
    sent := SMap.set 0 f.sent (selKey port (bTc b) (bVc b)) (SMap.get 0 f.sent (selKey port (bTc b) (bVc b)) + 1) })).bumped_addF
      .FAB_LINK_TX_TX 1 port 0 (by decide)
  rw [Dev.slotSent_eq _ (n := n) (by rw [← hn, ← hstill.1, ← hfab]; rfl)] at he
  subst he
  refine ⟨fun y hy => hleft y (hfab ▸ hy), hcap, (congrArg FabSt.inject hfab).trans hinject,
    hb.of_f (htx.trans (hmoves.switchMoves.f (f := .FAB_LINK_TX_TX) port 0 (by decide))), ?_, b, ?_, hstamp, ?_⟩
  · exact (SMap.get_set ..).trans (if_pos rfl)
  · have hdout : m.out = d.out := (congrArg Dev.out hmoves.rest :)
    rw [← hdout, ← hout]
    exact List.append_assoc ..
  · have hspent := SMap.get_set 0 q.fab.sent (selKey port (bTc b) (bVc b)) (selKey port (bTc b) (bVc b))
      (SMap.get 0 q.fab.sent (selKey port (bTc b) (bVc b)) + 1)
    rw [if_pos rfl] at hspent
    rw [← hstill.2, ← hfab]
    exact hspent

/-- A billet that an internal port takes keeps its slot and awaits its delivery. -/
theorem Dev.pass_port {d : Dev} {port since : Nat} {x : Slot} {k : Copy} (hport : 36 ≤ port) {e : Dev} (he : d.pass port since x k = e) :
    e.leftBy x.serial port ∧ port ∉ e.arb.capture ∧ e.fab.inject = d.fab.inject ∧ e.out = d.out ∧ e.fab.arrivals = d.fab.arrivals ++
      [⟨port, k.b, if x.input < 36 then some x.input else none, x.edge, x.since, x.serial⟩] := by
  unfold Dev.pass at he
  simp only [show ¬port < 36 by omega, if_false] at he
  have hleft := Dev.toPort_leftBy (d.updFab (fun f => { f with used := f.used ++ [x.input] })) x port k.b
  obtain ⟨hfab, hout, hcap, -⟩ := Dev.charged_spec _ _ port k.b he
  refine ⟨fun y hy => hleft y (hfab ▸ hy), hcap, ?_, hout, ?_⟩
  · rw [hfab]; rfl
  · rw [hfab]; rfl

/-! ## The output's turn -/

/-- An output that no emergency requester holds, or whose next billet the debug port captures, takes the billet of its choice. -/
theorem Dev.outputGrant_free {d : Dev} {port since : Nat} (hidle : d.fab.inject = [])
    (hfree : d.arbHeld (6 * 4096 + port) = false ∨ port ∈ d.arb.capture) :
    (∀ x k, ((d.beginCycle port).pickOutput port).2 = some (x, k) →
      d.outputGrant port since = (((d.beginCycle port).pickOutput port).1.pass port since x k).pump) ∧
    (((d.beginCycle port).pickOutput port).2 = none → port < 36 → d.linkUp port = true →
      d.outputGrant port since = ((d.beginCycle port).pickOutput port).1.slotSent port) := by
  have hcond : ¬(d.arbHeld (6 * 4096 + port) && !d.arb.capture.contains port) = true := by
    rcases hfree with h | h <;> simp [h]
  have hup : ∀ m : Dev, m.choosing = d.choosing → m.linkUp port = d.linkUp port := by
    intro m hm
    obtain ⟨-, -, -, -, -, hregs, -⟩ := Dev.choosing_spec hm
    unfold Dev.linkUp Dev.linkState Dev.f Dev.reg
    rw [hregs]
  have hchoice := ((d.beginCycle port).pickOutput_choosing port).trans (d.beginCycle_choosing port)
  unfold Dev.outputGrant
  dsimp only
  rw [if_neg hcond, Dev.pump_idle hidle]
  generalize (d.beginCycle port).pickOutput port = r at *
  obtain ⟨m, pick⟩ := r
  refine ⟨fun x k h => ?_, fun h hport hl => ?_⟩
  · cases h
    rfl
  · cases h
    simp [hport, hup m hchoice, hl]

theorem switchOutputGrant_spec (s : State) (port : Fin 44) (since : BitVec 16) (hidle : s.dev.fab.inject = []) {n : Nat}
    (hn : SMap.get 0 s.dev.fab.blk port + 1 = n) :
    (s.dev.arbHeld (6 * 4096 + port.val) = true → port.val ∉ s.dev.arb.capture →
      Completes (.switchOutputGrant ⟨port, since⟩) s (fun e => e.fab = s.dev.fab ∧ e.out = s.dev.out)) ∧
    (s.dev.arbHeld (6 * 4096 + port.val) = false ∨ port.val ∈ s.dev.arb.capture →
      (∀ (x : Slot) (k : Copy), ((s.dev.beginCycle port).pickOutput port).2 = some (x, k) →
        Completes (.switchOutputGrant ⟨port, since⟩) s (fun e =>
          (∀ y ∈ e.fab.slots, y.serial = x.serial → ∀ z ∈ y.copies, z.port ≠ port) ∧ port.val ∉ e.arb.capture ∧
          (port.val < 36 → s.dev.bumped e .FAB_LINK_TX_TX 1 port ∧ SMap.get 0 e.fab.blk port = n ∧
            ∃ b, e.out = s.dev.out ++ .billet port b :: e.slotControl port n ∧ (bType k.b = 0 → b = k.b) ∧
              SMap.get 0 e.fab.sent (selKey port (bTc b) (bVc b)) =
                SMap.get 0 s.dev.fab.sent (selKey port (bTc b) (bVc b)) + 1) ∧
          (36 ≤ port.val → e.out = s.dev.out ∧ e.fab.arrivals = s.dev.fab.arrivals ++
            [⟨port, k.b, if x.input < 36 then some x.input else none, x.edge, x.since, x.serial⟩]))) ∧
      (((s.dev.beginCycle port).pickOutput port).2 = none → port.val < 36 → s.dev.linkUp port = true →
        Completes (.switchOutputGrant ⟨port, since⟩) s (fun e => e.fab.slots = s.dev.fab.slots ∧ e.regs = s.dev.regs ∧
          SMap.get 0 e.fab.blk port = n ∧ e.out = s.dev.out ++ e.slotControl port n))) := by
  have hrow : ∀ P : Dev → Prop, P (s.dev.outputGrant port since.toNat).settle → Completes (.switchOutputGrant ⟨port, since⟩) s P :=
    fun P h => Completes.of_act (g := fun d => d.outputGrant port since.toNat) rfl h
  have hchoice := ((s.dev.beginCycle port).pickOutput_choosing port).trans (s.dev.beginCycle_choosing port)
  obtain ⟨hslots, hinject, hblk, hsent, harr, hregs, hout, -⟩ := Dev.choosing_spec hchoice
  refine ⟨fun hheld hcap => hrow _ ?_, fun hfree => ⟨fun x k hpick => hrow _ ?_, fun hpick hport hup => hrow _ ?_⟩⟩
  · rw [show s.dev.outputGrant port since.toNat = s.dev.arbRelease (6 * 4096 + port) from if_pos (by simpa [hheld] using hcap)]
    unfold Dev.arbRelease
    split <;> exact ⟨rfl, rfl⟩
  · rw [(Dev.outputGrant_free hidle hfree).1 x k hpick]
    generalize ((s.dev.beginCycle port).pickOutput port).1 = m at *
    have htx : m.f .FAB_LINK_TX_TX port = s.dev.f .FAB_LINK_TX_TX port := by
      unfold Dev.f Dev.reg
      rw [hregs]
    rw [← hblk] at hn
    by_cases hport : port.val < 36
    · obtain ⟨hleft, hcap, hinj, hb, hn, b, ho, htype, hs⟩ := Dev.pass_link hport hn (rfl : m.pass port since.toNat x k = _)
      rw [Dev.pump_idle (hinj.trans (hinject.trans hidle))]
      exact ⟨hleft, hcap, fun _ => ⟨hb.of_f htx, hn, b, by rw [← hout]; exact ho, htype, by rw [← hsent]; exact hs⟩,
        fun h => absurd hport (by omega)⟩
    · obtain ⟨hleft, hcap, hinj, ho, ha⟩ := Dev.pass_port (by omega) (rfl : m.pass port since.toNat x k = _)
      rw [Dev.pump_idle (hinj.trans (hinject.trans hidle))]
      exact ⟨hleft, hcap, fun h => absurd h hport, fun _ => ⟨ho.trans hout, by rw [← harr]; exact ha⟩⟩
  · rw [(Dev.outputGrant_free hidle hfree).2 hpick hport hup]
    generalize ((s.dev.beginCycle port).pickOutput port).1 = m at *
    rw [Dev.slotSent_eq m (n := n) (by rw [hblk]; exact hn), ← hout]
    exact ⟨hslots, hregs, (SMap.get_set ..).trans (if_pos rfl), rfl⟩

end Sys2Proof.Machine
end

section
/-! PROOFS. Delivery to the engines, and the Switch Core's commands together (R252, R267; settles O55). -/

namespace Sys2Proof.Machine

/-- A billet that is discarded at its delivery has left its slot; the rest of the Switch Core is as it was. -/
theorem Dev.consume_arrivals (d : Dev) (a : Arrival) : (d.consume a).fab.arrivals = d.fab.arrivals :=
  (FabSt.still_spec (d.consume_still a)).2.1

theorem internalDelivery_spec (s : State) (port : Fin 44) {a : Arrival} (hstall : s.dev.stalled = false)
    (hfind : s.dev.fab.arrivals.find? (fun a => a.port == port.val) = some a) {own : Bool} {m : Dev}
    (hown : ((s.dev.partOf (bJob a.b)).isSome || (bJob a.b == 0 && (bTc a.b == 4 || bTc a.b == 6))) = own)
    (hm : s.dev.updFab (fun f => { f with arrivals := f.arrivals.erase a }) = m) :
    Completes (.internalDelivery port) s (fun e => e.fab.arrivals = s.dev.fab.arrivals.erase a ∧ s.dev.noneEnds e ∧
      (badControl a.b = true → s.dev.bumped e .FAB_DROP_MALFORMED 1 ∧ e.fab = (m.consume a).fab) ∧
      (badControl a.b = false → own = true → e.fab.inbox = s.dev.fab.inbox ++ [a] ∧ e.fab.slots = s.dev.fab.slots ∧
        e.regs = s.dev.regs ∧ e.link = s.dev.link) ∧
      (badControl a.b = false → own = false → s.dev.bumped e .FAB_DROP_REJECT_JOB 1 ∧ e.fab = (m.consume a).fab)) := by
  refine Completes.of_engine (g := fun d => d.deliver port) rfl hstall ?_
  have hrow : s.dev.deliver port.val = if badControl a.b then (m.consume a).dropMalformed
      else if own then m.updFab (fun f => { f with inbox := f.inbox ++ [a] })
      else ((m.consume a).addF .FAB_DROP_REJECT_JOB 1).postFirst .FAB_JOB_REJECT 0 0 (bJob a.b) { job := bJob a.b } := by
    subst hown hm
    unfold Dev.deliver
    rw [hfind]
    rfl
  have harr : m.fab.arrivals = s.dev.fab.arrivals.erase a := by rw [← hm]; rfl
  have hdrop : (m.consume a).dropped = s.dev.dropped := (m.consume_dropped a).trans (by rw [← hm]; rfl)
  have hkept : (m.consume a).kept = s.dev.kept := (Dev.consume_kept m a).trans (by rw [← hm]; rfl)
  have hends : ∀ x : Dev, x.kept = s.dev.kept → s.dev.noneEnds x.settle := fun x hx =>
    Dev.noneEnds_of_kept ((Dev.settle_kept x).trans hx)
  rw [hrow]
  have hconsumed : (m.consume a).fab.arrivals = s.dev.fab.arrivals.erase a := (m.consume_arrivals a).trans harr
  by_cases hbad : badControl a.b = true
  · rw [if_pos hbad]
    have hfab := (m.consume a).dropMalformed_fab
    exact ⟨(congrArg FabSt.arrivals hfab).trans hconsumed, hends _ ((Dev.dropMalformed_kept _).trans hkept),
      fun _ => ⟨Dev.dropMalformed_bumped hdrop, hfab⟩,
      fun h => absurd hbad (by simp [h]), fun h => absurd hbad (by simp [h])⟩
  rw [if_neg hbad]
  cases own with
  | true =>
    rw [if_pos rfl]
    refine ⟨harr, hends _ (by rw [← hm]; rfl), fun h => absurd h hbad, fun _ _ => ?_, fun _ => by rintro ⟨⟩⟩
    rw [← hm]
    exact ⟨rfl, rfl, rfl, rfl⟩
  | false =>
    rw [if_neg Bool.false_ne_true]
    have hfab := ((m.consume a).addF .FAB_DROP_REJECT_JOB 1).post_fab_eq .FAB_JOB_REJECT 0 0 (bJob a.b) { job := bJob a.b }
    exact ⟨(congrArg FabSt.arrivals hfab).trans hconsumed,
      hends _ ((Dev.postFirst_kept ..).trans ((Dev.addF_kept _ _ _ _ _ (by decide)).trans hkept)), fun h => absurd h hbad, fun _ => by rintro ⟨⟩,
      fun _ _ => ⟨Dev.dropped_postFirst hdrop .FAB_DROP_REJECT_JOB rfl (by decide) .., hfab⟩⟩

/-- Settles O55: what a link's arrivals, an output's turn, a control word and a delivery do, over every state of the device. -/
theorem switchCoreMovesBillets : Obligations.SwitchCoreMovesBillets := by
  unfold Obligations.SwitchCoreMovesBillets
  exact fun s => ⟨billetReceive_spec s, fun port since hidle => switchOutputGrant_spec s port since hidle rfl,
    fun l w hup => linkControlWord_spec s l w hup rfl rfl rfl, fun port a hstall hfind => internalDelivery_spec s port hstall hfind rfl rfl⟩

end Sys2Proof.Machine
end

section
/-! PROOFS. A collective whose context shares its serial number with another (CollectivesRun, R285, R294). -/

namespace Sys2Proof.Machine

/-- An ALL_REDUCE of one FP32 element between two members, of which this is rank 0. -/
def sharedReduce : Cmd := { newCmd 0 1 (5#512 ||| 1#512 <<< 376 ||| 1#512 <<< 448) with launched := true, parts := 2 }

/-- A context that has nothing left to send, hear or write, and whose only close round is over. -/
def spentCtx : CollCtx :=
  { serial := 0, part := 0, job := 0, cid := 0, cmd := some 0, since := 0, peers := [], msgs := [], chunks := [], credits := []
    closes := [], rounds := 1, suspect := false, notices := [], failed := [], out := [], written := true }

/-- A context of the same serial number, whose chunk lies in a Landing buffer beyond the end of HBM and is to be sent. -/
def strayCtx : CollCtx :=
  { serial := 0, part := 1, job := 1, cid := 0, cmd := none, since := 0, peers := [⟨1, 1, 1, 0⟩], msgs := []
    chunks := [{ chunk := 0, done := 1, freed := 0, vals := [], sent := [], stored := some 1 }], credits := [], closes := []
    rounds := 0, suspect := false, notices := [], failed := [], out := [], written := false, bufs := [[(0, 2 ^ 60)]] }

/-- A device with the spent collective in flight, and the stray context before its own. -/
def sharedSerial : Dev :=
  { State.reset.dev with cmds := [sharedReduce], coll := { State.reset.dev.coll with ctxs := [strayCtx, spentCtx] } }

/-- What the statement asks of the collective: running, written, its last close round over, and every chunk through. -/
theorem sharedSerial_closes :
    sharedSerial.stalled = false ∧ sharedSerial.cmd? 0 = some sharedReduce ∧ sharedReduce.running = true ∧
    sharedSerial.collOf 0 = some spentCtx ∧ sharedReduce.opcode = 5 ∧ sharedReduce.closeStages = [1] := by decide +kernel

/-- Its next step sends the other context's chunk, cannot read it, and fails the collective's own part. -/
theorem sharedSerial_fails : ((sharedSerial.collective 0).cmd? 0).map Cmd.ready = some false := by decide +kernel

/-- What the statement says of a collective whose chunks and close rounds are done. -/
theorem ready_of_collectivesRun (h : Obligations.CollectivesRun) {d : Dev} {id : Nat} {c : Cmd} {x : CollCtx}
    (hstall : d.stalled = false) (hc : d.cmd? id = some c) (hrun : c.running = true) (hx : d.collOf id = some x) (hop : c.opcode = 5)
    (hready : c.ready = false) (hwritten : x.written = true) (hrounds : x.rounds = c.closeStages.length)
    (hover : ∀ g, c.closeStages.getLast? = some g → x.roundDone g = true)
    (hchunks : ∀ k ∈ x.chunks, k.done = c.cSteps.length ∧ k.freed = k.done ∧ c.toSend x k = []) :
    ((d.collective id).cmd? id).map Cmd.ready = some true := by
  obtain ⟨t, hexec, -, -, -, k, hk, hkready, -⟩ :=
    ((h.1 ⟨d, []⟩ hstall).1 id c x hc hrun hx).1 hop hready hwritten hrounds hover hchunks
  have hrow : exec (.collective id) ⟨d, []⟩ = .next { dev := (d.collective id).settle, pending := [] } :=
    State.engine_eq ⟨d, []⟩ (fun d => d.collective id) hstall
  obtain rfl := Host.Outcome.next.inj (hrow.symm.trans hexec)
  exact congrArg (Option.map Cmd.ready) hk |>.trans (congrArg some hkready)

/-- Refutes O58: COLLECTIVE sends the chunks of the first context with its context's serial number; where a context of another
command bears the same number, that one's unreadable chunk fails a collective that has nothing left to do. -/
theorem not_collectivesRun : ¬ Obligations.CollectivesRun := fun h => by
  obtain ⟨hstall, hc, hrun, hx, hop, hstages⟩ := sharedSerial_closes
  have hready := ready_of_collectivesRun h hstall hc hrun hx hop rfl rfl (by rw [hstages]; rfl) (fun _ _ => rfl) (by rintro k ⟨⟩)
  rw [sharedSerial_fails] at hready
  exact absurd hready (by decide)

end Sys2Proof.Machine
end

section
/-! PROOFS. A failed check of an array in a command of more than one part (LayerWorkRuns, R55, R163). -/

namespace Sys2Proof.Machine

/-- A launched command of two parts. -/
def twoParts : Cmd := { newCmd 0 1 (0x0001#512) with launched := true, parts := 2 }

/-- A device with that command in flight. -/
def twoPartDevice : Dev := { State.reset.dev with cmds := [twoParts] }

/-- The failed check fails the command's part 0, and so reaches it as PART_FAILED. -/
theorem twoPartDevice_causes : ((twoPartDevice.checkFails 0 0 false 0 0 0).cmd? 0).map Cmd.causes = some [.partFailed] := by
  decide +kernel

/-- What the statement says of the cause of a failed check. -/
theorem faultData_of_layerWorkRuns (h : Obligations.LayerWorkRuns) {d : Dev} {id : Nat} {k : Cmd} (hk : d.cmd? id = some k)
    (hend : k.ended = false) (arr : Fin 152) (shadow : Bool) (column row outCol : Nat) :
    ∃ cs, ((d.checkFails id arr shadow column row outCol).cmd? id).map Cmd.causes = some cs ∧ .faultData ∈ cs := by
  obtain ⟨-, ⟨q, hq, hcause⟩, -⟩ := h.2 d id arr shadow column row outCol k hk hend
  exact ⟨q.causes, congrArg (Option.map Cmd.causes) hq, hcause⟩

/-- Refutes O46: a failed check is a failure of part 0 of the command it is made for, so a command of two parts is left with
PART_FAILED and without FAULT_DATA; the statement's last clause does not ask that the command have one part. -/
theorem not_layerWorkRuns : ¬ Obligations.LayerWorkRuns := fun h => by
  obtain ⟨cs, hcs, hcause⟩ := faultData_of_layerWorkRuns h (d := twoPartDevice) (id := 0) (k := twoParts) rfl rfl 0 false 0 0 0
  obtain rfl := Option.some.inj (twoPartDevice_causes.symm.trans hcs)
  exact absurd hcause (by decide)

end Sys2Proof.Machine
end
